-- ==== Sys2Proof/Word.lean ====
section
/-! DEFINITION. The register word of R14 (every register is 32 bits wide) and the byte of memory. -/
namespace Sys2Proof
set_option Elab.async false

/-- A register word (R14). -/
abbrev Word := BitVec 32

/-- A byte of memory. -/
abbrev Byte := BitVec 8

end Sys2Proof
end

