-- ==== Sys2Proof/Syntax.lean ====
section
/-! DEFINITION. The commands of the block: one constructor per row of spec/opcode_table.json, with what arrives with it as
operands. Dies are numbered 0-3 for C0-C3, 4 for SA and 5 for SB. `req` is the requester code of R439. Camera ports,
streams and pipelines have their device-wide numbers (R7). Times that arrive are stamps in units of 2^-16 ns unless a
constructor says otherwise. -/
namespace Sys2Proof
set_option Elab.async false

/-- The size of a core access (R450). -/
inductive AccSize where
  | b1 | b2 | b4 | b8 | amo
  deriving DecidableEq, Repr

/-- An access that reaches a concentrator die in the same CCLK cycle as the command's own (R35): its offset and size, its requester, and
the value where it is a write. -/
structure Rival where
  off : Nat
  size : AccSize
  req : Nat
  value : Option Nat
  deriving DecidableEq, Repr

/-- What the analogue loops of a port's receiver made of the symbols of a command (R98, R99, R101, R102): the net change of the 8 DFE taps,
LVL_SPACE in mV, the echo suppression in dB, and the movement of the sampling phase in steps of 1/64 symbol. -/
structure Adapt where
  taps : List Int := []
  lvl : Nat := 0
  echo : Nat := 30
  phase : Int := 0
  deriving DecidableEq, Repr

/-- A word of a line buffer read with an uncorrectable error (R289, R325): the line, whether it is of the second buffer (D of the raw stage,
the IR plane of finishing), and the line's values as read. -/
structure BufErr where
  line : Nat
  second : Bool := false
  px : List Nat
  deriving DecidableEq, Repr

/-- What a producer supplies of a record's header (R335, R399); `time` in units of 2^-16 ns. -/
structure RecHdr where
  typ : Nat
  flags : Nat := 0
  stream : Nat := 0xFFFF
  source : Nat := 0
  frame : Nat := 0
  line : Nat := 0
  nlines : Nat := 0
  time : Nat := 0
  deriving DecidableEq, Repr

/-- What the check words of cells and link RAM find on a pop (R347, R361): nothing, an error they correct, an error in a header
word, one in the `w`-th payload word still to be delivered, or one in the link entry of the `i`-th record of the undelivered or
the retained list. -/
inductive PopErr where
  | none | corrected | header
  | payload (w : Nat)
  | link (retained : Bool) (i : Nat)
  deriving DecidableEq, Repr


/-- What a recovery scan reads of one lane (R545): its zone, the zone's header (block 0 of the zone, R526), the zone's write pointer,
and the bytes from the block at which the scan starts up to the write pointer. -/
structure LaneScan where
  zone : Nat
  header : List Byte
  wp : Nat
  data : List Byte
  deriving DecidableEq, Repr

/-- What a probe finds of a drive (R521, R525, R550): the requirements of R521, sizes in bytes or logical blocks, resources with
none for unlimited, NPWG with 0 for absent, whether every zone is empty, and the identity it holds with its first-use time in
seconds. -/
structure DriveInfo where
  version : Bool := true
  lba4k : Bool := true
  flush : Bool := true
  zns : Bool := true
  zasl : Nat := 262144
  zoneCap : Nat := 65536
  zoneSize : Nat := 65536
  zones : Nat := 64
  resources : Option Nat := none
  npwg : Nat := 0
  capacity : Nat := 0
  endurance : Option Nat := none
  blank : Bool := true
  identity : Option (Nat × Nat) := none
  sn : List Byte := []
  mn : List Byte := []
  deriving DecidableEq, Repr

/-- What the boot ROM of a steward finds outside the block (R667, R681): whether LPDDR5X trains, and the flash size of SFDP in MiB. -/
structure BootResult where
  memOk : Bool := true
  flashMiB : Nat := 64
  deriving DecidableEq, Repr

/-- The commands. -/
inductive Instr where
  -- Architecture and register access (R14, R26, R47, R452)
  | regWrite (die off req : Nat) (size : AccSize) (v : Nat) (rival : Option Rival)
  | rcRead (die off req : Nat) (size : AccSize) (rival : Option Rival)
  | counterPairRead (die off req : Nat)
  | roleMove
  | clockLoss (absent : Nat)
  | clockRestore (present : Nat)
  -- Device time (R54-R89)
  | rateActivation
  | nowRead (die req : Nat)
  | ppscapRead (die req : Nat)
  | ppsEdge (frac : Nat) (falling : Bool)
  | ppsSourceLost
  | holdLimitExceeded
  | alignTick
  | alignReplyRx (die t1 rxStamp txStamp : Nat)
  | alignCorrectionRx (die : Nat) (corr : Int)
  | tbSet (die req v : Nat)
  | tbSlew (die req v : Nat)
  | tbRate (die req v : Nat)
  | tbCancel (die req v : Nat)
  | slewDone
  | timeStep
  | ppsOutStart
  | ppsOutEnd
  | alarmCommit (die alarm req v : Nat)
  | alarmFire (die alarm : Nat)
  | dealTx (port : Nat)
  | dealRx (port tArr : Nat) (groups : List Nat)
  | dealTimeout
  | alignMsgRx (die t1 : Nat)
  -- Jezon Link, physical layer (R97-R141)
  | lpCommit (port req v : Nat)
  | lpRetrain (port req v : Nat)
  | lpFullRetrain (port req v : Nat)
  | lpFaultClear (port req v : Nat)
  | lpPortReset (port req v : Nat)
  | portResetOffDone (port : Nat)
  | sigDet (port mv held : Nat) (ad : Adapt)
  | coarseLock (port : Nat) (ad : Adapt)
  | trainingFrameRx (port : Nat) (lvls : List Nat) (ad : Adapt)
  | eqConverged (port ctle : Nat)
  | tapTimeout (port : Nat)
  | trainTimeout (port : Nat)
  | headLost (port : Nat)
  | freqErr (port : Nat) (ppm : Int) (held : Nat)
  | faultHoldExpire (port : Nat)
  | idleExit (port : Nat)
  | relockFail (port : Nat)
  | esStart (port req v : Nat)
  | esStop (port req v : Nat)
  | esPointDone (port errors : Nat)
  | trainingSetRx (port : Nat) (groups : List Nat)
  -- Jezon Link, blocks, packets and back-channel (R142-R193)
  | forwardBlockRx (port frac : Nat) (lvls : List Nat) (ad : Adapt)
  | markerRx (port sym frac : Nat) (lvls : List Nat) (ad : Adapt)
  | packetRx (port : Nat)
  | dlyEchoRx (port : Nat)
  | headCapsRx (port : Nat)
  | headReportRx (port : Nat)
  | busResultRx (port : Nat)
  | gwRspRx (port : Nat)
  | vendorRx (port : Nat)
  | beaconTx (port : Nat)
  | dlyMarkTx (port : Nat)
  | dlyMarkTimeout (port markId : Nat)
  | headQueryTx (port : Nat)
  | bchMsgSend (port : Nat)
  | txGo (port req v : Nat)
  | busTimeout (port id : Nat)
  | dlyMarkRx (port sym : Nat) (groups : List Nat)
  | headQueryRx (port : Nat) (groups : List Nat)
  | gwReqRx (port : Nat) (groups : List Nat)
  | rxPop (port req : Nat)
  | rxStatRead (port req : Nat)
  -- Stream ingest (R194-R227)
  | frameStart (port : Nat)
  | frameEnd (port : Nat)
  | imageLine (port : Nat)
  | genericShortPacket (port : Nat)
  | sidePacket (port : Nat)
  | breakEntry (port : Nat)
  | frameTimeout (stream : Nat)
  | siCommit (stream req v : Nat)
  | plCommit (pipe req v : Nat)
  | paFlush (pipe req v : Nat)
  | paCtlWrite (pipe req v : Nat)
  | fsTimeRead (stream req : Nat)
  -- Exposure scheduling (R228-R254)
  | occurrenceDecide (stream : Nat) (fresh : Bool)
  | pulseIssue (port : Nat)
  | pulseWithdraw (port : Nat)
  | schedCommit (die req v : Nat)
  | schedCancel (die req v : Nat)
  | schedCheckDone
  | schedDistFail
  | schedActivate
  | stepAnnounce
  | expLenWrite (stream req v : Nat)
  | leadWrite (port : Nat) (margin : Bool) (req v : Nat)
  -- Pipeline raw stage (R255-R295); `asRead` is the line as read from a word with an uncorrectable error (R206), `bufErr` such
  -- a word of a line buffer (R289, R325)
  | pipelineLine (pipe : Nat) (asRead : Option (List Byte)) (bufErr : Option BufErr)
  | pipelineFrameDone (pipe : Nat) (bufErr : Option BufErr)
  | plReset (pipe req v : Nat)
  | mapWrite (pipe bank entry req v : Nat)
  -- Finishing stage (R296-R329)
  | finLineTake (die : Nat) (bufErr : Option BufErr)
  | finFrameDone (pipe : Nat) (bufErr : Option BufErr)
  -- The basin (R330-R361, R434)
  | cellRequest (die : Nat) (producers : List Nat)
  | recordClose (die producer : Nat) (h : RecHdr) (payload : List Byte)
  | notifyRepeat (die queue : Nat)
  | queueAgeReady (die queue : Nat)
  | popRead (die queue n : Nat) (err : PopErr)
  | qAck (die queue n : Nat)
  | qReplay (die queue : Nat)
  | qFlush (die queue : Nat)
  | replaySa (die : Nat) (both : Bool)
  | replaySb (die : Nat) (both : Bool)
  | pushWrite (die queue path : Nat) (data : List Byte)
  | pushEnd (die queue path m : Nat)
  | basinBadAccess (die off : Nat)
  | directWrite (die addr : Nat) (data : List Byte)
  | fencePushRetry (die queue : Nat)
  -- Barges (R364-R398); `e` engine, `c` channel, `v` the CH_CMD or ENG_CMD word
  | chStart (die e c req v : Nat)
  | chAbort (die e c req v : Nat)
  | chAbortQuiet (die e c req v : Nat)
  | chResume (die e c req v : Nat)
  | chReset (die e c req v : Nat)
  | abortAll (die e req v : Nat)
  | abortAllQuiet (die e req v : Nat)
  | engineDispatch (die e : Nat)
  | moveInsn (die e : Nat)
  | moveStep (die e : Nat) (err : PopErr)
  | loopInsn (die e : Nat)
  | waitInsn (die e : Nat)
  | waitTimeRelExpire (die e c : Nat)
  | waitTimeAbsReached (die e c : Nat)
  | signalInsn (die e : Nat)
  | signalPulse (die e c : Nat)
  | endInsn (die e : Nat)
  | endComplete (die e c : Nat)
  | writeRetry (die e c : Nat) (err : PopErr)
  | lateError (die e c addr : Nat)
  | abortComplete (die e c : Nat)
  | ringAdd (die e c req v : Nat)
  | ringLogWrite (die e c req v : Nat)
  | ringTotalRead (die e c req : Nat)
  | chCfgWrite (die e c off req v : Nat)
  -- The merged uplink (R407-R437); the mailbox rows stand with the dictionary
  | functionLevelReset (st : Nat)
  | doorbell (st k head : Nat)
  | doorbellConfirm (st k : Nat)
  | tailAck (st k : Nat)
  | ringVector (st k : Nat)
  | carrierMove (stream st : Nat)
  | epDrain (st req v : Nat)
  | epDrainDone (st m : Nat)
  | shedPlan (st : Nat)
  | shedHoldExpire (st stream : Nat)
  | acceptStallExpire (st : Nat)
  | uplinkLinkChange (st width rate : Nat) (up bme d3hot : Bool) (mps : Nat)
  | postedCreditGrant (st : Nat)
  | flrComplete (st : Nat)
  | dbShadowWrite (st k req v : Nat)
  -- Die-to-die fabric (R438-R460); `m` is the module of the die: 0 U_A, 1 U_B; on a steward 0-3 U_C0-U_C3, 4 U_X
  | flitRx (die m : Nat) (crcOk phyErr : Bool)
  | odvelWrRx (die m req addr : Nat) (data : List Byte)
  | odvelRdRx (die m req tag addr len : Nat)
  | odvelCplRx (die m tag : Nat)
  | modCmdRetrain (die m req v : Nat)
  | modCmdDown (die m req v : Nat)
  | modCmdUp (die m req v : Nat)
  | moduleTrained (die m width : Nat)
  | moduleRetrainDone (die m width : Nat)
  | retrainLimitExpire (die m : Nat)
  | npTimeout (die m tag : Nat)
  | pfMarkWrite (st m mark req : Nat) (limit : Bool) (v : Nat)
  | pfFlush (st m req : Nat)
  | pfLineExpire (st m : Nat)
  | semAcq (die n req rival : Nat)
  | semRel (die n req : Nat)
  | semForceOwner (die req v : Nat)
  | semForceAll (die req v : Nat)
  -- Interrupts (R461-R472)
  | irqLevelChange (die n : Nat)
  | sidebandUp (die m : Nat)
  | snapSa (die req v : Nat)
  | snapSb (die req v : Nat)
  | swSet (die req v : Nat)
  | swClr (die req v : Nat)
  | ctxClaim (st k req : Nat)
  | ctxComplete (st k req v : Nat)
  | kpClaim (die core req : Nat)
  | kpComplete (die core req v : Nat)
  -- Event fabric (R473-R500)
  | channelEvent (die : Nat)
  | clockedDelivery (die : Nat)
  | cellRegPulse (die cell : Nat)
  | cellStableExpire (die cell : Nat)
  | holdoffExpire (die cell : Nat)
  | windowOpen (die w : Nat)
  | windowClose (die w : Nat)
  | pinFilterAccept (die pin stamp held : Nat) (level : Bool)
  | pinPulseEnd (die pin : Nat)
  | eventRecordWrite (die : Nat)
  | relayForward (st : Nat)
  | relayMsgRx (die : Nat)
  | relayEmit (die : Nat)
  | efCommit (die req v : Nat)
  | efCheckDone (die : Nat)
  | efShadowWrite (die off req v : Nat)
  | cellClr (die cell req v : Nat)
  | swPulse (die req v : Nat)
  -- Axis inputs (R501-R520); `axis` is device-wide, `levels` the filtered levels of I2, I1, I0, `stamp` that of the sample
  | axisCount (axis levels stamp held : Nat)
  | axisIndex (axis stamp held : Nat)
  | ssiPoll (axis : Nat)
  | ssiFrameDone (axis word : Nat) (highOk : Bool)
  | observerUpdate (axis : Nat)
  | illWinExpire (axis : Nat)
  | axCommit (axis req v : Nat)
  | axRef (axis req v : Nat)
  | armHome (axis req v : Nat)
  | clrCount (axis req v : Nat)
  | axisRecPeriodic (axis : Nat)
  | axisRecordWrite (axis : Nat)
  | axisCountRead (axis req : Nat)
  -- Journal and recording drive (R521-R554)
  | journalTake (st k : Nat) (poison : Bool)
  | commitNow (st req v : Nat)
  | commitLatMax (st : Nat)
  | commitLatMin (st : Nat)
  | appendDone (st lane lba : Nat) (ok : Bool)
  | appendRetry (st lane : Nat)
  | flushDone (st : Nat) (ok : Bool)
  | anchorWriteDone (st : Nat) (peerOk : Bool)
  | driveLost (st : Nat)
  | forwardedRecordRx (st : Nat)
  | jseqLease (st : Nat)
  | budgetUpdate (st : Nat)
  | wearRead (st units pct : Nat) (media endurance : Option Nat)
  | driveAsyncEvent (st : Nat)
  | clipTrigger (st : Nat)
  | clipWindowClose (st clip : Nat)
  | prerollExpire (st : Nat)
  | weirEnter
  | weirExit
  | journalRecovery (st : Nat) (lanes : List LaneScan) (full : List (Nat × Nat)) (badSlots : List Nat) (corrected : Nat)
  | detach (st req v : Nat)
  | attach (st req v : Nat)
  | initDrive (st req v : Nat)
  | rescan (st req v : Nat)
  | driveProbe (st : Nat) (d : DriveInfo)
  | driveRemoved (st : Nat)
  | driveLinkTry (st : Nat) (trains : Bool)
  -- Power cuts and hold-up (R555-R577)
  | pwrFail (low : Nat)
  | railUndervolt (die rail mv ns : Nat)
  | huTestStart (st : Nat)
  | testNow (st req v : Nat)
  | huTestRetry (st : Nat)
  | huSample (st code : Nat)
  | huTestTimeout (st : Nat)
  | huResultRx (st : Nat)
  | huResultExpire (st : Nat)
  | windowUpdate (st : Nat)
  | finalDone (st : Nat) (shst : Bool)
  | powerResume (high : Nat)
  | huCommit (st req v : Nat)
  -- Availability and integrity (R578-R610)
  | heartbeatTx (die m : Nat)
  | heartbeatRx (die m : Nat)
  | heartbeatMiss (die m : Nat)
  | failoverRestart (st : Nat)
  | peerReset (st req v : Nat)
  | plannedStop (st req v : Nat)
  | cancelStop (st req v : Nat)
  | plannedStopExpire (st : Nat)
  | returnHoldExpire (st : Nat)
  | stackFailed (st : Nat) (training : Bool) (words : Nat)
  | keeperWatchdog (die core : Nat)
  | scrubRead (die addr data check : Nat) (meets last : Bool)
  | passLate (die : Nat)
  | ckStart (die u req v : Nat)
  | ckStop (die u req v : Nat)
  | ckMemDone (die u : Nat)
  -- The mailbox and the object dictionary (R416, R611-R651)
  | mbRequest (st req v : Nat)
  | mbDone (st : Nat)
  | mbRelease (st req v : Nat)
  | dictRequest (call : Option (Nat × List Byte))
  | storeDone
  | atTime
  | gwTimeout (port trans : Nat)
  | usdoTransfer (st : Nat) (write : Bool) (idx sub off len : Nat) (data : List Byte)
  | rpdoRx (st n : Nat) (data : List Byte)
  | syncRx (st : Nat)
  | tpdoEventTimer (st n : Nat)
  | tpdoChangeCheck (st : Nat)
  -- Management, flash and debug ports (R652-R676)
  | nmtCommand (st cmd node : Nat)
  | canHeartbeatTx (st : Nat)
  | busOff (st errs : Nat)
  | busOffRecover (st : Nat)
  | recover (st req v : Nat)
  | i2cPointerWrite (st addr ptr : Nat)
  | i2cRequest (st : Nat) (data : List Byte)
  | i2cRead (st addr n : Nat) (late : List Nat) (cut : Bool)
  | stuckRelease (st held : Nat)
  | sclTimeout (st low : Nat)
  | rsAbandon (st : Nat) (restart : Bool)
  | i2cReset (st req v : Nat)
  | flashProgram (st req v : Nat)
  | erase4k (st req v : Nat)
  | erase64k (st req v : Nat)
  | qspiDone (st : Nat) (ok : Bool)
  | idcode
  | bypass
  | samplePreload
  | extest
  | clampBalls
  | highZ
  | dtmcs
  | dmi (op addr data : Nat)
  | dieSel (v : Nat)
  | debugAuth (die level : Nat)
  | authLockoutExpire (die : Nat)
  | jtagTrst
  | debugHalt (die hart : Nat)
  | debugResume (die hart : Nat)
  | debugStep (die hart : Nat)
  | sysbusAccess (die addr size : Nat) (write : Bool) (data : Nat)
  | ndmreset (die : Nat)
  | dbgHaltLimit (st : Nat)
  -- Start-up and shutdown (R557, R677-R696)
  | railReset (die rail mv ns : Nat)
  | resetAssert
  | resetRelease (profSel : Nat)
  | bootRom (st : Nat) (r : BootResult)
  | bootReady (st req v : Nat)
  | leadWaitExpire (st : Nat)
  | bootWarm (st req v : Nat)
  | bootShutdown (st req v : Nat)
  | bootRetry (st req v : Nat)
  | pfWaitEnd (st high : Nat)
  | kpLoadData (die req v : Nat)
  | kpVerify (die req v : Nat)
  | verifyDone (die : Nat)
  | reqIdle (die req v : Nat)
  | kpIdle (die req v : Nat)
  | kpHoldWrite (die req v : Nat)
  | rootCommit (st req v : Nat)
  -- Electrical, thermal and package (R697-R724)
  | upPerst (st : Nat)
  | drPerstRelease (st : Nat)
  | sequenceFault
  | pccFrame (die status : Nat) (low : Bool)
  | pccFltFall (die status : Nat)
  | pgTimeout (port : Nat)
  | overtemp (die : Nat) (temp : Int)
  | overtempCritical (die : Nat) (temp : Int) (ns : Nat)
  deriving DecidableEq, Repr

end Sys2Proof
end

