-- ==== Sys2Proof/Decode.lean ====
section
/-! DEFINITION. The commands that words spell. No row of the opcode table gives bits, so no word spells one: commands reach the block as
accesses, packets, pins and the passing of time, never as encoded words. -/
namespace Sys2Proof
set_option Elab.async false

/-- The command a word of `nbits` bits spells: none, since the table gives no row any bits. -/
def decodeTableWord (nbits w : Nat) : Option Instr :=
  let _ := nbits + w
  none

end Sys2Proof
end

