-- ==== Sys2Proof/Machine/Crypto.lean ====
section
/-! DEFINITION. The integrity functions that the spec names: the check words of memories (R595, R596), SHA-256, and ECDSA over P-256 with
SHA-256 (R672, R681, R683). SHA-256 is that of FIPS 180-4 and the curve and the verification are those of FIPS 186-4, which the spec names by
name only (PRESUMED, log entry 106). -/
namespace Sys2Proof.Machine
set_option Elab.async false

/-! ## Check words (R595, R596) -/

/-- g(x) = m1(x) × m3(x): m1 = x^7 + x^3 + 1, m3 = x^7 + x^3 + x^2 + x + 1, the minimal polynomial of α^3. Bit j is the coefficient of x^j. -/
def checkGen : Nat := 0x89 ^^^ (0x89 <<< 1) ^^^ (0x89 <<< 2) ^^^ (0x89 <<< 3) ^^^ (0x89 <<< 7)

/-- The remainder by g(x) of a polynomial of at most `n` bits above bit 13. -/
def checkRem : Nat → Nat → Nat
  | 0, v => v
  | n + 1, v => checkRem n (if v.testBit (14 + n) then v ^^^ (checkGen <<< n) else v)

/-- The XOR of the low `n` bits of a number. -/
def xorBits (n v : Nat) : Nat := ((List.range n).filter (fun i => v.testBit i)).length % 2

/-- The check word of 64 data bits; bit 15 is 0 (R595). -/
def checkWord (d : Nat) : Nat :=
  let r := checkRem 64 (d % 2 ^ 64 * 2 ^ 14)
  r + (xorBits 64 d + xorBits 14 r) % 2 * 2 ^ 14

/-- What flipped used bits leave of a word and its check word, bit 15 ignored: the syndrome in bits 13:0 and the parity in bit 14. -/
def syndrome (d c : Nat) : Nat :=
  (checkRem 64 (d % 2 ^ 64 * 2 ^ 14) ^^^ (c % 2 ^ 14)) + (xorBits 64 d + xorBits 15 c) % 2 * 2 ^ 14

/-- The syndrome of used bit `i`: data bits 0-63, then check bits 0-14. -/
def bitSyndrome (i : Nat) : Nat := if i < 64 then syndrome (2 ^ i) 0 else syndrome 0 (2 ^ (i - 64))

/-- What a read of a word finds (R596). -/
inductive CheckRes where
  | clean | corrected (data : Nat) | bad
  deriving DecidableEq, Repr

/-- The used bits whose flips leave a syndrome: none, one or two of them, or no such set (R596). -/
def flipsOf (syn : Nat) : Option (List Nat) :=
  let bits := (List.range 79).map (fun i => (i, bitSyndrome i))
  if syn = 0 then some []
  else match bits.find? (fun e => e.2 == syn) with
    | some e => some [e.1]
    | none => bits.findSome? (fun a => (bits.find? (fun b => decide (a.1 < b.1) && (a.2 ^^^ b.2) == syn)).map (fun b => [a.1, b.1]))

/-- A word read with its check word (R596). -/
def checkRead (d c : Nat) : CheckRes :=
  match flipsOf (syndrome d c) with
  | some [] => .clean
  | some l => .corrected (l.foldl (fun v i => if i < 64 then v ^^^ 2 ^ i else v) (d % 2 ^ 64))
  | none => .bad

/-! ## SHA-256 -/

def shaK : List Nat := [
  0x428a2f98, 0x71374491, 0xb5c0fbcf, 0xe9b5dba5, 0x3956c25b, 0x59f111f1, 0x923f82a4, 0xab1c5ed5, 0xd807aa98, 0x12835b01, 0x243185be,
  0x550c7dc3, 0x72be5d74, 0x80deb1fe, 0x9bdc06a7, 0xc19bf174, 0xe49b69c1, 0xefbe4786, 0x0fc19dc6, 0x240ca1cc, 0x2de92c6f, 0x4a7484aa,
  0x5cb0a9dc, 0x76f988da, 0x983e5152, 0xa831c66d, 0xb00327c8, 0xbf597fc7, 0xc6e00bf3, 0xd5a79147, 0x06ca6351, 0x14292967] ++ [
  0x27b70a85, 0x2e1b2138, 0x4d2c6dfc, 0x53380d13, 0x650a7354, 0x766a0abb, 0x81c2c92e, 0x92722c85, 0xa2bfe8a1, 0xa81a664b, 0xc24b8b70,
  0xc76c51a3, 0xd192e819, 0xd6990624, 0xf40e3585, 0x106aa070, 0x19a4c116, 0x1e376c08, 0x2748774c, 0x34b0bcb5, 0x391c0cb3, 0x4ed8aa4a,
  0x5b9cca4f, 0x682e6ff3, 0x748f82ee, 0x78a5636f, 0x84c87814, 0x8cc70208, 0x90befffa, 0xa4506ceb, 0xbef9a3f7, 0xc67178f2]

/-- A 32-bit word rotated right. -/
def rotr (n x : Nat) : Nat := (x >>> n) ||| (x <<< (32 - n) % 2 ^ 32)

/-- The message schedule continued: `w` is the last 16 words, newest first. -/
def shaSched : Nat → List Nat → List Nat
  | 0, _ => []
  | n + 1, w =>
    let w15 := w.getD 14 0
    let w2 := w.getD 1 0
    let s0 := rotr 7 w15 ^^^ rotr 18 w15 ^^^ (w15 >>> 3)
    let s1 := rotr 17 w2 ^^^ rotr 19 w2 ^^^ (w2 >>> 10)
    let x := (w.getD 15 0 + s0 + w.getD 6 0 + s1) % 2 ^ 32
    x :: shaSched n (x :: w.take 15)

structure ShaS where
  a : Nat
  b : Nat
  c : Nat
  d : Nat
  e : Nat
  f : Nat
  g : Nat
  h : Nat
  deriving DecidableEq, Repr

/-- One round with its word plus constant. -/
def shaRound (v : ShaS) (kw : Nat) : ShaS :=
  let t1 := v.h + (rotr 6 v.e ^^^ rotr 11 v.e ^^^ rotr 25 v.e) + ((v.e &&& v.f) ^^^ ((v.e ^^^ 0xFFFFFFFF) &&& v.g)) + kw
  let t2 := (rotr 2 v.a ^^^ rotr 13 v.a ^^^ rotr 22 v.a) + ((v.a &&& v.b) ^^^ (v.a &&& v.c) ^^^ (v.b &&& v.c))
  { a := (t1 + t2) % 2 ^ 32, b := v.a, c := v.b, d := v.c, e := (v.d + t1) % 2 ^ 32, f := v.e, g := v.f, h := v.g }

/-- One block of 16 words. -/
def shaBlock (v : ShaS) (w : List Nat) : ShaS :=
  let ws := w ++ shaSched 48 w.reverse
  let r := (shaK.zip ws).foldl (fun v e => shaRound v (e.1 + e.2)) v
  { a := (v.a + r.a) % 2 ^ 32, b := (v.b + r.b) % 2 ^ 32, c := (v.c + r.c) % 2 ^ 32, d := (v.d + r.d) % 2 ^ 32,
    e := (v.e + r.e) % 2 ^ 32, f := (v.f + r.f) % 2 ^ 32, g := (v.g + r.g) % 2 ^ 32, h := (v.h + r.h) % 2 ^ 32 }

/-- A number from bytes, the most significant first. -/
def beNat (l : List Byte) : Nat := l.foldl (fun a b => a * 256 + b.toNat) 0

/-- A number as `n` bytes, the most significant first. -/
def beBytes (v n : Nat) : List Byte := (List.range n).map (fun i => BitVec.ofNat 8 (v >>> (8 * (n - 1 - i))))

/-- Bytes as 32-bit words, the most significant byte first. -/
def beWords : Nat → List Byte → List Nat
  | n + 1, a :: b :: c :: d :: t => beNat [a, b, c, d] :: beWords n t
  | _, _ => []

/-- Blocks run in order. -/
def shaBlocks : Nat → List Nat → ShaS → ShaS
  | 0, _, v => v
  | n + 1, ws, v => shaBlocks n (ws.drop 16) (shaBlock v (ws.take 16))

/-- The initial hash value. -/
def shaInit : ShaS :=
  { a := 0x6a09e667, b := 0xbb67ae85, c := 0x3c6ef372, d := 0xa54ff53a, e := 0x510e527f, f := 0x9b05688c, g := 0x1f83d9ab, h := 0x5be0cd19 }

/-- SHA-256 of bytes as a number, its first byte the most significant. -/
def sha256 (l : List Byte) : Nat :=
  let m := l ++ [0x80#8] ++ List.replicate ((119 - l.length % 64) % 64) 0#8 ++ beBytes (8 * l.length) 8
  let r := shaBlocks (m.length / 64) (beWords (m.length / 4) m) shaInit
  [r.a, r.b, r.c, r.d, r.e, r.f, r.g, r.h].foldl (fun x y => x * 2 ^ 32 + y) 0

/-! ## ECDSA over P-256 -/

def p256P : Nat := 0xffffffff00000001000000000000000000000000ffffffffffffffffffffffff
def p256N : Nat := 0xffffffff00000000ffffffffffffffffbce6faada7179e84f3b9cac2fc632551
def p256B : Nat := 0x5ac635d8aa3a93e7b3ebbd55769886bc651d06b0cc53b0f63bce3c3e27d2604b
def p256Gx : Nat := 0x6b17d1f2e12c4247f8bce6e563a440f277037d812deb33a0f4a13945d898c296
def p256Gy : Nat := 0x4fe342e2fe1a7f9b8ee7eb4a7c0f9e162bce33576b315ececbb6406837bf51f5

/-- `b` to the power of the low `n` bits of `e`, modulo `m`. -/
def powMod (m : Nat) : Nat → Nat → Nat → Nat
  | 0, _, _ => 1 % m
  | n + 1, b, e => let r := powMod m n (b * b % m) (e / 2); if e % 2 = 1 then r * b % m else r

/-- A point of the curve in Jacobian coordinates; z = 0 is the point at infinity. -/
structure P256 where
  x : Nat
  y : Nat
  z : Nat
  deriving DecidableEq, Repr

/-- a - b modulo p. -/
def subP (a b : Nat) : Nat := (a + p256P - b) % p256P

def P256.dbl (q : P256) : P256 :=
  let yy := q.y * q.y % p256P
  let s := 4 * q.x * yy % p256P
  let zz := q.z * q.z % p256P
  let m := 3 * (subP q.x zz) * (q.x + zz) % p256P
  let x := subP (m * m % p256P) (2 * s % p256P)
  { x := x, y := subP (m * subP s x % p256P) (8 * yy * yy % p256P), z := 2 * q.y * q.z % p256P }

def P256.add (a b : P256) : P256 :=
  if a.z = 0 then b else if b.z = 0 then a
  else
    let z1 := a.z * a.z % p256P
    let z2 := b.z * b.z % p256P
    let u1 := a.x * z2 % p256P
    let u2 := b.x * z1 % p256P
    let s1 := a.y * z2 * b.z % p256P
    let s2 := b.y * z1 * a.z % p256P
    if u1 = u2 then (if s1 = s2 then a.dbl else { x := 1, y := 1, z := 0 })
    else
      let h := subP u2 u1
      let r := subP s2 s1
      let hh := h * h % p256P
      let hhh := h * hh % p256P
      let v := u1 * hh % p256P
      let x := subP (subP (r * r % p256P) hhh) (2 * v % p256P)
      { x := x, y := subP (r * subP v x % p256P) (s1 * hhh % p256P), z := h * a.z * b.z % p256P }

/-- u1 × G + u2 × Q over the low `n` bits of both numbers. -/
def p256Comb (q gq : P256) (u1 u2 : Nat) : Nat → P256 → P256
  | 0, acc => acc
  | n + 1, acc =>
    let d := acc.dbl
    let s := match u1.testBit n, u2.testBit n with
      | false, false => d
      | true, false => d.add { x := p256Gx, y := p256Gy, z := 1 }
      | false, true => d.add q
      | true, true => d.add gq
    p256Comb q gq u1 u2 n s

/-- Whether an ECDSA signature, r then s, of a message verifies under a public key, X then Y. -/
def p256Verify (key sig msg : List Byte) : Bool :=
  let qx := beNat (key.take 32)
  let qy := beNat ((key.drop 32).take 32)
  let r := beNat (sig.take 32)
  let t := beNat ((sig.drop 32).take 32)
  if r = 0 ∨ p256N ≤ r ∨ t = 0 ∨ p256N ≤ t ∨ p256P ≤ qx ∨ p256P ≤ qy ∨
      qy * qy % p256P ≠ (qx * qx * qx + (p256P - 3) * qx + p256B) % p256P then false
  else
    let w := powMod p256N 256 t (p256N - 2)
    let q : P256 := { x := qx, y := qy, z := 1 }
    let a := p256Comb q (q.add { x := p256Gx, y := p256Gy, z := 1 }) (sha256 msg * w % p256N) (r * w % p256N) 256 { x := 1, y := 1, z := 0 }
    if a.z = 0 then false
    else
      let zi := powMod p256P 256 a.z (p256P - 2)
      a.x * (zi * zi % p256P) % p256P % p256N == r

end Sys2Proof.Machine
end

