-- ==== Sys2Proof/Config.lean ====
section
/-! DEFINITION. Free values: what the spec leaves open. Nothing in Lean can evaluate them, so no claim can rest on a
particular value (log entry 4). Each is applied to the model's own counter `State.free`, so that two uses are unrelated. -/
namespace Sys2Proof.Config
set_option Elab.async false

/-- A free natural number; the caller bounds it where the spec states a bound. -/
opaque freeNat : Nat → Nat

/-- A free register word. -/
opaque freeWord : Nat → Word

/-- A free byte, for content the spec calls undefined or does not state. -/
opaque freeByte : Nat → Byte

/-- The bytes of the boot ROM (R39), which the spec does not list, by offset. -/
opaque romByte : Nat → Byte

/-- The reference root key held in the boot ROM (R681): X then Y. -/
opaque rootKey : List Byte

/-- Lumuo's keeper key, which every concentrator die holds in ROM (R683): X then Y. -/
opaque keeperKey : List Byte

/-- A free truth value, for an outcome the spec does not state. -/
opaque freeBool : Nat → Bool

/-- What is fixed for a part and its package and not stated: 0 the package serial number, 1 the steward stepping, 2 the vendor
identifier, 3 the manufacturer code; other numbers are named where they are used. -/
opaque partConst : Nat → Nat

end Sys2Proof.Config
end

