-- ==== Sys2Proof/Machine/Operands.lean ====
section
/-! DEFINITION. Bit fields, signed fields, little-endian bytes, DT96 stamps (R18, R19), rounding (R731) and check words.
Device time inside the model is a natural number of units of 2^-40 ns; a stamp is a natural number of units of 2^-16 ns
("t16"), and `dtPack` gives the 96-bit integer of R19. -/
namespace Sys2Proof.Machine
set_option Elab.async false

/-- Bits hi:lo of a natural number. -/
def nbits (n hi lo : Nat) : Nat := (n >>> lo) % 2 ^ (hi + 1 - lo)

/-- Bits hi:lo of a word. -/
def wbits (w : Word) (hi lo : Nat) : Nat := nbits w.toNat hi lo

/-- The word with bits hi:lo replaced by `n`. -/
def wput (w : Word) (hi lo n : Nat) : Word :=
  BitVec.ofNat 32 (w.toNat - wbits w hi lo * 2 ^ lo + (n % 2 ^ (hi + 1 - lo)) * 2 ^ lo)

/-- A field of `k` bits read as two's complement. -/
def signed (k n : Nat) : Int := if n % 2 ^ k < 2 ^ (k - 1) then ↑(n % 2 ^ k) else (↑(n % 2 ^ k) : Int) - 2 ^ k

/-- The two's complement field of `k` bits of an integer. -/
def unsignedOf (k : Nat) (i : Int) : Nat := (i % 2 ^ k).toNat

/-- An integer as a 32-bit word. -/
def wordOfInt (i : Int) : Word := BitVec.ofInt 32 i

/-- A natural number as a 32-bit word. -/
def wordOf (n : Nat) : Word := BitVec.ofNat 32 n

/-- 1 for true. -/
def b2n (b : Bool) : Nat := if b then 1 else 0

/-- `i` held within lo..hi. -/
def clampInt (lo hi i : Int) : Int := if i < lo then lo else if hi < i then hi else i

/-- `n` held within lo..hi. -/
def clampNat (lo hi n : Nat) : Nat := if n < lo then lo else if hi < n then hi else n

/-- `a / b` rounded to the nearest integer, a tie to the even one (R731). -/
def roundDiv (a : Int) (b : Nat) : Int :=
  let q := a / (b : Int)
  let r := a % (b : Int)
  if 2 * r < b then q else if (b : Int) < 2 * r then q + 1 else if q % 2 = 0 then q else q + 1

/-- `a / b` rounded up. -/
def ceilDiv (a b : Nat) : Nat := (a + b - 1) / b

/-- `n` rounded up to a multiple of `m`. -/
def roundUp (n m : Nat) : Nat := ceilDiv n m * m

/-- The `k` low bytes of `n`, least significant first. -/
def leBytes (n : Nat) : Nat → List Byte
  | 0 => []
  | k + 1 => BitVec.ofNat 8 n :: leBytes (n / 256) k

/-- The number that little-endian bytes hold. -/
def leNat : List Byte → Nat
  | [] => 0
  | b :: bs => b.toNat + 256 * leNat bs

/-- `n` zero bytes. -/
def zeros (n : Nat) : List Byte := List.replicate n 0#8

/-- `k` bytes of a list from offset `o`; beyond the end nothing. -/
def slice (l : List Byte) (o k : Nat) : List Byte := (l.drop o).take k

/-- A field of `k` bytes at offset `o`. -/
def leAt (l : List Byte) (o k : Nat) : Nat := leNat (slice l o k)

/-- A list padded with zero bytes to `n` bytes. -/
def padTo (n : Nat) (l : List Byte) : List Byte := l ++ zeros (n - l.length)

/-- The bytes of `l` from offset `o` replaced by `p`. -/
def patch (l : List Byte) (o : Nat) (p : List Byte) : List Byte :=
  l.take o ++ p ++ l.drop (o + p.length)

/-- One nanosecond in units of 2^-40 ns. -/
def ns40 : Nat := 2 ^ 40

/-- One second in units of 2^-40 ns. -/
def sec40 : Nat := 1000000000 * 2 ^ 40

/-- One second in units of 2^-16 ns. -/
def sec16 : Nat := 1000000000 * 65536

/-- A stamp of `t16` units of 2^-16 ns as the 96-bit integer of R19. -/
def dtPack (t16 : Nat) : Nat :=
  t16 % 65536 + (t16 / 65536 % 1000000000) * 65536 + (t16 / sec16 % 2 ^ 48) * 2 ^ 48

/-- Whether a 96-bit DT96 value is valid by R18. -/
def dtValid (x : Nat) : Bool := decide (x / 65536 % 2 ^ 32 < 1000000000)

/-- The stamp in units of 2^-16 ns that a 96-bit DT96 value names. -/
def dtUnpack (x : Nat) : Nat :=
  x % 65536 + (x / 65536 % 2 ^ 32) * 65536 + (x / 2 ^ 48 % 2 ^ 48) * sec16

/-- Word `i` of a 96-bit DT96 value. -/
def dtWord (x i : Nat) : Word := BitVec.ofNat 32 (x / 2 ^ (32 * i))

/-- The 96-bit value of three words. -/
def dtOfWords (w0 w1 w2 : Word) : Nat := w0.toNat + w1.toNat * 2 ^ 32 + w2.toNat * 2 ^ 64

/-- `n` right shifts of a reflected CRC register with polynomial `p`. -/
def crcBits (p : Nat) : Nat → Nat → Nat
  | 0, c => c
  | n + 1, c => crcBits p n (if c % 2 = 1 then (c / 2) ^^^ p else c / 2)

/-- A reflected CRC register run over bytes. -/
def crcBytes (p : Nat) : List Byte → Nat → Nat
  | [], c => c
  | b :: bs, c => crcBytes p bs (crcBits p 8 (c ^^^ b.toNat))

/-- CRC-32C of R400; the empty sequence gives 0. -/
def crc32c (l : List Byte) : Nat := crcBytes 0x82F63B78 l 0xFFFFFFFF ^^^ 0xFFFFFFFF

/-- A list without the element at index `i`. -/
def eraseAt {α : Type} (l : List α) (i : Nat) : List α := l.take i ++ l.drop (i + 1)

/-- A list with the element at index `i` replaced. -/
def setAt {α : Type} (l : List α) (i : Nat) (a : α) : List α := l.set i a

/-- Every element that satisfies `p`, applied to a state in order. -/
def forEach {α σ : Type} (l : List α) (s : σ) (f : σ → α → σ) : σ := l.foldl f s

end Sys2Proof.Machine
end

