-- ==== Sys2Proof/Machine/RegMap.lean ====
section
/-! DEFINITION. The register map of every die (R39, R41, R42, and the register tables of each chapter): offsets, array
strides, reset values and access codes (R14). Offsets are those of the block's own table; block bases are those of R41/R42. -/
namespace Sys2Proof.Machine
set_option Elab.async false

/-- One register of a block: where it lies, its array dimensions (stride, count; outermost first), its reset value (as
a function of the block instance and of the byte distance from the first element), and which bits a write or a read
changes by the access codes of R14. `own` marks a register whose write has a command of its own. -/
structure RegRow where
  off : Nat
  dims : List (Nat × Nat) := []
  reset : Nat → Nat → Word := fun _ _ => 0#32
  wr : Nat := 0
  w1c : Nat := 0
  rc : Nat := 0
  lock : Nat := 0
  own : Bool := false
  wo : Bool := false

/-- One block of R41 or R42 (BAR0 of R437 is placed at 0x8000_0000 of a steward). -/
structure BlockRow where
  base : Nat
  stride : Nat
  count : Nat
  rows : List RegRow

/-- Reset of P_CFG of producer `b` (R337, R363). -/
def pCfgReset (b : Nat) : Nat :=
  if b < 128 then 0x2000 + b
  else if b < 1280 then (b - 128) / 9
  else if b < 1284 then 128 + (b - 1280)
  else if b = 1284 then 132
  else if b = 1285 then 133
  else 0

/-- Reset of kernel word `w` (R309, R327): phase w div 4 holds tap 3 = 256 - 8p and tap 4 = 8p. -/
def kernReset (w : Nat) : Nat :=
  if w % 4 = 1 then (256 - 8 * (w / 4)) * 65536
  else if w % 4 = 2 then 8 * (w / 4)
  else 0

/-! Block BS (R362). -/

abbrev BS.BS_CTL : Nat := 0xa000000
abbrev BS.BS_FREE : Nat := 0xa000004
abbrev BS.BS_FREE_MIN : Nat := 0xa000008
abbrev BS.BS_RESERVE : Nat := 0xa00000c
abbrev BS.BS_LOW_WATER : Nat := 0xa000010
abbrev BS.BS_RET_LIMIT : Nat := 0xa000014
abbrev BS.BS_RET_CELLS : Nat := 0xa000018
abbrev BS.BS_EPOCH : Nat := 0xa00001c
abbrev BS.BS_CMD : Nat := 0xa000020
abbrev BS.BS_EVENTS : Nat := 0xa000024
abbrev BS.BS_IRQ_EN : Nat := 0xa000028
abbrev BS.BS_LOST_CELLS : Nat := 0xa00002c
abbrev BS.BS_ALLOC_FAIL : Nat := 0xa000100
abbrev BS.BS_REC_DROP : Nat := 0xa000104
abbrev BS.BS_RET_DROP : Nat := 0xa000108
abbrev BS.BS_HDR_DROP : Nat := 0xa00010c
abbrev BS.BS_ECC_CORR : Nat := 0xa000110
abbrev BS.BS_ECC_UNCORR : Nat := 0xa000114
abbrev BS.BS_PUSH_ERR : Nat := 0xa000118
abbrev BS.BS_BAD_ACCESS : Nat := 0xa00011c
abbrev BS.BS_POP_EMPTY : Nat := 0xa000120
abbrev BS.BS_ACK_EXCESS : Nat := 0xa000124
abbrev BS.BS_FLUSH_DROP : Nat := 0xa000128
abbrev BS.BS_SEQ : Nat := 0xa001000
abbrev BS.BS_SQ : Nat := 0xa001200
abbrev BS.Q_CFG : Nat := 0xa010000
abbrev BS.Q_MAX : Nat := 0xa010004
abbrev BS.Q_AVAIL : Nat := 0xa010008
abbrev BS.Q_HEAD_LEN : Nat := 0xa01000c
abbrev BS.Q_STAT : Nat := 0xa010010
abbrev BS.Q_RET : Nat := 0xa010014
abbrev BS.Q_ACK : Nat := 0xa010018
abbrev BS.Q_CMD : Nat := 0xa01001c
abbrev BS.Q_DROP : Nat := 0xa030000
abbrev BS.P_CFG : Nat := 0xa040000

def rowsBS_0 : List RegRow := [
  { off := 0xa000000, wr := 0x1 },
  { off := 0xa000004, reset := fun _ _ => 0x40000#32 },
  { off := 0xa000008, reset := fun _ _ => 0x40000#32, rc := 0xffffffff },
  { off := 0xa00000c, reset := fun _ _ => 0x1000#32, wr := 0xffff },
  { off := 0xa000010, reset := fun _ _ => 0x4000#32, wr := 0xffffffff },
  { off := 0xa000014, reset := fun _ _ => 0x2dc6c#32, wr := 0xffffffff },
  { off := 0xa000018 },
  { off := 0xa00001c, wr := 0xffffffff },
  { off := 0xa000020, wr := 0x3, own := true, wo := true },
  { off := 0xa000024, w1c := 0x3f },
  { off := 0xa000028, wr := 0x3f },
  { off := 0xa00002c },
  { off := 0xa000100, rc := 0xffffffff },
  { off := 0xa000104, rc := 0xffffffff },
  { off := 0xa000108, rc := 0xffffffff },
  { off := 0xa00010c, rc := 0xffffffff },
  { off := 0xa000110, rc := 0xffffffff },
  { off := 0xa000114, rc := 0xffffffff },
  { off := 0xa000118, rc := 0xffffffff },
  { off := 0xa00011c, rc := 0xffffffff },
  { off := 0xa000120, rc := 0xffffffff },
  { off := 0xa000124, rc := 0xffffffff },
  { off := 0xa000128, rc := 0xffffffff },
  { off := 0xa001000, dims := [(0x4, 128)] },
  { off := 0xa001200, dims := [(0x4, 128)], reset := fun _ x => BitVec.ofNat 32 (x / 4), wr := 0xfff },
  { off := 0xa010000, dims := [(0x20, 4096)], reset := fun _ x => BitVec.ofNat 32 (0x28000040 + (x / 32 % 64) * 65536 + (if x / 32 < 128 then x / 32 % 2 * 0x2000000 else 0)), wr := 0xfb3f0fff },
  { off := 0xa010004, dims := [(0x20, 4096)], reset := fun _ _ => 0x800#32, wr := 0x3ffff },
  { off := 0xa010008, dims := [(0x20, 4096)] },
  { off := 0xa01000c, dims := [(0x20, 4096)] },
  { off := 0xa010010, dims := [(0x20, 4096)] },
  { off := 0xa010014, dims := [(0x20, 4096)] },
  { off := 0xa010018, dims := [(0x20, 4096)], wr := 0xffff, own := true, wo := true },
  { off := 0xa01001c, dims := [(0x20, 4096)], wr := 0x3, own := true, wo := true },
  { off := 0xa030000, dims := [(0x8, 4096)], rc := 0xffffffff },
  { off := 0xa040000, dims := [(0x4, 1292)], reset := fun _ x => BitVec.ofNat 32 (pCfgReset (x / 4)), wr := 0x1fff3fff }]

def rowsBS : List RegRow := rowsBS_0

/-! Block LP (R138, R191). -/

abbrev LP.CTL : Nat := 0x0
abbrev LP.TX_CFG : Nat := 0x4
abbrev LP.RETRY : Nat := 0xc
abbrev LP.COMMIT : Nat := 0x10
abbrev LP.CMD : Nat := 0x14
abbrev LP.STATE : Nat := 0x20
abbrev LP.STATUS : Nat := 0x24
abbrev LP.EVENTS : Nat := 0x28
abbrev LP.IRQ_EN : Nat := 0x2c
abbrev LP.HEAD_STAT0 : Nat := 0x30
abbrev LP.HEAD_STAT1 : Nat := 0x34
abbrev LP.FAULT_CAUSE : Nat := 0x38
abbrev LP.TRAIN_TIME : Nat := 0x3c
abbrev LP.EQ_STAT : Nat := 0x1000
abbrev LP.DFE_T2_5 : Nat := 0x1004
abbrev LP.DFE_T6_8 : Nat := 0x1008
abbrev LP.EQ_CTL : Nat := 0x100c
abbrev LP.CDR_CTL : Nat := 0x1010
abbrev LP.CDR_PHASE : Nat := 0x1014
abbrev LP.ECHO_STAT : Nat := 0x1018
abbrev LP.ES_CTL : Nat := 0x2000
abbrev LP.ES_PH : Nat := 0x2004
abbrev LP.ES_V : Nat := 0x2008
abbrev LP.ES_CMD : Nat := 0x200c
abbrev LP.ES_STATUS : Nat := 0x2010
abbrev LP.ES_SUMMARY : Nat := 0x2014
abbrev LP.ES_RESULT : Nat := 0x4000
abbrev LP.TRAIN_CNT : Nat := 0x8000
abbrev LP.TRAIN_FAIL : Nat := 0x8004
abbrev LP.RETRAIN_CNT : Nat := 0x8008
abbrev LP.IDLE_EXIT : Nat := 0x800c
abbrev LP.RELOCK_FAIL : Nat := 0x8010
abbrev LP.TAP_TIMEOUT : Nat := 0x8014
abbrev LP.SLOT_MAP : Nat := 0x9000
abbrev LP.LOCK_CFG : Nat := 0x9004
abbrev LP.BLK_STATUS : Nat := 0x9008
abbrev LP.DLY_CTL : Nat := 0x9010
abbrev LP.DLY_ASYM : Nat := 0x9014
abbrev LP.DLY_TA : Nat := 0x9018
abbrev LP.DLY_FILT : Nat := 0x901c
abbrev LP.DLY_RAW : Nat := 0x9020
abbrev LP.DLY_STAT : Nat := 0x9024
abbrev LP.BUS_CTL : Nat := 0x9030
abbrev LP.BUS_OUTST : Nat := 0x9034
abbrev LP.CAPS : Nat := 0x9040
abbrev LP.REPORT : Nat := 0x9050
abbrev LP.FIFO_STAT : Nat := 0x9060
abbrev LP.BLK_EVENTS : Nat := 0x9064
abbrev LP.BLK_IRQ_EN : Nat := 0x9068
abbrev LP.RX_POP : Nat := 0xa000
abbrev LP.RX_STAT : Nat := 0xa004
abbrev LP.RS_CORR : Nat := 0xa010
abbrev LP.RS_UNCORR : Nat := 0xa014
abbrev LP.MARK_MISS : Nat := 0xa018
abbrev LP.HDR_CORR : Nat := 0xa01c
abbrev LP.HDR_ERR : Nat := 0xa020
abbrev LP.PKT_CRC_ERR : Nat := 0xa024
abbrev LP.DT_UNSUPP : Nat := 0xa028
abbrev LP.VC_UNMAPPED : Nat := 0xa02c
abbrev LP.FIFO_OVF : Nat := 0xa030
abbrev LP.DLY_LOST : Nat := 0xa034
abbrev LP.PULSE_LOST : Nat := 0xa038
abbrev LP.BUS_STRAY : Nat := 0xa03c
abbrev LP.BCH_CRC_ERR : Nat := 0xa040
abbrev LP.CTRL_BAD : Nat := 0xa044
abbrev LP.GW_SEG_ERR : Nat := 0xa048
abbrev LP.TX_BUF : Nat := 0xb000
abbrev LP.TX_GO : Nat := 0xb040
abbrev LP.TX_STAT : Nat := 0xb044

def rowsLP_0 : List RegRow := [
  { off := 0x0, reset := fun _ _ => 0x1#32, wr := 0x3ff },
  { off := 0x4, reset := fun _ _ => 0x2#32, wr := 0x3 },
  { off := 0xc, reset := fun _ _ => 0x271004#32, wr := 0xffff0f },
  { off := 0x10, wr := 0x1, own := true, wo := true },
  { off := 0x14, wr := 0xf, own := true, wo := true },
  { off := 0x20, reset := fun _ _ => 0x100#32 },
  { off := 0x24 },
  { off := 0x28, w1c := 0xfff },
  { off := 0x2c, wr := 0xfff },
  { off := 0x30 },
  { off := 0x34 },
  { off := 0x38 },
  { off := 0x3c },
  { off := 0x1000 },
  { off := 0x1004 },
  { off := 0x1008 },
  { off := 0x100c, reset := fun _ _ => 0x2600#32, wr := 0xfff3 },
  { off := 0x1010, reset := fun _ _ => 0xe06#32, wr := 0x1f1f },
  { off := 0x1014 },
  { off := 0x1018 },
  { off := 0x2000, reset := fun _ _ => 0x101401#32, wr := 0x1f1f03 },
  { off := 0x2004, reset := fun _ _ => 0x4001e0#32, wr := 0x7f0fff },
  { off := 0x2008, reset := fun _ _ => 0x200884#32, wr := 0x1ff0fff },
  { off := 0x200c, wr := 0x3, own := true, wo := true },
  { off := 0x2010 },
  { off := 0x2014 },
  { off := 0x4000, dims := [(0x4, 4096)] },
  { off := 0x8000, rc := 0xffffffff },
  { off := 0x8004, rc := 0xffffffff },
  { off := 0x8008, rc := 0xffffffff },
  { off := 0x800c, rc := 0xffffffff },
  { off := 0x8010, rc := 0xffffffff },
  { off := 0x8014, rc := 0xffffffff },
  { off := 0x9000, reset := fun _ _ => 0x83828180#32, wr := 0x8f8f8f8f },
  { off := 0x9004, reset := fun _ _ => 0x1004#32, wr := 0xff0f },
  { off := 0x9008 },
  { off := 0x9010, reset := fun _ _ => 0xa#32, wr := 0x800003ff },
  { off := 0x9014, wr := 0xffffffff },
  { off := 0x9018 },
  { off := 0x901c }]

def rowsLP_1 : List RegRow := [
  { off := 0x9020 },
  { off := 0x9024 },
  { off := 0x9030, reset := fun _ _ => 0x10a#32, wr := 0x1ff },
  { off := 0x9034 },
  { off := 0x9040, dims := [(0x4, 4)] },
  { off := 0x9050, dims := [(0x4, 3)] },
  { off := 0x9060 },
  { off := 0x9064, w1c := 0xff },
  { off := 0x9068, wr := 0xff },
  { off := 0xa000, rc := 0xffffffff },
  { off := 0xa004 },
  { off := 0xa010, rc := 0xffffffff },
  { off := 0xa014, rc := 0xffffffff },
  { off := 0xa018, rc := 0xffffffff },
  { off := 0xa01c, rc := 0xffffffff },
  { off := 0xa020, rc := 0xffffffff },
  { off := 0xa024, rc := 0xffffffff },
  { off := 0xa028, rc := 0xffffffff },
  { off := 0xa02c, rc := 0xffffffff },
  { off := 0xa030, rc := 0xffffffff },
  { off := 0xa034, rc := 0xffffffff },
  { off := 0xa038, rc := 0xffffffff },
  { off := 0xa03c, rc := 0xffffffff },
  { off := 0xa040, rc := 0xffffffff },
  { off := 0xa044, rc := 0xffffffff },
  { off := 0xa048, rc := 0xffffffff },
  { off := 0xb000, dims := [(0x4, 16)], wr := 0xffffffff },
  { off := 0xb040, wr := 0x1, own := true, wo := true },
  { off := 0xb044, reset := fun _ _ => 0x8#32 }]

def rowsLP : List RegRow := rowsLP_0 ++ rowsLP_1

/-! Block SI (R225). -/

abbrev SI.CTL : Nat := 0x0
abbrev SI.BIND : Nat := 0x4
abbrev SI.GEOM : Nat := 0x8
abbrev SI.PERIOD : Nat := 0xc
abbrev SI.GATE : Nat := 0x10
abbrev SI.RO_LAT : Nat := 0x14
abbrev SI.COMMIT : Nat := 0x18
abbrev SI.CFG_STAT : Nat := 0x1c
abbrev SI.STATE : Nat := 0x1000
abbrev SI.FRAME : Nat := 0x1004
abbrev SI.SENSOR_FN : Nat := 0x1008
abbrev SI.EVENTS : Nat := 0x100c
abbrev SI.IRQ_EN : Nat := 0x1010
abbrev SI.FS_TIME0 : Nat := 0x2000
abbrev SI.FS_TIME1 : Nat := 0x2004
abbrev SI.FS_TIME2 : Nat := 0x2008
abbrev SI.FRAMES : Nat := 0x2010
abbrev SI.SHORT_CNT : Nat := 0x2014
abbrev SI.LONG_CNT : Nat := 0x2018
abbrev SI.SHORT_LINE_CNT : Nat := 0x201c
abbrev SI.LONG_LINE_CNT : Nat := 0x2020
abbrev SI.UNTERM_CNT : Nat := 0x2024
abbrev SI.CRC_LINES : Nat := 0x2028
abbrev SI.RATE_DROP : Nat := 0x202c
abbrev SI.BIND_COLLIDE : Nat := 0x2030
abbrev SI.LINE_OVF : Nat := 0x2034
abbrev SI.DT_MISMATCH : Nat := 0x2038
abbrev SI.ORPHAN : Nat := 0x203c
abbrev SI.LINK_BREAK : Nat := 0x2040

def rowsSI_0 : List RegRow := [
  { off := 0x0, reset := fun _ _ => 0x2c03#32, wr := 0x3f0f },
  { off := 0x4, reset := fun i _ => BitVec.ofNat 32 (0x80000000 + i), wr := 0x8000007f },
  { off := 0x8, reset := fun _ _ => 0x4380780#32, wr := 0x3fff3fff },
  { off := 0xc, reset := fun _ _ => 0x2625a00#32, wr := 0xffffffff },
  { off := 0x10, reset := fun _ _ => 0x4#32, wr := 0x3f },
  { off := 0x14, wr := 0xffffffff },
  { off := 0x18, wr := 0x1, own := true, wo := true },
  { off := 0x1c },
  { off := 0x1000, reset := fun i _ => BitVec.ofNat 32 (i * 256 + 2) },
  { off := 0x1004 },
  { off := 0x1008 },
  { off := 0x100c, w1c := 0x7ff },
  { off := 0x1010, wr := 0x7ff },
  { off := 0x2000 },
  { off := 0x2004 },
  { off := 0x2008 },
  { off := 0x2010, rc := 0xffffffff },
  { off := 0x2014, rc := 0xffffffff },
  { off := 0x2018, rc := 0xffffffff },
  { off := 0x201c, rc := 0xffffffff },
  { off := 0x2020, rc := 0xffffffff },
  { off := 0x2024, rc := 0xffffffff },
  { off := 0x2028, rc := 0xffffffff },
  { off := 0x202c, rc := 0xffffffff },
  { off := 0x2030, rc := 0xffffffff },
  { off := 0x2034, rc := 0xffffffff },
  { off := 0x2038, rc := 0xffffffff },
  { off := 0x203c, rc := 0xffffffff },
  { off := 0x2040, rc := 0xffffffff }]

def rowsSI : List RegRow := rowsSI_0

/-! Block PL (R227, R293, R326). -/

abbrev PL.RS_CTL : Nat := 0x0
abbrev PL.CFA_MAP0 : Nat := 0x4
abbrev PL.CFA_MAP1 : Nat := 0x8
abbrev PL.DPC_CTL : Nat := 0x10
abbrev PL.DPC_ABS : Nat := 0x14
abbrev PL.DPC_REL : Nat := 0x18
abbrev PL.SAT_LVL : Nat := 0x1c
abbrev PL.TAP_T0 : Nat := 0x20
abbrev PL.TAP_T1 : Nat := 0x24
abbrev PL.TAP_T2 : Nat := 0x28
abbrev PL.TAP_TI : Nat := 0x2c
abbrev PL.STATS_CTL : Nat := 0x30
abbrev PL.HIST_ORG : Nat := 0x34
abbrev PL.HIST_SIZE : Nat := 0x38
abbrev PL.ZONE_ORG : Nat := 0x3c
abbrev PL.ZONE_SIZE : Nat := 0x40
abbrev PL.BLK : Nat := 0x100
abbrev PL.KNEE_X : Nat := 0x200
abbrev PL.KNEE_Y : Nat := 0x204
abbrev PL.KNEE_M : Nat := 0x208
abbrev PL.MTX : Nat := 0x300
abbrev PL.RS_STAT : Nat := 0x400
abbrev PL.RS_CFG_STAT : Nat := 0x404
abbrev PL.EVENTS : Nat := 0x408
abbrev PL.IRQ_EN : Nat := 0x40c
abbrev PL.PL_CMD : Nat := 0x410
abbrev PL.MAP0_E : Nat := 0x2000
abbrev PL.MAP1_E : Nat := 0x4000
abbrev PL.DPC_STATIC : Nat := 0x6000
abbrev PL.DPC_HOT : Nat := 0x6004
abbrev PL.DPC_COLD : Nat := 0x6008
abbrev PL.DPC_ISOL : Nat := 0x600c
abbrev PL.MAP_ORDER : Nat := 0x6010
abbrev PL.SAT_PIX : Nat := 0x6014
abbrev PL.REMOSAIC_EDGE : Nat := 0x6018
abbrev PL.ECC_UNCORR : Nat := 0x601c
abbrev PL.PIPE_RESET : Nat := 0x6020
abbrev PL.FIN_CTL : Nat := 0x8000
abbrev PL.WB_R : Nat := 0x8004
abbrev PL.WB_G : Nat := 0x8008
abbrev PL.WB_B : Nat := 0x800c
abbrev PL.IR_GAIN : Nat := 0x8010
abbrev PL.CCM : Nat := 0x8020
abbrev PL.FIN_REQ : Nat := 0x8060
abbrev PL.FIN_STAT : Nat := 0x8064
abbrev PL.FIN_CFG_STAT : Nat := 0x8068
abbrev PL.FIN_EVENTS : Nat := 0x806c
abbrev PL.FIN_IRQ_EN : Nat := 0x8070
abbrev PL.CURVE : Nat := 0x8400
abbrev PL.OUT_CTL : Nat := 0x9000
abbrev PL.CROP_ORG : Nat := 0x9004
abbrev PL.CROP_SIZE : Nat := 0x9008
abbrev PL.OUT_SIZE : Nat := 0x900c
abbrev PL.STEP_X : Nat := 0x9010
abbrev PL.STEP_Y : Nat := 0x9014
abbrev PL.KH : Nat := 0xa000
abbrev PL.KV : Nat := 0xa200
abbrev PL.FB_FRAMES : Nat := 0xc000
abbrev PL.FIN_LINE_DROP : Nat := 0xc010
abbrev PL.FIN_REPEAT : Nat := 0xc014
abbrev PL.SHED_FRAMES : Nat := 0xc018
abbrev PL.SHED_REFUSED : Nat := 0xc01c
abbrev PL.SHED_BARE : Nat := 0xc020
abbrev PL.FIN_CUT : Nat := 0xc024
abbrev PL.PA_CTL : Nat := 0xf000
abbrev PL.PA_TAG : Nat := 0xf004
abbrev PL.COMMIT : Nat := 0xf008
abbrev PL.PA_CMD : Nat := 0xf00c
abbrev PL.PA_STAT : Nat := 0xf010
abbrev PL.PA_APPLIED : Nat := 0xf014
abbrev PL.PA_APPLIED_FRAME : Nat := 0xf018
abbrev PL.PA_LATE : Nat := 0xf01c
abbrev PL.PA_DISCARD : Nat := 0xf020

def rowsPL_0 : List RegRow := [
  { off := 0x0, wr := 0x1ff7ff },
  { off := 0x4, wr := 0x3fffffff },
  { off := 0x8, wr := 0x33ffff },
  { off := 0x10, wr := 0xfff0007 },
  { off := 0x14, reset := fun _ _ => 0x40#32, wr := 0xffffff },
  { off := 0x18, reset := fun _ _ => 0x20#32, wr := 0xff },
  { off := 0x1c, reset := fun _ _ => 0xfff#32, wr := 0xffffff },
  { off := 0x20, reset := fun _ _ => 0x100000#32, wr := 0x3f01ff },
  { off := 0x24, reset := fun _ _ => 0x100000#32, wr := 0x3f01ff },
  { off := 0x28, reset := fun _ _ => 0x100001#32, wr := 0x3f01ff },
  { off := 0x2c, reset := fun _ _ => 0x100000#32, wr := 0x3f01ff },
  { off := 0x30, reset := fun _ _ => 0xc100007#32, wr := 0x3f3f1f07 },
  { off := 0x34, wr := 0x3fff3fff },
  { off := 0x38, reset := fun _ _ => 0x20002000#32, wr := 0x3fff3fff },
  { off := 0x3c, wr := 0x3fff3fff },
  { off := 0x40, reset := fun _ _ => 0x800080#32, wr := 0x3fff3fff },
  { off := 0x100, dims := [(0x4, 16)], wr := 0xffffff },
  { off := 0x200, dims := [(0x10, 16)], wr := 0xfffff },
  { off := 0x204, dims := [(0x10, 16)], wr := 0xffffff },
  { off := 0x208, dims := [(0x10, 16)], reset := fun _ _ => 0x100#32, wr := 0xffffff },
  { off := 0x300, dims := [(0x20, 4), (0x4, 5)], reset := fun _ x => if x % 0x24 = 0 then 0x1000#32 else 0#32, wr := 0xffff },
  { off := 0x400 },
  { off := 0x404 },
  { off := 0x408, w1c := 0x3f },
  { off := 0x40c, wr := 0x3f },
  { off := 0x410, wr := 0x1, own := true, wo := true },
  { off := 0x2000, dims := [(0x4, 2048)], wr := 0xffffffff, own := true },
  { off := 0x4000, dims := [(0x4, 2048)], wr := 0xffffffff, own := true },
  { off := 0x6000, rc := 0xffffffff },
  { off := 0x6004, rc := 0xffffffff },
  { off := 0x6008, rc := 0xffffffff },
  { off := 0x600c, rc := 0xffffffff },
  { off := 0x6010, rc := 0xffffffff },
  { off := 0x6014, rc := 0xffffffff },
  { off := 0x6018, rc := 0xffffffff },
  { off := 0x601c, rc := 0xffffffff },
  { off := 0x6020, rc := 0xffffffff },
  { off := 0x8000, reset := fun _ _ => 0x1800#32, wr := 0x1ff0f },
  { off := 0x8004, reset := fun _ _ => 0x1000#32, wr := 0xffff },
  { off := 0x8008, reset := fun _ _ => 0x1000#32, wr := 0xffff }]

def rowsPL_1 : List RegRow := [
  { off := 0x800c, reset := fun _ _ => 0x1000#32, wr := 0xffff },
  { off := 0x8010, reset := fun _ _ => 0x1000#32, wr := 0xffff },
  { off := 0x8020, dims := [(0x10, 3), (0x4, 3)], reset := fun _ x => if x % 0x14 = 0 then 0x1000#32 else 0#32, wr := 0xffff },
  { off := 0x8060, wr := 0x3 },
  { off := 0x8064 },
  { off := 0x8068 },
  { off := 0x806c, w1c := 0x3f },
  { off := 0x8070, wr := 0x3f },
  { off := 0x8400, dims := [(0x4, 257)], reset := fun _ x => BitVec.ofNat 32 (Nat.min 65535 (256 * (x / 4))), wr := 0xffff },
  { off := 0x9000, dims := [(0x100, 4)], reset := fun _ _ => 0x100208#32, wr := 0xf3f071f },
  { off := 0x9004, dims := [(0x100, 4)], wr := 0x1fff1fff },
  { off := 0x9008, dims := [(0x100, 4)], reset := fun _ _ => 0x4380780#32, wr := 0x3fff3fff },
  { off := 0x900c, dims := [(0x100, 4)], reset := fun _ _ => 0x2d00500#32, wr := 0x3fff1fff },
  { off := 0x9010, dims := [(0x100, 4)], reset := fun _ _ => 0x18000#32 },
  { off := 0x9014, dims := [(0x100, 4)], reset := fun _ _ => 0x18000#32 },
  { off := 0xa000, dims := [(0x400, 4), (0x4, 128)], reset := fun _ x => BitVec.ofNat 32 (kernReset (x % 0x400 / 4)), wr := 0x3ff03ff },
  { off := 0xa200, dims := [(0x400, 4), (0x4, 128)], reset := fun _ x => BitVec.ofNat 32 (kernReset (x % 0x400 / 4)), wr := 0x3ff03ff },
  { off := 0xc000, dims := [(0x4, 4)], rc := 0xffffffff },
  { off := 0xc010, rc := 0xffffffff },
  { off := 0xc014, rc := 0xffffffff },
  { off := 0xc018, rc := 0xffffffff },
  { off := 0xc01c, rc := 0xffffffff },
  { off := 0xc020, rc := 0xffffffff },
  { off := 0xc024, rc := 0xffffffff },
  { off := 0xf000, wr := 0x3, own := true },
  { off := 0xf004, wr := 0xffffffff },
  { off := 0xf008, wr := 0x1, own := true, wo := true },
  { off := 0xf00c, wr := 0x1, own := true, wo := true },
  { off := 0xf010 },
  { off := 0xf014 },
  { off := 0xf018 },
  { off := 0xf01c },
  { off := 0xf020 }]

def rowsPL : List RegRow := rowsPL_0 ++ rowsPL_1

/-! Block BG (R396). -/

abbrev BG.ENG_CFG : Nat := 0x0
abbrev BG.ENG_STAT : Nat := 0x4
abbrev BG.ENG_CMD : Nat := 0x8
abbrev BG.ENG_IRQ_PEND : Nat := 0xc
abbrev BG.CH_CFG : Nat := 0x1000
abbrev BG.CH_PC : Nat := 0x1004
abbrev BG.CH_CMD : Nat := 0x1008
abbrev BG.CH_STAT : Nat := 0x100c
abbrev BG.CH_RESID : Nat := 0x1010
abbrev BG.CH_IDX0 : Nat := 0x1014
abbrev BG.CH_IDX1 : Nat := 0x1018
abbrev BG.CH_IDX2 : Nat := 0x101c
abbrev BG.CH_RATE : Nat := 0x1020
abbrev BG.CH_LATCH_LO : Nat := 0x1024
abbrev BG.CH_LATCH_HI : Nat := 0x1028
abbrev BG.CH_SW_LO : Nat := 0x102c
abbrev BG.CH_SW : Nat := 0x1030
abbrev BG.RING_BASE_LO : Nat := 0x1034
abbrev BG.RING_BASE_HI : Nat := 0x1038
abbrev BG.RING_LOG : Nat := 0x103c
abbrev BG.RING_CREDIT : Nat := 0x1040
abbrev BG.RING_CREDIT_HI : Nat := 0x1044
abbrev BG.RING_ADD : Nat := 0x1048
abbrev BG.CH_RECS : Nat := 0x104c
abbrev BG.CH_EVENTS : Nat := 0x1050
abbrev BG.CH_IRQ_EN : Nat := 0x1054
abbrev BG.RING_TOTAL_LO : Nat := 0x2000
abbrev BG.RING_TOTAL_HI : Nat := 0x2004
abbrev BG.BYTES : Nat := 0x2008
abbrev BG.RETRIES : Nat := 0x200c
abbrev BG.START_BUSY : Nat := 0x2010
abbrev BG.LATE_ERR : Nat := 0x2014
abbrev BG.PROG_LO : Nat := 0x4000
abbrev BG.PROG_HI : Nat := 0x4004

def rowsBG_0 : List RegRow := [
  { off := 0x0, reset := fun _ _ => 0x3#32, wr := 0x7 },
  { off := 0x4 },
  { off := 0x8, wr := 0x3, own := true, wo := true },
  { off := 0xc },
  { off := 0x1000, dims := [(0x80, 32)], wr := 0x71, own := true },
  { off := 0x1004, dims := [(0x80, 32)], wr := 0x7ff },
  { off := 0x1008, dims := [(0x80, 32)], wr := 0x1f, own := true, wo := true },
  { off := 0x100c, dims := [(0x80, 32)] },
  { off := 0x1010, dims := [(0x80, 32)] },
  { off := 0x1014, dims := [(0x80, 32)] },
  { off := 0x1018, dims := [(0x80, 32)] },
  { off := 0x101c, dims := [(0x80, 32)] },
  { off := 0x1020, dims := [(0x80, 32)], reset := fun _ _ => 0x40100#32, wr := 0x1ff01ff },
  { off := 0x1024, dims := [(0x80, 32)], w1c := 0xffffffff },
  { off := 0x1028, dims := [(0x80, 32)], w1c := 0xffffffff },
  { off := 0x102c, dims := [(0x80, 32)], wr := 0xffffffe0 },
  { off := 0x1030, dims := [(0x80, 32)], wr := 0x100ff },
  { off := 0x1034, dims := [(0x80, 32)], wr := 0xffffffff, own := true },
  { off := 0x1038, dims := [(0x80, 32)], wr := 0xff, own := true },
  { off := 0x103c, dims := [(0x80, 32)], reset := fun _ _ => 0xc#32, wr := 0x3f, own := true },
  { off := 0x1040, dims := [(0x80, 32)], reset := fun _ _ => 0x1000#32 },
  { off := 0x1044, dims := [(0x80, 32)] },
  { off := 0x1048, dims := [(0x80, 32)], wr := 0xffffffff, own := true, wo := true },
  { off := 0x104c, dims := [(0x80, 32)] },
  { off := 0x1050, dims := [(0x80, 32)], w1c := 0x7f },
  { off := 0x1054, dims := [(0x80, 32)], reset := fun _ _ => 0x7#32, wr := 0x7f },
  { off := 0x2000, dims := [(0x20, 32)] },
  { off := 0x2004, dims := [(0x20, 32)] },
  { off := 0x2008, dims := [(0x20, 32)], rc := 0xffffffff },
  { off := 0x200c, dims := [(0x20, 32)], rc := 0xffffffff },
  { off := 0x2010, dims := [(0x20, 32)], rc := 0xffffffff },
  { off := 0x2014, dims := [(0x20, 32)], rc := 0xffffffff },
  { off := 0x4000, dims := [(0x8, 2048)], wr := 0xffffffff },
  { off := 0x4004, dims := [(0x8, 2048)], wr := 0xffffffff }]

def rowsBG : List RegRow := rowsBG_0

/-! Block EF (R498). -/

abbrev EF.EN_LO : Nat := 0x0
abbrev EF.EN_HI : Nat := 0x4
abbrev EF.CH_CFG : Nat := 0x10000
abbrev EF.CH_REC : Nat := 0x10004
abbrev EF.LC_CTL : Nat := 0x20000
abbrev EF.LC_INAB : Nat := 0x20004
abbrev EF.LC_INCD : Nat := 0x20008
abbrev EF.LC_TT : Nat := 0x2000c
abbrev EF.LC_N : Nat := 0x20010
abbrev EF.LC_STAT : Nat := 0x20014
abbrev EF.LC_CMD : Nat := 0x20018
abbrev EF.TW_OPEN0 : Nat := 0x30000
abbrev EF.TW_OPEN1 : Nat := 0x30004
abbrev EF.TW_OPEN2 : Nat := 0x30008
abbrev EF.TW_CLOSE0 : Nat := 0x3000c
abbrev EF.TW_CLOSE1 : Nat := 0x30010
abbrev EF.TW_CLOSE2 : Nat := 0x30014
abbrev EF.TW_PER : Nat := 0x30018
abbrev EF.TW_CTL : Nat := 0x3001c
abbrev EF.ISEL : Nat := 0x40000
abbrev EF.PSEL : Nat := 0x40200
abbrev EF.IRQO_SEL : Nat := 0x40400
abbrev EF.PIN_CFG : Nat := 0x50000
abbrev EF.PIN_OUTSEL : Nat := 0x50004
abbrev EF.PIN_PULSE : Nat := 0x50008
abbrev EF.PIN_STAT : Nat := 0x5000c
abbrev EF.EF_CTL : Nat := 0x60000
abbrev EF.EF_COMMIT : Nat := 0x60004
abbrev EF.EF_CSTAT : Nat := 0x60008
abbrev EF.EF_EVENTS : Nat := 0x6000c
abbrev EF.EF_SW_PULSE : Nat := 0x60010
abbrev EF.COINCIDE : Nat := 0x70000
abbrev EF.OVERRUN : Nat := 0x70040
abbrev EF.IRQO_STAT : Nat := 0x70080
abbrev EF.LEVELS : Nat := 0x70084
abbrev EF.TI_COINCIDE : Nat := 0xf0000
abbrev EF.TI_OVERRUN : Nat := 0xf0004
abbrev EF.EC_MERGE : Nat := 0xf0008
abbrev EF.EC_GATED : Nat := 0xf000c
abbrev EF.EVREC_LOST : Nat := 0xf0010
abbrev EF.RELAY_DROP : Nat := 0xf0014
abbrev EF.RELAY_LATE : Nat := 0xf0018
abbrev EF.OWNER_REFUSED : Nat := 0xf001c
abbrev EF.PIN_CONFLICT : Nat := 0xf0020
abbrev EF.CELL_SUPPR : Nat := 0xf0024

def rowsEF_0 : List RegRow := [
  { off := 0x0, dims := [(0x8, 768)], wr := 0xffffffff, own := true },
  { off := 0x4, dims := [(0x8, 768)], wr := 0xffffffff, own := true },
  { off := 0x10000, dims := [(0x10, 64)], wr := 0xfffe81ff, own := true },
  { off := 0x10004, dims := [(0x10, 64)], wr := 0x8000007f, own := true },
  { off := 0x20000, dims := [(0x20, 16)], reset := fun _ _ => 0x10#32, wr := 0xe00f0331, own := true },
  { off := 0x20004, dims := [(0x20, 16)], wr := 0x73f073f, own := true },
  { off := 0x20008, dims := [(0x20, 16)], wr := 0x73f073f, own := true },
  { off := 0x2000c, dims := [(0x20, 16)], wr := 0xffff, own := true },
  { off := 0x20010, dims := [(0x20, 16)], reset := fun _ _ => 0x1#32, wr := 0xffff, own := true },
  { off := 0x20014, dims := [(0x20, 16)] },
  { off := 0x20018, dims := [(0x20, 16)], wr := 0x1, own := true, wo := true },
  { off := 0x30000, dims := [(0x20, 8)], wr := 0xffffffff, own := true },
  { off := 0x30004, dims := [(0x20, 8)], wr := 0xffffffff, own := true },
  { off := 0x30008, dims := [(0x20, 8)], wr := 0xffffffff, own := true },
  { off := 0x3000c, dims := [(0x20, 8)], wr := 0xffffffff, own := true },
  { off := 0x30010, dims := [(0x20, 8)], wr := 0xffffffff, own := true },
  { off := 0x30014, dims := [(0x20, 8)], wr := 0xffffffff, own := true },
  { off := 0x30018, dims := [(0x20, 8)], wr := 0xffffffff, own := true },
  { off := 0x3001c, dims := [(0x20, 8)], wr := 0x3, own := true },
  { off := 0x40000, dims := [(0x4, 128)], wr := 0x1fff0003, own := true },
  { off := 0x40200, dims := [(0x4, 128)], reset := fun _ _ => 0x10#32, wr := 0x1ff, own := true },
  { off := 0x40400, dims := [(0x4, 32)], wr := 0xbf, own := true },
  { off := 0x50000, dims := [(0x20, 4)], reset := fun _ _ => 0x40000#32, wr := 0xffff0f0f, lock := 0x8, own := true },
  { off := 0x50004, dims := [(0x20, 4)], wr := 0xbfbfbfbf, own := true },
  { off := 0x50008, dims := [(0x20, 4)], reset := fun _ _ => 0x3e8#32, wr := 0xffffffff, own := true },
  { off := 0x5000c, dims := [(0x20, 4)] },
  { off := 0x60000, reset := fun _ _ => 0xfa0#32, wr := 0x1ffff },
  { off := 0x60004, wr := 0x1, own := true, wo := true },
  { off := 0x60008 },
  { off := 0x6000c, w1c := 0xff },
  { off := 0x60010, wr := 0xff, own := true, wo := true },
  { off := 0x70000, dims := [(0x4, 16)], w1c := 0xffffffff },
  { off := 0x70040, dims := [(0x4, 16)], w1c := 0xffffffff },
  { off := 0x70080, w1c := 0xffffffff },
  { off := 0x70084 },
  { off := 0xf0000, rc := 0xffffffff },
  { off := 0xf0004, rc := 0xffffffff },
  { off := 0xf0008, rc := 0xffffffff },
  { off := 0xf000c, rc := 0xffffffff },
  { off := 0xf0010, rc := 0xffffffff }]

def rowsEF_1 : List RegRow := [
  { off := 0xf0014, rc := 0xffffffff },
  { off := 0xf0018, rc := 0xffffffff },
  { off := 0xf001c, rc := 0xffffffff },
  { off := 0xf0020, rc := 0xffffffff },
  { off := 0xf0024, rc := 0xffffffff }]

def rowsEF : List RegRow := rowsEF_0 ++ rowsEF_1

/-! Block AX (R519). -/

abbrev AX.AX_CTL : Nat := 0x0
abbrev AX.FILT : Nat := 0x4
abbrev AX.SSI_CFG : Nat := 0x8
abbrev AX.IDX_PERIOD : Nat := 0xc
abbrev AX.IDX_GATE : Nat := 0x10
abbrev AX.FAULT_CFG : Nat := 0x14
abbrev AX.OBS_GAIN : Nat := 0x18
abbrev AX.WIN_LOWER : Nat := 0x1c
abbrev AX.WIN_UPPER : Nat := 0x20
abbrev AX.REC_CFG : Nat := 0x24
abbrev AX.REF_VAL : Nat := 0x28
abbrev AX.AX_COMMIT : Nat := 0x2c
abbrev AX.AX_CMD : Nat := 0x30
abbrev AX.AX_CSTAT : Nat := 0x34
abbrev AX.AX_STAT : Nat := 0x38
abbrev AX.AX_EVENTS : Nat := 0x3c
abbrev AX.AX_IRQ_EN : Nat := 0x40
abbrev AX.IDX_BASE : Nat := 0x44
abbrev AX.IDX_CAPT : Nat := 0x48
abbrev AX.IDX_DIFF : Nat := 0x4c
abbrev AX.POS_OFS : Nat := 0x50
abbrev AX.SSI_RAW : Nat := 0x54
abbrev AX.COUNT : Nat := 0x8000
abbrev AX.POS : Nat := 0x8004
abbrev AX.SPEED : Nat := 0x8008
abbrev AX.ACCEL : Nat := 0x800c
abbrev AX.LAST_EDGE : Nat := 0x8010
abbrev AX.AX_ILLEGAL : Nat := 0x8020
abbrev AX.IDX_OUTSIDE : Nat := 0x8024
abbrev AX.IDX_MISMATCH : Nat := 0x8028
abbrev AX.AX_REC_LOST : Nat := 0x802c
abbrev AX.SSI_ERR : Nat := 0x8030

def rowsAX_0 : List RegRow := [
  { off := 0x0, wr := 0xcf },
  { off := 0x4, reset := fun _ _ => 0x19#32, wr := 0xff },
  { off := 0x8, reset := fun _ _ => 0x3e80a19#32, wr := 0xffffffbf },
  { off := 0xc, wr := 0xffffffff },
  { off := 0x10, reset := fun _ _ => 0x8#32, wr := 0xffff },
  { off := 0x14, reset := fun _ _ => 0x3e80010#32, wr := 0xffff00ff },
  { off := 0x18, reset := fun _ _ => 0x150d06#32, wr := 0x1f1f1f },
  { off := 0x1c, wr := 0xffffffff },
  { off := 0x20, wr := 0xffffffff },
  { off := 0x24, wr := 0x3f1fffff },
  { off := 0x28, wr := 0xffffffff },
  { off := 0x2c, wr := 0x1, own := true, wo := true },
  { off := 0x30, wr := 0x7, own := true, wo := true },
  { off := 0x34 },
  { off := 0x38 },
  { off := 0x3c, w1c := 0x3ff },
  { off := 0x40, wr := 0x3ff },
  { off := 0x44 },
  { off := 0x48 },
  { off := 0x4c },
  { off := 0x50 },
  { off := 0x54 },
  { off := 0x8000 },
  { off := 0x8004 },
  { off := 0x8008 },
  { off := 0x800c },
  { off := 0x8010, dims := [(0x4, 3)] },
  { off := 0x8020, rc := 0xffffffff },
  { off := 0x8024, rc := 0xffffffff },
  { off := 0x8028, rc := 0xffffffff },
  { off := 0x802c, rc := 0xffffffff },
  { off := 0x8030, rc := 0xffffffff }]

def rowsAX : List RegRow := rowsAX_0

/-! Block CK (R609). -/

abbrev CK.CK_CTL : Nat := 0x0
abbrev CK.CK_BASE_LO : Nat := 0x4
abbrev CK.CK_BASE_HI : Nat := 0x8
abbrev CK.CK_LEN : Nat := 0xc
abbrev CK.CK_EXPECT : Nat := 0x10
abbrev CK.CK_RESULT : Nat := 0x14
abbrev CK.CK_CMD : Nat := 0x18
abbrev CK.CK_STAT : Nat := 0x1c
abbrev CK.CK_EVENTS : Nat := 0x20
abbrev CK.CK_IRQ_EN : Nat := 0x24
abbrev CK.CK_MISMATCH : Nat := 0x28

def rowsCK_0 : List RegRow := [
  { off := 0x0, wr := 0xf7f1f },
  { off := 0x4, wr := 0xffffffff },
  { off := 0x8, wr := 0xff },
  { off := 0xc, wr := 0xffffffff },
  { off := 0x10, wr := 0xffffffff },
  { off := 0x14 },
  { off := 0x18, wr := 0x3, own := true, wo := true },
  { off := 0x1c },
  { off := 0x20, w1c := 0x7 },
  { off := 0x24, wr := 0x7 },
  { off := 0x28 }]

def rowsCK : List RegRow := rowsCK_0

/-! Block TB (R251, R84). -/

abbrev TB.NOW0 : Nat := 0x0
abbrev TB.NOW1 : Nat := 0x4
abbrev TB.NOW2 : Nat := 0x8
abbrev TB.PPSCAP0 : Nat := 0x10
abbrev TB.PPSCAP1 : Nat := 0x14
abbrev TB.PPSCAP2 : Nat := 0x18
abbrev TB.PPSCAP_CNT : Nat := 0x1c
abbrev TB.CTL : Nat := 0x1000
abbrev TB.STATUS : Nat := 0x1004
abbrev TB.RATE_ADJ : Nat := 0x1008
abbrev TB.RATE_SET : Nat := 0x100c
abbrev TB.SET0 : Nat := 0x1010
abbrev TB.SET1 : Nat := 0x1014
abbrev TB.SET2 : Nat := 0x1018
abbrev TB.SLEW_NS : Nat := 0x101c
abbrev TB.SLEW_SUB : Nat := 0x1020
abbrev TB.SLEW_RATE : Nat := 0x1024
abbrev TB.SLEW_RESID : Nat := 0x1028
abbrev TB.COMMIT : Nat := 0x102c
abbrev TB.HOLD_DRIFT : Nat := 0x1040
abbrev TB.HOLD_LIMIT : Nat := 0x1044
abbrev TB.HOLD_EST : Nat := 0x1048
abbrev TB.SERVO : Nat := 0x1050
abbrev TB.STEP_THRESH : Nat := 0x1054
abbrev TB.ALIGN_OFS : Nat := 0x1060
abbrev TB.ALIGN_MAX : Nat := 0x1064
abbrev TB.PPSOUT_WIDTH : Nat := 0x1070
abbrev TB.PPSOUT_OFS : Nat := 0x1074
abbrev TB.PPSIN_OFS : Nat := 0x1078
abbrev TB.PPS_WINDOW : Nat := 0x107c
abbrev TB.PPS_OUTLIER : Nat := 0x1080
abbrev TB.PPS_REACQ : Nat := 0x1084
abbrev TB.HIER_CTL : Nat := 0x1090
abbrev TB.DEAL_INTERVAL : Nat := 0x1094
abbrev TB.HOP_DELAY : Nat := 0x1098
abbrev TB.HOP_ASYM : Nat := 0x109c
abbrev TB.DEAL_OFS : Nat := 0x10a0
abbrev TB.DEAL_RX : Nat := 0x10a4
abbrev TB.DEAL_BAD : Nat := 0x10a8
abbrev TB.DEAL_FOREIGN : Nat := 0x10ac
abbrev TB.SYNT_OFS : Nat := 0x10b0
abbrev TB.ALARM_T0 : Nat := 0x2000
abbrev TB.ALARM_T1 : Nat := 0x2004
abbrev TB.ALARM_T2 : Nat := 0x2008
abbrev TB.ALARM_PER : Nat := 0x200c
abbrev TB.ALARM_CTL : Nat := 0x2010
abbrev TB.ALARM_STAT : Nat := 0x2014
abbrev TB.ALARM_COMMIT : Nat := 0x2018
abbrev TB.EPOCH_ACT0 : Nat := 0x10000
abbrev TB.EPOCH_ACT1 : Nat := 0x10004
abbrev TB.EPOCH_ACT2 : Nat := 0x10008
abbrev TB.SCHED_EVENTS : Nat := 0x10010
abbrev TB.SCHED_IRQ_EN : Nat := 0x10014
abbrev TB.S_CTL : Nat := 0x20000
abbrev TB.PERIOD : Nat := 0x20004
abbrev TB.PHASE : Nat := 0x20008
abbrev TB.EXP_LEN : Nat := 0x2000c
abbrev TB.TRIG_LAT : Nat := 0x20010
abbrev TB.TRIG_LEN : Nat := 0x20014
abbrev TB.STROBE_OFS : Nat := 0x20018
abbrev TB.STROBE_LEN : Nat := 0x2001c
abbrev TB.MIN_GAP : Nat := 0x20020
abbrev TB.S_STAT : Nat := 0x20024
abbrev TB.LAUNCHED : Nat := 0x30000
abbrev TB.NOT_LAUNCHED : Nat := 0x30004
abbrev TB.LAUNCH_LATE : Nat := 0x30008
abbrev TB.SCHED_SKIP : Nat := 0x3000c
abbrev TB.STEP_SKIP : Nat := 0x30010
abbrev TB.LEAD : Nat := 0x40000
abbrev TB.MIN_MARGIN : Nat := 0x40004

/-- The TB registers of a concentrator: those of R84 marked "steward" are reserved there, and so are the fields of CTL (R60, R85). -/
def rowsTB_0 : List RegRow := [
  { off := 0x0 },
  { off := 0x4 },
  { off := 0x8 },
  { off := 0x1000 },
  { off := 0x1004, reset := fun _ _ => 0x4#32 },
  { off := 0x1008 },
  { off := 0x1060 },
  { off := 0x1098 },
  { off := 0x109c },
  { off := 0x10a0 },
  { off := 0x10a4 },
  { off := 0x10a8 },
  { off := 0x10ac }]

def rowsTB_1 : List RegRow := [
  { off := 0x10b0 },
  { off := 0x2000, dims := [(0x20, 16)], wr := 0xffffffff },
  { off := 0x2004, dims := [(0x20, 16)], wr := 0xffffffff },
  { off := 0x2008, dims := [(0x20, 16)], wr := 0xffffffff },
  { off := 0x200c, dims := [(0x20, 16)], wr := 0xffffffff },
  { off := 0x2010, dims := [(0x20, 16)], wr := 0x7 },
  { off := 0x2014, dims := [(0x20, 16)], w1c := 0x7 },
  { off := 0x2018, dims := [(0x20, 16)], wr := 0x1, own := true, wo := true },
  { off := 0x10000 },
  { off := 0x10004 },
  { off := 0x10008 },
  { off := 0x10010, w1c := 0x3f },
  { off := 0x10014, wr := 0x3f },
  { off := 0x20000, dims := [(0x40, 128)], reset := fun _ _ => 0x4#32, wr := 0x3f0f77 },
  { off := 0x20004, dims := [(0x40, 128)], reset := fun _ _ => 0x2625a00#32, wr := 0xffffffff },
  { off := 0x20008, dims := [(0x40, 128)], wr := 0xffffffff },
  { off := 0x2000c, dims := [(0x40, 128)], reset := fun _ _ => 0x7a120#32, wr := 0xffffffff, own := true },
  { off := 0x20010, dims := [(0x40, 128)], wr := 0xffffffff },
  { off := 0x20014, dims := [(0x40, 128)], reset := fun _ _ => 0x2710#32, wr := 0xffffffff },
  { off := 0x20018, dims := [(0x40, 128)], wr := 0xffffffff },
  { off := 0x2001c, dims := [(0x40, 128)], reset := fun _ _ => 0x7a120#32, wr := 0xffffffff },
  { off := 0x20020, dims := [(0x40, 128)], wr := 0xffffffff },
  { off := 0x20024, dims := [(0x40, 128)] },
  { off := 0x30000, dims := [(0x20, 128)], rc := 0xffffffff },
  { off := 0x30004, dims := [(0x20, 128)], rc := 0xffffffff },
  { off := 0x30008, dims := [(0x20, 128)], rc := 0xffffffff },
  { off := 0x3000c, dims := [(0x20, 128)], rc := 0xffffffff },
  { off := 0x30010, dims := [(0x20, 128)], rc := 0xffffffff },
  { off := 0x40000, dims := [(0x8, 32)], reset := fun _ _ => 0x186a0#32, wr := 0xffffffff, own := true },
  { off := 0x40004, dims := [(0x8, 32)], reset := fun _ _ => 0x4e20#32, wr := 0xffffffff, own := true }]

def rowsTB : List RegRow := rowsTB_0 ++ rowsTB_1

/-! Block IQ (R471). -/

abbrev IQ.SRC_CFG : Nat := 0x0
abbrev IQ.LEVEL : Nat := 0x400
abbrev IQ.SW_SET : Nat := 0x420
abbrev IQ.SW_CLR : Nat := 0x424
abbrev IQ.SNAP_CMD : Nat := 0x428
abbrev IQ.KP_CLAIM : Nat := 0x1000
abbrev IQ.KP_COMPLETE : Nat := 0x1004

def rowsIQ_0 : List RegRow := [
  { off := 0x0, dims := [(0x4, 250)], reset := fun _ _ => 0x3#32, wr := 0xf },
  { off := 0x400, dims := [(0x4, 8)] },
  { off := 0x420, wr := 0xffff, own := true, wo := true },
  { off := 0x424, wr := 0xffff, own := true, wo := true },
  { off := 0x428, wr := 0x3, own := true, wo := true },
  { off := 0x1000, dims := [(0x8, 2)], rc := 0xffffffff },
  { off := 0x1004, dims := [(0x8, 2)], wr := 0xff, own := true, wo := true }]

def rowsIQ : List RegRow := rowsIQ_0

/-! Block BR (R468, R607). -/

abbrev BR.MOD_STAT : Nat := 0x0
abbrev BR.MOD_CMD : Nat := 0x4
abbrev BR.RETRAIN_LIMIT : Nat := 0x8
abbrev BR.NP_TIMEOUT : Nat := 0xc
abbrev BR.CREDIT_STAT : Nat := 0x10
abbrev BR.BR_EVENTS : Nat := 0x14
abbrev BR.BR_IRQ_EN : Nat := 0x18
abbrev BR.CRC_ERR : Nat := 0x8000
abbrev BR.REPLAYS : Nat := 0x8004
abbrev BR.RETRAINS : Nat := 0x8008
abbrev BR.RETRAINED_RD : Nat := 0x800c
abbrev BR.P_DISCARD : Nat := 0x8010
abbrev BR.NP_TIMEOUTS : Nat := 0x8014
abbrev BR.PF_HIT : Nat := 0x8018
abbrev BR.PF_DISCARD : Nat := 0x801c
abbrev BR.FO_CTL : Nat := 0x2000
abbrev BR.FO_STAT : Nat := 0x2004
abbrev BR.FO_EVENTS : Nat := 0x2008
abbrev BR.FO_IRQ_EN : Nat := 0x200c
abbrev BR.HB_MISSED : Nat := 0x8020

def rowsBR_0 : List RegRow := [
  { off := 0x0, dims := [(0x1000, 2)], reset := fun _ _ => 0x2#32 },
  { off := 0x4, dims := [(0x1000, 2)], wr := 0x7, own := true, wo := true },
  { off := 0x8, dims := [(0x1000, 2)], reset := fun _ _ => 0x32#32, wr := 0xffffffff },
  { off := 0xc, dims := [(0x1000, 2)], reset := fun _ _ => 0x3e8#32, wr := 0xffffffff },
  { off := 0x10, dims := [(0x1000, 2)] },
  { off := 0x14, dims := [(0x1000, 2)], w1c := 0x3f },
  { off := 0x18, dims := [(0x1000, 2)], reset := fun _ _ => 0x6#32, wr := 0x3f },
  { off := 0x8000, dims := [(0x100, 2)], rc := 0xffffffff },
  { off := 0x8004, dims := [(0x100, 2)], rc := 0xffffffff },
  { off := 0x8008, dims := [(0x100, 2)], rc := 0xffffffff },
  { off := 0x800c, dims := [(0x100, 2)], rc := 0xffffffff },
  { off := 0x8010, dims := [(0x100, 2)], rc := 0xffffffff },
  { off := 0x8014, dims := [(0x100, 2)], rc := 0xffffffff },
  { off := 0x8018, dims := [(0x100, 2)], rc := 0xffffffff },
  { off := 0x801c, dims := [(0x100, 2)], rc := 0xffffffff },
  { off := 0x2000, reset := fun _ _ => 0x3#32, wr := 0x10f },
  { off := 0x2004 },
  { off := 0x2008, w1c := 0x1f },
  { off := 0x200c, wr := 0x1f },
  { off := 0x8020, dims := [(0x100, 2)], rc := 0xffffffff }]

def rowsBR : List RegRow := rowsBR_0

/-! Block KP (R696). -/

abbrev KP.KP_CTL : Nat := 0x0
abbrev KP.KP_STAT : Nat := 0x4
abbrev KP.KP_LOAD_ADDR : Nat := 0x8
abbrev KP.KP_LOAD_DATA : Nat := 0xc
abbrev KP.KP_CMD : Nat := 0x10
abbrev KP.KP_IDLE : Nat := 0x14

def rowsKP_0 : List RegRow := [
  { off := 0x0, reset := fun _ _ => 0x3#32, wr := 0x3, own := true },
  { off := 0x4 },
  { off := 0x8, wr := 0x3fffc },
  { off := 0xc, wr := 0xffffffff, own := true, wo := true },
  { off := 0x10, wr := 0x7, own := true, wo := true },
  { off := 0x14, wr := 0x1, own := true, wo := true }]

def rowsKP : List RegRow := rowsKP_0

/-! Block SM (R470, R610, R721). -/

abbrev SM.SEM_CMD : Nat := 0x0
abbrev SM.SEM_STAT : Nat := 0x4
abbrev SM.SEM_HELD_LO : Nat := 0x200
abbrev SM.SEM_HELD_HI : Nat := 0x204
abbrev SM.SEM_FORCE : Nat := 0x208
abbrev SM.SEM_EVENTS : Nat := 0x20c
abbrev SM.SEM_IRQ_EN : Nat := 0x210
abbrev SM.SEM_BAD_REL : Nat := 0x214
abbrev SM.EL_LOST : Nat := 0x1000
abbrev SM.EL_WR : Nat := 0x2000
abbrev SM.EL_RD : Nat := 0x2004
abbrev SM.EL_IRQ_EN : Nat := 0x2008
abbrev SM.EL_ENTRY : Nat := 0x3000
abbrev SM.SCRUB_CTL : Nat := 0x6000
abbrev SM.SCRUB_PERIOD : Nat := 0x6004
abbrev SM.SCRUB_PASSES : Nat := 0x6008
abbrev SM.SCRUB_CORR : Nat := 0x600c
abbrev SM.SCRUB_UNCORR : Nat := 0x6010
abbrev SM.SCRUB_EVENTS : Nat := 0x6014
abbrev SM.SCRUB_IRQ_EN : Nat := 0x6018
abbrev SM.PCC_CTL : Nat := 0x7000
abbrev SM.PCC_ILIM : Nat := 0x7004
abbrev SM.PCC_ON : Nat := 0x7008
abbrev SM.PCC_PGOOD : Nat := 0x700c
abbrev SM.PCC_FAULT : Nat := 0x7010
abbrev SM.PCC_EVENTS : Nat := 0x7014
abbrev SM.PCC_IRQ_EN : Nat := 0x7018
abbrev SM.PCC_CHAIN_ERR : Nat := 0x701c
abbrev SM.TEMP : Nat := 0x7040

def rowsSM_0 : List RegRow := [
  { off := 0x0, dims := [(0x8, 64)], wr := 0x3, own := true, wo := true },
  { off := 0x4, dims := [(0x8, 64)] },
  { off := 0x200 },
  { off := 0x204 },
  { off := 0x208, wr := 0x1ff, own := true, wo := true },
  { off := 0x20c, w1c := 0x3 },
  { off := 0x210, wr := 0x3 },
  { off := 0x214 },
  { off := 0x1000, rc := 0xffffffff },
  { off := 0x2000 },
  { off := 0x2004, wr := 0xff },
  { off := 0x2008, wr := 0x1 },
  { off := 0x3000, dims := [(0x4, 2048)] },
  { off := 0x6000, reset := fun _ _ => 0x1#32, wr := 0x1 },
  { off := 0x6004, reset := fun _ _ => 0x15180#32, wr := 0xffffffff },
  { off := 0x6008 },
  { off := 0x600c },
  { off := 0x6010 },
  { off := 0x6014, w1c := 0x3 },
  { off := 0x6018, wr := 0x3 },
  { off := 0x7000, reset := fun _ _ => 0x320201#32, wr := 0xff3f01 },
  { off := 0x7004, wr := 0xffffffff },
  { off := 0x7008 },
  { off := 0x700c },
  { off := 0x7010 },
  { off := 0x7014, w1c := 0x7 },
  { off := 0x7018, wr := 0x7 },
  { off := 0x701c },
  { off := 0x7040 }]

def rowsSM : List RegRow := rowsSM_0

/-! Block SC (R676, R695). -/

abbrev SC.BOOT_STAT : Nat := 0x10
abbrev SC.BOOT_CMD : Nat := 0x14
abbrev SC.RESET_CAUSE : Nat := 0x18
abbrev SC.STAGE_LO : Nat := 0x1c
abbrev SC.STAGE_HI : Nat := 0x20
abbrev SC.ROOT_HASH : Nat := 0x40
abbrev SC.ROOT_PROG : Nat := 0x60
abbrev SC.ROOT_COMMIT : Nat := 0x80
abbrev SC.DBG_CTL : Nat := 0x100
abbrev SC.DBG_STAT : Nat := 0x104
abbrev SC.TEMP : Nat := 0x108

def rowsSC_0 : List RegRow := [
  { off := 0x10, reset := fun _ _ => 0x1#32 },
  { off := 0x14, wr := 0xf, own := true, wo := true },
  { off := 0x18, reset := fun _ _ => 0x1#32 },
  { off := 0x1c, wr := 0xfffff001 },
  { off := 0x20, wr := 0x3 },
  { off := 0x40, dims := [(0x4, 8)] },
  { off := 0x60, dims := [(0x4, 8)], wr := 0xffffffff, wo := true },
  { off := 0x80, wr := 0x1, own := true, wo := true },
  { off := 0x100, reset := fun _ _ => 0xc8#32, wr := 0xffff },
  { off := 0x104 },
  { off := 0x108 }]

def rowsSC : List RegRow := rowsSC_0

/-! Block IQS (R472). -/

abbrev IQS.ROUTE : Nat := 0x0
abbrev IQS.PEND : Nat := 0x2000
abbrev IQS.CTX_THRESH : Nat := 0x3000
abbrev IQS.SW_SET : Nat := 0x3020
abbrev IQS.SW_CLR : Nat := 0x3024
abbrev IQS.CTX_CLAIM : Nat := 0x4000
abbrev IQS.CTX_COMPLETE : Nat := 0x4004

def rowsIQS_0 : List RegRow := [
  { off := 0x0, dims := [(0x4, 1280)], wr := 0xff07 },
  { off := 0x2000, dims := [(0x4, 40)] },
  { off := 0x3000, dims := [(0x4, 8)], wr := 0x7 },
  { off := 0x3020, wr := 0xffff, own := true, wo := true },
  { off := 0x3024, wr := 0xffff, own := true, wo := true },
  { off := 0x4000, dims := [(0x8, 8)], rc := 0xffffffff },
  { off := 0x4004, dims := [(0x8, 8)], wr := 0x7ff, own := true, wo := true }]

def rowsIQS : List RegRow := rowsIQS_0

/-! Block SM (R470, R610). -/


def rowsSMS_0 : List RegRow := [
  { off := 0x0, dims := [(0x8, 64)], wr := 0x3, own := true, wo := true },
  { off := 0x4, dims := [(0x8, 64)] },
  { off := 0x200 },
  { off := 0x204 },
  { off := 0x208, wr := 0x1ff, own := true, wo := true },
  { off := 0x20c, w1c := 0x3 },
  { off := 0x210, wr := 0x3 },
  { off := 0x214 },
  { off := 0x1000, rc := 0xffffffff },
  { off := 0x2000 },
  { off := 0x2004, wr := 0xff },
  { off := 0x2008, wr := 0x1 },
  { off := 0x3000, dims := [(0x4, 2048)] }]

def rowsSMS : List RegRow := rowsSMS_0

/-! Block CK (R609). -/


def rowsCKS_0 : List RegRow := [
  { off := 0x0, wr := 0xf7f1f },
  { off := 0x4, wr := 0xffffffff },
  { off := 0x8, wr := 0xff },
  { off := 0xc, wr := 0xffffffff },
  { off := 0x10, wr := 0xffffffff },
  { off := 0x14 },
  { off := 0x18, wr := 0x3, own := true, wo := true },
  { off := 0x1c },
  { off := 0x20, w1c := 0x7 },
  { off := 0x24, wr := 0x7 },
  { off := 0x28 }]

def rowsCKS : List RegRow := rowsCKS_0

/-! Block TB (R253, R84). -/

abbrev TB.SCHED_ACT0 : Nat := 0x10c0
abbrev TB.SCHED_ACT1 : Nat := 0x10c4
abbrev TB.SCHED_ACT2 : Nat := 0x10c8
abbrev TB.SCHED_COMMIT : Nat := 0x10cc
abbrev TB.SCHED_CSTAT : Nat := 0x10d0
abbrev TB.SCHED_CONFLICT : Nat := 0x10d4
abbrev TB.EPOCH0 : Nat := 0x10e0
abbrev TB.EPOCH1 : Nat := 0x10e4
abbrev TB.EPOCH2 : Nat := 0x10e8
abbrev TB.GRP_PERIOD : Nat := 0x3000
abbrev TB.GRP_GUARD : Nat := 0x3004

def rowsTBS_0 : List RegRow := [
  { off := 0x0 },
  { off := 0x4 },
  { off := 0x8 },
  { off := 0x10 },
  { off := 0x14 },
  { off := 0x18 },
  { off := 0x1c, rc := 0xffffffff },
  { off := 0x1000, wr := 0xf },
  { off := 0x1004, reset := fun _ _ => 0x4#32 },
  { off := 0x1008 },
  { off := 0x100c, wr := 0xffffffff },
  { off := 0x1010, wr := 0xffffffff },
  { off := 0x1014, wr := 0xffffffff },
  { off := 0x1018, wr := 0xffffffff },
  { off := 0x101c, wr := 0xffffffff },
  { off := 0x1020, wr := 0xffff },
  { off := 0x1024, reset := fun _ _ => 0x186a0#32, wr := 0xffffffff },
  { off := 0x1028 },
  { off := 0x102c, wr := 0xf, own := true, wo := true },
  { off := 0x1040, reset := fun _ _ => 0x64#32, wr := 0xffffffff },
  { off := 0x1044, reset := fun _ _ => 0x3e8#32, wr := 0xffffffff },
  { off := 0x1048 },
  { off := 0x1050, reset := fun _ _ => 0xa04#32, wr := 0x1f1f },
  { off := 0x1054, reset := fun _ _ => 0x3e8#32, wr := 0xffffffff },
  { off := 0x1060 },
  { off := 0x1064 },
  { off := 0x1070, reset := fun _ _ => 0x5f5e100#32, wr := 0xffffffff },
  { off := 0x1074, wr := 0xffffffff },
  { off := 0x1078, wr := 0xffffffff },
  { off := 0x107c, reset := fun _ _ => 0x3e8#32, wr := 0xffffffff },
  { off := 0x1080 },
  { off := 0x1084 },
  { off := 0x1090, wr := 0xff00ff0f, lock := 0xff00ff0f },
  { off := 0x1094, reset := fun _ _ => 0x3e8#32, wr := 0xffffffff },
  { off := 0x1098 },
  { off := 0x109c },
  { off := 0x10a0 },
  { off := 0x10a4 },
  { off := 0x10a8 },
  { off := 0x10ac }]

def rowsTBS_1 : List RegRow := [
  { off := 0x10b0 },
  { off := 0x2000, dims := [(0x20, 16)], wr := 0xffffffff },
  { off := 0x2004, dims := [(0x20, 16)], wr := 0xffffffff },
  { off := 0x2008, dims := [(0x20, 16)], wr := 0xffffffff },
  { off := 0x200c, dims := [(0x20, 16)], wr := 0xffffffff },
  { off := 0x2010, dims := [(0x20, 16)], wr := 0x7 },
  { off := 0x2014, dims := [(0x20, 16)], w1c := 0x7 },
  { off := 0x2018, dims := [(0x20, 16)], wr := 0x1, own := true, wo := true },
  { off := 0x10c0, wr := 0xffffffff },
  { off := 0x10c4, wr := 0xffffffff },
  { off := 0x10c8, wr := 0xffffffff },
  { off := 0x10cc, wr := 0x3, own := true, wo := true },
  { off := 0x10d0 },
  { off := 0x10d4 },
  { off := 0x10e0, wr := 0xffffffff },
  { off := 0x10e4, wr := 0xffffffff },
  { off := 0x10e8, wr := 0xffffffff },
  { off := 0x3000, dims := [(0x8, 64)], reset := fun _ _ => 0x2625a00#32, wr := 0xffffffff },
  { off := 0x3004, dims := [(0x8, 64)], wr := 0xffffffff }]

def rowsTBS : List RegRow := rowsTBS_0 ++ rowsTBS_1

/-! Block BRS (R468, R608). -/

abbrev BRS.MOD_STAT : Nat := 0x0
abbrev BRS.MOD_CMD : Nat := 0x4
abbrev BRS.RETRAIN_LIMIT : Nat := 0x8
abbrev BRS.NP_TIMEOUT : Nat := 0xc
abbrev BRS.CREDIT_STAT : Nat := 0x10
abbrev BRS.BR_EVENTS : Nat := 0x14
abbrev BRS.BR_IRQ_EN : Nat := 0x18
abbrev BRS.PF_BASE : Nat := 0x100
abbrev BRS.PF_LIMIT : Nat := 0x104
abbrev BRS.PF_STAT : Nat := 0x108
abbrev BRS.PF_CTL : Nat := 0x180
abbrev BRS.PF_CMD : Nat := 0x184
abbrev BRS.CRC_ERR : Nat := 0x8000
abbrev BRS.REPLAYS : Nat := 0x8004
abbrev BRS.RETRAINS : Nat := 0x8008
abbrev BRS.RETRAINED_RD : Nat := 0x800c
abbrev BRS.P_DISCARD : Nat := 0x8010
abbrev BRS.NP_TIMEOUTS : Nat := 0x8014
abbrev BRS.PF_HIT : Nat := 0x8018
abbrev BRS.PF_DISCARD : Nat := 0x801c
abbrev BRS.FO_CTL : Nat := 0x2000
abbrev BRS.FO_STAT : Nat := 0x2004
abbrev BRS.FO_CMD : Nat := 0x2008
abbrev BRS.FO_EVENTS : Nat := 0x200c
abbrev BRS.FO_IRQ_EN : Nat := 0x2010
abbrev BRS.FO_TIME : Nat := 0x2014
abbrev BRS.FO_DURATION : Nat := 0x2020
abbrev BRS.HB_MISSED : Nat := 0x8020

def rowsBRS_0 : List RegRow := [
  { off := 0x0, reset := fun _ _ => 0x2#32 },
  { off := 0x4, wr := 0x7, own := true, wo := true },
  { off := 0x8, reset := fun _ _ => 0x32#32, wr := 0xffffffff },
  { off := 0xc, reset := fun _ _ => 0x3e8#32, wr := 0xffffffff },
  { off := 0x10 },
  { off := 0x14, w1c := 0x3f },
  { off := 0x18, reset := fun _ _ => 0x6#32, wr := 0x3f },
  { off := 0x100, dims := [(0x10, 8)], wr := 0xfffffff, own := true },
  { off := 0x104, dims := [(0x10, 8)], wr := 0xfffffff, own := true },
  { off := 0x108, dims := [(0x10, 8)] },
  { off := 0x180, reset := fun _ _ => 0x1000000#32, wr := 0xfff0001 },
  { off := 0x184, wr := 0x1, own := true, wo := true },
  { off := 0x8000, rc := 0xffffffff },
  { off := 0x8004, rc := 0xffffffff },
  { off := 0x8008, rc := 0xffffffff },
  { off := 0x800c, rc := 0xffffffff },
  { off := 0x8010, rc := 0xffffffff },
  { off := 0x8014, rc := 0xffffffff },
  { off := 0x8018, rc := 0xffffffff },
  { off := 0x801c, rc := 0xffffffff },
  { off := 0x2000, reset := fun _ _ => 0x3e80103#32, wr := 0xffff010f },
  { off := 0x2004 },
  { off := 0x2008, wr := 0x7, own := true, wo := true },
  { off := 0x200c, w1c := 0x7f },
  { off := 0x2010, wr := 0x7f },
  { off := 0x2014, dims := [(0x4, 3)] },
  { off := 0x2020 },
  { off := 0x8020, rc := 0xffffffff }]

def rowsBRS : List RegRow := rowsBRS_0

/-! Block JN (R552). -/

abbrev JN.JN_CTL : Nat := 0x0
abbrev JN.JN_STAT : Nat := 0x4
abbrev JN.JN_EVENTS : Nat := 0x8
abbrev JN.JN_IRQ_EN : Nat := 0xc
abbrev JN.JN_CMD : Nat := 0x10
abbrev JN.WEIR_TIME : Nat := 0x14
abbrev JN.COMMIT_LAT : Nat := 0x18
abbrev JN.PAD_LIMIT : Nat := 0x1c
abbrev JN.LANES : Nat := 0x20
abbrev JN.GRAN : Nat := 0x24
abbrev JN.WINDOW : Nat := 0x28
abbrev JN.INFLIGHT : Nat := 0x2c
abbrev JN.LIFE : Nat := 0x30
abbrev JN.ENDUR_OVR : Nat := 0x34
abbrev JN.DEV_BUDGET : Nat := 0x38
abbrev JN.FLOOR : Nat := 0x3c
abbrev JN.WEAR : Nat := 0x40
abbrev JN.EOL_LO : Nat := 0x44
abbrev JN.EOL_HI : Nat := 0x48
abbrev JN.WA_HOST : Nat := 0x4c
abbrev JN.WA_MEDIA : Nat := 0x50
abbrev JN.WRITE_RATE : Nat := 0x54
abbrev JN.FLUSH_MAX : Nat := 0x58
abbrev JN.ANCHOR_MAX : Nat := 0x5c
abbrev JN.MEDIUM_ID : Nat := 0x60
abbrev JN.STAGE_BASE : Nat := 0x70
abbrev JN.STAGE_SIZE : Nat := 0x74
abbrev JN.PRE_BASE : Nat := 0x78
abbrev JN.PRE_SIZE : Nat := 0x7c
abbrev JN.PAYLOAD_LO : Nat := 0x1000
abbrev JN.HOST_LO : Nat := 0x1008
abbrev JN.PAD_LO : Nat := 0x1010
abbrev JN.TORN_LO : Nat := 0x1018
abbrev JN.MEDIA_LO : Nat := 0x1020
abbrev JN.JSEQ_DONE_LO : Nat := 0x1028
abbrev JN.COMMITS : Nat := 0x1040
abbrev JN.PAD_OVER : Nat := 0x1044
abbrev JN.APPEND_RETRY : Nat := 0x1048
abbrev JN.LANE_FAULT : Nat := 0x104c
abbrev JN.RECYCLED : Nat := 0x1050
abbrev JN.GOV_SKIP : Nat := 0x1054
abbrev JN.REC_DISCARD : Nat := 0x1058
abbrev JN.CLIP_TRIG : Nat := 0x105c
abbrev JN.CLIP_SHORT : Nat := 0x1060
abbrev JN.PREROLL_DROP : Nat := 0x1064
abbrev JN.ANCHOR_PEER_FAIL : Nat := 0x1068
abbrev JN.JR_CFG : Nat := 0x2000
abbrev JN.JR_TAIL_LO : Nat := 0x2004
abbrev JN.JR_TAIL_HI : Nat := 0x2008
abbrev JN.JR_POS_LO : Nat := 0x200c
abbrev JN.JR_POS_HI : Nat := 0x2010
abbrev JN.SG_CFG : Nat := 0x4000
abbrev JN.SG_BUDGET : Nat := 0x4004
abbrev JN.SG_BURST : Nat := 0x4008
abbrev JN.SG_FILTER : Nat := 0x400c
abbrev JN.CL_CTL : Nat := 0x6000
abbrev JN.CL_PRE : Nat := 0x6004
abbrev JN.CL_POST : Nat := 0x6008
abbrev JN.CL_S : Nat := 0x600c
abbrev JN.PAYLOAD_HI : Nat := 0x1004
abbrev JN.HOST_HI : Nat := 0x100c
abbrev JN.PAD_HI : Nat := 0x1014
abbrev JN.TORN_HI : Nat := 0x101c
abbrev JN.MEDIA_HI : Nat := 0x1024
abbrev JN.JSEQ_DONE_HI : Nat := 0x102c

def rowsJN_0 : List RegRow := [
  { off := 0x0, reset := fun _ _ => 0xd#32, wr := 0xf },
  { off := 0x4 },
  { off := 0x8, w1c := 0x7ff73ff7 },
  { off := 0xc, wr := 0x7ff73ff7 },
  { off := 0x10, wr := 0x1f, own := true, wo := true },
  { off := 0x14, reset := fun _ _ => 0x7d001f4#32, wr := 0xffffffff },
  { off := 0x18, reset := fun _ _ => 0x7d00064#32, wr := 0xffffffff },
  { off := 0x1c, reset := fun _ _ => 0x2710#32, wr := 0xffffffff },
  { off := 0x20, reset := fun _ _ => 0x4#32, wr := 0xf },
  { off := 0x24, reset := fun _ _ => 0x1000#32 },
  { off := 0x28 },
  { off := 0x2c },
  { off := 0x30, reset := fun _ _ => 0x180f#32, wr := 0xffff },
  { off := 0x34, wr := 0xffffffff },
  { off := 0x38 },
  { off := 0x3c, wr := 0xffffffff },
  { off := 0x40 },
  { off := 0x44, reset := fun _ _ => 0xffffffff#32 },
  { off := 0x48, reset := fun _ _ => 0xffff#32 },
  { off := 0x4c, reset := fun _ _ => 0x10000#32 },
  { off := 0x50, reset := fun _ _ => 0x10000#32 },
  { off := 0x54, reset := fun _ _ => 0x1f4#32 },
  { off := 0x58, reset := fun _ _ => 0xc350#32 },
  { off := 0x5c, reset := fun _ _ => 0x3e8#32 },
  { off := 0x60, dims := [(0x4, 4)] },
  { off := 0x70, wr := 0x3fffff },
  { off := 0x74, wr := 0xffffffff },
  { off := 0x78, wr := 0x3fffff },
  { off := 0x7c, wr := 0xffffffff },
  { off := 0x1000 },
  { off := 0x1008 },
  { off := 0x1010 },
  { off := 0x1018 },
  { off := 0x1020 },
  { off := 0x1028 },
  { off := 0x1040, rc := 0xffffffff },
  { off := 0x1044, rc := 0xffffffff },
  { off := 0x1048, rc := 0xffffffff },
  { off := 0x104c, rc := 0xffffffff },
  { off := 0x1050, rc := 0xffffffff }]

def rowsJN_1 : List RegRow := [
  { off := 0x1054, rc := 0xffffffff },
  { off := 0x1058, rc := 0xffffffff },
  { off := 0x105c, rc := 0xffffffff },
  { off := 0x1060, rc := 0xffffffff },
  { off := 0x1064, rc := 0xffffffff },
  { off := 0x1068, rc := 0xffffffff },
  { off := 0x2000, dims := [(0x20, 64)], wr := 0x80ffefff },
  { off := 0x2004, dims := [(0x20, 64)], wr := 0xfffffff8 },
  { off := 0x2008, dims := [(0x20, 64)], wr := 0xff },
  { off := 0x200c, dims := [(0x20, 64)], wr := 0xffffffff },
  { off := 0x2010, dims := [(0x20, 64)], wr := 0xffffffff },
  { off := 0x4000, dims := [(0x10, 512)], reset := fun _ _ => 0x4#32, wr := 0x7 },
  { off := 0x4004, dims := [(0x10, 512)], wr := 0xffffffff },
  { off := 0x4008, dims := [(0x10, 512)], wr := 0xffffffff },
  { off := 0x400c, dims := [(0x10, 512)], reset := fun _ _ => 0x1f81#32, wr := 0x1fff },
  { off := 0x6000, dims := [(0x20, 16)], wr := 0x8000070f },
  { off := 0x6004, dims := [(0x20, 16)], reset := fun _ _ => 0x1388#32, wr := 0xffffffff },
  { off := 0x6008, dims := [(0x20, 16)], reset := fun _ _ => 0x2710#32, wr := 0xffffffff },
  { off := 0x600c, dims := [(0x20, 16), (0x4, 4)], wr := 0x1ff01ff },
  { off := 0x1004 },
  { off := 0x100c },
  { off := 0x1014 },
  { off := 0x101c },
  { off := 0x1024 },
  { off := 0x102c }]

def rowsJN : List RegRow := rowsJN_0 ++ rowsJN_1

/-! Block HU (R576). -/

abbrev HU.HU_CTL : Nat := 0x0
abbrev HU.HU_STAT : Nat := 0x4
abbrev HU.HU_EVENTS : Nat := 0x8
abbrev HU.HU_IRQ_EN : Nat := 0xc
abbrev HU.HU_CMD : Nat := 0x10
abbrev HU.HU_COMMIT : Nat := 0x14
abbrev HU.SCALE : Nat := 0x18
abbrev HU.V_A : Nat := 0x1c
abbrev HU.V_B : Nat := 0x20
abbrev HU.V_MIN : Nat := 0x24
abbrev HU.I_TEST : Nat := 0x28
abbrev HU.P_FC : Nat := 0x2c
abbrev HU.MARGIN : Nat := 0x30
abbrev HU.PERIOD : Nat := 0x34
abbrev HU.TEST_MAX : Nat := 0x38
abbrev HU.PF_FILT : Nat := 0x3c
abbrev HU.RESUME : Nat := 0x40
abbrev HU.MIN_WINDOW : Nat := 0x44
abbrev HU.V_NOW : Nat := 0x80
abbrev HU.T_TEST : Nat := 0x84
abbrev HU.CAP : Nat := 0x88
abbrev HU.T_HOLD : Nat := 0x8c
abbrev HU.T_AVAIL : Nat := 0x90
abbrev HU.TEST_AGE : Nat := 0x94
abbrev HU.FC_VSTART : Nat := 0x98
abbrev HU.FC_VEND : Nat := 0x9c
abbrev HU.FC_TIME : Nat := 0xa0
abbrev HU.TESTS_FAILED : Nat := 0xa4

def rowsHU_0 : List RegRow := [
  { off := 0x0, reset := fun _ _ => 0x3#32, wr := 0x7 },
  { off := 0x4 },
  { off := 0x8, w1c := 0x1ff },
  { off := 0xc, wr := 0x1ff },
  { off := 0x10, wr := 0x1, own := true, wo := true },
  { off := 0x14, wr := 0x1, own := true, wo := true },
  { off := 0x18, wr := 0xfffff },
  { off := 0x1c, wr := 0xffffffff },
  { off := 0x20, wr := 0xffffffff },
  { off := 0x24, wr := 0xffffffff },
  { off := 0x28, wr := 0xffffffff },
  { off := 0x2c, wr := 0xffffffff },
  { off := 0x30, reset := fun _ _ => 0x5a#32, wr := 0x7f },
  { off := 0x34, reset := fun _ _ => 0xe10#32, wr := 0xffffffff },
  { off := 0x38, reset := fun _ _ => 0x7d0#32, wr := 0xffffffff },
  { off := 0x3c, reset := fun _ _ => 0x2#32, wr := 0x7f },
  { off := 0x40, reset := fun _ _ => 0x3e8#32, wr := 0xffffffff },
  { off := 0x44, wr := 0xffffffff },
  { off := 0x80 },
  { off := 0x84 },
  { off := 0x88 },
  { off := 0x8c },
  { off := 0x90 },
  { off := 0x94, reset := fun _ _ => 0xffffffff#32 },
  { off := 0x98 },
  { off := 0x9c },
  { off := 0xa0 },
  { off := 0xa4 }]

def rowsHU : List RegRow := rowsHU_0

/-! Block MR (R554). -/

abbrev MR.MR_CTL : Nat := 0x0
abbrev MR.MR_NEXT : Nat := 0x4
abbrev MR.MR_EVENTS : Nat := 0x8
abbrev MR.MR_IRQ_EN : Nat := 0xc
abbrev MR.MR_ECC_CORR : Nat := 0x10
abbrev MR.MR_ECC_UNCORR : Nat := 0x14

def rowsMR_0 : List RegRow := [
  { off := 0x0, wr := 0x1 },
  { off := 0x4, reset := fun _ _ => 0x4000000#32 },
  { off := 0x8, w1c := 0x1 },
  { off := 0xc, wr := 0x1 },
  { off := 0x10 },
  { off := 0x14 }]

def rowsMR : List RegRow := rowsMR_0

/-! Block EP (R435). -/

abbrev EP.EP_CTL : Nat := 0x0
abbrev EP.EP_STAT : Nat := 0x4
abbrev EP.ACCEPT_STALL : Nat := 0x8
abbrev EP.UP_BUDGET : Nat := 0xc
abbrev EP.SHED_PARAM : Nat := 0x10
abbrev EP.EP_DRAIN : Nat := 0x14
abbrev EP.EP_DRAIN_STAT : Nat := 0x18
abbrev EP.EP_EVENTS : Nat := 0x1c
abbrev EP.EP_IRQ_EN : Nat := 0x20
abbrev EP.MSIX_MOD : Nat := 0x24
abbrev EP.DEMAND : Nat := 0x28
abbrev EP.DEMAND_PLAN : Nat := 0x2c
abbrev EP.HMW : Nat := 0x1000
abbrev EP.RING_CFG : Nat := 0x10000
abbrev EP.RING_TAIL_LO : Nat := 0x10004
abbrev EP.RING_TAIL_HI : Nat := 0x10008
abbrev EP.RING_DB_LO : Nat := 0x1000c
abbrev EP.RING_DB_HI : Nat := 0x10010
abbrev EP.RING_LEDGER_LO : Nat := 0x10014
abbrev EP.RING_LEDGER_HI : Nat := 0x10018
abbrev EP.RING_PEND : Nat := 0x1001c
abbrev EP.DB_BAD : Nat := 0x20000
abbrev EP.RING_PARSE_ERR : Nat := 0x20004
abbrev EP.MB_REQS : Nat := 0x20008
abbrev EP.SHED_CHANGES : Nat := 0x2000c
abbrev EP.SHED_CFG : Nat := 0x30000

def rowsEP_0 : List RegRow := [
  { off := 0x0, reset := fun _ _ => 0x1#32, wr := 0x1 },
  { off := 0x4 },
  { off := 0x8, reset := fun _ _ => 0xa#32, wr := 0xffffffff },
  { off := 0xc, reset := fun _ _ => 0x1aac2#32, wr := 0xffffffff },
  { off := 0x10, reset := fun _ _ => 0x3e8005a#32, wr := 0xffff00ff },
  { off := 0x14, wr := 0x1f, own := true, wo := true },
  { off := 0x18 },
  { off := 0x1c, w1c := 0x1ff },
  { off := 0x20, wr := 0x1ff },
  { off := 0x24, reset := fun _ _ => 0x14#32, wr := 0xffffffff },
  { off := 0x28 },
  { off := 0x2c },
  { off := 0x1000, dims := [(0x4, 64)], wr := 0xffffffff },
  { off := 0x10000, dims := [(0x20, 1024)], wr := 0xbfffefff },
  { off := 0x10004, dims := [(0x20, 1024)], wr := 0xfffffff8 },
  { off := 0x10008, dims := [(0x20, 1024)], wr := 0xff },
  { off := 0x1000c, dims := [(0x20, 1024)], wr := 0xffffffff },
  { off := 0x10010, dims := [(0x20, 1024)], wr := 0xffffffff, own := true },
  { off := 0x10014, dims := [(0x20, 1024)], wr := 0xffffffff },
  { off := 0x10018, dims := [(0x20, 1024)], wr := 0xffffffff },
  { off := 0x1001c, dims := [(0x20, 1024)], wr := 0xffffffff },
  { off := 0x20000, rc := 0xffffffff },
  { off := 0x20004, rc := 0xffffffff },
  { off := 0x20008, rc := 0xffffffff },
  { off := 0x2000c, rc := 0xffffffff },
  { off := 0x30000, dims := [(0x4, 512)], wr := 0x1ff }]

def rowsEP : List RegRow := rowsEP_0

/-! Block LPD (R610). -/

abbrev LPD.SCRUB_CTL : Nat := 0x1000
abbrev LPD.SCRUB_PERIOD : Nat := 0x1004
abbrev LPD.SCRUB_PASSES : Nat := 0x1008
abbrev LPD.SCRUB_CORR : Nat := 0x100c
abbrev LPD.SCRUB_UNCORR : Nat := 0x1010
abbrev LPD.SCRUB_EVENTS : Nat := 0x1014
abbrev LPD.SCRUB_IRQ_EN : Nat := 0x1018

def rowsLPD_0 : List RegRow := [
  { off := 0x1000, reset := fun _ _ => 0x100001#32, wr := 0xff0001 },
  { off := 0x1004, reset := fun _ _ => 0x15180#32, wr := 0xffffffff },
  { off := 0x1008 },
  { off := 0x100c },
  { off := 0x1010 },
  { off := 0x1014, w1c := 0x3 },
  { off := 0x1018, wr := 0x3 }]

def rowsLPD : List RegRow := rowsLPD_0

/-! Block CAN (R675). -/

abbrev CAN.CAN_CTL : Nat := 0x0
abbrev CAN.CAN_STAT : Nat := 0x4
abbrev CAN.CAN_TDC : Nat := 0x8
abbrev CAN.CAN_CMD : Nat := 0xc
abbrev CAN.CAN_EVENTS : Nat := 0x10
abbrev CAN.CAN_IRQ_EN : Nat := 0x14
abbrev CAN.RX_FRAMES : Nat := 0x1000
abbrev CAN.TX_FRAMES : Nat := 0x1004
abbrev CAN.ERR_FRAMES : Nat := 0x1008
abbrev CAN.BUS_OFF_CNT : Nat := 0x100c
abbrev CAN.RX_OVF : Nat := 0x1010
abbrev CAN.TX_DROP : Nat := 0x1014

def rowsCAN_0 : List RegRow := [
  { off := 0x0, reset := fun _ _ => 0x3#32, wr := 0xf },
  { off := 0x4 },
  { off := 0x8 },
  { off := 0xc, wr := 0x1, own := true, wo := true },
  { off := 0x10, w1c := 0x1f },
  { off := 0x14, wr := 0x1f },
  { off := 0x1000, rc := 0xffffffff },
  { off := 0x1004, rc := 0xffffffff },
  { off := 0x1008, rc := 0xffffffff },
  { off := 0x100c, rc := 0xffffffff },
  { off := 0x1010, rc := 0xffffffff },
  { off := 0x1014, rc := 0xffffffff }]

def rowsCAN : List RegRow := rowsCAN_0

/-! Block I2C (R675). -/

abbrev I2C.I2C_CFG : Nat := 0x0
abbrev I2C.I2C_STAT : Nat := 0x4
abbrev I2C.I2C_CMD : Nat := 0x8
abbrev I2C.I2C_EVENTS : Nat := 0xc
abbrev I2C.I2C_IRQ_EN : Nat := 0x10
abbrev I2C.REQUESTS : Nat := 0x1000
abbrev I2C.FRAME_ERR : Nat := 0x1004
abbrev I2C.BUSY_NACK : Nat := 0x1008
abbrev I2C.STUCK_RELEASE : Nat := 0x100c
abbrev I2C.SCL_TIMEOUT : Nat := 0x1010
abbrev I2C.RS_ABANDON : Nat := 0x1014

def rowsI2C_0 : List RegRow := [
  { off := 0x0, reset := fun _ _ => 0x00010048#32, wr := 0x37f7f },
  { off := 0x4 },
  { off := 0x8, wr := 0x1, own := true, wo := true },
  { off := 0xc, w1c := 0x3f },
  { off := 0x10, wr := 0x3f },
  { off := 0x1000, rc := 0xffffffff },
  { off := 0x1004, rc := 0xffffffff },
  { off := 0x1008, rc := 0xffffffff },
  { off := 0x100c, rc := 0xffffffff },
  { off := 0x1010, rc := 0xffffffff },
  { off := 0x1014, rc := 0xffffffff }]

def rowsI2C : List RegRow := rowsI2C_0

/-! Block QSPI (R675). -/

abbrev QSPI.QSPI_CTL : Nat := 0x0
abbrev QSPI.QSPI_STAT : Nat := 0x4
abbrev QSPI.QSPI_ADDR : Nat := 0x8
abbrev QSPI.QSPI_LEN : Nat := 0xc
abbrev QSPI.QSPI_CMD : Nat := 0x10
abbrev QSPI.QSPI_EVENTS : Nat := 0x14
abbrev QSPI.QSPI_IRQ_EN : Nat := 0x18
abbrev QSPI.QSPI_BUF : Nat := 0x100

def rowsQSPI_0 : List RegRow := [
  { off := 0x0, reset := fun _ _ => 0xa#32, wr := 0x11f },
  { off := 0x4 },
  { off := 0x8, wr := 0xffffffff },
  { off := 0xc, reset := fun _ _ => 0x100#32, wr := 0x1ff },
  { off := 0x10, wr := 0x3, own := true, wo := true },
  { off := 0x14, w1c := 0x7 },
  { off := 0x18, wr := 0x7 },
  { off := 0x100, dims := [(0x4, 64)], wr := 0xffffffff }]

def rowsQSPI : List RegRow := rowsQSPI_0

/-! Block UP (R437). -/

abbrev UP.UP_ID : Nat := 0x0
abbrev UP.UP_STATUS : Nat := 0x4
abbrev UP.UP_EPOCH : Nat := 0x8
abbrev UP.SHED_MAP : Nat := 0x10
abbrev UP.MB_CMD : Nat := 0x3000
abbrev UP.MB_STATUS : Nat := 0x3004
abbrev UP.MB_RSP_LEN : Nat := 0x3008
abbrev UP.DB_HEAD_LO : Nat := 0x10000
abbrev UP.DB_HEAD_HI : Nat := 0x10004

def rowsUP_0 : List RegRow := [
  { off := 0x0, reset := fun _ _ => 0#32 },
  { off := 0x4 },
  { off := 0x8 },
  { off := 0x10, dims := [(0x4, 16)] },
  { off := 0x3000, wr := 0xffff9fff, own := true, wo := true },
  { off := 0x3004 },
  { off := 0x3008 },
  { off := 0x10000, dims := [(0x10, 1024)], wr := 0xffffffff, own := true, wo := true },
  { off := 0x10004, dims := [(0x10, 1024)], wr := 0xffffffff, own := true, wo := true }]

def rowsUP : List RegRow := rowsUP_0

/-- Concentrator window blocks of R42, the highest first. -/
def concBlocks : List BlockRow := [
  ⟨0x11800000, 0x0, 1, rowsSM⟩,
  ⟨0x11700000, 0x0, 1, rowsKP⟩,
  ⟨0x11600000, 0x0, 1, rowsBR⟩,
  ⟨0x11500000, 0x0, 1, rowsIQ⟩,
  ⟨0x11400000, 0x0, 1, rowsTB⟩,
  ⟨0x11300000, 0x1000, 8, rowsCK⟩,
  ⟨0x11200000, 0x10000, 4, rowsAX⟩,
  ⟨0x11100000, 0x0, 1, rowsEF⟩,
  ⟨0x11000000, 0x10000, 16, rowsBG⟩,
  ⟨0x10400000, 0x10000, 128, rowsPL⟩,
  ⟨0x10200000, 0x4000, 128, rowsSI⟩,
  ⟨0x10000000, 0x10000, 32, rowsLP⟩,
  ⟨0x0, 0x0, 1, rowsBS⟩]

/-- Steward local blocks of R41, and BAR0 of R437 at 0x8000_0000, the highest first. -/
def stewBlocks : List BlockRow := [
  ⟨0x80000000, 0x0, 1, rowsUP⟩,
  ⟨0x720000, 0x0, 1, rowsQSPI⟩,
  ⟨0x710000, 0x0, 1, rowsI2C⟩,
  ⟨0x700000, 0x0, 1, rowsCAN⟩,
  ⟨0x600000, 0x0, 1, rowsLPD⟩,
  ⟨0x400000, 0x0, 1, rowsEP⟩,
  ⟨0x220000, 0x0, 1, rowsMR⟩,
  ⟨0x210000, 0x0, 1, rowsHU⟩,
  ⟨0x200000, 0x0, 1, rowsJN⟩,
  ⟨0x100000, 0x10000, 5, rowsBRS⟩,
  ⟨0x40000, 0x0, 1, rowsTBS⟩,
  ⟨0x30000, 0x1000, 4, rowsCKS⟩,
  ⟨0x20000, 0x0, 1, rowsSMS⟩,
  ⟨0x10000, 0x0, 1, rowsIQS⟩,
  ⟨0x0, 0x0, 1, rowsSC⟩]

/-- Whether the byte distance `x` from the first element hits an element of the array. -/
def RegRow.hits (x : Nat) : List (Nat × Nat) → Bool
  | [] => x == 0
  | (s, n) :: ds => decide (x / s < n) && RegRow.hits (x % s) ds

/-- The instance number and the offset within the instance, where `off` lies in the block. -/
def BlockRow.locate (b : BlockRow) (off : Nat) : Option (Nat × Nat) :=
  if off < b.base then none
  else if b.stride = 0 then some (0, off - b.base)
  else if (off - b.base) / b.stride < b.count then some ((off - b.base) / b.stride, (off - b.base) % b.stride)
  else none

/-- The register at offset `x` of a block. -/
def findRow (rows : List RegRow) (x : Nat) : Option RegRow :=
  rows.find? (fun r => decide (r.off ≤ x) && RegRow.hits (x - r.off) r.dims)

/-- The register row at offset `off` of a die's map, with the block's instance number and the distance from the
register's first element. -/
def lookupIn : List BlockRow → Nat → Option (RegRow × Nat × Nat)
  | [], _ => none
  | b :: bs, off =>
    match b.locate off with
    | none => lookupIn bs off
    | some (i, x) =>
      match findRow b.rows x with
      | some r => some (r, i, x - r.off)
      | none => lookupIn bs off

/-- The register at a key (die × 2^32 + offset). Dies 0-3 are C0-C3, 4 is SA, 5 is SB. -/
def lookupReg (key : Nat) : Option (RegRow × Nat × Nat) :=
  lookupIn (if key / 0x100000000 < 4 then concBlocks else stewBlocks) (key % 0x100000000)

/-- The reset value of the register at a key (R14 and the reset column of each register table). I2C_CFG of SB (R675)
and UP_ID of SB (R437) differ from those of SA. A key that is no register reads 0. -/
def resetWord (key : Nat) : Word :=
  if key = 0x500710000 then 0x00010049#32
  else if key = 0x580000000 then 1#32
  else if key = 0x480000000 then 2#32
  else match lookupReg key with
    | some (r, i, x) => r.reset i x
    | none => 0#32

end Sys2Proof.Machine
end

