-- ==== Sys2Proof/Machine/Tbl.lean ====
section
/-! DEFINITION. Tables from numbers to values in one canonical form: keys strictly rising, and no entry equal to what an
unlisted key reads as. Registers, memories and the per-instance records of State are such tables. -/
namespace Sys2Proof.Machine
set_option Elab.async false

/-- A table as plain data. -/
abbrev Tbl (α : Type) := List (Nat × α)

/-- What key `k` reads as; `d` gives what an unlisted key reads as. -/
def Tbl.get {α : Type} (d : Nat → α) : Tbl α → Nat → α
  | [], k => d k
  | (j, v) :: t, k => if k < j then d k else if k = j then v else Tbl.get d t k

/-- Entries with a key of at most `k` taken off the front. -/
def Tbl.above {α : Type} (k : Nat) : Tbl α → Tbl α
  | [] => []
  | (j, v) :: t => if j ≤ k then Tbl.above k t else (j, v) :: t

/-- Key `k` set to `v`; a value equal to the default is not listed. -/
def Tbl.set {α : Type} [DecidableEq α] (d : Nat → α) : Tbl α → Nat → α → Tbl α
  | [], k, v => if v = d k then [] else [(k, v)]
  | (j, w) :: t, k, v =>
    if k < j then (if v = d k then (j, w) :: t else (k, v) :: (j, w) :: t)
    else if k = j then (if v = d k then Tbl.above k t else (k, v) :: Tbl.above k t)
    else (j, w) :: Tbl.set d t k v

/-- Keys rise strictly from above `lo`. -/
def Tbl.rising {α : Type} : Nat → Tbl α → Bool
  | _, [] => true
  | lo, (j, _) :: t => decide (lo ≤ j) && Tbl.rising (j + 1) t

/-- The canonical form. -/
def Tbl.wf {α : Type} [DecidableEq α] (d : Nat → α) (t : Tbl α) : Bool :=
  Tbl.rising 0 t && t.all (fun e => decide (e.2 ≠ d e.1))

end Sys2Proof.Machine
end

