-- ==== Sys2Proof/Machine/State.lean ====
section
/-! DEFINITION. The state of the block: every register, and the state the spec gives each unit, as plain data; the reasons a
step can stop; and the state after reset. -/
namespace Sys2Proof.Machine
set_option Elab.async false

/-- Why a step stops with a fault. No command of the spec stops the block, so no meaning raises it; the constructor is kept
so that the type is inhabited. Raised by nobody (safe). -/
inductive Fault where
  | none
  deriving DecidableEq, Repr

/-- Why a command has no effect the model can give. -/
inductive Refusal where
  /-- Raised by Dispatch for a command that has no meaning yet (safe). -/
  | notModelled (mnemonic : String)
  deriving DecidableEq, Repr

/-- The three parts of R1. -/
inductive Part where
  | azl512 | azl256 | azl128
  deriving DecidableEq, Repr

/-- What the sender of the last command was answered (the model's own field). -/
inductive Resp where
  /-- Nothing is returned. -/
  | none
  /-- The data of a read, least significant word first. -/
  | data (w : List Word)
  /-- An access fault with the status of R605, class 0x00. -/
  | fault (status : Nat)
  /-- Bytes read. -/
  | bytes (b : List Byte)
  /-- A refusal or completion status. -/
  | status (n : Nat)
  deriving DecidableEq, Repr

/-- What kind of thing left the block (the model's own record of its outputs). -/
inductive OutKind where
  /-- EMCY on the lead's CAN port: health code, value, reporter (R628). -/
  | emcy
  /-- Level of FAULT_N (R47, R706). -/
  | pinFaultN
  /-- Level of PPS_OUT (R68). -/
  | pinPpsOut
  /-- Alignment message to a die: its send stamp (R57). -/
  | alignMsg
  /-- Reply of a die: the message's stamp, its receive stamp, its send stamp (R57). -/
  | alignReply
  /-- Phase correction sent to a die (R57): two's complement in 64 bits, units of 2^-16 ns. -/
  | alignCorr
  /-- Rate activation sent to every die (R54, R440). -/
  | rateMsg
  /-- A back-channel training set of a port: the rate class it is sent at, then its code groups (R108). -/
  | trainingSet
  /-- A back-channel message or idle pair of a port: its code groups (R162). -/
  | bch
  /-- The forward output of an up-role port, one value a symbol in two's complement of 16 bits, by the formula of R111 (R137). -/
  | fwd
  /-- Posted write to the host: host address, bytes (R411, R415). -/
  | hostWrite
  /-- Flits of an end of a module, die × 8 + module: of each its credit word and its 244 bytes of the stream (R438, R439). -/
  | odvel
  /-- MSI-X message: vector (R413, R421). -/
  | msix
  /-- Ball level of an output event pin, die × 4 + pin: 0 low, 1 high, 2 not driven (R489). -/
  | eventPin
  /-- Command to a recording drive: command, its arguments, and the bytes written (R522). -/
  | nvme
  /-- Posted write to the memory space of a recording drive, through a steward's root port: offset in the window, bytes (R39). -/
  | driveWrite
  /-- Level of DR_x_PERST_N of a steward (R708). -/
  | drPerst
  /-- Level of HU_TEST as the lead drives it (R559). -/
  | huTest
  /-- A power-over-cable frame: ON bits and ILIM bits (R717). -/
  | pccFrame
  /-- A CAN FD frame of a steward's port: COB-ID, bytes (R625). -/
  | canTx
  deriving DecidableEq, Repr

/-- One thing that left the block: its kind, the unit it left from, and its content as numbers. -/
structure Out where
  kind : OutKind
  unit : Nat := 0
  data : List Nat := []
  deriving DecidableEq, Repr

/-! ## Device time (R52-R89) -/

/-- Device time of one die: the counter in units of 2^-40 ns (R52) and the phase correction still to be applied (R57). -/
structure DieTime where
  now : Nat := 0
  corr : Int := 0
  deriving DecidableEq, Repr

/-- A slew in progress: what is left of the offset and the slew term, both in units of 2^-40 ns (per ns) (R63). -/
structure Slew where
  rem : Int
  term : Int
  deriving DecidableEq, Repr

/-- A change of the rate word that waits for its activation time (R54): a new word of the source, the start of a slew, or the end of
the running one. `left` is the offset of a slew that was discarded before it started (R63). -/
inductive RateChange where
  | source (r : Int)
  | slew (sl : Slew) (left : Option Int)
  | stop (left : Option Int)
  deriving DecidableEq, Repr

/-- A step of device time that waits for its activation time (R65), in units of 2^-40 ns: a load of a time, as its distance from the
counter (R61, R62), or an offset to add (R80). -/
inductive StepBy where
  | load (delta : Int)
  | add (delta : Int)
  deriving DecidableEq, Repr

/-- Package time: source, servo, holdover, pulse output (R53-R70; `replaced`: the slew replaced another, R63), and the worker's servo on
deals (R80, R81). Times of pending changes are device times (2^-40 ns); all other times are FCLK cycles, which a step does not move:
when the source was selected (`srcAt`), the last accepted edge, deal and alignment message, the start of holdover, the corrections of
the last second (R58), the end of the PPS_OUT pulse with the steward that drives it, and the last loss of REFCLK (R47). `ppsHand`: the
steward that held the lead before a role move, and the second of the move (R68). `synt`, `syntAt`: f as last reported and when (R75).
`hierLocked`: the stewards whose HIER_CTL is locked (R88). -/
structure TimeS where
  srcRate : Int := 0
  pendRate : List (Nat × RateChange) := []
  slew : Option Slew := none
  replaced : Bool := false
  pendStep : List (Nat × StepBy) := []
  srcAt : Nat := 0
  ppsSeconds : Option Nat := none
  ppsStarted : Bool := false
  lastAccepted : Option Nat := none
  goodRun : Nat := 0
  outlierRun : Nat := 0
  integ : Int := 0
  holdSince : Option Nat := none
  corrs : List (Nat × Nat) := []
  alignAt : Option Nat := none
  ppsOutEnd : Option (Nat × Nat) := none
  ppsLastSec : Option Nat := none
  ppsHand : Option (Nat × Nat) := none
  synt : Int := 0
  syntAt : Nat := 0
  dealLastSeq : Option Nat := none
  dealStarted : Bool := false
  dealSum : Int := 0
  dealGood : Nat := 0
  dealBadRun : Nat := 0
  lastDeal : Option Nat := none
  upUnsync : Bool := false
  upHoldover : Bool := false
  dealRate : Int := 0
  clkLost : Bool := false
  clkLostAt : Nat := 0
  steps : Nat := 0
  hierLocked : List Nat := []
  deriving DecidableEq, Repr

/-- A time alarm's committed value in units of 2^-16 ns and its arming (R71, R72). -/
structure AlarmS where
  armed : Bool := false
  val : Nat := 0
  per : Nat := 0
  ctl : Nat := 0
  late : Bool := false
  stepped : Bool := false
  deriving DecidableEq, Repr

/-! ## Camera ports (R90-R193) -/

/-- One byte of the packet byte stream of R145: its value, whether it comes from an uncorrectable block, and whether a PTR
names it as the start of a packet; with the arrival stamp of R216 in units of 2^-16 ns and the steps of device time applied before it
arrived (R65). -/
structure StreamByte where
  val : Byte
  time : Nat := 0
  bad : Bool := false
  start : Bool := false
  steps : Nat := 0
  deriving DecidableEq, Repr

/-- An entry of the landing FIFO: 64 data bits and the 16-bit tag of R159, with the arrival stamp of its packet (R216, 2^-16 ns) and the
steps of device time applied before that (R65). -/
structure FifoWord where
  data : Nat
  tag : Nat
  time : Nat := 0
  steps : Nat := 0
  deriving DecidableEq, Repr

/-- The packet in progress (R151-R158): its corrected header word; its slot, none where it is discarded; the payload and footer bytes
still to come, the footer bytes so far and the running CRC of the payload (R156); the word not yet written and whether it is the first;
whether a byte came from an uncorrectable block, and whether the FIFO has cut it (R161); its arrival stamp and steps. -/
structure PktRx where
  hdr : Nat
  slot : Option Nat
  pay : Nat := 0
  foot : Nat := 0
  footer : List Byte := []
  crc : Nat := 0xFFFF
  hold : List Byte := []
  sop : Bool := true
  bad : Bool := false
  cut : Bool := false
  time : Nat := 0
  steps : Nat := 0
  deriving DecidableEq, Repr

/-- A message of the scheduler that waits on a port: a pulse with its stream and deadline (2^-16 ns), or a cancel (R236-R239,
R247). -/
structure SchedMsg where
  bytes : List Byte
  pulse : Bool := true
  stream : Nat := 0
  deadline : Nat := 0
  deriving DecidableEq, Repr

/-- A gateway transaction being received: number, next segment, bytes so far (R187); `dead` once it has been discarded, until its last
segment. -/
structure GwRx where
  trans : Nat
  next : Nat
  bytes : List Byte
  dead : Bool := false
  deriving DecidableEq, Repr

/-- What a camera port keeps beside its registers. Times are FCLK cycles unless said otherwise. -/
structure PortS where
  /-- Entry to the present training state and to WAKE (R104); the controls that hold for this training (R139). -/
  entered : Nat := 0
  wakeAt : Nat := 0
  trainCtl : Nat := 0
  trainPreset : Nat := 0
  /-- Valid training frames in a row (R104), tap request SEQ, count and time (R113, R114). -/
  frames : Nat := 0
  tapSeq : Nat := 0
  tapReq : Nat := 0
  tapCount : Nat := 0
  tapAt : Nat := 0
  /-- Taps at the last 9 frame ends (R105), PRBS13 symbols checked in this state and the places of those in error (R105, R115), whether
  the last frame was sent with the precoder on (R96), and the CTLE setting that training chose (R97). -/
  tapHist : List (List Int) := []
  prbsN : Nat := 0
  prbsErr : List Nat := []
  headPc : Bool := false
  ctle : Nat := 0
  /-- The last level index decided (R96); when SIG_DET last cleared (R118). -/
  lastIdx : Nat := 0
  sigLostAt : Nat := 0
  /-- WAKE sets still to be sent at the old rate of a rate change, the last one in progress at 0 (R121). -/
  rateSets : Option Nat := none
  /-- Step inside RETRAIN: 0 TRAIN_CDR, 1 TRAIN_EQ, 2 ALIGN (R104). -/
  retrainStep : Nat := 0
  precodeReq : Bool := false
  attempts : Nat := 0
  /-- Class fallen back to and failures in a row at one class (R122). -/
  fallback : Option Nat := none
  classFails : Nat := 0
  /-- End of the 200 ms without cable power (R124), and whether cable power is wanted (R104, R719). -/
  offUntil : Option Nat := none
  pwrWant : Bool := false
  /-- Forward electrical idle: entry, and re-lock in progress with its start (R126, R129). -/
  idleAt : Nat := 0
  relock : Bool := false
  relockAt : Nat := 0
  /-- Superframe: symbol of the last marker, blocks since it, missed markers in a row, uncorrectable blocks (R148, R149),
  stamps of the last markers as (SFC, 2^-40 ns), newest first (R171). -/
  markSym : Option Nat := none
  pos : Nat := 0
  missRun : Nat := 0
  uncorr : Nat := 0
  marks : List (Nat × Nat) := []
  /-- Packet byte stream, discarding up to a PTR (R145, R152), and the landing FIFO, oldest first (R158). -/
  stream : List StreamByte := []
  discard : Bool := false
  cur : Option PktRx := none
  fifo : List FifoWord := []
  /-- Words that the read side has delivered to ingest (R160), and when the full condition last ended. -/
  line : List FifoWord := []
  fullEnd : Option Nat := none
  /-- Forward messages that wait to be handled (R167). -/
  ctrlq : List (Nat × List Byte) := []
  /-- Back-channel: a set or message is being sent, the running disparity after it (R108), sets owed, messages due (R166). -/
  bchBusy : Bool := false
  bchPos : Bool := false
  setsOwed : Nat := 0
  clearDue : Bool := false
  beaconDue : Bool := false
  dealDue : Bool := false
  markDue : Bool := false
  queryDue : Bool := false
  pulseq : List SchedMsg := []
  txq : List (List Byte) := []
  gwq : List (List Byte) := []
  /-- Sequence numbers and last send times (R165, R169, R170, R175, R78). -/
  beaconSeq : Nat := 0
  dealSeq : Nat := 0
  markId : Nat := 0
  lastBeacon : Nat := 0
  lastDeal : Nat := 0
  lastMark : Nat := 0
  lastQuery : Nat := 0
  /-- Outstanding bus transactions (ID, bus, sent) (R183), markers (ID, t1 in 2^-40 ns, sent) (R172), accepted raw delays in
  units of 2^-16 ns, oldest first (R173). -/
  outst : List (Nat × Nat × Nat) := []
  markers : List (Nat × Nat × Nat) := []
  raws : List Int := []
  /-- Pulses sent, pulses sent before each beacon (SEQ, count), D of the previous report (R179). -/
  sent : Nat := 0
  beaconSent : List (Nat × Nat) := []
  dLast : Option Nat := none
  capsValid : Bool := false
  headTimeOk : Bool := false
  headCrc : Option Nat := none
  /-- RX queue words (R189). -/
  rx : List Word := []
  gwRx : List GwRx := []
  /-- Up role: state followed, forward taps, which start at 0, 32, 0 (DESIGN CHOICE, log entry 102), SEQ last applied (R111-R113, R137). -/
  headState : Nat := 0
  headPre : Nat := 0
  headMain : Nat := 32
  headPost : Nat := 0
  headSeq : Option Nat := none
  headRes : Nat := 0
  /-- Up role: last transmitted level index (R96), the last two levels (R111), forward messages that wait, and the superframe in
  progress: its count and the position of the next block (R147, R186). -/
  txIdx : Nat := 0
  txLevels : Int × Int := (0, 0)
  fwdq : List (Nat × List Byte) := []
  txSfc : Nat := 0
  txPos : Nat := 0
  /-- Mismatches of the scan's completed points, unsaturated (R134). -/
  esErrs : List Nat := []
  deriving DecidableEq, Repr

/-! ## Ingest contexts and pipelines (R194-R329) -/

/-- A packed image line in a line store (R203-R205): its number, bytes, line flags (bit 0 SHORT_LINE, bit 1 LONG_LINE, bit 2
CRC_ERR) and stamp in units of 2^-16 ns. -/
structure SLine where
  n : Nat
  bytes : List Byte
  flags : Nat := 0
  time : Nat := 0
  deriving DecidableEq, Repr

/-- The end of a frame behind its lines in a line store: the FRAME_CLOSE record that follows them (R213). -/
structure FrameEnd where
  hdr : RecHdr
  payload : List Byte
  linesRx : Nat := 0
  short : Bool := false
  partialF : Bool := false
  deriving DecidableEq, Repr

/-- An admitted frame start as its pipeline takes it (R213, R214, R288): the pipeline, the packet's WC, virtual channel and arrival stamp,
the frame's stamp and number, CTL, GEOM, RO_LAT and PERIOD in force, the delay used, and whether its stamp is unsynchronised: by the cable
delay, for the whole frame, or by TB.STATUS. -/
structure FrameIn where
  pipe : Nat
  wc : Nat
  vc : Nat
  arr : Nat
  time : Nat
  frame : Nat
  ctl : Nat
  geom : Nat
  roLat : Nat
  period : Nat
  delay : Int
  unsync : Bool
  startU : Bool
  deriving DecidableEq, Repr

/-- An entry of a line store: a frame start that waits for its pipeline, a line, a record of ingest that follows a waiting start, or
the end of the frame. -/
inductive StoreItem where
  | start (f : FrameIn)
  | line (l : SLine)
  | side (pipe : Nat) (h : RecHdr) (payload : List Byte)
  | fin (e : FrameEnd)
  deriving DecidableEq, Repr

/-- An ingest context beside its registers: the last admitted frame start, the open frame and its counts, and the line
store, oldest first; `lastNum` is SENSOR_FN and FRAME of the last frame start that took its parameters (R222, R223). Stamps are in units of
2^-16 ns. `unsync` marks every record of the frame TIME_UNSYNC, `lastU` tells whether
the last stamp was taken while TB.STATUS.UNSYNC was set (R218). -/
structure SiS where
  lastAdm : Option Nat := none
  isOpen : Bool := false
  dropping : Bool := false
  start : Nat := 0
  last : Nat := 0
  lastRo : Nat := 0
  lastPkt : Nat := 0
  ctl : Nat := 0
  geom : Nat := 0
  roLat : Nat := 0
  lineNo : Nat := 0
  linesRx : Nat := 0
  extra : Nat := 0
  shortL : Nat := 0
  longL : Nat := 0
  crcL : Nat := 0
  ovf : Nat := 0
  times : List (Nat × Nat) := []
  unsync : Bool := false
  lastU : Bool := false
  late : Bool := false
  steps : Nat := 0
  frameNext : Nat := 0
  lastNum : Option (Nat × Nat) := none
  toPipe : Option Nat := none
  store : List StoreItem := []
  deriving DecidableEq, Repr

/-- A line of values: line number, values, line flags as in SLine, stamp. -/
structure Row where
  y : Nat
  px : List Nat
  flags : Nat := 0
  time : Nat := 0
  deriving DecidableEq, Repr

/-- An open record of a raw tap (R280). -/
structure TapRec where
  first : Nat := 0
  n : Nat := 0
  bytes : List Byte := []
  flags : Nat := 0
  time : Nat := 0
  deriving DecidableEq, Repr

/-- A fall-back output of a frame: next line, the open band, its flags and band flags, and whether it has ended (R315). -/
structure FinOut where
  next : Nat := 0
  first : Nat := 0
  n : Nat := 0
  bytes : List Byte := []
  flags : Nat := 0
  bflags : Nat := 0
  time : Nat := 0
  done : Bool := false
  deriving DecidableEq, Repr

/-- A frame in a pipeline: its identity, the parameters in force (R299), the lines at each point of the raw stage, the open
tap records, and the finishing of its fall-back outputs. `finRows` and `irRows` are the lines of the two planes as finishing holds them. -/
structure Job where
  stream : Nat
  frame : Nat
  start : Nat
  width : Nat
  height : Nat
  dt : Nat
  params : Tbl Word
  map : List (Nat × Nat) := []
  unsync : Bool := false
  startU : Bool := false
  late : Bool := false
  shed : Bool := false
  weir : Bool := false
  outs : Nat := 0
  rows : List Row := []
  dRows : List Row := []
  yRows : List Row := []
  qRows : List Row := []
  irRows : List Row := []
  ecc : List Nat := []
  taps : Tbl TapRec := []
  satTotal : Nat := 0
  cut : Bool := false
  rawDone : Bool := false
  short : Bool := false
  finq : List (Nat × Nat) := []
  finRows : List Row := []
  dropped : List Nat := []
  fouts : Tbl FinOut := []
  finDone : Bool := false
  deriving DecidableEq, Repr

/-- A pending parameter set (R221): its tag, its image of the shadow registers, and whether it was late at its commit. -/
structure PaSet where
  tag : Nat
  img : Tbl Word
  late : Bool := false
  deriving DecidableEq, Repr

/-- A pipeline beside its registers: pending sets, the FRAME-mode snapshot, and its frames, oldest first. -/
structure PipeS where
  sets : List PaSet := []
  snap : Option (Tbl Word) := none
  jobs : List Job := []
  deriving DecidableEq, Repr

/-! ## Schedules (R228-R254) -/

/-- A pulse edge of a launched occurrence that has not been issued: trigger or strobe, E_n and start in units of 2^-16 ns. -/
structure Edge where
  trig : Bool
  e : Int
  t : Int
  n : Int
  ctl : Nat
  len : Nat
  deriving DecidableEq, Repr

/-- An occurrence of a schedule (R228-R230): n, E_n, the start of its trigger, and its edges; times in units of 2^-16 ns. -/
structure Occ where
  n : Int
  e : Int
  trig : Int
  edges : List Edge
  deriving DecidableEq, Repr

/-- A stream's schedule: next undecided occurrence of the active and of an accepted new set, occurrences of an old schedule before its end
that are still to be decided (R243), edges to issue, and launched occurrences not yet given to a frame as (n, E_n, trigger start) in units of
2^-16 ns, newest first; `first` is the first occurrence of the schedule in force. -/
structure SchS where
  next : Option Int := none
  owed : List Occ := []
  newNext : Option Int := none
  edges : List Edge := []
  launched : List (Int × Int × Int) := []
  first : Int := 0
  deriving DecidableEq, Repr

/-- A schedule set: activation time in units of 2^-16 ns, the shadows it holds, those of the lead under the keys of SA (R242), and the
dies that its parts have reached (R245). -/
structure SchedSet where
  act : Nat
  img : List (Nat × Word)
  reached : List Nat := []
  deriving DecidableEq, Repr

/-- Package-wide schedule state: the set under check, the accepted set, the activation time of an announced step, and the group table and
EPOCH of the set in force (R242, R245, R247). -/
structure SchedS where
  checking : Option SchedSet := none
  pend : Option SchedSet := none
  hold : Option Nat := none
  table : List (Nat × Word) := []
  deriving DecidableEq, Repr

/-! ## The basin (R330-R363) -/

/-- A record in the basin: its bytes (48 header bytes and the payload), the cells it occupies, the device time at which it
entered its queue, its DUP_POSSIBLE mark (R352), and its place in the die's retention order (R351). -/
structure Rec where
  data : List Byte
  cells : List Nat := []
  entered : Nat := 0
  dup : Bool := false
  order : Nat := 0
  deriving DecidableEq, Repr

/-- A basin queue: undelivered records (oldest first), bytes delivered of the head, retained records, its SEQ counter,
link fault, readiness and next notify time, and the mark that a flush waits for the head (R344-R361). -/
structure QueueS where
  und : List Rec := []
  pos : Nat := 0
  ret : List Rec := []
  seq : Nat := 0
  fault : Bool := false
  ready : Bool := false
  nextNotify : Nat := 0
  flushHead : Bool := false
  deriving DecidableEq, Repr

/-- A producer: cells held by its open record, the bytes pushed so far and the queue pushed to, and whether the rest of its
record is discarded, with the SEQ consumed at that drop (R334, R343, R356); the stream of its open record, the cells of the copy that is built
beside it, and whether the rest of that copy is discarded (R339). -/
structure ProdS where
  cells : List Nat := []
  seq : Nat := 0
  isOpen : Bool := false
  bytes : List Byte := []
  queue : Nat := 0
  dropping : Bool := false
  stream : Nat := 0xFFFF
  copy : List Nat := []
  copyDrop : Bool := false
  deriving DecidableEq, Repr


/-- A recovery fence whose push waits for a cell (R434): its die and queue, the payload's values (R406), the steward that
writes it, and the FCLK cycle of the next try. -/
structure Fence where
  die : Nat
  queue : Nat
  cause : Nat
  steward : Nat
  writer : Nat
  prevEpoch : Nat
  detect : Nat
  replayed : Nat
  firstSeq : Option Nat := none
  rewind : Nat := 0
  due : Nat := 0
  deriving DecidableEq, Repr

/-! ## Barges (R364-R398) -/

/-- A MOVE in progress: its five words, its start addresses, the length in bytes and what is left, the queue it pops records
from, and the cursor value. -/
structure MoveRun where
  words : List Nat
  src : Nat := 0
  dst : Nat := 0
  total : Nat
  left : Nat
  queue : Option Nat := none
  cursor : Nat := 0
  deriving DecidableEq, Repr

/-- A barge channel beside its registers: current instruction, MOVE in progress, deadlines of timed waits (FCLK cycle; device
time in units of 2^-16 ns), ring credit a blocked MOVE needs, queue whose REC MOVE of another channel it waits for, rate
limiter (in units of 1/256 byte, as of a cycle, with the bytes per cycle of the target link of its last MOVE), failed write (its cycle and the retries used), an abort under way (QUIET) with the state before it, SIGNAL pulses armed, an END that
waits for completion, and bytes not yet counted in BYTES. -/
structure ChanS where
  pc : Nat := 0
  mv : Option MoveRun := none
  relAt : Option Nat := none
  absT : Option Nat := none
  need : Nat := 0
  waitQ : Option Nat := none
  acc : Nat := 0
  accAt : Nat := 0
  link : Nat := 115
  failAt : Option Nat := none
  retries : Nat := 0
  abort : Option Bool := none
  sigs : List Nat := []
  ending : Bool := false
  odd : Nat := 0
  deriving DecidableEq, Repr

/-- A barge engine: its active channel and the one last served (R364, R365). -/
structure EngS where
  active : Option Nat := none
  last : Nat := 31
  deriving DecidableEq, Repr

/-! ## The merged uplink (R407-R437) -/

/-- A posted write on its way to the host: the die it came from, its host address and bytes, for a tail write its ring and
value, and its number in the order in which the steward received it. -/
structure HostWr where
  die : Nat
  addr : Nat
  bytes : List Byte
  tail : Option (Nat × Nat) := none
  no : Nat := 0
  deriving DecidableEq, Repr

/-- A ring's ledger (R423): position of the next byte, header bytes seen of the record that passes, its payload bytes still to
come, the last record boundary, the ends of parsed records not yet acknowledged, and whether it has stopped. -/
structure LedgerS where
  pos : Nat := 0
  hdr : List Byte := []
  left : Nat := 0
  bound : Nat := 0
  ends : List Nat := []
  stopped : Bool := false
  deriving DecidableEq, Repr

/-- A tail write not yet acknowledged: its ring and value, the die it came from, and its number. -/
structure TailWr where
  ring : Nat
  value : Nat
  die : Nat
  no : Nat := 0
  deriving DecidableEq, Repr

/-- A steward's endpoint beside its registers: Bus Master Enable, D3hot, no posted credit and the FCLK cycle of its last grant,
Function Level Reset, and the code of Max Payload Size (R409); writes that wait for the host; tail writes not yet acknowledged; the
number of the next write, and the numbers below which the drains of modules wait (R425); rings whose vector is owed and the cycle of the last
message by vector; doorbell updates that wait for the other steward (ring, HEAD); the FCLK cycles at which ACCEPT last cleared and was last set; the streams
shed by the logic, the last plan, and the streams left unshed with the cycle since; mailbox response and discard mark; `dbLo` holds the
RINGk_DB_LO words written since (R435). -/
structure EpS where
  bme : Bool := false
  d3hot : Bool := false
  stalled : Bool := false
  creditAt : Nat := 0
  flr : Bool := false
  mps : Nat := 0
  dbLo : List (Nat × Nat) := []
  hostq : List HostWr := []
  tails : List TailWr := []
  nextNo : Nat := 0
  drains : List (Nat × Nat) := []
  vecPend : List Nat := []
  vecLast : List (Nat × Nat) := []
  dbPend : List (Nat × Nat) := []
  acceptClr : Nat := 0
  acceptSet : Nat := 0
  shed : List Nat := []
  plan : List Nat := []
  holds : List (Nat × Nat) := []
  mbRsp : Option (List Byte) := none
  mbDiscard : Bool := false
  deriving DecidableEq, Repr

/-! ## Die-to-die fabric (R438-R460) -/

/-- A read issued over a module that has not ended: its tag, requester, address, the FCLK cycle of its issue, the length asked
for, and the completion's status and data. -/
structure PendRd where
  tag : Nat
  req : Nat
  addr : Nat
  at_ : Nat
  len : Nat
  status : Nat := 0
  data : List Byte := []
  deriving DecidableEq, Repr

/-- A write sent over a module and not acknowledged (R446): its requester, its address in the target's map, and its bytes. -/
structure PendWr where
  req : Nat
  addr : Nat
  data : List Byte
  deriving DecidableEq, Repr

/-- A prefetch line: address, cycle it was fetched, bytes, and the words of it that have been read; lines stand least recently used first
(R456). -/
structure PfLine where
  addr : Nat
  at_ : Nat
  data : List Byte
  got : List Nat := []
  deriving DecidableEq, Repr

/-- One end of a module beside its registers: entry to RETRAIN, replays in a row of one flit sent, reads outstanding, writes not
acknowledged, prefetch lines, and the P units and NP requests it has accepted and not yet returned (R438, R445-R456). -/
structure ModS where
  retrainAt : Nat := 0
  replays : Nat := 0
  rds : List PendRd := []
  wrs : List PendWr := []
  lines : List PfLine := []
  owedP : Nat := 0
  owedNp : Nat := 0
  deriving DecidableEq, Repr

/-! ## Event fabric (R473-R500) -/

/-- A time window: its current occurrence and period in units of 2^-16 ns, whether OPEN and CLOSE of it have pulsed, and
whether an occurrence came before it (R479, R486). -/
structure WinS where
  en : Bool := false
  periodic : Bool := false
  opn : Nat := 0
  cls : Nat := 0
  per : Nat := 0
  opened : Bool := false
  closed : Bool := false
  prev : Bool := false
  deriving DecidableEq, Repr

/-- A logic cell beside LC_STAT: the cycle since which f differs from Q, and the cycle at which its hold-off ends (R485). -/
structure CellS where
  since : Option Nat := none
  hold : Option Nat := none
  deriving DecidableEq, Repr

/-- An event on a channel: the producer whose stamp it carries, the stamp, and whether producers merged (R476). -/
structure ChEv where
  ch : Nat
  ep : Nat
  stamp : Nat
  merged : Bool := false
  deriving DecidableEq, Repr

/-- An event that waits to become a record, as R492 lays it out; LOST is filled when it is written. -/
structure EvCap where
  ev : ChEv
  cyc : Nat
  q : Nat
  pins : Nat
  wins : Nat
  deriving DecidableEq, Repr

/-- A relay message (R493): the die that sent it, its line and sequence, the event's stamp and CYCLE. -/
structure RelayMsg where
  src : Nat
  line : Nat
  seq : Nat
  stamp : Nat
  cyc : Nat
  deriving DecidableEq, Repr

/-- The event fabric of a die beside its registers. `pulses` are producers' pulses (producer, stamp in units of 2^-16 ns, FCLK
cycle) that the channels have not yet taken; `held` events of clocked channels with the cycle they are due; `edges` pulses
of REG cells and the cycle they are due; `qPrev` the cells' Q at the end of the cycle before `evalAt`; `pins` the output
pins' active level and pulse end; `cap` the capture queue; `sent` per line the cycle and sequence of the last export; `inbox`
relay messages that have reached the die, `seen` those taken, `due` relay emissions (line, time, stamp); `snap` the shadows
under check; `locked` whether a commit has set RWL fields. -/
structure EfS where
  pulses : List (Nat × Nat × Nat) := []
  held : List (Nat × ChEv) := []
  edges : List (Nat × Nat) := []
  qPrev : Nat := 0
  evalAt : Option Nat := none
  cells : Tbl CellS := []
  wins : Tbl WinS := []
  pins : Tbl (Bool × Option Nat) := []
  cap : List EvCap := []
  capLost : Nat := 0
  lastRec : Option Nat := none
  sent : List (Nat × Nat × Nat) := []
  inbox : List RelayMsg := []
  seen : List (Nat × Nat × Nat) := []
  due : List (Nat × Nat × Nat) := []
  snap : Option (Tbl Word) := none
  locked : Bool := false
  deriving DecidableEq, Repr

/-! ## Axis inputs (R501-R520) -/

/-- What an AXIS record reports of one sample (R518), with the sample's stamp. -/
structure AxSnap where
  t : Nat := 0
  state : Nat := 0
  mode : Nat := 0
  count : Word := 0
  pos : Word := 0
  speed : Word := 0
  accel : Word := 0
  edge : Nat := 0
  idxCapt : Word := 0
  idxDiff : Word := 0
  illegal : Nat := 0
  raw : Word := 0
  deriving DecidableEq, Repr

/-- An axis beside its registers: P and dir of R509; the observer's x, v·Ts and a·Ts² in units of 2^-96 count, SPEED and ACCEL
as reported, and whether an illegal transition fell into the interval (R514); the stamp of the last change of C; the last
valid Hall state; illegal transitions since the mode commit; the open window of R515 and its count; the sample in which
AXIS_FAULT was entered; the SSI frame in progress, the last accepted word and whether the next one sets the count (R507);
when the last periodic trigger, record, SSI frame and observer update were; waiting triggers (stamp, CAUSE) and those lost; samples, newest first. -/
structure AxisS where
  p : Word := 0
  neg : Bool := false
  x : Int := 0
  w : Int := 0
  b : Int := 0
  speed : Word := 0
  accel : Word := 0
  coast : Bool := false
  edge : Nat := 0
  valid : Option Nat := none
  ill : Nat := 0
  illOpen : Option Nat := none
  illN : Nat := 0
  faultAt : Option Nat := none
  ssiAt : Option Nat := none
  ssiLast : Nat := 0
  ssiFirst : Bool := true
  ssiPrev : Option Nat := none
  obsAt : Nat := 0
  lastPer : Nat := 0
  lastRec : Option Nat := none
  trigs : List (Nat × Nat) := []
  lost : Nat := 0
  hist : List AxSnap := []
  deriving DecidableEq, Repr

/-! ## The journal (R521-R554) -/

/-- An extent whose append has been asked for (R527): its lane, JSEQ, records, bytes as written, first block and
number of blocks, whether an append of it has been sent and whether all have completed, blocks that completed appends wrote, retries
used and the cycle of the last failure. -/
structure Extent where
  id : Nat
  lane : Nat
  jseq : Nat := 0
  recs : List (List Byte)
  data : List Byte := []
  lba : Nat := 0
  nlb : Nat := 0
  sent : Bool := false
  done : Bool := false
  wrote : Nat := 0
  tries : Nat := 0
  failAt : Option Nat := none
  deriving DecidableEq, Repr

/-- A lane (R531): its zone, the block after the last extent placed in it, the block after the last committed extent, the end
recovery found, and the records of its current extent. -/
structure LaneS where
  zone : Option Nat := none
  wp : Nat := 0
  comWp : Nat := 0
  validEnd : Option Nat := none
  cur : List (List Byte) := []
  deriving DecidableEq, Repr

/-- A commit under way (R540): 0 ordinary, 1 final, 2 detach; its phase 2 (appends), 3 (flush) or 5 (anchor); and the extents
it closed. -/
structure CommitS where
  kind : Nat
  phase : Nat := 2
  exts : List Nat
  deriving DecidableEq, Repr

/-- The journal engine of a steward beside its registers. Bucket levels are in units of 10^-9 byte, as of an FCLK cycle; `pre` is
the pre-roll store, oldest first; `fwd` records forwarded by the partner and not yet taken; `zones` the first JSEQ of full
zones; `closing` zones that a lane has left and that are not yet finished; `wear` (seconds, medium bytes) of past readings. -/
structure JnS where
  drive : Option DriveInfo := none
  medium : Nat := 0
  firstUse : Nat := 0
  lastMedium : Option Nat := none
  linkUp : Bool := false
  perstLow : Bool := true
  perstAt : Nat := 0
  rescan : Bool := false
  seq : Nat := 0
  jepoch : Nat := 0
  gen : Nat := 0
  prevJseq : Nat := 0
  lanes : List LaneS := []
  exts : List Extent := []
  nextExt : Nat := 0
  laneN : Nat := 4
  commits : List CommitS := []
  covered : List Nat := []
  lease : List (Nat × Nat) := []
  granted : Option Nat := none
  zones : Tbl (Option Nat) := []
  prevZone : Nat := 0xFFFFFFFF
  closing : List Nat := []
  inflight : Nat := 0
  firstAcc : Option Nat := none
  accBytes : Nat := 0
  recBytes : Nat := 0
  ckptNext : Nat := 0x40000000
  ckptDue : Bool := false
  ckptPrev : Nat := 0xFFFFFFFFFFFFFFFF
  ckptRecs : Nat := 0
  ckptFirst : Option Nat := none
  lastSeq : Tbl Nat := []
  devRate : Nat := 0
  devLevel : Nat := 0
  devAt : Nat := 0
  buckets : Tbl (Option (Nat × Nat)) := []
  clips : Tbl (Option (Nat × Nat)) := []
  pre : List (List Byte) := []
  stopped : List Nat := []
  fwd : List (List Byte) := []
  wear : List (Nat × Nat) := []
  endurance : Nat := 0
  flushAt : Nat := 0
  flushes : List (Nat × Nat) := []
  staleFlush : Nat := 0
  budgetAt : Nat := 0
  wearAt : Option Nat := none
  wearDue : Bool := false
  anchorAt : Nat := 0
  anchorMeas : Bool := false
  rateMeas : Bool := false
  appends : List (Nat × Nat) := []
  busySince : Option Nat := none
  final : Bool := false
  finalDone : Bool := false
  shnAt : Option Nat := none
  linkTryAt : Option Nat := none
  deriving DecidableEq, Repr

/-! ## Hold-up, final commit and recovery (R433, R555-R589) -/

/-- A channel that a recovery aborted and has still to start (R433): the steward that recovers, the channel, the queue whose fence
must be queued first, and the FCLK cycle before which it is not started. -/
structure Restart where
  st : Nat
  die : Nat
  eng : Nat
  ch : Nat
  queue : Option Nat := none
  due : Nat := 0
  deriving DecidableEq, Repr

/-- The hold-up monitor of a steward beside its registers: a valid result and when it was taken, whether there ever was one; the
cycle at which HU_TEST rose and the stamp t_s of the test in progress; when a test falls due and when it is tried again; a
result on its way from the lead (T_TEST, CAP); SHORT; entry to final commit and FINAL_DONE; a test that waits for V_A; and the cycles of
the last sample and of the last computation of the window. -/
structure HuS where
  valid : Bool := false
  ever : Bool := false
  validAt : Nat := 0
  testAt : Option Nat := none
  ts : Option Nat := none
  dueAt : Nat := 0
  retryAt : Option Nat := none
  rx : Option (Nat × Nat) := none
  short : Bool := false
  fcAt : Nat := 0
  doneAt : Nat := 0
  waitVa : Bool := false
  sampleAt : Option Nat := none
  windowAt : Option Nat := none
  deriving DecidableEq, Repr

/-- A check-value unit: 0 idle, 1 waits for FRAME_OPEN, 2 running in a frame, 3 reading memory; its register; and the cycle at which it started
(R601). -/
structure CkS where
  phase : Nat := 0
  crc : Nat := 0
  began : Nat := 0
  deriving DecidableEq, Repr

/-! ## Availability (R578-R594) -/

/-- Heartbeats at one end of a module (R582, R583): when this end last sent one, what has reached it and is not yet taken, when the
last was taken, misses since, whether this end has lost the far die, and the HB_SEEN bits of the last one taken. -/
structure HbS where
  tx : Option Nat := none
  inbox : List Nat := []
  rx : Option Nat := none
  miss : Nat := 0
  lost : Bool := false
  seen : Nat := 0
  deriving DecidableEq, Repr

/-! ## The dictionary, its routes and the slow ports (R611-R676) -/

/-- A request the dictionary engine has taken (R621, R624): source rank (0 firmware, 1 mailbox, 2 CAN, 3 I2C, 4 gateway), the steward
it came in at, for a gateway request the port and TRANS, and its bytes. -/
structure DictReq where
  src : Nat
  st : Nat
  port : Nat := 0
  trans : Nat := 0
  bytes : List Byte
  at_ : Nat := 0
  deriving DecidableEq, Repr

/-- A gateway transaction (R634, R635): the request, its port and TRANS, and when it was opened; one that waits has no time. -/
structure GwTx where
  req : DictReq
  port : Nat
  trans : Nat := 0
  opened : Option Nat := none
  deriving DecidableEq, Repr

/-- The I2C target of a steward beside its registers (R658-R663): pointer, whether a transfer is open, bytes written after the pointer,
TAG of the last request, and the response region. -/
structure I2cS where
  ptr : Nat := 0
  inTransfer : Bool := false
  buf : List Byte := []
  tag : Nat := 0
  rsp : List Byte := []
  deriving DecidableEq, Repr

/-- A bit timing (R653) in time quanta of 12.5 ns: Tseg1, Tseg2 and SJW; the synchronisation segment is 1. -/
structure CanBit where
  tseg1 : Nat := 63
  tseg2 : Nat := 16
  sjw : Nat := 16
  deriving DecidableEq, Repr

/-- A CAN port of a steward beside its registers (R625-R629, R653): its data bit timing, the secondary sample point of the last data phase in time
quanta, NMT state (0 pre-operational, 1 operational, 2 stopped), its node-ID and
data rate, when it last sent its heartbeat, per TPDO the last values sent, the cycle sent, and SYNCs counted. -/
structure CanS where
  on : Bool := false
  bits : CanBit := {}
  ssp : Nat := 0
  nmt : Nat := 0
  node : Nat := 0
  rate : Nat := 0
  hbAt : Nat := 0
  sent : Tbl (List Byte × Nat) := []
  syncs : Tbl Nat := []
  chgAt : Option Nat := none
  deriving DecidableEq, Repr

/-- The dictionary engine (R617-R651): whether it serves requests, the blocks whose shadows it has written since their last commit
(kind in the order of R618, instance), a profile switch that waits for AT (profile, AT in units of 2^-16 ns), and a
store whose copies are being written (profile), first to the flash of `storeSt`, its bytes while the flash is still busy with an operation of
firmware (R669), and the cycle of the last HEALTH record of severity FAULT (R628). -/
structure DictS where
  serving : Bool := false
  dirty : List (Nat × Nat) := []
  atSel : Option (Nat × Nat) := none
  store : Option Nat := none
  storeSt : Nat := 4
  storeWait : Option (List Byte × List Byte) := none
  faultAt : Option Nat := none
  deriving DecidableEq, Repr

/-- The flash controller of a steward: the operation under way (1 program, 2 erase) with its address and bytes (R669). -/
structure QspiS where
  op : Option (Nat × Nat × List Byte) := none
  deriving DecidableEq, Repr

/-- A patrol scrubber: the cycle at which its pass began (R598), and the word that it reads again (R599). -/
structure ScrubS where
  began : Nat := 0
  again : Option Nat := none
  deriving DecidableEq, Repr

/-- A debug module (R671, R672, R674): its level, signature checks failed in a row, when a lockout began, since when all its harts are
halted, and the bytes of the challenge read and of the signature written through authdata. -/
structure DbgS where
  chal : List Byte := []
  sig : List Byte := []
  level : Nat := 0
  fails : Nat := 0
  lockAt : Option Nat := none
  haltAt : Option Nat := none
  deriving DecidableEq, Repr

/-- The TAP of the package (R670): the instruction selected, DIE_SEL, and when EXTEST, CLAMP or HIGHZ started final commit (R673). -/
structure JtagS where
  ir : Nat := 1
  dieSel : Nat := 0
  bscan : Option Nat := none
  deriving DecidableEq, Repr

/-! ## The power-over-cable chain (R717-R721) -/

/-- The chain of a die beside its registers: per local port the cycle at which ON was first sent, and frames sent since ON cleared; and
frames in a row after which PCC_FLT_N was held low while no status showed FAULT; and the cycle of the last frame. -/
structure PccS where
  frameAt : Option Nat := none
  onAt : Tbl (Option Nat) := []
  off : Tbl Nat := []
  low : Nat := 0
  deriving DecidableEq, Repr

/-! ## The whole block -/

/-- Everything the spec gives the block, and the queue of waiting commands. -/
structure State where
  /-- Commands that wait, first in first out. -/
  pending : List Instr
  /-- The part (log entry 3). -/
  part : Part
  /-- FCLK cycles since reset (R43). -/
  cycle : Nat
  /-- Counter of free values, the model's own (log entry 4). -/
  free : Nat
  /-- Answer to the last command, the model's own (log entry 5). -/
  resp : Resp
  /-- What left the block, newest first, the model's own (log entry 5). -/
  out : List Out
  /-- Every register of every die (R14): key die × 2^32 + offset. -/
  regs : Tbl Word
  /-- Committed values of shadowed registers (R17), same keys. -/
  acts : Tbl Word
  /-- Latched high words per access path (R452). -/
  latches : Tbl Word
  /-- Bytes of the memories of R39: key die × 2^40 + address. -/
  mem : Tbl Byte
  /-- The steward that holds the lead role (R25): 4 SA, 5 SB. -/
  lead : Nat
  /-- Device time of each die (R52). -/
  times : Tbl DieTime
  /-- Package time (R53-R70) and the worker's servo (R80). -/
  tm : TimeS
  /-- Time alarms, key die × 16 + alarm (R71). -/
  alarms : Tbl AlarmS
  /-- Basin queues, key die × 4096 + queue (R344-R361). -/
  queues : Tbl QueueS
  /-- Basin producers, key die × 2048 + producer (R334). -/
  prods : Tbl ProdS
  /-- Health records lost since the reporter's last (R603), by die. -/
  healthLost : Tbl Nat
  /-- Check-value units, key die × 8 + unit (R600). -/
  cks : Tbl CkS
  /-- Event fabric of each die (R473). -/
  efs : Tbl EfS
  /-- Camera ports, by device-wide number (R104-R193). -/
  ports : Tbl PortS
  /-- Ingest contexts, by device-wide stream (R194-R227). -/
  sis : Tbl SiS
  /-- Pipelines, by device-wide number (R220-R329). -/
  pipes : Tbl PipeS
  /-- Schedules, by device-wide stream (R228-R249). -/
  schs : Tbl SchS
  /-- Package-wide schedule state (R242-R247). -/
  sched : SchedS
  /-- Final commit has begun (R248, R556-R558). -/
  finalC : Bool
  /-- Rotating pointer of the allocator (R340), by die. -/
  cellPtr : Tbl Nat
  /-- Bytes of the basin written under DIRECT_WR (R360), key die × 2^32 + address. -/
  cellMem : Tbl (Option Byte)
  /-- Fence pushes that wait for a cell (R434). -/
  fences : List Fence
  /-- Barge channels, key die × 512 + engine × 32 + channel (R364-R395). -/
  chans : Tbl ChanS
  /-- Barge engines, key die × 16 + engine (R364, R365). -/
  engs : Tbl EngS
  /-- Endpoint of each steward (R407-R431). -/
  eps : Tbl EpS
  /-- Ring ledgers, key steward × 1024 + ring (R423). -/
  ledgers : Tbl LedgerS
  /-- Package epoch (R434). -/
  epoch : Nat
  /-- Weir mode holds (R544). -/
  weirOn : Bool
  /-- Concentrator dies lost to the stewards (R592). -/
  lostDies : List Nat
  /-- Module ends, key die × 8 + module (R445-R456). -/
  mods : Tbl ModS
  /-- Axis inputs, by device-wide number (R501-R520). -/
  axes : Tbl AxisS
  /-- Relay messages at each steward, not yet forwarded (R493). -/
  relaySt : Tbl (List RelayMsg)
  /-- Relay events delivered to each steward's journal engine and not yet taken (line, stamp) (R493, R538). -/
  relayJ : Tbl (List (Nat × Nat))
  /-- Journal engine of each steward (R521-R554). -/
  jns : Tbl JnS
  /-- Hold-up monitor of each steward (R555-R577). -/
  hus : Tbl HuS
  /-- Stewards whose cores are parked (R568, R583, R594). -/
  parked : List Nat
  /-- The final commit under way ends with a normal drive shutdown (R693). -/
  shutNormal : Bool
  /-- Barge channels that final commit aborted: die, engine, channel (R567, R572). -/
  fcChans : List (Nat × Nat × Nat)
  /-- Channels that a recovery has still to start (R433). -/
  restarts : List Restart
  /-- Per steward, the last heartbeat before a switch-over under way (R584, R608). -/
  switchAt : Tbl (Option Nat)
  /-- Heartbeats of each module end, key die × 8 + module (R582). -/
  hbs : Tbl HbS
  /-- Stewards that send heartbeats: from READY on (R582, R685). -/
  hbOn : List Nat
  /-- Per steward, when its planned stop was announced (R589). -/
  plannedAt : Tbl (Option Nat)
  /-- Stewards declared lost and not back (R583, R586). -/
  declared : List Nat
  /-- Declared MODULE_LOST: concentrator die, steward (R583). -/
  modLost : List (Nat × Nat)
  /-- Per steward, the cycle at which PEER_UP was last set (R586). -/
  peerUpAt : Tbl Nat
  /-- Per die, its patrol scrubber (R598, R599). -/
  scrubAt : Tbl ScrubS
  /-- Keeper watchdogs that have expired and not been served, die × 2 + core (R591). -/
  wdogs : List Nat
  /-- Harts halted by debug, key die × 8 + hart (R671). -/
  halted : List Nat
  /-- Requests the dictionary engine has taken and not answered, in order of arrival (R624). -/
  dictQ : List DictReq
  /-- Gateway transactions, open and waiting (R634). -/
  gws : List GwTx
  /-- Values of the dictionary's own objects: index × 256 + sub-index, CAN port B's communication objects 2^24 above (R628-R642). -/
  objs : Tbl (List Byte)
  /-- The dictionary engine (R617-R651). -/
  dict : DictS
  /-- I2C target of each steward (R658). -/
  i2cs : Tbl I2cS
  /-- CAN port of each steward (R625). -/
  cans : Tbl CanS
  /-- Flash controller of each steward (R669). -/
  qspis : Tbl QspiS
  /-- Debug module of each die (R671). -/
  dbgs : Tbl DbgS
  /-- Power-over-cable chain of each concentrator (R717). -/
  pccs : Tbl PccS
  /-- Dies that have reported OVERTEMP and not cooled below 105 °C (R724). -/
  hotDies : List Nat
  /-- Why FAULT_N is low (R706): 0 before the first READY, 1 clock loss, 2 and 3 BOOT_FAIL of SA and SB, 4 shut down, 5 supply sequence, 6 overtemperature. -/
  faultWhy : List Nat
  /-- The TAP (R670). -/
  jtag : JtagS
  /-- Level of each concentrator source as last sent, key die × 256 + source (R461). -/
  irqSent : Tbl Bool
  /-- Copies of concentrator levels at each steward, key steward × 2048 + g (R461). -/
  irqCopy : Tbl Bool
  /-- Claimed sources of each steward, key steward × 2048 + g (R466). -/
  irqClaims : Tbl Bool
  /-- Sources claimed by keeper cores, key die × 256 + source (R467). -/
  kpClaims : Tbl Bool
  /-- Software sources, key die × 16 + i (R471, R472). -/
  swLv : Tbl Bool
  /-- Per steward, the cycle of its BOOT_CMD.READY since its reset (R685). -/
  readyAt : Tbl (Option Nat)
  /-- Dies reset since final commit began (R570, R572). -/
  fcReset : List Nat
  /-- Per die, the keeper core whose image is being verified (R689, R696). -/
  kpVer : Tbl (Option Nat)
  /-- Keeper cores asked to reach their idle point, key die × 2 + core (R690). -/
  kpReq : Tbl Bool
  /-- RESET_N is low (R677, R678). -/
  rstLow : Bool
  /-- Dies whose next collision of accesses from U_A and U_B is performed U_B first (R35). -/
  ubFirst : List Nat
  deriving DecidableEq, Repr

/-- The block right after reset: every register at its reset value, nothing in any buffer. -/
def State.reset : State where
  pending := []
  part := .azl512
  cycle := 0
  free := 0
  resp := .none
  out := []
  regs := []
  acts := []
  latches := []
  mem := []
  lead := 4
  times := []
  tm := {}
  alarms := []
  queues := []
  prods := []
  healthLost := []
  cks := []
  efs := []
  ports := []
  sis := []
  pipes := []
  schs := []
  sched := {}
  finalC := false
  cellPtr := []
  cellMem := []
  fences := []
  chans := []
  engs := []
  eps := []
  ledgers := []
  epoch := 0
  weirOn := false
  lostDies := []
  mods := []
  axes := []
  relaySt := []
  relayJ := []
  jns := []
  hus := []
  parked := []
  shutNormal := false
  fcChans := []
  restarts := []
  switchAt := []
  hbs := []
  hbOn := []
  plannedAt := []
  declared := []
  modLost := []
  peerUpAt := []
  scrubAt := []
  wdogs := []
  halted := []
  dictQ := []
  gws := []
  objs := []
  dict := {}
  i2cs := []
  cans := []
  qspis := []
  dbgs := []
  pccs := []
  hotDies := []
  faultWhy := [0]
  jtag := {}
  irqSent := []
  irqCopy := []
  irqClaims := []
  kpClaims := []
  swLv := []
  readyAt := []
  fcReset := []
  kpVer := []
  kpReq := []
  rstLow := false
  ubFirst := []

end Sys2Proof.Machine
end

