-- ==== Sys2Proof/Machine/Ops.lean ====
section
/-! DEFINITION. The named operations over registers, tables, time, outputs, events, the error log and free values. -/
namespace Sys2Proof.Machine
set_option Elab.async false

/-- What a meaning answers. -/
abbrev Res := Host.Outcome State Fault Refusal

/-! ## Where the register blocks lie (R41, R42) -/

/-- The key of offset 0 of a die's map. -/
abbrev dk (die : Nat) : Nat := die * 0x100000000
/-- Camera port `p` (device-wide, R7). -/
abbrev lp (p : Nat) : Nat := dk (p / 32) + 0x10000000 + (p % 32) * 0x10000
/-- Ingest context of stream `s` (device-wide). -/
abbrev si (s : Nat) : Nat := dk (s / 128) + 0x10200000 + (s % 128) * 0x4000
/-- Pipeline `n` (device-wide). -/
abbrev pl (n : Nat) : Nat := dk (n / 128) + 0x10400000 + (n % 128) * 0x10000
/-- Barge engine `e` of a die. -/
abbrev bg (die e : Nat) : Nat := dk die + 0x11000000 + e * 0x10000
/-- Registers of channel `c` of a barge engine, offsets as in the table of R396 for channel 0. -/
abbrev bgc (die e c : Nat) : Nat := bg die e + 0x80 * c
/-- Counters of channel `c` of a barge engine. -/
abbrev bgn (die e c : Nat) : Nat := bg die e + 0x20 * c
/-- The event fabric of a die. -/
abbrev ef (die : Nat) : Nat := dk die + 0x11100000
/-- Axis input `a` (device-wide). -/
abbrev ax (a : Nat) : Nat := dk (a / 4) + 0x11200000 + (a % 4) * 0x10000
/-- Check-value unit `u` of a die. -/
abbrev ck (die u : Nat) : Nat := dk die + (if die < 4 then 0x11300000 else 0x30000) + u * 0x1000
/-- The timebase of a die. -/
abbrev tb (die : Nat) : Nat := dk die + (if die < 4 then 0x11400000 else 0x40000)
/-- The interrupt aggregator of a concentrator die. -/
abbrev iq (die : Nat) : Nat := dk die + 0x11500000
/-- The interrupt aggregator of a steward. -/
abbrev iqs (st : Nat) : Nat := dk st + 0x10000
/-- The bridge block of a concentrator die (module U_A at 0, U_B at 0x1000, R468). -/
abbrev br (die : Nat) : Nat := dk die + 0x11600000
/-- Module `m` of a steward's bridge block (U_C0-U_C3, U_X as 0-4). -/
abbrev brs (st m : Nat) : Nat := dk st + 0x100000 + m * 0x10000
/-- The keeper block of a concentrator die. -/
abbrev kp (die : Nat) : Nat := dk die + 0x11700000
/-- The semaphore and error log block of a die. -/
abbrev sm (die : Nat) : Nat := dk die + (if die < 4 then 0x11800000 else 0x20000)
/-- Steward control, journal, hold-up, MRAM, endpoint, LPDDR5X, CAN, I2C, QSPI blocks and BAR0 of a steward. -/
abbrev sc (st : Nat) : Nat := dk st
abbrev jn (st : Nat) : Nat := dk st + 0x200000
abbrev hu (st : Nat) : Nat := dk st + 0x210000
abbrev mr (st : Nat) : Nat := dk st + 0x220000
abbrev epb (st : Nat) : Nat := dk st + 0x400000
abbrev lpd (st : Nat) : Nat := dk st + 0x600000
abbrev can (st : Nat) : Nat := dk st + 0x700000
abbrev i2c (st : Nat) : Nat := dk st + 0x710000
abbrev qspi (st : Nat) : Nat := dk st + 0x720000
abbrev upb (st : Nat) : Nat := dk st + 0x80000000

/-! ## Registers -/

/-- The word a register holds (R14). -/
def State.rd (s : State) (k : Nat) : Word := Tbl.get resetWord s.regs k

/-- A register set to a word by the device. -/
def State.wr (s : State) (k : Nat) (v : Word) : State := { s with regs := Tbl.set resetWord s.regs k v }

/-- The committed value of a shadowed register (R17). -/
def State.act (s : State) (k : Nat) : Word := Tbl.get resetWord s.acts k

/-- The committed value of a shadowed register set. -/
def State.setAct (s : State) (k : Nat) (v : Word) : State := { s with acts := Tbl.set resetWord s.acts k v }

/-- The shadow of a register copied to its committed value (R17). -/
def State.commitReg (s : State) (k : Nat) : State := s.setAct k (s.rd k)

/-- A list of shadowed registers committed. -/
def State.commitRegs (s : State) (ks : List Nat) : State := forEach ks s (fun s k => s.commitReg k)

def State.rdN (s : State) (k : Nat) : Nat := (s.rd k).toNat
def State.rdI (s : State) (k : Nat) : Int := (s.rd k).toInt
def State.actN (s : State) (k : Nat) : Nat := (s.act k).toNat
/-- Bits hi:lo of a register. -/
def State.fld (s : State) (k hi lo : Nat) : Nat := wbits (s.rd k) hi lo
/-- Bits hi:lo of a committed register. -/
def State.afld (s : State) (k hi lo : Nat) : Nat := wbits (s.act k) hi lo
def State.bit (s : State) (k i : Nat) : Bool := (s.rd k).toNat.testBit i
def State.abit (s : State) (k i : Nat) : Bool := (s.act k).toNat.testBit i
def State.wrN (s : State) (k n : Nat) : State := s.wr k (wordOf n)
def State.wrI (s : State) (k : Nat) (i : Int) : State := s.wr k (wordOfInt i)
/-- Bits hi:lo of a register replaced. -/
def State.wrFld (s : State) (k hi lo n : Nat) : State := s.wr k (wput (s.rd k) hi lo n)
/-- The bits of `m` set in a register. -/
def State.setBits (s : State) (k m : Nat) : State := s.wr k (s.rd k ||| wordOf m)
/-- The bits of `m` cleared in a register. -/
def State.clrBits (s : State) (k m : Nat) : State := s.wr k (s.rd k &&& ~~~ (wordOf m))
/-- One bit of a register set. -/
def State.setBit (s : State) (k i : Nat) : State := s.setBits k (2 ^ i)
/-- One bit of a register cleared. -/
def State.clrBit (s : State) (k i : Nat) : State := s.clrBits k (2 ^ i)
/-- One bit of a register set or cleared. -/
def State.putBit (s : State) (k i : Nat) (b : Bool) : State := if b then s.setBit k i else s.clrBit k i
/-- A counter that saturates at 0xFFFF_FFFF, raised by `n`. -/
def State.addSat (s : State) (k n : Nat) : State := s.wrN k (Nat.min 0xFFFFFFFF (s.rdN k + n))
/-- A saturating counter raised by 1. -/
def State.inc (s : State) (k : Nat) : State := s.addSat k 1
/-- A wrapping counter raised by 1. -/
def State.incW (s : State) (k : Nat) : State := s.wrN k (s.rdN k + 1)
/-- A 64-bit register pair, low word at `k`, high word at `k2`. -/
def State.rdPair (s : State) (k k2 : Nat) : Nat := s.rdN k + s.rdN k2 * 0x100000000
/-- A 64-bit register pair set. -/
def State.wrPair (s : State) (k k2 n : Nat) : State := (s.wrN k n).wrN k2 (n / 0x100000000)
/-- A DT96 value of three registers, as a 96-bit integer. -/
def State.rdDt (s : State) (k : Nat) : Nat := dtOfWords (s.rd k) (s.rd (k + 4)) (s.rd (k + 8))
/-- A DT96 value of three committed registers. -/
def State.actDt (s : State) (k : Nat) : Nat := dtOfWords (s.act k) (s.act (k + 4)) (s.act (k + 8))
/-- Three registers set to a 96-bit DT96 value. -/
def State.wrDt (s : State) (k x : Nat) : State :=
  ((s.wr k (dtWord x 0)).wr (k + 4) (dtWord x 1)).wr (k + 8) (dtWord x 2)

/-! ## Latches (R452) -/

/-- The access path of a requester: each steward's, those of the keeper cores, that of a barge; steward hardware (the dictionary
engine, R614) uses the lead's. -/
def State.pathOf (s : State) (req : Nat) : Nat :=
  if req ≤ 4 then 0 else if req ≤ 8 then 1 else if req = 9 then 2 else if req = 10 then 3
  else if req = 0x20 then s.lead - 4 else 4

/-- The key of a latched high word for one access path. -/
def State.latchKey (s : State) (req k : Nat) : Nat := s.pathOf req * 0x10000000000 + k

/-- A latched high word (R452); before any low read it is 0. -/
def State.latched (s : State) (req k : Nat) : Word := Tbl.get (fun _ => 0#32) s.latches (s.latchKey req k)

/-- A high word latched for one access path. -/
def State.latch (s : State) (req k : Nat) (v : Word) : State :=
  { s with latches := Tbl.set (fun _ => 0#32) s.latches (s.latchKey req k) v }

/-! ## Memory bytes -/

/-- What an unlisted byte reads as (log entry 7): configuration flash (steward 0x0E_0000_0000, R666) is erased to 0xFF,
every other memory reads 0. Byte keys are die × 2^40 + the 40-bit address of R39. -/
def blankByte (k : Nat) : Byte :=
  if 0x0E00000000 ≤ k % 0x10000000000 ∧ k % 0x10000000000 < 0x0E10000000 then 0xFF#8 else 0#8

/-- One byte of a die's memory. -/
def State.byteAt (s : State) (die addr : Nat) : Byte := Tbl.get blankByte s.mem (die * 0x10000000000 + addr)

/-- One byte of a die's memory set. -/
def State.setByte (s : State) (die addr : Nat) (b : Byte) : State :=
  { s with mem := Tbl.set blankByte s.mem (die * 0x10000000000 + addr) b }

/-- `n` bytes of a die's memory. -/
def State.bytesAt (s : State) (die addr : Nat) : Nat → List Byte
  | 0 => []
  | n + 1 => s.byteAt die addr :: s.bytesAt die (addr + 1) n

/-- Bytes stored to a die's memory. -/
def State.setBytes (s : State) (die addr : Nat) : List Byte → State
  | [] => s
  | b :: bs => (s.setByte die addr b).setBytes die (addr + 1) bs

/-! ## Answers, outputs, free values -/

/-- What the sender of the command is answered. -/
def State.respond (s : State) (r : Resp) : State := { s with resp := r }

/-- Something leaves the block. -/
def State.emit (s : State) (k : OutKind) (unit : Nat) (data : List Nat) : State :=
  { s with out := { kind := k, unit := unit, data := data } :: s.out }

/-- A reason for FAULT_N being low comes or goes (R47, R706); the ball is low while any holds. -/
def State.faultN (s : State) (why : Nat) (b : Bool) : State :=
  let rest := s.faultWhy.filter (fun x => x != why)
  let new := if b then why :: rest else rest
  let s1 : State := { s with faultWhy := new }
  if new.isEmpty = s.faultWhy.isEmpty then s1 else s1.emit .pinFaultN 0 [b2n new.isEmpty]

/-- The counter of free values moved on by `n`. -/
def State.skipFree (s : State) (n : Nat) : State := { s with free := s.free + n }

/-- The `i`-th fresh free number. -/
def State.freeNat (s : State) (i : Nat) : Nat := Config.freeNat (s.free + i)

/-! ## Dies, time -/

/-- Whether a die exists on the part (R2). -/
def State.present (s : State) (die : Nat) : Bool :=
  match s.part with
  | .azl512 => decide (die < 6)
  | .azl256 => decide (die < 2) || die == 4 || die == 5
  | .azl128 => die == 0 || die == 4

/-- The present dies. -/
def State.dies (s : State) : List Nat := [0, 1, 2, 3, 4, 5].filter (fun d => s.present d)

/-- The present concentrator dies. -/
def State.concs (s : State) : List Nat := [0, 1, 2, 3].filter (fun d => s.present d)

/-- The present stewards. -/
def State.stewards (s : State) : List Nat := [4, 5].filter (fun d => s.present d)

/-- The other steward. -/
def partner (st : Nat) : Nat := if st = 4 then 5 else 4

/-- The number of a concentrator's module to a steward: U_A (0) leads to SA, U_B (1) to SB (R22). -/
def modTo (st : Nat) : Nat := if st = 4 then 0 else 1

def State.timeOf (s : State) (die : Nat) : DieTime := Tbl.get (fun _ => {}) s.times die
def State.setTime (s : State) (die : Nat) (t : DieTime) : State := { s with times := Tbl.set (fun _ => {}) s.times die t }

/-- Device time of a die in units of 2^-40 ns (R52). -/
def State.now (s : State) (die : Nat) : Nat := (s.timeOf die).now

/-- Device time of a die as a stamp in units of 2^-16 ns. -/
def State.stamp (s : State) (die : Nat) : Nat := s.now die / 2 ^ 24

/-- A concentrator die in moored mode (R587): no steward reaches it. -/
def State.moored (s : State) (die : Nat) : Bool := decide (die < 4) && s.bit (br die + BR.FO_STAT) 2

/-- The present dies that the lead steward reaches (R59). -/
def State.timeDies (s : State) : List Nat := s.dies.filter (fun d => !s.moored d)

/-- Package time changed. -/
def State.setTm (s : State) (t : TimeS) : State := { s with tm := t }

/-- `n` FCLK cycles for microseconds and milliseconds (R43: FCLK is 1 GHz). -/
def usec (n : Nat) : Nat := n * 1000
def msec (n : Nat) : Nat := n * 1000000

/-- Whether an interval has passed since a cycle at which something was last done, if it ever was. -/
def State.passed (s : State) (at_ : Option Nat) (d : Nat) : Bool :=
  match at_ with
  | none => true
  | some t => decide (t + d ≤ s.cycle)

/-- The I2C target of a steward, and the chain of a die, beside their registers. -/
def State.i2cS (s : State) (st : Nat) : I2cS := Tbl.get (fun _ => {}) s.i2cs st
def State.updI2c (s : State) (st : Nat) (f : I2cS → I2cS) : State := { s with i2cs := Tbl.set (fun _ => {}) s.i2cs st (f (s.i2cS st)) }
def State.pcc (s : State) (die : Nat) : PccS := Tbl.get (fun _ => {}) s.pccs die
def State.updPcc (s : State) (die : Nat) (f : PccS → PccS) : State := { s with pccs := Tbl.set (fun _ => {}) s.pccs die (f (s.pcc die)) }

/-! ## Event fabric producers (R473) -/

def State.efS (s : State) (die : Nat) : EfS := Tbl.get (fun _ => {}) s.efs die
def State.setEf (s : State) (die : Nat) (e : EfS) : State := { s with efs := Tbl.set (fun _ => {}) s.efs die e }

/-- Producer `ep` of a die pulses with a stamp; the channels take it up in CHANNEL_EVENT (R476). -/
def State.pulseAt (s : State) (die ep t : Nat) : State :=
  let e := s.efS die
  s.setEf die { e with pulses := e.pulses ++ [(ep, t, s.cycle)] }

/-- Producer `ep` of a die pulses with the device time of its cycle (R474). -/
def State.pulse (s : State) (die ep : Nat) : State := s.pulseAt die ep (s.stamp die)

/-! ## Error log (R605, R606) -/

/-- An event enters the error log of a die: it takes a new entry, raises COUNT of the last unread entry when CODE, BLOCK,
INSTANCE and REQ match, or is dropped and counted when the log is full. -/
def State.logErr (s : State) (die cls status block req inst addr : Nat) : State :=
  let b := sm die
  let w := s.fld (b + SM.EL_WR) 7 0
  let r := s.fld (b + SM.EL_RD) 7 0
  let last := b + SM.EL_ENTRY + 0x20 * ((w + 255) % 256)
  let w0 := wordOf (cls % 256 * 256 + status % 256 + block % 256 * 65536 + req % 256 * 16777216)
  if w ≠ r ∧ s.rd last = w0 ∧ s.fld (last + 4) 15 0 = inst % 65536 then
    s.wrFld (last + 4) 31 16 (Nat.min 0xFFFF (s.fld (last + 4) 31 16 + 1))
  else if (w + 1) % 256 = r then s.inc (b + SM.EL_LOST)
  else
    let e := b + SM.EL_ENTRY + 0x20 * w
    ((((((s.wr e w0).wrN (e + 4) (inst % 65536 + 65536)).wrN (e + 8) addr).wrN (e + 0xC) (addr / 0x100000000)).wrDt
      (e + 0x10) (dtPack (s.stamp die))).wrN (e + 0x1C) 0).wrFld (b + SM.EL_WR) 7 0 (w + 1)

/-- A core access ends with an error: the core takes an access fault and its steward's error log an entry (R449). Only
steward cores and barges raise one. -/
def State.accessFault (s : State) (req addr status : Nat) : State :=
  let s1 := s.respond (.fault status)
  if 1 ≤ req ∧ req ≤ 4 then s1.logErr 4 0 status 0x18 req (req - 1) addr
  else if 5 ≤ req ∧ req ≤ 8 then s1.logErr 5 0 status 0x18 req (req - 5) addr
  else s1

/-- The bus address of a register key as a steward sees it (R39). -/
def keyAddr (k : Nat) : Nat :=
  if k < 4 * 0x100000000 then 0x2000000000 + k else 0x1000000000 + k % 0x100000000

/-- A register command: the window of an absent die is unmapped (R39). -/
def State.onKey (s : State) (k req : Nat) (f : State → State) : State :=
  if s.present (k / 0x100000000) then f s else s.accessFault req (keyAddr k) 1

/-- A block's shadows were committed: they are no longer among those the dictionary engine has written since that block's last
commit (R618). Kinds: 0 TB (bit of TB.COMMIT), 1 LP, 2 SI, 3 PL, 4 AX, 5 EF, 6 carriers, 8 HU, 9 scheduler. -/
def State.undirty (s : State) (kind inst : Nat) : State :=
  { s with dict := { s.dict with dirty := s.dict.dirty.filter (fun e => e != (kind, inst)) } }

/-- A commit refused by a block enters the die's error log with CLASS 0x01 and the block's status (R605). -/
def State.logRefused (s : State) (die status block req inst : Nat) : State := s.logErr die 1 status block req inst 0

end Sys2Proof.Machine
end

