-- ==== Sys2Proof/Machine/Flags.lean ====
section
/-! DEFINITION. The FLAGS field of records (R399) as lines and frames give it, and the events-and-enables condition of interrupt sources
(R461). -/
namespace Sys2Proof.Machine
set_option Elab.async false

/-- The FLAGS of a record from line flags (bit 0 SHORT_LINE, bit 1 LONG_LINE, bit 2 CRC_ERR) (R403). -/
def lineFlags (f : Nat) : Nat := f % 4 * 4 + f / 4 % 2 * 32

/-- A record's FLAGS of a frame: TIME_UNSYNC and LATE_PARAMS (R403). -/
def frameFlags (unsync late : Bool) : Nat := b2n unsync * 512 + b2n late * 1024

/-- FLAGS of a record that a die stamps now: TIME_UNSYNC while TB.STATUS.UNSYNC is set (R218). -/
def State.unsyncFlag (s : State) (die : Nat) : Nat := if s.bit (tb die + TB.STATUS) 2 then 512 else 0

/-- Whether an event bit is set whose enable bit is set. -/
def State.evOn (s : State) (ev en : Nat) : Bool := s.rd ev &&& s.rd en != 0#32

end Sys2Proof.Machine
end

