-- ==== Sys2Proof/Machine/Records.lean ====
section
/-! DEFINITION. Records in the basin: cells (R340-R343), closing a record into its queue (R335-R339, R344), readiness
(R349), health records (R603), and the FRAME mode of the check-value units (R601, R602). -/
namespace Sys2Proof.Machine
set_option Elab.async false

/-- The scrubber registers of a die, relative to SCRUB_CTL (R610); SCRUB_CTL's offset in the die's registers. -/
def scrubK (die : Nat) : Nat := if die < 4 then sm die + SM.SCRUB_CTL else lpd die + LPD.SCRUB_CTL
def scrubCtl (die : Nat) : Nat := scrubK die % 0x100000000

def State.scrub (s : State) (die : Nat) : ScrubS := Tbl.get (fun _ => {}) s.scrubAt die
def State.setScrub (s : State) (die : Nat) (v : ScrubS) : State := { s with scrubAt := Tbl.set (fun _ => {}) s.scrubAt die v }
/-- A scrubber that EN starts begins a pass (R598, R610). -/
def State.scrubStart (s : State) (die : Nat) : State := s.setScrub die { began := s.cycle }

def State.queue (s : State) (die q : Nat) : QueueS := Tbl.get (fun _ => {}) s.queues (die * 4096 + q)
def State.setQueue (s : State) (die q : Nat) (v : QueueS) : State :=
  { s with queues := Tbl.set (fun _ => {}) s.queues (die * 4096 + q) v }
def State.prod (s : State) (die b : Nat) : ProdS := Tbl.get (fun _ => {}) s.prods (die * 2048 + b)
def State.setProd (s : State) (die b : Nat) (v : ProdS) : State :=
  { s with prods := Tbl.set (fun _ => {}) s.prods (die * 2048 + b) v }
def State.ckS (s : State) (die u : Nat) : CkS := Tbl.get (fun _ => {}) s.cks (die * 8 + u)
def State.setCk (s : State) (die u : Nat) (v : CkS) : State :=
  { s with cks := Tbl.set (fun _ => {}) s.cks (die * 8 + u) v }

/-- Keys of the registers of queue `q` and producer `b`. -/
abbrev qk (die q : Nat) : Nat := dk die + 0x20 * q
abbrev pk (die b : Nat) : Nat := dk die + 4 * b

/-- Q_CFG.CARRIER of a queue (R353, R363): 0 SA, 1 SB; the field reads 0 on the AZL128 (R6). -/
def State.qCarrier (s : State) (die q : Nat) : Nat := if s.part = .azl128 then 0 else s.fld (qk die q + BS.Q_CFG) 25 25

/-- Cells of a record of `n` bytes (R331). -/
def cellsOf (n : Nat) : Nat := ceilDiv n 256

/-- Undelivered cells of a queue. -/
def QueueS.undeliv (q : QueueS) : Nat := (q.und.map (fun r => cellsOf r.data.length)).sum

/-- Retained cells of a queue. -/
def QueueS.retained (q : QueueS) : Nat := (q.ret.map (fun r => cellsOf r.data.length)).sum

/-- Bytes still to be delivered (Q_AVAIL, R346, R361). -/
def QueueS.avail (q : QueueS) : Nat := if q.fault then 0 else (q.und.map (fun r => r.data.length)).sum - q.pos

/-- Bytes of the head record (Q_HEAD_LEN, R346, R361). -/
def QueueS.headLen (q : QueueS) : Nat :=
  if q.fault then 0 else match q.und with | [] => 0 | r :: _ => r.data.length

/-- Cells freed. -/
def State.freeCells (s : State) (die n : Nat) : State :=
  s.wrN (dk die + BS.BS_FREE) (s.rdN (dk die + BS.BS_FREE) + n)

/-- Cells taken from the pool: BS_FREE_MIN follows, and falling below BS_LOW_WATER sets POOL_LOW (R362, R363). -/
def State.takeCells (s : State) (die n : Nat) : State :=
  let f := s.rdN (dk die + BS.BS_FREE)
  let s1 := (s.wrN (dk die + BS.BS_FREE) (f - n)).wrN (dk die + BS.BS_FREE_MIN)
    (Nat.min (s.rdN (dk die + BS.BS_FREE_MIN)) (f - n))
  if f - n < s.rdN (dk die + BS.BS_LOW_WATER) ∧ s.rdN (dk die + BS.BS_LOW_WATER) ≤ f then
    (s1.setBit (dk die + BS.BS_EVENTS) 0).pulse die 744
  else s1

/-- How many cells the pool can grant a producer (R341); `res` says that it may use the reserve. -/
def State.grantable (s : State) (die : Nat) (res : Bool) : Nat :=
  let f := s.rdN (dk die + BS.BS_FREE)
  if res then f else f - s.rdN (dk die + BS.BS_RESERVE)

/-- P_CFG.RESERVE_OK of a producer. -/
def State.reserveOk (s : State) (die b : Nat) : Bool := s.bit (pk die b + BS.P_CFG) 13

/-- A POOL_EMPTY answer: counted, its event set and its producer pulsed. -/
def State.poolEmpty (s : State) (die : Nat) : State :=
  ((s.inc (dk die + BS.BS_ALLOC_FAIL)).setBit (dk die + BS.BS_EVENTS) 1).pulse die 745

/-- The queue of a record by R337. -/
def State.recQueue (s : State) (die b stream : Nat) : Nat :=
  if stream < 512 ∧ s.bit (pk die b + BS.P_CFG) 12 = false then s.fld (dk die + BS.BS_SQ + 4 * (stream % 128)) 11 0
  else s.fld (pk die b + BS.P_CFG) 11 0

/-- The SEQ a record takes next: its stream's counter, or the target queue's for STREAM 0xFFFF (R335). -/
def State.nextSeq (s : State) (die q stream : Nat) : Nat :=
  if stream < 512 then s.rdN (dk die + BS.BS_SEQ + 4 * (stream % 128)) else (s.queue die q).seq

/-- The SEQ counter of a record's stream or queue advances by 1. -/
def State.useSeq (s : State) (die q stream : Nat) : State :=
  if stream < 512 then s.incW (dk die + BS.BS_SEQ + 4 * (stream % 128))
  else let v := s.queue die q; s.setQueue die q { v with seq := (v.seq + 1) % 2 ^ 32 }

/-- The ORIGIN field of R335. -/
def State.origin (s : State) (die stream : Nat) : Nat :=
  s.fld (tb s.lead + TB.HIER_CTL) 3 0 * 1024 + die * 256 + (if stream < 512 then 128 + stream / 4 else 0)

/-- The 48 header bytes of R399. -/
def headerBytes (h : RecHdr) (len seq pcrc origin epoch : Nat) : List Byte :=
  leBytes h.typ 1 ++ leBytes 1 1 ++ leBytes h.flags 2 ++ leBytes h.stream 2 ++ leBytes h.source 2 ++ leBytes len 4 ++
  leBytes seq 4 ++ leBytes h.frame 4 ++ leBytes h.line 2 ++ leBytes h.nlines 2 ++ leBytes (dtPack h.time) 12 ++
  leBytes pcrc 4 ++ leBytes origin 2 ++ leBytes epoch 4 ++ zeros 2

/-- PCRC of a payload (R400). -/
def pcrcOf (payload : List Byte) : Nat := if payload.isEmpty then 0 else crc32c payload

/-- Saturating halves of Q_DROP: low ROLL, high TAIL (R362). -/
def State.countDrop (s : State) (die q roll tail : Nat) : State :=
  let k := dk die + BS.Q_DROP + 8 * q
  (s.wrFld k 15 0 (Nat.min 0xFFFF (s.fld k 15 0 + roll))).wrFld k 31 16 (Nat.min 0xFFFF (s.fld k 31 16 + tail))

/-- 2^TO_EXP µs (65,536 µs with the age rule off) in units of 2^-40 ns (R349). -/
def notifyPeriod (toExp : Nat) : Nat := (if toExp ≤ 16 then 2 ^ toExp else 65536) * 1000 * ns40

/-- The queue's readiness after its records changed; becoming ready pulses its notify line (R349, R361). -/
def State.checkReady (s : State) (die q : Nat) : State :=
  let v := s.queue die q
  let toExp := s.fld (qk die q + BS.Q_CFG) 31 27
  let thresh := Nat.max 1 (s.fld (qk die q + BS.Q_CFG) 11 0)
  let aged := match v.und with
    | [] => false
    | r :: _ => decide (toExp ≤ 16) && decide (r.entered + notifyPeriod toExp ≤ s.now die)
  let rdy := !v.fault && (decide (thresh ≤ v.undeliv) || aged)
  if rdy && !v.ready then
    (s.setQueue die q { v with ready := true, nextNotify := s.now die + notifyPeriod toExp }).pulse die
      (384 + s.fld (qk die q + BS.Q_CFG) 21 16)
  else s.setQueue die q { v with ready := rdy }

/-- How many of the oldest records must go so that `need` cells are freed. -/
def rollCount : List Rec → Nat → Nat
  | [], _ => 0
  | r :: rs, need => if need = 0 then 0 else 1 + rollCount rs (need - cellsOf r.data.length)

/-- Cells of the record of a queue that is in delivery. -/
def QueueS.begun (v : QueueS) : Nat := if v.pos = 0 then 0 else ((v.und.take 1).map (fun r => cellsOf r.data.length)).sum

/-- Whether a record of `n` cells enters a queue under Q_MAX and POLICY (R344). -/
def State.queueTakes (s : State) (die q n : Nat) : Bool :=
  let v := s.queue die q
  let qmax := s.rdN (qk die q + BS.Q_MAX)
  decide (v.undeliv + n ≤ qmax) || (!s.bit (qk die q + BS.Q_CFG) 24 && decide (v.begun + n ≤ qmax))

/-- A record linked to the tail of its queue under Q_MAX (R336, R344); a fence is exempt (R434). -/
def State.enqueue (s : State) (die q : Nat) (r : Rec) (fence : Bool) : State :=
  let v := s.queue die q
  let n := cellsOf r.data.length
  let qmax := s.rdN (qk die q + BS.Q_MAX)
  let r' := { r with entered := s.now die }
  if fence || decide (v.undeliv + n ≤ qmax) then (s.setQueue die q { v with und := v.und ++ [r'] }).checkReady die q
  else
    let held := if v.pos = 0 then [] else v.und.take 1
    let rest := if v.pos = 0 then v.und else v.und.drop 1
    if s.queueTakes die q n then
      let k := rollCount rest (v.undeliv + n - qmax)
      let freed := ((rest.take k).map (fun r => cellsOf r.data.length)).sum
      (((s.setQueue die q { v with und := held ++ rest.drop k ++ [r'] }).freeCells die freed).countDrop die q k 0).checkReady
        die q
    else (s.freeCells die n).countDrop die q 0 1

/-- Free cell numbers for a record (which cells the allocator grants is open, R330). -/
def State.cellNums (s : State) (n : Nat) : List Nat := (List.range n).map (fun i => s.freeNat i % 262144)

/-- Whether the pool has the cells that a record of `n` cells still needs (R341); `held` are granted already. -/
def State.cellsFor (s : State) (die n : Nat) (res : Bool) (held : List Nat) : Bool := decide (n - held.length ≤ s.grantable die res)

/-- One copy of a record built for a queue: the cells held already, and those still needed, requested one in each cycle (R340, R341, log
entry 99); what was written into them through the direct window is gone. Where one is refused the record is dropped (R343). The copy's SEQ is
given. -/
def State.buildCopy (s : State) (die q : Nat) (res fence : Bool) (held : List Nat) (data : List Byte) : State × Bool :=
  let n := cellsOf data.length
  let need := n - held.length
  if s.cellsFor die n (res || fence) held then
    let cells := held ++ s.cellNums need
    let s1 := (s.takeCells die need).skipFree need
    let s2 : State := { s1 with cellMem := s1.cellMem.filter (fun e => !(cells.map (fun c => die * 0x1000000 + c)).contains (e.1 / 256)) }
    ((s2.enqueue die q { data := data, cells := cells } fence), true)
  else
    let g := s.grantable die (res || fence)
    ((((s.takeCells die g).freeCells die (g + held.length)).poolEmpty die).inc (dk die + BS.BS_REC_DROP), false)

/-- P_CFG.MIRROR_EN of a producer. -/
def State.mirrorEn (s : State) (die b : Nat) : Bool := s.bit (pk die b + BS.P_CFG) 28

/-- The copy of a closed record of a producer, whose state was `p`: linked to MIRROR_Q while MIRROR_EN is set, with the cells it has and those
it still needs; its drop consumes no SEQ (R339). -/
def State.mirrorCopy (s : State) (die b : Nat) (p : ProdS) (data : List Byte) : State :=
  if p.copyDrop then s
  else if s.mirrorEn die b then
    (s.buildCopy die (s.fld (pk die b + BS.P_CFG) 27 16) (s.reserveOk die b) false p.copy data).1
  else s.freeCells die p.copy.length

/-! ### Cells of open records (R334, R340-R343) -/

/-- POOL_EMPTY_DROP (R343): the open record's cells are released, its SEQ is consumed (a push record takes none), and the
rest of it is discarded, but for the bytes of a push record that is copied (R339). -/
def State.dropOpen (s : State) (die b stream : Nat) : State :=
  let p := s.prod die b
  let q := s.recQueue die b stream
  let seq := s.nextSeq die q stream
  let s1 := ((s.poolEmpty die).freeCells die p.cells.length).inc (dk die + BS.BS_REC_DROP)
  let s2 := if 1286 ≤ b then s1 else s1.useSeq die q stream
  s2.setProd die b { p with
    cells := []
    seq := seq
    bytes := if s.mirrorEn die b then p.bytes else []
    dropping := true }

/-- One cell for a producer's open record. -/
def State.grantCell (s : State) (die b : Nat) : State :=
  let p := s.prod die b
  ((s.takeCells die 1).skipFree 1).setProd die b { p with cells := p.cells ++ [s.freeNat 0 % 262144], isOpen := true }

/-- How many requests of producers in rising order find a cell, at no limit per cycle. -/
def State.cellsFound (s : State) (die : Nat) (bs : List Nat) : Nat :=
  bs.foldl (fun t b => if t < s.grantable die (s.reserveOk die b) then t + 1 else t) 0

/-- One cycle of the allocator (R340-R343) with the requests of the producers `bs`, in rising order: at most 4 cells. With enough cells
free a rotating pointer chooses who is served and the others retry; else the lowest numbers are served and those that find no cell see
POOL_EMPTY. `str` is the stream of a producer's record. -/
def State.allocCycle (s : State) (die : Nat) (bs : List Nat) (str : Nat → Nat) : State :=
  if s.cellsFound die bs = bs.length then
    if bs.length ≤ 4 then forEach bs s (fun s b => s.grantCell die b)
    else
      let ptr := Tbl.get (fun _ => 0) s.cellPtr die
      let served := (bs.filter (fun b => decide (ptr ≤ b)) ++ bs.filter (fun b => decide (b < ptr))).take 4
      let s1 := forEach served s (fun s b => s.grantCell die b)
      { s1 with cellPtr := Tbl.set (fun _ => 0) s1.cellPtr die (served.getLastD 0 + 1) }
  else
    (forEach bs (s, 0, 0) (fun (a : State × Nat × Nat) b =>
      if a.2.2 < a.1.grantable die (a.1.reserveOk die b) then
        if a.2.1 < 4 then (a.1.grantCell die b, a.2.1 + 1, a.2.2) else (a.1, a.2.1, a.2.2 + 1)
      else (a.1.dropOpen die b (str b), a.2))).1

/-- One cell for the copy of a producer's open record, or the copy dropped (R339, R343). -/
def State.growCopy (s : State) (die b : Nat) : State :=
  let p := s.prod die b
  if p.copyDrop then s
  else if 0 < s.grantable die (s.reserveOk die b) then
    ((s.takeCells die 1).skipFree 1).setProd die b { p with copy := p.copy ++ [s.freeNat 0 % 262144] }
  else (((s.poolEmpty die).freeCells die p.copy.length).inc (dk die + BS.BS_REC_DROP)).setProd die b { p with copy := [], copyDrop := true }

/-- The open record of a producer has reached `n` bytes, its header among them (R334): a cell is requested for each boundary crossed, in a
cycle of its own (log entry 99), and with MIRROR_EN one for the copy beside it (R339). -/
def State.growRec (s : State) (die b stream n : Nat) : State :=
  let p := s.prod die b
  forEach (List.range (cellsOf n)) (s.setProd die b { p with isOpen := true, stream := stream }) (fun s i =>
    let s1 := if (s.prod die b).dropping || decide (i < p.cells.length) then s else s.allocCycle die [b] (fun _ => stream)
    if s1.mirrorEn die b && decide (p.copy.length ≤ i) then s1.growCopy die b else s1)

/-- The bytes of a record as it stands in a queue: the fields of R335 filled. -/
def State.recData (s : State) (die : Nat) (h : RecHdr) (payload : List Byte) (seq : Nat) : List Byte :=
  headerBytes h payload.length seq (pcrcOf payload) (s.origin die h.stream) (s.rdN (dk die + BS.BS_EPOCH)) ++ payload

/-- A producer closes a record: the basin fills SEQ, PCRC, ORIGIN and EPOCH, links the record to the queue of R337 and, with
MIRROR_EN, builds a copy for MIRROR_Q (R335, R337, R339). A record that meets POOL_EMPTY consumes its SEQ too (R343). -/
def State.closeRaw (s : State) (die b : Nat) (h : RecHdr) (payload : List Byte) : State :=
  let p := s.prod die b
  if p.dropping then (s.setProd die b {}).mirrorCopy die b p (s.recData die h payload p.seq)
  else
    let q := s.recQueue die b h.stream
    let data := s.recData die h payload (s.nextSeq die q h.stream)
    let s1 := ((s.setProd die b {}).useSeq die q h.stream)
    (s1.buildCopy die q (s.reserveOk die b) false p.cells data).1.mirrorCopy die b p data

/-- Whether a record of `len` payload bytes that a producer closes now enters its queue: not dropped by R343 or R344. -/
def State.recTaken (s : State) (die b stream len : Nat) : Bool :=
  let p := s.prod die b
  !p.dropping && s.cellsFor die (cellsOf (48 + len)) (s.reserveOk die b) p.cells &&
    s.queueTakes die (s.recQueue die b stream) (cellsOf (48 + len))

/-- A push record linked to queue `q`: it takes its SEQ at a close that succeeds (R357), and with `mir` is copied by P_CFG of that
producer, whose state was as given (R339); a fence goes above Q_MAX, may use the reserve and is not copied (R434). -/
def State.closePush (s : State) (die q : Nat) (mir : Option (Nat × ProdS)) (res fence : Bool) (held : List Nat) (data : List Byte) (stream : Nat) :
    State :=
  let (s1, ok) := s.buildCopy die q res fence held data
  let s2 := if ok then s1.useSeq die q stream else s1
  match mir with
  | some b => s2.mirrorCopy die b.1 b.2 data
  | none => s2

/-! ## Health records (R603, R604) -/

/-- The module state of a concentrator's module `m` (0 U_A, 1 U_B). -/
def State.modState (s : State) (die m : Nat) : Nat :=
  if s.present die && s.present (4 + m) then s.fld (br die + 0x1000 * m + BR.MOD_STAT) 2 0 else 0

/-- The state of module `m` of a steward; an end that leads to an absent die is ABSENT (R23). -/
def State.stModState (s : State) (st m : Nat) : Nat :=
  if s.present st && s.present (if m < 4 then m else partner st) then s.fld (brs st m + BRS.MOD_STAT) 2 0 else 0

/-- The payload of a HEALTH record. -/
def healthPayload (reporter code sev block inst value aux lost t16 : Nat) : List Byte :=
  leBytes 1 1 ++ leBytes reporter 1 ++ leBytes code 2 ++ leBytes sev 1 ++ leBytes block 1 ++ leBytes inst 2 ++
  leBytes value 8 ++ leBytes aux 8 ++ leBytes (dtPack t16) 12 ++ leBytes lost 2 ++ zeros 26

/-- A reporter's number (R603) from its die. -/
def reporterOf (die : Nat) : Nat := if die < 4 then die + 2 else die - 4

/-- A health record lost: counted until the reporter's next record (R603). -/
def State.setHealthLost (s : State) (die n : Nat) : State :=
  { s with healthLost := Tbl.set (fun _ => 0) s.healthLost die (Nat.min 0xFFFF n) }

/-- A HEALTH record by the reporter of a die: on a concentrator through producer 1,285; a steward's is pushed into Q0133 of
the lowest-numbered present die whose module to it is ACTIVE, and is lost where there is none. A FAULT record also sends
one EMCY on the CAN port of the lead (R628). -/
def State.health (s : State) (die code sev block inst value aux : Nat) : State :=
  let lost := Tbl.get (fun _ => 0) s.healthLost die
  let t := s.stamp die
  let h : RecHdr := { typ := 8, flags := s.unsyncFlag die, source := 0x180 + reporterOf die, time := t }
  let pl := healthPayload (reporterOf die) code sev block inst value aux lost t
  let s1 := if sev = 2 then
    { s.emit .emcy s.lead [code, value, reporterOf die] with dict := { s.dict with faultAt := some s.cycle } } else s
  if die < 4 then
    if s1.grantable die (s1.reserveOk die 1285) = 0 then (s1.closeRaw die 1285 h pl).setHealthLost die (lost + 1)
    else (s1.closeRaw die 1285 h pl).setHealthLost die 0
  else
    match s1.concs.find? (fun c => s1.stModState die c == 3) with
    | some c =>
      let b := 1286 + modTo die
      let n := if s1.grantable c (s1.reserveOk c b) = 0 then lost + 1 else 0
      (s1.closePush c 133 (some (b, {})) (s1.reserveOk c b) false [] (s1.recData c h pl (s1.nextSeq c 133 0xFFFF)) 0xFFFF).setHealthLost die n
    | none => s1.setHealthLost die (lost + 1)

/-! ## Check values (R600-R602) -/

/-- A CRC-16 register with polynomial 0x1021, not reflected, over one byte. -/
def crc16bits : Nat → Nat → Nat
  | 0, c => c
  | n + 1, c => crc16bits n ((if 0x8000 ≤ c then (c * 2) ^^^ 0x11021 else c * 2) % 65536)

def crc16ccitt (l : List Byte) (c : Nat) : Nat := l.foldl (fun c b => crc16bits 8 (c ^^^ (b.toNat * 256))) c

/-- The initial value of a polynomial code of R600. -/
def ckInit (poly : Nat) : Nat := if poly = 2 then 0xFFFF else 0xFFFFFFFF

/-- A check value run over bytes. -/
def ckRun (poly : Nat) (l : List Byte) (c : Nat) : Nat :=
  if poly = 0 then crcBytes 0x82F63B78 l c else if poly = 1 then crcBytes 0xEDB88320 l c else crc16ccitt l c

/-- The final XOR of a polynomial code of R600. -/
def ckFinal (poly c : Nat) : Nat := if poly = 2 then c else c ^^^ 0xFFFFFFFF

/-- A computation ends: RESULT is valid, DONE is set, and with COMPARE a difference sets MISMATCH, counts, pulses the
producer and writes a HEALTH record (R601, R602). In FRAME mode with REPEAT the unit waits for the next frame. -/
def State.ckFinish (s : State) (die u crc : Nat) : State :=
  let k := ck die u
  let poly := s.fld (k + CK.CK_CTL) 1 0
  let res := ckFinal poly crc
  let again := s.bit (k + CK.CK_CTL) 4 && s.bit (k + CK.CK_CTL) 2
  let s1 := ((s.wrN (k + CK.CK_RESULT) res).setBit (k + CK.CK_EVENTS) 0)
  let s2 := if again then s1.setCk die u { phase := 1 } else (s1.setCk die u {}).clrBit (k + CK.CK_STAT) 0
  if s.bit (k + CK.CK_CTL) 3 ∧ res ≠ s.rdN (k + CK.CK_EXPECT) then
    let s3 := (s2.setBit (k + CK.CK_EVENTS) 1).incW (k + CK.CK_MISMATCH)
    let s4 := if die < 4 then s3.pulse die (616 + u) else s3
    s4.health die 0x40 1 0x08 u res (s.rdN (k + CK.CK_EXPECT))
  else s2

/-- The local pipeline that a stream is bound to (STATE.PIPE_ACT, R226). -/
def State.pipeOf (s : State) (stream : Nat) : Nat := s.fld (si stream + SI.STATE) 14 8

/-- What one FRAME-mode unit does with a record that closes (R601): FRAME_OPEN of its pipeline's stream starts it, payloads
of its tap or output are taken, FRAME_CLOSE ends it. -/
def State.ckSee (s : State) (die b : Nat) (h : RecHdr) (payload : List Byte) (u : Nat) : State :=
  let k := ck die u
  let c := s.ckS die u
  let pipe := s.fld (k + CK.CK_CTL) 14 8
  let sel := s.fld (k + CK.CK_CTL) 19 16
  let poly := s.fld (k + CK.CK_CTL) 1 0
  let mine := decide (h.stream < 512) && s.pipeOf h.stream == pipe
  if c.phase = 1 ∧ h.typ = 1 ∧ mine = true then s.setCk die u { phase := 2, crc := ckInit poly }
  else if c.phase = 2 ∧ b = 128 + 9 * pipe + (if sel < 4 then sel else sel + 1) then
    s.setCk die u { c with crc := ckRun poly payload c.crc }
  else if c.phase = 2 ∧ h.typ = 3 ∧ mine = true then s.ckFinish die u c.crc
  else s

/-- A producer closes a record (R335), and the FRAME-mode check-value units of the die see it (R601). -/
def State.closeRec (s : State) (die b : Nat) (h : RecHdr) (payload : List Byte) : State :=
  forEach (List.range 8) (s.closeRaw die b h payload) (fun s u => s.ckSee die b h payload u)

end Sys2Proof.Machine
end

