-- ==== Sys2Proof/Machine/Rs.lean ====
section
/-! DEFINITION. The codes of the Jezon Link: RS(128,120) over GF(2^8) (R142), the CSI-2 header code and payload CRC
(R151, R152, R156), and the CRC-16 of training sets and back-channel messages (R108, R110, R162). -/
namespace Sys2Proof.Machine
set_option Elab.async false

/-- Multiplication in GF(2^8) with x^8 + x^4 + x^3 + x^2 + 1 (R142), over the low `n` bits of `b`. -/
def gmulN : Nat → Nat → Nat → Nat → Nat
  | 0, _, _, acc => acc
  | n + 1, a, b, acc =>
    gmulN n (if 128 ≤ a then (a * 2) ^^^ 0x11D else a * 2) (b / 2) (if b % 2 = 1 then acc ^^^ a else acc)

def gmul (a b : Nat) : Nat := gmulN 8 a b 0

/-- a^n in GF(2^8). -/
def gpow (a : Nat) : Nat → Nat
  | 0 => 1
  | n + 1 => gmul a (gpow a n)

/-- The inverse of a non-zero element: a^254. -/
def ginv (a : Nat) : Nat := gpow a 254

/-- A polynomial, coefficient of lowest degree first, evaluated at x. -/
def geval (p : List Nat) (x : Nat) : Nat := p.foldr (fun c acc => gmul acc x ^^^ c) 0

/-- Sum of two polynomials. -/
def gadd : List Nat → List Nat → List Nat
  | [], q => q
  | p, [] => p
  | a :: p, b :: q => (a ^^^ b) :: gadd p q

/-- A polynomial times a constant. -/
def gscale (c : Nat) (p : List Nat) : List Nat := p.map (gmul c)

/-- Product of two polynomials. -/
def gprod : List Nat → List Nat → List Nat
  | [], _ => []
  | a :: p, q => gadd (gscale a q) (0 :: gprod p q)

/-- The 8 syndromes of a block: byte 0 is the coefficient of highest degree, roots α^0 to α^7 (R142). -/
def syndromes (block : List Nat) : List Nat :=
  (List.range 8).map (fun i => block.foldl (fun acc b => gmul acc (gpow 2 i) ^^^ b) 0)

/-- Berlekamp-Massey over the syndromes: the error locator, lowest degree first. `lam`, `prev` the present and previous
locators, `l` the register length, `m` the distance, `b` the previous discrepancy. -/
def berlekamp (syn : List Nat) : Nat → Nat → List Nat → List Nat → Nat → Nat → Nat → List Nat
  | 0, _, lam, _, _, _, _ => lam
  | k + 1, n, lam, prev, l, m, b =>
    let d := ((List.range (l + 1)).map (fun i => gmul (lam.getD i 0) (syn.getD (n - i) 0))).foldl (· ^^^ ·) 0
    if d = 0 then berlekamp syn k (n + 1) lam prev l (m + 1) b
    else
      let corr := gscale (gmul d (ginv b)) (List.replicate m 0 ++ prev)
      if 2 * l ≤ n then berlekamp syn k (n + 1) (gadd lam corr) lam (n + 1 - l) 1 d
      else berlekamp syn k (n + 1) (gadd lam corr) prev l (m + 1) b

/-- Degrees (0 the last byte, 127 the first) at which the locator has a root α^(-degree). -/
def errorDegrees (lam : List Nat) : List Nat :=
  (List.range 128).filter (fun e => geval lam (gpow 2 (255 - e)) == 0)

/-- The formal derivative of a polynomial in characteristic 2. -/
def gderiv (p : List Nat) : List Nat :=
  (List.range (p.length - 1)).map (fun i => if i % 2 = 0 then p.getD (i + 1) 0 else 0)

/-- The error value at a degree (Forney, first root α^0). -/
def errorValue (syn lam : List Nat) (e : Nat) : Nat :=
  let omega := (gprod syn lam).take 8
  let xinv := gpow 2 (255 - e)
  gmul (gmul (gpow 2 e) (geval omega xinv)) (ginv (geval (gderiv lam) xinv))

/-- An RS(128,120) block decoded (R142): the corrected bytes and how many were changed, or none where more than 4 bytes are
in error as the decoder sees it. The result is checked to be a codeword. -/
def rsDecode (block : List Byte) : Option (List Byte × Nat) :=
  let b := block.map (fun x => x.toNat)
  let syn := syndromes b
  if block.length ≠ 128 then none
  else if syn.all (· == 0) then some (block, 0)
  else
    let lam := berlekamp syn 8 0 [1] [1] 0 1 1
    let degs := errorDegrees lam
    let fixed := degs.foldl (fun acc e => acc.set (127 - e) (acc.getD (127 - e) 0 ^^^ errorValue syn lam e)) b
    if degs.length ≤ 4 ∧ (syndromes fixed).all (· == 0) then some (fixed.map (BitVec.ofNat 8), degs.length) else none

/-! ## CSI-2 (R151, R152, R156; log entry 13) -/

/-- The 26 columns of the CSI-2 header code: data identifier, word count, VCX. -/
def eccCols : List Nat :=
  [0x07, 0x0B, 0x0D, 0x0E, 0x13, 0x15, 0x16, 0x19, 0x1A, 0x1C, 0x23, 0x25, 0x26, 0x29, 0x2A, 0x2C, 0x31, 0x32, 0x34, 0x38,
   0x1F, 0x2F, 0x37, 0x3B, 0x3D, 0x3E]

/-- The 26 code bits of a header: DI and WC in bits 23:0, VCX in bits 25:24. -/
def hdrCodeBits (h : Nat) : Nat := h % 2 ^ 24 + nbits h 31 30 * 2 ^ 24

/-- The 6 parity bits of a header. -/
def eccOf (d : Nat) : Nat :=
  ((List.range 26).map (fun i => if d.testBit i then eccCols.getD i 0 else 0)).foldl (· ^^^ ·) 0

/-- A 32-bit header checked: corrected DI/WC/VCX bits and whether a bit was corrected; none where uncorrectable (R152). -/
def hdrCheck (h : Nat) : Option (Nat × Bool) :=
  let d := hdrCodeBits h
  let syn := eccOf d ^^^ nbits h 29 24
  if syn = 0 then some (d, false)
  else match (List.range 26).find? (fun i => eccCols.getD i 0 == syn) with
    | some i => some (d ^^^ 2 ^ i, true)
    | none => if [1, 2, 4, 8, 16, 32].contains syn then some (d, true) else none

/-- The CSI-2 payload CRC: x^16 + x^12 + x^5 + 1, reflected, initial value 0xFFFF. -/
def csiCrc (l : List Byte) : Nat := crcBytes 0x8408 l 0xFFFF

/-! ## CRC-16 of R108 -/

/-- One byte through the CRC-16 with polynomial 0x1021, most significant bit first. -/
def crc1021 : Nat → Nat → Nat
  | 0, c => c
  | n + 1, c => crc1021 n ((if 0x8000 ≤ c then (c * 2) ^^^ 0x11021 else c * 2) % 65536)

/-- The CRC-16 of R108 (initial value 0xFFFF, no final inversion). -/
def bchCrc (l : List Byte) : Nat := l.foldl (fun c b => crc1021 8 (c ^^^ (b.toNat * 256))) 0xFFFF

/-! ## The encoder (R142), for the blocks that an up-role port sends -/

/-- The generator without its leading coefficient, highest degree first: the product of (x - alpha^i), i from 0 to 7. -/
def rsGen : List Nat := ((List.range 8).foldl (fun g i => gprod [gpow 2 i, 1] g) [1]).dropLast.reverse

/-- One message byte through the parity register, highest degree first. -/
def rsStep (g reg : List Nat) (m : Nat) : List Nat :=
  let f := m ^^^ reg.headD 0
  gadd (reg.drop 1 ++ [0]) (gscale f g)

/-- A block: 120 message bytes and their 8 parity bytes. -/
def rsEncode (msg : List Byte) : List Byte :=
  let m := padTo 120 (msg.take 120)
  let g := rsGen
  m ++ ((m.foldl (fun reg b => rsStep g reg b.toNat) (List.replicate 8 0)).map (BitVec.ofNat 8))

end Sys2Proof.Machine
end

