-- ==== Sys2Proof/Machine/Wire.lean ====
section
/-! DEFINITION. What the two channels of the Jezon Link carry on the wire: the symbols of 64-bit words, their levels and precoding
(R95, R96, R143), PRBS13 and training frames (R106, R107), the transmit FFE (R111), 8b/10b code groups, training sets and messages
(R108, R162, R163); and of the flits between dies (R438, R439, R441). A level index is 0 to 3, for the levels -3, -1, +1, +3. -/
namespace Sys2Proof.Machine
set_option Elab.async false

/-! ## Symbols and levels (R95, R143) -/

/-- The level index of a bit pair (first bit times 2 plus second) and, since the map is its own inverse, the bit pair of a level index:
00 - 0, 01 - 1, 11 - 2, 10 - 3. -/
def grayIdx (v : Nat) : Nat := v ^^^ (v / 2)

/-- The level of an index: -3, -1, +1, +3. -/
def levelOf (d : Nat) : Int := 2 * (d : Int) - 3

/-- The 32 level indices of a 64-bit word: symbol `i` carries bits 2i+1 and 2i, and symbol 0 leaves first. -/
def wordSymbols (w : Nat) : List Nat := (List.range 32).map (fun i => grayIdx (w / 4 ^ i % 4))

/-- The 64-bit word that 32 level indices carry. -/
def symbolsWord : List Nat → Nat
  | [] => 0
  | d :: t => grayIdx (d % 4) + 4 * symbolsWord t

/-- The 512 level indices of a block: byte `j` lies in word `j / 8` at bits 8 (j mod 8) + 7 : 8 (j mod 8), words in order (R143). -/
def blockSymbols (block : List Byte) : List Nat := (List.range 16).flatMap (fun i => wordSymbols (leAt block (8 * i) 8))

/-- The 128 bytes that 512 level indices carry. -/
def blockBytes (d : List Nat) : List Byte :=
  (List.range 16).flatMap (fun i => leBytes (symbolsWord ((d.drop (32 * i)).take 32)) 8)

/-! ## Precoding (R96) -/

/-- Transmitted level indices for data indices after the transmitted index `prev`. -/
def precode (on : Bool) : Nat → List Nat → List Nat
  | _, [] => []
  | prev, d :: ds => let t := if on then (d + 4 - prev) % 4 else d; t :: precode on t ds

/-- Data indices recovered from decided indices; `prev` is the decision before them. -/
def unprecode (on : Bool) : Nat → List Nat → List Nat
  | _, [] => []
  | prev, t :: ts => (if on then (t + prev) % 4 else t) :: unprecode on t ts

/-! ## PRBS13 and training frames (R106, R107) -/

/-- The 13-bit PRBS13 register after one step: x^13 + x^12 + x^2 + x + 1 (R107). The spec fixes neither the shift direction nor the tap that
is output; the register shifts up and its bit 12 is the output (log entry 91). -/
def prbs13 (r : Nat) : Nat :=
  r * 2 % 8192 + (r / 4096 + r / 2048 + r / 2 + r) % 2

/-- The level index of the two output bits from a register, the first bit of the pair first. -/
def prbsIdx (r : Nat) : Nat := grayIdx (2 * (r / 4096) + prbs13 r / 4096)

/-- `n` PRBS13 symbols from a register. -/
def prbsSymbols : Nat → Nat → List Nat
  | 0, _ => []
  | n + 1, r => prbsIdx r :: prbsSymbols n (prbs13 (prbs13 r))

/-- The places of the symbols that differ from PRBS13, through the decoder of R96 where `on`, after the decision `prev`; `i` numbers the
first. -/
def prbsErrors (on : Bool) : List Nat → Nat → Nat → Nat → List Nat
  | [], _, _, _ => []
  | t :: ts, prev, r, i =>
    if (if on then (t + prev) % 4 else t) = prbsIdx r then prbsErrors on ts t (prbs13 (prbs13 r)) (i + 1)
    else i :: prbsErrors on ts t (prbs13 (prbs13 r)) (i + 1)

/-- PRBS13 symbols of a training frame. -/
def prbsLen : Nat := 8064

/-- The frame marker: 16 x +3, 16 x -3, 16 x +3, 16 x -3. -/
def frameMarker : List Nat :=
  List.replicate 16 3 ++ List.replicate 16 0 ++ List.replicate 16 3 ++ List.replicate 16 0

/-- The 64 symbols of a status field, bit 0 first: 0 as -3, 1 as +3. -/
def statusSymbols (st : Nat) : List Nat := (List.range 64).map (fun i => if st.testBit i then 3 else 0)

/-- The transmitted level indices of a training frame; `on` where its PRBS13 segment is precoded. -/
def trainFrame (on : Bool) (st : Nat) : List Nat :=
  frameMarker ++ statusSymbols st ++ precode on (if st.testBit 63 then 3 else 0) (prbsSymbols prbsLen 0x1FFF)

/-- Bits of a status field: a symbol decided as neither -3 nor +3 is no bit (log entry 92). -/
def statusBits : List Nat → Option Nat
  | [] => some 0
  | d :: t => match statusBits t with
    | some n => if d = 0 then some (2 * n) else if d = 3 then some (2 * n + 1) else none
    | none => none

/-- Whether a 64-bit status field is valid: its CRC over bits 47:0, reserved bits and codes (R109, R110). -/
def statusValid (st : Nat) : Bool :=
  bchCrc (leBytes st 6) == nbits st 63 48 && nbits st 47 37 == 0 && nbits st 5 4 != 3 && nbits st 7 6 != 3 && nbits st 9 8 != 3

/-- The status field of a received training frame whose marker and status field are valid. -/
def frameStatus (d : List Nat) : Option Nat :=
  if d.take 64 = frameMarker then (statusBits ((d.drop 64).take 64)).filter statusValid else none

/-- `n` symbols of the wake pattern: +3, +3, -3, -3, repeated. -/
def wakePattern (n : Nat) : List Nat := (List.range n).map (fun i => if i % 4 < 2 then 3 else 0)

/-! ## Transmit FFE (R111) -/

/-- The output, in 1/32 of peak swing by R111's formula, for level indices that follow `x1` and `x0`: the value for `x0` once its
successor is known, and so on; a value leaves one symbol after its own. -/
def ffeOut (pre main post : Nat) : Int → Int → List Nat → List Int
  | _, _, [] => []
  | x1, x0, d :: t => (-(pre : Int) * levelOf d + main * x0 - post * x1) :: ffeOut pre main post x0 (levelOf d) t

/-! ## 8b/10b (R108; the code tables of IEEE 802.3 Clause 36, log entry 93)

A character is its byte, or 256 plus its byte for a K character. A code group is a 10-bit number with bit a the most significant. -/

def charK28_5 : Nat := 256 + 0xBC
def charK28_1 : Nat := 256 + 0x3C
def charK27_7 : Nat := 256 + 0xFB
def charK29_7 : Nat := 256 + 0xFD
def charD16_2 : Nat := 0x50

/-- The 5b/6b code abcdei of D.0 to D.31 at negative running disparity. -/
def code6 : List Nat :=
  [0b100111, 0b011101, 0b101101, 0b110001, 0b110101, 0b101001, 0b011001, 0b111000,
   0b111001, 0b100101, 0b010101, 0b110100, 0b001101, 0b101100, 0b011100, 0b010111,
   0b011011, 0b100011, 0b010011, 0b110010, 0b001011, 0b101010, 0b011010, 0b111010,
   0b110011, 0b100110, 0b010110, 0b110110, 0b001110, 0b101110, 0b011110, 0b101011]

/-- The 3b/4b code fghj of D.x.0 to D.x.6 and D.x.P7, and of K.28.0 to K.28.7, at negative running disparity. -/
def code4 : List Nat := [0b1011, 0b1001, 0b0101, 0b1100, 0b1101, 0b1010, 0b0110, 0b1110]
def code4K : List Nat := [0b1011, 0b0110, 0b1010, 0b1100, 0b1101, 0b0101, 0b1001, 0b0111]

/-- Ones among the low `n` bits. -/
def onesOf : Nat → Nat → Nat
  | 0, _ => 0
  | n + 1, v => v % 2 + onesOf n (v / 2)

/-- The 6-bit part at a running disparity (true: positive): unbalanced codes, D.7 and K.28 are complemented. -/
def six (pos k28 : Bool) (x : Nat) : Nat :=
  let v := if k28 then 0b001111 else code6.getD x 0
  if pos && (onesOf 6 v != 3 || x == 7) then 63 - v else v

/-- The 4-bit part at a running disparity: K characters are always complemented, data where unbalanced and for D.x.3; D.x.A7 replaces
D.x.P7 where it would make five equal bits. -/
def four (pos k : Bool) (x y : Nat) : Nat :=
  if k then (if pos then 15 - code4K.getD y 0 else code4K.getD y 0)
  else if y = 7 ∧ pos = false ∧ [17, 18, 20].contains x then 0b0111
  else if y = 7 ∧ pos = true ∧ [11, 13, 14].contains x then 0b1000
  else
    let v := code4.getD y 0
    if pos && (onesOf 4 v != 2 || y == 3) then 15 - v else v

/-- A character coded at a running disparity, and the disparity after it. -/
def encode10 (pos : Bool) (c : Nat) : Nat × Bool :=
  let k := decide (256 ≤ c)
  let x := c % 32
  let y := c / 32 % 8
  let a := six pos (k && x == 28) x
  let p1 := pos != (onesOf 6 a != 3)
  let b := four p1 k x y
  (a * 16 + b, p1 != (onesOf 4 b != 2))

/-- Characters coded in order from a running disparity. -/
def encodeAll (pos : Bool) : List Nat → List Nat × Bool
  | [] => ([], pos)
  | c :: t => let r := encode10 pos c; let q := encodeAll r.2 t; (r.1 :: q.1, q.2)

/-- The character of a code group, at either running disparity; none for no code group. -/
def decode10 (g : Nat) : Option Nat :=
  let a := g / 16
  let hit := fun (k : Bool) (x y : Nat) => (encode10 false (b2n k * 256 + y * 32 + x)).1 == g || (encode10 true (b2n k * 256 + y * 32 + x)).1 == g
  if a = 0b001111 ∨ a = 0b110000 then ((List.range 8).find? (fun y => hit true 28 y)).map (fun y => 256 + y * 32 + 28)
  else match (List.range 32).find? (fun x => six false false x == a || six true false x == a) with
    | none => none
    | some x => match (List.range 8).find? (fun y => hit false x y) with
      | some y => some (y * 32 + x)
      | none => if [23, 27, 29, 30].contains x && hit true x 7 then some (256 + 0xE0 + x) else none

/-! ## Training sets (R108, R109) -/

/-- The 8 characters of a training set. -/
def setChars (st mode req seq : Nat) : List Nat :=
  let b := [st % 256, mode % 256, req % 256, seq % 256]
  let c := bchCrc (b.map (BitVec.ofNat 8))
  [charK28_5, charK28_1] ++ b ++ [c % 256, c / 256]

/-- STATE, MODE, REQ and SEQ of received code groups that are a valid training set: a failing CRC or a reserved bit discards it, and
so does the reserved code 0b11 of a tap field (log entry 94). -/
def setOf (groups : List Nat) : Option (Nat × Nat × Nat × Nat) :=
  match groups.map decode10 with
  | [some k0, some k1, some st, some mode, some req, some seq, some c0, some c1] =>
    if k0 = charK28_5 ∧ k1 = charK28_1 ∧ st < 16 ∧ mode < 16 ∧ req < 256 ∧ seq < 256 ∧ c0 < 256 ∧ c1 < 256 ∧
      bchCrc ([st, mode, req, seq].map (BitVec.ofNat 8)) = c0 + 256 * c1 ∧
      nbits req 1 0 ≠ 3 ∧ nbits req 3 2 ≠ 3 ∧ nbits req 5 4 ≠ 3 then some (st, mode, req, seq) else none
  | _ => none

/-! ## Messages (R162, R163) -/

/-- The characters of a message: K27.7, TYPE, LEN, payload, CRC-16 with the low byte first, K29.7. -/
def msgChars (typ : Nat) (payload : List Byte) : List Nat :=
  let b := BitVec.ofNat 8 typ :: BitVec.ofNat 8 payload.length :: payload
  charK27_7 :: (b.map (fun x => x.toNat)) ++ [bchCrc b % 256, bchCrc b / 256, charK29_7]

/-- TYPE and payload of received code groups that are a whole message: it ends at the first K character, which must be K29.7, its LEN is
at most 60 and names its payload, and its CRC holds. -/
def msgOf (groups : List Nat) : Option (Nat × List Byte) :=
  match groups.map (fun g => (decode10 g).getD 512) with
  | k :: rest =>
    let b := (rest.takeWhile (fun c => decide (c < 256))).map (BitVec.ofNat 8)
    let n := leAt b 1 1
    if k = charK27_7 ∧ (rest.drop b.length).head? = some charK29_7 ∧ n ≤ 60 ∧ b.length = n + 4 ∧
      bchCrc (b.take (n + 2)) = leAt b (n + 2) 2 then some (leAt b 0 1, slice b 2 n) else none
  | [] => none

/-- The LEN that R164 fixes for a message that a cascade link's back-channel carries (R186): its least and greatest value. -/
def upMsgLen (typ : Nat) : Option (Nat × Nat) :=
  if typ = 0x02 then some (1, 1)
  else if typ = 0x03 then some (24, 24)
  else if typ = 0x30 then some (0, 0)
  else if typ = 0x40 then some (3, 60)
  else if 0xC0 ≤ typ then some (0, 60)
  else none

/-! ## Odvel flits (R438, R439) -/

/-- The header of a transaction (R439): OP 1 WR, 2 RD, 3 CPL, 4 CPL_D; CLASS 0 P, 1 NP, 2 CPL. -/
structure OdvelHdr where
  op : Nat
  cls : Nat
  req : Nat
  tag : Nat := 0
  status : Nat := 0
  len : Nat
  addr : Nat
  deriving DecidableEq, Repr

/-- Its 16 bytes. -/
def OdvelHdr.bytes (h : OdvelHdr) : List Byte :=
  leBytes (h.op + 16 * h.cls) 1 ++ leBytes h.req 1 ++ leBytes h.tag 1 ++ leBytes h.status 1 ++ leBytes h.len 2 ++ zeros 2 ++
    leBytes h.addr 5 ++ zeros 3

/-- The credit word of a flit: P units and NP requests returned (R438). -/
def creditWord (p np : Nat) : Nat := p % 4096 + np % 64 * 4096

/-- The flits of a stream from its front, each after the adapter's 8 bytes: the credit word, then 244 bytes of the stream, filled with
NOPs. The first returns what is owed. -/
def odvelFlits : Nat → Nat → List Byte → List Byte
  | 0, _, _ => []
  | n + 1, credit, bs => leBytes credit 4 ++ padTo 244 (bs.take 244) ++ odvelFlits n 0 (bs.drop 244)

/-- P units of 16 bytes that a write of `n` bytes takes, its header among them (R441). -/
def pUnits (n : Nat) : Nat := 1 + (n + 15) / 16

end Sys2Proof.Machine
end

