-- ==== Sys2Proof/Machine/LinkPkt.lean ====
section
/-! DEFINITION. Camera ports: their registers and state, the landing FIFO (R158-R161), the packet parser (R151-R157), the RX
queue (R189) and the changes of training state (R104). -/
namespace Sys2Proof.Machine
set_option Elab.async false

/-- What the device keeps for a camera port beside its registers. -/
def State.port (s : State) (p : Nat) : PortS := Tbl.get (fun _ => {}) s.ports p
def State.setPort (s : State) (p : Nat) (v : PortS) : State := { s with ports := Tbl.set (fun _ => {}) s.ports p v }
def State.updPort (s : State) (p : Nat) (f : PortS → PortS) : State := s.setPort p (f (s.port p))

/-- Whether a device-wide camera port exists (R2, R7). -/
def State.portOk (s : State) (p : Nat) : Bool := decide (p < 128) && s.present (p / 32)

/-- STATE.STATE, STATE.RATE_ACT and CTL.ROLE of a port. -/
def State.lpState (s : State) (p : Nat) : Nat := s.fld (lp p + LP.STATE) 3 0
def State.lpRate (s : State) (p : Nat) : Nat := s.fld (lp p + LP.STATE) 9 8
def State.lpRole (s : State) (p : Nat) : Nat := s.afld (lp p + LP.CTL) 3 2
def State.lpRun (s : State) (p : Nat) : Bool := s.lpState p == 8

/-- An EVENTS bit of the physical layer (R140) and of the block layer (R192). -/
def State.lpEvent (s : State) (p i : Nat) : State := s.setBit (lp p + LP.EVENTS) i
def State.blkEvent (s : State) (p i : Nat) : State := s.setBit (lp p + LP.BLK_EVENTS) i

/-- Symbol times and timeouts of a class against L3 (R90, R104): 1 at L3, 2 at L2, 4 at L1. -/
def clsMul (c : Nat) : Nat := if c = 3 then 1 else if c = 2 then 2 else 4

/-! ## Landing FIFO (R158-R161) -/

/-- A packet as ingest reads it (R158, R159): corrected header fields, payload, tags of its last word, arrival stamp in units of 2^-16 ns
(R216) and the steps of device time before it. A BREAK entry has `brk` set; `sop` is clear where only the reserved last word of a cut
packet was written (R161). -/
structure Pkt where
  slot : Nat
  brk : Bool := false
  sop : Bool := true
  di : Nat := 0
  vc : Nat := 0
  wc : Nat := 0
  payload : List Byte := []
  trunc : Bool := false
  rsFail : Bool := false
  crcErr : Bool := false
  time : Nat := 0
  steps : Nat := 0
  deriving DecidableEq, Repr

/-- A tag (R159). -/
def tagOf (slot : Nat) (sop eop : Bool) (bytes : Nat) (crc rs trunc : Bool) : Nat :=
  slot % 4 + b2n sop * 4 + b2n eop * 8 + bytes % 8 * 16 + b2n crc * 128 + b2n rs * 256 + b2n trunc * 512

def FifoWord.eop (w : FifoWord) : Bool := w.tag.testBit 3
/-- The valid bytes of a word. -/
def FifoWord.bytes (w : FifoWord) : List Byte := leBytes w.data (if w.tag / 16 % 8 = 0 then 8 else w.tag / 16 % 8)

/-- FIFO_STAT follows the level; the high-water mark rises with it (R191). -/
def State.fifoStat (s : State) (p : Nat) : State :=
  let l := (s.port p).fifo.length
  s |>.wrFld (lp p + LP.FIFO_STAT) 25 16 (Nat.max l (s.fld (lp p + LP.FIFO_STAT) 25 16))
    |>.wrFld (lp p + LP.FIFO_STAT) 9 0 l

/-- Whether fewer than 8 of the 512 entries are free (R160). -/
def fifoHigh (l : List FifoWord) : Bool := decide (504 < l.length)

/-- The full flag (R160): raised while the condition holds; for 3 cycles after it has ended it may still be set, which is free. -/
def State.fifoFull (s : State) (p : Nat) : State × Bool :=
  let v := s.port p
  if fifoHigh v.fifo then (s, true)
  else match v.fullEnd with
    | some t => if s.cycle ≤ t + 3 then (s.skipFree 1, Config.freeBool s.free) else (s, false)
    | none => (s, false)

/-- An entry written. -/
def State.fifoPut (s : State) (p : Nat) (w : FifoWord) : State :=
  (s.updPort p (fun v => { v with fifo := v.fifo ++ [w] })).fifoStat p

/-- `n` entries taken from the FIFO by the read side. -/
def State.fifoDrop (s : State) (p n : Nat) : State :=
  let v := s.port p
  let rest := v.fifo.drop n
  let was := fifoHigh v.fifo && !fifoHigh rest
  (s.setPort p { v with fifo := rest, fullEnd := if was then some s.cycle else v.fullEnd }).fifoStat p

/-- Entries of the next line: up to `n`, of one packet. -/
def lineLen : Nat → List FifoWord → Nat
  | 0, _ => 0
  | _ + 1, [] => 0
  | n + 1, w :: t => if w.eop then 1 else 1 + lineLen n t

/-- One FCLK cycle of the read side (R160): up to 8 entries of one packet go to ingest as a line. -/
def State.fifoLine (s : State) (p : Nat) : State :=
  let v := s.port p
  let n := lineLen 8 v.fifo
  if n = 0 then s else (s.setPort p { v with line := v.line ++ v.fifo.take n }).fifoDrop p n

/-- The read side of every port (R160). -/
def State.fifoLines (s : State) : State := forEach (s.ports.filter (fun e => !e.2.fifo.isEmpty)) s (fun s e => s.fifoLine e.1)

/-- Words up to the first that ends a packet, and the rest; none where no packet is complete. -/
def splitPkt : List FifoWord → Option (List FifoWord × List FifoWord)
  | [] => none
  | w :: t => if w.eop then some ([w], t) else match splitPkt t with
    | some (a, b) => some (w :: a, b)
    | none => none

/-- The packet that words hold (R158, R159). -/
def pktOf (ws : List FifoWord) : Pkt :=
  let first := ws.headD { data := 0, tag := 0 }
  let last := ws.getLast?.getD first
  let sop := first.tag.testBit 2
  let h := if sop then first.data % 2 ^ 32 else 0
  { slot := first.tag % 4
    brk := sop && first.tag.testBit 3 && first.tag / 16 % 8 == 0 && first.tag.testBit 9 && first.data == 0
    sop := sop
    di := h % 256
    vc := nbits h 31 30 * 4 + nbits h 7 6
    wc := h / 256 % 65536
    payload := (if sop then ws.drop 1 else ws).flatMap (fun w => w.bytes)
    trunc := last.tag.testBit 9
    rsFail := last.tag.testBit 8
    crcErr := last.tag.testBit 7
    time := first.time
    steps := first.steps }

/-- The packets complete in a port's line buffer and FIFO, at most `n`, oldest first. -/
def pktsIn : Nat → List FifoWord → List Pkt
  | 0, _ => []
  | n + 1, l => match splitPkt l with
    | some (a, b) => pktOf a :: pktsIn n b
    | none => []

/-- The next complete packet, and the state without it. -/
def State.nextPkt (s : State) (p : Nat) : Option (Pkt × State) :=
  let v := s.port p
  match splitPkt (v.line ++ v.fifo) with
  | none => none
  | some (a, _) =>
    some (pktOf a, (s.setPort p { v with line := v.line.drop a.length }).fifoDrop p (a.length - v.line.length))

/-! ## Packets (R151-R158, R732) -/

/-- The slot of a virtual channel by the committed SLOT_MAP, which has no effect in a cascade role (R154, R186). -/
def State.slotOf (s : State) (p vc : Nat) : Option Nat :=
  if s.lpRole p ≠ 0 then none
  else (List.range 4).find? (fun n =>
    s.abit (lp p + LP.SLOT_MAP) (8 * n + 7) && s.afld (lp p + LP.SLOT_MAP) (8 * n + 3) (8 * n) == vc)

/-- What R153 does with a data type: 0 discarded, 1 passed, 2 discarded and counted. -/
def dtHandling (dt : Nat) : Nat :=
  if dt = 0x10 ∨ dt = 0x11 then 0
  else if dt ≤ 0x03 ∨ (0x08 ≤ dt ∧ dt ≤ 0x0F) ∨ dt = 0x12 ∨ (0x2A ≤ dt ∧ dt ≤ 0x37) then 1
  else 2

/-- Bytes up to the next packet start that a PTR names dropped. -/
def toStart : List StreamByte → List StreamByte
  | [] => []
  | b :: t => if b.start then b :: t else toStart t

/-- The held word of the packet in progress written, with EOP where it is the last (R158). A word that meets the full flag is discarded
with the rest of its packet, and FIFO_OVF counts (R161). -/
def State.putWord (s : State) (p : Nat) (c : PktRx) (eop crc trunc : Bool) : State :=
  match c.slot with
  | none => s
  | some slot =>
    let f := s.fifoFull p
    if f.2 then
      (f.1.updPort p (fun v => { v with cur := v.cur.map (fun x => { x with cut := true }) })).inc (lp p + LP.FIFO_OVF) |>.blkEvent p 1
    else f.1.fifoPut p
      { data := leNat c.hold, tag := tagOf slot c.sop eop (if c.sop then 4 else c.hold.length) crc (eop && c.bad) trunc
        time := c.time, steps := c.steps }

/-- The packet in progress ends (R158, R161): its held word is its last; of a cut packet the reserved entry takes a last word with EOP,
TRUNC and one valid byte, which is free. -/
def State.endCur (s : State) (p : Nat) (crc trunc rsf : Bool) : State :=
  match (s.port p).cur with
  | none => s
  | some c0 =>
    let c := { c0 with bad := c0.bad || rsf }
    let s1 := if c.cut then s else s.putWord p c true crc trunc
    let cut := match (s1.port p).cur with | some x => x.cut | none => false
    let s2 := s1.updPort p (fun v => { v with cur := none })
    match c.slot with
    | some slot =>
      if cut ∧ (s2.port p).fifo.length < 512 then
        (s2.skipFree 1).fifoPut p
          { data := (Config.freeByte s2.free).toNat, tag := tagOf slot false true 1 false c.bad true, time := c.time, steps := c.steps }
      else s2
    | none => s2

/-- A packet header taken from the stream (R151-R155): its slot is that of the committed SLOT_MAP now. A short packet ends with it. -/
def State.takeHeader (s : State) (p : Nat) (h : List StreamByte) (d : Nat) : State :=
  let dt := d % 64
  let vc := nbits d 25 24 * 4 + nbits d 7 6
  let wc := d / 256 % 65536
  let long := decide (0x10 ≤ dt)
  let word := d % 2 ^ 24 + eccOf d * 2 ^ 24 + nbits d 25 24 * 2 ^ 30
  let slot := if dtHandling dt = 1 then s.slotOf p vc else none
  let s1 := if dtHandling dt = 2 then s.inc (lp p + LP.DT_UNSUPP)
    else if dtHandling dt = 1 ∧ slot = none then s.inc (lp p + LP.VC_UNMAPPED) else s
  let s2 := s1.updPort p (fun v => { v with cur := some {
    hdr := word
    slot := slot
    pay := if long then wc else 0
    foot := if long then 2 else 0
    hold := leBytes word 4
    bad := h.any (fun b => b.bad)
    time := (h.map (fun b => b.time)).headD 0
    steps := (h.map (fun b => b.steps)).headD 0 } })
  if long then s2 else s2.endCur p false false false

/-- A byte of the packet in progress: payload bytes fill words, a full word is written when the next byte needs its place, and the
footer's second byte ends the packet with the check of its CRC (R156, R158). -/
def State.takeByte (s : State) (p : Nat) (c : PktRx) (b : StreamByte) : State :=
  let bad := c.bad || b.bad
  if 0 < c.pay then
    let n := { c with pay := c.pay - 1, crc := crcBytes 0x8408 [b.val] c.crc, bad := bad }
    if c.cut then s.updPort p (fun v => { v with cur := some n })
    else if c.sop ∨ c.hold.length = 8 then
      (s.updPort p (fun v => { v with cur := some { n with hold := [b.val], sop := false } })).putWord p { c with bad := bad } false false false
    else s.updPort p (fun v => { v with cur := some { n with hold := c.hold ++ [b.val] } })
  else if 1 < c.foot then
    s.updPort p (fun v => { v with cur := some { c with foot := c.foot - 1, footer := c.footer ++ [b.val], bad := bad } })
  else
    let err := decide (leNat (c.footer ++ [b.val]) ≠ c.crc)
    let s1 := if err then s.inc (lp p + LP.PKT_CRC_ERR) else s
    (s1.updPort p (fun v => { v with cur := some { c with bad := bad } })).endCur p err false false

/-- Four bytes of a stream `st` read as a header (R152): found bad, the search for the next packet goes on; else the packet begins. -/
def State.headerStep (s : State) (p : Nat) (v : PortS) (st : List StreamByte) (r : Option (Nat × Bool)) : State :=
  match r with
  | none => (s.setPort p { v with stream := toStart (st.drop 1), discard := (toStart (st.drop 1)).isEmpty }).inc (lp p + LP.HDR_ERR)
  | some (d, corr) =>
    let s1 := s.setPort p { v with stream := st.drop 4, discard := false }
    (if corr then s1.inc (lp p + LP.HDR_CORR) else s1).takeHeader p (st.take 4) d

/-- The next piece of a port's byte stream parsed, a header or one byte of the packet in progress, and whether there was one. -/
def State.parseOne (s : State) (p : Nat) : State × Bool :=
  let v := s.port p
  match v.cur, v.stream with
  | some c, b :: rest => ((s.setPort p { v with stream := rest }).takeByte p c b, true)
  | some _, [] => (s, false)
  | none, _ =>
    let st := if v.discard then toStart v.stream else v.stream
    let hdr := st.take 4
    if hdr.length < 4 then (s.setPort p { v with stream := st, discard := v.discard && st.isEmpty }, false)
    else (s.headerStep p v st (hdrCheck (leNat (hdr.map (fun b => b.val)))), true)

/-- The byte stream of a port parsed as far as it goes. -/
def State.parseAll (s : State) (p : Nat) : Nat → State
  | 0 => s
  | n + 1 => let r := s.parseOne p; if r.2 then r.1.parseAll p n else r.1

/-- The packet in progress ended with a last word tagged TRUNC (R157), and RS_FAIL with `rsf` (R732). -/
def State.endPacket (s : State) (p : Nat) (rsf : Bool) : State :=
  ((s.parseAll p (s.port p).stream.length).endCur p false true rsf).updPort p (fun v => { v with stream := [], discard := true })

/-- BREAK_WRITE (R157, R159): one BREAK entry for each enabled slot. -/
def State.breakWrite (s : State) (p : Nat) : State :=
  if s.lpRole p ≠ 0 then s
  else forEach (List.range 4) (s.endPacket p false) (fun s n =>
    if s.abit (lp p + LP.SLOT_MAP) (8 * n + 7) then
      s.fifoPut p { data := 0, tag := tagOf n true true 0 false false true, time := s.stamp (p / 32), steps := s.tm.steps }
    else s)

/-! ## RX queue and outstanding bus transactions (R183, R189) -/

/-- A message put into the RX queue: its header word, then its payload; one that does not fit sets OVF. -/
def State.rxPut (s : State) (p typ : Nat) (payload : List Byte) (synth : Bool) : State :=
  let v := s.port p
  let n := ceilDiv payload.length 4
  let ws := wordOf (typ + payload.length * 256 + b2n synth * 65536) ::
    (List.range n).map (fun i => wordOf (leAt payload (4 * i) 4))
  if v.rx.length + n + 1 ≤ 256 then
    s |>.setPort p { v with rx := v.rx ++ ws } |>.wrFld (lp p + LP.RX_STAT) 8 0 (v.rx.length + n + 1) |>.blkEvent p 6
  else s |>.setBit (lp p + LP.RX_STAT) 16 |>.blkEvent p 7

/-- BUS_OUTST follows the outstanding transactions, one byte per bus (R191). -/
def State.busOutst (s : State) (p : Nat) : State :=
  let o := (s.port p).outst
  let c := fun b => (o.filter (fun e => e.2.1 == b)).length % 256
  s.wrN (lp p + LP.BUS_OUTST) (c 0 + c 1 * 2 ^ 8 + c 2 * 2 ^ 16 + c 3 * 2 ^ 24)

/-- A BUS_RESULT that the port itself writes (R182, R183); the spec states no DONE for it, so its 12 bytes are free. -/
def State.synthResult (s : State) (p id bus st : Nat) : State :=
  let done := (List.range 12).map (fun i => Config.freeByte (s.free + i))
  (s.rxPut p 0xA0 (leBytes id 1 ++ leBytes bus 1 ++ leBytes st 1 ++ done) true).skipFree 12

/-- LINK_LOST_RESULTS (R183): a LINK_LOST result for every outstanding ID. -/
def State.linkLost (s : State) (p : Nat) : State :=
  let s1 := forEach (s.port p).outst s (fun s e => s.synthResult p e.1 e.2.1 0x0A)
  (s1.updPort p (fun v => { v with outst := [] })).busOutst p

/-! ## Eye scan (R131-R134, R141) -/

/-- Results of a port's last scan forgotten: every ES_RESULT entry reads 0. -/
def State.esClear (s : State) (p : Nat) : State :=
  ({ s with regs := s.regs.filter (fun e => decide (e.1 < lp p + LP.ES_RESULT) || decide (lp p + LP.ES_RESULT + 0x4000 ≤ e.1)) } :
    State).updPort p (fun v => { v with esErrs := [] })

/-- Length of the run of open points that contains offset 0, over (offset, open) in rising order. -/
def runGo : List (Int × Bool) → Nat → Int → Int → Nat
  | [], c, lo, hi => if 0 < c ∧ lo ≤ 0 ∧ 0 ≤ hi then c else 0
  | (x, true) :: t, c, lo, _ => runGo t (c + 1) (if c = 0 then x else lo) x
  | (_, false) :: t, c, lo, hi => if 0 < c ∧ lo ≤ 0 ∧ 0 ≤ hi then c else runGo t 0 0 0

/-- The index of the offset nearest 0; the first of two. -/
def nearestZero (offs : List Int) : Nat :=
  ((List.range offs.length).foldl (fun best i => if (offs.getD i 0).natAbs < (offs.getD best 0).natAbs then i else best) 0)

/-- Phase offsets, voltage offsets, eyes and points of the configured grid (R132). -/
def State.esPh (s : State) (p : Nat) : List Int :=
  (List.range (s.fld (lp p + LP.ES_PH) 22 16)).map (fun i =>
    signed 8 (s.fld (lp p + LP.ES_PH) 7 0) + ((i * s.fld (lp p + LP.ES_PH) 11 8 : Nat) : Int))
def State.esV (s : State) (p : Nat) : List Int :=
  (List.range (s.fld (lp p + LP.ES_V) 24 16)).map (fun i =>
    signed 8 (s.fld (lp p + LP.ES_V) 7 0) + ((i * s.fld (lp p + LP.ES_V) 11 8 : Nat) : Int))
def State.esEyes (s : State) (p : Nat) : Nat := if s.fld (lp p + LP.ES_CTL) 1 0 = 3 then 3 else 1
def State.esPoints (s : State) (p : Nat) : Nat := (s.esPh p).length * (s.esV p).length * s.esEyes p

/-- Whether point (e, v, ph) is completed and open, by its mismatches before they saturate (R134, R141); a point not reached counts as
closed (log entry 96). -/
def State.esOpen (s : State) (p e v ph : Nat) : Bool :=
  let dwell := s.fld (lp p + LP.ES_CTL) 12 8
  let ber := s.fld (lp p + LP.ES_CTL) 20 16
  match (s.port p).esErrs[e * (s.esPh p).length * (s.esV p).length + v * (s.esPh p).length + ph]? with
  | some n => decide (n * 2 ^ ber ≤ 2 ^ dwell)
  | none => false

/-- Width and height of eye `e` (R134). -/
def State.esOpening (s : State) (p e : Nat) : Nat × Nat :=
  let phs := s.esPh p
  let vs := s.esV p
  let row := nearestZero vs
  let col := nearestZero phs
  (runGo ((List.range phs.length).map (fun i => (phs.getD i 0, s.esOpen p e row i))) 0 0 0 * s.fld (lp p + LP.ES_PH) 11 8,
   runGo ((List.range vs.length).map (fun i => (vs.getD i 0, s.esOpen p e i col))) 0 0 0 * s.fld (lp p + LP.ES_V) 11 8)

/-- A scan ends with a status: ES_SUMMARY reports the opening, with ALL that of the eye of least height (R134); of equal heights the
lowest-numbered eye's (log entry 96). -/
def State.esEnd (s : State) (p st : Nat) : State :=
  let all := s.esEyes p == 3
  let e := if all then ((List.range 3).foldl (fun b i => if (s.esOpening p i).2 < (s.esOpening p b).2 then i else b) 0) else 0
  let o := s.esOpening p e
  s |>.wrN (lp p + LP.ES_SUMMARY) (Nat.min 255 o.1 + Nat.min 511 o.2 * 256 +
        (if all then e else s.fld (lp p + LP.ES_CTL) 1 0) * 2 ^ 24)
    |>.wrFld (lp p + LP.ES_STATUS) 2 0 st |>.clrBit (lp p + LP.STATUS) 6 |>.lpEvent p 5

/-- ES_ABORT (R133): a port that leaves RUN during a scan ends it with ABORTED. -/
def State.esAbort (s : State) (p : Nat) : State := if s.bit (lp p + LP.STATUS) 6 then s.esEnd p 4 else s

/-! ## Training state (R104) -/

/-- Cable power wanted by a port's state machine; with the chain off PWR_ON follows at once (R104, R719). -/
def State.setPwr (s : State) (p : Nat) (want : Bool) : State :=
  let s1 := s.updPort p (fun v => { v with pwrWant := want })
  if s.bit (sm (p / 32) + SM.PCC_CTL) 0 then s1 else s1.putBit (lp p + LP.STATUS) 5 want

/-- The 8 DFE taps (R98). -/
def State.dfeTaps (s : State) (p : Nat) : List Int :=
  signed 8 (s.fld (lp p + LP.EQ_STAT) 15 8) ::
    ((List.range 4).map (fun i => signed 8 (s.fld (lp p + LP.DFE_T2_5) (8 * i + 7) (8 * i)))) ++
    ((List.range 3).map (fun i => signed 8 (s.fld (lp p + LP.DFE_T6_8) (8 * i + 7) (8 * i))))

/-- The DFE taps set: tap 1 within -127..127, taps 2 to 8 within -31..31 and sign-extended to a byte (R98, R138). -/
def State.setTaps (s : State) (p : Nat) (t : List Int) : State :=
  let b := fun i => unsignedOf 8 (clampInt (-31) 31 (t.getD i 0))
  s |>.wrFld (lp p + LP.EQ_STAT) 15 8 (unsignedOf 8 (clampInt (-127) 127 (t.getD 0 0)))
    |>.wrN (lp p + LP.DFE_T2_5) (b 1 + b 2 * 2 ^ 8 + b 3 * 2 ^ 16 + b 4 * 2 ^ 24)
    |>.wrN (lp p + LP.DFE_T6_8) (b 5 + b 6 * 2 ^ 8 + b 7 * 2 ^ 16)

/-- CDR_PHASE moved by a number of phase steps: step 5:0 and symbol slips 31:16 (R101). -/
def State.movePhase (s : State) (p : Nat) (d : Int) : State :=
  let k := lp p + LP.CDR_PHASE
  let u := signed 16 (s.fld k 31 16) * 64 + s.fld k 5 0 + d
  s.wrN k (unsignedOf 6 u + unsignedOf 16 (u / 64) * 2 ^ 16)

/-- The CDR phase, the DFE taps, LVL_SPACE and the echo canceller follow what the receiver's loops made of a command's symbols (R98, R99,
R101, R102): the echo from DETECT on, the phase from WAKE on, taps and LVL_SPACE from TRAIN_EQ on. Forward idle holds them (R128), and
FREEZE holds the taps in RUN (R139). What the loops make of the symbols is the operand (log entry 95). -/
def State.adapt (s : State) (p : Nat) (a : Adapt) : State :=
  let st := s.lpState p
  if s.bit (lp p + LP.STATUS) 3 then s
  else
    let s1 := if 1 ≤ st then s.wrN (lp p + LP.ECHO_STAT) (clampNat 30 255 a.echo) else s
    let s2 := if 2 ≤ st then s1.movePhase p a.phase else s1
    if 4 ≤ st ∧ st ≤ 9 then
      let s3 := s2.wrFld (lp p + LP.EQ_STAT) 27 16 a.lvl
      if st = 8 ∧ s.abit (lp p + LP.EQ_CTL) 0 = true then s3
      else s3.setTaps p ((s3.dfeTaps p).mapIdx (fun i t => t + a.taps.getD i 0))
    else s2

/-- A training set starts on the back-channel: STATE, MODE, REQ, SEQ (R108), in 8b/10b from the present disparity. While WAKE sets of a rate
change are owed, they name the new class and go out at the old rate (R121). -/
def State.sendSet (s : State) (p : Nat) : State :=
  let v := s.port p
  let st := s.lpState p
  let cls := if v.rateSets.isSome then s.afld (lp p + LP.CTL) 1 0 else s.lpRate p
  let mode := cls + b2n (v.precodeReq && st == 6) * 4 + b2n (s.abit (lp p + LP.CTL) 8) * 8
  let r := encodeAll v.bchPos (setChars st mode (if st = 5 then v.tapReq else 0) v.tapSeq)
  (s.setPort p { v with
      bchBusy := true
      bchPos := r.2
      rateSets := v.rateSets.map (fun n => n - 1) }).emit .trainingSet p (s.lpRate p :: r.1)

/-- Outside RUN and IDLE training sets go out back to back (R108): the next one starts where none is being sent; a port in the up role
sends none (R137). -/
def State.nextSet (s : State) (p : Nat) : State :=
  if s.lpRole p = 2 ∨ (s.port p).bchBusy = true ∨ s.lpState p = 0 ∨ s.lpState p = 8 ∨ 10 < s.lpState p then s else s.sendSet p

/-- What leaving RUN does (R140, R157, R183, R133), with its pulse (R475). -/
def State.leaveRun (s : State) (p : Nat) : State :=
  s |>.breakWrite p |>.linkLost p |>.esAbort p |>.lpEvent p 2 |>.pulse (p / 32) (673 + 2 * (p % 32))
    |>.clrBits (lp p + LP.STATUS) 8 |>.clrBit (lp p + LP.DLY_STAT) 1
    |>.updPort p (fun v => { v with relock := false, setsOwed := 0 })

/-- HEAD_CAPS of an up-role port (R168, R169, R186): VERSION 1, no outputs, no buses, BUS_QDEPTH of at least 16, PULSE_QDEPTH of at least 8,
TA = 8,960; what the spec leaves open is free. -/
def State.upCaps (s : State) (p : Nat) : State :=
  let f := fun i => Config.freeByte (s.free + i)
  (s.skipFree 10).updPort p (fun v => { v with fwdq := v.fwdq ++ [(0x82,
    [1#8, 0#8, 0#8, BitVec.ofNat 8 (16 + (f 0).toNat % 240), BitVec.ofNat 8 (8 + (f 1).toNat % 248)] ++ leBytes 8960 3 ++
      [f 2, f 3, f 4, f 5, f 6, f 7, f 8, f 9])] })

/-- What entering RUN does: the count of failed attempts clears (R117), TRAIN_TIME of a training from WAKE, AUTO_CLEAR
(R185), D_last and HEAD_CAPS start anew (R169, R179); an up-role port sends its HEAD_CAPS (R169, R186). -/
def State.enterRun (s : State) (p : Nat) (fromWake : Bool) : State :=
  let s1 := s |>.lpEvent p 1 |>.pulse (p / 32) (672 + 2 * (p % 32)) |>.wrFld (lp p + LP.STATE) 23 16 0
    |>.putBit (lp p + LP.BLK_STATUS) 0 (s.lpRole p != 2) |>.wrFld (lp p + LP.CDR_PHASE) 31 16 0
    |>.updPort p (fun v => { v with
      attempts := 0
      classFails := 0
      clearDue := s.lpRole p == 0 && s.bit (lp p + LP.BUS_CTL) 8
      dLast := none
      capsValid := false
      lastQuery := s.cycle + usec 200
      lastBeacon := s.stamp (p / 32) / (65536 * 1000000)
      lastMark := s.cycle
      lastDeal := s.cycle
      discard := true
      stream := []
      cur := none
      missRun := 0
      uncorr := 0
      headCrc := none })
  let s2 := if fromWake then s1.wrN (lp p + LP.TRAIN_TIME) ((s.cycle - (s.port p).wakeAt) / 1000) else s1
  if s.lpRole p = 2 then s2.upCaps p else s2

/-- The training state moves: PREV, STATE, STATE_CHG, and what leaving RUN does; the state's timeout, its frames and its checks start
anew (R104, R140). -/
def State.moveState (s : State) (p st : Nat) : State :=
  let s0 := if s.lpRun p && st != 8 then s.leaveRun p else s
  let s1 := if s.lpState p = st then s0
    else s0 |>.wrFld (lp p + LP.STATE) 7 4 (s.lpState p) |>.wrFld (lp p + LP.STATE) 3 0 st |>.lpEvent p 0
  s1.updPort p (fun v => { v with
    entered := s.cycle
    frames := 0
    tapHist := []
    prbsN := 0
    prbsErr := [] })

/-- A change of training state; training sets name it from the next one on (R104, R108). -/
def State.setPState (s : State) (p st : Nat) : State := (s.moveState p st).nextSet p

/-- RATE_ACT and RATE_DOWN set: the class fallen back to, or the configured one (R122); no rate change is under way any more. -/
def State.setRate (s : State) (p : Nat) : State :=
  let cfg := s.afld (lp p + LP.CTL) 1 0
  let r := (s.port p).fallback.getD cfg
  (s |>.wrFld (lp p + LP.STATE) 9 8 r |>.putBit (lp p + LP.STATE) 11 (decide (r < cfg))).updPort p (fun v => { v with rateSets := none })

/-- A rate change cut short by leaving WAKE (R121): the port takes the new class at once (log entry 97). -/
def State.endRate (s : State) (p : Nat) : State := if (s.port p).rateSets.isSome then s.setRate p else s

/-- IDLE with cable power as it is: the back-channel is off; with it SIG_DET, CDR_LOCK, EQ_DONE, BCH_LOCK and FREQ_ERR (R104, R140). -/
def State.goQuiet (s : State) (p : Nat) : State :=
  (((s.endRate p).setPState p 0).clrBits (lp p + LP.STATUS) 0x97).clrBit (lp p + LP.BLK_STATUS) 0
    |>.updPort p (fun v => { v with bchBusy := false })

/-- Entry to IDLE: back-channel and cable power off (R104). -/
def State.goIdle (s : State) (p : Nat) : State := (s.goQuiet p).setPwr p false

/-- Entry to DETECT: cable power on if PWR_EN, the delay filter cleared (R104, R173). -/
def State.goDetect (s : State) (p : Nat) : State :=
  s |>.endRate p |>.setPState p 1 |>.setPwr p (s.abit (lp p + LP.CTL) 5) |>.wr (lp p + LP.DLY_STAT) 0#32 |>.wr (lp p + LP.DLY_FILT) 0#32
    |>.clrBits (lp p + LP.STATUS) 0x97 |>.clrBit (lp p + LP.BLK_STATUS) 0
    |>.updPort p (fun v => { v with raws := [], markers := [] })

/-- WAKE entered: a training starts; PRECODE, RATE_FALLBACK and INIT_PRESET hold as committed now (R139). -/
def State.startWake (s : State) (p : Nat) : State :=
  s |>.setPState p 2 |>.inc (lp p + LP.TRAIN_CNT) |>.clrBits (lp p + LP.STATUS) 0x06
    |>.clrBit (lp p + LP.STATE) 10 |>.clrBit (lp p + LP.BLK_STATUS) 0
    |>.updPort p (fun v => { v with
      precodeReq := false
      wakeAt := s.cycle
      trainCtl := s.actN (lp p + LP.CTL)
      trainPreset := s.afld (lp p + LP.TX_CFG) 1 0 })

/-- Entry to WAKE at the class that applies. -/
def State.goWake (s : State) (p : Nat) : State := (s.setRate p).startWake p

/-- A committed change of RATE (R121): the state in progress is abandoned; 16 WAKE sets go out at the old rate, and training from WAKE
starts with their end (BCH_MSG_SEND). Cable power is on if PWR_EN. -/
def State.changeRate (s : State) (p : Nat) : State :=
  ((s.updPort p (fun v => { v with rateSets := some 16 })).setPState p 2).setPwr p (s.abit (lp p + LP.CTL) 5)

/-- Entry to RETRAIN (R119). -/
def State.goRetrain (s : State) (p : Nat) : State :=
  s |>.setPState p 9 |>.inc (lp p + LP.RETRAIN_CNT) |>.clrBit (lp p + LP.BLK_STATUS) 0
    |>.updPort p (fun v => { v with retrainStep := 0, markSym := none })

/-- Entry to FAULT with its event; lock, convergence and the head's lock are gone (R140). -/
def State.goFault (s : State) (p : Nat) : State :=
  (((s.endRate p).setPState p 10).lpEvent p 3).clrBits (lp p + LP.STATUS) 0x96

/-- FAULT ends: the count of attempts restarts, and the port continues in DETECT (R124). -/
def State.endFault (s : State) (p : Nat) : State :=
  s |>.updPort p (fun v => { v with attempts := 0 }) |>.wrFld (lp p + LP.STATE) 23 16 0 |>.goDetect p

/-- A failed attempt (R117, R122): counted with its cause; FAULT after RETRY_MAX in a row, else WAKE again, at the next lower
class after two failures above L1 with RATE_FALLBACK. An attempt that ends without a signal does not count towards FAULT
(R118). -/
def State.trainFailed (s : State) (p cause : Nat) (counts : Bool) : State :=
  let v := s.port p
  let n := if counts then v.attempts + 1 else v.attempts
  let s1 := s |>.inc (lp p + LP.TRAIN_FAIL)
    |>.wrN (lp p + LP.FAULT_CAUSE) (cause + s.lpState p * 16 + Nat.min 255 n * 256)
    |>.wrFld (lp p + LP.STATE) 23 16 (Nat.min 255 n)
    |>.updPort p (fun v => { v with attempts := n, classFails := v.classFails + 1 })
  if counts = true ∧ Nat.max 1 (s.afld (lp p + LP.RETRY) 3 0) ≤ n then s1.goFault p
  else if v.trainCtl.testBit 9 ∧ 1 < s.lpRate p ∧ 2 ≤ v.classFails + 1 then
    s1 |>.updPort p (fun v => { v with fallback := some (s.lpRate p - 1), classFails := 0 }) |>.lpEvent p 7 |>.goWake p
  else s1.goWake p

/-! ## Up role (R137) -/

/-- An up-role port follows the state that the down-role port names, or, by sending a message, has entered: RUN (R162). -/
def State.follow (s : State) (p st : Nat) : State :=
  if s.lpState p = st then s
  else if st = 2 then s.startWake p
  else if st = 8 then (s.setPState p 8).enterRun p (s.lpState p == 7)
  else if st = 9 then s.goRetrain p
  else if st = 10 then s.goFault p
  else s.setPState p st

/-- Level indices that an up-role port transmits, through its FFE (R111, R137). -/
def State.fwdSend (s : State) (p : Nat) (ts : List Nat) : State :=
  let v := s.port p
  let lv := v.txLevels.1 :: v.txLevels.2 :: ts.map levelOf
  (s.setPort p { v with
      txIdx := ts.getLast?.getD v.txIdx
      txLevels := (lv.getD ts.length 0, lv.getD (ts.length + 1) 0) }).emit .fwd p
    ((ffeOut v.headPre v.headMain v.headPost v.txLevels.1 v.txLevels.2 ts).map (unsignedOf 16))

/-- A back-channel message that an up-role port receives (R162, R163, R191): its payload where it is whole, of a type that a cascade link
carries, of that type's LEN, and of type `typ`; one that is not whole, of another type or LEN is discarded and counted. The first one
shows that the down-role port is in RUN. -/
def State.bchTake (s : State) (p typ : Nat) (groups : List Nat) : State × Option (List Byte) :=
  let st := s.lpState p
  if s.portOk p = false ∨ s.lpRole p ≠ 2 ∨ st < 7 ∨ 9 < st then (s, none)
  else match msgOf groups with
    | none => (s.inc (lp p + LP.BCH_CRC_ERR), none)
    | some (t, m) => match upMsgLen t with
      | none => (s.inc (lp p + LP.BCH_CRC_ERR), none)
      | some (lo, hi) =>
        if m.length < lo ∨ hi < m.length then (s.inc (lp p + LP.BCH_CRC_ERR), none)
        else (s.follow p 8, if t = typ then some m else none)

end Sys2Proof.Machine
end

