-- ==== Sys2Proof/Machine/Time.lean ====
section
/-! DEFINITION. Device time (R52-R89): the counters, alignment, the sources and their servos, slews, holdover, the pulse
output and the time alarms. Rates are in units of 2^-40 ns per ns, times inside the counters in units of 2^-40 ns. -/
namespace Sys2Proof.Machine
set_option Elab.async false

/-- The clamp of R53 (±500 ppm). -/
def rateClamp (r : Int) : Int := clampInt (-549755814) 549755814 r

/-- The slew term while a slew runs (R63). -/
def State.slewTerm (s : State) : Int := match s.tm.slew with | some sl => sl.term | none => 0

/-- The active rate word (R53). -/
def State.rateWord (s : State) : Int := rateClamp (s.tm.srcRate + s.slewTerm)

/-- What the slew adds in one FCLK cycle: the applied word less the word without the slew term (R63). -/
def State.slewUse (s : State) : Int := s.rateWord - rateClamp s.tm.srcRate

/-- A bit of TB.STATUS on every die that the lead reaches. -/
def State.stAll (s : State) (i : Nat) (b : Bool) : State :=
  forEach s.timeDies s (fun s d => s.putBit (tb d + TB.STATUS) i b)

/-- RATE_ADJ, RATE_CLAMP and SLEWING of every die that the lead reaches follow the rate (R53, R63, R86); a moored die keeps its last rate
word (R59). -/
def State.refreshRate (s : State) : State :=
  let s1 := forEach s.timeDies s (fun t d => t.wrI (tb d + TB.RATE_ADJ) s.rateWord)
  (s1.stAll 5 (decide (s.tm.srcRate + s.slewTerm ≠ s.rateWord))).stAll 1 s.tm.slew.isSome

/-- Whether the slew's next cycle uses up its offset (R63). -/
def State.slewLast (s : State) (sl : Slew) : Bool := decide (sl.rem.natAbs ≤ s.slewUse.natAbs)

/-- What one FCLK cycle adds to every counter, alignment apart (R52, R63). -/
def State.cycleAdd (s : State) : Int :=
  match s.tm.slew with
  | none => s.rateWord
  | some sl => if s.slewLast sl then rateClamp s.tm.srcRate + sl.rem else s.rateWord

/-- One FCLK cycle of the block (R52, R57, R59, R63): `cycle` counts, each present die's counter adds 1 ns, the rate word (a moored die
its last one) and at most 1/16 ns of its pending phase correction, and a slew's remainder falls by what the slew adds. -/
def State.tick (s : State) : State :=
  let add := s.cycleAdd
  let s1 := forEach s.dies s (fun s d =>
    let t := s.timeOf d
    let c := clampInt (-(2 ^ 36)) (2 ^ 36) t.corr
    let r := if s.moored d then s.rdI (tb d + TB.RATE_ADJ) else add
    s.setTime d { now := ((t.now : Int) + 2 ^ 40 + r + c).toNat, corr := t.corr - c })
  let slew := match s.tm.slew with
    | none => none
    | some sl => some { sl with rem := if s.slewLast sl then 0 else sl.rem - s.slewUse }
  { s1 with cycle := s.cycle + 1, tm := { s.tm with slew := slew } }

/-- The activation time of a change issued now: at least 50 µs ahead (R54) and after every change issued before it (log entry 86); how
much more is free (log entry 11). -/
def State.activation (s : State) : Nat :=
  ((s.tm.pendRate.map (fun e => e.1)) ++ (s.tm.pendStep.map (fun e => e.1))).foldl (fun m a => Nat.max m (a + 1))
    (s.now s.lead + 50000 * ns40 + s.freeNat 0)

/-- A change of the rate word issued, to apply at its activation time (R54). -/
def State.issueRate (s : State) (c : RateChange) : State :=
  let a := s.activation
  ((s.setTm { s.tm with pendRate := s.tm.pendRate ++ [(a, c)] }).skipFree 1).emit .rateMsg s.lead [a]

/-- A step of device time issued, to apply on all dies at its activation time (R54, R65). -/
def State.issueStep (s : State) (by_ : StepBy) : State :=
  let a := s.activation
  ((s.setTm { s.tm with pendStep := s.tm.pendStep ++ [(a, by_)] }).skipFree 1).emit .rateMsg s.lead [a]

/-- The offset of a slew that was issued and has not started. -/
def TimeS.slewWaiting (t : TimeS) : Option Int :=
  t.pendRate.findSome? (fun e => match e.2 with | .slew sl _ => some sl.rem | _ => none)

/-- The changes that wait, without slews that have not started. -/
def TimeS.noSlews (t : TimeS) : List (Nat × RateChange) :=
  t.pendRate.filter (fun e => match e.2 with | .slew _ _ => false | _ => true)

/-- The offset a slew has left, running or waiting (R61, R63). -/
def TimeS.slewLeft (t : TimeS) : Int :=
  match t.slew with | some sl => sl.rem | none => t.slewWaiting.getD 0

/-- Whether a slew runs or waits for its activation. -/
def TimeS.slewing (t : TimeS) : Bool := t.slew.isSome || t.slewWaiting.isSome

/-- The offset that is discarded where the running slew ends now: its remainder, and what was discarded before it started (R63). -/
def TimeS.discarded (t : TimeS) (left : Option Int) : Int :=
  (match t.slew with | some sl => sl.rem | none => 0) + left.getD 0

/-- A discarded offset in SLEW_RESID, in whole ns (R61, R63, R87; log entry 12). -/
def State.slewResid (s : State) (x : Int) : State := s.wrI (tb s.lead + TB.SLEW_RESID) (roundDiv x ns40)

/-- The slew is stopped (R61, R63, R87). One that has not started is dropped, and its offset goes to SLEW_RESID; the running one ends at
an activation time, since that changes RATE_ADJ (R54). -/
def State.cancelSlew (s : State) : State :=
  let left := s.tm.slewWaiting
  let s1 := s.setTm { s.tm with pendRate := s.tm.noSlews }
  if s.tm.slew.isSome then s1.issueRate (.stop left)
  else match left with
    | some x => s1.slewResid x
    | none => s1

/-- A rate in ppb as a rate word (R63, R731). -/
def ppbWord (ppb : Nat) : Int := roundDiv ((ppb : Int) * 2 ^ 40) 1000000000

/-- A slew of an offset (units of 2^-40 ns) at TB.SLEW_RATE replaces the remaining one (R63). -/
def State.startSlew (s : State) (offset : Int) : State :=
  if offset = 0 then s.cancelSlew
  else
    let left := s.tm.slewWaiting
    let w := ppbWord (s.rdN (tb s.lead + TB.SLEW_RATE))
    let s1 := s.setTm { s.tm with pendRate := s.tm.noSlews }
    let s2 := match left with
      | some x => if s.tm.slew.isSome then s1 else s1.slewResid x
      | none => s1
    s2.issueRate (.slew { rem := offset, term := if offset < 0 then -w else w } left)

/-- HOLD_EST in ns: what it stood at, and HOLD_DRIFT ppb of the time in holdover (R69). -/
def State.holdEst (s : State) : Nat :=
  match s.tm.holdSince with
  | none => s.rdN (tb s.lead + TB.HOLD_EST)
  | some t => Nat.min 0xFFFFFFFF
      (s.rdN (tb s.lead + TB.HOLD_EST) + (s.cycle - t) * s.rdN (tb s.lead + TB.HOLD_DRIFT) / 1000000000)

/-- The package is LOCKED: UNSYNC clears unless the clock is lost or the upstream is unsynchronised (R67, R70, R79, R81). -/
def State.lockTime (s : State) : State :=
  let s1 := ((s.stAll 0 true).stAll 3 false).stAll 4 false
  (s1.stAll 2 (s.tm.clkLost || s.tm.upUnsync)).wrN (tb s.lead + TB.HOLD_EST) 0

/-- The syntonisation fraction f in units of 2^-40 (R75): 0 in the manager, held in holdover, and else a free value within ±100 ppm that
has moved by at most 0.1 ppm per second since it was last reported (log entry 87). -/
def State.syntNow (s : State) : Int :=
  if s.bit (tb s.lead + TB.HIER_CTL) 15 = false then 0
  else if s.tm.holdSince.isSome then s.tm.synt
  else
    let m : Int := (109951 * (s.cycle - s.tm.syntAt) / 1000000000 : Nat)
    clampInt (s.tm.synt - m) (s.tm.synt + m) ((Config.freeNat s.free % 219902325 : Nat) - 109951162 : Int)

/-- f is reported, or starts to be held. -/
def State.noteSynt (s : State) : State := s.setTm { s.tm with synt := s.syntNow, syntAt := s.cycle }

/-- Holdover: the last rate word is kept and the error estimate starts to rise (R69). -/
def State.enterHoldover (s : State) : State :=
  let s1 := ((s.stAll 3 true).stAll 0 false)
  match s.tm.holdSince with
  | some _ => s1
  | none => (s1.noteSynt).setTm { s1.noteSynt.tm with holdSince := some s.cycle, goodRun := 0, dealGood := 0 }

/-- Holdover ends: HOLD_EST keeps what it has risen to until LOCKED is regained. -/
def State.leaveHoldover (s : State) : State :=
  match s.tm.holdSince with
  | none => s.stAll 3 false
  | some _ => ((s.wrN (tb s.lead + TB.HOLD_EST) s.holdEst).setTm { s.tm with holdSince := none, syntAt := s.cycle }).stAll 3 false

/-- No steward reaches any concentrator die: package time is in holdover (R69). -/
def State.packageMoored (s : State) : Bool := s.concs.all (fun d => s.moored d)

/-- A die's time when it becomes moored (R59, R69, R82): its counter runs on; in PPS and CASCADE mode it is in holdover, and so is the
package once no steward reaches any die. -/
def State.mooredTime (s : State) (die : Nat) : State :=
  let src := s.fld (tb s.lead + TB.CTL) 1 0
  if src = 1 ∨ src = 3 then
    let s1 := (s.setBit (tb die + TB.STATUS) 3).clrBit (tb die + TB.STATUS) 0
    if s.packageMoored then s1.enterHoldover else s1
  else s

/-- A die's time when a steward reaches it again: its rate word and status are the lead's. -/
def State.rejoinTime (s : State) (die : Nat) : State :=
  (s.wrFld (tb die + TB.STATUS) 5 0 (s.fld (tb s.lead + TB.STATUS) 5 0)).wr (tb die + TB.RATE_ADJ) (s.rd (tb s.lead + TB.RATE_ADJ))

/-- A stamp's phase error against the whole second, wrapped to ±0.5 s, in units of 2^-16 ns (R66). -/
def phaseErr (t16 : Nat) : Int :=
  if t16 % sec16 * 2 < sec16 then ((t16 % sec16 : Nat) : Int) else ((t16 % sec16 : Nat) : Int) - sec16

/-- TB.CTL.SRC of the lead (R60). -/
def State.timeSrc (s : State) : Nat := s.fld (tb s.lead + TB.CTL) 1 0

/-! ## Commits of TB.COMMIT (R61-R64, R87) -/

/-- The first status of R87 that refuses a write of `v` to TB.COMMIT. -/
def State.tbRefusal (s : State) (die v : Nat) : Option Nat :=
  let src := s.timeSrc
  if die ≠ s.lead then some 2
  else if v.testBit 0 ∧ (src = 0 ∨ src = 2) ∧ dtValid (s.rdDt (tb die + TB.SET0)) = false then some 3
  else if (src = 1 ∧ (v.testBit 1 ∨ v.testBit 2)) ∨ (src = 3 ∧ (v.testBit 0 ∨ v.testBit 1 ∨ v.testBit 2)) then some 1
  else none

/-- One bit of a write of `v` to TB.COMMIT. A refused write performs none of its bits and is logged once, by the command of
its lowest set bit (R87). An accepted write locks HIER_CTL (R88). -/
def tbCommitBit (die req v bit : Nat) (act : State → State) (s : State) : State :=
  s.onKey (tb die + TB.COMMIT) req (fun s =>
    if die < 4 ∨ v.testBit bit = false then s
    else match s.tbRefusal die v with
      | some st => if v % 2 ^ bit = 0 then s.logRefused die st 0x09 req 0 else s
      | none => act (s.setTm { s.tm with hierLocked := die :: s.tm.hierLocked.filter (fun x => x != die) }))

/-- TB_SET (R61, R62): in FREE and HOST mode a step to TB.SET plus the time from the write to the load, which cancels a
slew; in PPS mode the seconds of the next accepted edge. -/
def tbSetAct (s : State) : State :=
  let x := s.rdDt (tb s.lead + TB.SET0)
  if s.timeSrc = 1 then s.setTm { s.tm with ppsSeconds := some (x / 2 ^ 48 % 2 ^ 48) }
  else (s.cancelSlew).issueStep (.load (((dtUnpack x * 2 ^ 24 : Nat) : Int) - (s.now s.lead : Nat)))

def execTbSet (die req v : Nat) (s : State) : Res := .next (tbCommitBit die req v 0 tbSetAct s)

/-- TB_SLEW (R63): the signed offset SLEW_NS + SLEW_SUB is added gradually. -/
def tbSlewAct (s : State) : State :=
  s.startSlew (s.rdI (tb s.lead + TB.SLEW_NS) * 2 ^ 40 + (s.fld (tb s.lead + TB.SLEW_SUB) 15 0 : Nat) * 2 ^ 24)

def execTbSlew (die req v : Nat) (s : State) : Res := .next (tbCommitBit die req v 1 tbSlewAct s)

/-- TB_RATE (R54, R61): RATE_SET becomes the source's rate word at its activation time. -/
def execTbRate (die req v : Nat) (s : State) : Res :=
  .next (tbCommitBit die req v 2 (fun s => s.issueRate (.source (s.rdI (tb s.lead + TB.RATE_SET)))) s)

/-- TB_CANCEL (R87): the slew in progress stops. -/
def execTbCancel (die req v : Nat) (s : State) : Res := .next (tbCommitBit die req v 3 (fun s => s.cancelSlew) s)

/-! ## Rate activation, end of a slew -/

/-- One rate change takes effect (R53, R63): the offset that a new slew or a stop discards goes to SLEW_RESID. -/
def State.applyRate (s : State) (c : RateChange) : State :=
  (match c with
    | .source r => s.setTm { s.tm with srcRate := r }
    | .slew sl left =>
      (s.slewResid (s.tm.discarded left)).setTm { s.tm with slew := some sl, replaced := s.tm.slew.isSome || left.isSome }
    | .stop left =>
      if s.tm.slew.isSome || left.isSome then (s.slewResid (s.tm.discarded left)).setTm { s.tm with slew := none } else s).refreshRate

/-- RATE_ACTIVATION (R54, R64): device time has reached the activation time of the oldest waiting change; every die applies it. A step
that was issued before it comes first. -/
def execRateActivation (s : State) : Res :=
  .next (match s.tm.pendRate with
    | [] => s
    | (a, c) :: rest =>
      if a ≤ s.now s.lead ∧ s.tm.pendStep.all (fun e => decide (a ≤ e.1)) = true then
        (s.setTm { s.tm with pendRate := rest }).applyRate c
      else s)

/-- SLEW_DONE (R63): the next cycle would use up the offset: only the remainder is added, and the slew ends. -/
def execSlewDone (s : State) : Res :=
  .next (match s.tm.slew with
    | none => s
    | some sl =>
      if s.slewLast sl then
        let s1 := forEach s.dies s (fun s d =>
          s.setTime d { s.timeOf d with now := (((s.now d : Nat) : Int) + sl.rem).toNat })
        (s1.setTm { s.tm with slew := none }).refreshRate
      else s)

/-! ## Reads that latch (R55, R84) -/

/-- NOW_READ (R55): the low word of device time is returned, the other two are latched for the path. -/
def execNowRead (die req : Nat) (s : State) : Res :=
  .next (s.onKey (tb die + TB.NOW0) req (fun s =>
    let x := dtPack (s.stamp die)
    ((s.latch req (tb die + TB.NOW1) (dtWord x 1)).latch req (tb die + TB.NOW2) (dtWord x 2)).respond (.data [dtWord x 0])))

/-- PPSCAP_READ (R84): the low word of the last PPS stamp is returned, the other two are latched for the path. -/
def execPpscapRead (die req : Nat) (s : State) : Res :=
  .next (s.onKey (tb die + TB.PPSCAP0) req (fun s =>
    ((s.latch req (tb die + TB.PPSCAP1) (s.rd (tb die + TB.PPSCAP1))).latch req (tb die + TB.PPSCAP2)
      (s.rd (tb die + TB.PPSCAP2))).respond (.data [s.rd (tb die + TB.PPSCAP0)])))

/-! ## PPS (R56, R62, R66, R67, R70) -/

/-- The PPS servo's correction of the rate word (R66): -error × 2^-4 ÷ 1 s and an integral term with gain 2^-8. -/
def ppsCorrection (err integ : Int) : Int := -(roundDiv (err * 2 ^ 20 + integ * 2 ^ 16) 1000000000)

/-- The stamp of a PPS edge (R56): device time with the interpolated fraction, less the board delay PPSIN_OFS. -/
def State.ppsStamp (s : State) (frac : Nat) : Nat :=
  ((s.stamp s.lead : Int) + frac - s.rdI (tb s.lead + TB.PPSIN_OFS)).toNat

/-- An accepted edge of error `err` (2^-16 ns) in PPS mode. -/
def State.ppsAccept (s : State) (t16 : Nat) (err : Int) : State :=
  let returned := s.bit (tb s.lead + TB.STATUS) 3
  let s0 := (s.stAll 4 false).leaveHoldover
  let tm := { s0.tm with lastAccepted := some s.cycle, outlierRun := 0 }
  match s.tm.ppsSeconds with
  | some sec =>
    (s0.setTm { tm with ppsSeconds := none, ppsStarted := true, goodRun := 0 }).issueStep
      (.load (((sec * sec16 : Nat) : Int) * 2 ^ 24 - (t16 : Int) * 2 ^ 24))
  | none =>
    if s.tm.ppsStarted = false then
      (s0.setTm { tm with ppsStarted := true, goodRun := 0 }).issueStep (.load (-err * 2 ^ 24))
    else if returned then
      if err.natAbs ≤ 1000000 * 65536 then (s0.setTm tm).startSlew (-err * 2 ^ 24) else (s0.setTm tm).issueStep (.load (-err * 2 ^ 24))
    else
      let good := if err.natAbs < 50 * 65536 then s.tm.goodRun + 1 else 0
      let integ := s.tm.integ + err
      let s1 := (s0.setTm { tm with goodRun := good, integ := integ }).issueRate
        (.source (s.tm.srcRate + ppsCorrection err integ))
      if 8 ≤ good then s1.lockTime else s1

/-- PPS_REACQ (R66): the servo steps to the edge after three consecutive outliers; the source has returned. -/
def State.ppsReacquire (s : State) (err : Int) : State :=
  let s0 := ((s.stAll 4 false).leaveHoldover).incW (tb s.lead + TB.PPS_REACQ)
  (s0.setTm { s0.tm with
    outlierRun := 0
    goodRun := 0
    ppsStarted := true
    integ := 0
    lastAccepted := some s.cycle }).issueStep (.load (-err * 2 ^ 24))

/-- PPS_EDGE (R66, R85): the edge that marks the second by CTL.PPS_EDGE is stamped and captured; in PPS mode, after three consecutive
outliers, the servo steps to it, and else it is accepted within ±PPS_WINDOW of a whole second or counted as an outlier. The other edge
does nothing. While no steward reaches any die the package stays in holdover (R69). -/
def execPpsEdge (frac : Nat) (falling : Bool) (s : State) : Res :=
  let t := s.ppsStamp frac
  let b := tb s.lead
  let s1 := (s.wrDt (b + TB.PPSCAP0) (dtPack t)).inc (b + TB.PPSCAP_CNT)
  .next (if falling ≠ s.bit (b + TB.CTL) 2 then s
    else if s.timeSrc ≠ 1 ∨ s.packageMoored = true then s1
    else
      let err := phaseErr t
      if 3 ≤ s.tm.outlierRun then s1.ppsReacquire err
      else if err.natAbs ≤ s.rdN (b + TB.PPS_WINDOW) * 65536 then s1.ppsAccept t err
      else (s1.incW (b + TB.PPS_OUTLIER)).setTm { s.tm with outlierRun := s.tm.outlierRun + 1, goodRun := 0 })

/-- FCLK cycles since the source last served: since the last accepted edge or deal, and not before the source was selected. -/
def State.sinceSource (s : State) (last : Option Nat) : Nat := s.cycle - Nat.max s.tm.srcAt (last.getD 0)

/-- PPS_SOURCE_LOST (R67, R69): in PPS mode, no edge has been accepted for 2.0 s. -/
def execPpsSourceLost (s : State) : Res :=
  .next (if s.timeSrc = 1 ∧ msec 2000 ≤ s.sinceSource s.tm.lastAccepted then (s.stAll 4 true).enterHoldover else s)

/-- HOLD_LIMIT_EXCEEDED (R69): HOLD_EST exceeds HOLD_LIMIT in holdover, so records stamped afterwards carry TIME_UNSYNC. -/
def execHoldLimitExceeded (s : State) : Res :=
  .next (if s.tm.holdSince.isSome ∧ s.rdN (tb s.lead + TB.HOLD_LIMIT) < s.holdEst then
    (s.enterHoldover).stAll 2 true else s)

/-! ## Alignment (R57, R58) -/

/-- ALIGN_TICK (R57, R59): 1 ms after the last, the lead sends an alignment message with its stamp to every other die that it
reaches. -/
def execAlignTick (s : State) : Res :=
  .next (if s.passed s.tm.alignAt (msec 1) then
    (forEach (s.timeDies.filter (fun d => d ≠ s.lead)) s (fun t d => t.emit .alignMsg d [s.stamp s.lead])).setTm
      { s.tm with alignAt := some s.cycle }
    else s)

/-- Whether a die takes part in alignment with the lead (R57, R59). -/
def State.aligned (s : State) (die : Nat) : Bool := s.present die && decide (die ≠ s.lead) && !s.moored die

/-- ALIGN_MSG_RX (R57): a die answers with its receive stamp and its own send stamp. -/
def execAlignMsgRx (die t1 : Nat) (s : State) : Res :=
  .next (if s.aligned die then s.emit .alignReply die [t1, s.stamp die, s.stamp die] else s)

/-- The phase correction the lead computes (R57): latency is half the round trip less the hold time. -/
def alignCorrection (t1 rx tx t4 : Nat) : Int :=
  (t1 : Int) + roundDiv (((t4 : Int) - t1) - ((tx : Int) - rx)) 2 - rx

/-- The largest correction of the last 1 s, in units of 2^-16 ns (R58). -/
def State.alignMax (s : State) : Nat :=
  ((s.tm.corrs.filter (fun e => decide (s.cycle < e.1 + msec 1000))).map (fun e => e.2)).foldl Nat.max 0

/-- ALIGN_REPLY_RX (R57, R58): the correction is sent; the largest of the last 1 s is reported, and one above 1 ns sets
ALIGN_FAULT of the lead. -/
def execAlignReplyRx (die t1 rxStamp txStamp : Nat) (s : State) : Res :=
  let c := alignCorrection t1 rxStamp txStamp (s.stamp s.lead)
  let s1 := s.setTm { s.tm with
    corrs := s.tm.corrs.filter (fun e => decide (s.cycle < e.1 + msec 1000)) ++ [(s.cycle, c.natAbs)] }
  .next (if s.aligned die then
    ((s1.wrN (tb s.lead + TB.ALIGN_MAX) s1.alignMax).putBit (tb s.lead + TB.STATUS) 6
      (decide (65536 < s1.alignMax))).emit .alignCorr die [unsignedOf 64 c]
    else s)

/-- ALIGN_CORRECTION_RX (R57): the die starts to apply the correction, in units of 2^-16 ns; it was measured against the counter as it
stands, so it replaces what is left of the last one. -/
def execAlignCorrectionRx (die : Nat) (corr : Int) (s : State) : Res :=
  .next (if s.aligned die then
    (s.setTime die { s.timeOf die with corr := corr * 2 ^ 24 }).wrI (tb die + TB.ALIGN_OFS) corr
    else s)

/-! ## PPS_OUT (R68) -/

/-- The steward that drives the pulse of a second: after a role move the old lead to the end of the second of the move, while it
runs (R68; log entry 88). -/
def State.ppsDriver (s : State) (sec : Nat) : Nat :=
  match s.tm.ppsHand with
  | some (old, n) => if sec ≤ n ∧ s.present old = true ∧ s.parked.contains old = false ∧ s.declared.contains old = false then old else s.lead
  | none => s.lead

/-- PPS_OUT_START (R68): at a whole second plus PPSOUT_OFS the lead drives PPS_OUT high, once per second. -/
def execPpsOutStart (s : State) : Res :=
  let t : Int := (s.stamp s.lead : Int) - s.rdI (tb s.lead + TB.PPSOUT_OFS) * 65536
  let sec := t.toNat / sec16
  let d := s.ppsDriver sec
  .next (if s.bit (tb d + TB.CTL) 3 ∧ 0 ≤ t ∧ t.toNat % sec16 < 2 * 65536 ∧ s.tm.ppsLastSec ≠ some sec then
    (s.setTm { s.tm with
      ppsOutEnd := some (d, s.cycle + s.rdN (tb d + TB.PPSOUT_WIDTH))
      ppsLastSec := some sec }).emit .pinPpsOut d [1]
    else s)

/-- PPS_OUT_END (R68): PPSOUT_WIDTH has passed; the steward that began the pulse ends it. -/
def execPpsOutEnd (s : State) : Res :=
  .next (match s.tm.ppsOutEnd with
    | some (d, e) => if e ≤ s.cycle then (s.setTm { s.tm with ppsOutEnd := none }).emit .pinPpsOut d [0] else s
    | none => s)

/-! ## Time alarms (R71, R72, R89) -/

def State.alarm (s : State) (die a : Nat) : AlarmS := Tbl.get (fun _ => {}) s.alarms (die * 16 + a)
def State.setAlarm (s : State) (die a : Nat) (v : AlarmS) : State :=
  { s with alarms := Tbl.set (fun _ => {}) s.alarms (die * 16 + a) v }
abbrev alarmK (die a : Nat) : Nat := tb die + 0x20 * a

/-- An alarm fires (R71, R72): FIRED, LATE or STEPPED are set, its producer pulses with the alarm value, and a periodic
alarm rearms: by one period, or after a step at its next value after the new time, the skipped ones counted. -/
def State.fireAlarm (s : State) (die a : Nat) (stepped : Bool) : State :=
  let v := s.alarm die a
  let k := alarmK die a + TB.ALARM_STAT
  let s1 := s.setBits k (1 + 2 * b2n v.late + 4 * b2n stepped)
  let s2 := if die < 4 then s1.pulseAt die (576 + a) v.val else s1
  let behind := if stepped then (s.stamp die - v.val) / (v.per * 65536) else 0
  if v.ctl.testBit 1 ∧ v.per ≠ 0 then
    (s2.setAlarm die a { v with val := v.val + (behind + 1) * (v.per * 65536), late := false }).wrFld k 31 16
      (Nat.min 0xFFFF (s.fld k 31 16 + behind))
  else s2.setAlarm die a { v with armed := false, late := false }

/-- ALARM_COMMIT (R72): time, period and control take effect; a passed time fires in the next cycle with LATE. A value that
is invalid by R18 commits nothing. -/
def execAlarmCommit (die alarm req v : Nat) (s : State) : Res :=
  .next (s.onKey (tb die + TB.ALARM_COMMIT) req (fun s =>
    let k := alarmK die alarm
    let x := s.rdDt (k + TB.ALARM_T0)
    if v.testBit 0 = false ∨ 16 ≤ alarm ∨ dtValid x = false then s
    else s.setAlarm die alarm
      { armed := s.bit (k + TB.ALARM_CTL) 0
        val := dtUnpack x
        per := s.rdN (k + TB.ALARM_PER)
        ctl := s.fld (k + TB.ALARM_CTL) 2 0
        late := decide (dtUnpack x ≤ s.stamp die) }))

/-- ALARM_FIRE (R71): device time has reached an enabled alarm. -/
def execAlarmFire (die alarm : Nat) (s : State) : Res :=
  .next (if s.present die ∧ alarm < 16 ∧ (s.alarm die alarm).armed ∧ (s.alarm die alarm).val ≤ s.stamp die then
    s.fireAlarm die alarm false else s)

/-- Every armed alarm that a forward step crosses fires with STEPPED (R72). -/
def State.stepAlarms (s : State) (old : Nat → Nat) : State :=
  forEach s.dies s (fun s d => forEach (List.range 16) s (fun s a =>
    let v := s.alarm d a
    if v.armed ∧ old d < v.val ∧ v.val ≤ s.stamp d then s.fireAlarm d a true else s))

/-- The distance of a step. -/
def StepBy.delta : StepBy → Int
  | .load d => d
  | .add d => d

/-- A step that waits, after another of `delta` has been applied: a load still leads to its time (R61). -/
def StepBy.after (delta : Int) : StepBy → StepBy
  | .load d => .load (d - delta)
  | .add d => .add d

/-- An activation time on the scale after a step. -/
def rebase (delta : Int) (a : Nat) : Nat := ((a : Int) + delta).toNat

/-- Package time after a step of `delta`: what still waits was issued after it (log entry 86), so its activation time moves with it. -/
def TimeS.stepped (t : TimeS) (delta : Int) : TimeS :=
  { t with
    steps := t.steps + 1
    pendRate := t.pendRate.map (fun e => (rebase delta e.1, e.2))
    pendStep := t.pendStep.map (fun e => (rebase delta e.1, e.2.after delta)) }

/-- A step of device time applied on all dies that the lead reaches (R65): counters move, alarms crossed fire, a second skipped gets no
PPS_OUT pulse (R68), and in FREE and HOST mode a SET load ends UNSYNC (R70). -/
def State.applyStep (s : State) (delta : Int) : State :=
  let old := fun d => s.stamp d
  let s1 := forEach s.timeDies s (fun s d => s.setTime d { s.timeOf d with now := (((s.now d : Nat) : Int) + delta).toNat })
  let s2 := s1.setTm { s1.tm.stepped delta with
    ppsLastSec := if s1.stamp s1.lead / sec16 ≠ old s1.lead / sec16 then some (s1.stamp s1.lead / sec16) else s1.tm.ppsLastSec }
  let s3 := if s.timeSrc = 0 ∨ s.timeSrc = 2 then s2.stAll 2 s.tm.clkLost else s2
  s3.stepAlarms old

/-- A new source is selected, or the lead passes to a steward with another SRC: the servo starts anew, holdover and lock end (R60, R67,
R69, R81). The rate word stays the last source's until a RATE commit or a servo sets one (log entry 89). -/
def State.sourceChanged (s : State) : State :=
  let s1 := ((s.leaveHoldover).stAll 0 false).stAll 4 false
  s1.setTm { s1.tm with
    srcAt := s.cycle
    ppsStarted := false
    ppsSeconds := none
    lastAccepted := none
    goodRun := 0
    outlierRun := 0
    integ := 0
    dealStarted := false
    dealSum := 0
    dealGood := 0
    dealBadRun := 0
    lastDeal := none
    upUnsync := false
    upHoldover := false }

/-! ## Deals (R73-R82) -/

/-- The trim of R80 in rate-word units for an offset and the sum of offsets in units of 2^-16 ns. -/
def dealTrim (kp ki intervalUs : Nat) (ofs sum : Int) : Int :=
  roundDiv (ofs * 2 ^ (64 - kp) + sum * 2 ^ (64 - ki)) (intervalUs * 1000 * 2 ^ 40)

/-- An accepted deal disciplines the worker (R70, R79-R81): it steps, slews after a return, or sets its trim. Every accepted deal counts
towards lock or its loss. A deal above STEP_THRESH steps at once while the slew of R70 still runs, and the slew runs on (log entry 90). -/
def State.dealServo (s : State) (ofs rateAdj : Int) : State :=
  let b := tb s.lead
  let returned := s.bit (b + TB.STATUS) 3
  let step := if returned ∧ s.tm.dealStarted then decide (1000000 * 65536 < ofs.natAbs)
    else s.tm.dealStarted = false || decide (s.rdN (b + TB.STEP_THRESH) * 65536 < ofs.natAbs)
  let near := decide (ofs.natAbs < 2 * 65536)
  let good := if near then s.tm.dealGood + 1 else 0
  let bad := if near then 0 else s.tm.dealBadRun + 1
  let s0 := (s.stAll 4 false).leaveHoldover
  let tm := { s0.tm with dealGood := good, dealBadRun := bad }
  let s1 :=
    if step then (s0.setTm { tm with dealStarted := true }).issueStep (.add (ofs * 2 ^ 24))
    else if returned then (s0.setTm tm).startSlew (ofs * 2 ^ 24)
    else
      let sum := s.tm.dealSum + ofs
      let trim := dealTrim (s.fld (b + TB.SERVO) 4 0) (s.fld (b + TB.SERVO) 12 8) (s.rdN (b + TB.DEAL_INTERVAL)) ofs sum
      (s0.setTm { tm with dealSum := sum }).issueRate (.source (rateAdj + trim))
  if 16 ≤ good then s1.lockTime
  else if 4 ≤ bad then s1.stAll 0 false
  else if s.bit (b + TB.STATUS) 0 then s1.stAll 2 (s.tm.clkLost || s.tm.upUnsync) else s1

/-- What a deal does that arrives on a port (R73, R74, R80-R82). -/
def State.takeDeal (s : State) (port tArr time hopDelay : Nat) (rateAdj : Int) (seq hops domain : Nat) (unsync holdover : Bool) : State :=
  let b := tb s.lead
  if s.bit (b + TB.HIER_CTL) 15 = false then s
  else if port ≠ s.fld (b + TB.HIER_CTL) 14 8 then s.incW (b + TB.DEAL_FOREIGN)
  else if domain ≠ s.fld (b + TB.HIER_CTL) 31 24 then s.incW (b + TB.DEAL_BAD)
  else if 3 ≤ hops then (s.incW (b + TB.DEAL_BAD)).putBit (b + TB.STATUS) 7 true
  else if s.tm.dealLastSeq = some seq ∨ s.tm.pendStep ≠ [] then s
  else
    let ofs : Int := (time : Int) + hopDelay - tArr
    let s1 := (((s.incW (b + TB.DEAL_RX)).wrN (b + TB.HOP_DELAY) hopDelay).wrI (b + TB.DEAL_OFS) ofs).wrFld
      (b + TB.HIER_CTL) 7 6 (hops + 1)
    let s2 := s1.setTm { s1.tm with
      dealLastSeq := some seq
      lastDeal := some s.cycle
      upUnsync := unsync
      upHoldover := holdover
      dealRate := rateAdj }
    let s3 := if unsync then s2.stAll 2 true else s2
    if s.timeSrc = 3 then s3.dealServo ofs rateAdj else s3

/-- DEAL_TIMEOUT (R81): deals have stopped for 8 deal intervals: the worker leaves LOCKED and enters holdover. -/
def execDealTimeout (s : State) : Res :=
  .next (if s.timeSrc = 3 ∧ usec (8 * s.rdN (tb s.lead + TB.DEAL_INTERVAL)) ≤ s.sinceSource s.tm.lastDeal then
    (s.stAll 4 true).enterHoldover else s)

/-! ## Clock loss (R47) -/

/-- CLOCK_LOSS (R47): REFCLK has shown no edge for `absent` ns, at least 1 µs. FAULT_N asserts, the clock-loss interrupt rises on every die, later stamps
carry TIME_UNSYNC, and a HEALTH record is written (R604). In the clock-loss state it is an interruption of REFCLK. -/
def execClockLoss (absent : Nat) (s : State) : Res :=
  let s1 := s.setTm { s.tm with clkLost := true, clkLostAt := s.cycle }
  .next (if absent < 1000 then s
    else if s.tm.clkLost then s1
    else ((forEach s.dies s1 (fun s d => s.setBit (tb d + TB.STATUS) 2)).faultN 1 true).health s.lead 0x41 2 0x09 0 0 0)

/-- CLOCK_RESTORE (R47): REFCLK has been present for `present` FCLK cycles without interruption; after 10 ms the clock-loss state ends.
TIME_UNSYNC stays until time is reacquired (R70). -/
def execClockRestore (present : Nat) (s : State) : Res :=
  .next (if s.tm.clkLost ∧ msec 10 ≤ present ∧ s.tm.clkLostAt + present ≤ s.cycle then
    (s.setTm { s.tm with clkLost := false }).faultN 1 false else s)

end Sys2Proof.Machine
end

