-- ==== Sys2Proof/Machine/LinkProto.lean ====
section
/-! DEFINITION. The commands of the Jezon Link's blocks, packets and back-channel (R142-R193). -/
namespace Sys2Proof.Machine
set_option Elab.async false

/-! ## Blocks and markers (R142-R150, R732) -/

/-- The pattern of a marker block (R147). -/
def markerPattern : List Byte :=
  let h : List Byte := [0x1E#8, 0xE1#8, 0x5A#8, 0xA5#8, 0x3C#8, 0xC3#8, 0x69#8, 0x96#8]
  h ++ h

/-- A block that is a valid marker: its corrected bytes and the bytes corrected (R148). -/
def markerOf (block : List Byte) : Option (List Byte × Nat) :=
  match rsDecode block with
  | some (b, n) => if b.take 16 = markerPattern then some (b, n) else none
  | none => none

/-- An arrival instant (2^-40 ns) rounded to the nearest step of 1/64 symbol of the class (R171). -/
def markerStamp (cls t40 : Nat) : Nat :=
  let k := clsMul cls
  (roundDiv (roundDiv ((t40 * 896 : Nat) : Int) (k * 2 ^ 40) * ((k * 2 ^ 40 : Nat) : Int)) 896).toNat

/-- The arrival stamp (2^-16 ns) of byte `j` of the next block by the superframe arithmetic (R216). -/
def State.byteStamp (s : State) (p j : Nat) : Nat :=
  let v := s.port p
  match v.marks with
  | [] => s.stamp (p / 32)
  | (_, t) :: _ =>
    let n := (v.missRun * 257 + v.pos + 1) * 512 + 4 * j
    (roundDiv ((t * 14 + n * clsMul (s.lpRate p) * 2 ^ 40 : Nat) : Int) (14 * 2 ^ 24)).toNat

/-- A valid marker taken: SFC, TIME_OK, its stamp among the last 8, and a new superframe. -/
def State.takeMarker (s : State) (p t40 : Nat) (b : List Byte) (corr : Nat) : State :=
  let sfc := leAt b 16 2
  let stamp := markerStamp (s.lpRate p) t40
  s |>.addSat (lp p + LP.RS_CORR) corr |>.wrFld (lp p + LP.BLK_STATUS) 31 16 sfc
    |>.putBit (lp p + LP.BLK_STATUS) 1 ((leAt b 18 1).testBit 0)
    |>.updPort p (fun v => { v with
      marks := (sfc, stamp) :: v.marks.take 7
      pos := 0
      missRun := 0
      uncorr := 0 })

/-- Block lock is lost (R149). -/
def State.loseLock (s : State) (p : Nat) : State := (s.blkEvent p 0).goRetrain p

/-- MARK_MISS (R148, R149, R732): a marker position without a valid marker; `bad` where its block was uncorrectable. -/
def State.markMiss (s : State) (p : Nat) (bad : Bool) : State :=
  let n := (s.port p).missRun + 1
  let s1 := s |>.inc (lp p + LP.MARK_MISS) |>.addSat (lp p + LP.RS_UNCORR) (b2n bad)
    |>.updPort p (fun v => { v with missRun := n, pos := 0, uncorr := b2n bad })
  if s.afld (lp p + LP.LOCK_CFG) 3 0 ≤ n then s1.loseLock p else s1

/-- BLOCK_LOCK (R148): after idle the first valid marker locks; else the port enters RUN. -/
def State.blockLock (s : State) (p : Nat) : State :=
  if s.lpRun p then
    s |>.clrBit (lp p + LP.STATUS) 3 |>.clrBit (lp p + LP.DLY_STAT) 1 |>.inc (lp p + LP.IDLE_EXIT)
      |>.updPort p (fun v => { v with relock := false })
  else (s.setPState p 8).enterRun p (s.lpState p == 7)

/-- The bytes of a block as received: its level indices through the decoder of R96 where precoding is active, and R143. -/
def State.rxBlock (s : State) (p : Nat) (lvls : List Nat) : List Byte :=
  blockBytes (unprecode (s.bit (lp p + LP.STATE) 10) (s.port p).lastIdx lvls)

/-- The receiver after a block: its loops (R98, R101, R102) and the last decision (R96). -/
def State.rxLoops (s : State) (p : Nat) (lvls : List Nat) (ad : Adapt) : State :=
  (s.adapt p ad).updPort p (fun v => { v with lastIdx := lvls.getLast?.getD v.lastIdx })

/-- MARKER_RX (R148, R171): the 512 level indices of a block at a marker position, its first symbol `frac` units of 2^-40 ns after the
present cycle, as symbol number `sym` of the forward channel. In ALIGN the second valid marker 131,584 symbols after the first locks; in
RUN a block without the pattern is a missed marker. -/
def execMarkerRx (port sym frac : Nat) (lvls : List Nat) (ad : Adapt) (s : State) : Res :=
  let t := s.now (port / 32) + frac
  let v := s.port port
  let aligning := s.lpState port == 7 || (s.lpState port == 9 && v.retrainStep == 2)
  let block := s.rxBlock port lvls
  let due := s.lpRun port && !s.bit (lp port + LP.STATUS) 3 && v.pos == 256
  .next (if s.portOk port = false ∨ s.lpRole port = 2 then s
    else match markerOf block with
      | some (b, n) =>
        let s1 := s.rxLoops port lvls ad
        if aligning then
          if v.markSym.any (fun m => m + 131584 == sym) then (s1.blockLock port).takeMarker port t b n
          else (s1.takeMarker port t b n).updPort port (fun v => { v with markSym := some sym })
        else if s.lpRun port ∧ v.relock then (s1.blockLock port).takeMarker port t b n
        else if due then s1.takeMarker port t b n
        else s
      | none => if due then (s.rxLoops port lvls ad).markMiss port (rsDecode block).isNone else s)

/-- Payload bytes of a DATA block put into the packet byte stream (R145). -/
def State.takeData (s : State) (p : Nat) (b : List Byte) (bad : Bool) : State :=
  let h := leAt b 0 2
  let n := Nat.min 118 (nbits h 15 9)
  let ptr := nbits h 8 2
  let new := (List.range n).map (fun i =>
    ({ val := (b.drop (2 + i)).headD 0#8, time := s.byteStamp p (2 + i), bad := bad, start := i == ptr, steps := s.tm.steps } : StreamByte))
  s.updPort p (fun v => { v with stream := v.stream ++ new })

/-- Forward messages of a CTRL payload and how many were bad (R167). -/
def ctrlMsgs : Nat → List Byte → List (Nat × List Byte) × Nat
  | 0, _ => ([], 0)
  | _ + 1, [] => ([], 0)
  | n + 1, t :: rest =>
    if t.toNat = 0 then ([], 0)
    else match rest with
      | [] => ([], 1)
      | len :: body =>
        if body.length < len.toNat then ([], 1)
        else
          let r := ctrlMsgs n (body.drop len.toNat)
          if t.toNat = 0x81 ∨ t.toNat = 0x82 ∨ t.toNat = 0x83 ∨ t.toNat = 0xA0 ∨ t.toNat = 0xC0 ∨ 0xE0 ≤ t.toNat then
            ((t.toNat, body.take len.toNat) :: r.1, r.2)
          else (r.1, r.2 + 1)

/-- IDLE_ENTRY_RX (R126, R128): the forward channel goes idle; CDR, CTLE, DFE and the delay measurement hold. -/
def State.idleEntry (s : State) (p : Nat) : State :=
  s |>.setBit (lp p + LP.STATUS) 3 |>.clrBit (lp p + LP.STATUS) 0 |>.setBit (lp p + LP.DLY_STAT) 1
    |>.updPort p (fun v => { v with idleAt := s.cycle, sigLostAt := s.cycle, relock := false })

/-- A decoded block that is no marker (R144-R146). -/
def State.takeBlock (s : State) (p : Nat) (b : List Byte) (corr : Nat) : State :=
  let h := leAt b 0 2
  let s1 := s.addSat (lp p + LP.RS_CORR) corr
  let typ := h % 4
  if typ = 0 then s1.takeData p b false
  else if typ = 1 then
    let r := ctrlMsgs 118 (slice b 2 (Nat.min 118 (nbits h 15 9)))
    (s1.addSat (lp p + LP.CTRL_BAD) r.2).updPort p (fun v => { v with ctrlq := v.ctrlq ++ r.1 })
  else if typ = 3 then s1.idleEntry p
  else s1

/-- An uncorrectable block outside a marker position (R732). -/
def State.takeBad (s : State) (p : Nat) (b : List Byte) : State :=
  let h := leAt b 0 2
  let v := nbits h 15 9
  let ptr := nbits h 8 2
  let s1 := s.inc (lp p + LP.RS_UNCORR)
  if h % 4 = 0 ∧ 1 ≤ v ∧ v ≤ 118 ∧ (ptr ≤ 117 ∨ ptr = 0x7F) then s1.takeData p b true else s1.endPacket p true

/-- FORWARD_BLOCK_RX (R142-R149): the 512 level indices of the next block of the superframe of a port in RUN, its first symbol `frac` units
of 2^-40 ns after the present cycle. After 256 blocks the position is a marker's. -/
def execForwardBlockRx (port frac : Nat) (lvls : List Nat) (ad : Adapt) (s : State) : Res :=
  let v := s.port port
  let block := s.rxBlock port lvls
  .next (if s.portOk port = false ∨ s.lpRole port = 2 ∨ s.lpRun port = false ∨ s.bit (lp port + LP.STATUS) 3 = true then s
    else
      let s0 := s.rxLoops port lvls ad
      if v.pos = 256 then
        match markerOf block with
        | some (b, n) => s0.takeMarker port (s.now (port / 32) + frac) b n
        | none => s0.markMiss port (rsDecode block).isNone
      else
        match rsDecode block with
        | some (b, n) => (s0.takeBlock port b n).updPort port (fun v => { v with pos := v.pos + 1 })
        | none =>
          let s1 := (s0.takeBad port block).updPort port (fun v => { v with pos := v.pos + 1, uncorr := v.uncorr + 1 })
          if s.afld (lp port + LP.LOCK_CFG) 15 8 < v.uncorr + 1 then s1.loseLock port else s1)

/-- PACKET_RX (R151-R161): the byte stream is parsed as far as it goes, and its packets' words are written to the landing FIFO. -/
def execPacketRx (port : Nat) (s : State) : Res :=
  .next (if s.portOk port then s.parseAll port ((s.port port).stream.length + 1) else s)

/-! ## Forward messages (R167-R189) -/

/-- The oldest waiting forward message whose type satisfies `f` taken. -/
def State.takeMsg (s : State) (p : Nat) (f : Nat → Bool) : Option ((Nat × List Byte) × State) :=
  let q := (s.port p).ctrlq
  match q.findIdx? (fun m => f m.1) with
  | some i => some (q.getD i (0, []), s.updPort p (fun v => { v with ctrlq := eraseAt q i }))
  | none => none

/-- The raw cable delay (R171) in units of 2^-16 ns: times in 2^-40 ns, `n` symbols from the marker, TA in 1/64 symbol. -/
def rawDelay (cls stamp t1 n ta : Nat) (asym : Int) : Int :=
  let k := clsMul cls
  roundDiv (((stamp : Int) - t1) * 896 + ((n : Int) * 64 - ta) * ((k * 2 ^ 40 : Nat) : Int) - asym * 2 ^ 24 * 896) (1792 * 2 ^ 24)

/-- An accepted raw delay enters the filter (R173). -/
def State.acceptDelay (s : State) (p : Nat) (d : Int) : State :=
  let v := s.port p
  let all := v.raws ++ [d]
  let raws := all.drop (all.length - 64)
  let valid := s.bit (lp p + LP.DLY_STAT) 0
  let s1 := s |>.setPort p { v with raws := raws } |>.wrI (lp p + LP.DLY_RAW) d
    |>.wrI (lp p + LP.DLY_FILT) (roundDiv raws.sum raws.length) |>.wrFld (lp p + LP.DLY_STAT) 15 8 raws.length
  if valid = false ∧ 16 ≤ raws.length then (s1.setBit (lp p + LP.DLY_STAT) 0).blkEvent p 2 else s1

/-- DLY_ECHO_RX (R171-R174): the echo of a marker gives a raw delay, or is discarded and counted in DLY_LOST. -/
def execDlyEchoRx (port : Nat) (s : State) : Res :=
  .next (match s.takeMsg port (· == 0x81) with
    | none => s
    | some ((_, m), s1) =>
      let v := s1.port port
      let id := leAt m 0 1
      let lost := s1.inc (lp port + LP.DLY_LOST)
      match v.markers.find? (fun e => e.1 == id && decide (s.cycle ≤ e.2.2 + usec 100)) with
      | none => lost
      | some (_, t1, _) =>
        let drop := fun (s : State) => s.updPort port (fun v => { v with markers := v.markers.filter (fun e => e.1 != id) })
        match v.marks.find? (fun e => e.1 == leAt m 1 2) with
        | none => drop lost
        | some (_, stamp) =>
          let ta := if s.lpRole port = 1 then 8960 else s.rdN (lp port + LP.DLY_TA)
          let d := rawDelay (s.lpRate port) stamp t1 (leAt m 3 2 * 512 + leAt m 5 2) ta (s.rdI (lp port + LP.DLY_ASYM))
          let far := (d - s.rdI (lp port + LP.DLY_FILT)).natAbs * 14
          if s.bit (lp port + LP.DLY_STAT) 0 ∧ clsMul (s.lpRate port) * 65536 < far then drop lost
          else (drop s1).acceptDelay port d)

/-- HEAD_CAPS_RX (R167-R169). -/
def execHeadCapsRx (port : Nat) (s : State) : Res :=
  .next (match s.takeMsg port (· == 0x82) with
    | none => s
    | some ((_, m), s1) =>
      let s2 := forEach (List.range 4) s1 (fun s i => s.wrN (lp port + LP.CAPS + 4 * i) (leAt m (4 * i) 4))
      s2 |>.wrN (lp port + LP.DLY_TA) (leAt m 5 3) |>.rxPut port 0x82 m false |>.blkEvent port 3
        |>.updPort port (fun v => { v with capsValid := true, queryDue := false }))

/-- The lost-pulse count of R179 on a report whose counters sum to `got` after the beacon `seq`. -/
def State.lostPulses (s : State) (p seq got : Nat) : State :=
  let v := s.port p
  match v.beaconSent.find? (fun e => e.1 == seq) with
  | none => s
  | some (_, sent) =>
    let d := unsignedOf 16 ((sent : Int) - got)
    let s1 := s.setPort p { v with dLast := some d }
    match v.dLast with
    | none => s1
    | some d0 =>
      let g := unsignedOf 16 ((d : Int) - d0)
      if 1 ≤ g ∧ g ≤ 32767 then (s1.addSat (lp p + LP.PULSE_LOST) g).blkEvent p 5 else s1

/-- The back-channel messages that a head reports as discarded (R163, R168) count in BCH_CRC_ERR, the first report after an entry to RUN
apart (log entry 98). -/
def State.headDiscards (s : State) (p n : Nat) : State :=
  let s1 := match (s.port p).headCrc with
    | some m => s.addSat (lp p + LP.BCH_CRC_ERR) (unsignedOf 16 ((n : Int) - m))
    | none => s
  s1.updPort p (fun v => { v with headCrc := some n })

/-- HEAD_REPORT_RX (R176, R179, R192). -/
def execHeadReportRx (port : Nat) (s : State) : Res :=
  .next (match s.takeMsg port (· == 0x83) with
    | none => s
    | some ((_, m), s1) =>
      let ok := (leAt m 0 1).testBit 0
      let s2 := forEach (List.range 3) s1 (fun s i => s.wrN (lp port + LP.REPORT + 4 * i) (leAt m (4 * i) 4))
      let s3 := if (s.port port).headTimeOk && !ok then s2.blkEvent port 4 else s2
      (((s3.headDiscards port (leAt m 8 2)).updPort port (fun v => { v with headTimeOk := ok })).lostPulses port (leAt m 1 1)
        (leAt m 2 2 + leAt m 4 2 + leAt m 6 2)))

/-- BUS_RESULT_RX (R183): an outstanding ID is freed and its result queued; another counts as BUS_STRAY. -/
def execBusResultRx (port : Nat) (s : State) : Res :=
  .next (match s.takeMsg port (· == 0xA0) with
    | none => s
    | some ((_, m), s1) =>
      let id := leAt m 0 1
      if (s.port port).outst.any (fun e => e.1 == id) then
        ((s1.updPort port (fun v => { v with outst := v.outst.filter (fun e => e.1 != id) })).busOutst port).rxPut
          port 0xA0 m false
      else s1.inc (lp port + LP.BUS_STRAY))

/-- VENDOR_RX (R167): copied to the RX queue. -/
def execVendorRx (port : Nat) (s : State) : Res :=
  .next (match s.takeMsg port (fun t => decide (0xE0 ≤ t)) with
    | none => s
    | some ((t, m), s1) => s1.rxPut port t m false)

/-! ## Back-channel (R162-R166, R169-R175, R185) -/

/-- A message starts on the back-channel (R162); it is busy until BCH_MSG_SEND. -/
def State.bchSend (s : State) (p typ : Nat) (payload : List Byte) : State :=
  let r := encodeAll (s.port p).bchPos (msgChars typ payload)
  (s.updPort p (fun v => { v with bchBusy := true, bchPos := r.2 })).emit .bch p r.1

/-- BEACON stamped at its timing point (R165, R166, R175). -/
def State.sendBeacon (s : State) (p : Nat) : State :=
  let v := s.port p
  let flags := b2n (s.bit (tb (p / 32) + TB.STATUS) 2) + 2 * b2n (s.bit (lp p + LP.DLY_STAT) 0)
  (s.setPort p { v with
      beaconDue := false
      beaconSeq := (v.beaconSeq + 1) % 256
      beaconSent := (v.beaconSeq, v.sent) :: v.beaconSent.take 255 }).bchSend p 0x01
    (leBytes (dtPack (s.stamp (p / 32))) 12 ++ leBytes (s.rdN (lp p + LP.DLY_FILT)) 4 ++ leBytes v.beaconSeq 1 ++ leBytes flags 1)

/-- DEAL stamped at its timing point (R78, R79). The spec gives TAI_VALID no rule, so it is free. -/
def State.sendDeal (s : State) (p : Nat) : State :=
  let v := s.port p
  let b := tb s.lead
  let hops := s.fld (b + TB.HIER_CTL) 7 6
  let flags := hops + b2n (Config.freeBool s.free) * 16 + b2n (s.bit (b + TB.STATUS) 2 || s.tm.upUnsync) * 32 +
    b2n (s.bit (b + TB.STATUS) 3 || s.tm.upHoldover) * 64
  ((s.setPort p { v with dealDue := false, dealSeq := (v.dealSeq + 1) % 65536 }).skipFree 1).bchSend p 0x03
    (leBytes (dtPack (s.stamp (p / 32))) 12 ++ leBytes (s.rdN (lp p + LP.DLY_FILT)) 4 ++
      leBytes (s.rdN (tb (p / 32) + TB.RATE_ADJ)) 4 ++ leBytes v.dealSeq 2 ++ leBytes flags 1 ++
      leBytes (s.fld (b + TB.HIER_CTL) 31 24) 1)

/-- DLY_MARK; t1 is its timing point (R166, R170). -/
def State.sendMark (s : State) (p : Nat) : State :=
  let v := s.port p
  (s.setPort p { v with
      markDue := false
      markId := (v.markId + 1) % 256
      markers := (v.markers.filter (fun e => e.1 != v.markId)) ++ [(v.markId, s.now (p / 32), s.cycle)] }).bchSend p 0x02
    (leBytes v.markId 1)

/-- A message of the firmware queue starts: a TIMED_PULSE is counted (R179), a BUS_XFER becomes outstanding (R183). -/
def State.sendTx (s : State) (p : Nat) (m : List Byte) (rest : List (List Byte)) : State :=
  let typ := leAt m 0 1
  let pay := m.drop 2
  let s1 := (s.updPort p (fun v => { v with txq := rest })).wrFld (lp p + LP.TX_STAT) 3 0 (8 - rest.length)
  let s2 :=
    if typ = 0x10 then s1.updPort p (fun v => { v with sent := (v.sent + 1) % 65536 })
    else if typ = 0x20 then
      (s1.updPort p (fun v => { v with outst := v.outst ++ [(leAt pay 1 1, leAt pay 0 1 % 4, s.cycle)] })).busOutst p
    else s1
  s2.bchSend p typ pay

/-- Whether the head of the firmware queue may start (R169, R183): a TIMED_PULSE or BUS_XFER needs HEAD_CAPS, a BUS_XFER room
in its bus queue of BUS_QDEPTH. -/
def State.txReady (s : State) (p : Nat) (m : List Byte) : Bool :=
  let v := s.port p
  let typ := leAt m 0 1
  if typ = 0x10 then v.capsValid
  else if typ = 0x20 then
    v.capsValid && decide ((v.outst.filter (fun e => e.2.1 == leAt m 2 1 % 4)).length < s.fld (lp p + LP.CAPS) 31 24)
  else true

/-- A stream's page of scheduler counters (R251). -/
abbrev skc (st : Nat) : Nat := tb (st / 128) + 0x20 * (st % 128)

/-- Pulses of a port whose deadline lies before `lim` and that have not started to leave it: withdrawn unsent and counted (R238). -/
def State.withdraw (s : State) (p lim : Nat) : State :=
  let late := fun (m : SchedMsg) => m.pulse && decide (m.deadline < lim)
  let gone := (s.port p).pulseq.filter late
  if gone = [] then s
  else
    (forEach gone (s.updPort p (fun v => { v with pulseq := v.pulseq.filter (fun m => !late m) }))
      (fun s m => s.inc (skc m.stream + TB.LAUNCH_LATE))).setBit (tb (p / 32) + TB.SCHED_EVENTS) 2

/-- The highest-precedence ready message starts, if the back-channel is free and the port in RUN (R166, R169, R185); outside RUN the next
training set does (R108). A pulse past its deadline does not start (R238). A port in the up role has no back-channel to send on (R137). -/
def State.bchStart (s0 : State) (p : Nat) : State :=
  let s := s0.withdraw p (s0.stamp (p / 32))
  let v := s.port p
  if v.bchBusy || s.lpRole p == 2 then s
  else if !s.lpRun p then s.nextSet p
  else if v.clearDue then (s.setPort p { v with clearDue := false }).bchSend p 0x21 [0x8F#8]
  else if 0 < v.setsOwed then (s.setPort p { v with setsOwed := v.setsOwed - 1 }).sendSet p
  else if v.beaconDue then s.sendBeacon p
  else if v.dealDue then s.sendDeal p
  else if v.markDue && v.capsValid then s.sendMark p
  else match v.pulseq.findIdx? (fun m => !m.pulse || v.capsValid) with
    | some i =>
      let m := v.pulseq.getD i { bytes := [] }
      (s.setPort p { v with
          pulseq := eraseAt v.pulseq i
          sent := if m.pulse then (v.sent + 1) % 65536 else v.sent }).bchSend p (if m.pulse then 0x10 else 0x11) m.bytes
    | none =>
      if v.queryDue then (s.setPort p { v with queryDue := false }).bchSend p 0x30 []
      else match v.txq with
        | m :: rest => if s.txReady p m then s.sendTx p m rest else s
        | [] => match v.gwq with
          | m :: rest => (s.setPort p { v with gwq := rest }).bchSend p 0x40 m
          | [] => s

/-- An idle pair K28.5, D16.2 where nothing is being sent in RUN (R162). -/
def State.idlePair (s : State) (p : Nat) : State :=
  let v := s.port p
  let r := encodeAll v.bchPos [charK28_5, charD16_2]
  if v.bchBusy || !s.lpRun p then s else (s.setPort p { v with bchPos := r.2 }).emit .bch p r.1

/-- How many messages fit `room` payload bytes of one CTRL block (R167). -/
def fitMsgs : Nat → List (Nat × List Byte) → Nat
  | _, [] => 0
  | room, m :: t => if m.2.length + 2 ≤ room then 1 + fitMsgs (room - (m.2.length + 2)) t else 0

/-- The next block of an up-role port (R146, R147, R186): the marker of a superframe, with TIME_OK free; else a CTRL block with the forward
messages that wait, those of the port first, then the TX queue's and the gateway's in RUN; else FILL. -/
def State.sendBlock (s : State) (p : Nat) : State :=
  let v := s.port p
  let send := fun (s : State) (b : List Byte) =>
    s.fwdSend p (precode (s.bit (lp p + LP.STATE) 10) v.txIdx (blockSymbols (rsEncode b)))
  if v.txPos = 0 then
    send ((s.setPort p { v with txPos := 1 }).skipFree 1)
      (markerPattern ++ leBytes v.txSfc 2 ++ [BitVec.ofNat 8 (b2n (Config.freeBool s.free))])
  else
    let own := if s.lpRun p then v.txq else []
    let gw := if s.lpRun p then v.gwq else []
    let all := v.fwdq ++ own.map (fun m => (leAt m 0 1, m.drop 2)) ++ gw.map (fun m => (0xC0, m))
    let n := fitMsgs 118 all
    let pay := (all.take n).flatMap (fun m => BitVec.ofNat 8 m.1 :: BitVec.ofNat 8 m.2.length :: m.2)
    let txq := v.txq.drop (n - v.fwdq.length)
    let s1 := s.setPort p { v with
      txPos := if v.txPos = 256 then 0 else v.txPos + 1
      txSfc := if v.txPos = 256 then (v.txSfc + 1) % 65536 else v.txSfc
      fwdq := v.fwdq.drop n
      txq := txq
      gwq := v.gwq.drop (n - v.fwdq.length - own.length) }
    send (if 0 < n then s1.wrFld (lp p + LP.TX_STAT) 3 0 (8 - txq.length) else s1)
      (leBytes (pay.length * 512 + 0x7F * 4 + (if 0 < n then 1 else 2)) 2 ++ pay)

/-- BCH_MSG_SEND (R108, R121, R162, R166): the channel becomes free; the next set or message starts, else an idle pair. With the last WAKE
set of a rate change the back-channel moves to the new rate and training starts from WAKE. On an up-role port it is the forward channel
that becomes free, for its next block. -/
def execBchMsgSend (port : Nat) (s : State) : Res :=
  .next (if s.portOk port = false then s
    else if s.lpRole port = 2 then
      (if 7 ≤ s.lpState port ∧ s.lpState port ≤ 9 then s.sendBlock port else s)
    else
      let s1 := s.updPort port (fun v => { v with bchBusy := false })
      if (s.port port).rateSets = some 0 then s1.goWake port else (s1.bchStart port).idlePair port)

/-- BEACON_TX (R175): a new millisecond of device time makes a beacon due on a camera port in RUN. -/
def execBeaconTx (port : Nat) (s : State) : Res :=
  let ms := s.stamp (port / 32) / (65536 * 1000000)
  .next (if s.portOk port = true ∧ s.lpRun port = true ∧ s.lpRole port = 0 ∧ (s.port port).lastBeacon ≠ ms then
    (s.updPort port (fun v => { v with beaconDue := true, lastBeacon := ms })).bchStart port else s)

/-- DEAL_TX (R73, R78): every DEAL_INTERVAL a down-role port in RUN sends a deal; a package at depth 3 sends none. -/
def execDealTx (port : Nat) (s : State) : Res :=
  .next (if s.portOk port = true ∧ s.lpRun port = true ∧ s.lpRole port = 1 ∧ s.fld (tb s.lead + TB.HIER_CTL) 7 6 ≠ 3 ∧
      (s.port port).lastDeal + usec (s.rdN (tb s.lead + TB.DEAL_INTERVAL)) ≤ s.cycle then
    (s.updPort port (fun v => { v with dealDue := true, lastDeal := s.cycle })).bchStart port else s)

/-- DLY_MARK_TX (R169, R170): every INTERVAL µs in RUN outside forward idle, unless DIS is set. -/
def execDlyMarkTx (port : Nat) (s : State) : Res :=
  let k := lp port
  .next (if s.portOk port = true ∧ s.lpRun port = true ∧ s.lpRole port ≠ 2 ∧ s.bit (k + LP.STATUS) 3 = false ∧
      s.bit (k + LP.DLY_CTL) 31 = false ∧ (s.port port).capsValid = true ∧
      (s.port port).lastMark + usec (Nat.max 1 (s.fld (k + LP.DLY_CTL) 9 0)) ≤ s.cycle then
    (s.updPort port (fun v => { v with markDue := true, lastMark := s.cycle })).bchStart port else s)

/-- DLY_MARK_TIMEOUT (R172): a marker without an echo for 100 µs is lost. -/
def execDlyMarkTimeout (port markId : Nat) (s : State) : Res :=
  .next (if s.portOk port ∧ (s.port port).markers.any (fun e => e.1 == markId && decide (e.2.2 + usec 100 ≤ s.cycle)) then
    (s.updPort port (fun v => { v with markers := v.markers.filter (fun e => e.1 != markId) })).inc (lp port + LP.DLY_LOST)
  else s)

/-- HEAD_QUERY_TX (R169): no valid HEAD_CAPS 200 µs after RUN began, then every 1 ms. -/
def execHeadQueryTx (port : Nat) (s : State) : Res :=
  .next (if s.portOk port = true ∧ s.lpRun port = true ∧ s.lpRole port ≠ 2 ∧ (s.port port).capsValid = false ∧
      (s.port port).lastQuery ≤ s.cycle then
    (s.updPort port (fun v => { v with queryDue := true, lastQuery := s.cycle + msec 1 })).bchStart port else s)

/-- The LEN that R164 fixes for a type that firmware may send; none for a type it may not send on this port. In the up role the messages are
forward ones, of which only VENDOR is firmware's (R167, R186). -/
def txLen (role typ wlen len : Nat) : Option Nat :=
  if role = 2 then (if 0xE0 ≤ typ then some len else none)
  else if typ = 0x30 then some 0
  else if 0xC0 ≤ typ then some len
  else if role ≠ 0 then none
  else if typ = 0x10 then some 19
  else if typ = 0x11 then some 13
  else if typ = 0x20 then some (17 + wlen)
  else if typ = 0x21 then some 1
  else none

/-- The bytes of TX_BUF. -/
def State.txBuf (s : State) (p : Nat) : List Byte :=
  (List.range 16).flatMap (fun i => leBytes (s.rdN (lp p + LP.TX_BUF + 4 * i)) 4)

/-- TX_GO (R164, R183, R188, R193): the message in TX_BUF is queued, or TX_STAT.LAST names the refusal. -/
def execTxGo (port req v : Nat) (s : State) : Res :=
  .next (s.onKey (lp port + LP.TX_GO) req (fun s =>
    let b := s.txBuf port
    let typ := leAt b 0 1
    let len := leAt b 1 1
    let q := (s.port port).txq
    let last := fun (s : State) n => s.wrFld (lp port + LP.TX_STAT) 18 16 n
    if v.testBit 0 = false then s
    else if s.lpRun port = false then last s 3
    else match txLen (s.lpRole port) typ (leAt b 17 1) len with
      | none => last s 2
      | some n =>
        if 60 < len ∨ len ≠ n then last s 5
        else if typ = 0x20 ∧ (s.port port).outst.any (fun e => e.1 == leAt b 3 1) = true then last s 4
        else if 8 ≤ q.length then last s 1
        else
          let s1 := s |>.updPort port (fun v => { v with txq := q ++ [b.take (2 + len)] })
            |>.wrFld (lp port + LP.TX_STAT) 3 0 (7 - q.length)
          (last s1 0).bchStart port))

/-- BUS_TIMEOUT (R183): BUS_CTL.TIMEOUT ms without a result. -/
def execBusTimeout (port id : Nat) (s : State) : Res :=
  .next (match (s.port port).outst.find? (fun e => e.1 == id) with
    | some (_, bus, t) =>
      if s.portOk port ∧ t + msec (s.fld (lp port + LP.BUS_CTL) 7 0) ≤ s.cycle then
        ((s.synthResult port id bus 0x09).updPort port (fun v => { v with outst := v.outst.filter (fun e => e.1 != id) })).busOutst port
      else s
    | none => s)

/-! ## Up role (R73-R82, R163, R186) -/

/-- DLY_MARK_RX (R77, R186): the echo names the symbol 140 symbols after `sym`, the forward symbol (counted from superframe 0)
at which the marker's timing point arrived. -/
def execDlyMarkRx (port sym : Nat) (groups : List Nat) (s : State) : Res :=
  let n := sym + 140
  .next (match s.bchTake port 0x02 groups with
    | (s1, some m) => s1.updPort port (fun v => { v with
        fwdq := v.fwdq ++ [(0x81, leBytes (leAt m 0 1) 1 ++ leBytes (n / 131584) 2 ++ leBytes (n % 131584 / 512) 2 ++ leBytes (n % 512) 2)] })
    | (s1, none) => s1)

/-- HEAD_QUERY_RX (R169, R186): HEAD_CAPS is sent. -/
def execHeadQueryRx (port : Nat) (groups : List Nat) (s : State) : Res :=
  .next (match s.bchTake port 0x30 groups with
    | (s1, some _) => s1.upCaps port
    | (s1, none) => s1)

/-- DEAL_RX (R73, R74, R78, R80-R82): a deal on another port than UP_PORT is foreign, one of another domain or of HOPS 3 or more is refused,
a repeated SEQ or one that arrives while a step is pending is ignored; an accepted one is servoed on. `tArr` is the arrival stamp of its
timing point. A port of a moored die forwards nothing to the lead. -/
def execDealRx (port tArr : Nat) (groups : List Nat) (s : State) : Res :=
  .next (match s.bchTake port 0x03 groups with
    | (s1, none) => s1
    | (s1, some m) =>
      if s.moored (port / 32) then s1
      else s1.takeDeal port tArr (dtUnpack (leAt m 0 12)) (leAt m 12 4) (signed 32 (leAt m 16 4)) (leAt m 20 2) (leAt m 22 1 % 16)
        (leAt m 23 1) ((leAt m 22 1).testBit 5) ((leAt m 22 1).testBit 6))

/-! ## Reads of the RX queue (R189, R191) -/

/-- RX_POP (R189): the next word is returned and removed; an empty queue returns 0. -/
def execRxPop (port req : Nat) (s : State) : Res :=
  .next (s.onKey (lp port + LP.RX_POP) req (fun s =>
    match (s.port port).rx with
    | [] => s.respond (.data [0#32])
    | w :: rest => s |>.updPort port (fun v => { v with rx := rest }) |>.wrFld (lp port + LP.RX_STAT) 8 0 rest.length
        |>.respond (.data [w])))

/-- RX_STAT_READ (R191): the read clears OVF. -/
def execRxStatRead (port req : Nat) (s : State) : Res :=
  .next (s.onKey (lp port + LP.RX_STAT) req (fun s =>
    (s.clrBit (lp port + LP.RX_STAT) 16).respond (.data [s.rd (lp port + LP.RX_STAT)])))

end Sys2Proof.Machine
end

