-- ==== Sys2Proof/Machine/RawCalc.lean ====
section
/-! DEFINITION. The arithmetic of the raw stage (R255-R286) as functions of lines of values and of the parameters in force.
`g off` is the parameter register at offset `off` of the PL block. Colours are coded R 0, G 1, B 2, I 3, C 4. -/
namespace Sys2Proof.Machine
set_option Elab.async false

/-- The parameter registers of a pipeline by an image of its shadow registers. -/
def plParam (img : Tbl Word) (pipe off : Nat) : Nat := (Tbl.get resetWord img (pl pipe + off)).toNat

/-! ## Packing (R203, R261) -/

/-- Bytes and pixels of a packed group of a data type. -/
def groupOf (dt : Nat) : Nat × Nat :=
  match dt with
  | 0x2A => (1, 1) | 0x2B => (5, 4) | 0x2C => (3, 2) | 0x2D => (7, 4) | 0x2E => (2, 1) | _ => (5, 2)

/-- Whole pixels of a payload (R203). -/
def pixelCount (dt bytes : Nat) : Nat := bytes / (groupOf dt).1 * (groupOf dt).2

/-- The pixels of one complete group (R261). -/
def unpackGroup (dt : Nat) (b : List Nat) : List Nat :=
  let at_ := fun i => b.getD i 0
  match dt with
  | 0x2A => [at_ 0]
  | 0x2B => (List.range 4).map (fun k => at_ k * 4 + at_ 4 / 2 ^ (2 * k) % 4)
  | 0x2C => (List.range 2).map (fun k => at_ k * 16 + at_ 2 / 2 ^ (4 * k) % 16)
  | 0x2D =>
    let p := at_ 4 + at_ 5 * 256 + at_ 6 * 65536
    (List.range 4).map (fun k => at_ k * 64 + p / 2 ^ (6 * k) % 64)
  | 0x2E => [at_ 0 + at_ 1 * 256]
  | _ => (List.range 2).map (fun k => at_ k * 4096 + at_ (k + 2) * 16 + at_ 4 / 2 ^ (4 * k) % 16)

/-- The groups of a line unpacked; an incomplete last group yields nothing (R262). -/
def unpackGo (dt : Nat) : Nat → List Nat → List Nat
  | 0, _ => []
  | n + 1, b =>
    if b.length < (groupOf dt).1 then []
    else unpackGroup dt (b.take (groupOf dt).1) ++ unpackGo dt n (b.drop (groupOf dt).1)

/-- A packed line unpacked, limited to WIDTH pixels (R209, R261). -/
def unpackLine (dt width : Nat) (bytes : List Byte) : List Nat :=
  (unpackGo dt bytes.length (bytes.map (fun b => b.toNat))).take width

/-! ## Mosaic (R258-R260) -/

/-- A named pattern, position 4 × py + px. -/
def patternTable (code : Nat) : List Nat :=
  match code with
  | 0 => [0, 1, 0, 1, 1, 2, 1, 2, 0, 1, 0, 1, 1, 2, 1, 2]
  | 1 => [0, 1, 0, 1, 3, 2, 3, 2, 0, 1, 0, 1, 3, 2, 3, 2]
  | 2 => [2, 1, 0, 1, 1, 3, 1, 3, 0, 1, 2, 1, 1, 3, 1, 3]
  | 3 => [0, 4, 0, 4, 4, 2, 4, 2, 0, 4, 0, 4, 4, 2, 4, 2]
  | 4 => [0, 4, 0, 4, 4, 1, 4, 1, 0, 4, 0, 4, 4, 1, 4, 1]
  | _ => [0, 1, 0, 1, 4, 2, 4, 2, 0, 1, 0, 1, 4, 2, 4, 2]

/-- The colour at phase position `i`, 4 × py + px. -/
def phaseColour (g : Nat → Nat) (i : Nat) : Nat :=
  if nbits (g PL.RS_CTL) 3 0 = 6 then
    if i < 10 then nbits (g PL.CFA_MAP0) (3 * i + 2) (3 * i) else nbits (g PL.CFA_MAP1) (3 * (i - 10) + 2) (3 * (i - 10))
  else (patternTable (nbits (g PL.RS_CTL) 3 0)).getD i 0

/-- The phase position of pixel (x, y). -/
def phaseAt (g : Nat → Nat) (x y : Nat) : Nat :=
  4 * ((y + nbits (g PL.RS_CTL) 7 6) % 4) + (x + nbits (g PL.RS_CTL) 5 4) % 4

/-- The native colour of pixel (x, y). -/
def nativeColour (g : Nat → Nat) (x y : Nat) : Nat := phaseColour g (phaseAt g x y)

/-- Whether a colour occurs in the active pattern. -/
def hasColour (g : Nat → Nat) (c : Nat) : Bool := (List.range 16).any (fun i => phaseColour g i == c)

/-- The IR site (px, py) mod 2 of the pattern, if it has an IR plane. -/
def irSite (g : Nat → Nat) : Option (Nat × Nat) :=
  match nbits (g PL.RS_CTL) 3 0 with
  | 1 => some (0, 1)
  | 2 => some (1, 1)
  | 5 => some (0, 1)
  | 6 =>
    let px := nbits (g PL.CFA_MAP1) 20 20
    let py := nbits (g PL.CFA_MAP1) 21 21
    if phaseColour g (4 * py + px) = 3 ∨ phaseColour g (4 * py + px) = 4 then some (px, py) else none
  | _ => none

/-- The output colour of (x, y): 0 R, 1 G, 2 B (R260). -/
def outColour (g : Nat → Nat) (x y : Nat) : Nat :=
  let ox := nbits (g PL.RS_CTL) 8 8
  let oy := nbits (g PL.RS_CTL) 9 9
  if (x + ox) % 2 = 0 ∧ (y + oy) % 2 = 0 then 0 else if (x + ox) % 2 = 1 ∧ (y + oy) % 2 = 1 then 2 else 1

/-! ## Decompanding and black level (R263-R265) -/

def max24 : Nat := 2 ^ 24 - 1

/-- L of a pixel value (R263, R264). -/
def decompand (g : Nat → Nat) (u : Nat) : Nat :=
  if nbits (g PL.RS_CTL) 10 10 = 0 then Nat.min max24 (u * 2 ^ nbits (g PL.RS_CTL) 15 12)
  else
    let x := fun k => nbits (g (PL.KNEE_X + 0x10 * k)) 19 0
    let k := ((List.range (nbits (g PL.RS_CTL) 20 16)).filter (fun k => decide (x k ≤ u))).getLastD 0
    Nat.min max24 (nbits (g (PL.KNEE_Y + 0x10 * k)) 23 0 + ((u - x k) * nbits (g (PL.KNEE_M + 0x10 * k)) 23 0 + 128) / 256)

/-- B of a pixel value at (x, y) (R265). -/
def blackLevel (g : Nat → Nat) (x y l : Nat) : Nat := l - nbits (g (PL.BLK + 4 * phaseAt g x y)) 23 0

/-- The B values of a line of pixel values. -/
def bLine (g : Nat → Nat) (y : Nat) (us : List Nat) : List Nat :=
  us.mapIdx (fun x u => blackLevel g x y (decompand g u))

/-! ## Neighbourhoods (R257, R266) -/

/-- The line numbered `y`, if it was received. -/
def rowAt (rows : List Row) (y : Nat) : Option Row := rows.find? (fun r => r.y == y)

/-- The value of an existing pixel. -/
def pixAt (rows : List Row) (x y : Int) : Option Nat :=
  if x < 0 ∨ y < 0 then none
  else match rowAt rows y.toNat with
    | some r => r.px[x.toNat]?
    | none => none

/-- Offsets at a distance of at most `d`, row by row. -/
def offsets (d : Nat) : List (Int × Int) :=
  (List.range (2 * d + 1)).flatMap (fun j => (List.range (2 * d + 1)).map (fun i => (((i : Nat) : Int) - (d : Nat), ((j : Nat) : Int) - (d : Nat))))

/-- The neighbour set N(x, y) of R266. -/
def neighbours (g : Nat → Nat) (map : List (Nat × Nat)) (rows : List Row) (x y : Nat) : List Nat :=
  (offsets 2).filterMap (fun o =>
    let nx := (x : Int) + o.1
    let ny := (y : Int) + o.2
    match pixAt rows nx ny with
    | some v =>
      if o ≠ ((0 : Int), (0 : Int)) ∧ nativeColour g nx.toNat ny.toNat = nativeColour g x y ∧ map.contains (nx.toNat, ny.toNat) = false
      then some v else none
    | none => none)

/-- A rounded mean (R268, R271). -/
def meanOf (l : List Nat) : Nat := (l.sum + l.length / 2) / l.length

/-- D of a pixel and what it counts: 1 static, 2 hot, 3 cold, 4 isolated, 0 nothing (R268, R270). -/
def defectOf (g : Nat → Nat) (map : List (Nat × Nat)) (rows : List Row) (x y b : Nat) : Nat × Nat :=
  let n := neighbours g map rows x y
  if map.contains (x, y) then if n = [] then (b, 4) else (meanOf n, 1)
  else if nbits (g PL.DPC_CTL) 1 1 = 1 ∧ 2 ≤ n.length then
    let vmax := n.foldl Nat.max 0
    let vmin := n.foldl Nat.min vmax
    let abs_ := nbits (g PL.DPC_ABS) 23 0
    let rel := nbits (g PL.DPC_REL) 7 0
    if vmax + (abs_ + vmax * rel / 256) < b then (vmax, 2)
    else if b + (abs_ + vmin * rel / 256) < vmin then (vmin, 3)
    else (b, 0)
  else (b, 0)

/-- D values and counts of line `y`. -/
def defectLine (g : Nat → Nat) (map : List (Nat × Nat)) (rows : List Row) (y : Nat) (bs : List Nat) : List (Nat × Nat) :=
  bs.mapIdx (fun x b => defectOf g map rows x y b)

/-! ## Re-mosaic (R271-R274) -/

/-- D values of colour `c` at distance exactly `d`. -/
def ring (g : Nat → Nat) (rows : List Row) (d : Nat) (x y c : Nat) : List Nat :=
  (offsets d).filterMap (fun o =>
    if Nat.max o.1.natAbs o.2.natAbs ≠ d then none
    else
      let nx := (x : Int) + o.1
      let ny := (y : Int) + o.2
      match pixAt rows nx ny with
      | some v => if nativeColour g nx.toNat ny.toNat = c then some v else none
      | none => none)

/-- E_c of a pixel, and whether it was set to 0 for want of neighbours (R271). -/
def estimate (g : Nat → Nat) (rows : List Row) (x y dv c : Nat) : Nat × Bool :=
  if c = nativeColour g x y then (dv, false)
  else if hasColour g c = false then (0, false)
  else
    let r1 := ring g rows 1 x y c
    let r2 := ring g rows 2 x y c
    if r1 ≠ [] then (meanOf r1, false) else if r2 ≠ [] then (meanOf r2, false) else (0, true)

/-- The five estimates of a pixel and how many were set to 0. -/
def estimates (g : Nat → Nat) (rows : List Row) (x y dv : Nat) : List Nat × Nat :=
  let e := (List.range 5).map (fun c => estimate g rows x y dv c)
  (e.map (fun p => p.1), (e.filter (fun p => p.2)).length)

/-- V_r (R272). -/
def vRow (g : Nat → Nat) (r : Nat) (es : List Nat) : Nat :=
  let sum : Int := ((List.range 5).map (fun c => signed 16 (g (PL.MTX + 0x20 * r + 4 * c)) * ((es.getD c 0 : Nat) : Int))).sum
  (clampInt 0 (max24 : Int) ((sum + 2048) / 4096)).toNat

/-- Y values of line `y` and the estimates set to 0 (R273). -/
def yLine (g : Nat → Nat) (rows : List Row) (r : Row) : List Nat × Nat :=
  let l := r.px.mapIdx (fun x dv =>
    let e := estimates g rows x r.y dv
    (vRow g (outColour g x r.y) e.1, e.2))
  (l.map (fun p => p.1), (l.map (fun p => p.2)).sum)

/-- The pixel of cell (i, j) whose phase is the IR site (R274). -/
def irPixel (g : Nat → Nat) (site : Nat × Nat) (i j : Nat) : Nat × Nat :=
  (2 * i + (site.1 + nbits (g PL.RS_CTL) 5 4) % 2, 2 * j + (site.2 + nbits (g PL.RS_CTL) 7 6) % 2)

/-- IR-plane line `j` from D lines; none where its site row was not received or holds no sample (R274). -/
def qLine (g : Nat → Nat) (rows : List Row) (site : Nat × Nat) (j : Nat) : Option (List Nat) :=
  let y := (irPixel g site 0 j).2
  match rowAt rows y with
  | none => none
  | some r =>
    let n := (List.range ((r.px.length + 1) / 2)).filter (fun i => decide ((irPixel g site i j).1 < r.px.length))
    if n = [] then none
    else some (n.map (fun i =>
      let x := (irPixel g site i j).1
      vRow g 3 (estimates g rows x y (r.px.getD x 0)).1))

/-! ## Raw taps (R277, R279) -/

/-- The format width of a tap register. -/
def tapWidth (fmt : Nat) : Nat := match fmt with | 0 => 12 | 1 => 16 | 2 => 20 | _ => 24

/-- A value through a tap's ROUND, SHIFT and FORMAT (R277). -/
def tapValue (tap v : Nat) : Nat :=
  let sh := nbits tap 8 4
  let r := if nbits tap 3 3 = 1 ∧ 0 < sh then 2 ^ (sh - 1) else 0
  Nat.min (2 ^ tapWidth (nbits tap 2 1) - 1) ((v + r) / 2 ^ sh)

/-- Values packed in pairs as RAW12 or RAW20 (R277). -/
def packPairs (wide : Bool) : Nat → List Nat → List Byte
  | 0, _ => []
  | _ + 1, [] => []
  | n + 1, a :: rest =>
    let b := rest.headD 0
    (if wide then
      leBytes (a / 4096) 1 ++ leBytes (b / 4096) 1 ++ leBytes (a / 16 % 256) 1 ++ leBytes (b / 16 % 256) 1 ++
        leBytes (a % 16 + b % 16 * 16) 1
     else leBytes (a / 16) 1 ++ leBytes (b / 16) 1 ++ leBytes (a % 16 + b % 16 * 16) 1) ++ packPairs wide n (rest.drop 1)

/-- A tap line: prefix and packed values, padded to 8 bytes (R279). -/
def tapLine (tap : Nat) (vs : List Nat) (lflags : Nat) : List Byte :=
  let out := vs.map (tapValue tap)
  let body := match nbits tap 2 1 with
    | 0 => packPairs false out.length out
    | 1 => out.flatMap (fun v => leBytes v 2)
    | 2 => packPairs true out.length out
    | _ => out.flatMap (fun v => leBytes v 4)
  let l := leBytes vs.length 2 ++ leBytes lflags 1 ++ leBytes 0 1 ++ body
  padTo (roundUp l.length 8) l

/-! ## Statistics (R282-R286) -/

/-- The sites of the Bayer plane as (x, y, colour, value). -/
def bayerSites (g : Nat → Nat) (ys : List Row) : List (Nat × Nat × Nat × Nat) :=
  ys.flatMap (fun r => r.px.mapIdx (fun x v => (x, r.y, outColour g x r.y, v)))

/-- The samples of the IR plane as (x, y, 3, value), placed at the pixel they were computed at. -/
def irSites (g : Nat → Nat) (qs : List Row) : List (Nat × Nat × Nat × Nat) :=
  match irSite g with
  | none => []
  | some site => qs.flatMap (fun r => r.px.mapIdx (fun i v =>
    ((irPixel g site i r.y).1, (irPixel g site i r.y).2, 3, v)))

/-- The bin of a value (R283). -/
def histBin (g : Nat → Nat) (v : Nat) : Nat :=
  if nbits (g PL.STATS_CTL) 2 2 = 0 then Nat.min 255 (v / 2 ^ nbits (g PL.STATS_CTL) 12 8)
  else if v < 8 then v
  else let e := Nat.log2 v; (e - 2) * 8 + v / 2 ^ (e - 3) % 8

/-- The four histograms, 4,096 bytes (R283). -/
def histBytes (g : Nat → Nat) (sites : List (Nat × Nat × Nat × Nat)) : List Byte :=
  let x0 := nbits (g PL.HIST_ORG) 13 0
  let y0 := nbits (g PL.HIST_ORG) 29 16
  let w := nbits (g PL.HIST_SIZE) 13 0
  let h := nbits (g PL.HIST_SIZE) 29 16
  let ins := sites.filter (fun s => decide (x0 ≤ s.1 ∧ s.1 < x0 + w ∧ y0 ≤ s.2.1 ∧ s.2.1 < y0 + h))
  (List.range 4).flatMap (fun c =>
    let bins := (ins.filter (fun s => s.2.2.1 == c)).map (fun s => histBin g s.2.2.2)
    (List.range 256).flatMap (fun b => leBytes (bins.filter (fun x => x == b)).length 4))

/-- One zone entry (R285); `sat` tells whether the D of a pixel is saturated. -/
def zoneEntry (sat : Nat → Nat → Bool) (sites : List (Nat × Nat × Nat × Nat)) : Nat :=
  let n := sites.length
  if n = 0 then 0xFFFFFFFF
  else
    let s := (sites.map (fun p => p.2.2.2)).sum
    let k := (sites.filter (fun p => sat p.1 p.2.1)).length
    (s + n / 2) / n + k * 255 / n * 2 ^ 24

/-- The zone entries, zx fastest (R284, R285). -/
def zoneBytes (g : Nat → Nat) (sat : Nat → Nat → Bool) (sites : List (Nat × Nat × Nat × Nat)) : List Byte :=
  let zx0 := nbits (g PL.ZONE_ORG) 13 0
  let zy0 := nbits (g PL.ZONE_ORG) 29 16
  let zw := nbits (g PL.ZONE_SIZE) 13 0
  let zh := nbits (g PL.ZONE_SIZE) 29 16
  (List.range (nbits (g PL.STATS_CTL) 29 24)).flatMap (fun j => (List.range (nbits (g PL.STATS_CTL) 21 16)).flatMap (fun i =>
    let ins := sites.filter (fun s => decide (zx0 + i * zw ≤ s.1 ∧ s.1 < zx0 + (i + 1) * zw ∧ zy0 + j * zh ≤ s.2.1 ∧
      s.2.1 < zy0 + (j + 1) * zh))
    (List.range 4).flatMap (fun c => leBytes (zoneEntry sat (ins.filter (fun s => s.2.2.1 == c))) 4)))

/-- The payload of a STATS record (R286), padded to a multiple of 64 bytes. -/
def statsPayload (g : Nat → Nat) (sat : Nat → Nat → Bool) (satTotal : Nat) (ys qs : List Row) : List Byte :=
  let ctl := g PL.STATS_CTL
  let sites := bayerSites g ys ++ irSites g qs
  let content := nbits ctl 0 0 + nbits ctl 1 1 * 2 + b2n (irSite g).isSome * 4
  let head := [1#8] ++ leBytes content 1 ++ leBytes (nbits ctl 21 16) 1 ++ leBytes (nbits ctl 29 24) 1 ++
    leBytes (nbits (g PL.ZONE_SIZE) 13 0) 2 ++ leBytes (nbits (g PL.ZONE_SIZE) 29 16) 2 ++
    leBytes (nbits (g PL.ZONE_ORG) 13 0) 2 ++ leBytes (nbits (g PL.ZONE_ORG) 29 16) 2 ++
    leBytes (nbits ctl 2 2) 1 ++ leBytes (nbits ctl 12 8) 1 ++ zeros 2 ++ leBytes satTotal 4
  let l := padTo 64 head ++ (if nbits ctl 0 0 = 1 then histBytes g sites else []) ++
    (if nbits ctl 1 1 = 1 then zoneBytes g sat sites else [])
  padTo (roundUp l.length 64) l

/-! ## Checks of a commit (R292) -/

/-- The first breach of the raw stage's rules: the LAST code of R295, or 0. -/
def rawBreach (g : Nat → Nat) : Nat :=
  let ctl := g PL.RS_CTL
  let pat := nbits ctl 3 0
  let nk := nbits ctl 20 16
  let x := fun k => nbits (g (PL.KNEE_X + 0x10 * k)) 19 0
  let tap := fun k => g (PL.TAP_T0 + 4 * k)
  let st := g PL.STATS_CTL
  let hs := nbits (g PL.HIST_SIZE)
  let zs := g PL.ZONE_SIZE
  if 7 ≤ pat ∨ (pat = 6 ∧ (List.range 16).any (fun i => decide (5 ≤ phaseColour g i)) = true) then 1
  else if 12 < nbits ctl 15 12 ∨ (nbits ctl 10 10 = 1 ∧ (nk = 0 ∨ 16 < nk ∨ x 0 ≠ 0 ∨
      (List.range (nk - 1)).any (fun k => decide (x (k + 1) ≤ x k)) = true)) then 2
  else if (List.range 4).any (fun k => decide (20 < nbits (tap k) 8 4) || nbits (tap k) 21 16 == 0) = true then 3
  else if (nbits st 0 0 = 1 ∧ (16 < nbits st 12 8 ∨ hs 13 0 = 0 ∨ 8192 < hs 13 0 ∨ hs 29 16 = 0 ∨ 8192 < hs 29 16)) ∨ (nbits st 1 1 = 1 ∧
      (nbits st 21 16 = 0 ∨ 32 < nbits st 21 16 ∨ nbits st 29 24 = 0 ∨ 32 < nbits st 29 24 ∨
       nbits zs 13 0 < 2 ∨ 8192 < nbits zs 13 0 ∨ nbits zs 13 0 % 2 = 1 ∨
       nbits zs 29 16 < 2 ∨ 8192 < nbits zs 29 16 ∨ nbits zs 29 16 % 2 = 1)) then 4
  else if 2048 < nbits (g PL.DPC_CTL) 27 16 then 5
  else 0

end Sys2Proof.Machine
end

