-- ==== Sys2Proof/Machine/FinCalc.lean ====
section
/-! DEFINITION. The arithmetic of the finishing stage (R296-R312) as functions of the lines that finishing has and of the
parameters of the frame. `g off` is the parameter register at offset `off` of the PL block. -/
namespace Sys2Proof.Machine
set_option Elab.async false

/-- A value held to 16 bits. -/
def clamp16 (i : Int) : Nat := (clampInt 0 65535 i).toNat

/-! ## Fill and mirror (R297, R298) -/

/-- The nearest of the lines numbered as `p` holds: above `y`, else below. -/
def nearestRow (rows : List Row) (y : Nat) (p : Nat → Bool) : Option Row :=
  let above := rows.filter (fun r => decide (r.y ≤ y) && p r.y)
  let below := rows.filter (fun r => decide (y < r.y) && p r.y)
  let hi := above.foldl (fun b r => match b with | none => some r | some q => if q.y < r.y then some r else some q) none
  match hi with
  | some r => some r
  | none => below.foldl (fun b r => match b with | none => some r | some q => if r.y < q.y then some r else some q) none

/-- How far line `r` lies from line `y`. -/
def rowDist (y : Nat) (r : Row) : Nat := if r.y ≤ y then y - r.y else r.y - y

/-- The nearest line of all; of two at one distance the one above (R297, log entry 27). -/
def closestRow (rows : List Row) (y : Nat) : Option Row :=
  rows.foldl (fun b r => match b with
    | none => some r
    | some q => if rowDist y r < rowDist y q ∨ (rowDist y r = rowDist y q ∧ r.y < q.y) then some r else some q) none

/-- The line that stands for line `y`: itself, or by the fill rule; `par` keeps to lines of the same parity while there is
one (R297). -/
def fillRow (rows : List Row) (par : Bool) (y : Nat) : Option Row :=
  match rowAt rows y with
  | some r => some r
  | none =>
    if par then
      match nearestRow rows y (fun n => n % 2 == y % 2) with
      | some r => some r
      | none => closestRow rows y
    else nearestRow rows y (fun _ => true)

/-- The value that stands for pixel `x` of a line; `par` repeats the last pixel of the same parity. -/
def fillPix (r : Row) (par : Bool) (x : Nat) : Nat :=
  match r.px[x]? with
  | some v => v
  | none =>
    let n := r.px.length
    let last := if par ∧ (n - 1) % 2 ≠ x % 2 ∧ 2 ≤ n then n - 2 else n - 1
    r.px.getD last 0

/-- A coordinate mirrored about the edge pixels of an image of width `w`, then clamped. -/
def mirror (w : Nat) (x : Int) : Nat :=
  let m := if x < 0 then -x else if (w : Int) ≤ x then 2 * ((w : Int) - 1) - x else x
  (clampInt 0 ((w : Int) - 1) m).toNat

/-- The finishing image at a coordinate (R296-R298). -/
def imageAt (rows : List Row) (w h : Nat) (x y : Int) : Nat :=
  match fillRow rows true (mirror h y) with
  | some r => fillPix r true (mirror w x)
  | none => 0

/-- The IR image at a coordinate. -/
def irAt (rows : List Row) (w h : Nat) (x y : Int) : Nat :=
  match fillRow rows false (mirror h y) with
  | some r => fillPix r false (mirror w x)
  | none => 0

/-! ## White balance, demosaic, colour (R300-R306) -/

/-- P at a coordinate (R300). -/
def pAt (g : Nat → Nat) (rows : List Row) (w h : Nat) (x y : Int) : Int :=
  let mx := mirror w x
  let my := mirror h y
  let c := outColour g mx my
  let wb := nbits (g (PL.WB_R + 4 * c)) 15 0
  let s := 12 + nbits (g PL.FIN_CTL) 3 0
  ((Nat.min 65535 ((imageAt rows w h x y * wb + 2 ^ (s - 1)) / 2 ^ s) : Nat) : Int)

/-- G̃ at a coordinate (R301, R302). -/
def greenAt (g : Nat → Nat) (rows : List Row) (w h : Nat) (x y : Int) : Int :=
  let p := pAt g rows w h
  if outColour g (mirror w x) (mirror h y) = 1 then p x y
  else
    let gh := 2 * (p (x - 1) y + p (x + 1) y) + 2 * p x y - p (x - 2) y - p (x + 2) y
    let gv := 2 * (p x (y - 1) + p x (y + 1)) + 2 * p x y - p x (y - 2) - p x (y + 2)
    let dh := (p (x - 1) y - p (x + 1) y).natAbs + (2 * p x y - p (x - 2) y - p (x + 2) y).natAbs
    let dv := (p x (y - 1) - p x (y + 1)).natAbs + (2 * p x y - p x (y - 2) - p x (y + 2)).natAbs
    let t := nbits (g PL.FIN_CTL) 15 8
    let v := if t * dh < 16 * dv then (gh + 2) / 4 else if t * dv < 16 * dh then (gv + 2) / 4 else (gh + gv + 4) / 8
    clampInt 0 65535 v

/-- P - G̃ at a coordinate. -/
def diffAt (g : Nat → Nat) (rows : List Row) (w h : Nat) (x y : Int) : Int :=
  pAt g rows w h x y - greenAt g rows w h x y

/-- R, G, B after the demosaic (R303). -/
def demosaicAt (g : Nat → Nat) (rows : List Row) (w h : Nat) (x y : Int) : Int × Int × Int :=
  let c := outColour g (mirror w x) (mirror h y)
  let p := pAt g rows w h x y
  let gr := greenAt g rows w h x y
  let d := diffAt g rows w h
  let cl := clampInt 0 65535
  let hz := cl (gr + (d (x - 1) y + d (x + 1) y + 1) / 2)
  let vt := cl (gr + (d x (y - 1) + d x (y + 1) + 1) / 2)
  let dg := cl (gr + (d (x - 1) (y - 1) + d (x + 1) (y - 1) + d (x - 1) (y + 1) + d (x + 1) (y + 1) + 2) / 4)
  if c = 0 then (p, gr, dg)
  else if c = 2 then (dg, gr, p)
  else if outColour g (mirror w (x + 1)) (mirror h y) = 0 then (hz, p, vt)
  else (vt, p, hz)

/-- A value through the tone curve (R305). -/
def curveAt (g : Nat → Nat) (v : Nat) : Nat :=
  let t := fun i => nbits (g (PL.CURVE + 4 * i)) 15 0
  (t (v / 256) * (256 - v % 256) + t (v / 256 + 1) * (v % 256) + 128) / 256

/-- The colour of a pixel of the finishing image after matrix and curve (R304, R305). -/
def colourAt (g : Nat → Nat) (rows : List Row) (w h : Nat) (x y : Int) : List Int :=
  let c := demosaicAt g rows w h (mirror w x) (mirror h y)
  (List.range 3).map (fun r =>
    let m := fun k => signed 16 (g (PL.CCM + 0x10 * r + 4 * k))
    ((curveAt g (clamp16 ((m 0 * c.1 + m 1 * c.2.1 + m 2 * c.2.2 + 2048) / 4096)) : Nat) : Int))

/-- The IR channel at a coordinate (R306). -/
def irChannelAt (g : Nat → Nat) (rows : List Row) (w h : Nat) (x y : Int) : List Int :=
  let s := 12 + nbits (g PL.FIN_CTL) 3 0
  let q := Nat.min 65535 ((irAt rows w h x y * nbits (g PL.IR_GAIN) 15 0 + 2 ^ (s - 1)) / 2 ^ s)
  [((if nbits (g PL.FIN_CTL) 16 16 = 1 then curveAt g q else q : Nat) : Int)]

/-! ## Crop and scale (R307-R309) -/

/-- STEP of a crop length and an output length. -/
def scaleStep (crop out : Nat) : Nat := crop * 65536 / out

/-- A source position (R308). -/
def scalePos (org step i : Nat) : Int := ((org * 65536 + i * step : Nat) : Int) + ((step : Int) - 65536) / 2

/-- Tap `k` of phase `p` of a kernel (R327). -/
def kernTap (g : Nat → Nat) (base p k : Nat) : Int :=
  let w := g (base + 4 * (4 * p + k / 2))
  signed 10 (if k % 2 = 0 then nbits w 9 0 else nbits w 25 16)

/-- One pass of the scaler at a position over a source (R309). -/
def scalePass (g : Nat → Nat) (base : Nat) (pos : Int) (src : Int → Int) : Int :=
  let n := pos / 65536
  let p := ((pos / 2048) % 32).toNat
  clampInt 0 65535 ((((List.range 8).map (fun k => kernTap g base p k * src (n - 3 + (k : Int)))).sum + 128) / 256)

/-- Component `c` of output pixel (i, j) of output `k` from a source image. -/
def scaledAt (g : Nat → Nat) (k i j c : Nat) (src : Int → Int → List Int) : Int :=
  let o := 0x100 * k
  let sx := scaleStep (nbits (g (PL.CROP_SIZE + o)) 13 0) (nbits (g (PL.OUT_SIZE + o)) 12 0)
  let sy := scaleStep (nbits (g (PL.CROP_SIZE + o)) 29 16) (nbits (g (PL.OUT_SIZE + o)) 29 16)
  let px := scalePos (nbits (g (PL.CROP_ORG + o)) 12 0) sx i
  let py := scalePos (nbits (g (PL.CROP_ORG + o)) 28 16) sy j
  scalePass g (PL.KV + 0x400 * k) py (fun y =>
    scalePass g (PL.KH + 0x400 * k) px (fun x => (src x y).getD c 0))

/-! ## Formats (R311, R312) -/

/-- An 8-bit value of a 16-bit one. -/
def to8 (v : Int) : Nat := Nat.min 255 ((v.toNat + 128) / 256)

def lumaOf (c : List Int) : Int := (871 * c.getD 0 0 + 2929 * c.getD 1 0 + 296 * c.getD 2 0 + 2048) / 4096
def cbOf (c : List Int) : Int :=
  clampInt 0 65535 ((-469 * c.getD 0 0 - 1579 * c.getD 1 0 + 2048 * c.getD 2 0 + 2048) / 4096 + 32768)
def crOf (c : List Int) : Int :=
  clampInt 0 65535 ((2048 * c.getD 0 0 - 1860 * c.getD 1 0 - 188 * c.getD 2 0 + 2048) / 4096 + 32768)

/-- Bytes per pixel of a format. -/
def bytesPerPixel (fmt : Nat) : Nat := match fmt with | 0 => 3 | 1 => 6 | 2 => 2 | 3 => 1 | _ => 2

/-- Pixel pairs as Y0, Cb, Y1, Cr (R312). -/
def yuvPairs : Nat → List (List Int) → List Nat
  | 0, _ => []
  | n + 1, a :: b :: rest =>
    [to8 (lumaOf a), to8 ((cbOf a + cbOf b + 1) / 2), to8 (lumaOf b), to8 ((crOf a + crOf b + 1) / 2)] ++ yuvPairs n rest
  | _ + 1, _ => []

/-- The code values of one output line of output `k`, as the arithmetic of the chapter computes them (R311, R312). -/
def outCodes (g : Nat → Nat) (k j width height : Nat) (rows irRows : List Row) : List Nat :=
  let ctl := g (PL.OUT_CTL + 0x100 * k)
  let ir := nbits ctl 1 1 == 1
  let w := nbits (g (PL.OUT_SIZE + 0x100 * k)) 12 0
  let px := (List.range w).map (fun i =>
    if ir then [scaledAt g k i j 0 (irChannelAt g irRows ((width + 1) / 2) ((height + 1) / 2))]
    else (List.range 3).map (fun c => scaledAt g k i j c (colourAt g rows width height)))
  let y := fun (c : List Int) => if ir then c.getD 0 0 else lumaOf c
  match nbits ctl 4 2 with
  | 0 => px.flatMap (fun c => c.map to8)
  | 1 => px.flatMap (fun c => c.map Int.toNat)
  | 2 => yuvPairs w px
  | 3 => px.map (fun c => to8 (y c))
  | _ => px.map (fun c => (y c).toNat)

/-- A value within 1 code value of the one computed (R323): which, is free. -/
def near (free i max v : Nat) : Nat := Nat.min max (v + Config.freeNat (free + i) % 3 - 1)

/-- Code values of a format in bytes, each within 1 of the one computed, padded to 8 bytes (R314, R323). -/
def codeBytes (free fmt : Nat) (codes : List Nat) : List Byte :=
  let sz := if fmt = 1 ∨ 4 ≤ fmt then 2 else 1
  let b := ((List.range codes.length).zip codes).flatMap (fun e => leBytes (near free e.1 (256 ^ sz - 1) e.2) sz)
  padTo (roundUp b.length 8) b

/-- The source line of output line `j` of output `k`: posY(j) >> 16. -/
def outSource (g : Nat → Nat) (k j : Nat) : Int :=
  let o := 0x100 * k
  scalePos (nbits (g (PL.CROP_ORG + o)) 28 16)
    (scaleStep (nbits (g (PL.CROP_SIZE + o)) 29 16) (nbits (g (PL.OUT_SIZE + o)) 29 16)) j / 65536

/-- The descriptor of a band (R314). -/
def bandHead (g : Nat → Nat) (k bflags : Nat) : List Byte :=
  let o := 0x100 * k
  let ctl := g (PL.OUT_CTL + o)
  let w := nbits (g (PL.OUT_SIZE + o)) 12 0
  let stride := roundUp (w * bytesPerPixel (nbits ctl 4 2)) 8
  padTo 32 ([1#8] ++ leBytes k 1 ++ leBytes (nbits ctl 4 2) 1 ++ leBytes bflags 1 ++ leBytes w 2 ++
    leBytes (nbits (g (PL.OUT_SIZE + o)) 29 16) 2 ++ leBytes stride 4 ++
    leBytes (nbits (g (PL.CROP_ORG + o)) 12 0) 2 ++ leBytes (nbits (g (PL.CROP_ORG + o)) 28 16) 2 ++
    leBytes (nbits (g (PL.CROP_SIZE + o)) 13 0) 2 ++ leBytes (nbits (g (PL.CROP_SIZE + o)) 29 16) 2 ++
    leBytes (nbits ctl 27 24) 1)

/-! ## Checks of a commit (R310, R312, R324, R328) -/

/-- Whether an output, enabled or not, breaks R312 (log entry 27). -/
def fmtBreach (g : Nat → Nat) (k : Nat) : Bool :=
  let ctl := g (PL.OUT_CTL + 0x100 * k)
  let fmt := nbits ctl 4 2
  let ir := nbits ctl 1 1 == 1
  decide (4 < fmt) || (ir && fmt != 3 && fmt != 4) ||
    (fmt == 2 && nbits (g (PL.OUT_SIZE + 0x100 * k)) 12 0 % 2 == 1) || (ir && (irSite g).isNone)

/-- Whether an enabled output breaks R310. -/
def scaleBreach (g : Nat → Nat) (k : Nat) : Bool :=
  let o := 0x100 * k
  let ow := nbits (g (PL.OUT_SIZE + o)) 12 0
  let oh := nbits (g (PL.OUT_SIZE + o)) 29 16
  let cw := nbits (g (PL.CROP_SIZE + o)) 13 0
  let ch := nbits (g (PL.CROP_SIZE + o)) 29 16
  nbits (g (PL.OUT_CTL + o)) 0 0 == 1 &&
    !decide (1 ≤ ow ∧ ow ≤ 4096 ∧ 1 ≤ oh ∧ oh ≤ 8192 ∧ 1 ≤ cw ∧ cw ≤ 8192 ∧ 1 ≤ ch ∧ ch ≤ 8192 ∧ ow ≤ cw ∧ cw ≤ 8 * ow ∧
      oh ≤ ch ∧ ch ≤ 8 * oh)

/-- The first breach of the finishing stage's rules, the pixel rate apart: the LAST code of R328, or 0. -/
def finBreach (g : Nat → Nat) : Nat :=
  if (List.range 4).any (fmtBreach g) then 1
  else if (List.range 4).any (scaleBreach g) then 2
  else if 8 < nbits (g PL.FIN_CTL) 3 0 ∨ nbits (g PL.FIN_CTL) 15 8 < 16 ∨ 64 < nbits (g PL.FIN_CTL) 15 8 ∨
      (List.range 4).any (fun k => nbits (g (PL.OUT_CTL + 0x100 * k)) 21 16 == 0) = true then 3
  else 0

/-- The area of the finishing window: the bounding rectangle of the enabled crop windows, IR windows doubled (R320). -/
def finArea (g : Nat → Nat) : Nat :=
  let en := (List.range 4).filter (fun k => nbits (g (PL.OUT_CTL + 0x100 * k)) 0 0 == 1)
  let m := fun k => if nbits (g (PL.OUT_CTL + 0x100 * k)) 1 1 = 1 then 2 else 1
  let x0 := fun k => m k * nbits (g (PL.CROP_ORG + 0x100 * k)) 12 0
  let y0 := fun k => m k * nbits (g (PL.CROP_ORG + 0x100 * k)) 28 16
  let x1 := fun k => x0 k + m k * nbits (g (PL.CROP_SIZE + 0x100 * k)) 13 0
  let y1 := fun k => y0 k + m k * nbits (g (PL.CROP_SIZE + 0x100 * k)) 29 16
  match en with
  | [] => 0
  | k :: ks =>
    (ks.foldl (fun a i => Nat.max a (x1 i)) (x1 k) - ks.foldl (fun a i => Nat.min a (x0 i)) (x0 k)) *
    (ks.foldl (fun a i => Nat.max a (y1 i)) (y1 k) - ks.foldl (fun a i => Nat.min a (y0 i)) (y0 k))

end Sys2Proof.Machine
end

