-- ==== Sys2Proof/Machine/Sched.lean ====
section
/-! DEFINITION. Exposure and strobe scheduling (R228-R254). A schedule is read through a getter `cfg` from register key to
value: the committed registers, or those of a set. Times are integers in units of 2^-16 ns. -/
namespace Sys2Proof.Machine
set_option Elab.async false

def State.sch (s : State) (st : Nat) : SchS := Tbl.get (fun _ => {}) s.schs st
def State.setSch (s : State) (st : Nat) (v : SchS) : State := { s with schs := Tbl.set (fun _ => {}) s.schs st v }

/-- The key of the per-stream scheduler registers of a stream (R251). -/
abbrev sk (st : Nat) : Nat := tb (st / 128) + 0x40 * (st % 128)
/-- The key of a register of the lead's part of a set: group table, EPOCH (R253). -/
abbrev gk (o : Nat) : Nat := tb 4 + o
/-- LEAD and MIN_MARGIN of a port. -/
abbrev lk (p : Nat) : Nat := tb (p / 32) + 8 * (p % 32)

/-- The shadowed registers of a stream's schedule (R251). -/
def schOffsets : List Nat :=
  [TB.S_CTL, TB.PERIOD, TB.PHASE, TB.TRIG_LAT, TB.TRIG_LEN, TB.STROBE_OFS, TB.STROBE_LEN, TB.MIN_GAP]

/-- One nanosecond in units of 2^-16 ns. -/
abbrev ns16 : Int := 65536

/-- The schedule registers in force; the group table before any set is that of reset. -/
def State.oldCfg (s : State) : Nat → Nat := fun k => if tb 4 ≤ k then ((s.sched.table.lookup k).getD (resetWord k)).toNat else s.actN k

/-- The registers of a set. -/
def SchedSet.cfg (set : SchedSet) : Nat → Nat := fun k => ((set.img.lookup k).getD 0#32).toNat

/-- EPOCH in force on a die, and EPOCH of a set. -/
def State.oldEpoch (s : State) (die : Nat) : Int := (dtUnpack (s.rdDt (tb die + TB.EPOCH_ACT0)) : Nat)
def SchedSet.epoch (set : SchedSet) : Int :=
  (dtUnpack (set.cfg (gk TB.EPOCH0) + set.cfg (gk TB.EPOCH1) * 2 ^ 32 + set.cfg (gk TB.EPOCH2) * 2 ^ 64) : Nat)

/-- E_n of a stream (R228). -/
def eN (cfg : Nat → Nat) (epoch : Int) (st : Nat) (n : Int) : Int :=
  epoch + ((cfg (sk st + TB.PHASE) : Nat) + n * (cfg (sk st + TB.PERIOD) : Nat)) * ns16

/-- The edges of occurrence n (R229, R230): a trigger, a strobe. -/
def edgesOf (cfg : Nat → Nat) (epoch : Int) (st : Nat) (n : Int) : List Edge :=
  let c := cfg (sk st + TB.S_CTL)
  let e := eN cfg epoch st n
  (if c.testBit 4 then [{ trig := true, e := e, t := e - (cfg (sk st + TB.TRIG_LAT) : Nat) * ns16, n := n, ctl := c, len := cfg (sk st + TB.TRIG_LEN) }] else []) ++
  (if c.testBit 8 then [{ trig := false, e := e, t := e + signed 32 (cfg (sk st + TB.STROBE_OFS)) * ns16, n := n, ctl := c, len := cfg (sk st + TB.STROBE_LEN) }] else [])

/-- Occurrence n of a stream. -/
def occOf (cfg : Nat → Nat) (epoch : Int) (st : Nat) (n : Int) : Occ :=
  let e := eN cfg epoch st n
  { n := n, e := e, trig := e - (cfg (sk st + TB.TRIG_LAT) : Nat) * ns16, edges := edgesOf cfg epoch st n }

/-- LEAD plus DLY_FILT of a stream's port. -/
def State.leadOf (s : State) (st : Nat) : Int :=
  (s.rdN (lk (st / 4) + TB.LEAD) : Nat) * ns16 + s.rdI (lp (st / 4) + LP.DLY_FILT)

/-- The start of an occurrence's first pulse; E_n where it has none. -/
def Occ.start (o : Occ) : Int := match o.edges.map (fun e => e.t) with
  | [] => o.e
  | x :: xs => xs.foldl min x

/-- The earliest launch time of an occurrence (R236, R237); one without edges is decided at E_n. -/
def State.launchAt (s : State) (st : Nat) (o : Occ) : Int := if o.edges.isEmpty then o.e else o.start - s.leadOf st

/-- The deadline of an edge of a port (R238). -/
def State.deadline (s : State) (p : Nat) (t : Int) : Int :=
  t - s.rdI (lp p + LP.DLY_FILT) - (s.rdN (lk p + TB.MIN_MARGIN) : Nat) * ns16

/-- `a / b` rounded up. -/
def ceilInt (a : Int) (b : Nat) : Int := -((-a) / (b : Int))

/-! ## Launching (R236-R241) -/

/-- Whether an occurrence may be launched (R237); none is once each of its pulses would be withdrawn (R249). -/
def State.launchOk (s : State) (st : Nat) (es : List Edge) : Bool :=
  let p := st / 4
  let v := s.port p
  let outs := s.fld (lp p + LP.CAPS) 15 8
  s.lpRun p && v.capsValid && v.headTimeOk && s.bit (lp p + LP.DLY_STAT) 0 &&
  es.all (fun e => outs.testBit (if e.trig then st % 4 else 4 + nbits e.ctl 11 10)) &&
  (es.isEmpty || es.any (fun e => decide ((s.stamp (st / 128) : Int) ≤ s.deadline p e.t)))

/-- An occurrence is decided (R237): launched with its edges, or counted in NOT_LAUNCHED. -/
def State.decide1 (s : State) (st : Nat) (o : Occ) : State :=
  if s.launchOk st o.edges then
    let v := s.sch st
    (s.setSch st { v with edges := v.edges ++ o.edges, launched := (o.n, o.e, o.trig) :: v.launched }).inc (skc st + TB.LAUNCHED)
  else (s.inc (skc st + TB.NOT_LAUNCHED)).setBit (tb (st / 128) + TB.SCHED_EVENTS) 1

/-- The streams of the present dies. -/
def State.allStreams (s : State) : List Nat := s.concs.flatMap (fun d => (List.range 128).map (fun i => 128 * d + i))

/-- The number of the last occurrence of a stream's schedule with E_n before `t`. -/
def lastBefore (cfg : Nat → Nat) (epoch : Int) (st : Nat) (t : Int) : Int :=
  ceilInt (t - eN cfg epoch st 0) (cfg (sk st + TB.PERIOD) * 65536) - 1

/-- The first new occurrence at a switch and how many are passed over (R243). -/
def State.newFirst (s : State) (set : SchedSet) (st : Nat) : Int × Nat :=
  let per := set.cfg (sk st + TB.PERIOD)
  let base := eN set.cfg set.epoch st 0
  let act : Int := set.act
  let ep := s.oldEpoch (st / 128)
  let last := lastBefore s.oldCfg ep st act
  let ran := s.bit (sk st + TB.S_STAT) 0 && decide ((s.sch st).first ≤ last)
  let gapped := if ran then eN s.oldCfg ep st last + (set.cfg (sk st + TB.MIN_GAP) : Nat) * ns16 else act
  let launch := act - 1000000 * ns16 - (s.launchAt st (occOf set.cfg set.epoch st 0) - base)
  let n0 := ceilInt (act - base) (per * 65536)
  let n1 := ceilInt (max act (max gapped launch) - base) (per * 65536)
  (n1, (n1 - n0).toNat)

/-- Whether an announced step holds back a pulse that starts at `t` (R247). -/
def State.held (s : State) (t : Int) : Bool := match s.sched.hold with | some h => decide ((h : Int) ≤ t) | none => false

/-- Whether an occurrence is to be decided now: its launch time has come, and not all of its pulses are held back (R237, R247). -/
def State.occDue (s : State) (st : Nat) (o : Occ) : Bool :=
  decide (s.launchAt st o ≤ (s.stamp (st / 128) : Int)) && (o.edges.isEmpty || !o.edges.all (fun e => s.held e.t))

/-- The next occurrence of the schedule in force: none once its E_n is not before ACT of an accepted set (R243). -/
def State.nextOcc (s : State) (st : Nat) : Option Occ :=
  match (s.sch st).next with
  | some n =>
    let o := occOf s.oldCfg (s.oldEpoch (st / 128)) st n
    let ended := match s.sched.pend with
      | some set => decide ((set.act : Int) ≤ o.e)
      | none => false
    if s.bit (sk st + TB.S_STAT) 0 = true ∧ ended = false then some o else none
  | none => none

/-- The next occurrence of an accepted set that enables the stream. -/
def State.nextNew (s : State) (st : Nat) : Option Occ :=
  match s.sched.pend with
  | some set =>
    if set.cfg (sk st + TB.S_CTL) % 2 = 1 then
      some (occOf set.cfg set.epoch st ((s.sch st).newNext.getD (s.newFirst set st).1))
    else none
  | none => none

/-- OCCURRENCE_DECIDE (R237, R243): the next occurrence of the schedule in force, or one left over by the schedule before it, or with `fresh`
the next of an accepted set, has reached its earliest launch time. -/
def execOccurrenceDecide (stream : Nat) (fresh : Bool) (s : State) : Res :=
  .next (if 512 ≤ stream ∨ s.present (stream / 128) = false then s
    else if fresh then
      match s.nextNew stream with
      | some o =>
        if s.occDue stream o then
          let s1 := s.decide1 stream o
          s1.setSch stream { s1.sch stream with newNext := some (o.n + 1) }
        else s
      | none => s
    else
      match (s.sch stream).owed.find? (fun o => s.occDue stream o) with
      | some o => let s1 := s.decide1 stream o; s1.setSch stream { s1.sch stream with owed := (s1.sch stream).owed.erase o }
      | none => match s.nextOcc stream with
        | some o =>
          if s.occDue stream o then
            let s1 := s.decide1 stream o
            s1.setSch stream { s1.sch stream with next := some (o.n + 1) }
          else s
        | none => s)

/-- The TIMED_PULSE payload of an edge (R236). -/
def State.pulseBytes (s : State) (st : Nat) (e : Edge) : List Byte :=
  let out := if e.trig then st % 4 + 128 * nbits e.ctl 6 6 else 4 + nbits e.ctl 11 10 + 128 * nbits e.ctl 9 9
  let len := if e.trig ∧ nbits e.ctl 5 5 = 1 then s.rdN (sk st + TB.EXP_LEN) else e.len
  leBytes out 1 ++ leBytes (dtPack e.t.toNat) 12 ++ leBytes len 4 ++
    leBytes (b2n (!e.trig) * 32768 + st % 4 * 8192 + (e.n % 8192).toNat) 2

/-- Order of issue at one port (R239): launch time, trigger before strobe, priority class, slot. -/
def edgeBefore (a b : Nat × Edge) : Bool :=
  if a.2.t ≠ b.2.t then decide (a.2.t < b.2.t)
  else if a.2.trig != b.2.trig then a.2.trig
  else if nbits a.2.ctl 2 1 ≠ nbits b.2.ctl 2 1 then decide (nbits a.2.ctl 2 1 < nbits b.2.ctl 2 1)
  else decide (a.1 < b.1)

/-- PULSE_ISSUE (R236, R239, R247): the first edge of a port whose launch time has come goes to the port, or, past its deadline, is withdrawn
(R238). -/
def execPulseIssue (port : Nat) (s : State) : Res :=
  let now : Int := s.stamp (port / 32)
  let all := (List.range 4).flatMap (fun i => (s.sch (4 * port + i)).edges.map (fun e => (4 * port + i, e)))
  let due := all.filter (fun a => decide (a.2.t - s.leadOf a.1 ≤ now) && !s.held a.2.t)
  .next (if s.portOk port = false ∨ s.finalC = true then s
    else match due with
      | [] => s
      | x :: xs =>
        let best := xs.foldl (fun b a => if edgeBefore a b then a else b) x
        let v := s.sch best.1
        ((s.setSch best.1 { v with edges := v.edges.erase best.2 }).updPort port (fun p => { p with
          pulseq := p.pulseq ++ [{ bytes := s.pulseBytes best.1 best.2, stream := best.1, deadline := (s.deadline port best.2.t).toNat }] })).bchStart port)

/-- PULSE_WITHDRAW (R238): pulses that have not started by their deadline are withdrawn and counted. -/
def execPulseWithdraw (port : Nat) (s : State) : Res :=
  .next (if s.portOk port then s.withdraw port (s.stamp (port / 32) + 1) else s)

/-- The trigger attributed to a frame that starts at `t`: the DT96 of R241, 0 if none. -/
def State.attribTrigger (s : State) (st t : Nat) : State × Nat :=
  let v := s.sch st
  let per : Int := (s.oldCfg (sk st + TB.PERIOD) : Nat) * ns16
  if s.bit (sk st + TB.S_STAT) 0 = false then (s, 0)
  else match v.launched.find? (fun e => decide (e.2.1 ≤ (t : Int) ∧ (t : Int) - e.2.1 < per)) with
    | some e => (s.setSch st { v with
        launched := v.launched.filter (fun x => x != e && decide ((t : Int) - x.2.1 < per)) }, dtPack e.2.2.toNat)
    | none => (s, 0)

/-! ## Group checks (R231, R234, R235, R244) -/

/-- Enabled streams of a set on the present dies. -/
def State.schStreams (s : State) (cfg : Nat → Nat) : List Nat := s.allStreams.filter (fun st => cfg (sk st + TB.S_CTL) % 2 == 1)

/-- Whether a stream's values lie outside their ranges (R231). -/
def schRange (cfg : Nat → Nat) (st : Nat) : Bool :=
  let v := fun o => cfg (sk st + o)
  let per := v TB.PERIOD
  let ofs := (signed 32 (v TB.STROBE_OFS)).natAbs
  decide (per < 1000000 ∨ 4000000000 < per ∨ per ≤ v TB.PHASE ∨ 1000000 < v TB.TRIG_LAT ∨ v TB.TRIG_LEN = 0 ∨
    1000000 < v TB.TRIG_LEN ∨ per ≤ ofs ∨ 1000000000 < ofs ∨ v TB.STROBE_LEN = 0 ∨ per ≤ v TB.STROBE_LEN ∨
    1000000000 < v TB.STROBE_LEN ∨ 4000000000 < v TB.MIN_GAP)

/-- Of some streams, those with STROBE_EN in a group. -/
def strobers (cfg : Nat → Nat) (sts : List Nat) (g : Nat) : List Nat :=
  sts.filter (fun st => (cfg (sk st + TB.S_CTL)).testBit 8 && nbits (cfg (sk st + TB.S_CTL)) 21 16 == g)

/-- The strobe intervals of a stream in its group period: (stream, start, length) in ns (R234). -/
def strobeIntervals (cfg : Nat → Nat) (gp guard st : Nat) : List (Nat × Nat × Nat) :=
  (List.range (gp / cfg (sk st + TB.PERIOD))).map (fun n =>
    (st, (((cfg (sk st + TB.PHASE) + n * cfg (sk st + TB.PERIOD) : Nat) + signed 32 (cfg (sk st + TB.STROBE_OFS))) % (gp : Int)).toNat,
      cfg (sk st + TB.STROBE_LEN) + guard))

/-- Whether two intervals overlap on a circle of length `gp`. -/
def circOverlap (gp : Nat) (a b : Nat × Nat × Nat) : Bool :=
  decide ((b.2.1 + gp - a.2.1) % gp < a.2.2) || decide ((a.2.1 + gp - b.2.1) % gp < b.2.2)

/-- The first overlapping pair of a list of intervals. -/
def firstOverlap (gp : Nat) : List (Nat × Nat × Nat) → Option (Nat × Nat)
  | [] => none
  | a :: rest => match rest.find? (circOverlap gp a) with
    | some b => some (a.1, b.1)
    | none => firstOverlap gp rest

/-- The first breach of a group, of all streams with STROBE_EN in it, enabled or not (R234): status, and the two streams (R235). -/
def groupBreach (cfg : Nat → Nat) (sts : List Nat) (g : Nat) : Option (Nat × Nat × Nat) :=
  let ms := strobers cfg sts g
  let gp := cfg (gk (TB.GRP_PERIOD + 8 * g))
  let guard := cfg (gk (TB.GRP_GUARD + 8 * g))
  match ms with
  | [] => none
  | m0 :: _ =>
    match ms.find? (fun st => gp % cfg (sk st + TB.PERIOD) != 0) with
    | some st => some (2, st, st)
    | none =>
      if 256 < (ms.map (fun st => gp / cfg (sk st + TB.PERIOD))).sum then some (3, m0, m0)
      else
        let iv := ms.flatMap (strobeIntervals cfg gp guard)
        match iv.find? (fun a => decide (gp < a.2.2)) with
        | some a => some (3, a.1, a.1)
        | none => match firstOverlap gp iv with
          | some (a, b) => some (1, a, b)
          | none => none

/-- Two enabled strobing streams of one port that use one output in different groups (R235). -/
def outputShared (cfg : Nat → Nat) (sts : List Nat) : Option (Nat × Nat) :=
  let ms := sts.filter (fun st => (cfg (sk st + TB.S_CTL)).testBit 8)
  let c := fun st => cfg (sk st + TB.S_CTL)
  (ms.flatMap (fun a => (ms.filter (fun b => decide (a < b) && a / 4 == b / 4 && nbits (c a) 11 10 == nbits (c b) 11 10 &&
    nbits (c a) 21 16 != nbits (c b) 21 16)).map (fun b => (a, b)))).head?

/-- The absolute strobe interval of occurrence n with its guard. -/
def absStrobe (cfg : Nat → Nat) (epoch : Int) (st : Nat) (n : Int) : Int × Int :=
  let t := eN cfg epoch st n + signed 32 (cfg (sk st + TB.STROBE_OFS)) * ns16
  (t, t + ((cfg (sk st + TB.STROBE_LEN) + cfg (gk (TB.GRP_GUARD + 8 * nbits (cfg (sk st + TB.S_CTL)) 21 16)) : Nat) : Int) * ns16)

/-- The pair of streams whose strobes overlap across the switch (R244). -/
def State.transitionBreach (s : State) (set : SchedSet) (g : Nat) : Option (Nat × Nat) :=
  let olds := strobers s.oldCfg ((s.schStreams s.oldCfg).filter (fun st => s.bit (sk st + TB.S_STAT) 0)) g
  let news := strobers set.cfg (s.schStreams set.cfg) g
  (news.flatMap (fun b =>
    let bi := absStrobe set.cfg set.epoch b (s.newFirst set b).1
    (olds.filter (fun a =>
      let ep := s.oldEpoch (a / 128)
      let last := lastBefore s.oldCfg ep a set.act
      let end_ := (absStrobe s.oldCfg ep a last).2
      let n := Nat.min (last - (s.sch a).first + 1).toNat ((end_ - bi.1) / (s.oldCfg (sk a + TB.PERIOD) * 65536 : Nat) + 1).toNat
      (List.range n).any (fun i =>
        let ai := absStrobe s.oldCfg ep a (last - (i : Nat))
        decide (ai.1 < bi.2 ∧ bi.1 < ai.2)))).map (fun a => (a, b)))).head?

/-- The verdict on a set: LAST code, group, streams (R235, R242, R244). -/
def State.schVerdict (s : State) (set : SchedSet) : Nat × Nat × Nat × Nat :=
  let sts := s.schStreams set.cfg
  match s.allStreams.find? (schRange set.cfg) with
  | some st => (7, 0, st, st)
  | none =>
    if (List.range 64).any (fun g => decide (set.cfg (gk (TB.GRP_PERIOD + 8 * g)) < 1000000 ∨
        4000000000 < set.cfg (gk (TB.GRP_PERIOD + 8 * g)) ∨ 1000000 < set.cfg (gk (TB.GRP_GUARD + 8 * g)))) then (7, 0, 0, 0)
    else match (List.range 64).findSome? (fun g => (groupBreach set.cfg s.allStreams g).map (fun b => (g, b))) with
      | some (g, c, a, b) => (c, g, a, b)
      | none => match outputShared set.cfg sts with
        | some (a, b) => (4, 0, a, b)
        | none => match (List.range 64).findSome? (fun g => (s.transitionBreach set g).map (fun b => (g, b))) with
          | some (g, a, b) => (5, g, a, b)
          | none => (0, 0, 0, 0)

/-! ## The package-wide set (R242-R245) -/

/-- Offsets of the lead's part of a set: the group table and EPOCH. -/
def tableOffsets : List Nat :=
  ((List.range 64).flatMap (fun g => [TB.GRP_PERIOD + 8 * g, TB.GRP_GUARD + 8 * g])) ++ [TB.EPOCH0, TB.EPOCH1, TB.EPOCH2]

/-- The shadows of a package-wide set: every stream of the present dies, the lead's group table and EPOCH. -/
def State.schImage (s : State) : List (Nat × Word) :=
  (s.allStreams.flatMap (fun st => schOffsets.map (fun o => (sk st + o, s.rd (sk st + o))))) ++
    tableOffsets.map (fun o => (gk o, s.rd (tb s.lead + o)))

/-- SCHED_CSTAT.LAST set. -/
def State.schLast (s : State) (n : Nat) : State := s.wrFld (tb s.lead + TB.SCHED_CSTAT) 3 0 n

/-- SWITCH_PENDING of every stream (R243, R252). -/
def State.schPendBits (s : State) (b : Bool) : State := forEach s.allStreams s (fun t st => t.putBit (sk st + TB.S_STAT) 1 b)

/-- Whether no lead steward is reachable (R248): it is parked or lost, or every die is moored. -/
def State.leadDown (s : State) : Bool := s.parked.contains s.lead || s.declared.contains s.lead || s.packageMoored

/-- The activation time of a commit with the DT96 `act`: 0 stands for the commit time plus 2 ms (R242). -/
def State.actOf (s : State) (act : Nat) : Nat := if act = 0 then s.stamp s.lead + 2000000 * 65536 else dtUnpack act

/-- Why a commit with activation time `act` is refused before its checks (R242, R248), as a LAST code: BUSY, RANGE_REFUSED, SCHED_LATE, and
DIST_FAIL where no lead is reachable (log entry 105). -/
def State.schRefusal (s : State) (act : Nat) : Option Nat :=
  if s.sched.pend.isSome ∨ s.sched.checking.isSome then some 8
  else if act ≠ 0 ∧ dtValid act = false ∨ dtValid (s.rdDt (tb s.lead + TB.EPOCH0)) = false then some 7
  else if s.actOf act < s.stamp s.lead + 2000000 * 65536 then some 6
  else if s.leadDown then some 9
  else none

/-- The set that a commit takes. -/
def State.setNow (s : State) (act : Nat) : SchedSet := { act := s.actOf act, img := s.schImage }

/-- A schedule set taken with activation time `act`, or refused (R242). -/
def State.schTake (s : State) (act : Nat) : State :=
  match s.schRefusal act with
  | some c => s.schLast c
  | none => { s.undirty 9 0 with sched := { s.sched with checking := some (s.setNow act) } }

/-- What a stream had decided of a set that is discarded goes: occurrences from ACT on, and their pulses not yet issued. -/
def SchS.without (act : Int) (v : SchS) : SchS :=
  { v with newNext := none, edges := v.edges.filter (fun e => decide (e.e < act)), launched := v.launched.filter (fun e => decide (e.2.1 < act)) }

/-- A set that awaits activation discarded (R242). -/
def State.schDrop (s : State) (last : Nat) : State :=
  match s.sched.pend with
  | some set =>
    let s1 := forEach s.schs (s.schPendBits false) (fun t e => t.setSch e.1 (SchS.without set.act e.2))
    ({ s1 with sched := { s1.sched with pend := none } }.schLast last).clrBit (tb s.lead + TB.SCHED_CSTAT) 4
  | none => match s.sched.checking with
    | some _ => { s with sched := { s.sched with checking := none } }.schLast last
    | none => s

/-- SCHED_COMMIT (R242): on the lead; with CANCEL in the same write, CANCEL acts first. -/
def execSchedCommit (die req v : Nat) (s : State) : Res :=
  .next (s.onKey (tb die + TB.SCHED_COMMIT) req (fun s =>
    if v.testBit 0 = false ∨ die ≠ s.lead then s
    else (if v.testBit 1 then s.schDrop 10 else s).schTake (s.rdDt (tb s.lead + TB.SCHED_ACT0))))

/-- SCHED_CANCEL (R242): the set that awaits activation is discarded. -/
def execSchedCancel (die req v : Nat) (s : State) : Res :=
  .next (s.onKey (tb die + TB.SCHED_COMMIT) req (fun s =>
    if v.testBit 1 = false ∨ v.testBit 0 = true ∨ die ≠ s.lead then s else s.schDrop 10))

/-- An accepted set's group table and EPOCH copied to the partner steward (R245). -/
def State.schCopy (s : State) (set : SchedSet) : State :=
  if s.present (partner s.lead) then forEach tableOffsets s (fun t o => t.wrN (tb (partner s.lead) + o) (set.cfg (gk o))) else s

/-- The dies that the lead reaches over their modules. -/
def State.leadReaches (s : State) : List Nat := s.concs.filter (fun d => s.modState d (modTo s.lead) == 3)

/-- Whether an accepted set has its part on every present die, at its acceptance or since (R245). -/
def State.schSpread (s : State) (set : SchedSet) : Bool := s.concs.all (fun d => set.reached.contains d || s.leadReaches.contains d)

/-- A set abandoned on every die (R245). -/
def State.schAbandon (s : State) : State := forEach s.concs (s.schDrop 9) (fun s d => s.setBit (tb d + TB.SCHED_EVENTS) 4)

/-- SCHED_CSTAT and SCHED_CONFLICT take a verdict (R235, R254). -/
def State.schReport (s : State) (r : Nat × Nat × Nat × Nat) : State :=
  (s.schLast r.1).wrFld (tb s.lead + TB.SCHED_CSTAT) 13 8 r.2.1 |>.wrN (tb s.lead + TB.SCHED_CONFLICT) (r.2.2.1 + r.2.2.2 * 65536)

/-- SCHED_CHECK_DONE (R235, R242, R244, R245): the checks end; the set awaits ACT, or SCHED_CSTAT and SCHED_CONFLICT name the
first breach. -/
def execSchedCheckDone (s : State) : Res :=
  .next (match s.sched.checking with
    | none => s
    | some set =>
      let r := s.schVerdict set
      let s1 := ({ s with sched := { s.sched with checking := none } } : State).schReport r
      if r.1 = 0 then
        ((({ s1 with sched := { s1.sched with pend := some { set with reached := s.leadReaches } } }).setBit (tb s.lead + TB.SCHED_CSTAT) 4).schPendBits
          true).schCopy set
      else s1)

/-- SCHED_DIST_FAIL (R245): the accepted set has not reached every present die 1 ms before ACT: it is abandoned. -/
def execSchedDistFail (s : State) : Res :=
  .next (match s.sched.pend with
    | some set =>
      if s.schSpread set = false ∧ set.act ≤ s.stamp s.lead + 1000000 * 65536 then s.schAbandon else s
    | none => s)

/-- Occurrences of a stream's old schedule before ACT that are still to be decided (R243). -/
def State.oldLeft (s : State) (set : SchedSet) (st : Nat) : List Occ :=
  let ep := s.oldEpoch (st / 128)
  match (s.sch st).next with
  | some n =>
    if s.bit (sk st + TB.S_STAT) 0 then
      (List.range (lastBefore s.oldCfg ep st set.act - n + 1).toNat).map (fun i => occOf s.oldCfg ep st (n + (i : Nat)))
    else []
  | none => []

/-- A stream at ACT (R243), its schedule changed or not: the new schedule from its first occurrence, and what the old one still owes. -/
def State.schSwitch (s : State) (set : SchedSet) (st : Nat) : State :=
  let on := set.cfg (sk st + TB.S_CTL) % 2 == 1
  let f := s.newFirst set st
  let v := s.sch st
  (s.setSch st { v with
    next := if on then some (v.newNext.getD f.1) else none
    newNext := none
    owed := v.owed ++ s.oldLeft set st
    first := if on then f.1 else 0 })
    |>.addSat (skc st + TB.SCHED_SKIP) (if on then f.2 else 0)
    |>.putBit (sk st + TB.S_STAT) 0 on |>.clrBit (sk st + TB.S_STAT) 1

/-- SCHED_ACTIVATE (R243): device time has reached ACT: every stream switches and the set is in force; one that has not reached every die is
abandoned (R245). -/
def execSchedActivate (s : State) : Res :=
  .next (match s.sched.pend with
    | some set =>
      if s.stamp s.lead < set.act then s
      else if s.schSpread set = false then s.schAbandon
      else
        let s1 := forEach s.allStreams s (fun s st => s.schSwitch set st)
        let s2 := forEach (set.img.filter (fun e => decide (e.1 < tb 4))) s1 (fun s e => s.setAct e.1 e.2)
        let ep := fun i => wordOf (set.cfg (gk (TB.EPOCH0 + 4 * i)))
        let s3 := forEach s.concs s2 (fun s d =>
          s |>.wr (tb d + TB.EPOCH_ACT0) (ep 0) |>.wr (tb d + TB.EPOCH_ACT1) (ep 1) |>.wr (tb d + TB.EPOCH_ACT2) (ep 2)
            |>.setBit (tb d + TB.SCHED_EVENTS) 0 |>.pulse d 746)
        ({ s3 with sched := { s3.sched with pend := none, table := set.img.filter (fun e => decide (tb 4 ≤ e.1)) } }).clrBit
          (tb s.lead + TB.SCHED_CSTAT) 4
    | none => s)

/-! ## Steps (R247) -/

/-- STEP_ANNOUNCE (R247): pulses that start at or after the announced step's activation time are held back. -/
def execStepAnnounce (s : State) : Res :=
  .next (match s.tm.pendStep with
    | (a, _) :: _ => { s with sched := { s.sched with hold := some (a / 2 ^ 24) } }
    | [] => s)

/-- The first occurrence of a stream whose pulses all start at least 3 ms after a step to the new time `new` (R247). -/
def resumeAt (cfg : Nat → Nat) (epoch : Int) (st : Nat) (new : Int) : Int :=
  ceilInt (new + 3000000 * ns16 - (occOf cfg epoch st 0).start) (cfg (sk st + TB.PERIOD) * 65536)

/-- A stream at a step to the new time `new` (R247): its pulses not issued go, and the schedule in force, and an accepted set's, resume; what
they pass over counts in STEP_SKIP. -/
def State.stepStream (s : State) (new : Int) (st : Nat) : State :=
  let v := s.sch st
  let v1 : SchS := { v with edges := [], owed := [] }
  let a : SchS × Nat := match v.next with
    | some n =>
      let n1 := resumeAt s.oldCfg (s.oldEpoch (st / 128)) st new
      ({ v1 with next := some n1, first := min v.first n1 }, (n1 - n).toNat)
    | none => (v1, 0)
  let b : SchS × Nat := match s.sched.pend with
    | some set =>
      if set.cfg (sk st + TB.S_CTL) % 2 = 1 then
        let n := v.newNext.getD (s.newFirst set st).1
        let n1 := resumeAt set.cfg set.epoch st new
        if n < n1 then ({ a.1 with newNext := some n1 }, a.2 + (n1 - n).toNat) else a
      else a
    | none => a
  if b.1 = v then s else (s.setSch st b.1).addSat (skc st + TB.STEP_SKIP) b.2

/-- STEP_PULSE_CANCEL (R247): at a step announced for `from_` in the old time, which is `new` in the new, every port in RUN cancels pulses from
`from_` on, and each stream resumes; a moored die has no step. -/
def State.stepSched (s : State) (from_ new : Nat) : State :=
  let ds := s.concs.filter (fun d => !s.moored d)
  let ports := (List.range 128).filter (fun p => s.portOk p && s.lpRun p && s.lpRole p == 0 && ds.contains (p / 32))
  let s1 := forEach ports s (fun s p => (s.updPort p (fun v => { v with
    pulseq := v.pulseq ++ [{ bytes := [0xFF#8] ++ leBytes (dtPack from_) 12, pulse := false }] })).bchStart p)
  let s2 := forEach ds s1 (fun s d => (s.setBit (tb d + TB.SCHED_EVENTS) 3).pulse d 747)
  let s3 := forEach (s.allStreams.filter (fun st => ds.contains (st / 128))) s2 (fun s st => s.stepStream new st)
  { s3 with sched := { s3.sched with hold := none } }

/-! ## Values that act at the write (R232, R240) -/

/-- EXP_LEN_WRITE (R232): clamped into its range, with EXP_CLAMP. -/
def execExpLenWrite (stream req v : Nat) (s : State) : Res :=
  .next (s.onKey (sk stream + TB.EXP_LEN) req (fun s =>
    let k := sk stream
    let per := if s.bit (k + TB.S_STAT) 0 then s.actN (k + TB.PERIOD) else s.rdN (k + TB.PERIOD)
    let c := clampNat 1 (Nat.min (per - 1) 1000000000) (v % 2 ^ 32)
    (s.wrN (k + TB.EXP_LEN) c).putBit (k + TB.S_STAT) 2 (decide (c ≠ v % 2 ^ 32))))

/-- LEAD_WRITE (R240): LEAD, or MIN_MARGIN with `margin`, takes effect, or is refused with RANGE_REFUSED. -/
def execLeadWrite (port : Nat) (margin : Bool) (req v : Nat) (s : State) : Res :=
  .next (s.onKey (lk port + (if margin then TB.MIN_MARGIN else TB.LEAD)) req (fun s =>
    let lead := if margin then s.rdN (lk port + TB.LEAD) else v % 2 ^ 32
    let mm := if margin then v % 2 ^ 32 else s.rdN (lk port + TB.MIN_MARGIN)
    if lead < 20000 ∨ 1000000 < lead ∨ mm < 5000 ∨ 100000 < mm ∨ lead < mm + 10000 then
      s.setBit (tb (port / 32) + TB.SCHED_EVENTS) 5
    else s.wrN (lk port + (if margin then TB.MIN_MARGIN else TB.LEAD)) v))

end Sys2Proof.Machine
end

