-- ==== Sys2Proof/Machine/Ingest.lean ====
section
/-! DEFINITION. Stream ingest (R194-R227): bindings, frames, lines, records from ingest, and the application of parameter
sets. -/
namespace Sys2Proof.Machine
set_option Elab.async false

def State.sis1 (s : State) (st : Nat) : SiS := Tbl.get (fun _ => {}) s.sis st
def State.setSis (s : State) (st : Nat) (v : SiS) : State := { s with sis := Tbl.set (fun _ => {}) s.sis st v }
def State.updSis (s : State) (st : Nat) (f : SiS → SiS) : State := s.setSis st (f (s.sis1 st))
def State.pipe (s : State) (n : Nat) : PipeS := Tbl.get (fun _ => {}) s.pipes n
def State.setPipe (s : State) (n : Nat) (v : PipeS) : State := { s with pipes := Tbl.set (fun _ => {}) s.pipes n v }
def State.updPipe (s : State) (n : Nat) (f : PipeS → PipeS) : State := s.setPipe n (f (s.pipe n))

/-- Whether a device-wide stream, and pipeline, exists. -/
def State.streamOk (s : State) (st : Nat) : Bool := decide (st < 512) && s.present (st / 128)

/-- An event and a pulse source of an ingest context. -/
def State.siEvent (s : State) (st i : Nat) : State := s.setBit (si st + SI.EVENTS) i

/-! ## Parameter sets (R220-R224) -/

/-- Whether an offset of a PL block is a shadowed register (R256, R293, R326). -/
def plShadow (o : Nat) : Bool :=
  decide (o < 0x400) || (decide (0x8000 ≤ o) && decide (o < 0x8060)) || (decide (0x8400 ≤ o) && decide (o < 0x8810)) ||
  (decide (0x9000 ≤ o) && decide (o < 0x9400) && decide (o % 0x100 < 0x10)) || (decide (0xA000 ≤ o) && decide (o < 0xB000))

/-- Whether a key is a shadowed register of pipeline `n`. -/
def plKey (n k : Nat) : Bool := decide (pl n ≤ k) && decide (k < pl n + 0x10000) && plShadow (k - pl n)

/-- The image of a pipeline's shadow registers. -/
def State.plImage (s : State) (n : Nat) : Tbl Word := s.regs.filter (fun e => plKey n e.1)

/-- The image of a pipeline's active registers. -/
def State.plActive (s : State) (n : Nat) : Tbl Word := s.acts.filter (fun e => plKey n e.1)

/-- An image copied into a pipeline's active registers; RS_STAT follows (R220, R295). -/
def State.plApply (s : State) (n : Nat) (img : Tbl Word) : State :=
  let s1 := forEach img { s with acts := s.acts.filter (fun e => !plKey n e.1) } (fun s e => s.setAct e.1 e.2)
  let g := plParam img n
  s1.wrN (pl n + PL.RS_STAT) (nbits (g PL.RS_CTL) 3 0 + nbits (g PL.DPC_CTL) 2 2 * 16 + b2n (irSite g).isSome * 256)

/-- PENDING and SNAP of PA_STAT follow the pipeline (R227). -/
def State.paStat (s : State) (n : Nat) : State :=
  (s.wrFld (pl n + PL.PA_STAT) 2 0 (s.pipe n).sets.length).putBit (pl n + PL.PA_STAT) 3 (s.pipe n).snap.isSome

/-- Pending sets and a waiting snapshot discarded and counted in PA_DISCARD (R198, R221, R224). -/
def State.paDiscard (s : State) (n : Nat) (snap : Bool) : State :=
  let v := s.pipe n
  let c := v.sets.length + (if snap then b2n v.snap.isSome else 0)
  ((s.setPipe n { v with sets := [], snap := if snap then none else v.snap }).wrN (pl n + PL.PA_DISCARD)
    (s.rdN (pl n + PL.PA_DISCARD) + c)).paStat n

/-- Distance of a tag behind a frame number, and whether the set is due (R222). -/
def tagDist (ref : Nat) (f t : Nat) : Nat := let m := if ref = 0 then 2 ^ 16 else 2 ^ 32; (f % m + m - t % m) % m
def tagDue (ref f t : Nat) : Bool := decide (tagDist ref f t < if ref = 0 then 2 ^ 15 else 2 ^ 31)

/-- Due sets in order of tag distance, the oldest first, then of commit. -/
def insertSet (ref f : Nat) (a : PaSet) : List PaSet → List PaSet
  | [] => [a]
  | b :: t => if tagDist ref f b.tag < tagDist ref f a.tag then a :: b :: t else b :: insertSet ref f a t

/-- PARAM_APPLY (R222, R223): due sets or the snapshot applied at an admitted frame start. The answer tells whether a set
applied and whether one was late. -/
def State.paApply (s : State) (n sfn frame : Nat) : State × Bool × Bool :=
  let v := s.pipe n
  if s.bit (pl n + PL.PA_CTL) 0 = false then
    match v.snap with
    | some img => ((((s.setPipe n { v with snap := none }).plApply n img).wrN (pl n + PL.PA_APPLIED_FRAME) frame).paStat n, true, false)
    | none => (s, false, false)
  else
    let ref := s.fld (pl n + PL.PA_CTL) 1 1
    let f := if ref = 0 then sfn else frame
    let due := (v.sets.filter (fun x => tagDue ref f x.tag)).foldl (fun l x => insertSet ref f x l) []
    let lates := (due.filter (fun x => x.late || tagDist ref f x.tag != 0)).length
    let s1 := s.setPipe n { v with sets := v.sets.filter (fun x => !tagDue ref f x.tag) }
    match due.getLast? with
    | none => (s, false, false)
    | some x => ((((s1.plApply n x.img).wrN (pl n + PL.PA_APPLIED) x.tag).wrN (pl n + PL.PA_APPLIED_FRAME) frame).wrN
        (pl n + PL.PA_LATE) (s.rdN (pl n + PL.PA_LATE) + lates) |>.paStat n, true, decide (0 < lates))

/-- The stream whose active binding names pipeline `n` (R194, R226). -/
def State.boundStream (s : State) (n : Nat) : Option Nat :=
  ((List.range 128).map (fun k => n / 128 * 128 + k)).find? (fun st =>
    s.bit (si st + SI.STATE) 1 && s.fld (si st + SI.STATE) 14 8 == n % 128)

/-! ## Commit checks (R50, R195) -/

/-- The newest accepted parameter register of a pipeline: a waiting set, or the active one. -/
def State.plCommitted (s : State) (n off : Nat) : Nat :=
  match (s.pipe n).sets.getLast? with
  | some x => plParam x.img n off
  | none => match (s.pipe n).snap with
    | some img => plParam img n off
    | none => s.actN (pl n + off)

/-- Whether a sum of fractions exceeds `lim`. -/
def ratioAbove (lim : Nat) (l : List (Nat × Nat)) : Bool :=
  let t := l.foldl (fun (a : Nat × Nat) b => (a.1 * b.2 + b.1 * a.2, a.2 * b.2)) (0, 1)
  decide (lim * t.2 < t.1)

/-- R50 on a die, with the contexts and pipelines read through getters (pixels per ns: 0.5 a stream, 32 a die, 16 of
fall-back outputs): any stream, and all streams bound to pipelines, enabled or not. -/
def State.rateRefused (s : State) (die : Nat) (sv pv : Nat → Nat → Nat) : Bool :=
  let all := (List.range 128).map (fun k => 128 * die + k)
  let on := all.filter (fun st => (sv st SI.BIND).testBit 31)
  let area := fun st => nbits (sv st SI.GEOM) 13 0 * nbits (sv st SI.GEOM) 29 16
  s.present die && (all.any (fun st => decide (sv st SI.PERIOD < 2 * area st)) ||
    ratioAbove 32 (on.map (fun st => (area st, Nat.max 1 (sv st SI.PERIOD)))) ||
    ratioAbove 16 (on.map (fun st => (finArea (pv (128 * die + nbits (sv st SI.BIND) 6 0)), Nat.max 1 (sv st SI.PERIOD)))))

/-- Whether two enabled contexts name one pipeline (R195). -/
def bindRefused (die : Nat) (sv : Nat → Nat → Nat) : Bool :=
  let on := ((List.range 128).map (fun k => 128 * die + k)).filter (fun st => (sv st SI.CTL).testBit 0 && (sv st SI.BIND).testBit 31)
  on.any (fun a => on.any (fun b => decide (a < b) && nbits (sv a SI.BIND) 6 0 == nbits (sv b SI.BIND) 6 0))

/-- Whether a context's values lie outside their ranges (R225). -/
def siRange (sv : Nat → Nat) : Bool :=
  let dt := nbits (sv SI.CTL) 13 8
  let w := nbits (sv SI.GEOM) 13 0
  let h := nbits (sv SI.GEOM) 29 16
  decide (dt < 0x2A ∨ 0x2F < dt ∨ w < 16 ∨ 8192 < w ∨ h = 0 ∨ 8192 < h ∨ sv SI.PERIOD < 1000000 ∨ 4000000000 < sv SI.PERIOD ∨
    32 < nbits (sv SI.GATE) 5 0 ∨ 1000000 < sv SI.RO_LAT)

/-- The LAST code of a commit of the contexts `sts` of one die, the rest as committed (R195, R225). -/
def State.siVerdict (s : State) (die : Nat) (sts : List Nat) : Nat :=
  let sv := fun st o => if sts.contains st then s.rdN (si st + o) else s.actN (si st + o)
  if sts.any (fun st => siRange (sv st)) then 3
  else if bindRefused die sv then 1
  else if s.rateRefused die sv s.plCommitted then 2
  else 0

/-! ## Frames (R207-R215) -/

/-- Whether stamps of a stream are taken without a valid cable delay: every record of their frame is unsynchronised (R218). -/
def State.delayBad (s : State) (st : Nat) : Bool := !s.bit (lp (st / 4) + LP.DLY_STAT) 0

/-- Whether a record stamped now is unsynchronised by TB.STATUS.UNSYNC (R218). -/
def State.timeBad (s : State) (st : Nat) : Bool := s.bit (tb (st / 128) + TB.STATUS) 2

/-- DLY_FILT as ingest uses it (R218). -/
def State.usedDelay (s : State) (st : Nat) : Int :=
  if s.bit (lp (st / 4) + LP.DLY_STAT) 0 then s.rdI (lp (st / 4) + LP.DLY_FILT) else 0

/-- The readout estimate of an arrival stamp (R217). -/
def State.readout (s : State) (st arr roLat : Nat) : Nat := ((arr : Int) - s.usedDelay st - ((roLat * 65536 : Nat) : Int)).toNat

/-- A frame in a pipeline changed. -/
def State.updJob (s : State) (n st frame : Nat) (f : Job → Job) : State :=
  s.updPipe n (fun v => { v with jobs := v.jobs.map (fun j => if j.stream = st ∧ j.frame = frame then f j else j) })

/-- Every record of a frame is unsynchronised from now on (R218): its job, or its start where that still waits. -/
def State.markUnsync (s : State) (st frame : Nat) : State :=
  let s1 := s.updSis st (fun v => { v with
    unsync := true
    store := v.store.map (fun i => match i with
      | .start f => if f.frame = frame then .start { f with unsync := true } else .start f
      | x => x) })
  match (s.sis1 st).toPipe with
  | some n => s1.updJob n st frame (fun j => { j with unsync := true })
  | none => s1

/-- A record of ingest for the open frame: behind the frame's start where that still waits in the store (R213, R288). -/
def State.frameRec (s : State) (st : Nat) (h : RecHdr) (payload : List Byte) : State :=
  match (s.sis1 st).store.filterMap (fun i => match i with | .start f => some f.pipe | _ => none) with
  | [] => s.closeRec (st / 128) (st % 128) h payload
  | n :: _ => s.updSis st (fun v => { v with store := v.store ++ [.side n h payload] })

/-- A binding ends or becomes active: BOUND, BIND_PENDING, BIND_APPLIED. -/
def State.bindEnd (s : State) (st : Nat) : State :=
  s |>.clrBit (si st + SI.STATE) 1 |>.putBit (si st + SI.STATE) 2 (s.abit (si st + SI.BIND) 31) |>.siEvent st 9

/-- The line-time entries of FRAME_CLOSE (R215). -/
def lineTimes (v : SiS) (h : Nat) : List Byte :=
  (List.range h).flatMap (fun i => leBytes (match v.times.lookup i with
    | some t => Nat.min 0xFFFFFFFE ((t - v.start) / 65536)
    | none => 0xFFFFFFFF) 4)

/-- The FRAME_CLOSE record of an open frame (R213, R214). -/
def State.frameClose (s : State) (st code t : Nat) : FrameEnd :=
  let v := s.sis1 st
  let h := nbits v.geom 29 16
  let nlt := if v.ctl.testBit 1 then h else 0
  let short := decide (v.linesRx < h)
  let pay := leBytes v.linesRx 2 ++ leBytes (Nat.min 65535 v.extra) 2 ++ leBytes v.shortL 2 ++ leBytes v.longL 2 ++
    leBytes v.crcL 2 ++ leBytes v.ovf 2 ++ leBytes code 1 ++ zeros 17 ++ leBytes nlt 2 ++ lineTimes v nlt
  { hdr := { typ := 3, stream := st, source := 0, frame := s.rdN (si st + SI.FRAME), nlines := v.linesRx, time := t,
             flags := b2n short + 2 * b2n (decide (0 < v.extra)) + 16 * b2n (code != 0) + frameFlags (v.unsync || v.lastU) v.late }
    payload := padTo (roundUp pay.length 64) pay
    linesRx := v.linesRx
    short := short
    partialF := short || decide (0 < v.ovf) }

/-- A source of EP(2k + 1) of an ingest context (R475): 0 FRAME_END, 1 a line numbered `line`. -/
def State.iselPulse (s : State) (st what line t : Nat) : State :=
  let w := s.act (ef (st / 128) + EF.ISEL + 4 * (st % 128))
  let m := wbits w 1 0
  if (what = 0 ∧ m = 0) ∨ (what = 1 ∧ (m = 1 ∨ (m = 2 ∧ line = wbits w 28 16))) then
    s.pulseAt (st / 128) (2 * (st % 128) + 1) t
  else s

/-- An open frame ends, real (code 0) or implied, with stamp `t` and `steps` steps of device time before its end (R65, R209, R211, R219):
counters, events, its FRAME_CLOSE behind the lines of its pipeline, and a binding that waited for the frame's end (R197). -/
def State.closeFrame (s : State) (st code t0 steps : Nat) : State :=
  let s0 := if (s.sis1 st).steps ≠ steps then s.markUnsync st (s.rdN (si st + SI.FRAME)) else s
  let v := s0.sis1 st
  let t := Nat.max v.last t0
  let fe := s0.frameClose st code t
  let k := si st
  let s1 := s0.setSis st { v with
    isOpen := false
    last := t
    store := if v.toPipe.isSome then v.store ++ [.fin fe] else v.store }
  let s2 := s1 |>.inc (k + SI.FRAMES) |>.siEvent st 1 |>.clrBit (k + SI.STATE) 0 |>.wrFld (k + SI.STATE) 31 16 0
    |>.iselPulse st 0 0 t
  let s3 := if fe.short then (s2.inc (k + SI.SHORT_CNT)).siEvent st 2 else s2
  let s4 := if 0 < v.extra then (s3.inc (k + SI.LONG_CNT)).siEvent st 3 else s3
  let s5 := if code ≠ 0 then (s4.inc (k + SI.UNTERM_CNT)).siEvent st 4 else s4
  if s.bit (k + SI.STATE) 2 then s5.bindEnd st else s5

/-- The active static map of a set, and the entries ignored (R267). -/
def mapOf (rd : Nat → Nat) (g : Nat → Nat) : List (Nat × Nat) × Nat :=
  if nbits (g PL.DPC_CTL) 0 0 = 0 then ([], 0)
  else
    let base := if nbits (g PL.DPC_CTL) 2 2 = 1 then PL.MAP1_E else PL.MAP0_E
    let es := (List.range (nbits (g PL.DPC_CTL) 27 16)).map (fun i => (nbits (rd (base + 4 * i)) 12 0, nbits (rd (base + 4 * i)) 28 16))
    let r := es.foldl (fun (a : List (Nat × Nat) × Nat) e => match a.1.getLast? with
      | some l => if l.2 < e.2 ∨ (l.2 = e.2 ∧ l.1 < e.1) then (a.1 ++ [e], a.2) else (a.1, a.2 + 1)
      | none => ([e], a.2)) ([], 0)
    r

/-- SHED and WEIR sampled for a frame and its outputs (R316-R318): SHED_ACT, WEIR_ACT, OUT_ACT and their counters. -/
def State.sampleShed (s : State) (n st frame : Nat) : State × Bool × Bool × Nat :=
  let k := pl n
  let req := s.bit (k + PL.FIN_REQ) 0
  let trump := s.afld (sk st + TB.S_CTL) 2 1 == 0
  let shed := req && !trump
  let weir := s.bit (k + PL.FIN_REQ) 1
  let ctl := fun i => s.act (k + PL.OUT_CTL + 0x100 * i)
  let outs := ((List.range 4).map (fun i =>
    let c := (ctl i).toNat
    if c.testBit 0 ∧ frame % (nbits c 27 24 + 1) = 0 ∧ (c.testBit 8 ∨ (c.testBit 9 ∧ shed = true) ∨ (c.testBit 10 ∧ weir = true))
    then 2 ^ i else 0)).sum
  let bare := shed && (List.range 4).all (fun i => !((ctl i).toNat.testBit 0 && (ctl i).toNat.testBit 9))
  let s1 := if req && trump then (s.inc (k + PL.SHED_REFUSED)).setBit (k + PL.FIN_EVENTS) 3 else s
  let s2 := if s.bit (k + PL.FIN_STAT) 0 != shed then
    forEach s.stewards (s1.setBit (k + PL.FIN_EVENTS) 2) (fun s d => s.inc (epb d + EP.SHED_CHANGES)) else s1
  let s3 := if shed then s2.inc (k + PL.SHED_FRAMES) else s2
  let s4 := if bare then (s3.inc (k + PL.SHED_BARE)).setBit (k + PL.FIN_EVENTS) 5 else s3
  (s4 |>.putBit (k + PL.FIN_STAT) 0 shed |>.putBit (k + PL.FIN_STAT) 1 weir |>.wrFld (k + PL.FIN_STAT) 7 4 outs, shed, weir, outs)

/-- An admitted frame enters its pipeline: parameters, shedding, FRAME_OPEN (R213, R214, R222, R317). -/
def State.openInPipe (s : State) (st : Nat) (f : FrameIn) : State :=
  let n := f.pipe
  let r := s.paApply n f.wc f.frame
  let img := r.1.plActive n
  let g := plParam img n
  let m := mapOf (fun o => r.1.rdN (pl n + o)) g
  let s1 := if 0 < m.2 then (r.1.addSat (pl n + PL.MAP_ORDER) m.2).setBit (pl n + PL.EVENTS) 2 else r.1
  let q := s1.sampleShed n st f.frame
  let a := q.1.attribTrigger st f.time
  let job : Job := {
    stream := st, frame := f.frame, start := f.time, width := nbits f.geom 13 0, height := nbits f.geom 29 16, dt := nbits f.ctl 13 8,
    params := img, map := m.1, unsync := f.unsync, startU := f.startU, late := r.2.2, shed := q.2.1, weir := q.2.2.1, outs := q.2.2.2,
    finDone := q.2.2.2 == 0 }
  let pay := leBytes f.wc 2 ++ leBytes f.vc 1 ++ leBytes (nbits f.ctl 13 8) 1 ++ leBytes (nbits f.geom 13 0) 2 ++
    leBytes (nbits f.geom 29 16) 2 ++ leBytes (dtPack f.arr) 12 ++ leBytes (unsignedOf 32 f.delay) 4 ++
    leBytes f.roLat 4 ++ leBytes n 2 ++ leBytes (b2n r.2.1 + 2 * b2n r.2.2) 2 ++ leBytes (a.1.rdN (pl n + PL.PA_APPLIED)) 4 ++
    leBytes a.2 12 ++ leBytes f.period 4 ++ zeros 12
  let s2 := (a.1.updPipe n (fun p => { p with jobs := p.jobs ++ [job] })).updSis st (fun v => { v with
    lastNum := some (f.wc, f.frame)
    late := if s.rdN (si st + SI.FRAME) = f.frame then r.2.2 else v.late })
  s2.closeRec (st / 128) (st % 128)
    { typ := 1, stream := st, source := 0, frame := f.frame, time := f.time, flags := frameFlags (f.unsync || f.startU) r.2.2 } pay

/-- The frame of a pipeline that its raw stage works on. -/
def State.rawJob (s : State) (n : Nat) : Option Job := (s.pipe n).jobs.find? (fun j => !j.rawDone)

/-- Records of ingest at the head of a line store whose frame has been opened are delivered (R213), with the flags of their own frame. -/
def State.drainSide (s : State) (st : Nat) : Nat → State
  | 0 => s
  | n + 1 =>
    let v := s.sis1 st
    match v.store with
    | .side p h pay :: rest =>
      let fl := (((s.pipe p).jobs.find? (fun j => j.stream == st && j.frame == h.frame)).map (fun j => frameFlags j.unsync j.late)).getD 0
      ((s.setSis st { v with store := rest }).closeRec (st / 128) (st % 128) { h with flags := h.flags ||| fl } pay).drainSide st n
    | _ => s

/-- The head of a stream's line store is a frame start whose pipeline has completed its last frame: the frame enters it (R200, R288). -/
def State.startWaiting (s : State) (st : Nat) : State :=
  let v := s.sis1 st
  match v.store with
  | .start f :: rest =>
    if (s.rawJob f.pipe).isSome then s
    else ((s.setSis st { v with store := rest }).openInPipe st f).drainSide st rest.length
  | _ => s

/-- A waiting binding becomes active at a frame start (BIND_ACTIVATE, R197, R198); none where another stream's open frame still goes to
the pipeline. -/
def State.bindActivate (s : State) (st : Nat) : Option State :=
  let n := st / 128 * 128 + s.afld (si st + SI.BIND) 6 0
  let others := ((List.range 128).map (fun k => st / 128 * 128 + k)).filter (fun o => o != st)
  if s.bit (si st + SI.STATE) 2 = false then some s
  else if others.any (fun o => (s.sis1 o).isOpen && (s.sis1 o).toPipe == some n) then none
  else
    let s1 := match s.boundStream n with
      | some other => if other = st then s else (s.clrBit (si other + SI.STATE) 1).siEvent other 9
      | none => s
    some (((s1 |>.wrFld (si st + SI.STATE) 14 8 (n % 128) |>.setBit (si st + SI.STATE) 1 |>.clrBit (si st + SI.STATE) 2).siEvent st 9).paDiscard n true)

/-- A frame start taken by an enabled context (R207, R208, R212); where its pipeline still completes a frame, or lines of the stream's last
one still wait, the start waits in the line store (R200, R288). -/
def State.takeStart (s : State) (st : Nat) (k : Pkt) : State :=
  let s0 := if (s.sis1 st).isOpen then s.closeFrame st 1 (s.sis1 st).lastRo k.steps else s
  let v := s0.sis1 st
  let ro := s0.actN (si st + SI.RO_LAT)
  let t := s0.readout st k.time ro
  let per := s0.actN (si st + SI.PERIOD)
  let gate := s0.afld (si st + SI.GATE) 5 0
  let s1 := s0.setSis st { v with lastPkt := k.time }
  let admitted := match v.lastAdm with | some a => decide (a + per * (64 - gate) * 1024 ≤ t) | none => true
  if admitted = false then
    ((s1.updSis st (fun v => { v with dropping := true })).inc (si st + SI.RATE_DROP)).siEvent st 6
  else match s1.bindActivate st with
    | none => ((s1.updSis st (fun v => { v with dropping := true })).inc (si st + SI.BIND_COLLIDE)).siEvent st 7
    | some s2 =>
      let frame := v.frameNext
      let bound := s2.bit (si st + SI.STATE) 1
      let pipe := st / 128 * 128 + s2.fld (si st + SI.STATE) 14 8
      let f : FrameIn := {
        pipe := pipe
        wc := k.wc
        vc := k.vc
        arr := k.time
        time := t
        frame := frame
        ctl := s2.actN (si st + SI.CTL)
        geom := s2.actN (si st + SI.GEOM)
        roLat := ro
        period := per
        delay := s2.usedDelay st
        unsync := s2.delayBad st
        startU := s2.timeBad st }
      let s3 := s2.setSis st { v with
        lastAdm := some t
        isOpen := true
        dropping := false
        start := t
        last := t
        lastRo := t
        lastPkt := k.time
        ctl := f.ctl
        geom := f.geom
        roLat := ro
        lineNo := 0
        linesRx := 0
        extra := 0
        shortL := 0
        longL := 0
        crcL := 0
        ovf := 0
        times := []
        unsync := f.unsync
        lastU := f.startU
        late := false
        steps := k.steps
        frameNext := (frame + 1) % 2 ^ 32
        lastNum := if bound then v.lastNum else some (k.wc, frame)
        toPipe := if bound then some pipe else none
        store := if bound then v.store ++ [.start f] else v.store }
      let s4 := s3 |>.wrN (si st + SI.FRAME) frame |>.wrN (si st + SI.SENSOR_FN) k.wc |>.wrFld (si st + SI.STATE) 31 16 0
        |>.setBit (si st + SI.STATE) 0 |>.wrDt (si st + SI.FS_TIME0) (dtPack t) |>.siEvent st 0
        |>.pulseAt (st / 128) (2 * (st % 128)) t
      s4.startWaiting st

/-! ## Packets from the landing FIFO (R201, R202) -/

/-- The stream of a FIFO entry. -/
def streamOf (port : Nat) (k : Pkt) : Nat := 4 * port + k.slot

/-- Whether a packet is passed over: line starts and ends, packets of which only the reserved last word was kept. -/
def skippable (k : Pkt) : Bool := !k.brk && (!k.sop || k.di % 64 == 2 || k.di % 64 == 3)

/-- A packet of the open frame is accepted (R65, R211, R218): the base of an implied end's stamp and of the timeout, and the frame's
synchronisation. -/
def State.seePacket (s : State) (st : Nat) (k : Pkt) : State :=
  let v := s.sis1 st
  let s1 := s.setSis st { v with lastRo := s.readout st k.time v.roLat, lastPkt := k.time, lastU := s.timeBad st }
  if v.unsync = false ∧ (s.delayBad st = true ∨ v.steps ≠ k.steps) then s1.markUnsync st (s.rdN (si st + SI.FRAME)) else s1

/-- Packets at the head that ingest accepts and ignores are read and dropped (R202), at most `n`. -/
def State.skipEntries (s : State) (port : Nat) : Nat → State
  | 0 => s
  | n + 1 => match s.nextPkt port with
    | none => s
    | some (k, s1) =>
      if skippable k = false then s
      else
        let st := streamOf port k
        let s2 := if k.sop && s.abit (si st + SI.CTL) 0 && (s.sis1 st).isOpen then s1.seePacket st k else s1
        s2.skipEntries port n

/-- The packet at the head of a port's landing FIFO taken when it satisfies `f`, and acted on; that of a disabled context is
read and discarded (R199). -/
def State.takeEntry (s : State) (port : Nat) (f : Pkt → Bool) (act : State → Nat → Pkt → State) : State :=
  if s.portOk port = false then s
  else
    let v := s.port port
    let s1 := s.skipEntries port (v.line.length + v.fifo.length)
    match s1.nextPkt port with
    | none => s1
    | some (k, s2) =>
      if f k then
        if s.abit (si (streamOf port k) + SI.CTL) 0 then act s2 (streamOf port k) k else s2
      else s1

/-- A stamp of the open frame for an accepted packet: the readout estimate held to the previous stamp (R217, R219). -/
def State.frameStamp (s : State) (st : Nat) (k : Pkt) : State × Nat :=
  let v := s.sis1 st
  let t := Nat.max v.last (s.readout st k.time v.roLat)
  ((s.seePacket st k).updSis st (fun v => { v with last := t, lastRo := t }), t)

/-- FRAME_START (R207). -/
def execFrameStart (port : Nat) (s : State) : Res :=
  .next (s.takeEntry port (fun k => !k.brk && k.di % 64 == 0) (fun s st k => s.takeStart st k))

/-- FRAME_END (R202). -/
def execFrameEnd (port : Nat) (s : State) : Res :=
  .next (s.takeEntry port (fun k => !k.brk && k.di % 64 == 1) (fun s st k =>
    let v := s.sis1 st
    if v.isOpen then let r := s.frameStamp st k; r.1.closeFrame st 0 r.2 k.steps
    else if v.dropping then s
    else s.inc (si st + SI.ORPHAN)))

/-- An image line of the open frame (R203-R205, R209). A discarded line is not an accepted packet (R211). -/
def State.takeLine (s : State) (st : Nat) (k : Pkt) : State :=
  let v0 := s.sis1 st
  let b := si st
  let w := nbits v0.geom 13 0
  if nbits v0.geom 29 16 ≤ v0.lineNo then s.setSis st { v0 with extra := v0.extra + 1, lineNo := v0.lineNo + 1 }
  else
    let used := (v0.store.map (fun i => match i with | .line l => l.bytes.length | _ => 0)).sum
    if v0.toPipe.isSome ∧ 65536 < used + k.payload.length then
      ((s.setSis st { v0 with ovf := v0.ovf + 1, lineNo := v0.lineNo + 1 }).inc (b + SI.LINE_OVF)).siEvent st 8
    else
      let r := s.frameStamp st k
      let v := r.1.sis1 st
      let px := pixelCount (nbits v.ctl 13 8) k.payload.length
      let short := decide (px < w) || k.trunc
      let long := decide (w < px)
      let crc := k.crcErr || k.rsFail || k.trunc
      let line : SLine := { n := v.lineNo, bytes := k.payload, flags := b2n short + 2 * b2n long + 4 * b2n crc + 16 * b2n v.lastU, time := r.2 }
      let s1 := r.1.setSis st { v with
        lineNo := v.lineNo + 1
        linesRx := v.linesRx + 1
        shortL := v.shortL + b2n short
        longL := v.longL + b2n long
        crcL := v.crcL + b2n crc
        times := v.times ++ [(v.lineNo, r.2)]
        store := if v.toPipe.isSome then v.store ++ [.line line] else v.store }
      let s2 := s1 |>.addSat (b + SI.SHORT_LINE_CNT) (b2n short) |>.addSat (b + SI.LONG_LINE_CNT) (b2n long)
        |>.addSat (b + SI.CRC_LINES) (b2n crc) |>.wrFld (b + SI.STATE) 31 16 (v.linesRx + 1) |>.iselPulse st 1 v.lineNo r.2
      if crc then s2.siEvent st 5 else s2

/-- IMAGE_LINE (R202, R203): a RAW packet; one of another data type counts in DT_MISMATCH, one without an open frame in
ORPHAN, and one of a dropped frame is discarded (R208). -/
def execImageLine (port : Nat) (s : State) : Res :=
  .next (s.takeEntry port (fun k => !k.brk && decide (0x2A ≤ k.di % 64) && decide (k.di % 64 ≤ 0x2F)) (fun s st k =>
    let v := s.sis1 st
    let dt := if v.isOpen then nbits v.ctl 13 8 else s.afld (si st + SI.CTL) 13 8
    if v.dropping && !v.isOpen then s
    else if k.di % 64 ≠ dt then s.inc (si st + SI.DT_MISMATCH)
    else if v.isOpen then s.takeLine st k
    else s.inc (si st + SI.ORPHAN)))

/-- GENERIC_SHORT_PACKET (R202, R405): with GSP_EN and an active binding, an EVENT record. -/
def execGenericShortPacket (port : Nat) (s : State) : Res :=
  .next (s.takeEntry port (fun k => !k.brk && decide (8 ≤ k.di % 64) && decide (k.di % 64 ≤ 15)) (fun s st k =>
    let v := s.sis1 st
    if (v.dropping && !v.isOpen) || !s.abit (si st + SI.CTL) 3 || !s.bit (si st + SI.STATE) 1 then s
    else
      let s1 := if v.isOpen then s.seePacket st k else s
      let ro := if v.isOpen then v.roLat else s.actN (si st + SI.RO_LAT)
      s1.frameRec st
        { typ := 6, stream := st, source := 2, frame := s.rdN (si st + SI.FRAME), time := s.readout st k.time ro,
          flags := frameFlags ((if v.isOpen then (s1.sis1 st).unsync else s.delayBad st) || s.timeBad st) (v.isOpen && v.late) }
        (padTo 64 (leBytes k.di 1 ++ leBytes k.vc 1 ++ leBytes k.wc 2 ++ leBytes (dtPack k.time) 12))))

/-- SIDE_PACKET (R202): with SIDE_EN and an open frame that a pipeline takes, a RAW_LINES record with SOURCE 0x0001. -/
def execSidePacket (port : Nat) (s : State) : Res :=
  .next (s.takeEntry port (fun k => !k.brk && (k.di % 64 == 0x12 || (decide (0x30 ≤ k.di % 64) && decide (k.di % 64 ≤ 0x37))))
    (fun s st k =>
      let v := s.sis1 st
      if v.isOpen = false ∨ s.abit (si st + SI.CTL) 2 = false ∨ v.toPipe = none then s
      else
        let r := s.frameStamp st k
        r.1.frameRec st
          { typ := 2, stream := st, source := 1, frame := s.rdN (si st + SI.FRAME), time := r.2,
            flags := frameFlags ((r.1.sis1 st).unsync || s.timeBad st) v.late }
          (padTo (roundUp k.payload.length 64) k.payload)))

/-- BREAK_ENTRY (R209, R210). -/
def execBreakEntry (port : Nat) (s : State) : Res :=
  .next (s.takeEntry port (fun k => k.brk) (fun s st k =>
    let s1 := if (s.sis1 st).isOpen then s.closeFrame st 2 (s.sis1 st).lastRo k.steps else s
    (s1.inc (si st + SI.LINK_BREAK)).siEvent st 10))

/-- FRAME_TIMEOUT (R209, R211): no packet of the stream for PERIOD ns with a frame open. -/
def execFrameTimeout (stream : Nat) (s : State) : Res :=
  let v := s.sis1 stream
  .next (if s.streamOk stream ∧ s.finalC = false ∧ v.isOpen ∧ v.lastPkt + s.actN (si stream + SI.PERIOD) * 65536 ≤ s.stamp (stream / 128) then
    s.closeFrame stream 3 v.lastRo s.tm.steps else s)

/-! ## Commits (R195-R200, R220-R224) -/

/-- The shadowed registers of a context. -/
def siShadowed (st : Nat) : List Nat :=
  [SI.CTL, SI.BIND, SI.GEOM, SI.PERIOD, SI.GATE, SI.RO_LAT].map (fun o => si st + o)

/-- What a committed EN and BIND change do (R197, R199, R212). A valid binding that is not active, in a context that EN now enables or
whose BIND changed, waits for a frame start. -/
def State.siApply (s : State) (st : Nat) (oldCtl oldBind : Word) : State :=
  let en0 := oldCtl.toNat.testBit 0
  let en1 := s.abit (si st + SI.CTL) 0
  let s1 := if en0 && !en1 && (s.sis1 st).isOpen then s.closeFrame st 3 (s.sis1 st).lastRo s.tm.steps else s
  let s2 := if !en0 && en1 then
    (s1.updSis st (fun v => { v with frameNext := 0, lastAdm := none, lastNum := none, dropping := false })).wrN (si st + SI.FRAME) 0 else s1
  let bind := s.act (si st + SI.BIND)
  let bound := s2.bit (si st + SI.STATE) 1
  if bind = oldBind ∧ (bound = true ∨ (en0 || !en1) = true) then s2
  else if bound = true ∧ bind.toNat.testBit 31 = true ∧ s2.fld (si st + SI.STATE) 14 8 = wbits bind 6 0 then
    s2.clrBit (si st + SI.STATE) 2
  else if bound = true ∧ (s2.sis1 st).isOpen = true then s2.setBit (si st + SI.STATE) 2
  else if bound then s2.bindEnd st
  else s2.putBit (si st + SI.STATE) 2 (bind.toNat.testBit 31)

/-- Contexts of one die committed as one set, already accepted. -/
def State.siCommitAll (s : State) (sts : List Nat) : State :=
  forEach sts s (fun t st =>
    (((t.undirty 2 st).commitRegs (siShadowed st)).wrFld (si st + SI.CFG_STAT) 2 0 0).siApply st (s.act (si st + SI.CTL)) (s.act (si st + SI.BIND)))

/-- A refused commit of contexts of one die: CFG_STAT of each, and the die's error log (R195). -/
def State.siRefuse (s : State) (sts : List Nat) (req c : Nat) : State :=
  forEach sts s (fun s st => (s.wrFld (si st + SI.CFG_STAT) 2 0 c).logRefused (st / 128) c 0x02 req (st % 128))

/-- SI_COMMIT (R195): checked against the committed state of the die's contexts; a refusal goes to CFG_STAT and the error
log. -/
def execSiCommit (stream req v : Nat) (s : State) : Res :=
  .next (s.onKey (si stream + SI.COMMIT) req (fun s =>
    if v.testBit 0 = false then s
    else
      let c := s.siVerdict (stream / 128) [stream]
      if c = 0 then s.siCommitAll [stream]
      else s.siRefuse [stream] req c))

/-- The verdict on the shadow registers of a pipeline: LAST codes of the raw and of the finishing stage (R292, R324). -/
def State.plVerdict (s : State) (n : Nat) : Nat × Nat :=
  let g := fun o => s.rdN (pl n + o)
  let pv := fun p o => if p = n then g o else s.plCommitted p o
  let f := finBreach g
  (rawBreach g, if f ≠ 0 then f else if s.rateRefused (n / 128) (fun st o => s.actN (si st + o)) pv then 4 else 0)

/-- STEP_X and STEP_Y of the committed set (R308). -/
def State.plSteps (s : State) (n : Nat) : State :=
  forEach (List.range 4) s (fun s i =>
    let o := pl n + 0x100 * i
    (s.wrN (o + PL.STEP_X) (scaleStep (s.fld (o + PL.CROP_SIZE) 13 0) (s.fld (o + PL.OUT_SIZE) 12 0))).wrN (o + PL.STEP_Y)
      (scaleStep (s.fld (o + PL.CROP_SIZE) 29 16) (s.fld (o + PL.OUT_SIZE) 29 16)))

/-- An accepted parameter commit (R220, R221, R223). -/
def State.plTake (s : State) (n : Nat) : State :=
  let v := s.pipe n
  let k := pl n
  let img := s.plImage n
  let s1 := (((s.undirty 3 n).wrFld (k + PL.RS_CFG_STAT) 3 0 0).wrFld (k + PL.FIN_CFG_STAT) 2 0 0).plSteps n
  match s.boundStream n with
  | none => (s1.plApply n img).wrFld (k + PL.PA_STAT) 9 8 2
  | some st =>
    if s.bit (k + PL.PA_CTL) 0 = false then
      ((s1.setPipe n { v with snap := some img }).wrFld (k + PL.PA_STAT) 9 8 0).paStat n
    else
      let ref := s.fld (k + PL.PA_CTL) 1 1
      let tag := if ref = 0 then s.fld (k + PL.PA_TAG) 15 0 else s.rdN (k + PL.PA_TAG)
      let late := (s.sis1 st).lastNum.any (fun f => tagDue ref (if ref = 0 then f.1 else f.2) tag)
      ((s1.setPipe n { v with sets := v.sets ++ [{ tag := tag, img := img, late := late }] }).wrFld (k + PL.PA_STAT) 9 8 0).paStat n

/-- A refused parameter commit of pipeline `n` with the LAST codes `r` of the two stages (R292, R324). -/
def State.plRefuse (s : State) (n req : Nat) (r : Nat × Nat) : State :=
  let k := pl n
  let s1 := if r.1 ≠ 0 then
    ((s.wrFld (k + PL.RS_CFG_STAT) 3 0 r.1).setBit (k + PL.EVENTS) 4).logRefused (n / 128) r.1 0x03 req (n % 128) else s
  if r.2 ≠ 0 then
    ((s1.wrFld (k + PL.FIN_CFG_STAT) 2 0 r.2).setBit (k + PL.FIN_EVENTS) 4).logRefused (n / 128) r.2 0x03 req (n % 128)
  else s1

/-- PL_COMMIT (R220, R221, R292, R324): a snapshot, a pending set, an immediate application, PSET_FULL, or a refusal. -/
def execPlCommit (pipe req v : Nat) (s : State) : Res :=
  .next (s.onKey (pl pipe + PL.COMMIT) req (fun s =>
    let k := pl pipe
    let r := s.plVerdict pipe
    if v.testBit 0 = false then s
    else if r.1 ≠ 0 ∨ r.2 ≠ 0 then s.plRefuse pipe req r
    else if s.bit (k + PL.PA_CTL) 0 = true ∧ (s.boundStream pipe).isSome = true ∧ 4 ≤ (s.pipe pipe).sets.length then
      s.wrFld (k + PL.PA_STAT) 9 8 1
    else s.plTake pipe))

/-- PA_FLUSH (R221): all pending sets are discarded. -/
def execPaFlush (pipe req v : Nat) (s : State) : Res :=
  .next (s.onKey (pl pipe + PL.PA_CMD) req (fun s => if v.testBit 0 then s.paDiscard pipe false else s))

/-- PA_CTL_WRITE (R224): takes effect at the write; a change discards pending sets and a snapshot. -/
def execPaCtlWrite (pipe req v : Nat) (s : State) : Res :=
  .next (s.onKey (pl pipe + PL.PA_CTL) req (fun s =>
    let s1 := s.wrFld (pl pipe + PL.PA_CTL) 1 0 v
    if s.fld (pl pipe + PL.PA_CTL) 1 0 ≠ v % 4 then s1.paDiscard pipe true else s1))

/-- FS_TIME_READ (R225): the read of FS_TIME0 latches the other two words. -/
def execFsTimeRead (stream req : Nat) (s : State) : Res :=
  .next (s.onKey (si stream + SI.FS_TIME0) req (fun s =>
    let k := si stream
    ((s.latch req (k + SI.FS_TIME1) (s.rd (k + SI.FS_TIME1))).latch req (k + SI.FS_TIME2) (s.rd (k + SI.FS_TIME2))).respond
      (.data [s.rd (k + SI.FS_TIME0)])))

end Sys2Proof.Machine
end

