-- ==== Sys2Proof/Machine/Pipe.lean ====
section
/-! DEFINITION. The pipelines at work (R255-R329): lines through the raw stage, tap records and statistics, the finishing
queue, output lines and bands, and the reset of a pipeline. -/
namespace Sys2Proof.Machine
set_option Elab.async false

/-- A producer of pipeline `n`: 0-3 T0, T1, T2, TI, 4 STATS, 5-8 F0-F3 (R334). -/
def pipeProd (n i : Nat) : Nat := 128 + 9 * (n % 128) + i

/-- A source of EP(256 + n) that PSEL may select (R475). -/
def State.pselPulse (s : State) (n i : Nat) : State :=
  if s.abit (ef (n / 128) + EF.PSEL + 4 * (n % 128)) i then s.pulse (n / 128) (256 + n % 128) else s

/-- A frame of a pipeline by its identity. -/
def State.jobOf (s : State) (n st frame : Nat) : Option Job :=
  (s.pipe n).jobs.find? (fun j => j.stream == st && j.frame == frame)

/-- Frames that have left both stages are forgotten. -/
def State.dropJobs (s : State) (n : Nat) : State :=
  s.updPipe n (fun v => { v with jobs := v.jobs.filter (fun j => !(j.rawDone && j.finDone)) })

/-! ## Tap records (R276-R280) -/

def tapRec (j : Job) (k : Nat) : TapRec := Tbl.get (fun _ => {}) j.taps k

/-- TAP_RECORD_CLOSE (R280). A record that the basin drops pulses nothing (R295, log entry 100). -/
def State.tapClose (s : State) (n st frame k : Nat) : State :=
  match s.jobOf n st frame with
  | none => s
  | some j =>
    let r := tapRec j k
    if r.n = 0 then s
    else
      let s1 := s.updJob n st frame (fun j => { j with taps := Tbl.set (fun _ => {}) j.taps k {} })
      let len := roundUp r.bytes.length 64
      let s2 := s1.closeRec (n / 128) (pipeProd n k)
        { typ := 2, stream := st, source := 0x10 + k, frame := frame, line := r.first, nlines := r.n, time := r.time,
          flags := lineFlags r.flags + frameFlags (j.unsync || r.flags.testBit 4) j.late }
        (padTo len r.bytes)
      if s1.recTaken (n / 128) (pipeProd n k) st len then s2.pselPulse n k else s2

/-- A line of a tap joins its open record, which takes its cells (R278-R280, R334); a shed frame and a disabled tap write none (R277, R317). -/
def State.tapPut (s : State) (n st frame k : Nat) (row : Row) : State :=
  match s.jobOf n st frame with
  | none => s
  | some j =>
    let tap := plParam j.params n (PL.TAP_T0 + 4 * k)
    if tap.testBit 0 = false ∨ j.shed = true then s
    else
      let b := tapLine tap row.px (row.flags % 8)
      let r0 := tapRec j k
      let s1 := if 0 < r0.n ∧ (row.y ≠ r0.first + r0.n ∨ 262144 < r0.bytes.length + b.length) then s.tapClose n st frame k else s
      let s2 := s1.updJob n st frame (fun j =>
        let r := tapRec j k
        let r' : TapRec := {
          first := if r.n = 0 then row.y else r.first
          n := r.n + 1
          bytes := r.bytes ++ b
          flags := r.flags ||| (row.flags % 8 + if r.n = 0 then row.flags / 16 * 16 else 0)
          time := if r.n = 0 then row.time else r.time }
        { j with taps := Tbl.set (fun _ => {}) j.taps k r' })
      match s2.jobOf n st frame with
      | none => s2
      | some j2 =>
        let s3 := s2.growRec (n / 128) (pipeProd n k) st (48 + (tapRec j2 k).bytes.length)
        if nbits tap 21 16 ≤ (tapRec j2 k).n then s3.tapClose n st frame k else s3

/-! ## Lines through the raw stage (R255-R274, R287-R289) -/

/-- The lines of `src` beyond the last of `done` that are due once line `m` is unpacked, `d` lines behind it. -/
def dueRows (src done : List Row) (m d : Nat) : List Row :=
  src.filter (fun r => decide (r.y + d ≤ m) && (match done.getLast? with | none => true | some l => decide (l.y < r.y)))

/-- Flags of a line formed from lines within 2 of it: a word as read from a line buffer marks it (R289; bit 3 is the mark
itself). -/
def formedFlags (src : List Row) (r : Row) : Nat :=
  if src.any (fun q => decide (r.y ≤ q.y + 2) && decide (q.y ≤ r.y + 2) && q.flags.testBit 3) then r.flags ||| 12 else r.flags

/-- A line marked by R289 counts once. -/
def State.eccLine (s : State) (n st frame y : Nat) : State :=
  match s.jobOf n st frame with
  | none => s
  | some j =>
    if j.ecc.contains y then s
    else ((s.updJob n st frame (fun j => { j with ecc := y :: j.ecc })).inc (pl n + PL.ECC_UNCORR)).setBit (pl n + PL.EVENTS) 3

/-- D of a line formed (R266-R270): counters, T1. -/
def State.formD (s : State) (n st frame : Nat) (r : Row) : State :=
  match s.jobOf n st frame with
  | none => s
  | some j =>
    let g := plParam j.params n
    let d := defectLine g j.map j.rows r.y r.px
    let row : Row := { r with px := d.map (fun p => p.1), flags := formedFlags j.rows r }
    let cnt := fun c => (d.filter (fun p => p.2 == c)).length
    let sat := (row.px.filter (fun v => decide (nbits (g PL.SAT_LVL) 23 0 ≤ v))).length
    let s1 := s.updJob n st frame (fun j => { j with dRows := j.dRows ++ [row], satTotal := j.satTotal + sat })
    let k := pl n
    let s2 := s1 |>.addSat (k + PL.DPC_STATIC) (cnt 1) |>.addSat (k + PL.DPC_HOT) (cnt 2) |>.addSat (k + PL.DPC_COLD) (cnt 3)
      |>.addSat (k + PL.DPC_ISOL) (cnt 4) |>.addSat (k + PL.SAT_PIX) sat
    (if row.flags.testBit 3 then s2.eccLine n st frame r.y else s2).tapPut n st frame 1 row

/-- Lines that wait in a pipeline's finishing queue. -/
def State.finLevel (s : State) (n : Nat) : Nat := ((s.pipe n).jobs.map (fun j => j.finq.length)).sum

def State.finStat (s : State) (n : Nat) : State := s.wrFld (pl n + PL.FIN_STAT) 20 16 (s.finLevel n)

/-- A Bayer line arrives at the finishing queue, or is dropped from finishing (FIN_LINE_DROP, R316, R321). -/
def State.finPut (s : State) (n st frame y : Nat) : State :=
  match s.jobOf n st frame with
  | none => s
  | some j =>
    if j.outs = 0 ∨ j.finDone = true then s
    else if 16 ≤ s.finLevel n then
      ((s.updJob n st frame (fun j => { j with dropped := j.dropped ++ [y] })).inc (pl n + PL.FIN_LINE_DROP)).setBit
        (pl n + PL.FIN_EVENTS) 1
    else (s.updJob n st frame (fun j => { j with finq := j.finq ++ [(y, s.cycle)] })).finStat n

/-- Y of a line formed (R271-R273): T2 and the finishing queue. -/
def State.formY (s : State) (n st frame : Nat) (r : Row) : State :=
  match s.jobOf n st frame with
  | none => s
  | some j =>
    let y := yLine (plParam j.params n) j.dRows r
    let row : Row := { r with px := y.1, flags := formedFlags j.dRows r }
    let s1 := (s.updJob n st frame (fun j => { j with yRows := j.yRows ++ [row] })).addSat (pl n + PL.REMOSAIC_EDGE) y.2
    ((if row.flags.testBit 3 then s1.eccLine n st frame r.y else s1).tapPut n st frame 2 row).finPut n st frame r.y

/-- An IR-plane line formed (R274, R276, R278): TI. -/
def State.formQ (s : State) (n st frame jn : Nat) : State :=
  match s.jobOf n st frame with
  | none => s
  | some j =>
    let g := plParam j.params n
    match irSite g with
    | none => s
    | some site =>
      match qLine g j.dRows site jn with
      | none => s
      | some px =>
        let pair := j.dRows.filter (fun r => r.y / 2 == jn)
        let fl := pair.foldl (fun a r => a ||| (formedFlags j.dRows r % 8)) 0
        let row : Row := { y := jn, px := px, flags := fl + (pair.head?.map (fun r => r.flags / 16 * 16)).getD 0, time := (pair.head?.map (fun r => r.time)).getD j.start }
        let s1 := s.updJob n st frame (fun j => { j with
          qRows := j.qRows ++ [row]
          irRows := if j.outs = 0 then j.irRows else j.irRows ++ [row] })
        (if pair.any (fun r => (formedFlags j.dRows r).testBit 3) then s1.eccLine n st frame (65536 + jn) else s1).tapPut n st frame 3 row

/-- IR-plane lines due once line `m` is unpacked (R287). -/
def dueIr (j : Job) (m : Nat) : List Nat :=
  ((j.dRows.filter (fun r => r.y % 2 == 0 || (rowAt j.dRows (r.y - 1)).isNone)).map (fun r => r.y / 2)).filter (fun i =>
    decide (2 * i + 5 ≤ m) && (match j.qRows.getLast? with | none => true | some l => decide (l.y < i)))

/-- Everything that is due once line `m` of a frame is unpacked. -/
def State.formDue (s : State) (n st frame m : Nat) : State :=
  let s1 := match s.jobOf n st frame with
    | none => s
    | some j => forEach (dueRows j.rows j.dRows m 2) s (fun s r => s.formD n st frame r)
  let s2 := match s1.jobOf n st frame with
    | none => s1
    | some j => forEach (dueRows j.dRows j.yRows m 4) s1 (fun s r => s.formY n st frame r)
  match s2.jobOf n st frame with
  | none => s2
  | some j => forEach (dueIr j m) s2 (fun s i => s.formQ n st frame i)

/-- A line as read from a word of its line buffer, marked: 24-bit values (R289, R325). -/
def Row.asRead (e : BufErr) (r : Row) : Row :=
  if r.y = e.line then { r with px := (e.px.take r.px.length).map (fun v => v % 2 ^ 24) ++ r.px.drop e.px.length, flags := r.flags ||| 12 } else r

/-- A line buffer word of the raw stage read with an uncorrectable error is used as read (R289): the values of its line in the B or the D
buffer are those read, and the line carries CRC_ERR in what is still to be delivered of it. -/
def Job.bufRead (j : Job) (e : BufErr) : Job :=
  if e.second then { j with dRows := j.dRows.map (Row.asRead e) }
  else { j with
    rows := j.rows.map (Row.asRead e)
    dRows := j.dRows.map (fun r => if r.y = e.line then { r with flags := r.flags ||| 4 } else r) }

/-- A word of a line buffer read with an error in a frame of the raw stage; the line that it holds counts unless it has been delivered whole. -/
def State.bufRead (s : State) (n st frame : Nat) (e : Option BufErr) : State :=
  match e, s.jobOf n st frame with
  | some e, some j =>
    let s1 := s.updJob n st frame (fun j => j.bufRead e)
    if (rowAt (if e.second then j.dRows else j.rows) e.line).isSome && (rowAt j.yRows e.line).isNone then s1.eccLine n st frame e.line else s1
  | _, _ => s

/-- The line at the head of a stream's line store. -/
def State.storeHead (s : State) (st : Nat) : Option StoreItem := (s.sis1 st).store.head?

/-- PIPELINE_LINE (R205, R206, R255-R274, R287, R289, R321): the pipeline takes a line from the line store and forms the
lines that are due. -/
def execPipelineLine (pipe : Nat) (asRead : Option (List Byte)) (bufErr : Option BufErr) (s : State) : Res :=
  .next (match s.rawJob pipe with
    | none => s
    | some j =>
      match s.storeHead j.stream with
      | some (.line l) =>
        let s1 := (s.updSis j.stream (fun v => { v with store := v.store.drop 1 })).drainSide j.stream (s.sis1 j.stream).store.length
        if j.cut then s1
        else
          let marked := asRead.isSome && !l.flags.testBit 2
          let fl := if marked then l.flags + 4 else l.flags
          let us := unpackLine j.dt j.width (asRead.getD l.bytes)
          let s2 := if asRead.isSome then
            (if marked then (s1.inc (si j.stream + SI.CRC_LINES)).siEvent j.stream 5 else s1).eccLine pipe j.stream j.frame l.n else s1
          let s3 := s2.bufRead pipe j.stream j.frame bufErr
          let s4 := s3.updJob pipe j.stream j.frame (fun j => { j with
            rows := j.rows ++ [{ y := l.n, px := bLine (plParam j.params pipe) l.n us, flags := fl, time := l.time }] })
          (s4.tapPut pipe j.stream j.frame 0 { y := l.n, px := us, flags := fl, time := l.time }).formDue pipe j.stream j.frame l.n
      | _ => s)

/-- The STATS record of a frame (R282-R286); STATS_DONE and its pulse tell of a record written (R295, log entry 100). -/
def State.statsOf (s : State) (n st frame : Nat) (fe : FrameEnd) : State :=
  match s.jobOf n st frame with
  | none => s
  | some j =>
    let g := plParam j.params n
    if nbits (g PL.STATS_CTL) 1 0 = 0 then s
    else
      let lvl := nbits (g PL.SAT_LVL) 23 0
      let sat := fun x y => match rowAt j.dRows y with
        | some r => decide (lvl ≤ r.px.getD x 0)
        | none => false
      let pay := statsPayload g sat j.satTotal j.yRows j.qRows
      let s1 := s.closeRec (n / 128) (pipeProd n 4)
        { typ := 5, stream := st, source := 0x20, frame := frame, nlines := fe.linesRx, time := j.start,
          flags := b2n fe.partialF * 64 + frameFlags (j.unsync || j.startU) j.late } pay
      if s.recTaken (n / 128) (pipeProd n 4) st pay.length then (s1.setBit (pl n + PL.EVENTS) 0).pselPulse n 4 else s1

/-- PIPELINE_FRAME_DONE (R213, R280, R282, R287): the remaining lines are completed, the tap records close, then the STATS
record and FRAME_CLOSE. -/
def execPipelineFrameDone (pipe : Nat) (bufErr : Option BufErr) (s : State) : Res :=
  .next (match s.rawJob pipe with
    | none => s
    | some j =>
      match s.storeHead j.stream with
      | some (.fin fe) =>
        let s1 := s.updSis j.stream (fun v => { v with store := v.store.drop 1 })
        let s2 := if j.cut then s1 else (s1.bufRead pipe j.stream j.frame bufErr).formDue pipe j.stream j.frame 16384
        let s3 := forEach (List.range 4) s2 (fun s k => s.tapClose pipe j.stream j.frame k)
        let s4 := if j.cut then s3 else s3.statsOf pipe j.stream j.frame fe
        let s5 := s4.closeRec (pipe / 128) (j.stream % 128) { fe.hdr with flags := fe.hdr.flags ||| frameFlags false j.late } fe.payload
        let s6 := s5.updJob pipe j.stream j.frame (fun j => { j with rawDone := true, short := fe.short })
        let s7 := if s6.rdN (si j.stream + SI.FRAME) = j.frame then s6.updSis j.stream (fun v => { v with toPipe := none }) else s6
        let s8 := (s7.dropJobs pipe).startWaiting j.stream
        match s8.boundStream pipe with
        | some st => if st = j.stream then s8 else s8.startWaiting st
        | none => s8
      | _ => s)

/-! ## Finishing (R296-R325) -/

/-- The coordinates of a plane of extent `w` that a value at source position `n` reads: the 8 taps of the scaler (R309), each held inside by
R298, and for a colour output the neighbourhood of 3 that the demosaic reads round it (R301-R303). -/
def coordsRead (w : Nat) (n : Int) (ir : Bool) : List Nat :=
  (List.range 8).flatMap (fun i =>
    let c := mirror w (n - 3 + ((i : Nat) : Int))
    if ir then [c] else (List.range 7).map (fun d => mirror w ((c : Int) - 3 + ((d : Nat) : Int))))

/-- The output lines' sources: for output line `jn` of output `k`, every line of the plane that can enter it. -/
def linesRead (g : Nat → Nat) (k jn h : Nat) (ir : Bool) : List Nat := (coordsRead h (outSource g k jn) ir).eraseDups

/-- Whether an output line reads a pixel column at or beyond `len` of a plane of width `w`. -/
def readsBeyond (g : Nat → Nat) (k w len : Nat) (ir : Bool) : Bool :=
  let o := 0x100 * k
  let ow := nbits (g (PL.OUT_SIZE + o)) 12 0
  let org := nbits (g (PL.CROP_ORG + o)) 12 0
  let stp := scaleStep (nbits (g (PL.CROP_SIZE + o)) 13 0) ow
  (List.range ow).any (fun i => (coordsRead w (scalePos org stp i / 65536) ir).any (fun c => decide (len ≤ c)))

/-- Whether output line `jn` can be formed from the lines taken so far (R322): line posY(jn) >> 16 plus 6 has passed the
demosaic, which reads 3 lines on, and both parities have been taken, so that no fill can change. -/
def lineReady (g : Nat → Nat) (k jn : Nat) (rows : List Row) (ir : Bool) : Bool :=
  match rows.getLast? with
  | none => false
  | some l =>
    let n := outSource g k jn
    decide ((if ir then 2 * (n + 6) + 1 else n + 9) ≤ (l.y : Int)) && rows.any (fun r => r.y % 2 == 0) && rows.any (fun r => r.y % 2 == 1)

def finOut (j : Job) (k : Nat) : FinOut := Tbl.get (fun _ => {}) j.fouts k

/-- BAND_CLOSE (R313-R315). -/
def State.bandClose (s : State) (n st frame k : Nat) (last cut : Bool) : State :=
  match s.jobOf n st frame with
  | none => s
  | some j =>
    let f := finOut j k
    if f.n = 0 then s
    else
      let g := plParam j.params n
      let pay := bandHead g k (f.bflags ||| (b2n last + 8 * b2n cut)) ++ f.bytes
      (s.updJob n st frame (fun j => { j with fouts := Tbl.set (fun _ => {}) j.fouts k { next := f.next, done := last } })).closeRec
        (n / 128) (pipeProd n (5 + k))
        { typ := 4, stream := st, source := 0x30 + k, frame := frame, line := f.first, nlines := f.n, time := f.time,
          flags := 128 + b2n j.shed * 2048 + lineFlags f.flags + b2n (last && j.short) +
            frameFlags (j.unsync || f.flags.testBit 4) j.late }
        (padTo (roundUp pay.length 64) pay)

/-- OUTPUT_LINE_FORM (R307-R315): the next line of output `k` formed into its band. A band that holds the last line stays
open until the output frame ends. -/
def State.outForm (s : State) (n st frame k : Nat) : State :=
  match s.jobOf n st frame with
  | none => s
  | some j =>
    let g := plParam j.params n
    let ctl := g (PL.OUT_CTL + 0x100 * k)
    let ir := ctl.testBit 1
    let outH := nbits (g (PL.OUT_SIZE + 0x100 * k)) 29 16
    let jn := (finOut j k).next
    let w := if ir then (j.width + 1) / 2 else j.width
    let h := if ir then (j.height + 1) / 2 else j.height
    let rows := if ir then j.irRows else j.finRows
    let recv := if ir then j.qRows else j.yRows
    let codes := outCodes g k jn j.width j.height j.finRows j.irRows
    let len := (codeBytes s.free (nbits ctl 4 2) codes).length
    let f0 := finOut j k
    let s1 := if 0 < f0.n ∧ (nbits ctl 21 16 ≤ f0.n ∨ 262144 < 32 + f0.bytes.length + len) then s.bandClose n st frame k false false
      else s
    let b := codeBytes s1.free (nbits ctl 4 2) codes
    let ys := linesRead g k jn h ir
    let used := ys.filterMap (fun y => fillRow rows (!ir) y)
    let fl := used.foldl (fun a r => a ||| r.flags) 0
    let rep := ys.any (fun y => (rowAt rows y).isNone) || used.any (fun r => readsBeyond g k w r.px.length ir)
    let drop := !ir && ys.any (fun y => j.dropped.contains y)
    let src := (clampInt 0 (((recv.getLast?.map (fun r => r.y)).getD 0 : Nat) : Int) (outSource g k jn)).toNat
    let t := ((fillRow recv (!ir) src).map (fun r => (r.time, r.flags.testBit 4))).getD (j.start, j.startU)
    let s2 := (s1.skipFree codes.length).updJob n st frame (fun j =>
      let f := finOut j k
      let f' : FinOut := {
        next := jn + 1
        first := if f.n = 0 then jn else f.first
        n := f.n + 1
        bytes := f.bytes ++ b
        flags := f.flags ||| (fl % 8 + if f.n = 0 then 16 * b2n t.2 else 0)
        bflags := f.bflags ||| (2 * b2n rep + 4 * b2n drop)
        time := if f.n = 0 then t.1 else f.time }
      { j with fouts := Tbl.set (fun _ => {}) j.fouts k f' })
      |>.growRec (n / 128) (pipeProd n (5 + k)) st (48 + 32 + (if 0 < (s1.jobOf n st frame).elim 0 (fun j => (finOut j k).n) then f0.bytes.length else 0) + b.length)
    let s3 := if fl.testBit 3 then s2.inc (pl n + PL.ECC_UNCORR) else s2
    if jn + 1 < outH ∧ nbits ctl 21 16 ≤ (s3.jobOf n st frame).elim 0 (fun j => (finOut j k).n) then s3.bandClose n st frame k false false
    else s3

/-- The outputs produced for a frame. -/
def Job.outList (j : Job) : List Nat := (List.range 4).filter (fun k => j.outs.testBit k)

/-- Output lines of output `k` that are due, at most `fuel` of them; at the frame's end all that are left (R322). -/
def State.outDue (n st frame k : Nat) (all : Bool) : Nat → State → State
  | 0, s => s
  | fuel + 1, s =>
    match s.jobOf n st frame with
    | none => s
    | some j =>
      let g := plParam j.params n
      let jn := (finOut j k).next
      let ir := (g (PL.OUT_CTL + 0x100 * k)).testBit 1
      if jn < nbits (g (PL.OUT_SIZE + 0x100 * k)) 29 16 ∧ (all = true ∨ lineReady g k jn j.finRows ir = true) then
        State.outDue n st frame k all fuel (s.outForm n st frame k)
      else s

/-- Whether a frame is the oldest of its pipeline that finishing still works on (R315). -/
def State.firstFin (s : State) (n : Nat) : Option Job := (s.pipe n).jobs.find? (fun j => !j.finDone)

/-- The oldest waiting line of a die: pipeline, frame identity, line (R321). -/
def State.oldestLine (s : State) (die : Nat) : Option (Nat × Nat × Nat × Nat) :=
  let all := (List.range 128).flatMap (fun i =>
    let n := 128 * die + i
    (s.pipe n).jobs.flatMap (fun j => match j.finq.head? with
      | some q => [(q.2, n, j.stream, j.frame, q.1)]
      | none => []))
  (all.foldl (fun (b : Option (Nat × Nat × Nat × Nat × Nat)) c => match b with
    | none => some c
    | some a => if c.1 < a.1 then some c else some a) none).map (fun a => a.2)

/-- A word of a finishing line buffer read with an uncorrectable error is used as read (R325). -/
def Job.finBufRead (j : Job) (e : Option BufErr) : Job :=
  match e with
  | none => j
  | some e => if e.second then { j with irRows := j.irRows.map (Row.asRead e) } else { j with finRows := j.finRows.map (Row.asRead e) }

/-- FIN_LINE_TAKE (R296-R315, R321, R322, R325). -/
def execFinLineTake (die : Nat) (bufErr : Option BufErr) (s : State) : Res :=
  .next (match s.oldestLine die with
    | none => s
    | some (n, st, frame, y) =>
      let s1 := s.updJob n st frame (fun j0 =>
        let j := j0.finBufRead bufErr
        { j with
          finq := j.finq.drop 1
          finRows := j.finRows ++ ((j.yRows.filter (fun r => r.y == y)).map (fun r => { r with flags := r.flags % 8 + r.flags / 16 * 16 })) })
      let s2 := s1.finStat n
      match s2.firstFin n with
      | none => s2
      | some j =>
        if j.stream = st ∧ j.frame = frame then
          forEach j.outList s2 (fun s k => State.outDue n st frame k false 8192 s)
        else s2)

/-- What R297 filled in a plane of `w` × `h`: missing lines, and pixels of short lines. -/
def filled (w h : Nat) (rows : List Row) : Nat :=
  (h - rows.length) + (rows.map (fun r => w - r.px.length)).sum

/-- What R297 filled in both planes of a frame: of the whole image, or, of a frame cut short, up to the last line that finishing has (log
entry 101). -/
def Job.filled (j : Job) (n : Nat) (whole : Bool) : Nat :=
  let lines := fun (rows : List Row) h => if whole then h else (rows.getLast?.map (fun r => r.y + 1)).getD 0
  if j.finRows = [] then 0
  else Machine.filled j.width (lines j.finRows j.height) j.finRows +
    (if (irSite (plParam j.params n)).isSome then Machine.filled ((j.width + 1) / 2) (lines j.irRows ((j.height + 1) / 2)) j.irRows else 0)

/-- FIN_FRAME_DONE (R297, R315, R322, R328, R329): the remaining output lines of the pipeline's oldest frame are formed from
the filled image and its outputs complete. -/
def execFinFrameDone (pipe : Nat) (bufErr : Option BufErr) (s : State) : Res :=
  .next (match s.firstFin pipe with
    | none => s
    | some j =>
      if j.rawDone = false ∨ j.finq ≠ [] then s
      else
        let fin := fun (s : State) => (s.updJob pipe j.stream j.frame (fun j => { j with finDone := true })).dropJobs pipe
        if j.finRows = [] then fin s
        else
          let s1 := forEach j.outList (s.updJob pipe j.stream j.frame (fun j => j.finBufRead bufErr)) (fun s k =>
            let s2 := (State.outDue pipe j.stream j.frame k true 8192 s).bandClose pipe j.stream j.frame k true false
            (((s2.inc (pl pipe + PL.FB_FRAMES + 4 * k)).setBit (pl pipe + PL.FIN_EVENTS) 0).pselPulse pipe (5 + k)))
          fin (s1.addSat (pl pipe + PL.FIN_REPEAT) (j.filled pipe true)))

/-! ## Reset of a pipeline, and the static map (R269, R291, R323) -/

/-- The frames of a pipeline cut short: tap records and bands close with the lines already formed. -/
def State.cutJob (s : State) (n : Nat) (j : Job) : State :=
  let s1 := if j.rawDone then s else forEach (List.range 4) s (fun s k => s.tapClose n j.stream j.frame k)
  let s2 := if j.finDone then s1 else (forEach j.outList s1 (fun s k =>
    (s.bandClose n j.stream j.frame k true true).inc (pl n + PL.FIN_CUT))).addSat (pl n + PL.FIN_REPEAT) (j.filled n false)
  s2.updJob n j.stream j.frame (fun j => { j with
    cut := true
    finDone := true
    rows := []
    dRows := []
    yRows := []
    qRows := []
    irRows := []
    finq := []
    finRows := []
    taps := []
    fouts := [] })

/-- PL_RESET (R291, R323). -/
def execPlReset (pipe req v : Nat) (s : State) : Res :=
  .next (s.onKey (pl pipe + PL.PL_CMD) req (fun s =>
    if v.testBit 0 then
      ((((forEach (s.pipe pipe).jobs s (fun s j => s.cutJob pipe j)).dropJobs pipe).finStat pipe).inc
        (pl pipe + PL.PIPE_RESET)).setBit (pl pipe + PL.EVENTS) 5
    else s))

/-- MAP_WRITE (R269): the inactive bank takes the entry; a write to the active one is ignored with MAP_BUSY. -/
def execMapWrite (pipe bank entry req v : Nat) (s : State) : Res :=
  let k := pl pipe + (if bank % 2 = 0 then PL.MAP0_E else PL.MAP1_E) + 4 * (entry % 2048)
  .next (s.onKey k req (fun s =>
    if s.afld (pl pipe + PL.DPC_CTL) 2 2 = bank % 2 then s.setBit (pl pipe + PL.EVENTS) 1
    else s.wr k (wordOf v &&& 0x1FFF1FFF#32)))

end Sys2Proof.Machine
end

