-- ==== Sys2Proof/Machine/Basin.lean ====
section
/-! DEFINITION. The basin at work (R330-R361, R434): cell requests, delivery and retention, acknowledgement, replay, flush,
push windows, the direct window, and recovery fences. -/
namespace Sys2Proof.Machine
set_option Elab.async false

/-- A basin command names a queue of a concentrator die that exists. -/
def State.onQueue (s : State) (die q : Nat) (f : State → State) : State :=
  if decide (die < 4) && s.present die && decide (q < 4096) then f s else s

/-! ## Allocation (R340-R343) -/

/-- The stream whose records a producer builds (R333); none of this die for the others. -/
def State.prodStream (s : State) (die b : Nat) : Nat :=
  if b < 128 then die * 128 + b
  else if b < 1280 then (s.boundStream (die * 128 + (b - 128) / 9)).getD 0xFFFF
  else 0xFFFF

/-- Producer numbers in rising order from a list. -/
def insertNat (a : Nat) : List Nat → List Nat
  | [] => [a]
  | b :: t => if a < b then a :: b :: t else if a = b then b :: t else b :: insertNat a t

/-- CELL_REQUEST (R340-R343): the producers that request a cell in one cycle. -/
def execCellRequest (die : Nat) (producers : List Nat) (s : State) : Res :=
  .next (s.onQueue die 0 (fun s =>
    let bs := (producers.foldl (fun l b => insertNat b l) []).filter (fun b => decide (b < 1290) && !(s.prod die b).dropping)
    s.allocCycle die bs (fun b => if (s.prod die b).isOpen then (s.prod die b).stream else s.prodStream die b)))

/-- RECORD_CLOSE (R335-R339, R344) of a producer that builds its records itself. -/
def execRecordClose (die producer : Nat) (h : RecHdr) (payload : List Byte) (s : State) : Res :=
  .next (s.onQueue die 0 (fun s => if producer < 1286 then s.closeRec die producer h payload else s))

/-! ## Readiness (R349) -/

/-- NOTIFY_REPEAT (R349). -/
def execNotifyRepeat (die queue : Nat) (s : State) : Res :=
  .next (s.onQueue die queue (fun s =>
    let s1 := s.checkReady die queue
    let v := s1.queue die queue
    if v.ready ∧ v.nextNotify ≤ s.now die then
      (s1.setQueue die queue { v with nextNotify := s.now die + notifyPeriod (s.fld (qk die queue + BS.Q_CFG) 31 27) }).pulse die
        (384 + s.fld (qk die queue + BS.Q_CFG) 21 16)
    else s1))

/-- QUEUE_AGE_READY (R349). -/
def execQueueAgeReady (die queue : Nat) (s : State) : Res :=
  .next (s.onQueue die queue (fun s => s.checkReady die queue))

/-! ## Delivery and retention (R346-R351, R361) -/

/-- Retained records of a die, with their queues. -/
def State.retainedOf (s : State) (die : Nat) : List (Nat × Rec) :=
  (s.queues.filter (fun e => e.1 / 4096 == die)).flatMap (fun e => e.2.ret.map (fun r => (e.1 % 4096, r)))

/-- The place after the last one in a die's retention order. -/
def State.nextOrder (s : State) (die : Nat) : Nat := (s.retainedOf die).foldl (fun m e => Nat.max m (e.2.order + 1)) 0

/-- BS_RET_CELLS less `n`. -/
def State.lessRetained (s : State) (die n : Nat) : State :=
  s.wrN (dk die + BS.BS_RET_CELLS) (s.rdN (dk die + BS.BS_RET_CELLS) - n)

/-- RETENTION_RELEASE (R351): retained records released in the order they entered retention until the limit holds. -/
def State.retLimit (die : Nat) : Nat → State → State
  | 0, s => s
  | fuel + 1, s =>
    if s.rdN (dk die + BS.BS_RET_CELLS) ≤ s.rdN (dk die + BS.BS_RET_LIMIT) then s
    else
      match (s.retainedOf die).foldl (fun (b : Option (Nat × Rec)) e => match b with
        | none => some e
        | some a => if e.2.order < a.2.order then some e else some a) none with
      | none => s
      | some (q, r) =>
        let v := s.queue die q
        let c := cellsOf r.data.length
        State.retLimit die fuel (((((s.setQueue die q { v with ret := v.ret.filter (fun x => x.order != r.order) }).freeCells die c).lessRetained
          die c).inc (dk die + BS.BS_RET_DROP)).setBit (dk die + BS.BS_EVENTS) 2)

/-- The head record of a queue has been delivered whole: it enters retention (R348), or is released where a flush waited for
it (R355). -/
def State.retireHead (s : State) (die q : Nat) : State :=
  let v := s.queue die q
  match v.und with
  | [] => s
  | r :: rest =>
    let c := cellsOf r.data.length
    if v.flushHead then
      (((s.setQueue die q { v with und := rest, pos := 0, flushHead := false }).freeCells die c).inc (dk die + BS.BS_FLUSH_DROP)).checkReady
        die q
    else
      let s1 := s.setQueue die q { v with
        und := rest
        pos := 0
        ret := v.ret ++ [{ r with order := s.nextOrder die, dup := false }] }
      let s2 := s1.wrN (dk die + BS.BS_RET_CELLS) (s.rdN (dk die + BS.BS_RET_CELLS) + c)
      (State.retLimit die ((s2.retainedOf die).length) s2).checkReady die q

/-- The bytes a reader of the head record is given: DUP_POSSIBLE (FLAGS bit 8) in the delivered header (R352). -/
def Rec.delivered (r : Rec) : List Byte :=
  if r.dup then patch r.data 3 [(r.data.getD 3 0#8) ||| 1#8] else r.data

/-- LINK_RAM_FAULT (R361) met at the link entry of record `i` of one list: that record and all behind it in the same list are
out of reach, and their cells are lost; the records before it stay for Q_CMD.FLUSH. -/
def State.linkFault (s : State) (die q : Nat) (retained : Bool) (i : Nat) : State :=
  let v := s.queue die q
  let all := if retained then v.ret else v.und
  let gone := ((all.drop i).map (fun r => cellsOf r.data.length)).sum
  let left : QueueS :=
    if retained then { v with ret := v.ret.take i }
    else if i = 0 then { v with und := [], pos := 0, flushHead := false }
    else { v with und := v.und.take i }
  let s1 := if retained then s.lessRetained die gone else s
  ((s1.setQueue die q { left with fault := true, ready := false }).wrN (dk die + BS.BS_LOST_CELLS)
    (s.rdN (dk die + BS.BS_LOST_CELLS) + gone)).setBit (dk die + BS.BS_EVENTS) 3

/-- HEADER_DROP (R347): the head record, not begun, is released whole. -/
def State.headerDrop (s : State) (die q : Nat) : State :=
  let v := s.queue die q
  match v.und with
  | [] => s
  | r :: rest => (((s.setQueue die q { v with und := rest, pos := 0 }).freeCells die (cellsOf r.data.length)).inc
      (dk die + BS.BS_HDR_DROP)).checkReady die q

/-- What the check words find on a read of a queue (R347, R361). An uncorrectable payload word of the head record is
delivered as read, eight free bytes, with CRC_ERR (FLAGS bit 5) in the header. -/
def State.popErr (s : State) (die q : Nat) (err : PopErr) : State :=
  let v := s.queue die q
  match err with
  | .none => s
  | .corrected => s.inc (dk die + BS.BS_ECC_CORR)
  | .link retained i => if i < (if retained then v.ret else v.und).length then s.linkFault die q retained i else s
  | .header => if v.pos = 0 ∧ v.und ≠ [] then s.headerDrop die q else s
  | .payload w =>
    match v.und with
    | [] => s
    | r :: rest =>
      let o := (Nat.max 48 v.pos) / 8 * 8 + 8 * w
      if r.data.length ≤ o then s
      else
        let bad := (List.range 8).map (fun i => Config.freeByte (s.free + i))
        let d := patch (patch r.data o (bad.take (r.data.length - o))) 2 [(r.data.getD 2 0#8) ||| 0x20#8]
        (((s.setQueue die q { v with und := { r with data := d } :: rest }).skipFree 8).inc (dk die + BS.BS_ECC_UNCORR)).setBit
          (dk die + BS.BS_EVENTS) 4

/-- Up to `n` bytes of a queue's byte stream delivered (R346, R348); `fuel` bounds the records passed. -/
def State.popBytes (die q : Nat) : Nat → Nat → State → State × List Byte
  | 0, _, s => (s, [])
  | fuel + 1, n, s =>
    let v := s.queue die q
    match v.und with
    | [] => (s, [])
    | r :: _ =>
      if n = 0 ∨ v.fault = true then (s, [])
      else
        let got := (r.delivered.drop v.pos).take n
        if v.pos + got.length < r.data.length then (s.setQueue die q { v with pos := v.pos + got.length }, got)
        else
          let rest := State.popBytes die q fuel (n - got.length) (s.retireHead die q)
          (rest.1, got ++ rest.2)

/-- POP_READ (R346-R348, R361): the next `n` bytes, with zero for what is not there. -/
def execPopRead (die queue n : Nat) (err : PopErr) (s : State) : Res :=
  .next (s.onQueue die queue (fun s =>
    let s0 := if (s.queue die queue).fault then s else s.popErr die queue err
    let r := State.popBytes die queue (n + 1) n s0
    (if r.2.length < n then r.1.inc (dk die + BS.BS_POP_EMPTY) else r.1).respond (.bytes (padTo n r.2))))

/-! ## Acknowledgement, replay, flush (R350-R355) -/

/-- The `n` oldest retained records of a queue released (R350). -/
def State.ackQueue (s : State) (die q n : Nat) : State :=
  let v := s.queue die q
  let c := ((v.ret.take n).map (fun r => cellsOf r.data.length)).sum
  let s1 := ((s.setQueue die q { v with ret := v.ret.drop n }).freeCells die c).lessRetained die c
  if v.ret.length < n then s1.inc (dk die + BS.BS_ACK_EXCESS) else s1

/-- Q_ACK (R350). -/
def execQAck (die queue n : Nat) (s : State) : Res :=
  .next (s.onQueue die queue (fun s => s.ackQueue die queue (n % 65536)))

/-- A replay of one queue (R352): the retention list comes before the undelivered records again, and what had been read or
begun carries DUP_POSSIBLE. The answer is how many records became undelivered again. -/
def State.replayQueue (s : State) (die q : Nat) : State × Nat :=
  let v := s.queue die q
  let mark := fun (r : Rec) => { r with dup := true }
  let und := if v.pos = 0 then v.und else (v.und.take 1).map mark ++ v.und.drop 1
  (((s.lessRetained die v.retained).setQueue die q { v with und := v.ret.map mark ++ und, pos := 0, ret := [] }).checkReady die q,
    v.ret.length + b2n (v.pos != 0))

/-- Q_REPLAY (R352, R353). -/
def execQReplay (die queue : Nat) (s : State) : Res :=
  .next (s.onQueue die queue (fun s => (s.replayQueue die queue).1))

/-- Q_FLUSH (R355, R361): every record but one in delivery is released, and Q_FAULT clears. -/
def State.flushQueue (s : State) (die q : Nat) : State :=
  let v := s.queue die q
  let keep := if v.pos = 0 then [] else v.und.take 1
  let gone := (if v.pos = 0 then v.und else v.und.drop 1) ++ v.ret
  let c := (gone.map (fun r => cellsOf r.data.length)).sum
  ((((s.lessRetained die v.retained).setQueue die q { v with und := keep, ret := [], fault := false, flushHead := !keep.isEmpty }).freeCells
    die c).addSat (dk die + BS.BS_FLUSH_DROP) gone.length).checkReady die q

def execQFlush (die queue : Nat) (s : State) : Res :=
  .next (s.onQueue die queue (fun s => s.flushQueue die queue))

/-- The queues of a die whose CARRIER names a steward (0 SA, 1 SB). -/
def State.carried (s : State) (die c : Nat) : List Nat :=
  (List.range 4096).filter (fun q => s.qCarrier die q == c)

/-- Queues replayed and given to steward `c` (R353); on the AZL128 the field stays 0 (R363). -/
def State.replayTo (s : State) (die : Nat) (qs : List Nat) (c : Nat) : State :=
  forEach qs s (fun s q =>
    let s1 := (s.replayQueue die q).1
    if s.part = .azl128 then s1 else s1.wrFld (qk die q + BS.Q_CFG) 25 25 c)

/-- A BS_CMD replay of the queues of steward `c`, or the exchange of both (R353). -/
def State.bsReplay (s : State) (die c : Nat) (both : Bool) : State :=
  if both then (s.replayTo die (s.carried die c) (1 - c)).replayTo die (s.carried die (1 - c)) c
  else s.replayTo die (s.carried die c) (1 - c)

/-- REPLAY_SA (R353). -/
def execReplaySa (die : Nat) (both : Bool) (s : State) : Res :=
  .next (s.onQueue die 0 (fun s => s.bsReplay die 0 both))

/-- REPLAY_SB (R353). -/
def execReplaySb (die : Nat) (both : Bool) (s : State) : Res :=
  .next (s.onQueue die 0 (fun s => s.bsReplay die 1 both))

/-! ## Push windows (R356-R359) -/

/-- A push record dropped, counted in BS_PUSH_ERR (R357, R358). -/
def State.pushDrop (s : State) (die b : Nat) : State :=
  let p := s.prod die b
  if p.dropping then (s.freeCells die p.copy.length).setProd die b {}
  else (((s.freeCells die (p.cells.length + p.copy.length)).inc (dk die + BS.BS_PUSH_ERR)).setBit (dk die + BS.BS_EVENTS) 5).setProd die b {}

/-- PUSH_WRITE (R356, R358) by path 0-3: U_A, U_B, keeper core 0, keeper core 1. -/
def execPushWrite (die queue path : Nat) (data : List Byte) (s : State) : Res :=
  .next (s.onQueue die queue (fun s =>
    let b := 1286 + path % 4
    let p0 := s.prod die b
    let s1 := if p0.isOpen ∧ p0.queue ≠ queue then s.pushDrop die b else s
    let p := s1.prod die b
    let bytes := p.bytes ++ data
    let keep := !p.dropping || s.mirrorEn die b
    (s1.setProd die b { p with bytes := if keep then bytes else [], queue := queue }).growRec die b 0xFFFF (if keep then bytes.length else 0)))

/-- PUSH_END (R357, R358). The TIME bytes of the header stay as written. -/
def execPushEnd (die queue path m : Nat) (s : State) : Res :=
  .next (s.onQueue die queue (fun s =>
    let b := 1286 + path % 4
    let p := s.prod die b
    let d := p.bytes
    let stream := leAt d 4 2
    if p.isOpen = false then s.inc (dk die + BS.BS_PUSH_ERR)
    else if p.queue ≠ queue ∨ d.length ≠ m + 48 ∨ 262144 < m ∨ leAt d 1 1 ≠ 1 ∨ (stream ≠ 0xFFFF ∧ stream / 128 ≠ die) then
      s.pushDrop die b
    else
      let h : RecHdr := { typ := leAt d 0 1, flags := leAt d 2 2, stream := stream, source := leAt d 6 2, frame := leAt d 16 4,
                          line := leAt d 20 2, nlines := leAt d 22 2 }
      let payload := padTo (roundUp m 64) (d.drop 48)
      let data := patch (s.recData die h payload (s.nextSeq die queue stream)) 24 (slice d 24 12)
      if p.dropping then (s.setProd die b {}).mirrorCopy die b p data
      else (s.setProd die b {}).closePush die queue (some (b, p)) (s.reserveOk die b) false p.cells data stream))

/-- BASIN_BAD_ACCESS (R359): a write at offset `off` of the basin windows that no rule takes. -/
def execBasinBadAccess (die off : Nat) (s : State) : Res :=
  .next (s.onQueue die 0 (fun s =>
    if 0x08000000 ≤ off ∧ off < 0x0A000000 ∧ (off % 0x2000 < 0x1000 ∨ off % 0x2000 / 4 = 0x7FF) then
      s.inc (dk die + BS.BS_BAD_ACCESS) else s))

/-! ## The direct window (R360) -/

/-- A record with the bytes of its cells at `addr` changed. -/
def Rec.poke (addr : Nat) (b : Byte) (r : Rec) : Rec :=
  { r with data := (List.range r.cells.length).foldl (fun d i =>
      if r.cells.getD i 0 = addr / 256 then d.set (256 * i + addr % 256) b else d) r.data }

/-- One byte of the direct window written. -/
def State.pokeCell (s : State) (die addr : Nat) (b : Byte) : State :=
  { s with
    cellMem := Tbl.set (fun _ => none) s.cellMem (dk die + addr) (some b)
    queues := s.queues.map (fun e => if e.1 / 4096 = die then
      (e.1, { e.2 with und := e.2.und.map (Rec.poke addr b), ret := e.2.ret.map (Rec.poke addr b) }) else e) }

/-- DIRECT_WRITE (R360). -/
def execDirectWrite (die addr : Nat) (data : List Byte) (s : State) : Res :=
  .next (s.onQueue die 0 (fun s =>
    if s.bit (dk die + BS.BS_CTL) 0 = false then s.inc (dk die + BS.BS_BAD_ACCESS)
    else forEach (List.range data.length) s (fun s i =>
      if addr + i < 0x4000000 then s.pokeCell die (addr + i) (data.getD i 0#8) else s)))

/-! ## Recovery fences (R406, R434) -/

/-- The payload of a fence. -/
def fencePayload (f : Fence) (ownSeq : Nat) : List Byte :=
  padTo 64 ([1#8] ++ leBytes f.cause 1 ++ leBytes f.steward 1 ++ zeros 1 ++ leBytes f.prevEpoch 4 ++
    leBytes (dtPack f.detect) 12 ++ leBytes f.replayed 4 ++ leBytes (f.firstSeq.getD ownSeq) 4 ++ leBytes f.rewind 4)

/-- A fence pushed into its queue, or its push made again after 1 µs where no cell is free (R434). -/
def State.pushFence (s : State) (f : Fence) : State :=
  let stream := if f.queue < 128 then f.queue + 128 * f.die else 0xFFFF
  if s.grantable f.die true = 0 then
    let s1 := s.poolEmpty f.die
    { s1 with fences := s1.fences ++ [{ f with due := s.cycle + usec 1 }] }
  else
    let seq := s.nextSeq f.die f.queue stream
    s.closePush f.die f.queue none true true [] (s.recData f.die
      { typ := 9, flags := s.unsyncFlag f.die, stream := stream, source := 0x200, time := s.stamp f.die } (fencePayload f seq) seq) stream

/-- FENCE_PUSH_RETRY (R434). -/
def execFencePushRetry (die queue : Nat) (s : State) : Res :=
  .next (s.onQueue die queue (fun s =>
    match s.fences.find? (fun f => f.die == die && f.queue == queue) with
    | none => s
    | some f =>
      if s.cycle < f.due then s
      else ({ s with fences := s.fences.filter (fun x => !(x.die == die && x.queue == queue)) }).pushFence f))

end Sys2Proof.Machine
end

