-- ==== Sys2Proof/Machine/Barge.lean ====
section
/-! DEFINITION. Barge engines and channels (R364-R397) but for the steps of a MOVE: commands, dispatch, instructions, waits,
signals and rings. -/
namespace Sys2Proof.Machine
set_option Elab.async false

def State.chan (s : State) (die e c : Nat) : ChanS := Tbl.get (fun _ => {}) s.chans (die * 512 + e * 32 + c)
def State.setChan (s : State) (die e c : Nat) (v : ChanS) : State :=
  { s with chans := Tbl.set (fun _ => {}) s.chans (die * 512 + e * 32 + c) v }
def State.updChan (s : State) (die e c : Nat) (f : ChanS → ChanS) : State := s.setChan die e c (f (s.chan die e c))
def State.eng (s : State) (die e : Nat) : EngS := Tbl.get (fun _ => {}) s.engs (die * 16 + e)
def State.setEng (s : State) (die e : Nat) (v : EngS) : State :=
  { s with engs := Tbl.set (fun _ => {}) s.engs (die * 16 + e) v }

/-- A barge event of a die's engine concerns a channel that exists. -/
def bargeOk (s : State) (die e c : Nat) : Bool := decide (die < 4) && s.present die && decide (e < 16) && decide (c < 32)

/-- CH_STAT.STATE (R366): 0 IDLE, 1 READY, 2 ACTIVE, 3 BLOCKED, 4 DONE, 5 HALTED, 6 ABORTED. -/
def State.chState (s : State) (die e c : Nat) : Nat := s.fld (bgc die e c + BG.CH_STAT) 2 0
def State.setChState (s : State) (die e c n : Nat) : State := s.wrFld (bgc die e c + BG.CH_STAT) 2 0 n

/-- The running states. -/
def chRunning (st : Nat) : Bool := decide (1 ≤ st) && decide (st ≤ 3)

def State.chEvent (s : State) (die e c i : Nat) : State := s.setBit (bgc die e c + BG.CH_EVENTS) i

/-- The engine is free of channel `c`. -/
def State.freeEng (s : State) (die e c : Nat) : State :=
  if (s.eng die e).active = some c then s.setEng die e { s.eng die e with active := none } else s

/-- A channel stops its instruction and waits; BLOCK 1 EVENT, 2 TIME, 3 CREDIT. -/
def State.block (s : State) (die e c why : Nat) : State :=
  ((s.wrFld (bgc die e c + BG.CH_STAT) 13 12 why).setChState die e c 3).freeEng die e c

/-- A blocked channel has work again (R365). -/
def State.unblock (s : State) (die e c : Nat) : State :=
  if s.chState die e c = 3 then (s.wrFld (bgc die e c + BG.CH_STAT) 13 12 0).setChState die e c 1 else s

/-- What an abort leaves of the instruction under way (R391): a MOVE whose first step has not been issued has not started. -/
def ChanS.kept (v : ChanS) : Option MoveRun :=
  v.mv.filter (fun m => decide (m.left < m.total) || v.failAt.isSome)

/-- Whether another running channel of the die has a REC MOVE of the queue in progress (R380). -/
def State.recBusy (s : State) (die e c q : Nat) : Bool :=
  (List.range 512).any (fun i => i != e * 32 + c && chRunning (s.chState die (i / 32) (i % 32)) &&
    (match (s.chan die (i / 32) (i % 32)).mv with | some m => m.queue == some q | none => false))

/-- Channels whose REC MOVE waited for the one that held their queue become READY once no other holds it (R365, R380). -/
def State.recFree (s : State) (die : Nat) : State :=
  forEach (List.range 512) s (fun s i =>
    match (s.chan die (i / 32) (i % 32)).waitQ with
    | some q =>
      if s.recBusy die (i / 32) (i % 32) q then s
      else (s.updChan die (i / 32) (i % 32) (fun v => { v with waitQ := none })).unblock die (i / 32) (i % 32)
    | none => s)

/-- RL_DEPTH full steps (R384). -/
def State.fullAcc (s : State) (die e c : Nat) : Nat := s.fld (bgc die e c + BG.CH_RATE) 24 16 * 65536

/-- The rate limiter's accumulator now (R384). Between MOVEs it goes on at the rate of the last one's target link (DESIGN CHOICE, log entry
108). -/
def State.accNow (s : State) (die e c : Nat) : Nat :=
  let v := s.chan die e c
  Nat.min (v.acc + s.fld (bgc die e c + BG.CH_RATE) 8 0 * v.link * (s.cycle - v.accAt)) (s.fullAcc die e c)

/-- The accumulator brought up to date, before what it depends on changes. -/
def State.settleAcc (s : State) (die e c : Nat) : State :=
  s.updChan die e c (fun v => { v with acc := s.accNow die e c, accAt := s.cycle })

/-- The channel halts (R369, R389): 1 BUS_HALT, 2 BAD_INSN, 3 BAD_PC, 4 ADDR_RANGE, 5 REC_TOO_LONG. -/
def State.halt (s : State) (die e c cause : Nat) : State :=
  let v := s.chan die e c
  let k := bgc die e c
  (((((s.wrFld (k + BG.CH_STAT) 11 8 cause).setChState die e c 5).wrN (k + BG.CH_RESID) ((v.mv.map (fun m => m.left)).getD 0)).wrFld
    (k + BG.CH_PC) 10 0 v.pc).chEvent die e c 0 |>.freeEng die e c).recFree die

/-- Device time reached by a wait: seconds mod 2^32 compared by R377. `t` holds nanoseconds in bits 31:0, seconds above. -/
def timeReached (now16 t : Nat) : Bool :=
  let sec := now16 / sec16 % 2 ^ 32
  let ns := now16 % sec16 / 65536
  let d := (sec + 2 ^ 32 - t / 2 ^ 32 % 2 ^ 32) % 2 ^ 32
  decide (d < 2 ^ 31) && (d != 0 || decide (t % 2 ^ 32 ≤ ns))

/-! ## Commands (R367, R391-R394) -/

/-- Whether RING_BASE is aligned to the ring size (R381). -/
def State.ringAligned (s : State) (die e c : Nat) : Bool :=
  let k := bgc die e c
  (s.rdN (k + BG.RING_BASE_LO) + s.fld (k + BG.RING_BASE_HI) 7 0 * 2 ^ 32) % 2 ^ s.fld (k + BG.RING_LOG) 5 0 == 0

/-- START (R367, R381, R384). -/
def State.chStart (s : State) (die e c : Nat) : State :=
  let k := bgc die e c
  if chRunning (s.chState die e c) then (s.inc (bgn die e c + BG.START_BUSY)).chEvent die e c 5
  else if s.ringAligned die e c = false then s.chEvent die e c 6
  else
    (s.setChan die e c { pc := s.fld (k + BG.CH_PC) 10 0, acc := s.fullAcc die e c, accAt := s.cycle, sigs := (s.chan die e c).sigs,
                         odd := (s.chan die e c).odd })
      |>.wr (k + BG.CH_IDX0) 0#32 |>.wr (k + BG.CH_IDX1) 0#32 |>.wr (k + BG.CH_IDX2) 0#32 |>.wr (k + BG.CH_RESID) 0#32
      |>.wr (k + BG.CH_LATCH_LO) 0#32 |>.wr (k + BG.CH_LATCH_HI) 0#32 |>.wr (k + BG.CH_STAT) 1#32

/-- ABORT (R391): the channel stops; ABORT_COMPLETE follows once its writes have completed. -/
def State.chAbort (s : State) (die e c : Nat) (quiet : Bool) : State :=
  if chRunning (s.chState die e c) && (s.chan die e c).abort.isNone then s.updChan die e c (fun v => { v with abort := some quiet })
  else s

/-- RESUME (R381, R393). -/
def State.chResume (s : State) (die e c : Nat) : State :=
  let k := bgc die e c
  let st := s.chState die e c
  if st ≠ 5 ∧ st ≠ 6 then s
  else if s.ringAligned die e c = false then s.chEvent die e c 6
  else
    let pc := s.fld (k + BG.CH_PC) 10 0
    (s.updChan die e c (fun v => { v with
      pc := pc
      mv := if v.pc = pc then v.mv else none
      failAt := none
      retries := 0
      relAt := none
      absT := none
      waitQ := none
      ending := false })).wr (k + BG.CH_STAT) 1#32

/-- RESET (R393). -/
def State.chReset (s : State) (die e c : Nat) : State :=
  let k := bgc die e c
  if chRunning (s.chState die e c) then s
  else (s.updChan die e c (fun v => { v with mv := none })) |>.wr (k + BG.CH_IDX0) 0#32 |>.wr (k + BG.CH_IDX1) 0#32
    |>.wr (k + BG.CH_IDX2) 0#32 |>.wr (k + BG.CH_RESID) 0#32 |>.wr (k + BG.CH_STAT) 0#32

/-- The command of a CH_CMD word that is performed: the first that applies to the state (R394). 0 ABORT, 1 RESUME, 2 START,
3 RESET. -/
def State.firstCmd (s : State) (die e c v : Nat) : Option Nat :=
  let st := s.chState die e c
  if v.testBit 1 ∧ chRunning st = true then some 0
  else if v.testBit 2 ∧ (st = 5 ∨ st = 6) then some 1
  else if v.testBit 0 then some 2
  else if v.testBit 3 ∧ chRunning st = false then some 3
  else none

/-- A write of CH_CMD performed by the command whose turn it is. -/
def State.chCmd (s : State) (die e c req v n : Nat) (f : State → State) : State :=
  s.onKey (bgc die e c + BG.CH_CMD) req (fun s => if bargeOk s die e c && s.firstCmd die e c v == some n then f s else s)

/-- CH_START (R367, R394). -/
def execChStart (die e c req v : Nat) (s : State) : Res := .next (s.chCmd die e c req v 2 (fun s => s.chStart die e c))

/-- CH_ABORT (R391, R394). -/
def execChAbort (die e c req v : Nat) (s : State) : Res :=
  .next (s.chCmd die e c req v 0 (fun s => s.chAbort die e c (v.testBit 4)))

/-- CH_ABORT_QUIET (R391, R394). -/
def execChAbortQuiet (die e c req v : Nat) (s : State) : Res :=
  .next (s.chCmd die e c req v 0 (fun s => s.chAbort die e c true))

/-- CH_RESUME (R393, R394). -/
def execChResume (die e c req v : Nat) (s : State) : Res := .next (s.chCmd die e c req v 1 (fun s => s.chResume die e c))

/-- CH_RESET (R393, R394). -/
def execChReset (die e c req v : Nat) (s : State) : Res := .next (s.chCmd die e c req v 3 (fun s => s.chReset die e c))

/-- ABORT_ALL (R396). -/
def execAbortAll (die e req v : Nat) (s : State) : Res :=
  .next (s.onKey (bg die e + BG.ENG_CMD) req (fun s =>
    if bargeOk s die e 0 && v.testBit 0 then forEach (List.range 32) s (fun s c => s.chAbort die e c (v.testBit 1)) else s))

/-- ABORT_ALL_QUIET (R396). -/
def execAbortAllQuiet (die e req v : Nat) (s : State) : Res :=
  .next (s.onKey (bg die e + BG.ENG_CMD) req (fun s =>
    if bargeOk s die e 0 && v.testBit 0 then forEach (List.range 32) s (fun s c => s.chAbort die e c true) else s))

/-! ## Dispatch and instructions (R364-R378) -/

/-- ENGINE_DISPATCH (R365). -/
def execEngineDispatch (die e : Nat) (s : State) : Res :=
  .next (if bargeOk s die e 0 = false ∨ (s.eng die e).active ≠ none then s
    else
      let last := (s.eng die e).last
      match ((List.range 32).map (fun i => (last + 1 + i) % 32)).find? (fun c => s.chState die e c == 1 && (s.chan die e c).abort.isNone) with
      | none => s
      | some c => (s.setEng die e { active := some c, last := c }).setChState die e c 2)

/-- Word `w` of an engine's program RAM; none beyond the last (R368). -/
def State.progWord (s : State) (die e w : Nat) : Option Nat :=
  if w ≤ 2047 then some (s.rdN (bg die e + BG.PROG_LO + 8 * w) + s.rdN (bg die e + BG.PROG_HI + 8 * w) * 2 ^ 32) else none

/-- The active channel of an engine at an instruction of opcode `op`: an unknown opcode halts it with BAD_INSN, a fetch beyond
word 2,047 with BAD_PC (R369). A channel with a MOVE in progress or under abort executes none. -/
def State.atInsn (s : State) (die e op : Nat) (f : State → Nat → Nat → State) : State :=
  match (s.eng die e).active with
  | none => s
  | some c =>
    let v := s.chan die e c
    if bargeOk s die e c = false ∨ v.abort ≠ none ∨ v.mv ≠ none ∨ v.ending = true then s
    else
      match s.progWord die e v.pc with
      | none => s.halt die e c 3
      | some w =>
        let o := nbits w 63 60
        if o = 0 ∨ 5 < o then s.halt die e c 2 else if o = op then f s c w else s

/-- The channel continues at `pc`. -/
def State.goPc (s : State) (die e c pc : Nat) : State :=
  s.updChan die e c (fun v => { v with pc := pc, relAt := none, absT := none, need := 0 })

/-- LOOP (R376). -/
def execLoopInsn (die e : Nat) (s : State) : Res :=
  .next (s.atInsn die e 2 (fun s c w =>
    let l := nbits w 59 58
    let cnt := nbits w 57 34
    let k := bgc die e c + BG.CH_IDX0 + 4 * l
    if nbits w 33 11 ≠ 0 ∨ l = 3 ∨ cnt = 0 then s.halt die e c 2
    else if s.rdN k + 1 < cnt then (s.wrN k (s.rdN k + 1)).goPc die e c (nbits w 10 0)
    else (s.wrN k 0).goPc die e c ((s.chan die e c).pc + 1)))

/-- The key of a channel's latch of event channel `n`. -/
def latchReg (die e c n : Nat) : Nat := bgc die e c + (if n < 32 then BG.CH_LATCH_LO else BG.CH_LATCH_HI)

/-- WAIT (R377). -/
def execWaitInsn (die e : Nat) (s : State) : Res :=
  .next (s.atInsn die e 3 (fun s c w =>
    let v := s.chan die e c
    let mode := nbits w 59 58
    let arg := nbits w 31 0
    if mode = 3 ∨ nbits w 57 32 ≠ 0 ∨ (mode = 0 ∧ (nbits arg 31 9 ≠ 0 ∨ nbits arg 7 6 ≠ 0)) ∨ (mode = 2 ∧ arg ≠ 0) then
      s.halt die e c 2
    else if mode = 0 then
      let n := arg % 64
      if s.bit (latchReg die e c n) (n % 32) then
        (if arg.testBit 8 then s else s.clrBit (latchReg die e c n) (n % 32)).goPc die e c (v.pc + 1)
      else (s.updChan die e c (fun v => { v with need := n })).block die e c 1
    else if mode = 1 then
      let due := v.relAt.getD (s.cycle + arg)
      if due ≤ s.cycle then s.goPc die e c (v.pc + 1)
      else (s.setChan die e c { v with relAt := some due }).block die e c 2
    else
      match s.progWord die e (v.pc + 1) with
      | none => s.halt die e c 3
      | some t =>
        if 1000000000 ≤ t % 2 ^ 32 then s.halt die e c 2
        else if timeReached (s.stamp die) t then
          (if v.absT = none then s.chEvent die e c 3 else s).goPc die e c (v.pc + 2)
        else (s.setChan die e c { v with absT := some t }).block die e c 2))

/-- WAIT_TIME_REL_EXPIRE (R377). -/
def execWaitTimeRelExpire (die e c : Nat) (s : State) : Res :=
  .next (match (s.chan die e c).relAt with
    | some d => if bargeOk s die e c = true ∧ d ≤ s.cycle ∧ (s.chan die e c).abort = none then s.unblock die e c else s
    | none => s)

/-- WAIT_TIME_ABS_REACHED (R377). -/
def execWaitTimeAbsReached (die e c : Nat) (s : State) : Res :=
  .next (match (s.chan die e c).absT with
    | some t => if bargeOk s die e c = true ∧ timeReached (s.stamp die) t = true ∧ (s.chan die e c).abort = none then s.unblock die e c
      else s
    | none => s)

/-- SIGNAL (R378). -/
def execSignalInsn (die e : Nat) (s : State) : Res :=
  .next (s.atInsn die e 4 (fun s c w =>
    if nbits w 59 3 ≠ 0 then s.halt die e c 2
    else (s.updChan die e c (fun v => { v with sigs := v.sigs ++ [nbits w 2 0] })).goPc die e c ((s.chan die e c).pc + 1)))

/-- SIGNAL_PULSE (R378). -/
def execSignalPulse (die e c : Nat) (s : State) : Res :=
  .next (match (s.chan die e c).sigs with
    | [] => s
    | n :: rest => if bargeOk s die e c then (s.updChan die e c (fun v => { v with sigs := rest })).pulse die (448 + 8 * e + n) else s)

/-- END (R370). -/
def execEndInsn (die e : Nat) (s : State) : Res :=
  .next (s.atInsn die e 5 (fun s c w =>
    let k := bgc die e c
    if nbits w 58 11 ≠ 0 then s.halt die e c 2
    else if w.testBit 59 then
      (s |>.wr (k + BG.CH_IDX0) 0#32 |>.wr (k + BG.CH_IDX1) 0#32 |>.wr (k + BG.CH_IDX2) 0#32).goPc die e c (nbits w 10 0)
    else (s.updChan die e c (fun v => { v with ending := true })).freeEng die e c))

/-- END_COMPLETE (R370). -/
def execEndComplete (die e c : Nat) (s : State) : Res :=
  .next (if bargeOk s die e c && (s.chan die e c).ending && (s.chan die e c).abort.isNone then
    ((s.updChan die e c (fun v => { v with ending := false })).setChState die e c 4).pulse die
      (448 + 8 * e + s.fld (bgc die e c + BG.CH_CFG) 6 4)
  else s)

/-! ## MOVE (R371-R383) -/

/-- Element size, plane count and group size of a MOVE (R371, R383). -/
def mvE (w0 : Nat) : Nat := 2 ^ nbits w0 52 51
def mvK (w0 : Nat) : Nat := nbits w0 50 49 + 1
def mvG (w0 : Nat) : Nat :=
  match nbits w0 59 57 with
  | 0 => 1
  | 1 => mvK w0 * mvE w0
  | 2 => mvK w0 * mvE w0
  | 3 => 8 * mvE w0
  | 4 => 2 * mvE w0
  | _ => 4 * mvE w0

/-- Whether word 0 of a MOVE holds a refused field (R371, R375). -/
def mvBad0 (w : Nat) : Bool :=
  let shuf := nbits w 59 57
  let ss := nbits w 56 55
  let ds := nbits w 54 53
  let rec_ := w.testBit 48
  let len := nbits w 24 0
  decide (5 < shuf) || ss == 3 || ds == 3 || nbits w 47 45 != 0 || ((shuf == 1 || shuf == 2) && nbits w 50 49 == 0) || len == 0 ||
    decide (16777216 < len) || (rec_ && (shuf != 0 || ss != 0)) || (ss != 0 && shuf != 0) || (ss == 2 && len != 8) ||
    (ds == 2 && shuf == 1) || len % mvG w != 0

/-- Whether word `i` of a MOVE holds a refused field, given word 0. -/
def mvBad (w0 i w : Nat) : Bool :=
  match i with
  | 0 => mvBad0 w
  | 1 => (nbits w0 56 55 == 0 && nbits w 63 32 != 0) || (nbits w0 56 55 == 2 && w != 0)
  | 2 => nbits w 63 40 != 0 || (nbits w0 54 53 == 2 && w != 0)
  | _ => w.testBit 63

/-- The offset of the loop indices by a word of steps (R372). -/
def State.mvSteps (s : State) (die e c w : Nat) : Int :=
  let k := bgc die e c + BG.CH_IDX0
  (s.rdN k : Int) * signed 21 (nbits w 20 0) + (s.rdN (k + 4) : Int) * signed 21 (nbits w 41 21) +
    (s.rdN (k + 8) : Int) * signed 21 (nbits w 62 42)

/-- Whether an address lies in a pop region (R345). -/
def inPop (a : Int) : Bool := decide (0x08000000 ≤ a) && decide (a < 0x0A000000) && decide (a % 0x2000 < 0x1000)

/-- The five words of a MOVE fetched and judged in order (R369): the words, or the cause of the halt. A REC source outside a
pop region is judged with word 3. -/
def State.mvFetch (s : State) (die e c pc w0 : Nat) : Except Nat (List Nat) :=
  (List.range 5).foldl (fun r i => match r with
    | .error x => .error x
    | .ok ws => match s.progWord die e (pc + i) with
      | none => .error 3
      | some w =>
        if mvBad w0 i w then .error 2
        else if i = 3 ∧ w0.testBit 48 = true ∧ inPop ((nbits (ws.getD 1 0) 31 0 : Int) + s.mvSteps die e c w) = false then .error 2
        else .ok (ws ++ [w])) (.ok [])

/-- The regions a MOVE of `n` bytes touches at a base: one of `n` bytes, or its planes (R383). -/
def mvRegions (w0 : Nat) (planes : Bool) (base : Int) (n : Nat) : List (Int × Nat) :=
  if planes then (List.range (mvK w0)).map (fun p => (base + ((p * nbits w0 44 25 * 64 : Nat) : Int), n / mvK w0)) else [(base, n)]

/-- Whether every byte of the regions lies below 2^k. -/
def inSpace (k : Nat) (l : List (Int × Nat)) : Bool := l.all (fun r => decide (0 ≤ r.1) && decide (r.1 + (r.2 : Int) ≤ 2 ^ k))

/-- Whether a region meets the queue windows. -/
def meetsWindows (l : List (Int × Nat)) : Bool :=
  l.any (fun r => decide (r.1 < 0x0A000000) && decide (0x08000000 < r.1 + (r.2 : Int)))

/-- The largest number of records, and their bytes, that fit in `len` from the head of a queue (R379). -/
def recsFit : List Rec → Nat → Nat × Nat
  | [], _ => (0, 0)
  | r :: rs, len =>
    if r.data.length ≤ len then let t := recsFit rs (len - r.data.length); (t.1 + 1, t.2 + r.data.length) else (0, 0)

def State.ringTotal (s : State) (die e c : Nat) : Nat := s.rdPair (bgn die e c + BG.RING_TOTAL_LO) (bgn die e c + BG.RING_TOTAL_HI)
def State.ringCredit (s : State) (die e c : Nat) : Nat := s.rdPair (bgc die e c + BG.RING_CREDIT) (bgc die e c + BG.RING_CREDIT_HI)
def State.setCredit (s : State) (die e c n : Nat) : State := s.wrPair (bgc die e c + BG.RING_CREDIT) (bgc die e c + BG.RING_CREDIT_HI) n
def State.setTotal (s : State) (die e c n : Nat) : State := s.wrPair (bgn die e c + BG.RING_TOTAL_LO) (bgn die e c + BG.RING_TOTAL_HI) n

/-- A MOVE whose fields are good starts, blocks or halts (R372, R373, R379-R381). A REC MOVE whose queue another channel's REC MOVE holds
cannot start until that one's last byte has moved; CH_STAT.BLOCK then shows NONE (DEDUCED, log entry 108). -/
def State.mvStart (s : State) (die e c : Nat) (ws : List Nat) : State :=
  let w0 := ws.getD 0 0
  let shuf := nbits w0 59 57
  let ss := nbits w0 56 55
  let ds := nbits w0 54 53
  let len := nbits w0 24 0
  let src : Int := (nbits (ws.getD 1 0) 31 0 : Int) + s.mvSteps die e c (ws.getD 3 0)
  let dst : Int := (nbits (ws.getD 2 0) 39 0 : Int) + s.mvSteps die e c (ws.getD 4 0)
  let isRec := w0.testBit 48
  let q := ((src - 0x08000000) / 0x2000).toNat
  let v := s.queue die q
  let pend := if v.fault then [] else v.und
  let fit := recsFit pend len
  let n := if isRec then fit.2 - v.pos else len
  let s1 := if isRec then s.wrN (bgc die e c + BG.CH_RECS) fit.1 else s
  let srcOk := ss ≠ 0 ∨ isRec = true ∨ inSpace 32 (mvRegions w0 (shuf == 2) src len) = true
  let dstR := mvRegions w0 (shuf == 1) dst n
  let dstOk := ds = 2 ∨ n = 0 ∨ (ds = 0 ∧ inSpace 32 dstR = true ∧ meetsWindows dstR = false) ∨ (ds = 1 ∧ inSpace 40 dstR = true)
  if isRec = true ∧ s.recBusy die e c q = true then (s.updChan die e c (fun v => { v with waitQ := some q })).block die e c 0
  else if isRec = true ∧ fit.1 = 0 ∧ pend ≠ [] then s.halt die e c 5
  else if ¬ (srcOk ∧ dstOk) then s.halt die e c 4
  else if ds = 2 ∧ s.ringCredit die e c < n then (s.updChan die e c (fun v => { v with need := n })).block die e c 3
  else if n = 0 then s1.goPc die e c ((s.chan die e c).pc + 5)
  else (s1.settleAcc die e c).updChan die e c (fun v => { v with
    need := 0
    link := if ds = 0 then 64 else 115
    failAt := none
    retries := 0
    mv := some { words := ws, src := src.toNat, dst := dst.toNat, total := n, left := n, queue := if isRec then some q else none,
                 cursor := s.ringTotal die e c } })

/-- MOVE (R369, R371-R375, R379, R381, R382). -/
def execMoveInsn (die e : Nat) (s : State) : Res :=
  .next (s.atInsn die e 1 (fun s c w =>
    match s.mvFetch die e c (s.chan die e c).pc w with
    | .error x => s.halt die e c x
    | .ok ws => s.mvStart die e c ws))

/-! ## Rings and configuration (R381, R395, R396) -/

/-- Ring credit added, held at the ring size; a blocked MOVE may start (R381). -/
def State.addCredit (s : State) (die e c m : Nat) : State :=
  let size := 2 ^ s.fld (bgc die e c + BG.RING_LOG) 5 0
  let n := s.ringCredit die e c + m
  let s1 := (if size < n then s.chEvent die e c 4 else s).setCredit die e c (Nat.min size n)
  if s.chState die e c = 3 ∧ s.fld (bgc die e c + BG.CH_STAT) 13 12 = 3 ∧ (s.chan die e c).need ≤ Nat.min size n ∧
      (s.chan die e c).abort = none then
    s1.unblock die e c else s1

/-- RING_ADD (R381). -/
def execRingAdd (die e c req v : Nat) (s : State) : Res :=
  .next (s.onKey (bgc die e c + BG.RING_ADD) req (fun s => if bargeOk s die e c then s.addCredit die e c (v % 2 ^ 32) else s))

/-- RING_LOG_WRITE (R381, R395). -/
def execRingLogWrite (die e c req v : Nat) (s : State) : Res :=
  .next (s.onKey (bgc die e c + BG.RING_LOG) req (fun s =>
    let n := v % 64
    if bargeOk s die e c = false then s
    else if chRunning (s.chState die e c) = true ∨ n < 12 ∨ 32 < n then s.chEvent die e c 6
    else ((s.wrFld (bgc die e c + BG.RING_LOG) 5 0 n).setTotal die e c 0).setCredit die e c (2 ^ n)))

/-- RING_TOTAL_READ (R396). -/
def execRingTotalRead (die e c req : Nat) (s : State) : Res :=
  .next (s.onKey (bgn die e c + BG.RING_TOTAL_LO) req (fun s =>
    let k := bgn die e c
    (s.latch req (k + BG.RING_TOTAL_HI) (s.rd (k + BG.RING_TOTAL_HI))).respond (.data [s.rd (k + BG.RING_TOTAL_LO)])))

/-- CH_CFG_WRITE (R395): CH_CFG, RING_BASE_LO or RING_BASE_HI at offset `off` of the channel. -/
def execChCfgWrite (die e c off req v : Nat) (s : State) : Res :=
  .next (s.onKey (bgc die e c + off) req (fun s =>
    let m := if off = BG.CH_CFG then 0x71 else if off = BG.RING_BASE_LO then 0xFFFFFFFF else if off = BG.RING_BASE_HI then 0xFF else 0
    if bargeOk s die e c = false ∨ m = 0 then s
    else if chRunning (s.chState die e c) then s.chEvent die e c 6
    else s.wr (bgc die e c + off) (wordOf v &&& wordOf m)))

/-- LATE_ERROR (R390): counted, its event set, and logged with the channel and the address. -/
def execLateError (die e c addr : Nat) (s : State) : Res :=
  .next (if bargeOk s die e c then
    ((s.inc (bgn die e c + BG.LATE_ERR)).chEvent die e c 2).logErr die 3 3 5 0x10 (32 * e + c) addr
  else s)

end Sys2Proof.Machine
end

