-- ==== Sys2Proof/Machine/Uplink.lean ====
section
/-! DEFINITION. The merged uplink (R407-R437): acceptance, writes to the host, tails and ledgers, doorbells, carriers, drains
and shedding. -/
namespace Sys2Proof.Machine
set_option Elab.async false

def State.ep (s : State) (st : Nat) : EpS := Tbl.get (fun _ => {}) s.eps st
def State.setEp (s : State) (st : Nat) (v : EpS) : State := { s with eps := Tbl.set (fun _ => {}) s.eps st v }
def State.updEp (s : State) (st : Nat) (f : EpS → EpS) : State := s.setEp st (f (s.ep st))
def State.ledger (s : State) (st k : Nat) : LedgerS := Tbl.get (fun _ => {}) s.ledgers (st * 1024 + k)
/-- A ledger set; LEDGER and PEND follow it (R435). -/
def State.setLedger (s : State) (st k : Nat) (v : LedgerS) : State :=
  let b := epb st + 0x20 * k
  (({ s with ledgers := Tbl.set (fun _ => {}) s.ledgers (st * 1024 + k) v }).wrPair (b + EP.RING_LEDGER_LO) (b + EP.RING_LEDGER_HI)
    v.bound).wrN (b + EP.RING_PEND) v.ends.length

/-- A steward of the part. -/
def State.stOk (s : State) (st : Nat) : Bool := (st == 4 || st == 5) && s.present st

def State.epEvent (s : State) (st i : Nat) : State := s.setBit (epb st + EP.EP_EVENTS) i

/-- The failover registers of a steward (R608). -/
abbrev fo (st : Nat) : Nat := brs st 4

/-- Whether a steward counts its partner as lost (R583, R589): not up, and no planned stop. -/
def State.peerLost (s : State) (st : Nat) : Bool :=
  !s.present (partner st) || (!s.bit (fo st + BRS.FO_STAT) 0 && !s.bit (fo st + BRS.FO_STAT) 2)

/-- A steward that has reached FINAL_DONE initiates no write towards the host (R568). -/
def State.hostSilent (s : State) (st : Nat) : Bool := s.fld (hu st + HU.HU_STAT) 2 0 == 5

/-- An MSI-X message of vector `v` (R413). -/
def State.msix (s : State) (st v : Nat) : State := if s.hostSilent st then s else s.emit .msix st [v]

/-! ## UP_STATUS (R413, R437, R581) -/

/-- UP_STATUS.MODE (R581). -/
def State.modeNow (s : State) (st : Nat) : Nat :=
  if s.finalC then 4 else if s.weirOn then 2 else b2n (s.bit (fo st + BRS.FO_STAT) 3)

/-- UP_STATUS written as its conditions stand: a change raises vector 1, and the lead reports a change of MODE (R413, R581). -/
def State.upFresh (s : State) (st : Nat) : State :=
  if s.stOk st = false then s
  else
    let k := upb st + UP.UP_STATUS
    let old := s.rdN k
    let new := s.modeNow st + b2n (s.bit (epb st + EP.EP_STAT) 17) * 16 + old / 32 % 4 * 32 + b2n (s.bit (fo st + BRS.FO_STAT) 0) * 128
    if new = old then s
    else
      let s1 := (s.wrN k new).msix st 1
      if new % 8 ≠ old % 8 ∧ st = s.lead then s1.health st 1 0 0x11 0 (new % 256) (old % 256) else s1

/-- UP_STATUS of both stewards. -/
def State.upAll (s : State) : State := (s.upFresh 4).upFresh 5

/-! ## Acceptance and writes to the host (R410, R411, R415, R426) -/

/-- The host address of a steward address in the host window; none where the slot is disabled (R415). -/
def State.hostAddr (s : State) (st addr : Nat) : Option Nat :=
  let o := addr - 0x8000000000
  let w := s.rdN (epb st + EP.HMW + 4 * (o / 0x200000000 % 64))
  if w.testBit 31 then some (w % 2 ^ 31 * 2 ^ 33 + o % 0x200000000) else none

/-- The parts in which a write leaves: none above Max Payload Size, none across a 4 KiB boundary (R411); `fuel` bounds them. -/
def payloadParts (mps : Nat) : Nat → Nat → List Byte → List (Nat × List Byte)
  | 0, _, _ => []
  | fuel + 1, a, bs =>
    if bs = [] then []
    else
      let n := Nat.min mps (4096 - a % 4096)
      (a, bs.take n) :: payloadParts mps fuel (a + n) (bs.drop n)

/-- A posted write leaves; a tail write owes its ring's vector and waits for its acknowledgement (R411, R421, R423). -/
def State.sendHost (s : State) (st : Nat) (w : HostWr) : State :=
  let s1 := forEach (payloadParts (128 * 2 ^ (s.ep st).mps) w.bytes.length w.addr w.bytes) s (fun s p =>
    s.emit .hostWrite st (p.1 :: p.2.map (fun b => b.toNat)))
  match w.tail with
  | none => s1
  | some (k, t) =>
    let v := s.fld (epb st + EP.RING_CFG + 0x20 * k) 29 24
    s1.updEp st (fun e => { e with
      tails := e.tails ++ [{ ring := k, value := t, die := w.die, no := w.no }]
      vecPend := if 2 ≤ v ∧ e.vecPend.contains k = false then e.vecPend ++ [k] else e.vecPend })

/-- A write towards the host: sent while ACCEPT is set, else it waits (R426). -/
def State.hostWrite (s : State) (st : Nat) (w : HostWr) : State :=
  let w1 : HostWr := { w with no := (s.ep st).nextNo }
  let s1 := s.updEp st (fun e => { e with nextNo := e.nextNo + 1 })
  if s1.bit (epb st + EP.EP_STAT) 17 && (s1.ep st).hostq.isEmpty && !s1.hostSilent st then s1.sendHost st w1
  else s1.updEp st (fun e => { e with hostq := e.hostq ++ [w1] })

/-- The writes that waited are sent, unless the steward is silent (R426, R568). -/
def State.sendWaiting (s : State) (st : Nat) : State :=
  if s.hostSilent st then s
  else forEach (s.ep st).hostq (s.updEp st (fun e => { e with hostq := [] })) (fun s w => s.sendHost st w)

/-- ACCEPT follows its conditions (R426); writes that waited are sent. -/
def State.acceptFresh (s : State) (st : Nat) : State :=
  let e := s.ep st
  let was := s.bit (epb st + EP.EP_STAT) 17
  let acc := s.bit (epb st + EP.EP_STAT) 16 && e.bme && !e.d3hot && !e.stalled && !e.flr
  if acc = was then s
  else
    let s1 := ((s.putBit (epb st + EP.EP_STAT) 17 acc).epEvent st 0).upFresh st
    if acc then (s1.updEp st (fun e => { e with acceptSet := s.cycle })).sendWaiting st
    else s1.updEp st (fun e => { e with acceptClr := s.cycle })

/-- UPLINK_LINK_CHANGE (R407, R409, R426): the trained width and rate code, the link, Bus Master Enable, D3hot, and the code of Max Payload
Size: 0 to 2 for 128, 256 and 512 bytes. A link that comes up grants posted credit (PRESUMED, log entry 109). -/
def execUplinkLinkChange (st width rate : Nat) (up bme d3hot : Bool) (mps : Nat) (s : State) : Res :=
  .next (if s.stOk st = false then s
    else
      let k := epb st + EP.EP_STAT
      let s1 := ((s.wrFld k 4 0 (if up then width else 0)).wrFld k 10 8 (if up then rate else 0)).putBit k 16 up
      let rose := up && !s.bit k 16
      (s1.updEp st (fun e => { e with
        bme := bme
        d3hot := d3hot
        mps := Nat.min 2 mps
        stalled := e.stalled && !rose
        creditAt := if rose then s.cycle else e.creditAt })).acceptFresh st)

/-- ACCEPT_STALL_EXPIRE (R426): the host has granted no posted credit for ACCEPT_STALL ms. -/
def execAcceptStallExpire (st : Nat) (s : State) : Res :=
  .next (if s.stOk st && decide ((s.ep st).creditAt + msec (s.rdN (epb st + EP.ACCEPT_STALL)) ≤ s.cycle) then (s.updEp st (fun e => { e with stalled := true })).acceptFresh st else s)

/-- Where BAR0 lies in a steward's table of bytes: no address of R39. -/
def bar0Mem : Nat := 0x7000000000

/-- The mailbox buffers and the MSI-X table of BAR0 blank. -/
def State.clearBar0 (s : State) (st : Nat) : State :=
  { s with mem := s.mem.filter (fun e => decide (e.1 < st * 0x10000000000 + bar0Mem) || decide (st * 0x10000000000 + bar0Mem + 0x40000 ≤ e.1)) }

/-- What a reset of the function clears (R410, R417): mailbox, MSI-X table, pending vectors and status page; a request under way
completes at the dictionary and its response is discarded. -/
def State.funcReset (s : State) (st : Nat) : State :=
  let busy := s.fld (upb st + UP.MB_STATUS) 1 0 == 1 && (s.ep st).mbRsp.isNone
  let s1 := forEach (List.range 16) (s.clearBar0 st) (fun s i => s.wr (upb st + UP.SHED_MAP + 4 * i) 0#32)
  (s1 |>.wr (upb st + UP.UP_STATUS) 0#32 |>.wr (upb st + UP.UP_EPOCH) 0#32 |>.wr (upb st + UP.MB_STATUS) 0#32
    |>.wr (upb st + UP.MB_RSP_LEN) 0#32).updEp st (fun e => { e with
      vecPend := []
      mbRsp := none
      mbDiscard := busy || e.mbDiscard })

/-- FUNCTION_LEVEL_RESET (R410, R417, R426). ACCEPT is clear until the reset ends. -/
def execFunctionLevelReset (st : Nat) (s : State) : Res :=
  .next (if s.stOk st = false then s
    else ((s.funcReset st).updEp st (fun e => { e with flr := true })).acceptFresh st)

/-- POSTED_CREDIT_GRANT (R426): the host grants posted credit again. -/
def execPostedCreditGrant (st : Nat) (s : State) : Res :=
  .next (if s.stOk st then (s.updEp st (fun e => { e with stalled := false, creditAt := s.cycle })).acceptFresh st else s)

/-- FLR_COMPLETE (R410, R426). -/
def execFlrComplete (st : Nat) (s : State) : Res :=
  .next (if s.stOk st then (s.updEp st (fun e => { e with flr := false })).acceptFresh st else s)

/-- DB_SHADOW_WRITE (R435): a write of RINGk_DB_HI sets the shadow from the pair last written. -/
def execDbShadowWrite (st k req v : Nat) (s : State) : Res :=
  let b := epb st + 0x20 * k
  .next (s.onKey (b + EP.RING_DB_HI) req (fun s =>
    if 1024 ≤ k then s
    else (s.wrN (b + EP.RING_DB_LO) (((s.ep st).dbLo.lookup k).getD (s.rdN (b + EP.RING_DB_LO)))).wrN (b + EP.RING_DB_HI) v))

/-! ## Rings: ledger, tails, vectors (R418-R423) -/

/-- Fields of ring entry `k` of a steward (R436). -/
def State.ringCfg (s : State) (st k hi lo : Nat) : Nat := s.fld (epb st + EP.RING_CFG + 0x20 * k) hi lo
def State.ringDie (s : State) (st k : Nat) : Nat := s.ringCfg st k 23 22
def State.ringEng (s : State) (st k : Nat) : Nat := s.ringCfg st k 21 18
def State.ringCh (s : State) (st k : Nat) : Nat := s.ringCfg st k 17 13
def State.ringQueue (s : State) (st k : Nat) : Nat := s.ringCfg st k 11 0
def State.ringOn (s : State) (st k : Nat) : Bool := s.bit (epb st + EP.RING_CFG + 0x20 * k) 31

/-- The carrier of a queue: its steward (R6, R9). -/
def State.carrierOf (s : State) (die q : Nat) : Nat := 4 + s.qCarrier die q

/-- Whether an entry is active on a steward (R418). -/
def State.ringActive (s : State) (st k : Nat) : Bool :=
  s.ringOn st k && s.carrierOf (s.ringDie st k) (s.ringQueue st k) == st

/-- One ring byte passes the ledger (R401, R423). -/
def ledgerByte (v : LedgerS) (b : Byte) : LedgerS :=
  if v.stopped then { v with pos := v.pos + 1 }
  else if 0 < v.left then
    if v.left = 1 then { v with pos := v.pos + 1, left := 0, bound := v.pos + 1, ends := v.ends ++ [v.pos + 1] }
    else { v with pos := v.pos + 1, left := v.left - 1 }
  else
    let h := v.hdr ++ [b]
    if h.length < 48 then { v with pos := v.pos + 1, hdr := h }
    else
      let len := leAt h 8 4
      if leAt h 1 1 % 16 ≠ 1 ∨ len % 64 ≠ 0 ∨ 262144 < len then { v with pos := v.pos + 1, hdr := [], stopped := true }
      else if len = 0 then { v with pos := v.pos + 1, hdr := [], bound := v.pos + 1, ends := v.ends ++ [v.pos + 1] }
      else { v with pos := v.pos + 1, hdr := [], left := len }

/-- Ring bytes of an active entry pass its ledger. -/
def State.ledgerFeed (s : State) (st k : Nat) (bytes : List Byte) : State :=
  let v := s.ledger st k
  let v' := bytes.foldl ledgerByte v
  let s1 := s.setLedger st k v'
  if v'.stopped && !v.stopped then (s1.inc (epb st + EP.RING_PARSE_ERR)).epEvent st 4 else s1

/-- The ring entries of a steward that a channel writes. -/
def State.ringsOf (s : State) (st die e c : Nat) : List Nat :=
  (List.range 1024).filter (fun k => s.ringActive st k && s.ringDie st k == die && s.ringEng st k == e && s.ringCh st k == c)

/-- A Q_ACK of `n` records in parts of at most 65,535. -/
def State.ackParts (s : State) (die q n : Nat) : State :=
  forEach (List.replicate (n / 65535) 65535 ++ (if n % 65535 = 0 then [] else [n % 65535])) s (fun s m => s.ackQueue die q m)

/-- TAIL_ACK (R423): the oldest unacknowledged tail write of a ring is acknowledged by the data link layer. A ledger that has stopped writes
no Q_ACK. -/
def execTailAck (st k : Nat) (s : State) : Res :=
  .next (if s.stOk st = false then s
    else match (s.ep st).tails.find? (fun t => t.ring == k) with
    | none => s
    | some t =>
      let v := s.ledger st k
      let n := (v.ends.filter (fun e => decide (e ≤ t.value))).length
      let s1 := s.updEp st (fun e => { e with tails := e.tails.erase t })
      if v.stopped then s1
      else
        (s1.setLedger st k { v with ends := v.ends.filter (fun e => decide (t.value < e)) }).ackParts (s.ringDie st k) (s.ringQueue st k) n)

/-- RING_VECTOR (R421). -/
def execRingVector (st k : Nat) (s : State) : Res :=
  .next (if s.stOk st = false then s
    else
      let e := s.ep st
      let v := s.ringCfg st k 29 24
      let free := match e.vecLast.lookup v with
        | some t => decide (t + usec (s.rdN (epb st + EP.MSIX_MOD)) ≤ s.cycle)
        | none => true
      if e.vecPend.contains k && free && decide (2 ≤ v) then
        (s.msix st v).setEp st { e with
          vecPend := e.vecPend.filter (fun i => s.ringCfg st i 29 24 != v)
          vecLast := (v, s.cycle) :: e.vecLast.filter (fun p => p.1 != v) }
      else s)

/-! ## Doorbells (R422) -/

def State.shadow (s : State) (st k : Nat) : Nat :=
  s.rdPair (epb st + EP.RING_DB_LO + 0x20 * k) (epb st + EP.RING_DB_HI + 0x20 * k)
def State.setShadow (s : State) (st k n : Nat) : State :=
  s.wrPair (epb st + EP.RING_DB_LO + 0x20 * k) (epb st + EP.RING_DB_HI + 0x20 * k) n

/-- RING_ADD of a channel in parts of at most 0xFFFF_FFFF. -/
def State.addParts (s : State) (die e c n : Nat) : State :=
  forEach (List.replicate (n / 0xFFFFFFFF) 0xFFFFFFFF ++ (if n % 0xFFFFFFFF = 0 then [] else [n % 0xFFFFFFFF])) s
    (fun s m => s.addCredit die e c m)

/-- Both shadows take HEAD and the carrier adds the credit; a HEAD below the shadow by then changes nothing. -/
def State.takeHead (s : State) (st k head : Nat) : State :=
  let delta := (head + 2 ^ 64 - s.shadow st k) % 2 ^ 64
  let die := s.ringDie st k
  if 2 ^ 63 ≤ delta then s
  else
    let s1 := forEach s.stewards s (fun s x => s.setShadow x k head)
    if bargeOk s die (s.ringEng st k) (s.ringCh st k) then s1.addParts die (s.ringEng st k) (s.ringCh st k) delta else s1

/-- The HEAD that a doorbell is compared with: that of the last update not yet confirmed, else the shadow. -/
def State.headBase (s : State) (st k : Nat) : Nat :=
  (((s.ep st).dbPend.filter (fun p => p.1 == k)).getLast?.map (fun p => p.2)).getD (s.shadow st k)

/-- DOORBELL (R422): HEAD of doorbell `k` written on steward `st`. -/
def execDoorbell (st k head : Nat) (s : State) : Res :=
  .next (if s.stOk st = false ∨ 1024 ≤ k ∨ s.ringOn st k = false then s
    else
      let h := head % 2 ^ 64
      let s0 := s.wrPair (upb st + UP.DB_HEAD_LO + 0x10 * k) (upb st + UP.DB_HEAD_HI + 0x10 * k) h
      let delta := (h + 2 ^ 64 - s.headBase st k) % 2 ^ 64
      let size := 2 ^ s.fld (bgc (s.ringDie st k) (s.ringEng st k) (s.ringCh st k) + BG.RING_LOG) 5 0
      if delta = 0 then s0
      else if size < delta ∨ 2 ^ 63 ≤ delta then (s0.inc (epb st + EP.DB_BAD)).epEvent st 3
      else if s.peerLost st then s0.takeHead st k h
      else s0.updEp st (fun e => { e with dbPend := e.dbPend ++ [(k, h)] }))

/-- DOORBELL_CONFIRM (R422): the other steward confirms the oldest update of doorbell `k` that `st` sent. -/
def execDoorbellConfirm (st k : Nat) (s : State) : Res :=
  .next (if s.stOk st = false then s
    else match (s.ep st).dbPend.find? (fun p => p.1 == k) with
    | none => s
    | some p => (s.updEp st (fun e => { e with dbPend := e.dbPend.erase p })).takeHead st k p.2)

/-! ## Drains and carriers (R424, R425) -/

/-- Whether every posted write of a module of a steward with a number below `n` has been sent and acknowledged. -/
def State.drained (s : State) (st m n : Nat) : Bool :=
  let e := s.ep st
  e.hostq.all (fun w => w.die != m || decide (n ≤ w.no)) && e.tails.all (fun t => t.die != m || decide (n ≤ t.no))

/-- EP_DRAIN (R425): drains begin for the writes received so far. -/
def execEpDrain (st req v : Nat) (s : State) : Res :=
  .next (s.onKey (epb st + EP.EP_DRAIN) req (fun s =>
    (s.setBits (epb st + EP.EP_DRAIN_STAT) (v % 32)).updEp st (fun e => { e with
      drains := ((List.range 5).filter (fun m => v.testBit m)).map (fun m => (m, e.nextNo)) ++ e.drains.filter (fun p => !v.testBit p.1) })))

/-- EP_DRAIN_DONE (R425) of module `m` (U_C0-U_C3, U_X). -/
def execEpDrainDone (st m : Nat) (s : State) : Res :=
  .next (if s.stOk st && decide (m < 5) && s.bit (epb st + EP.EP_DRAIN_STAT) m &&
      s.drained st m (((s.ep st).drains.lookup m).getD (s.ep st).nextNo) then
    (s.clrBit (epb st + EP.EP_DRAIN_STAT) m).epEvent st 5 else s)

/-- A running channel aborted at once with QUIET (R391, R395): residue, indices and CH_PC as at an abort. -/
def State.abortQuiet (s : State) (die e c : Nat) : State :=
  if chRunning (s.chState die e c) = false then s
  else
    let v := s.chan die e c
    let k := bgc die e c
    ((((((s.wrN (k + BG.CH_RESID) ((v.kept.map (fun m => m.left)).getD 0)).wrFld (k + BG.CH_PC) 10 0 v.pc).wrFld (k + BG.CH_STAT) 11 8 6).wrFld
      (k + BG.CH_STAT) 13 12 0).setChState die e c 6).chEvent die e c 1 |>.updChan die e c (fun v => { v with
        mv := v.kept
        abort := none
        failAt := none
        waitQ := none
        ending := false }) |>.freeEng die e c).recFree die

/-- The enabled ring entry of a queue on a steward. -/
def State.ringEntry (s : State) (st die q : Nat) : Option Nat :=
  (List.range 1024).find? (fun k => s.ringOn st k && s.ringDie st k == die && s.ringQueue st k == q)

/-- The steps of R424 that move queue `q` of a die to steward `st`; `false` where the old carrier has writes of the die's module
outstanding. -/
def State.moveQueue (s : State) (die q st : Nat) : State × Bool :=
  let old := s.carrierOf die q
  if old = st then (s, true)
  else
    let go := fun (s : State) => s.wrFld (qk die q + BS.Q_CFG) 25 25 (st - 4)
    match s.ringEntry old die q with
    | none => (go s, true)
    | some k =>
      if s.drained old die (s.ep old).nextNo = false then (s, false)
      else
        let e := s.ringEng old k
        let c := s.ringCh old k
        let run := chRunning (s.chState die e c)
        let s1 := s.abortQuiet die e c
        let s2 := (s1.setLedger st k (s1.ledger old k)).setShadow st k (s1.shadow old k)
        let s3 := (go s2).wrFld (bgc die e c + BG.CH_CFG) 0 0 (st - 4)
        (if run then s3.chResume die e c else s3, true)

/-! ## Shedding (R427-R431) -/

/-- Fractions of natural numbers. -/
def fracAdd (a b : Nat × Nat) : Nat × Nat := (a.1 * b.2 + b.1 * a.2, a.2 * b.2)
def fracSum (l : List (Nat × Nat)) : Nat × Nat := l.foldl fracAdd (0, 1)
def fracLt (a b : Nat × Nat) : Bool := decide (a.1 * b.2 < b.1 * a.2)

/-- Twice the bytes per value of a tap format (R427). -/
def tapBytes2 (fmt : Nat) : Nat := match fmt with | 0 => 3 | 1 => 4 | 2 => 5 | _ => 8

/-- The device-wide pipeline a stream is bound to. -/
def State.streamPipe (s : State) (stream : Nat) : Nat := stream / 128 * 128 + s.pipeOf stream

/-- D_s in bytes per ns (R427). -/
def State.rawDemand (s : State) (stream : Nat) : Nat × Nat :=
  let k := pl (s.streamPipe stream)
  let area := s.afld (si stream + SI.GEOM) 13 0 * s.afld (si stream + SI.GEOM) 29 16
  let t := fun i => let w := s.actN (k + PL.TAP_T0 + 4 * i); if w.testBit 0 then tapBytes2 (nbits w 2 1) else 0
  (area * (4 * (t 0 + t 1 + t 2) + t 3), 8 * Nat.max 1 (s.actN (si stream + SI.PERIOD)))

/-- F_s in bytes per ns (R427). -/
def State.fallRate (s : State) (stream : Nat) : Nat × Nat :=
  let k := pl (s.streamPipe stream)
  fracSum ((List.range 4).map (fun i =>
    let w := s.actN (k + PL.OUT_CTL + 0x100 * i)
    if w.testBit 0 ∧ w.testBit 9 then
      (s.afld (k + PL.OUT_SIZE + 0x100 * i) 12 0 * s.afld (k + PL.OUT_SIZE + 0x100 * i) 29 16 * bytesPerPixel (nbits w 4 2),
        Nat.max 1 (s.actN (si stream + SI.PERIOD)) * (nbits w 27 24 + 1))
    else (0, 1)))

/-- S_CTL.PRIO: 0 TRUMP, 1 HIGH, 2 NORMAL, 3 LOW. -/
def State.prio (s : State) (stream : Nat) : Nat := s.afld (sk stream + TB.S_CTL) 2 1

/-- The streams that run through a pipeline, of dies in the plan. -/
def State.runStreams (s : State) : List Nat :=
  (List.range 512).filter (fun x => s.present (x / 128) && !s.lostDies.contains (x / 128) && s.abit (si x + SI.CTL) 0 &&
    s.bit (si x + SI.STATE) 1)

/-- The queue of a stream's records (R337), and the steward that carries the stream. -/
def State.streamQueue (s : State) (x : Nat) : Nat := s.rdN (dk (x / 128) + BS.BS_SQ + 4 * (x % 128)) % 4096
def State.streamCarrier (s : State) (x : Nat) : Nat := s.carrierOf (x / 128) (s.streamQueue x)

/-- The streams a steward carries. -/
def State.carriedStreams (s : State) (st : Nat) : List Nat := s.runStreams.filter (fun x => s.streamCarrier x == st)

/-- The shed streams that a steward's logic answers for: its own, and those that have come to it from the partner. -/
def State.shedNow (s : State) (st : Nat) : List Nat :=
  let mine := (s.ep st).shed
  mine ++ (s.ep (partner st)).shed.filter (fun x => s.streamCarrier x == st && !mine.contains x)

/-- Whether stream `a` is shed before `b` (R428). -/
def State.shedBefore (s : State) (st a b : Nat) : Bool :=
  let r := fun x => s.fld (epb st + EP.SHED_CFG + 4 * x) 7 0
  decide (s.prio b < s.prio a) || (s.prio a == s.prio b && (decide (r b < r a) || (r a == r b && decide (b < a))))

def State.shedInsert (s : State) (st a : Nat) : List Nat → List Nat
  | [] => [a]
  | b :: t => if s.shedBefore st a b then a :: b :: t else b :: s.shedInsert st a t

/-- The load with the streams of `shed` at their fall-back rates. -/
def State.load (s : State) (all shed : List Nat) : Nat × Nat :=
  fracSum (all.map (fun x => if shed.contains x then s.fallRate x else s.rawDemand x))

/-- Streams shed one at a time in order while the load exceeds the budget. -/
def State.planGo (s : State) (all : List Nat) (budget : Nat × Nat) : List Nat → List Nat → List Nat
  | [], shed => shed
  | x :: rest, shed =>
    if fracLt budget (s.load all shed) then s.planGo all budget rest (shed ++ [x]) else shed

/-- The budget of a steward in bytes per ns, at `pct` percent (R428); rate codes of R436 in GT/s × 2. -/
def State.budget (s : State) (st pct : Nat) : Nat × Nat :=
  let k := epb st + EP.EP_STAT
  let r2 := match s.fld k 10 8 with | 1 => 5 | 2 => 10 | 3 => 16 | 4 => 32 | 5 => 64 | 6 => 128 | _ => 0
  (s.rdN (epb st + EP.UP_BUDGET) * s.fld k 4 0 * r2 * pct, 16 * 128 * 100 * 1000)

/-- A plan: the streams shed. -/
def State.buildPlan (s : State) (st pct : Nat) : List Nat :=
  let all := s.carriedStreams st
  let forced := all.filter (fun x => s.bit (epb st + EP.SHED_CFG + 4 * x) 8 && s.prio x != 0)
  let cand := (all.filter (fun x => s.prio x != 0 && !forced.contains x)).foldl (fun l x => s.shedInsert st x l) []
  s.planGo all (s.budget st pct) cand forced

/-- A fraction of bytes per ns in MB/s. -/
def mbps (f : Nat × Nat) : Nat := f.1 * 1000 / Nat.max 1 f.2

/-- OVERLOAD or TRUMP_OVER in UP_STATUS and its event (R430, R431). -/
def State.upFlag (s : State) (st bitn ev : Nat) (b : Bool) : State :=
  let k := upb st + UP.UP_STATUS
  let s1 := if b then s.epEvent st ev else s
  if s.bit k bitn = b then s1 else (s1.putBit k bitn b).msix st 1

/-- SHED_PLAN (R427-R431). With SHED_EN clear no plan is built: the demand and TRUMP_OVER alone are brought up to date. -/
def execShedPlan (st : Nat) (s : State) : Res :=
  let all := s.carriedStreams st
  let trump := fracSum (((s.runStreams).filter (fun x => s.prio x == 0)).map (fun x => s.rawDemand x))
  .next (if s.stOk st = false ∨ s.finalC = true then s
    else if s.bit (epb st + EP.EP_CTL) 0 = false then
      (s.wrN (epb st + EP.DEMAND) (mbps (s.load all []))).upFlag st 6 7 (fracLt (100, 1) trump)
    else
      let plan := s.buildPlan st 100
      let low := s.buildPlan st (s.fld (epb st + EP.SHED_PARAM) 7 0)
      let e := s.ep st
      let old := s.shedNow st
      let shed := old ++ plan.filter (fun x => !old.contains x)
      let load := s.load all plan
      let s1 := forEach plan s (fun s x => s.setBit (pl (s.streamPipe x) + PL.FIN_REQ) 0)
      let s2 := (s1.updEp (partner st) (fun v => { v with shed := v.shed.filter (fun x => !shed.contains x) })).setEp st { e with
        shed := shed
        plan := plan
        holds := (shed.filter (fun x => s.streamCarrier x == st && !low.contains x)).map (fun x => (x, (e.holds.lookup x).getD s.cycle)) }
      let s3 := (s2.wrN (epb st + EP.DEMAND) (mbps (s.load all []))).wrN (epb st + EP.DEMAND_PLAN) (mbps load)
      let s4 := if plan = e.plan then s3 else s3.epEvent st 2
      (s4.upFlag st 5 1 (fracLt (s.budget st 100) load)).upFlag st 6 7 (fracLt (100, 1) trump))

/-- SHED_HOLD_EXPIRE (R429). -/
def execShedHoldExpire (st stream : Nat) (s : State) : Res :=
  .next (if s.stOk st = false ∨ s.finalC = true then s
    else match (s.ep st).holds.lookup stream with
    | none => s
    | some t =>
      if s.cycle < t + msec (s.fld (epb st + EP.SHED_PARAM) 31 16) then s
      else (s.updEp st (fun e => { e with
          shed := e.shed.filter (fun x => x != stream)
          holds := e.holds.filter (fun p => p.1 != stream) })).clrBit (pl (s.streamPipe stream) + PL.FIN_REQ) 0)

end Sys2Proof.Machine
end

