-- ==== Sys2Proof/Machine/DictQ.lean ====
section
/-! DEFINITION. Requests and responses of the dictionary (R621, R622), and how a response reaches its route (R416, R634, R658). -/
namespace Sys2Proof.Machine
set_option Elab.async false

/-- One entry of a response (R622): its abort, DETAIL and BLOCK, and the data read. -/
structure OpRes where
  abort : Nat := 0
  detail : Nat := 0
  block : Nat := 0
  data : List Byte := []

def OpRes.bytes (r : OpRes) : List Byte :=
  leBytes r.abort 4 ++ leBytes r.detail 2 ++ leBytes r.block 1 ++ zeros 1 ++ leBytes r.data.length 2 ++ zeros 2 ++
    padTo (roundUp r.data.length 4) r.data

/-- A whole response (R622). -/
def rspBytes (req : List Byte) (apply : OpRes) (l : List OpRes) : List Byte :=
  [1#8] ++ leBytes (leAt req 1 1) 1 ++ leBytes (leAt req 2 2) 2 ++ leBytes apply.abort 4 ++ leBytes apply.detail 2 ++
    leBytes apply.block 1 ++ zeros 1 ++ (l.map (fun r => r.bytes)).flatten

/-- A status of the engine itself (R617): CLASS 0x01, BLOCK 0x13. -/
def dictErr (abort status : Nat) : OpRes := { abort := abort, detail := 0x100 + status, block := 0x13 }

/-- The response that ends every operation of a request with one result. -/
def rspAll (req : List Byte) (r : OpRes) : List Byte := rspBytes req {} (List.replicate (leAt req 1 1) r)

/-- Bytes cut into segments of at most `n`, numbered from 0, the last marked LAST (R187). -/
def segments (trans n : Nat) (b : List Byte) : List (List Byte) :=
  let k := Nat.max 1 (ceilDiv b.length n)
  (List.range k).map (fun i => leBytes trans 2 ++ leBytes (i % 128 + (if i + 1 = k then 128 else 0)) 1 ++ slice b (n * i) n)

/-- CRC-8 of R659. -/
def crc8 (l : List Byte) : Nat :=
  l.foldl (fun c b => (List.range 8).foldl (fun c _ => (if 128 ≤ c then (c * 2) ^^^ 0x107 else c * 2) % 256) (c ^^^ b.toNat)) 0

/-- A response delivered on the route its request came by: to firmware as the answer, to the mailbox (its completion is MB_DONE; after
a Function Level Reset it is discarded, R417), to the I2C response region (R658, R660), or in GW_RSP segments (R634). -/
def State.answer (s : State) (r : DictReq) (rsp : List Byte) : State :=
  if r.src = 0 then s.respond (.bytes rsp)
  else if r.src = 1 then
    s.updEp r.st (fun e => if e.mbDiscard then { e with mbDiscard := false } else { e with mbRsp := some rsp })
  else if r.src = 3 then
    let body := leBytes (s.i2cS r.st).tag 1 ++ leBytes rsp.length 1 ++ rsp
    (s.updI2c r.st (fun v => { v with rsp := body ++ leBytes (crc8 body) 1 })).wrFld (i2c r.st + I2C.I2C_STAT) 1 0 2
  else if r.src = 4 then (s.updPort r.port (fun v => { v with gwq := v.gwq ++ segments r.trans 113 rsp })).bchStart r.port
  else s

/-- LEAD_LOST (R633): every request that the lost lead had taken and not answered ends. -/
def State.leadLost (s : State) : State :=
  let all := s.dictQ ++ s.gws.map (fun g => g.req)
  forEach all { s with dictQ := [], gws := [] } (fun s r => s.answer r (rspAll r.bytes (dictErr 0x08000022 3)))

end Sys2Proof.Machine
end

