-- ==== Sys2Proof/Machine/LinkPhy.lean ====
section
/-! DEFINITION. The commands of the Jezon Link's physical layer (R97-R141): commits, retraining, training, idle, eye scan,
and the up role of a cascade port. -/
namespace Sys2Proof.Machine
set_option Elab.async false

/-! ## Commit and CMD (R121, R124, R139) -/

/-- The shadowed registers of an LP block (R138, R191). -/
def lpShadowed (p : Nat) : List Nat :=
  [LP.CTL, LP.TX_CFG, LP.RETRY, LP.EQ_CTL, LP.CDR_CTL, LP.SLOT_MAP, LP.LOCK_CFG].map (fun o => lp p + o)

/-- Whether a commit of a port is refused: a refused code of CTL, two enabled slots of one virtual channel on a camera port, or a LOCK_CFG
limit of 0 (R139, R154, R186, R191). -/
def State.lpRefused (s : State) (p : Nat) : Bool :=
  let k := lp p
  let slot := fun n => (s.bit (k + LP.SLOT_MAP) (8 * n + 7), s.fld (k + LP.SLOT_MAP) (8 * n + 3) (8 * n))
  s.fld (k + LP.CTL) 1 0 == 0 || s.fld (k + LP.CTL) 3 2 == 3 || s.fld (k + LP.CTL) 7 6 == 3 ||
  s.fld (k + LP.LOCK_CFG) 3 0 == 0 || s.fld (k + LP.LOCK_CFG) 15 8 == 0 ||
  s.fld (k + LP.CTL) 3 2 == 0 && (List.range 4).any (fun i => (List.range i).any (fun j => (slot i).1 && (slot j).1 && (slot i).2 == (slot j).2))

/-- What a commit of CTL does before the new values hold: a change of EN or ROLE sends the port to IDLE (R139), and a change of RATE ends the
state in progress (R121), so that RUN is left under the old ROLE and SLOT_MAP (R157). -/
def State.lpLeave (s : State) (p : Nat) (old new : Word) : State :=
  if wbits old 4 2 ≠ wbits new 4 2 then s.goIdle p
  else if wbits old 1 0 ≠ wbits new 1 0 ∧ s.lpRun p = true ∧ s.lpRole p ≠ 2 then s.moveState p 2
  else s

/-- What a committed CTL changes then (R104, R121, R127, R139): from IDLE a port with EN enters DETECT, RATE trains anew, PWR_EN and
IDLE_ALLOW act at once. -/
def State.lpApply (s : State) (p : Nat) (old : Word) : State :=
  let new := s.act (lp p + LP.CTL)
  let s1 := s.updPort p (fun v => { v with fallback := none, classFails := 0 })
  if wbits old 4 2 ≠ wbits new 4 2 then
    let s2 := s1.setRate p
    if wbits new 4 4 = 1 ∧ (s.port p).offUntil = none then s2.goDetect p else s2
  else
    let st := s.lpState p
    let s2 :=
      if wbits old 1 0 ≠ wbits new 1 0 then
        if st = 0 ∨ s.lpRole p = 2 then s1.setRate p else s1.changeRate p
      else s1
    let s3 := if wbits old 5 5 ≠ wbits new 5 5 ∧ 1 ≤ st ∧ st ≤ 9 then s2.setPwr p (wbits new 5 5 == 1) else s2
    if wbits old 8 8 ≠ wbits new 8 8 ∧ s3.lpRun p = true then s3.updPort p (fun v => { v with setsOwed := 16 }) else s3

/-- The CTLE setting in use (R97, R139): CTLE_VAL while CTLE_OVR is set, else the one that training chose. -/
def State.useCtle (s : State) (p : Nat) : State :=
  s.wrFld (lp p + LP.EQ_STAT) 3 0
    (if s.abit (lp p + LP.EQ_CTL) 1 then s.afld (lp p + LP.EQ_CTL) 7 4 else (s.port p).ctle)

/-- LP_COMMIT (R139): the shadowed registers take effect, or none does and PORT_CFG_REFUSED enters the error log (its status
number is not stated, so it is free, log entry 14). -/
def execLpCommit (port req v : Nat) (s : State) : Res :=
  .next (s.onKey (lp port + LP.COMMIT) req (fun s =>
    if v.testBit 0 = false then s
    else if s.lpRefused port then
      (s.logRefused (port / 32) (s.freeNat 0 % 256) 0x01 req (port % 32)).skipFree 1
    else
      let old := s.act (lp port + LP.CTL)
      let s1 := (((s.undirty 1 port).lpLeave port old (s.rd (lp port + LP.CTL))).commitRegs (lpShadowed port)).lpApply port old
      (s1.useCtle port).bchStart port))

/-- LP_RETRAIN (R119, R124): CMD.RETRAIN alone sends a port in RUN to RETRAIN. -/
def execLpRetrain (port req v : Nat) (s : State) : Res :=
  .next (s.onKey (lp port + LP.CMD) req (fun s => if v % 16 = 1 ∧ s.lpRun port = true then s.goRetrain port else s))

/-- LP_FULL_RETRAIN (R119): CMD.FULL with RETRAIN sends a port in RUN to WAKE. -/
def execLpFullRetrain (port req v : Nat) (s : State) : Res :=
  .next (s.onKey (lp port + LP.CMD) req (fun s => if v % 16 = 3 ∧ s.lpRun port = true then s.goWake port else s))

/-- LP_FAULT_CLEAR (R124, R122): FAULT ends at once, and the configured class is tried again. -/
def execLpFaultClear (port req v : Nat) (s : State) : Res :=
  .next (s.onKey (lp port + LP.CMD) req (fun s =>
    if v.testBit 2 = true ∧ v.testBit 3 = false ∧ s.lpState port = 10 then
      ((s.updPort port (fun v => { v with fallback := none })).setRate port).endFault port
    else s))

/-- LP_PORT_RESET (R124, R188): from any state; the TX queue empties; with PWR_EN cable power is off for 200 ms. The
port is in IDLE from the command on, also while the power is off (DESIGN CHOICE, log entry 104). -/
def execLpPortReset (port req v : Nat) (s : State) : Res :=
  .next (s.onKey (lp port + LP.CMD) req (fun s =>
    if v.testBit 3 = false then s
    else
      let off := s.abit (lp port + LP.CTL) 5
      let s1 := s |>.goIdle port |>.wrFld (lp port + LP.STATE) 23 16 0 |>.wrFld (lp port + LP.TX_STAT) 3 0 8
        |>.updPort port (fun v => { v with
          txq := []
          fallback := none
          attempts := 0
          classFails := 0
          offUntil := if off then some (s.cycle + msec 200) else none })
        |>.setRate port
      if off = false ∧ s.abit (lp port + LP.CTL) 4 then s1.goDetect port else s1))

/-- PORT_RESET_OFF_DONE (R124): the 200 ms end; the port stays in IDLE, or enters DETECT if EN is set. -/
def execPortResetOffDone (port : Nat) (s : State) : Res :=
  .next (match (s.port port).offUntil with
    | some t =>
      if s.portOk port ∧ t ≤ s.cycle then
        let s1 := s.updPort port (fun v => { v with offUntil := none })
        if s.abit (lp port + LP.CTL) 4 then s1.goDetect port else s1
      else s
    | none => s)

/-! ## Training (R97-R117) -/

/-- SIG_DET (R104, R135): the amplitude at the balls has been `mv` mV for `held` ns. At 50 mV for 1 µs SIG_DET sets, and once it has been
set for 1 µs more a port in DETECT enters WAKE; at 30 mV for 100 ns it clears. In forward idle the exit is IDLE_EXIT's. -/
def execSigDet (port mv held : Nat) (ad : Adapt) (s : State) : Res :=
  let k := lp port + LP.STATUS
  .next (if s.portOk port = false ∨ s.lpRole port = 2 ∨ s.lpState port = 0 ∨ s.bit k 3 = true then s
    else if 50 ≤ mv ∧ usec 1 ≤ held then
      let s1 := (s.adapt port ad).setBit k 0
      if s.lpState port = 1 ∧ usec 2 ≤ held then s1.goWake port else s1
    else if mv ≤ 30 ∧ 100 ≤ held ∧ s.bit k 0 = true then
      (s.clrBit k 0).updPort port (fun v => { v with sigLostAt := s.cycle })
    else s)

/-- COARSE_LOCK (R104, R102): the CDR locks in WAKE. -/
def execCoarseLock (port : Nat) (ad : Adapt) (s : State) : Res :=
  .next (if s.portOk port = true ∧ s.lpRole port ≠ 2 ∧ s.lpState port = 2 ∧ (s.port port).rateSets = none then
    ((s.adapt port ad).setBit (lp port + LP.STATUS) 1).setPState port 3
  else s)

/-- A tap request (R114) with a new SEQ; which taps it moves is the port's own choice. The sets carry it from the next one on. -/
def State.tapRequest (s : State) (p req : Nat) : State :=
  s.updPort p (fun v => { v with
    tapSeq := (v.tapSeq + 1) % 256
    tapReq := req
    tapAt := s.cycle })

/-- A free tap request: each of the three fields 0 to 2, no preset (R108). -/
def State.freeReq (s : State) : Nat := s.freeNat 0 % 3 + s.freeNat 1 % 3 * 4 + s.freeNat 2 % 3 * 16

/-- Whether the checker has seen 2^`n` PRBS13 symbols, and fewer than 4 errors over the last 2^`n` (R105, R115). -/
def PortS.prbsClean (v : PortS) (n : Nat) : Bool :=
  decide (2 ^ n ≤ v.prbsN) && decide ((v.prbsErr.filter (fun i => decide (v.prbsN ≤ i + 2 ^ n))).length < 4)

/-- Whether no DFE tap has moved by more than 1 unit over the last 8 frames, which are 65,536 symbols (R105). -/
def PortS.tapsStill (v : PortS) : Bool :=
  v.tapHist.length == 9 && (List.range 8).all (fun i =>
    v.tapHist.all (fun a => v.tapHist.all (fun b => decide ((a.getD i 0 - b.getD i 0).natAbs ≤ 1))))

/-- The end of the tap search: the precoding choice of R115 and R116, and the entry to PRECODE. -/
def State.endSearch (s : State) (p st : Nat) : State :=
  let v := s.port p
  let mode := nbits v.trainCtl 7 6
  let tap1 := (signed 8 (s.fld (lp p + LP.EQ_STAT) 15 8)).natAbs
  let want := mode == 2 || (mode == 0 && decide (s.afld (lp p + LP.EQ_CTL) 15 8 < tap1))
  let cap := st.testBit 34
  if mode = 2 ∧ cap = false then s.trainFailed p 8 true
  else
    let s1 := if want && !cap then s.lpEvent p 6 else s
    (s1.updPort p (fun v => { v with precodeReq := want && cap })).setPState p 6

/-- What a valid training frame does in TRAIN_CDR or in RETRAIN: four in a row, and the head's MAX_RATE (R104, R122). -/
def State.frameCdr (s : State) (p st : Nat) : State :=
  let n := (s.port p).frames + 1
  let s1 := s.updPort p (fun v => { v with frames := n })
  if n < 4 then s1
  else
    let s2 := s1.clrBit (lp p + LP.STATUS) 7
    if s.lpState p = 9 then s2.updPort p (fun v => { v with retrainStep := 1, frames := 0, tapHist := [], prbsN := 0, prbsErr := [] })
    else if nbits st 33 32 < s.lpRate p then
      if (s.port p).trainCtl.testBit 9 ∧ 1 ≤ nbits st 33 32 then
        ((s2.updPort p (fun v => { v with fallback := some (nbits st 33 32), classFails := 0 })).lpEvent p 7).goWake p
      else s2.trainFailed p 7 true
    else s2.setPState p 4

/-- A training frame goes through the PRBS13 checker (R96, R105, R107, R115): its segment is decoded in PRECODE where the head's precoder is
on, and in RETRAIN where precoding is active. In PRECODE only frames with the precoder as requested count, and the first symbol after it
is switched on decodes to a free value. In TRAIN_EQ the taps at the frame's end are kept. -/
def State.checkFrame (s : State) (p : Nat) (lvls : List Nat) (pc : Bool) : State :=
  let v := s.port p
  let st := s.lpState p
  let on := (st == 6 && pc) || (st == 9 && s.bit (lp p + LP.STATE) 10)
  let eq := st == 4 || (st == 9 && v.retrainStep == 1)
  let first := st == 6 && pc && !v.headPc
  let anew := st == 6 && pc != v.precodeReq
  let errs := prbsErrors on (lvls.drop 128) (lvls.getD 127 0) 0x1FFF v.prbsN
  let errs1 := if first then (if Config.freeBool s.free then [v.prbsN] else []) ++ errs.filter (fun i => i != v.prbsN) else errs
  let n := v.prbsN + (lvls.length - 128)
  (s.setPort p { v with
    headPc := pc
    lastIdx := lvls.getLast?.getD v.lastIdx
    tapHist := if eq then (s.dfeTaps p :: v.tapHist).take 9 else v.tapHist
    prbsN := if anew then 0 else n
    prbsErr := if anew then [] else (errs1.reverse ++ v.prbsErr).filter (fun i => decide (n ≤ i + 2 ^ 20)) }).skipFree (b2n first)

/-- TRAINING_FRAME_RX (R106-R116): 8,192 decided level indices. A frame whose marker and status field are valid updates HEAD_STAT and
BCH_LOCK, and moves the training on: TRAIN_CDR counts four in a row, TRAIN_TX takes the echo of its request, PRECODE ends when the
checker counts fewer than 4 errors over 2^16 symbols with PRECODE_ON as requested. -/
def execTrainingFrameRx (port : Nat) (lvls : List Nat) (ad : Adapt) (s : State) : Res :=
  let st := s.lpState port
  let v := s.port port
  .next (if s.portOk port = false ∨ s.lpRole port = 2 ∨ st < 3 ∨ 9 < st ∨ st = 7 ∨ st = 8 then s
    else match frameStatus lvls with
      | none => ((s.adapt port ad).checkFrame port lvls v.headPc).updPort port (fun v => { v with frames := 0 })
      | some status =>
        let s1 := (s.adapt port ad).checkFrame port lvls (status.testBit 31)
          |>.wrN (lp port + LP.HEAD_STAT0) status |>.wrN (lp port + LP.HEAD_STAT1) (nbits status 47 32)
          |>.setBit (lp port + LP.STATUS) 4
        if st = 3 ∨ (st = 9 ∧ v.retrainStep = 0) then s1.frameCdr port status
        else if st = 5 ∧ nbits status 17 10 = v.tapSeq then
          if 256 ≤ v.tapCount ∨ Config.freeBool s1.free = true then (s1.skipFree 1).endSearch port status
          else
            let s2 := (s1.updPort port (fun v => { v with tapCount := v.tapCount + 1 })).skipFree 1
            (s2.tapRequest port s2.freeReq).skipFree 3
        else if st = 6 ∧ status.testBit 31 = v.precodeReq ∧ (s1.port port).prbsClean 16 = true then
          ((s1.putBit (lp port + LP.STATE) 10 v.precodeReq).updPort port (fun v => { v with markSym := none })).setPState port 7
        else s1)

/-- EQ_CONVERGED (R97, R98, R105): with no tap still moving and the checker clean over 2^20 symbols, the port holds the CTLE setting
it has chosen and requests INIT_PRESET in TRAIN_TX. In RETRAIN the setting is kept and ALIGN follows (R119). -/
def execEqConverged (port ctle : Nat) (s : State) : Res :=
  let v := s.port port
  .next (if s.portOk port = false ∨ s.lpRole port = 2 ∨ v.tapsStill = false ∨ v.prbsClean 20 = false then s
    else if s.lpState port = 4 then
      ((s.setBit (lp port + LP.STATUS) 2).updPort port (fun v => { v with ctle := ctle % 16, tapCount := 0 })).useCtle port
        |>.tapRequest port (v.trainPreset * 64) |>.setPState port 5
    else if s.lpState port = 9 ∧ v.retrainStep = 1 then
      (s.setBit (lp port + LP.STATUS) 2).updPort port (fun v => { v with retrainStep := 2, markSym := none })
    else s)

/-- TAP_TIMEOUT (R114): 200 µs without the echo of a request. -/
def execTapTimeout (port : Nat) (s : State) : Res :=
  .next (if s.portOk port = true ∧ s.lpRole port ≠ 2 ∧ s.lpState port = 5 ∧ (s.port port).tapAt + usec 200 ≤ s.cycle then
    s |>.inc (lp port + LP.TAP_TIMEOUT) |>.lpEvent port 8 |>.trainFailed port 4 true
  else s)

/-- The timeout of a state at L3 in µs (R104); 0 where there is none. -/
def stateTimeout (st : Nat) : Nat :=
  match st with
  | 2 => 100 | 3 => 1000 | 4 => 5000 | 5 => 20000 | 6 => 1000 | 7 => 1000 | 9 => 10000 | _ => 0

/-- The cause of a timeout in a state (R140). -/
def timeoutCause (st : Nat) : Nat := if st = 9 then 10 else st - 1

/-- TRAIN_TIMEOUT (R104, R117): the state's timeout at the active class has passed. An attempt that ends without a signal does not count
towards FAULT (R118). -/
def execTrainTimeout (port : Nat) (s : State) : Res :=
  let st := s.lpState port
  .next (if s.portOk port = true ∧ s.lpRole port ≠ 2 ∧ stateTimeout st ≠ 0 ∧ (s.port port).rateSets = none ∧
      (s.port port).entered + usec (stateTimeout st) * clsMul (s.lpRate port) ≤ s.cycle then
    s.trainFailed port (timeoutCause st) (s.bit (lp port + LP.STATUS) 0) else s)

/-- HEAD_LOST (R118): SIG_DET stayed clear for 1 ms, in forward idle for 2 ms from the idle-entry block. -/
def execHeadLost (port : Nat) (s : State) : Res :=
  let st := s.lpState port
  let k := lp port + LP.STATUS
  .next (if s.portOk port = true ∧ s.lpRole port ≠ 2 ∧ 2 ≤ st ∧ st ≤ 9 ∧ s.bit k 0 = false ∧
      (if s.bit k 3 then (s.port port).idleAt + msec 2 else (s.port port).sigLostAt + msec 1) ≤ s.cycle then
    (s.goDetect port).lpEvent port 11 else s)

/-- FREQ_ERR (R100): the forward frequency has been `ppm` from the port's own for `held` ns. Above 100 ppm for 1 ms FREQ_ERR is set and a port
in RUN goes to RETRAIN; within 100 ppm the condition ends. -/
def execFreqErr (port : Nat) (ppm : Int) (held : Nat) (s : State) : Res :=
  .next (if s.portOk port = false ∨ s.lpRole port = 2 ∨ s.lpState port < 2 ∨ 9 < s.lpState port then s
    else if ppm.natAbs ≤ 100 then s.clrBit (lp port + LP.STATUS) 7
    else if held < msec 1 then s
    else
      let s1 := s |>.setBit (lp port + LP.STATUS) 7 |>.lpEvent port 10
      if s.lpRun port then s1.goRetrain port else s1)

/-- FAULT_HOLD_EXPIRE (R124). -/
def execFaultHoldExpire (port : Nat) (s : State) : Res :=
  .next (if s.portOk port = true ∧ s.lpRole port ≠ 2 ∧ s.lpState port = 10 ∧
      (s.port port).entered + msec (s.afld (lp port + LP.RETRY) 23 8) ≤ s.cycle then s.endFault port else s)

/-! ## Forward electrical idle (R126-R129) -/

/-- IDLE_EXIT (R129): the wake burst sets SIG_DET and the port re-locks from held settings. What the decision before the first block was is
free: the symbols between are not the block stream's (R96). -/
def execIdleExit (port : Nat) (s : State) : Res :=
  .next (if s.portOk port = true ∧ s.lpRun port = true ∧ s.bit (lp port + LP.STATUS) 3 = true then
    ((s.setBit (lp port + LP.STATUS) 0).skipFree 1).updPort port (fun v => { v with
      relock := true
      relockAt := s.cycle
      lastIdx := s.freeNat 0 % 4 }) else s)

/-- RELOCK_FAIL (R129): 14,000 symbols (1 µs at L3) from SIG_DET without block lock. -/
def execRelockFail (port : Nat) (s : State) : Res :=
  .next (if s.portOk port ∧ s.lpRun port ∧ (s.port port).relock ∧
      (s.port port).relockAt + usec 1 * clsMul (s.lpRate port) ≤ s.cycle then
    s |>.inc (lp port + LP.RELOCK_FAIL) |>.lpEvent port 4 |>.goRetrain port else s)

/-! ## Eye scan (R131-R134) -/

/-- Whether START is refused (R133): not in RUN, a grid point out of range, or more than 4,096 points. -/
def State.esRefused (s : State) (p : Nat) : Bool :=
  !s.lpRun p || (s.esPh p).any (fun x => decide (x < -32 ∨ 31 < x)) || (s.esV p).any (fun x => decide (x < -127 ∨ 127 < x)) ||
  decide (4096 < s.esPoints p)

/-- ES_START (R132, R133); a START during a scan does nothing. A refused START ends its scan before the first point, so EVENTS.ES_END sets, as
for any status; a grid without points is done at once (log entry 96). -/
def execEsStart (port req v : Nat) (s : State) : Res :=
  .next (s.onKey (lp port + LP.ES_CMD) req (fun s =>
    if v.testBit 0 = false ∨ s.bit (lp port + LP.STATUS) 6 = true then s
    else if s.esRefused port then (s.wrFld (lp port + LP.ES_STATUS) 2 0 5).lpEvent port 5
    else
      let s1 := ((s.esClear port).wrN (lp port + LP.ES_STATUS) 1).setBit (lp port + LP.STATUS) 6
      if s.esPoints port = 0 then s1.esEnd port 2 else s1))

/-- ES_STOP (R133). -/
def execEsStop (port req v : Nat) (s : State) : Res :=
  .next (s.onKey (lp port + LP.ES_CMD) req (fun s =>
    if v.testBit 1 ∧ s.bit (lp port + LP.STATUS) 6 then s.esEnd port 3 else s))

/-- ES_POINT_DONE (R132, R141): a point's mismatches, of the 2^DWELL symbols compared, are written; the last one ends the scan with DONE. -/
def execEsPointDone (port errors : Nat) (s : State) : Res :=
  let i := s.fld (lp port + LP.ES_STATUS) 28 16
  .next (if s.portOk port ∧ s.bit (lp port + LP.STATUS) 6 then
    let n := Nat.min (2 ^ s.fld (lp port + LP.ES_CTL) 12 8) errors
    let s1 := (s.updPort port (fun v => { v with esErrs := v.esErrs ++ [n] }))
      |>.wrN (lp port + LP.ES_RESULT + 4 * i) (0x80000000 + Nat.min 0xFFFFFF n)
      |>.wrFld (lp port + LP.ES_STATUS) 28 16 (i + 1)
    if s.esPoints port ≤ i + 1 then s1.esEnd port 2 else s1
  else s)

/-! ## Up role (R109-R113, R137) -/

/-- One tap field of a request on taps (pre, main, post): the new taps and the result code (R111, R112). -/
def tapStep (i code : Nat) (t : Nat × Nat × Nat) : (Nat × Nat × Nat) × Nat :=
  let upd := fun (x : Nat) => if i = 0 then (x, t.2.1, t.2.2) else if i = 1 then (t.1, x, t.2.2) else (t.1, t.2.1, x)
  let cur := if i = 0 then t.1 else if i = 1 then t.2.1 else t.2.2
  if code = 0 then (t, 0)
  else
    let n := if code = 1 then upd (cur + 1) else upd (cur - 1)
    let ok := decide (n.1 + n.2.1 + n.2.2 ≤ 32) && decide (n.1 ≤ 4) && decide (n.2.2 ≤ 10) && decide (20 ≤ n.2.1) &&
      (code == 1 || decide (0 < cur))
    if ok then (n, 1) else (t, 2)

/-- The taps of a preset (R112). -/
def presetTaps (n : Nat) : Nat × Nat × Nat := if n = 1 then (0, 32, 0) else if n = 2 then (0, 26, 6) else (2, 22, 8)

/-- Bits 47:0 of the status field that an up-role port sends (R110, R137), with its CRC. -/
def statusField (hs pre_ st_ post_ echo pre main post : Nat) (pcOn : Bool) : Nat :=
  let b := hs + pre_ * 2 ^ 4 + st_ * 2 ^ 6 + post_ * 2 ^ 8 + echo * 2 ^ 10 + pre * 2 ^ 18 + main * 2 ^ 21 + post * 2 ^ 27 +
    b2n pcOn * 2 ^ 31 + 3 * 2 ^ 32 + 2 ^ 34 + 2 ^ 36
  b + bchCrc (leBytes b 6) * 2 ^ 48

/-- A tap request taken in TRAIN_TX where its SEQ is new (R111-R113). The fields of one set are taken in the order pre, main, post, and a
PRESET reports UPDATED for all three taps (log entry 94). -/
def State.upTaps (s : State) (p st req seq : Nat) : State :=
  let v := s.port p
  if st ≠ 5 ∨ v.headSeq = some seq then s
  else
    let r0 := tapStep 0 (nbits req 1 0) (v.headPre, v.headMain, v.headPost)
    let r1 := tapStep 1 (nbits req 3 2) r0.1
    let r2 := tapStep 2 (nbits req 5 4) r1.1
    let preset := nbits req 7 6
    let taps := if preset ≠ 0 then presetTaps preset else r2.1
    s.setPort p { v with
      headPre := taps.1
      headMain := taps.2.1
      headPost := taps.2.2
      headSeq := some seq
      headRes := if preset ≠ 0 then 0x15 else r0.2 + r1.2 * 4 + r2.2 * 16 }

/-- What an up-role port sends forward for the state it follows (R104, R106, R137): a period of the wake pattern, or a training frame with its
status field, precoded in PRECODE and RETRAIN where its precoder is on (R107). Its blocks are BCH_MSG_SEND's. -/
def State.upSend (s : State) (p : Nat) : State :=
  let v := s.port p
  let st := s.lpState p
  let pc := s.bit (lp p + LP.STATE) 10
  if st = 1 ∨ st = 2 then s.fwdSend p (wakePattern 4)
  else if (3 ≤ st ∧ st ≤ 6) ∨ st = 9 then
    s.fwdSend p (trainFrame (pc && (st == 6 || st == 9))
      (statusField st (v.headRes % 4) (v.headRes / 4 % 4) (v.headRes / 16) (v.headSeq.getD 0) v.headPre v.headMain v.headPost pc))
  else s

/-- TRAINING_SET_RX (R137): a port in the up role follows the state and rate class that a valid training set names, applies tap requests in
TRAIN_TX by R111-R113 and precoding in PRECODE by R115, and sends what the state calls for. A state code of 11 to 15 and the class 0b00
have no meaning in the spec; they are followed as they stand (log entry 94). -/
def execTrainingSetRx (port : Nat) (groups : List Nat) (s : State) : Res :=
  .next (if s.portOk port = false ∨ s.lpRole port ≠ 2 ∨ s.abit (lp port + LP.CTL) 4 = false then s
    else match setOf groups with
      | none => s
      | some (st, mode, req, seq) =>
        let s1 := ((s.setBit (lp port + LP.STATUS) 4).wrFld (lp port + LP.STATE) 9 8 (mode % 4)).follow port st
        let s2 := (if st = 6 then s1.putBit (lp port + LP.STATE) 10 (mode.testBit 2) else s1).upTaps port st req seq
        (s2.updPort port (fun v => { v with headState := st })).upSend port)

end Sys2Proof.Machine
end

