-- ==== Sys2Proof/Machine/Axis.lean ====
section
/-! DEFINITION. Axis inputs (R501-R520): decoding, count and reported position, index and reference, the observer, faults,
the compare window and the AXIS records. -/
namespace Sys2Proof.Machine
set_option Elab.async false

def State.axS (s : State) (a : Nat) : AxisS := Tbl.get (fun _ => {}) s.axes a
def State.setAx (s : State) (a : Nat) (v : AxisS) : State := { s with axes := Tbl.set (fun _ => {}) s.axes a v }
def State.updAx (s : State) (a : Nat) (f : AxisS → AxisS) : State := s.setAx a (f (s.axS a))

/-- Whether an axis exists on the part. -/
def State.axOk (s : State) (a : Nat) : Bool := decide (a < 16) && s.present (a / 4)

/-- The raw count C. -/
def State.axC (s : State) (a : Nat) : Word := s.rd (ax a + AX.COUNT)

/-- POS (R509). -/
def State.axPos (s : State) (a : Nat) : Word := (s.axS a).p + s.rd (ax a + AX.POS_OFS)

/-- Committed AX_CTL.MODE: 0 OFF, 1 QUAD, 2 HALL, 3 SSI. -/
def State.axMode (s : State) (a : Nat) : Nat := s.afld (ax a + AX.AX_CTL) 1 0

/-- Whether POS lies inside the committed window, by signed comparison (R517). -/
def State.axInside (s : State) (a : Nat) : Bool :=
  decide ((s.act (ax a + AX.WIN_LOWER)).toInt ≤ (s.axPos a).toInt) &&
  decide ((s.axPos a).toInt < (s.act (ax a + AX.WIN_UPPER)).toInt)

/-- A bit of AX_EVENTS set. -/
def State.axEvent (s : State) (a i : Nat) : State := s.setBit (ax a + AX.AX_EVENTS) i

/-- A record trigger with its CAUSE bit, where REC_CFG enables it (R518): triggers of one sample merge, up to four wait, and a
further one is lost. -/
def State.axTrig (s : State) (a cause t : Nat) : State :=
  let cfg := ax a + AX.REC_CFG
  let on := if cause = 0 then s.afld cfg 15 0 ≠ 0
    else if cause = 1 then s.abit cfg 16
    else if cause = 2 ∨ cause = 3 then s.abit cfg 17
    else if cause = 4 then s.abit cfg 18
    else if cause = 5 then s.abit cfg 19
    else s.abit cfg 20
  let v := s.axS a
  if on = false then s
  else if v.trigs.any (fun e => e.1 == t) then
    s.setAx a { v with trigs := v.trigs.map (fun e => if e.1 = t then (t, e.2 ||| 2 ^ cause) else e) }
  else if v.trigs.length < 4 then s.setAx a { v with trigs := v.trigs ++ [(t, 2 ^ cause)] }
  else ((s.setAx a { v with lost := Nat.min 0xFFFF (v.lost + 1) }).inc (ax a + AX.AX_REC_LOST)).axEvent a 8

/-- A pulse of producer EP(600 + 4a + j) of the axis' die (R517). -/
def State.axPulse (s : State) (a j t : Nat) : State := s.pulseAt (a / 4) (600 + 4 * (a % 4) + j) t

/-- AX_STAT.INSIDE and DIR follow the position; the sample's values join the history that records report from (R518). -/
def State.axSample (s : State) (a t : Nat) : State :=
  let k := ax a
  let v := s.axS a
  let s1 := ((s.putBit (k + AX.AX_STAT) 3 (s.axInside a)).putBit (k + AX.AX_STAT) 4 v.neg)
  let st := s1.fld (k + AX.AX_STAT) 4 0
  let raw := if s.axMode a = 2 then wordOf (s.fld (k + AX.AX_STAT) 10 8) else s.rd (k + AX.SSI_RAW)
  let n : AxSnap := {
    t := t
    state := st % 2 + 2 * (st / 2 % 2) + 4 * (st / 8 % 2) + 8 * (st / 16 % 2)
    mode := s.axMode a
    count := s.axC a
    pos := s.axPos a
    speed := v.speed
    accel := v.accel
    edge := v.edge
    idxCapt := s.rd (k + AX.IDX_CAPT)
    idxDiff := s.rd (k + AX.IDX_DIFF)
    illegal := v.ill
    raw := raw }
  s1.setAx a { v with hist := n :: v.hist }

/-- POS moved from `before` (inside) to its value now: while POS_VALID is set, WIN_IN or WIN_OUT pulses with the stamp of the
transition (R516, R517); a reference never pulses WIN_OUT. -/
def State.axWindow (s : State) (a t : Nat) (before reference : Bool) : State :=
  if s.bit (ax a + AX.AX_STAT) 0 = false then s
  else if before = false ∧ s.axInside a = true then (((s.axPulse a 1 t).axEvent a 5).axTrig a 2 t)
  else if before = true ∧ s.axInside a = false ∧ reference = false then (((s.axPulse a 2 t).axEvent a 6).axTrig a 3 t)
  else s

/-- Hysteresis of R509 for a new C: the new P and whether dir is −1. -/
def axHyst (p c : Word) (neg : Bool) : Word × Bool :=
  let d := (c - p).toInt
  if neg = false then (if 0 < d then (c, false) else if d ≤ -2 then (c + 1, true) else (p, false))
  else (if d < -1 then (c + 1, true) else if 1 ≤ d then (c, false) else (p, true))

/-- C changes by `d` at a transition stamped `t` (R503, R509, R517). -/
def State.axMove (s : State) (a t : Nat) (d : Int) : State :=
  if d = 0 then s
  else
    let before := s.axInside a
    let c := s.axC a + wordOfInt d
    let h := axHyst (s.axS a).p c (s.axS a).neg
    ((s.wr (ax a + AX.COUNT) c).updAx a (fun v => { v with
      p := h.1
      neg := h.2
      edge := t })).axWindow a t before false

/-- C set to a value, with P = C and dir = +1 (R509). -/
def State.axSetC (s : State) (a t : Nat) (c : Word) : State :=
  let changed := decide (s.axC a ≠ c)
  (s.wr (ax a + AX.COUNT) c).updAx a (fun v => { v with
    p := c
    neg := false
    edge := if changed then t else v.edge })

/-- AXIS_FAULT is entered (R515); the next SSI frame sets the count (R507). -/
def State.axFault (s : State) (a t : Nat) : State :=
  if s.bit (ax a + AX.AX_STAT) 1 then s
  else
    let s1 := (s.clrBit (ax a + AX.AX_STAT) 0).setBit (ax a + AX.AX_STAT) 1
    let s2 := s1.updAx a (fun v => { v with
      faultAt := some t
      ssiFirst := true })
    ((s2.axPulse a 3 (s.stamp (a / 4))).axEvent a 3).axTrig a 4 t

/-- An illegal transition (R505, R515): counted, the observer coasts, and ILL_N of them within a window are a fault. -/
def State.axIllegal (s : State) (a t : Nat) : State :=
  let k := ax a
  let v := s.axS a
  let open_ := match v.illOpen with
    | some o => decide (s.cycle < o + usec (s.afld (k + AX.FAULT_CFG) 31 16))
    | none => false
  let n := if open_ then v.illN + 1 else 1
  let s1 := ((s.setAx a { v with
    coast := true
    ill := (v.ill + 1) % 2 ^ 32
    illOpen := if open_ then v.illOpen else some s.cycle
    illN := n }).inc (k + AX.AX_ILLEGAL)).axEvent a 2
  if s.afld (k + AX.FAULT_CFG) 7 0 ≤ n then s1.axFault a t else s1

/-- A reference (R512): POS_VALID is set, AXIS_FAULT left, P = C and dir = +1 (R509), and POS_OFS = REF_VAL − P unless it is
the SSI frame's, which keeps POS_OFS. -/
def State.axReference (s : State) (a t : Nat) (keepOfs : Bool) : State :=
  let k := ax a
  let before := s.axInside a && s.bit (k + AX.AX_STAT) 0
  let s1 := (s.updAx a (fun v => { v with
    p := s.axC a
    neg := false })).wr (k + AX.AX_STAT) ((s.rd (k + AX.AX_STAT) ||| 1) &&& ~~~ 2#32)
  let s2 := if keepOfs then s1 else s1.wr (k + AX.POS_OFS) (s.act (k + AX.REF_VAL) - s.axC a)
  ((s2.axEvent a 4).axTrig a 5 t).axWindow a t before true

/-! ## Decoding (R503-R507) -/

/-- Place of a QUAD state (A in bit 0, B in bit 1) in the order 00, 10, 11, 01. -/
def quadPhase (l : Nat) : Nat := if l % 4 = 0 then 0 else if l % 4 = 1 then 1 else if l % 4 = 3 then 2 else 3

/-- Place of a HALL state (U, V, W in bits 0-2) in the forward order of R504; 000 and 111 have none. -/
def hallPhase (l : Nat) : Option Nat :=
  if l % 8 = 1 then some 0 else if l % 8 = 3 then some 1 else if l % 8 = 2 then some 2
  else if l % 8 = 6 then some 3 else if l % 8 = 4 then some 4 else if l % 8 = 5 then some 5 else none

/-- The count of a change of phase in a ring of `n` (none: illegal). -/
def phaseStep (n was now : Nat) : Option Int :=
  let d := (now + n - was) % n
  if d = 0 then some 0 else if d = 1 then some 1 else if d = n - 1 then some (-1) else none

/-- The count of a filtered transition to `levels` (none: illegal), and the last valid Hall state after it. -/
def State.axDecode (s : State) (a levels : Nat) : Option Int × Option Nat :=
  let was := s.fld (ax a + AX.AX_STAT) 10 8
  if s.axMode a = 1 then (phaseStep 4 (quadPhase was) (quadPhase levels), (s.axS a).valid)
  else match hallPhase levels, (s.axS a).valid with
    | some n, some v => (phaseStep 6 v n, some n)
    | some n, none => (some 0, some n)
    | none, v => (if was = levels % 8 then some 0 else none, v)

/-- Whether a level held for `held` consecutive samples passes the stability filter (R502). -/
def State.axSteady (s : State) (a held : Nat) : Bool := decide (s.afld (ax a + AX.FILT) 7 0 ≤ held)

/-- AXIS_COUNT (R502-R505): the balls have held new levels for `held` samples, the first stamped `stamp`. Once that is FILT_N the filtered
levels change, and in QUAD and HALL mode the change counts or is illegal; DIR_INV reverses the count. -/
def execAxisCount (axis levels stamp held : Nat) (s : State) : Res :=
  .next (if s.axOk axis = false ∨ s.axSteady axis held = false then s
    else
      let k := ax axis
      let s1 := s.wrFld (k + AX.AX_STAT) 10 8 levels
      if s.axMode axis = 1 ∨ s.axMode axis = 2 then
        let r := s.axDecode axis levels
        let s2 := s1.updAx axis (fun v => { v with valid := r.2 })
        match r.1 with
        | none => (s2.axIllegal axis stamp).axSample axis stamp
        | some d => (s2.axMove axis stamp (if s.abit (k + AX.AX_CTL) 2 then -d else d)).axSample axis stamp
      else s1.axSample axis stamp)

/-- d of R511. -/
def State.axIdxDiff (s : State) (a : Nat) : Int :=
  let d := (s.axC a - s.rd (ax a + AX.IDX_BASE)).toInt
  let p : Int := s.actN (ax a + AX.IDX_PERIOD)
  if p = 0 then d else (d + p / 2) % p - p / 2

/-- An index with POS_VALID set and no reference due is checked against the gate and IDX_POLICY (R511). -/
def State.axCheckIndex (s : State) (a t : Nat) : State :=
  let k := ax a
  let d := s.axIdxDiff a
  if (s.afld (k + AX.IDX_GATE) 15 0 : Int) < d.natAbs then (s.inc (k + AX.IDX_OUTSIDE)).axEvent a 0
  else if d = 0 then s
  else
    let s1 := ((s.wrI (k + AX.IDX_DIFF) d).inc (k + AX.IDX_MISMATCH)).axEvent a 1
    let pol := s.afld (k + AX.AX_CTL) 7 6
    if pol = 1 then (s1.wr (k + AX.POS_OFS) (s.rd (k + AX.POS_OFS) - wordOfInt d)).axWindow a t (s.axInside a) false
    else if pol = 2 then s1.axFault a t
    else s1

/-- AXIS_INDEX (R502, R510-R512): Z has held its active level for `held` samples. In QUAD mode, once that is FILT_N, the index is captured
and pulses; it makes a reference while POS_VALID is clear or the home is armed, unless AXIS_FAULT was entered in the same sample, and is
checked otherwise. -/
def execAxisIndex (axis stamp held : Nat) (s : State) : Res :=
  .next (if s.axOk axis = false ∨ s.axMode axis ≠ 1 ∨ s.axSteady axis held = false then s
    else
      let k := ax axis
      let z := s.putBit (k + AX.AX_STAT) 10 (!s.abit (k + AX.AX_CTL) 3)
      let s1 := ((z.wr (k + AX.IDX_CAPT) (s.axC axis)).axPulse axis 0 (s.stamp (axis / 4))).axTrig axis 1 stamp
      let due := s.bit (k + AX.AX_STAT) 0 = false ∨ s.bit (k + AX.AX_STAT) 2 = true
      let s2 := if due ∧ (s.axS axis).faultAt = some stamp then s1
        else if due then
          ((s1.wr (k + AX.IDX_BASE) (s.axC axis)).clrBit (k + AX.AX_STAT) 2).axReference axis stamp false
        else s1.axCheckIndex axis stamp
      s2.axSample axis stamp)

/-- SSI_POLL (R506): in SSI mode a frame starts every SSI_POLL µs, the first at once after the mode commit (DESIGN CHOICE, log entry 111);
its stamp is that of the first falling edge. -/
def execSsiPoll (axis : Nat) (s : State) : Res :=
  let due := match (s.axS axis).ssiPrev with
    | some c => decide (c + usec (s.afld (ax axis + AX.SSI_CFG) 31 16) ≤ s.cycle)
    | none => true
  .next (if s.axOk axis = true ∧ s.finalC = false ∧ s.axMode axis = 3 ∧ (s.axS axis).ssiAt = none ∧ due = true then
    s.updAx axis (fun v => { v with
      ssiAt := some (s.stamp (axis / 4))
      ssiPrev := some s.cycle })
  else s)

/-- Gray code to binary. -/
def grayToBin : Nat → Nat → Nat
  | 0, g => g
  | n + 1, g => g ^^^ grayToBin n (g / 2)

/-- An accepted SSI frame's word moves the count: the first sets it and is a reference, each later one adds the difference
from the last accepted word; a difference beyond IDX_GATE is illegal (R507, R512). -/
def State.axSsiWord (s : State) (a t bin bits : Nat) : State :=
  let v := s.axS a
  let ok : State := s.updAx a (fun v => { v with ssiLast := bin })
  if v.ssiFirst then
    let before := s.axInside a && s.bit (ax a + AX.AX_STAT) 0
    let s1 := ((ok.axSetC a t (wordOf bin)).updAx a (fun v => { v with ssiFirst := false }))
    let s2 := s1.wr (ax a + AX.AX_STAT) ((s1.rd (ax a + AX.AX_STAT) ||| 1) &&& ~~~ 2#32)
    ((s2.axEvent a 4).axTrig a 5 t).axWindow a t before true
  else
    let d := signed bits (bin + 2 ^ bits - v.ssiLast)
    if (s.afld (ax a + AX.IDX_GATE) 15 0 : Int) < d.natAbs then s.axIllegal a t else ok.axMove a t d

/-- SSI_FRAME_DONE (R506, R507): the word as read is kept; a frame whose line was not high at the first falling edge counts in
SSI_ERR and is illegal. -/
def execSsiFrameDone (axis word : Nat) (highOk : Bool) (s : State) : Res :=
  .next (match (s.axS axis).ssiAt with
    | none => s
    | some t =>
      if s.axOk axis = false ∨ s.axMode axis ≠ 3 then s
      else
        let k := ax axis
        let bits := s.afld (k + AX.SSI_CFG) 5 0
        let raw := word % 2 ^ bits
        let bin := if s.abit (k + AX.SSI_CFG) 7 then grayToBin bits raw else raw
        let s1 := (s.updAx axis (fun v => { v with ssiAt := none })).wrN (k + AX.SSI_RAW) raw
        if highOk then (s1.axSsiWord axis t bin bits).axSample axis t
        else (((s1.inc (k + AX.SSI_ERR)).axEvent axis 7).axIllegal axis t).axSample axis t)

/-! ## Observer (R514) -/

/-- A value rounded to its unit, off by at most 1 unit as R514 allows (`f` is free), saturated to 32 bits. -/
def obsReport (v : Int) (f : Nat) : Word :=
  wordOfInt (clampInt (-0x80000000) 0x7FFFFFFF (roundDiv v (2 ^ 96) + ((f % 3 : Nat) : Int) - 1))

/-- One update of R514 for gains g1, g2, g3 and the count C (log entry 37 gives the arithmetic's unit). -/
def AxisS.observe (v : AxisS) (c : Word) (g1 g2 g3 : Nat) : AxisS :=
  let xp := v.x + v.w + v.b / 2
  let vp := v.w + v.b
  let e : Int := if v.coast then 0 else
    let d := (c.toNat * 2 ^ 96 : Int) - xp
    (d + 2 ^ 127) % 2 ^ 128 - 2 ^ 127
  { v with
    x := (xp + e / 2 ^ g1) % 2 ^ 128
    w := vp + e / 2 ^ g2
    b := v.b + e / 2 ^ g3
    coast := false }

/-- OBSERVER_UPDATE (R514): every 1 µs the estimates are updated from C, and SPEED and ACCEL report them. -/
def execObserverUpdate (axis : Nat) (s : State) : Res :=
  .next (if s.axOk axis = false ∨ s.cycle < (s.axS axis).obsAt + usec 1 then s
    else
      let g := ax axis + AX.OBS_GAIN
      let v := (s.axS axis).observe (s.axC axis) (s.afld g 4 0) (s.afld g 12 8) (s.afld g 20 16)
      ((s.setAx axis { v with
        obsAt := v.obsAt + usec 1
        speed := obsReport (v.w * 16000000) (s.freeNat 0)
        accel := obsReport (v.b * 1000000000000) (s.freeNat 1) }).skipFree 2).axSample axis (s.stamp (axis / 4)))

/-- ILL_WIN_EXPIRE (R515): ILL_WIN µs after the first illegal transition the window closes. -/
def execIllWinExpire (axis : Nat) (s : State) : Res :=
  .next (match (s.axS axis).illOpen with
    | some o =>
      if s.axOk axis = true ∧ o + usec (s.afld (ax axis + AX.FAULT_CFG) 31 16) ≤ s.cycle then
        s.updAx axis (fun v => { v with
          illOpen := none
          illN := 0 })
      else s
    | none => s)

/-! ## Commands and commits (R508, R513, R519) -/

/-- CLR_COUNT, and a committed change of MODE (R513): C becomes 0, the observer is reset and POS_VALID clears. -/
def State.axClear (s : State) (a : Nat) : State :=
  ((s.axSetC a (s.stamp (a / 4)) 0).updAx a (fun v => { v with
    x := 0
    w := 0
    b := 0
    speed := 0
    accel := 0
    coast := false })).clrBit (ax a + AX.AX_STAT) 0

/-- Whether a commit is refused with AXIS_REFUSED (R508, R511, R514). -/
def State.axRefuse (s : State) (a : Nat) : Bool :=
  let k := ax a
  let bits := s.fld (k + AX.SSI_CFG) 5 0
  let div := s.fld (k + AX.SSI_CFG) 15 8
  let g1 := s.fld (k + AX.OBS_GAIN) 4 0
  let g2 := s.fld (k + AX.OBS_GAIN) 12 8
  let g3 := s.fld (k + AX.OBS_GAIN) 20 16
  decide (s.fld (k + AX.FILT) 7 0 = 0) || decide (bits < 8) || decide (32 < bits) || decide (div = 0) ||
  decide (s.fld (k + AX.SSI_CFG) 31 16 * 1000 < (bits + 1) * (8 * div) + 20000) ||
  decide (s.fld (k + AX.AX_CTL) 7 6 = 3) || decide (g1 = 0) || decide (g2 ≤ g1) || decide (g3 ≤ g2)

/-- The shadowed registers of an axis (R519). -/
def axShadowed (a : Nat) : List Nat :=
  [AX.AX_CTL, AX.FILT, AX.SSI_CFG, AX.IDX_PERIOD, AX.IDX_GATE, AX.FAULT_CFG, AX.OBS_GAIN, AX.WIN_LOWER, AX.WIN_UPPER,
    AX.REC_CFG, AX.REF_VAL].map (fun o => ax a + o)

/-- A commit that changed MODE: CLR_COUNT, and decoding starts afresh (R507, R513, R518). -/
def State.axModeCommit (s : State) (a : Nat) : State :=
  (s.axClear a).updAx a (fun v => { v with
    valid := if s.axMode a = 2 then hallPhase (s.fld (ax a + AX.AX_STAT) 10 8) else none
    ill := 0
    ssiAt := none
    ssiPrev := none
    ssiFirst := true })

/-- AX_COMMIT (R508, R519): the shadowed registers take effect, or AXIS_REFUSED is reported and logged. -/
def execAxCommit (axis req v : Nat) (s : State) : Res :=
  .next (s.onKey (ax axis + AX.AX_COMMIT) req (fun s =>
    let k := ax axis
    if v.testBit 0 = false ∨ 16 ≤ axis then s
    else if s.axRefuse axis then
      ((s.wrN (k + AX.AX_CSTAT) 1).axEvent axis 9).logRefused (axis / 4) 1 0x07 req (axis % 4)
    else
      let s1 := ((s.undirty 4 axis).commitRegs (axShadowed axis)).wrN (k + AX.AX_CSTAT) 0
      let s2 := if s1.axMode axis ≠ s.axMode axis then s1.axModeCommit axis else s1
      let s3 := if s.afld (k + AX.REC_CFG) 15 0 ≠ s1.afld (k + AX.REC_CFG) 15 0 then
        s2.updAx axis (fun v => { v with lastPer := s.cycle }) else s2
      s3.axSample axis (s.stamp (axis / 4))))

/-- One bit of a write of AX_CMD (R513). -/
def axCmdBit (axis req v bit : Nat) (f : State → State) (s : State) : State :=
  s.onKey (ax axis + AX.AX_CMD) req (fun s =>
    if v.testBit bit = false ∨ 16 ≤ axis then s else (f s).axSample axis (s.stamp (axis / 4)))

/-- REF (R512): in QUAD and HALL mode a reference at the present count. -/
def execAxRef (axis req v : Nat) (s : State) : Res :=
  .next (axCmdBit axis req v 0 (fun s =>
    if s.axMode axis = 1 ∨ s.axMode axis = 2 then s.axReference axis (s.stamp (axis / 4)) false else s) s)

/-- ARM_HOME (R512): the next index makes a reference. -/
def execArmHome (axis req v : Nat) (s : State) : Res :=
  .next (axCmdBit axis req v 1 (fun s => s.setBit (ax axis + AX.AX_STAT) 2) s)

/-- CLR_COUNT (R513). -/
def execClrCount (axis req v : Nat) (s : State) : Res :=
  .next (axCmdBit axis req v 2 (fun s => s.axClear axis) s)

/-! ## AXIS records (R518) and reads (R519) -/

/-- AXIS_REC_PERIODIC (R518): REC_PER µs have passed since the last periodic trigger. -/
def execAxisRecPeriodic (axis : Nat) (s : State) : Res :=
  let per := s.afld (ax axis + AX.REC_CFG) 15 0
  .next (if s.axOk axis = true ∧ per ≠ 0 ∧ (s.axS axis).lastPer + usec per ≤ s.cycle then
    (s.updAx axis (fun v => { v with lastPer := v.lastPer + usec per })).axTrig axis 0 (s.stamp (axis / 4))
  else s)

/-- The payload of an AXIS record (R518) of a sample. -/
def axisPayload (a cause lost : Nat) (n : AxSnap) : List Byte :=
  leBytes 1 1 ++ leBytes a 1 ++ leBytes cause 2 ++ leBytes n.state 1 ++ leBytes n.mode 1 ++ leBytes lost 2 ++
  leBytes n.count.toNat 4 ++ leBytes n.pos.toNat 4 ++ leBytes n.speed.toNat 4 ++ leBytes n.accel.toNat 4 ++
  leBytes (dtPack n.edge) 12 ++ leBytes n.idxCapt.toNat 4 ++ leBytes n.idxDiff.toNat 4 ++ leBytes n.illegal 4 ++
  leBytes n.raw.toNat 4 ++ zeros 12

/-- AXIS_RECORD_WRITE (R518): the oldest trigger becomes a record with the values of the last sample at or before its TIME; at
most one record leaves per µs. -/
def execAxisRecordWrite (axis : Nat) (s : State) : Res :=
  let v := s.axS axis
  let ready := match v.lastRec with | some c => decide (c + usec 1 ≤ s.cycle) | none => true
  .next (match v.trigs with
    | [] => s
    | (t, cause) :: rest =>
      if s.axOk axis = true ∧ ready = true then
        let n := (v.hist.find? (fun n => decide (n.t ≤ t))).getD {}
        (s.setAx axis { v with
          trigs := rest
          lost := 0
          lastRec := some s.cycle }).closeRec (axis / 4) (1280 + axis % 4)
          { typ := 7, flags := s.unsyncFlag (axis / 4), source := 0x100 + axis, time := t } (axisPayload axis cause v.lost n)
      else s)

/-- AXIS_COUNT_READ (R519): C is returned, and POS, SPEED, ACCEL and LAST_EDGE of the sample are latched for the path. -/
def execAxisCountRead (axis req : Nat) (s : State) : Res :=
  .next (s.onKey (ax axis + AX.COUNT) req (fun s =>
    let k := ax axis
    let v := s.axS axis
    let e := dtPack v.edge
    ((((((s.latch req (k + AX.POS) (s.axPos axis)).latch req (k + AX.SPEED) v.speed).latch req (k + AX.ACCEL) v.accel).latch
      req (k + AX.LAST_EDGE) (dtWord e 0)).latch req (k + AX.LAST_EDGE + 4) (dtWord e 1)).latch req (k + AX.LAST_EDGE + 8)
      (dtWord e 2)).respond (.data [s.axC axis])))

/-- The axes of a die that record on events of a channel take its event as a trigger (R518). -/
def State.axChannel (s : State) (die ch t : Nat) : State :=
  forEach (List.range 4) s (fun s j =>
    let a := 4 * die + j
    if s.abit (ax a + AX.REC_CFG) 20 ∧ s.afld (ax a + AX.REC_CFG) 29 24 = ch then s.axTrig a 6 t else s)

end Sys2Proof.Machine
end

