-- ==== Sys2Proof/Machine/Fabric.lean ====
section
/-! DEFINITION. Modules between dies (R445-R448), prefetch marks and lines (R453-R456) and hardware semaphores
(R458-R460). -/
namespace Sys2Proof.Machine
set_option Elab.async false

def State.modS (s : State) (die m : Nat) : ModS := Tbl.get (fun _ => {}) s.mods (die * 8 + m)
def State.setMod (s : State) (die m : Nat) (v : ModS) : State := { s with mods := Tbl.set (fun _ => {}) s.mods (die * 8 + m) v }
def State.updMod (s : State) (die m : Nat) (f : ModS → ModS) : State := s.setMod die m (f (s.modS die m))

/-- The key of a module's register at `off` (R468); on a concentrator U_B follows U_A at 0x1000, its counters at 0x100. -/
def modKey (die m off : Nat) : Nat :=
  if die < 4 then br die + off + (if off < 0x8000 then 0x1000 * m else 0x100 * m) else brs die m + off

/-- The far end of a module. -/
def farEnd (die m : Nat) : Nat × Nat := if die < 4 then (4 + m, die) else if m < 4 then (m, die - 4) else (partner die, 4)

/-- Whether a module exists between two present dies (R23). -/
def State.modOk (s : State) (die m : Nat) : Bool :=
  s.present die && decide (m < (if die < 4 then 2 else 5)) && s.present (farEnd die m).1

/-- MOD_STAT.STATE of an end: 0 ABSENT, 1 DOWN, 2 TRAINING, 3 ACTIVE, 4 RETRAIN, 5 FAILED. -/
def State.endState (s : State) (die m : Nat) : Nat := if s.modOk die m then s.fld (modKey die m BR.MOD_STAT) 2 0 else 0

/-- A core read that ends with an error: access fault and log of the core's steward (R449). -/
def State.rdFault (s : State) (status : Nat) (r : PendRd) : State := s.accessFault r.req r.addr status

/-- The reads of an end that have not ended, ended with a status; RETRAINED ones are counted (R446, R447). -/
def State.endReads (s : State) (die m status : Nat) : State :=
  let v := s.modS die m
  let s1 := forEach v.rds (s.setMod die m { v with rds := [] }) (fun s r => s.rdFault status r)
  if status = 3 ∧ v.rds ≠ [] then
    (s1.addSat (modKey die m BR.RETRAINED_RD) v.rds.length).setBit (modKey die m BR.BR_EVENTS) 4
  else s1

/-- A steward clears its copies of a die's interrupt levels (R461). -/
def State.irqDrop (s : State) (st m : Nat) : State :=
  if 4 ≤ st ∧ m < 4 then { s with irqCopy := s.irqCopy.filter (fun e => decide (e.1 / 256 ≠ st * 8 + m + 1)) } else s

/-- Writes that an end had sent and that were not acknowledged are discarded and counted (R447). -/
def State.dropWrites (s : State) (die m : Nat) : State :=
  let v := s.modS die m
  (s.setMod die m { v with wrs := [] }).addSat (modKey die m BR.P_DISCARD) v.wrs.length

/-- An end sends a transaction: its flits, the first with the credit that the end owes (R438, R439). -/
def State.sendTxn (s : State) (die m : Nat) (h : OdvelHdr) (data : List Byte) : State :=
  let v := s.modS die m
  let bs := h.bytes ++ data
  (s.setMod die m { v with owedP := 0, owedNp := 0 }).emit .odvel (die * 8 + m)
    ((odvelFlits ((bs.length + 243) / 244) (creditWord v.owedP v.owedNp) bs).map (fun b => b.toNat))

/-- P units in use at the far end of a module (R441, R443): of writes not acknowledged, and, over a concentrator's module, of writes
that wait in the steward for the host. -/
def State.pHeld (s : State) (die m : Nat) : Nat :=
  ((s.modS die m).wrs.map (fun w => pUnits w.data.length)).sum +
    (if die < 4 then (((s.ep (4 + m)).hostq.filter (fun w => w.die == die)).map (fun w => pUnits w.bytes.length)).sum else 0)

/-- P units an end has left, of the 512 of the far end's buffer. -/
def State.pFree (s : State) (die m : Nat) : Nat := 512 - s.pHeld die m

/-- An end enters a state, with its events and counters; RETRAIN and FAILED enter the error log (R446, R447, R469, R605). -/
def State.modEnter (s : State) (die m n : Nat) : State :=
  let k := modKey die m BR.MOD_STAT
  let ev := modKey die m BR.BR_EVENTS
  let s0 := if n = 4 then s.logErr die 3 1 0x0B 0 m 0 else if n = 5 then s.logErr die 3 2 0x0B 0 m 0 else s
  let s1 := (s0.wrFld k 2 0 n).setBit ev 0
  let s2 := if n = 3 ∨ n = 4 then s1 else s1.wrFld k 22 16 0
  if n = 4 then ((s2.setBit ev 1).inc (modKey die m BR.RETRAINS)).updMod die m (fun v => { v with retrainAt := s.cycle, replays := 0 })
  else if n = 1 ∨ n = 5 then (((s2.setBit ev 2).dropWrites die m).endReads die m 4).irqDrop die m
  else s2

/-- MODULE_RETRAIN_ENTER (R446): both ends of an ACTIVE module. -/
def State.retrain (s : State) (die m : Nat) : State :=
  let f := farEnd die m
  let s1 := if s.endState die m = 3 then s.modEnter die m 4 else s
  if s1.endState f.1 f.2 = 3 then s1.modEnter f.1 f.2 4 else s1

/-- FLIT_RX (R445, R446) at an end: a bad CRC is counted and the far end sends the flit again; 16 replays in a row, or a
physical-layer error, send the module to RETRAIN. -/
def execFlitRx (die m : Nat) (crcOk phyErr : Bool) (s : State) : Res :=
  .next (if s.endState die m ≠ 3 then s
    else
      let f := farEnd die m
      if phyErr then s.retrain die m
      else if crcOk then s.updMod f.1 f.2 (fun v => { v with replays := 0 })
      else
        let s1 := (((s.inc (modKey die m BR.CRC_ERR)).inc (modKey f.1 f.2 BR.REPLAYS)).updMod f.1 f.2 (fun v => { v with
          replays := v.replays + 1 }))
        if 16 ≤ (s1.modS f.1 f.2).replays then s1.retrain die m else s1)

/-- Which bit of a MOD_CMD word acts on a state: 0 DOWN, 1 UP, 2 RETRAIN (R447). -/
def modFirst (st v : Nat) : Option Nat :=
  if v.testBit 1 ∧ 2 ≤ st then some 0
  else if v.testBit 2 ∧ (st = 1 ∨ st = 5) then some 1
  else if v.testBit 0 ∧ st = 3 then some 2
  else none

/-- MOD_CMD_RETRAIN (R446, R447). -/
def execModCmdRetrain (die m req v : Nat) (s : State) : Res :=
  .next (s.onKey (modKey die m BR.MOD_CMD) req (fun s =>
    if modFirst (s.endState die m) v = some 2 then s.retrain die m else s))

/-- MOD_CMD_UP (R447). -/
def execModCmdUp (die m req v : Nat) (s : State) : Res :=
  .next (s.onKey (modKey die m BR.MOD_CMD) req (fun s =>
    if modFirst (s.endState die m) v = some 1 then s.modEnter die m 2 else s))

/-- DOWN at one end (R447): the far end loses the link and retrains. -/
def State.modDown (s : State) (die m : Nat) : State :=
  let f := farEnd die m
  let s1 := s.modEnter die m 1
  if s1.endState f.1 f.2 = 3 then s1.modEnter f.1 f.2 4 else s1

/-- MODULE_TRAINED (R447): both ends have been training. -/
def execModuleTrained (die m width : Nat) (s : State) : Res :=
  let f := farEnd die m
  .next (if s.endState die m = 2 ∧ s.endState f.1 f.2 = 2 then
    ((s.modEnter die m 3).modEnter f.1 f.2 3).wrFld (modKey die m BR.MOD_STAT) 22 16 width |>.wrFld (modKey f.1 f.2 BR.MOD_STAT) 22 16 width
  else s)

/-- NP_TIMEOUT (R448): the read `tag` of an end has waited NP_TIMEOUT µs. -/
def execNpTimeout (die m tag : Nat) (s : State) : Res :=
  .next (if s.modOk die m = false then s
    else
      let v := s.modS die m
      match v.rds.find? (fun r => r.tag == tag) with
      | none => s
      | some r =>
        if s.cycle < r.at_ + usec (s.rdN (modKey die m BR.NP_TIMEOUT)) then s
        else (((s.setMod die m { v with rds := v.rds.erase r }).inc (modKey die m BR.NP_TIMEOUTS)).setBit (modKey die m BR.BR_EVENTS)
          3).rdFault 5 r)

/-! ## Prefetch (R453-R457) -/

/-- The volatile pages of a concentrator window that a mark can meet, as (block base, instance stride, instances, first page
offset, end) (R454). -/
def volatileRanges : List (Nat × Nat × Nat × Nat × Nat) := [
  (0x08000000, 0, 1, 0, 0x04000000), (0x10000000, 0x10000, 32, 0x8000, 0x9000), (0x10000000, 0x10000, 32, 0xA000, 0xB000),
  (0x10200000, 0x4000, 128, 0x2000, 0x3000), (0x10400000, 0x10000, 128, 0x6000, 0x7000), (0x10400000, 0x10000, 128, 0xC000, 0xD000),
  (0x11000000, 0x10000, 16, 0x2000, 0x3000), (0x11100000, 0, 1, 0xF0000, 0xF1000), (0x11200000, 0x10000, 4, 0x8000, 0x9000),
  (0x11400000, 0, 1, 0, 0x1000), (0x11400000, 0, 1, 0x30000, 0x31000), (0x11500000, 0, 1, 0x1000, 0x2000),
  (0x11600000, 0, 1, 0x8000, 0x9000), (0x11700000, 0, 1, 0, 0x10000), (0x11800000, 0, 1, 0x1000, 0x2000)]

/-- The volatile pages of steward local registers (R454 and the chapters of the blocks), as (first, end). -/
def stewardVolatile : List (Nat × Nat) := [
  (0x14000, 0x15000), (0x21000, 0x22000), (0x40000, 0x41000), (0x108000, 0x109000), (0x118000, 0x119000),
  (0x128000, 0x129000), (0x138000, 0x139000), (0x148000, 0x149000), (0x201000, 0x202000), (0x420000, 0x421000), (0x601000, 0x602000),
  (0x701000, 0x702000), (0x711000, 0x712000)]

/-- Whether an offset of a concentrator window lies in a volatile page. -/
def concVolatile (o : Nat) : Bool :=
  volatileRanges.any (fun r => (List.range r.2.2.1).any (fun i =>
    decide (r.1 + i * r.2.1 + r.2.2.2.1 ≤ o) && decide (o < r.1 + i * r.2.1 + r.2.2.2.2)))

/-- The base of the first volatile page at or above an offset. -/
def nextVolatile (conc : Bool) (o : Nat) : Option Nat :=
  let starts := if conc then
      volatileRanges.flatMap (fun r => (List.range r.2.2.1).map (fun i => (r.1 + i * r.2.1 + r.2.2.2.1, r.1 + i * r.2.1 + r.2.2.2.2)))
    else stewardVolatile
  starts.foldl (fun b r =>
    if r.2 ≤ o then b
    else
      let c := Nat.max r.1 (o / 4096 * 4096)
      match b with | none => some c | some x => some (Nat.min x c)) none

/-- PFi_STAT by BASE and LIMIT (R453, R455): EFF_LIMIT, PF_CLIPPED, ACTIVE. -/
def pfStat (m base limit : Nat) : Nat × Bool × Bool :=
  let lo := if m < 4 then 0x2000000000 + m * 0x100000000 else 0x4000000000
  let hi := if m < 4 then lo + 0x100000000 else 0x6000000000
  if base < lo ∨ hi < limit ∨ limit ≤ base then (limit, false, false)
  else
    let o := base - lo
    let conc := decide (m < 4)
    let org := if conc then lo else lo + 0x1000000000
    match (if conc then nextVolatile true o else if org ≤ base ∨ org < limit then nextVolatile false (base - org) else none) with
    | none => (limit, false, true)
    | some v =>
      if org + v ≤ base then (base, true, false)
      else if org + v < limit then (org + v, true, true)
      else (limit, false, true)

/-- PF_MARK_WRITE (R455): a write of BASE, or LIMIT where `limit` is set, of mark `i`. -/
def execPfMarkWrite (st m i req : Nat) (limit : Bool) (v : Nat) (s : State) : Res :=
  let k := brs st m + BRS.PF_BASE + 0x10 * (i % 8)
  .next (s.onKey (k + (if limit then 4 else 0)) req (fun s =>
    if s.modOk st m = false then s
    else
      let s1 := s.wrN (k + (if limit then 4 else 0)) (v % 2 ^ 28)
      let r := pfStat m (s1.rdN k * 4096) (s1.rdN (k + 4) * 4096)
      let s2 := s1.wrN (k + 8) (r.1 / 4096 % 2 ^ 28 * 16 + b2n r.2.1 * 2 + b2n r.2.2)
      if r.2.1 then s2.setBit (modKey st m BR.BR_EVENTS) 5 else s2))

/-- Lines discarded; those with bytes never read are counted (R456). -/
def State.dropLines (s : State) (st m : Nat) (p : PfLine → Bool) : State :=
  let gone := (s.modS st m).lines.filter p
  (s.updMod st m (fun v => { v with lines := v.lines.filter (fun l => !p l) })).addSat (modKey st m BR.PF_DISCARD)
    (gone.filter (fun l => decide (l.got.length < 64))).length

/-- PF_FLUSH (R456): all lines are discarded. -/
def execPfFlush (st m req : Nat) (s : State) : Res :=
  .next (s.onKey (brs st m + BRS.PF_CMD) req (fun s =>
    if s.modOk st m = false then s
    else s.dropLines st m (fun _ => true)))

/-- PF_LINE_EXPIRE (R456): lines that have reached PF_LIFE are no longer used. -/
def execPfLineExpire (st m : Nat) (s : State) : Res :=
  .next (if s.modOk st m = false ∨ st < 4 then s
    else s.dropLines st m (fun l => decide (l.at_ + s.fld (brs st m + BRS.PF_CTL) 27 16 ≤ s.cycle)))

/-! ## Semaphores (R458-R460) -/

/-- The register of semaphore `n` that holds its state. -/
abbrev semKey (die n : Nat) : Nat := sm die + SM.SEM_STAT + 8 * n

/-- SEM_HELD of a semaphore. -/
def State.semHeld (s : State) (die n : Nat) (b : Bool) : State :=
  s.putBit (sm die + (if n < 32 then SM.SEM_HELD_LO else SM.SEM_HELD_HI)) (n % 32) b

/-- The path of a requester at a die's semaphores (R459), and how many paths there are. -/
def semPath (req : Nat) : Nat := if req ≤ 4 then 0 else if req ≤ 8 then 1 else if req = 9 then 2 else 3
def semPaths (die : Nat) : Nat := if die < 4 then 4 else 2

/-- An ACQ of one requester (R458). -/
def State.semTake (s : State) (die n req : Nat) : State :=
  let k := semKey die n
  if s.fld k 7 0 = 0 then ((s.wrFld k 7 0 req).clrBit k 8).semHeld die n true else s.setBit k 8

/-- SEM_ACQ (R458, R459): `rival` writes ACQ in the same cycle over another path, 0 where none does. -/
def execSemAcq (die n req rival : Nat) (s : State) : Res :=
  .next (s.onKey (sm die + SM.SEM_CMD + 8 * n) req (fun s =>
    if 64 ≤ n then s
    else if rival = 0 ∨ semPath rival = semPath req then s.semTake die n req
    else
      let p := semPaths die
      let rr := s.fld (semKey die n) 17 16
      let d := fun r => (semPath r + p - rr % p) % p
      let w := if d req ≤ d rival then (req, rival) else (rival, req)
      ((s.semTake die n w.1).semTake die n w.2).wrFld (semKey die n) 17 16 ((semPath w.1 + 1) % p)))

/-- SEM_REL (R458). -/
def execSemRel (die n req : Nat) (s : State) : Res :=
  .next (s.onKey (sm die + SM.SEM_CMD + 8 * n) req (fun s =>
    if 64 ≤ n then s
    else if s.fld (semKey die n) 7 0 = req ∧ req ≠ 0 then (s.wrFld (semKey die n) 7 0 0).semHeld die n false
    else (s.incW (sm die + SM.SEM_BAD_REL)).setBit (sm die + SM.SEM_EVENTS) 1))

/-- Every semaphore of a die held by an owner of whom `p` holds is released (R460). -/
def State.semRelease (s : State) (die : Nat) (p : Nat → Bool) : State :=
  forEach (List.range 64) s (fun s n =>
    let o := s.fld (semKey die n) 7 0
    if o ≠ 0 ∧ p o = true then ((s.wrFld (semKey die n) 7 0 0).semHeld die n false).setBit (sm die + SM.SEM_EVENTS) 0 else s)

/-- SEM_FORCE_OWNER (R460). -/
def execSemForceOwner (die req v : Nat) (s : State) : Res :=
  .next (s.onKey (sm die + SM.SEM_FORCE) req (fun s => if v.testBit 8 then s else s.semRelease die (fun o => o == v % 256)))

/-- SEM_FORCE_ALL (R460). -/
def execSemForceAll (die req v : Nat) (s : State) : Res :=
  .next (s.onKey (sm die + SM.SEM_FORCE) req (fun s => if v.testBit 8 then s.semRelease die (fun _ => true) else s))

end Sys2Proof.Machine
end

