-- ==== Sys2Proof/Machine/EventFab.lean ====
section
/-! DEFINITION. The event fabric of a die (R473-R500): channels, task inputs, logic cells, time windows, event pins, event
records, relay lines, and the commit. -/
namespace Sys2Proof.Machine
set_option Elab.async false

/-- Whether a die has an event fabric. -/
def State.efOk (s : State) (die : Nat) : Bool := decide (die < 4) && s.present die

/-- A bit of EF_EVENTS set; one that becomes set is logged (R500). -/
def State.efEvent (s : State) (die i : Nat) : State :=
  if s.bit (ef die + EF.EF_EVENTS) i then s
  else (s.setBit (ef die + EF.EF_EVENTS) i).logErr die 4 i 0x06 0 0 0

def State.updEf (s : State) (die : Nat) (f : EfS → EfS) : State := s.setEf die (f (s.efS die))

/-! ## Windows, cells and their levels (R483-R486) -/

def State.winS (s : State) (die w : Nat) : WinS := Tbl.get (fun _ => {}) (s.efS die).wins w
def State.setWin (s : State) (die w : Nat) (v : WinS) : State :=
  s.updEf die (fun e => { e with wins := Tbl.set (fun _ => {}) e.wins w v })
def State.cellS (s : State) (die c : Nat) : CellS := Tbl.get (fun _ => {}) (s.efS die).cells c
def State.setCell (s : State) (die c : Nat) (v : CellS) : State :=
  s.updEf die (fun e => { e with cells := Tbl.set (fun _ => {}) e.cells c v })

/-- Keys of cell `c`, channel `n` and pin `i`. -/
abbrev lcK (die c : Nat) : Nat := ef die + 0x20 * c
abbrev chK (die n : Nat) : Nat := ef die + 0x10 * n
abbrev pinK (die i : Nat) : Nat := ef die + 0x20 * i

/-- Whether `t` lies inside a window's current occurrence (R486). -/
def WinS.inside (w : WinS) (t : Nat) : Bool := w.en && decide (w.opn ≤ t) && decide (t < w.cls)

/-- Whether an event's stamp lies inside a window for a gate: the current occurrence or the one before (R479). -/
def WinS.gateInside (w : WinS) (t : Nat) : Bool :=
  w.inside t || (w.en && w.periodic && w.prev && decide (w.opn ≤ t + w.per) && decide (t + w.per < w.cls))

/-- A mask of the truth values of f over 0 to n−1. -/
def maskOf (n : Nat) (f : Nat → Bool) : Nat := (List.range n).foldl (fun m i => if f i then m + 2 ^ i else m) 0

/-- Q of every cell, the windows that are inside now, and the filtered pin levels. -/
def State.cellQ (s : State) (die : Nat) : Nat := maskOf 16 (fun c => s.bit (lcK die c + EF.LC_STAT) 0)
def State.winMask (s : State) (die : Nat) : Nat := maskOf 8 (fun w => (s.winS die w).inside (s.stamp die))
def State.pinMask (s : State) (die : Nat) : Nat := maskOf 4 (fun i => s.bit (pinK die i + EF.PIN_STAT) 0)

/-- What LEVELS shows: the cells, windows and pins as they are (R498). -/
def State.efLevels (s : State) (die : Nat) : Word := wordOf (s.cellQ die + s.winMask die * 2 ^ 16 + s.pinMask die * 2 ^ 24)

/-- What the inputs of cells see in one cycle: the events delivered, and the levels of windows, pins and cells (R483). -/
structure CellEnv where
  evs : List ChEv
  wins : Nat
  pins : Nat
  q : Nat

/-- One input of a cell from its 16-bit half (R483). -/
def CellEnv.input (e : CellEnv) (h : Nat) : Bool :=
  let i := nbits h 5 0
  match nbits h 10 8 with
  | 1 => e.evs.any (fun v => v.ch == i)
  | 2 => e.wins.testBit i
  | 3 => e.pins.testBit i
  | 4 => e.q.testBit i
  | 5 => true
  | _ => false

/-- The four input halves A, B, C, D of a cell. -/
def State.cellHalves (s : State) (die c : Nat) : List Nat :=
  let ab := s.actN (lcK die c + EF.LC_INAB)
  let cd := s.actN (lcK die c + EF.LC_INCD)
  [ab % 65536, ab / 65536, cd % 65536, cd / 65536]

/-- f of a cell (R483). -/
def State.cellF (s : State) (die c : Nat) (e : CellEnv) : Bool :=
  let tt := s.afld (lcK die c + EF.LC_TT) 15 0
  if tt = 0 then false
  else
    let v := (s.cellHalves die c).map (fun h => b2n (e.input h))
    tt.testBit (v.getD 0 0 + 2 * v.getD 1 0 + 4 * v.getD 2 0 + 8 * v.getD 3 0)

/-- The stamp of a COMB cell's pulse: that of the event on its lowest-lettered CHANNEL input that is 1, else the cycle's device
time (R484). -/
def State.cellStamp (s : State) (die c : Nat) (e : CellEnv) : Nat :=
  match (s.cellHalves die c).find? (fun h => nbits h 10 8 == 1 && e.input h) with
  | some h => ((e.evs.find? (fun v => v.ch == nbits h 5 0)).map (fun v => v.stamp)).getD (s.stamp die)
  | none => s.stamp die

/-- N ticks of a cell in FCLK cycles (R485). -/
def State.cellTicks (s : State) (die c : Nat) : Nat :=
  s.afld (lcK die c + EF.LC_N) 15 0 * 2 ^ s.afld (lcK die c + EF.LC_CTL) 19 16

/-- Whether a cell's hold-off suppresses a pulse now. -/
def State.cellHeld (s : State) (die c : Nat) : Bool :=
  match (s.cellS die c).hold with | some t => decide (s.cycle < t) | none => false

/-- Whether a COMB cell whose f is 1 pulses past its filter (R485). -/
def State.combPasses (s : State) (die c : Nat) : Bool :=
  match s.afld (lcK die c + EF.LC_CTL) 9 8 with
  | 2 => decide (s.afld (lcK die c + EF.LC_N) 15 0 ≤ s.fld (lcK die c + EF.LC_STAT) 31 16 + 1)
  | 3 => !s.cellHeld die c
  | _ => true

/-- A cell pulses, or its hold-off suppresses the pulse (R485): the hold-off starts after an output pulse. -/
def State.cellOut (s : State) (die c : Nat) : State :=
  if s.afld (lcK die c + EF.LC_CTL) 9 8 = 3 then
    if s.cellHeld die c then s.inc (ef die + EF.CELL_SUPPR)
    else s.setCell die c { s.cellS die c with hold := some (s.cycle + 1 + s.cellTicks die c) }
  else s

/-- A COMB cell's filter takes note of a cycle with f = 1 (R485). -/
def State.combNote (s : State) (die c : Nat) : State :=
  let k := lcK die c + EF.LC_STAT
  if s.afld (lcK die c + EF.LC_CTL) 9 8 = 2 then
    s.wrFld k 31 16 (if s.afld (lcK die c + EF.LC_N) 15 0 ≤ s.fld k 31 16 + 1 then 0 else s.fld k 31 16 + 1)
  else s.cellOut die c

/-! ## Channels (R476-R479) -/

/-- Whether a matrix bit enables producer `ep` onto channel `n`. -/
def State.efRow (s : State) (die ep n : Nat) : Bool :=
  s.abit (ef die + EF.EN_LO + 8 * ep + (if n < 32 then 0 else 4)) (n % 32)

/-- Whether a producer is enabled onto any channel. -/
def State.efTaken (s : State) (die ep : Nat) : Bool :=
  decide (s.act (ef die + EF.EN_LO + 8 * ep) ≠ 0#32) || decide (s.act (ef die + EF.EN_HI + 8 * ep) ≠ 0#32)

/-- One pulse per producer and cycle (R475), but for relay emissions, which merge on their channel (R493). Of several sources of one producer
the last to be reported gives the stamp (DESIGN CHOICE, log entry 110). -/
def onePulse : List (Nat × Nat) → List (Nat × Nat)
  | [] => []
  | p :: ps => if ps.any (fun q => q.1 == p.1) && !(decide (656 ≤ p.1) && decide (p.1 < 672)) then onePulse ps else p :: onePulse ps

/-- The event of channel `n` from the pulses of a cycle: the stamp of the lowest-numbered producer (R476). -/
def State.chEvOf (s : State) (die : Nat) (ps : List (Nat × Nat)) (n : Nat) : Option ChEv :=
  match ps.filter (fun p => s.efRow die p.1 n) with
  | [] => none
  | p :: l =>
    let m := l.foldl (fun a q => if q.1 < a.1 then q else a) p
    some { ch := n, ep := m.1, stamp := m.2, merged := decide (l ≠ []) }

/-- Whether a channel's gate passes a stamp (R479). -/
def State.gatePass (s : State) (die n t : Nat) : Bool :=
  let k := chK die n + EF.CH_CFG
  !s.abit k 26 || ((s.winS die (s.afld k 24 22)).gateInside t != s.abit k 25)

/-- Two events of one channel in one cycle merge (R476, R495). -/
def mergeEv (a b : ChEv) : ChEv := if b.ep < a.ep then { b with merged := true } else { a with merged := true }

/-- What the pulses of a cycle make of the channels, with the held events now due: events delivered in this cycle, events held
for the next, and the counts of gated and merged cycles (R476-R479, R495). -/
structure Carried where
  now : List ChEv
  next : List ChEv
  gated : Nat
  merges : Nat

def State.carry (s : State) (die : Nat) (held : List ChEv) (ps : List (Nat × Nat)) : Carried :=
  let raw := (List.range 64).filterMap (fun n => s.chEvOf die ps n)
  let pass := raw.filter (fun e => s.gatePass die e.ch e.stamp)
  let direct := pass.filter (fun e => !s.abit (chK die e.ch + EF.CH_CFG) 27)
  let later := pass.filter (fun e => s.abit (chK die e.ch + EF.CH_CFG) 27)
  let both := direct.map (fun e => match held.find? (fun h => h.ch == e.ch) with | some h => mergeEv e h | none => e)
  let rest := held.filter (fun h => !direct.any (fun e => e.ch == h.ch))
  { now := both ++ rest
    next := later
    gated := raw.length - pass.length
    merges := (raw.filter (fun e => e.merged)).length + (direct.filter (fun e => !e.merged && held.any (fun h => h.ch == e.ch))).length }

/-- The COMB cells that pulse in a cycle, given what its channels deliver; `base` pulses are already there (R484). -/
def State.combPulses (s : State) (die : Nat) (base : List (Nat × Nat)) (e : CellEnv) : List (Nat × Nat) :=
  (List.range 16).filterMap (fun c =>
    if s.abit (lcK die c + EF.LC_CTL) 0 = false ∧ base.any (fun p => p.1 == 624 + c) = false ∧ s.cellF die c e = true ∧
      s.combPasses die c = true then some (624 + c, s.cellStamp die c e) else none)

/-- The cycle's pulses once its COMB cells have settled: cells and unclocked channels form no loop (R496), so as many rounds as
there are cells, and one, suffice. -/
def State.settle (s : State) (die : Nat) (held : List ChEv) (env : CellEnv) (base : List (Nat × Nat)) :
    Nat → List (Nat × Nat) → List (Nat × Nat)
  | 0, ps => ps
  | n + 1, ps =>
    let nps := base ++ s.combPulses die base { env with evs := (s.carry die held ps).now }
    if nps = ps then ps else s.settle die held env base n nps

/-! ## What an event does (R377, R481, R482, R489-R493) -/

/-- TASK_ACTIVATION (R482): the task input's channel starts, once; a coincidence and a busy channel are recorded. -/
def State.taskIn (s : State) (die ti n : Nat) : State :=
  let s1 := if 2 ≤ n then
      ((s.setBit (ef die + EF.COINCIDE + 4 * (ti / 32)) (ti % 32)).inc (ef die + EF.TI_COINCIDE)).efEvent die 3
    else s
  let s2 := if chRunning (s.chState die (ti / 32) (ti % 32)) then
      ((s1.setBit (ef die + EF.OVERRUN + 4 * (ti / 32)) (ti % 32)).inc (ef die + EF.TI_OVERRUN)).efEvent die 2
    else s1
  s2.chStart die (ti / 32) (ti % 32)

/-- CH_LATCH_SET (R377): bit `n` of every barge event latch of the die is set, and channels that wait for it go on. -/
def State.latchAll (s : State) (die n : Nat) : State :=
  forEach (List.range 512) s (fun s i =>
    let s1 := s.setBit (latchReg die (i / 32) (i % 32) n) (n % 32)
    if s1.fld (bgc die (i / 32) (i % 32) + BG.CH_STAT) 13 12 = 1 ∧ (s1.chan die (i / 32) (i % 32)).need = n ∧
      (s1.chan die (i / 32) (i % 32)).abort = none then s1.unblock die (i / 32) (i % 32) else s1)

/-- An output pin driven (R489): its ball has the active level, inverted by INV; an open-drain output releases the ball instead of driving it
high. At final commit pins keep their level. -/
def State.drivePin (s : State) (die i : Nat) (active : Bool) (until_ : Option Nat) : State :=
  let k := pinK die i
  let lvl := active != s.abit (k + EF.PIN_CFG) 2
  if s.finalC then s
  else ((((s.updEf die (fun e => { e with pins := Tbl.set (fun _ => (false, none)) e.pins i (active, until_) })).putBit
    (k + EF.PIN_STAT) 1 lvl).putBit (k + EF.PIN_STAT) 2 until_.isSome)).emit .eventPin (die * 4 + i) [if lvl && s.abit (k + EF.PIN_CFG) 1 then 2 else b2n lvl]

/-- A pin that becomes an input is driven no more, and a pulse on it ends (R489). -/
def State.releasePin (s : State) (die i : Nat) : State :=
  ((s.updEf die (fun e => { e with pins := Tbl.set (fun _ => (false, none)) e.pins i (false, none) })).clrBit (pinK die i + EF.PIN_STAT)
    2).emit .eventPin (die * 4 + i) [2]

/-- PIN_OUTPUT (R489): the first of CLR, SET, PULSE and TGL that reaches an output pin acts. -/
def State.pinEvents (s : State) (die : Nat) (evs : List ChEv) (i : Nat) : State :=
  let k := pinK die i
  let o := k + EF.PIN_OUTSEL
  if s.abit (k + EF.PIN_CFG) 0 = false then s
  else
    let hit (lo : Nat) : Bool := s.abit o (lo + 7) && evs.any (fun e => e.ch == s.afld o (lo + 5) lo)
    let p := Tbl.get (fun _ => (false, none)) (s.efS die).pins i
    let s1 := if 2 ≤ b2n (hit 8) + b2n (hit 0) + b2n (hit 24) + b2n (hit 16) then s.inc (ef die + EF.PIN_CONFLICT) else s
    if hit 8 then s1.drivePin die i false none
    else if hit 0 then s1.drivePin die i true none
    else if hit 24 then s1.drivePin die i true (some (s.cycle + s.actN (k + EF.PIN_PULSE)))
    else if hit 16 then s1.drivePin die i (!p.1) p.2
    else s1

/-- An event of a channel with RECORD set enters the capture queue, or is lost (R491). -/
def State.capture (s : State) (die q wins pins : Nat) (e : ChEv) : State :=
  let v := s.efS die
  if s.abit (chK die e.ch + EF.CH_CFG) 28 = false then s
  else if v.cap.length < 64 then
    s.setEf die { v with cap := v.cap ++ [{ ev := e, cyc := s.stamp die, q := q, pins := pins, wins := wins }] }
  else ((s.setEf die { v with capLost := Nat.min 0xFFFF (v.capLost + 1) }).inc (ef die + EF.EVREC_LOST)).efEvent die 4

/-- Whether a steward is reachable from a die (R494, R587): its heartbeats arrive. -/
def State.stReach (s : State) (die : Nat) : Bool := s.fld (br die + BR.FO_STAT) 1 0 != 0

/-- RELAY_EXPORT (R493, R494): one message per line and µs, on the sideband of both modules, or none while no steward is
reachable. -/
def State.relayExport (s : State) (die : Nat) (e : ChEv) : State :=
  let k := chK die e.ch + EF.CH_CFG
  let line := s.afld k 20 17
  let v := s.efS die
  let last := v.sent.find? (fun x => x.1 == line)
  let soon := match last with | some x => decide (s.cycle < x.2.1 + usec 1) | none => false
  if s.abit k 21 = false then s
  else if soon || !s.stReach die then (s.inc (ef die + EF.RELAY_DROP)).efEvent die 5
  else
    let seq := match last with | some x => (x.2.2 + 1) % 256 | none => 0
    let m : RelayMsg := { src := die, line := line, seq := seq, stamp := e.stamp, cyc := s.stamp die }
    let s1 := s.setEf die { v with sent := (line, s.cycle, seq) :: v.sent.filter (fun x => x.1 != line) }
    forEach s.stewards s1 (fun s st =>
      if s.bit (modKey die (modTo st) BR.MOD_STAT) 8 then
        { s with relaySt := Tbl.set (fun _ => []) s.relaySt st (Tbl.get (fun _ => []) s.relaySt st ++ [m]) }
      else s)

/-- The events delivered in one cycle act on consumers and observers (R477). -/
def State.deliver (s : State) (die : Nat) (evs : List ChEv) : State :=
  let q := s.cellQ die
  let w := s.winMask die
  let p := s.pinMask die
  let tis := (evs.filter (fun e => s.abit (chK die e.ch + EF.CH_CFG) 15)).map (fun e => s.afld (chK die e.ch + EF.CH_CFG) 8 0)
  let s1 := forEach evs s (fun s e => s.latchAll die e.ch)
  let s2 := forEach tis.eraseDups s1 (fun s ti => s.taskIn die ti (tis.filter (fun x => x == ti)).length)
  let s3 := forEach (List.range 32) s2 (fun s i =>
    let k := ef die + EF.IRQO_SEL + 4 * i
    if s.abit k 7 && evs.any (fun e => e.ch == s.afld k 5 0) then s.setBit (ef die + EF.IRQO_STAT) i else s)
  let s4 := forEach (List.range 4) s3 (fun s i => s.pinEvents die evs i)
  forEach evs s4 (fun s e => ((s.capture die q w p e).relayExport die e).axChannel die e.ch e.stamp)

/-- A REG cell at the end of a cycle with its f: Q takes f past the filter, and an edge that EDGE selects is due in the next
cycle (R484, R485). A COMB cell's Q is f. -/
def State.cellEnd (s : State) (die c : Nat) (f : Bool) : State :=
  let k := lcK die c
  let ctl := k + EF.LC_CTL
  if s.abit ctl 0 = false then s.putBit (k + EF.LC_STAT) 0 f
  else
    let was := (s.efS die).qPrev.testBit c
    let stable := s.afld ctl 9 8 = 1
    let v := s.cellS die c
    let q := if stable then was else f
    let s1 := (s.putBit (k + EF.LC_STAT) 0 q).setCell die c { v with
      since := if stable ∧ f ≠ was then some (v.since.getD s.cycle) else none }
    let e := s.afld ctl 5 4
    let due := (q && !was && e.testBit 0) || (!q && was && e.testBit 1)
    s1.updEf die (fun x => { x with
      edges := x.edges.filter (fun y => y ≠ (c, s.cycle + 1)) ++ (if due then [(c, s.cycle + 1)] else []) })

/-- The cells' Q at the end of the cycle before this one is kept while the cycle is evaluated (R483). -/
def State.efBegin (s : State) (die : Nat) : State :=
  if (s.efS die).evalAt = some s.cycle then s
  else s.updEf die (fun e => { e with
    evalAt := some s.cycle
    qPrev := s.cellQ die })

/-- One cycle of a die's fabric: pulses `ps` and held events now due go through the channels, COMB cells pulse with them, events
are delivered, and the REG cells take their values. -/
def State.efCycle (s : State) (die : Nat) (held : List ChEv) (ps : List (Nat × Nat)) : State :=
  let s0 := s.efBegin die
  let base := onePulse ps
  let env : CellEnv := { evs := [], wins := s0.winMask die, pins := s0.pinMask die, q := (s0.efS die).qPrev }
  let all := s0.settle die held env base 17 base
  let c := s0.carry die held all
  let e := { env with evs := c.now }
  let fs := (List.range 16).map (fun i => s0.cellF die i e)
  let s1 := forEach (List.range 16) s0 (fun s i =>
    if s.abit (lcK die i + EF.LC_CTL) 0 = false ∧ base.any (fun p => p.1 == 624 + i) = false ∧ fs.getD i false = true then
      s.combNote die i else s)
  let s2 := ((s1.addSat (ef die + EF.EC_GATED) c.gated).addSat (ef die + EF.EC_MERGE) c.merges).updEf die (fun x => { x with
    held := x.held ++ c.next.map (fun v => (s.cycle + 1, v)) })
  let s3 := s2.deliver die c.now
  forEach (List.range 16) s3 (fun s i => s.cellEnd die i (fs.getD i false))

/-- Cells are evaluated in every FCLK cycle (R483, R484): a cycle in which no event was carried ends. Pulses of COMB cells whose
f is 1 without a channel event wait for CHANNEL_EVENT where a channel takes them. -/
def State.efIdle (s : State) (die : Nat) : State :=
  if (s.efS die).evalAt = some s.cycle then s
  else
    let s0 := s.efBegin die
    let e : CellEnv := { evs := [], wins := s0.winMask die, pins := s0.pinMask die, q := (s0.efS die).qPrev }
    let ps := s0.combPulses die [] e
    let s1 := forEach (List.range 16) s0 (fun s i =>
      if s.abit (lcK die i + EF.LC_CTL) 0 = false ∧ s.cellF die i e = true then s.combNote die i else s)
    let s2 := forEach ps s1 (fun s p => if s.efTaken die p.1 then s.pulseAt die p.1 p.2 else s)
    forEach (List.range 16) s2 (fun s i => s.cellEnd die i (s0.cellF die i e))

/-- The oldest cycle, not in the future, in which a pulse or a held event waits. -/
def State.efDue (s : State) (die : Nat) : Option Nat :=
  let v := s.efS die
  let l := (v.pulses.map (fun p => p.2.2) ++ v.held.map (fun h => h.1)).filter (fun c => decide (c ≤ s.cycle))
  match l with
  | [] => none
  | c :: cs => some (cs.foldl Nat.min c)

/-- The pulses and held events of cycle `c` are carried. -/
def State.efTake (s : State) (die c : Nat) : State :=
  let v := s.efS die
  let ps := (v.pulses.filter (fun p => p.2.2 == c)).map (fun p => (p.1, p.2.1))
  let held := (v.held.filter (fun h => h.1 == c)).map (fun h => h.2)
  (s.setEf die { v with
    pulses := v.pulses.filter (fun p => p.2.2 != c)
    held := v.held.filter (fun h => h.1 != c) }).efCycle die held ps

/-- CHANNEL_EVENT (R476): the producers that pulsed in the oldest waiting cycle put their events on the channels. -/
def execChannelEvent (die : Nat) (s : State) : Res :=
  .next (match s.efDue die with
    | none => s
    | some c => if s.efOk die = true ∧ (s.efS die).pulses.any (fun p => p.2.2 == c) = true then s.efTake die c else s)

/-- CLOCKED_DELIVERY (R478): an event held in a clocked channel is delivered one FCLK cycle after its pulse. -/
def execClockedDelivery (die : Nat) (s : State) : Res :=
  .next (match s.efDue die with
    | none => s
    | some c => if s.efOk die = true ∧ (s.efS die).held.any (fun h => h.1 == c) = true then s.efTake die c else s)

/-- CELL_REG_PULSE (R484): a REG cell pulses in the cycle after a selected edge of Q, unless its hold-off suppresses it. -/
def execCellRegPulse (die cell : Nat) (s : State) : Res :=
  .next (match (s.efS die).edges.find? (fun x => x.1 == cell && decide (x.2 ≤ s.cycle)) with
    | none => s
    | some x =>
      let s1 := s.updEf die (fun e => { e with edges := e.edges.filter (fun y => y ≠ x) })
      let s2 := s1.cellOut die cell
      if s.afld (lcK die cell + EF.LC_CTL) 9 8 = 3 ∧ s.cellHeld die cell = true then s2 else s2.pulse die (624 + cell))

/-- CELL_STABLE_EXPIRE (R485): f has differed from Q for N ticks of consecutive cycles, so Q takes f. -/
def execCellStableExpire (die cell : Nat) (s : State) : Res :=
  let k := lcK die cell
  .next (match (s.cellS die cell).since with
    | none => s
    | some c =>
      if s.efOk die = true ∧ cell < 16 ∧ c + s.cellTicks die cell ≤ s.cycle + 1 then
        let q := !s.bit (k + EF.LC_STAT) 0
        let e := s.afld (k + EF.LC_CTL) 5 4
        let due := if q then e.testBit 0 else e.testBit 1
        ((s.putBit (k + EF.LC_STAT) 0 q).setCell die cell { s.cellS die cell with since := none }).updEf die (fun x => { x with
          edges := x.edges ++ (if due then [(cell, s.cycle + 1)] else []) })
      else s)

/-- HOLDOFF_EXPIRE (R485): the hold-off time of a cell ends. -/
def execHoldoffExpire (die cell : Nat) (s : State) : Res :=
  .next (match (s.cellS die cell).hold with
    | some t => if t ≤ s.cycle then s.setCell die cell { s.cellS die cell with hold := none } else s
    | none => s)

/-! ## Time windows (R486, R487) -/

/-- WINDOW_OPEN (R486): device time reaches OPEN. -/
def execWindowOpen (die w : Nat) (s : State) : Res :=
  let v := s.winS die w
  .next (if s.efOk die = true ∧ w < 8 ∧ v.en = true ∧ v.opened = false ∧ v.opn ≤ s.stamp die then
    (s.setWin die w { v with opened := true }).pulse die (640 + 2 * w)
  else s)

/-- WINDOW_CLOSE (R486): device time reaches CLOSE; a periodic window goes on to its next occurrence. -/
def execWindowClose (die w : Nat) (s : State) : Res :=
  let v := s.winS die w
  .next (if s.efOk die = true ∧ w < 8 ∧ v.en = true ∧ v.opened = true ∧ v.closed = false ∧ v.cls ≤ s.stamp die then
    let n := if v.periodic then { v with
        opn := v.opn + v.per
        cls := v.cls + v.per
        opened := false
        prev := true } else { v with closed := true }
    (s.setWin die w n).pulse die (641 + 2 * w)
  else s)

/-- A periodic window moved to its first occurrence whose CLOSE lies after `t` (R487). -/
def WinS.catchUp (w : WinS) (t : Nat) : WinS :=
  if w.periodic ∧ w.cls ≤ t ∧ w.per ≠ 0 then
    let n := (t - w.cls) / w.per + 1
    { w with
      opn := w.opn + n * w.per
      cls := w.cls + n * w.per
      opened := false
      prev := true }
  else w

/-- What a forward step from `old` to `new` does to a window (R487): OPEN and CLOSE crossed by it pulse at the step. -/
def State.stepWindow (s : State) (die w old new : Nat) : State :=
  let v := s.winS die w
  if v.en = false ∨ new ≤ old then s
  else
    let o := decide (old < v.opn) && decide (v.opn ≤ new) && !v.opened
    let c := decide (old < v.cls) && decide (v.cls ≤ new) && !v.closed
    let s1 := if o then s.pulse die (640 + 2 * w) else s
    let s2 := if c then s1.pulse die (641 + 2 * w) else s1
    let n := ({ v with
      opened := v.opened || o
      closed := (v.closed || c) && !v.periodic }).catchUp new
    s2.setWin die w { n with opened := n.opened || (c && decide (n.opn ≤ new)) }

/-- A step of device time crosses the windows of every die (R487); `old` gives each die's stamp before it. -/
def State.stepWindows (s : State) (old : Nat → Nat) : State :=
  forEach s.concs s (fun s d => forEach (List.range 8) s (fun s w => s.stepWindow d w (old d) (s.stamp d)))

/-! ## Event pins (R488, R489) -/

/-- The CCLK cycles for which the ball of a pin must hold a level (R488). -/
def State.pinHold (s : State) (die pin : Nat) : Nat :=
  s.afld (pinK die pin + EF.PIN_CFG) 31 16 * 2 ^ s.afld (pinK die pin + EF.PIN_CFG) 11 8

/-- PIN_FILTER_ACCEPT (R488): the ball of an input pin has held a level, after INV, for `held` CCLK cycles. Once that is the filter's time,
the filtered level changes; its producer pulses 3 FCLK cycles later, with the stamp of the run's first threshold crossing. -/
def execPinFilterAccept (die pin stamp held : Nat) (level : Bool) (s : State) : Res :=
  let k := pinK die pin
  .next (if s.efOk die = false ∨ 4 ≤ pin ∨ s.abit (k + EF.PIN_CFG) 0 = true then s
    else
      let s1 := s.putBit (k + EF.PIN_STAT) 1 (level != s.abit (k + EF.PIN_CFG) 2)
      if s.bit (k + EF.PIN_STAT) 0 = level ∨ held < s.pinHold die pin then s1
      else
        (s1.putBit (k + EF.PIN_STAT) 0 level).updEf die (fun e => { e with
          pulses := e.pulses ++ [(592 + 2 * pin + (if level then 0 else 1), stamp, s.cycle + 3)] }))

/-- PIN_PULSE_END (R489): PULSE_LEN has passed, and the pin is driven inactive. -/
def execPinPulseEnd (die pin : Nat) (s : State) : Res :=
  .next (match (Tbl.get (fun _ => (false, none)) (s.efS die).pins pin).2 with
    | some t => if s.efOk die = true ∧ pin < 4 ∧ t ≤ s.cycle then s.drivePin die pin false none else s
    | none => s)

/-! ## Event records (R491, R492) -/

/-- The EVENT payload of R492. -/
def eventPayload (c : EvCap) (lost : Nat) : List Byte :=
  leBytes 1 1 ++ leBytes c.ev.ch 1 ++ leBytes c.ev.ep 2 ++
  leBytes (b2n c.ev.merged + 2 * b2n (decide (656 ≤ c.ev.ep) && decide (c.ev.ep < 672))) 1 ++ zeros 1 ++ leBytes lost 2 ++
  leBytes (dtPack c.ev.stamp) 12 ++ leBytes (dtPack c.cyc) 12 ++ leBytes c.q 2 ++ leBytes c.pins 1 ++ leBytes c.wins 1 ++ zeros 28

/-- EVENT_RECORD_WRITE (R491): the oldest captured event becomes a record, at most one per 4 FCLK cycles. -/
def execEventRecordWrite (die : Nat) (s : State) : Res :=
  let v := s.efS die
  let ready := match v.lastRec with | some c => decide (c + 4 ≤ s.cycle) | none => true
  .next (match v.cap with
    | [] => s
    | c :: rest =>
      if s.efOk die = true ∧ ready = true then
        let k := chK die c.ev.ch + EF.CH_REC
        let stream := die * 128 + s.afld k 6 0
        let valid := s.abit k 31
        (s.setEf die { v with
          cap := rest
          capLost := 0
          lastRec := some s.cycle }).closeRec die 1284
          { typ := 6
            flags := s.unsyncFlag die
            stream := if valid then stream else 0xFFFF
            source := 0x140 + c.ev.ch
            frame := if valid then s.rdN (si stream + SI.FRAME) else 0
            time := c.ev.stamp } (eventPayload c v.capLost)
      else s)

/-! ## Relay lines (R493, R494) -/

/-- RELAY_FORWARD (R493): a steward sends the oldest relay message that reached it on to every present concentrator die, and
delivers it to its journal engine. -/
def execRelayForward (st : Nat) (s : State) : Res :=
  .next (match Tbl.get (fun _ => []) s.relaySt st with
    | [] => s
    | m :: rest =>
      let s1 := { s with
        relaySt := Tbl.set (fun _ => []) s.relaySt st rest
        relayJ := Tbl.set (fun _ => []) s.relayJ st (Tbl.get (fun _ => []) s.relayJ st ++ [(m.line, m.stamp)]) }
      forEach s.concs s1 (fun s d =>
        if s.bit (brs st d + BRS.MOD_STAT) 8 then s.updEf d (fun e => { e with inbox := e.inbox ++ [m] }) else s))

/-- RELAY_MSG_RX (R493, R494): the first copy of a message sets its emission at CYCLE + RELAY_DELAY; one that arrives after that
time is emitted at once and counted. -/
def execRelayMsgRx (die : Nat) (s : State) : Res :=
  let v := s.efS die
  .next (match v.inbox with
    | [] => s
    | m :: rest =>
      let key := (m.src, m.line, m.seq)
      let s1 := s.setEf die { v with inbox := rest }
      if s.efOk die = false ∨ v.seen.contains key = true then s1
      else
        let same := (v.seen.filter (fun x => x.1 == m.src && x.2.1 == m.line)).take 7
        let others := v.seen.filter (fun x => !(x.1 == m.src && x.2.1 == m.line))
        let s2 := s1.updEf die (fun e => { e with seen := key :: same ++ others })
        let at_ := m.cyc + s.fld (ef die + EF.EF_CTL) 16 0 * 65536
        if at_ + 65536 ≤ s.stamp die then
          ((s2.inc (ef die + EF.RELAY_LATE)).efEvent die 6).pulseAt die (656 + m.line) m.stamp
        else s2.updEf die (fun e => { e with due := e.due ++ [(m.line, at_, m.stamp)] }))

/-- RELAY_EMIT (R493): in the first cycle at or after CYCLE + RELAY_DELAY the relay producer pulses with the original stamp. -/
def execRelayEmit (die : Nat) (s : State) : Res :=
  .next (match (s.efS die).due.find? (fun x => decide (x.2.1 ≤ s.stamp die)) with
    | none => s
    | some x => if s.efOk die then (s.updEf die (fun e => { e with due := e.due.erase x })).pulseAt die (656 + x.1) x.2.2 else s)

/-! ## Commit (R495, R496) -/

/-- Whether an offset of the EF block is a shadowed register (R495, R498). -/
def efShadowed (off : Nat) : Bool :=
  decide (off < 0x60000) && !(decide (0x20000 ≤ off) && decide (off < 0x20200) && (off % 0x20 == 0x14 || off % 0x20 == 0x18)) &&
  !(decide (0x50000 ≤ off) && decide (off < 0x50080) && off % 0x20 == 0xC)

/-- Whether a key is a shadowed register of a die's fabric. -/
def efShadowKey (die k : Nat) : Bool := decide (ef die ≤ k) && efShadowed (k - ef die)

/-- Listed entries of one table replaced by those of another, by keys (both in canonical form, the same set of keys). -/
def mergeTbl (p : Nat → Bool) (old new : Tbl Word) : Tbl Word :=
  forEach (new.filter (fun e => p e.1)) (old.filter (fun e => !p e.1)) (fun t e => Tbl.set resetWord t e.1 e.2)

/-- Nodes reachable from `n` in at most `fuel` steps along edges. -/
def reachable (edges : List (Nat × Nat)) : Nat → List Nat → List Nat
  | 0, l => l
  | f + 1, l =>
    let nl := (l ++ (edges.filter (fun e => l.contains e.1)).map (fun e => e.2)).eraseDups
    if nl.length = l.length then l else reachable edges f nl

/-- The edges of R496 between unclocked channels of a snapshot. -/
def loopEdges (g : Nat → Nat) (die : Nat) : List (Nat × Nat) :=
  let un (n : Nat) : Bool := !(g (chK die n + EF.CH_CFG)).testBit 27
  ((List.range 16).map (fun c =>
    let ab := g (lcK die c + EF.LC_INAB)
    let cd := g (lcK die c + EF.LC_INCD)
    let ins := ([ab % 65536, ab / 65536, cd % 65536, cd / 65536].filter (fun h => nbits h 10 8 == 1)).map (fun h => nbits h 5 0)
    let row := g (ef die + EF.EN_LO + 8 * (624 + c)) + g (ef die + EF.EN_HI + 8 * (624 + c)) * 2 ^ 32
    let outs := (List.range 64).filter (fun n => row.testBit n && un n)
    ((ins.filter un).map (fun a => outs.map (fun b => (a, b)))).flatten)).flatten

/-- A channel on a loop of unclocked channels, if there is one (R496). -/
def loopAt (g : Nat → Nat) (die : Nat) : Option Nat :=
  let es := loopEdges g die
  (List.range 64).find? (fun n => (reachable es 64 ((es.filter (fun e => e.1 == n)).map (fun e => e.2))).contains n)

/-- Whether an input half is refused (R483). -/
def halfBad (h : Nat) : Bool :=
  let i := nbits h 5 0
  match nbits h 10 8 with
  | 2 => decide (8 ≤ i)
  | 3 => decide (4 ≤ i)
  | 4 => decide (16 ≤ i)
  | 6 => true
  | 7 => true
  | _ => false

/-- Whether a cell of a snapshot is refused (R480, R483, R485). -/
def cellBad (g : Nat → Nat) (die c : Nat) : Bool :=
  let k := lcK die c
  let ctl := g (k + EF.LC_CTL)
  let filt := nbits ctl 9 8
  let ab := g (k + EF.LC_INAB)
  let cd := g (k + EF.LC_INCD)
  nbits ctl 30 29 == 3 || [ab % 65536, ab / 65536, cd % 65536, cd / 65536].any halfBad ||
  (filt == 1 && !ctl.testBit 0) || (filt == 2 && ctl.testBit 0) || (filt != 0 && g (k + EF.LC_N) % 65536 == 0)

/-- OPEN or CLOSE of window `w` in a snapshot as a DT96 value, `o` the first word's offset. -/
def winDt (g : Nat → Nat) (die w o : Nat) : Nat :=
  let k := ef die + 0x20 * w + o
  g k + g (k + 4) * 2 ^ 32 + g (k + 8) * 2 ^ 64

/-- The same as a stamp. -/
def winTime (g : Nat → Nat) (die w o : Nat) : Nat := dtUnpack (winDt g die w o)

/-- Whether a window of a snapshot is refused (R486): also where OPEN or CLOSE is no valid DT96 value (R18). -/
def winBad (g : Nat → Nat) (die w : Nat) : Bool :=
  let ctl := g (ef die + 0x20 * w + EF.TW_CTL)
  let per := g (ef die + 0x20 * w + EF.TW_PER)
  let o := winTime g die w EF.TW_OPEN0
  let c := winTime g die w EF.TW_CLOSE0
  ctl.testBit 0 && (!dtValid (winDt g die w EF.TW_OPEN0) || !dtValid (winDt g die w EF.TW_CLOSE0) || decide (c ≤ o) || (ctl.testBit 1 && (decide (per < 1000) || decide (per * 65536 < c - o))))

/-- Words of EF_CSTAT after a check: LAST, UNIT, CHANNEL. -/
def State.efStat (s : State) (die last unit ch : Nat) : State :=
  s.wrN (ef die + EF.EF_CSTAT) (last + ch % 64 * 256 + unit % 16 * 65536)

/-- EF_COMMIT (R495): the shadows are snapshot and their check starts; a commit during a check is ignored with BUSY. -/
def execEfCommit (die req v : Nat) (s : State) : Res :=
  .next (s.onKey (ef die + EF.EF_COMMIT) req (fun s =>
    if v.testBit 0 = false ∨ 4 ≤ die then s
    else match (s.efS die).snap with
      | some _ => s.wrFld (ef die + EF.EF_CSTAT) 2 0 4
      | none => (s.updEf die (fun e => { e with snap := some (s.regs.filter (fun x => efShadowKey die x.1)) })).setBit
          (ef die + EF.EF_CSTAT) 4))

/-- A window whose registers a commit changed takes its new times; occurrences already past do not pulse (log entry 40). -/
def State.loadWin (s : State) (die w : Nat) : State :=
  let g := fun k => s.actN k
  let ctl := g (ef die + 0x20 * w + EF.TW_CTL)
  let t := s.stamp die
  let v : WinS := ({
    en := ctl.testBit 0
    periodic := ctl.testBit 1
    opn := winTime g die w EF.TW_OPEN0
    cls := winTime g die w EF.TW_CLOSE0
    per := g (ef die + 0x20 * w + EF.TW_PER) * 65536 } : WinS).catchUp t
  s.setWin die w { v with
    opened := decide (v.opn ≤ t)
    closed := decide (v.cls ≤ t)
    prev := false }

/-- Whether any of `n` words from a key differ between two register files. -/
def wordsDiffer (a b : Nat → Word) (k n : Nat) : Bool := (List.range n).any (fun i => decide (a (k + 4 * i) ≠ b (k + 4 * i)))

/-- An accepted snapshot becomes active (R495): cells and windows whose registers changed start afresh. -/
def State.efActivate (s : State) (die : Nat) (snap : Tbl Word) : State :=
  let s1 := { s with acts := mergeTbl (efShadowKey die) s.acts snap }
  let s2 := forEach (List.range 16) s1 (fun t c =>
    if wordsDiffer s.act s1.act (lcK die c + EF.LC_CTL) 5 then
      (t.wr (lcK die c + EF.LC_STAT) 0#32).setCell die c { t.cellS die c with since := none } else t)
  let s3 := forEach (List.range 8) s2 (fun t w =>
    if wordsDiffer s.act s1.act (ef die + 0x20 * w + EF.TW_OPEN0) 8 then t.loadWin die w else t)
  let s4 := forEach (List.range 4) s3 (fun t i =>
    let p := Tbl.get (fun _ => (false, none)) (t.efS die).pins i
    if s1.abit (pinK die i + EF.PIN_CFG) 0 ∧ s1.act (pinK die i + EF.PIN_CFG) ≠ s.act (pinK die i + EF.PIN_CFG) then t.drivePin die i p.1 p.2
    else if s.abit (pinK die i + EF.PIN_CFG) 0 ∧ s1.abit (pinK die i + EF.PIN_CFG) 0 = false then t.releasePin die i
    else t)
  (s4.undirty 5 die).updEf die (fun e => { e with locked := true })

/-- What waits of the cycles up to now is carried, oldest cycle first (R495); `fuel` bounds the cycles. -/
def State.efFlush (die : Nat) : Nat → State → State
  | 0, s => s
  | n + 1, s => match s.efDue die with
    | some c => State.efFlush die n (s.efTake die c)
    | none => s

/-- EF_CHECK_DONE (R495, R496): the snapshot becomes active or is refused; loops are looked for first, then cells, then
windows (log entry 41). -/
def execEfCheckDone (die : Nat) (s : State) : Res :=
  .next (match (s.efS die).snap with
    | none => s
    | some snap =>
      let g := fun k => (Tbl.get resetWord snap k).toNat
      let s1 := s.updEf die (fun e => { e with snap := none })
      match loopAt g die with
      | some ch => (s1.efStat die 1 0 ch).efEvent die 1
      | none =>
        if (List.range 64).any (fun n => nbits (g (chK die n + EF.CH_CFG)) 30 29 == 3) then
          ((s1.efStat die 2 (s.freeNat 0) (s.freeNat 1)).skipFree 2).efEvent die 1
        else match (List.range 16).find? (fun c => cellBad g die c) with
          | some c => (s1.efStat die 2 c 0).efEvent die 1
          | none => match (List.range 8).find? (fun w => winBad g die w) with
            | some w => (s1.efStat die 3 w 0).efEvent die 1
            | none =>
              let s2 := State.efFlush die ((s1.efS die).pulses.length + (s1.efS die).held.length) s1
              ((s2.efActivate die snap).efStat die 0 0 0).efEvent die 0)

/-! ## Writes of shadows (R480) -/

/-- What the path of a requester may do to a unit whose committed CH_CFG or LCn_CTL is `c`: 0 nothing (locked), 1 OWNER only,
2 all but OWNER, 3 all (R480). A path that is none of the stewards' and keepers' is admitted by OWNER ANY only. -/
def ownRight (c req : Nat) : Nat :=
  let keeper := req == 9 || req == 10
  let steward := decide (1 ≤ req) && decide (req ≤ 8) || req == 0x20
  let o := nbits c 30 29
  if c.testBit 31 then 0
  else if keeper then (if o = 0 ∨ o = 2 then 2 else 4)
  else if steward then (if o = 0 ∨ o = 1 then 3 else 1)
  else (if o = 0 then 3 else 4)

/-- The bits of a unit's register that a right admits; right 4 admits none. -/
def rightMask (right : Nat) (ctl : Bool) : Nat :=
  match right with
  | 1 => if ctl then 0x60000000 else 0
  | 2 => if ctl then 0x9FFFFFFF else 0xFFFFFFFF
  | 3 => 0xFFFFFFFF
  | _ => 0

/-- The mask of bits a path may write in the shadow register at `off`, and whether refusals of it count (R480: not for a locked
unit). -/
def State.efMask (s : State) (die off req : Nat) : Nat × Nat :=
  let ch (n : Nat) : Nat := ownRight (s.actN (chK die n + EF.CH_CFG)) req
  let lc (c : Nat) : Nat := ownRight (s.actN (lcK die c + EF.LC_CTL)) req
  if off < 0x1800 then
    let base := if off % 8 = 4 then 32 else 0
    (maskOf 32 (fun b => decide (ch (base + b) = 2) || decide (ch (base + b) = 3)),
      maskOf 32 (fun b => decide (ch (base + b) = 1) || decide (ch (base + b) = 4)))
  else if 0x10000 ≤ off ∧ off < 0x10400 then
    let r := ch ((off - 0x10000) / 16)
    (rightMask r (off % 16 == 0), if r = 0 then 0 else 0xFFFFFFFF - rightMask r (off % 16 == 0))
  else if 0x20000 ≤ off ∧ off < 0x20200 then
    let r := lc ((off - 0x20000) / 32)
    (rightMask r (off % 32 == 0), if r = 0 then 0 else 0xFFFFFFFF - rightMask r (off % 32 == 0))
  else (0xFFFFFFFF, 0)

/-- EF_SHADOW_WRITE (R14, R480, R498): only the fields the writer's path may write change, by the committed OWNER and LOCK, so that a LOCK
written and not yet committed can be written back; V33 is fixed by the first commit; a write that would have changed a field it may not write is counted once. -/
def execEfShadowWrite (die off req v : Nat) (s : State) : Res :=
  .next (s.onKey (ef die + off) req (fun s =>
    match lookupReg (ef die + off) with
    | none => s.accessFault req (keyAddr (ef die + off)) 1
    | some (r, _, _) =>
      if 4 ≤ die ∨ efShadowed off = false then s
      else
        let k := ef die + off
        let m := s.efMask die off req
        let cur := s.rdN k
        let fixed := if (s.efS die).locked then r.lock else 0
        let want := v % 2 ^ 32
        let refused := (want ^^^ cur) &&& r.wr &&& m.2
        let ok := r.wr &&& m.1 &&& (0xFFFFFFFF - fixed)
        let s1 := if refused ≠ 0 then (s.inc (ef die + EF.OWNER_REFUSED)).efEvent die 7 else s
        s1.wrN k ((cur &&& (0xFFFFFFFF - ok)) ||| (want &&& ok))))

/-- CELL_CLR (R485): Q is 0 and the cell's counts are cleared, without a pulse; the write follows R480. -/
def execCellClr (die cell req v : Nat) (s : State) : Res :=
  .next (s.onKey (lcK die cell + EF.LC_CMD) req (fun s =>
    let r := ownRight (s.actN (lcK die cell + EF.LC_CTL)) req
    if v.testBit 0 = false ∨ 4 ≤ die ∨ 16 ≤ cell ∨ r = 0 then s
    else if r = 1 ∨ r = 4 then (s.inc (ef die + EF.OWNER_REFUSED)).efEvent die 7
    else (s.wr (lcK die cell + EF.LC_STAT) 0#32).setCell die cell {}))

/-- SW_PULSE (R473): the software producers named pulse. -/
def execSwPulse (die req v : Nat) (s : State) : Res :=
  .next (s.onKey (ef die + EF.EF_SW_PULSE) req (fun s =>
    if 4 ≤ die then s else forEach (List.range 8) s (fun s i => if v.testBit i then s.pulse die (736 + i) else s)))

end Sys2Proof.Machine
end

