-- ==== Sys2Proof/Machine/Journal.lean ====
section
/-! DEFINITION. The rewind of a ring (R433), and the journal and the recording drive (R521-R554). -/
namespace Sys2Proof.Machine
set_option Elab.async false

/-! ## Rewind (R433) -/

/-- How many of the records from ring position `f` end at or below `h`. -/
def endedBy (h : Nat) : Nat → List Rec → Nat
  | _, [] => 0
  | f, r :: rs => if f + r.data.length ≤ h then 1 + endedBy h (f + r.data.length) rs else 0

/-- The rewind of the ring of channel `c` of engine `e`, which queue `q` feeds, against the position `h` up to which the reader
has consumed it (R433): the new state, the ring position F, and the bytes by which RING_TOTAL falls. -/
def State.rewind (s : State) (die e c q h : Nat) : State × Nat × Nat :=
  let v := s.queue die q
  let total := s.ringTotal die e c
  let rb := (v.ret.map (fun r => r.data.length)).sum + v.pos
  let f0 := total - rb
  let size := 2 ^ s.fld (bgc die e c + BG.RING_LOG) 5 0
  let s1 := if f0 < h then s.ackQueue die q (endedBy h f0 v.ret) else s
  let f := Nat.max f0 h
  (((s1.setTotal die e c f).setCredit die e c (size - (f - h))), f, total - f)

/-! ## Registers and totals of the engine -/

def State.jnS (s : State) (st : Nat) : JnS := Tbl.get (fun _ => {}) s.jns st
def State.setJn (s : State) (st : Nat) (v : JnS) : State := { s with jns := Tbl.set (fun _ => {}) s.jns st v }
def State.updJn (s : State) (st : Nat) (f : JnS → JnS) : State := s.setJn st (f (s.jnS st))
def State.jnEvent (s : State) (st i : Nat) : State := s.setBit (jn st + JN.JN_EVENTS) i

/-- JN_STAT.STATE (R553). -/
def State.jnState (s : State) (st : Nat) : Nat := s.fld (jn st + JN.JN_STAT) 2 0
def State.setJnState (s : State) (st n : Nat) : State := s.wrFld (jn st + JN.JN_STAT) 2 0 n

/-- A 64-bit total of the JN block, its low half at offset `o`. -/
def State.jnTotal (s : State) (st o : Nat) : Nat := s.rdPair (jn st + o) (jn st + o + 4)
def State.setJnTotal (s : State) (st o n : Nat) : State := s.wrPair (jn st + o) (jn st + o + 4) n
def State.addJnTotal (s : State) (st o n : Nat) : State := s.setJnTotal st o (s.jnTotal st o + n)

/-- Whether the drive is used in conventional mode (R521, R551). -/
def State.jnConv (s : State) (st : Nat) : Bool := !s.bit (jn st + JN.JN_STAT) 3

/-- Lanes in use: LANES as of the last commit, and one in conventional mode (R531, R551, R552). -/
def State.laneCount (s : State) (st : Nat) : Nat := if s.jnConv st then 1 else (s.jnS st).laneN

/-- FLUSH_MAX in µs: the longest Flush of the last 24 h (R552), or the value reported since the attach where none lies there. -/
def State.flushMax (s : State) (st : Nat) : Nat :=
  match (s.jnS st).flushes.filter (fun a => decide (s.cycle < a.1 + 86400000 * 1000000)) with
  | [] => s.rdN (jn st + JN.FLUSH_MAX)
  | l => ceilDiv ((l.map (fun a => a.2)).foldl Nat.max 0) 1000

/-- The rated endurance E in bytes (R548): ENDUR_OVR, else what the drive gives. -/
def State.endur (s : State) (st : Nat) : Nat :=
  if s.rdN (jn st + JN.ENDUR_OVR) ≠ 0 then s.rdN (jn st + JN.ENDUR_OVR) * 1000000000 else (s.jnS st).endurance

/-- What the drive gives as E (R548): the Endurance Estimate, else one drive write per day for 5 years. -/
def driveEndur (capacity : Nat) (estimate : Option Nat) : Nat :=
  match estimate with | some e => e * 1000000000 | none => capacity * 7305 / 4

/-- WA_HOST and WA_MEDIA follow the totals (R546, R551, R552); they keep 1 while nothing has been accepted. -/
def State.jnRatios (s : State) (st : Nat) : State :=
  let p := s.jnTotal st JN.PAYLOAD_LO
  let ratio (o : Nat) : Nat := if p = 0 then 0x10000 else Nat.min 0xFFFFFFFF (s.jnTotal st o * 65536 / p)
  (s.wrN (jn st + JN.WA_HOST) (ratio JN.HOST_LO)).wrN (jn st + JN.WA_MEDIA)
    (if s.jnConv st then 0xFFFFFFFF else ratio JN.MEDIA_LO)

/-- Host bytes written: HOST counts, and crossing a multiple of 2^30 makes a checkpoint due (R529, R546). -/
def State.hostWrote (s : State) (st n : Nat) : State :=
  let s1 := s.addJnTotal st JN.HOST_LO n
  let h := s1.jnTotal st JN.HOST_LO
  let s2 := if (s.jnS st).ckptNext ≤ h then s1.updJn st (fun v => { v with
      ckptDue := true
      ckptNext := (h / 2 ^ 30 + 1) * 2 ^ 30 }) else s1
  s2.jnRatios st

/-- Bytes in flight: INFLIGHT in units of 4 KiB rounded up (R535, R552). -/
def State.setInflight (s : State) (st n : Nat) : State :=
  (s.updJn st (fun v => { v with inflight := n })).wrN (jn st + JN.INFLIGHT) (ceilDiv n 4096)

/-- The window in bytes that R535 applies: WINDOW, or MIN_WINDOW under SHORT_POLICY RISK while WINDOW is 0 (R574). -/
def State.jnWindow (s : State) (st : Nat) : Nat :=
  let w := s.rdN (jn st + JN.WINDOW)
  (if w = 0 ∧ s.abit (hu st + HU.HU_CTL) 2 then s.actN (hu st + HU.MIN_WINDOW) else w) * 4096

/-- Journal drive number of a steward: 0 on SA's root port, 1 on SB's. -/
def drv (st : Nat) : Nat := st - 4

/-- Whether records go to the partner's engine (R541). -/
def State.forwarding (s : State) (st : Nat) : Bool := s.bit (jn st + JN.JN_STAT) 5

/-- Whether a steward has a partner that can journal for it. -/
def State.jnPartner (s : State) (st : Nat) : Bool := s.present (partner st) && !s.peerLost st

/-! ## Journal records (R524-R529) -/

/-- A journal record (R524): header of R399 and payload; SEQ counts journal records per drive. -/
def State.jrec (s : State) (st typ source time : Nat) (payload : List Byte) : List Byte :=
  headerBytes { typ := typ, source := source, time := time, flags := s.unsyncFlag st } payload.length (s.jnS st).seq (pcrcOf payload)
    (s.fld (tb s.lead + TB.HIER_CTL) 3 0 * 1024) (s.rdN (upb st + UP.UP_EPOCH)) ++ payload

/-- The SEQ of journal records moves on. -/
def State.jseqUse (s : State) (st : Nat) : State := s.updJn st (fun v => { v with seq := (v.seq + 1) % 2 ^ 32 })

/-- The payload of a ZONE_HEADER (R526). -/
def zonePayload (d lane zone medium jepoch prev jseq : Nat) : List Byte :=
  leBytes 1 1 ++ leBytes d 1 ++ leBytes lane 1 ++ zeros 1 ++ leBytes zone 4 ++ leBytes medium 16 ++ leBytes jepoch 4 ++
  leBytes prev 4 ++ leBytes jseq 8 ++ zeros 24

/-- The payload of an extent mark (R527). -/
def markPayload (d lane nrec jseq medium nlb jepoch prev : Nat) : List Byte :=
  leBytes 1 1 ++ leBytes d 1 ++ leBytes lane 1 ++ zeros 1 ++ leBytes nrec 4 ++ leBytes jseq 8 ++ leBytes medium 16 ++
  leBytes nlb 4 ++ leBytes jepoch 4 ++ leBytes prev 8 ++ zeros 16

/-- The payload of a checkpoint (R529). -/
def ckptPayload (d zone jseq host : Nat) (v : JnS) : List Byte :=
  leBytes 1 1 ++ leBytes d 1 ++ zeros 2 ++ leBytes zone 4 ++ leBytes jseq 8 ++ leBytes host 8 ++ leBytes v.ckptPrev 8 ++
  leBytes (dtPack (v.ckptFirst.getD 0)) 12 ++ zeros 4 ++ leBytes v.ckptRecs 4 ++ zeros 12 ++
  ((List.range 512).map (fun i => leBytes (Tbl.get (fun _ => 0xFFFFFFFF) v.lastSeq i) 4)).flatten ++ zeros 1920

/-- The payload of the MEDIUM_IDENTITY record (R525); zones and their capacity are the virtual ones in conventional mode (R551). -/
def identityPayload (d mode medium serial first zones cap endur : Nat) (i : DriveInfo) : List Byte :=
  leBytes 1 1 ++ leBytes d 1 ++ zeros 2 ++ leBytes mode 4 ++ leBytes medium 16 ++ leBytes (serial / 2 * 2) 8 ++
  leBytes (dtPack first) 12 ++ leBytes zones 4 ++ leBytes cap 8 ++ leBytes (endur / 1000000000) 4 ++ zeros 4 ++
  (padTo 20 i.sn).take 20 ++ (padTo 40 i.mn).take 40 ++ zeros 4

/-- A block of the medium that holds one record (R524). -/
def zblock (b : List Byte) : List Byte := padTo 4096 b

/-- A command to the drive (R522): 0 Flush, 1 Write, 2 Read, 3 Get Log Page, 4 Report Zones, 5 Finish, 6 Reset, 7 Zone Append,
8 Deallocate, 9 shutdown by CC.SHN (1 normal, 0 abrupt), 10 Asynchronous Event Request; its arguments, and the bytes it writes. -/
def State.nvme (s : State) (st op : Nat) (args : List Nat) (data : List Byte) : State :=
  s.emit .nvme st (op :: args ++ data.map (fun b => b.toNat))

/-! ## JSEQ leases (R532) -/

/-- The highest JSEQ of the anchors in one steward's store; a slot is valid when its CRC matches and its STATE is not FREE
(R543). -/
def State.slotValid (s : State) (st slot : Nat) : Bool :=
  let a := 0x0C00000000 + 4096 * slot
  leNat (s.bytesAt st (a + 2) 2) != 0 && leNat (s.bytesAt st (a + 0xFFC) 4) == crc32c (s.bytesAt st a 0xFFC)

def State.anchorMaxJseq (s : State) (st : Nat) : Nat :=
  ((List.range 2048).filter (fun i => s.slotValid st i)).foldl
    (fun m i => Nat.max m (leNat (s.bytesAt st (0x0C00000000 + 4096 * i + 0x20) 8))) 0

/-- The lead grants a lease of 4,096 numbers; a new lead's first lease lies 4,096 above the highest JSEQ of any anchor it can
read (R532). -/
def State.grantLease (s : State) (st : Nat) : State :=
  let l := s.lead
  let start := match (s.jnS l).granted with
    | some n => n
    | none =>
      let own := s.anchorMaxJseq l
      (if s.jnPartner l then Nat.max own (s.anchorMaxJseq (partner l)) else own) + 4097
  (s.updJn l (fun v => { v with granted := some (start + 4096) })).updJn st (fun v => { v with
    lease := v.lease ++ [(start, start + 4096)] })

/-- The next JSEQ of a steward's lease, and the state after it is used. -/
def State.takeJseq (s : State) (st : Nat) : State × Nat :=
  let s1 := if (s.jnS st).lease = [] then s.grantLease st else s
  match (s1.jnS st).lease with
  | [] => (s1, 0)
  | (a, b) :: rest => (s1.updJn st (fun v => { v with lease := if a + 1 < b then (a + 1, b) :: rest else rest }), a)

/-- JSEQ_LEASE (R532). -/
def execJseqLease (st : Nat) (s : State) : Res :=
  .next (if s.stOk st && decide ((s.jnS st).lease.length ≤ 1) then s.grantLease st else s)

/-! ## Lanes, zones and appends (R527, R530, R531) -/

def JnS.lane (v : JnS) (l : Nat) : LaneS := v.lanes.getD l ({} : LaneS)
def JnS.setLane (v : JnS) (l : Nat) (x : LaneS) : JnS :=
  { v with lanes := (v.lanes ++ List.replicate (l + 1 - v.lanes.length) ({} : LaneS)).set l x }

/-- Granule G in bytes (R552). -/
def State.gran (s : State) (st : Nat) : Nat := s.rdN (jn st + JN.GRAN)

/-- Zones of the medium, with their size and capacity in blocks; virtual ones in conventional mode (R551). -/
def JnS.zoneSize (v : JnS) (conv : Bool) : Nat := if conv then 262144 else (v.drive.map (fun d => d.zoneSize)).getD 1
def JnS.zoneCap (v : JnS) (conv : Bool) : Nat := if conv then 262144 else (v.drive.map (fun d => d.zoneCap)).getD 0
def JnS.zoneN (v : JnS) (conv : Bool) : Nat :=
  if conv then (v.drive.map (fun d => d.capacity / 4096 / 262144)).getD 0 else (v.drive.map (fun d => d.zones)).getD 0

/-- Whether a lane holds a zone. -/
def JnS.held (v : JnS) (z : Nat) : Bool := v.lanes.any (fun l => l.zone == some z)

/-- Whether an append of a lane is outstanding. -/
def JnS.busy (v : JnS) (l : Nat) : Bool := v.exts.any (fun e => e.lane == l && e.sent && !e.done)

/-- Blocks of an extent that its next append writes: at most the Zone Append Size Limit (R531); a Write command takes all (R551). -/
def State.pieceLen (s : State) (st : Nat) (e : Extent) : Nat :=
  if s.jnConv st then e.nlb - e.wrote
  else Nat.min (e.nlb - e.wrote) (((s.jnS st).drive.map (fun d => d.zasl)).getD 262144 / 4096)

/-- The next append of an extent goes to the drive (R531, R546). -/
def State.sendPiece (s : State) (st : Nat) (e : Extent) : State :=
  let n := s.pieceLen st e
  (s.nvme st (if s.jnConv st then 1 else 7) [e.lane, e.lba + e.wrote] (slice e.data (e.wrote * 4096) (n * 4096))).hostWrote st (n * 4096)

/-- The next extent of a lane is sent when none is outstanding (R531). -/
def State.kick (s : State) (st l : Nat) : State :=
  let v := s.jnS st
  if v.busy l then s
  else match v.exts.find? (fun e => e.lane == l && !e.sent && !e.done && decide (e.nlb ≠ 0)) with
    | none => s
    | some e =>
      let w : JnS := { v with exts := v.exts.map (fun (x : Extent) => if x.id = e.id then { x with sent := true } else x) }
      let used := (List.range (s.laneCount st)).filter (fun i => w.busy i)
      (s.setJn st { w with
        busySince := if used.length = s.laneCount st then some (w.busySince.getD s.cycle) else w.busySince }).sendPiece st e

/-- LANES_OPEN and COMMITTING of JN_STAT follow the engine (R553). -/
def State.jnFresh (s : State) (st : Nat) : State :=
  let v := s.jnS st
  (s.wrFld (jn st + JN.JN_STAT) 11 8 (v.lanes.filter (fun l => l.zone.isSome)).length).putBit (jn st + JN.JN_STAT) 6 (v.commits ≠ [])

/-- A lane's zone is finished. -/
def State.finishZone (s : State) (st l : Nat) : State :=
  let v := s.jnS st
  match (v.lane l).zone with
  | none => s
  | some z => ((if s.jnConv st then s else s.nvme st 5 [z] []).setJn st (v.setLane l { v.lane l with zone := none })).jnFresh st

/-- Zones that their lanes have left are finished once every append in them has completed. -/
def State.finishDue (s : State) (st : Nat) : State :=
  let v := s.jnS st
  let zs := v.zoneSize (s.jnConv st)
  let ready := v.closing.filter (fun z => v.exts.all (fun e => e.done || e.nlb == 0 || e.lba / zs != z))
  forEach ready (s.setJn st { v with closing := v.closing.filter (fun z => !ready.contains z) }) (fun s z =>
    if s.jnConv st then s else s.nvme st 5 [z] [])

/-- A lane leaves its zone, which has no room for the next extent. -/
def State.leaveZone (s : State) (st l : Nat) : State :=
  let v := s.jnS st
  match (v.lane l).zone with
  | none => s
  | some z =>
    ((s.setJn st { v.setLane l { v.lane l with zone := none } with closing := v.closing ++ [z] }).finishDue st).jnFresh st

/-- The zone a lane opens next (R530): an empty one, or, with RECYCLE, the full data zone with the lowest FIRST_JSEQ. -/
def State.pickZone (s : State) (st : Nat) : Option (Nat × Bool) :=
  let v := s.jnS st
  let zs := (List.range (v.zoneN (s.jnConv st))).drop 1
  match zs.find? (fun z => (Tbl.get (fun _ => none) v.zones z).isNone && !v.held z) with
  | some z => some (z, false)
  | none =>
    if s.bit (jn st + JN.JN_CTL) 2 = false then none
    else
      let full := zs.filter (fun z => !v.held z && !v.closing.contains z)
      match full with
      | [] => none
      | z :: rest =>
        let first (x : Nat) : Nat := (Tbl.get (fun _ => none) v.zones x).getD 0
        some (rest.foldl (fun a x => if first x < first a then x else a) z, true)

/-- A lane opens a zone whose first extent has number `jseq` (R526, R530); its header is the first append in it; where no zone
can be had the journal is full. -/
def State.openZone (s : State) (st l jseq : Nat) : State :=
  match s.pickZone st with
  | none => (s.setJnState st 7).jnEvent st 30
  | some (z, reset) =>
    let v := s.jnS st
    let conv := s.jnConv st
    let start := z * v.zoneSize conv
    let s1 := if reset then ((s.nvme st (if conv then 8 else 6) [z] []).inc (jn st + JN.RECYCLED)).jnEvent st 23 else s
    let hdr := zblock (s1.jrec st 0x0C 0x0302 (s.stamp st) (zonePayload (drv st) l z v.medium v.jepoch v.prevZone jseq))
    let s2 := s1.updJn st (fun v => { (v.setLane l { v.lane l with
        zone := some z
        wp := start + 1
        comWp := start + 1
        validEnd := none }) with
      zones := Tbl.set (fun _ => none) v.zones z (some jseq)
      prevZone := z
      exts := v.exts ++ [{ id := v.nextExt, lane := l, recs := [], data := hdr, lba := start, nlb := 1 }]
      nextExt := v.nextExt + 1 })
    ((s2.jseqUse st).kick st l).jnFresh st

/-- Bytes of an extent before its padding: its mark, a checkpoint that is due, and its records. -/
def extRaw (ckpt : Bool) (recs : List (List Byte)) : Nat :=
  112 + (if ckpt then 4080 else 0) + (recs.map (fun r => r.length)).sum

/-- Blocks of an extent that starts at block `off` of its zone, for a granule `g` (R527). -/
def extBlocks (g off raw : Nat) : Nat := (roundUp (off * 4096 + raw) g - off * 4096) / 4096

/-- An extent of a lane is closed with the records given, numbered, laid out and placed at the lane's write pointer (R527,
R529). -/
def State.closeExtent (s : State) (st l : Nat) (recs : List (List Byte)) : State :=
  let (s1, jseq) := s.takeJseq st
  let s2 := if ((s1.jnS st).lane l).zone = none then s1.openZone st l jseq else s1
  let v := s2.jnS st
  match (v.lane l).zone with
  | none => s2.setJn st { v with
      exts := v.exts ++ [{ id := v.nextExt, lane := l, jseq := jseq, recs := recs }]
      nextExt := v.nextExt + 1 }
  | some z =>
    let ckpt := v.ckptDue
    let off := (v.lane l).wp - z * v.zoneSize (s.jnConv st)
    let raw := extRaw ckpt recs
    let nlb := extBlocks (s.gran st) off raw
    let nrec := recs.length + b2n ckpt
    let mark := s2.jrec st 0x0A 0x0301 (s.stamp st) (markPayload (drv st) l nrec jseq v.medium nlb v.jepoch v.prevJseq)
    let s3 := s2.jseqUse st
    let cp := if ckpt then s3.jrec st 0x0A 0x0300 (s.stamp st) (ckptPayload (drv st) z jseq (s2.jnTotal st JN.HOST_LO) v) else []
    let s4 := if ckpt then s3.jseqUse st else s3
    let data := padTo (nlb * 4096) (mark ++ cp ++ recs.flatten)
    let s5 := s4.updJn st (fun v => { (v.setLane l { v.lane l with
        wp := (v.lane l).wp + nlb
        cur := [] }) with
      exts := v.exts ++ [{ id := v.nextExt, lane := l, jseq := jseq, recs := recs, data := data, lba := (v.lane l).wp, nlb := nlb }]
      nextExt := v.nextExt + 1
      prevJseq := jseq
      ckptDue := false
      ckptPrev := if ckpt then (v.lane l).wp else v.ckptPrev
      ckptRecs := if ckpt then 0 else v.ckptRecs
      ckptFirst := if ckpt then none else v.ckptFirst })
    ((s5.addJnTotal st JN.PAD_LO (nlb * 4096 - raw)).kick st l)

/-- The current extent of a lane is closed. -/
def State.closeLane (s : State) (st l : Nat) : State :=
  let v := s.jnS st
  let recs := (v.lane l).cur
  if recs = [] then s else (s.setJn st (v.setLane l { v.lane l with cur := [] })).closeExtent st l recs

/-- Padding that closing every current extent would need (R540). -/
def State.padNeed (s : State) (st : Nat) : Nat :=
  let v := s.jnS st
  ((List.range v.lanes.length).map (fun l =>
    let x := v.lane l
    if x.cur = [] then 0
    else
      let off := match x.zone with | some z => x.wp - z * v.zoneSize (s.jnConv st) | none => 1
      let raw := extRaw v.ckptDue x.cur
      extBlocks (s.gran st) off raw * 4096 - raw)).sum

/-! ## Commit (R540) -/

/-- The head commit goes on: once the appends of its extents have completed, Flush is submitted, and the commit covers the
extents completed by then. -/
def State.jnAdvance (s : State) (st : Nat) : State :=
  let v := s.jnS st
  match v.commits with
  | [] => s.jnFresh st
  | c :: rest =>
    if c.phase = 2 ∧ c.exts.all (fun i => v.exts.all (fun e => e.id != i || e.done)) = true then
      ((s.setJn st { v with
        commits := { c with phase := 3 } :: rest
        covered := (v.exts.filter (fun e => e.done)).map (fun e => e.id)
        flushAt := s.cycle }).nvme st 0 [] []).jnFresh st
    else s.jnFresh st

/-- A commit begins (R540): every current extent is closed. `kind` 0 ordinary, 1 final (it supersedes those under way and covers
their extents; a flush that one of them has submitted still completes), 2 detach. LANES takes effect, and lanes above it leave their
zones (R531, R552). -/
def State.beginCommit (s : State) (st kind : Nat) : State :=
  let s1 := forEach (List.range (s.jnS st).lanes.length) s (fun s l => s.closeLane st l)
  let v := s1.jnS st
  let mine := (v.exts.map (fun e => e.id)).filter (fun i => kind = 1 || !v.commits.any (fun c => c.exts.contains i))
  let c : CommitS := { kind := kind, exts := mine }
  let s2 := s1.setJn st { v with
    commits := if kind = 1 then [c] else v.commits ++ [c]
    firstAcc := none
    accBytes := 0
    laneN := Nat.max 1 (s.fld (jn st + JN.LANES) 3 0)
    staleFlush := if kind = 1 ∧ v.commits.any (fun c => c.phase == 3) = true then v.staleFlush + 1 else v.staleFlush }
  (forEach ((List.range v.lanes.length).drop (s2.laneCount st)) s2 (fun s l => s.leaveZone st l)).jnAdvance st

/-- Whether the engine can commit. -/
def State.jnLive (s : State) (st : Nat) : Bool := s.stOk st && (s.jnState st == 3 || s.jnState st == 7) && !(s.jnS st).final

/-- COMMIT_NOW (R540). -/
def execCommitNow (st req v : Nat) (s : State) : Res :=
  .next (s.onKey (jn st + JN.JN_CMD) req (fun s => if v.testBit 0 && s.jnLive st then s.beginCommit st 0 else s))

/-- COMMIT_LAT_MAX (R540): LAT_MAX has passed since the first acceptance; PAD_OVER counts the commit when its padding exceeds
the limit. -/
def execCommitLatMax (st : Nat) (s : State) : Res :=
  .next (match (s.jnS st).firstAcc with
    | none => s
    | some t =>
      if s.jnLive st = false ∨ s.cycle < t + msec (s.fld (jn st + JN.COMMIT_LAT) 31 16) then s
      else
        let pads := decide (s.rdN (jn st + JN.PAD_LIMIT) * (s.jnS st).accBytes < s.padNeed st * 1000000)
        let s1 := if pads then (s.inc (jn st + JN.PAD_OVER)).jnEvent st 1 else s
        s1.beginCommit st 0)

/-- COMMIT_LAT_MIN (R540): LAT_MIN has passed, and the padding is within PAD_LIMIT ppm of the bytes accepted. -/
def execCommitLatMin (st : Nat) (s : State) : Res :=
  .next (match (s.jnS st).firstAcc with
    | none => s
    | some t =>
      if s.jnLive st = true ∧ t + msec (s.fld (jn st + JN.COMMIT_LAT) 15 0) ≤ s.cycle ∧
        s.padNeed st * 1000000 ≤ s.rdN (jn st + JN.PAD_LIMIT) * (s.jnS st).accBytes then s.beginCommit st 0 else s)

/-- WRITE_RATE: the highest append rate over 100 ms in which every used lane was busy, in MB/s (R535, R552). -/
def State.measureRate (s : State) (st n : Nat) : State :=
  let v := s.jnS st
  let log := (v.appends ++ [(s.cycle, n)]).filter (fun a => decide (s.cycle < a.1 + msec 100))
  let allBusy := match v.busySince with | some t => decide (t + msec 100 ≤ s.cycle) | none => false
  let rate := (log.map (fun a => a.2)).sum / 100000
  let s1 := s.setJn st { v with
    appends := log
    rateMeas := v.rateMeas || allBusy }
  if allBusy = true ∧ (v.rateMeas = false ∨ s.rdN (jn st + JN.WRITE_RATE) < rate) then s1.wrN (jn st + JN.WRITE_RATE) rate else s1

/-- The checkpoint that an extent holds after its mark (R529), if any: its PREV_LBA, TIME_FIRST and RECORDS. -/
def Extent.ckpt (e : Extent) : Option (Nat × Nat × Nat) :=
  if leAt e.data 112 1 = 0x0A ∧ leAt e.data 118 2 = 0x0300 then
    some (leAt e.data (160 + 0x18) 8, dtUnpack (leAt e.data (160 + 0x20) 12), leAt e.data (160 + 0x30) 4)
  else none

/-- An extent of a failed zone written again under a new number, with the checkpoint it held (R541). -/
def State.rewrite (s : State) (st : Nat) (e : Extent) : State :=
  let v := s.jnS st
  let s1 := match e.ckpt with
    | some (p, f, n) => s.setJn st { v with ckptDue := true, ckptPrev := p, ckptFirst := some f, ckptRecs := n }
    | none => s
  let s2 := s1.closeExtent st e.lane e.recs
  let s3 := if e.ckpt = none then s2 else s2.updJn st (fun w => { w with ckptFirst := v.ckptFirst, ckptRecs := v.ckptRecs })
  let n := (s3.jnS st).nextExt - 1
  s3.updJn st (fun w => { w with exts := w.exts.map (fun (x : Extent) => if x.id = n then { x with id := e.id } else x) })

/-- LANE_FAULT (R541): the zone is finished, and the failed extent and every later one of the lane are written again in the next
zone under new numbers. -/
def State.laneFault (s : State) (st l : Nat) : State :=
  let s1 := (((s.inc (jn st + JN.LANE_FAULT)).jnEvent st 5).finishZone st l)
  let v := s1.jnS st
  let bad := v.exts.filter (fun e => e.lane == l && !e.done)
  let s2 := s1.setJn st { v with exts := v.exts.filter (fun e => !(e.lane == l && !e.done)) }
  forEach (bad.filter (fun e => decide (e.recs ≠ []))) s2 (fun s e => s.rewrite st e)

/-- APPEND_DONE (R531, R540, R541): the outstanding append of a lane completes at an LBA, or fails; another LBA than expected is
a lane fault, and so is a failure after three retries. An extent above the Zone Append Size Limit goes on with its next append. -/
def execAppendDone (st lane lba : Nat) (ok : Bool) (s : State) : Res :=
  .next (match (s.jnS st).exts.find? (fun e => e.lane == lane && e.sent && !e.done && e.failAt.isNone) with
    | none => s
    | some e =>
      if s.stOk st = false then s
      else if ok = true ∧ lba = e.lba + e.wrote then
        let n := s.pieceLen st e
        let more := decide (e.wrote + n < e.nlb)
        let s1 := s.updJn st (fun v => { v with
          exts := v.exts.map (fun x => if x.id = e.id then { x with wrote := e.wrote + n, done := !more, tries := 0 } else x) })
        let sm := s1.measureRate st (n * 4096)
        let s2 := if more then sm.sendPiece st { e with wrote := e.wrote + n } else sm.kick st lane
        let idle := !(s2.jnS st).busy lane
        ((s2.updJn st (fun v => { v with busySince := if idle then none else v.busySince })).finishDue st).jnAdvance st
      else if ok = false ∧ e.tries < 3 then
        s.updJn st (fun v => { v with
          exts := v.exts.map (fun x => if x.id = e.id then { x with failAt := some s.cycle } else x) })
      else (s.laneFault st lane).jnAdvance st)

/-- APPEND_RETRY (R541): 1 ms after a failed append it is sent again. -/
def execAppendRetry (st lane : Nat) (s : State) : Res :=
  .next (match (s.jnS st).exts.find? (fun e => e.lane == lane && e.failAt.isSome) with
    | none => s
    | some e =>
      if s.stOk st = false ∨ s.cycle < e.failAt.getD 0 + msec 1 then s
      else
        let s1 := s.updJn st (fun v => { v with exts := v.exts.map (fun x => if x.id = e.id then { x with
            failAt := none
            tries := x.tries + 1 } else x) })
        ((s1.inc (jn st + JN.APPEND_RETRY)).jnEvent st 4).sendPiece st e)

/-! ## Loss of the drive and forwarding (R541) -/

/-- Whether the engine's drive is gone or detached, so that what it accepts is forwarded or stays staged (R541). -/
def State.jnAway (s : State) (st : Nat) : Bool := (s.jnState st == 0 || s.jnState st == 4) && (s.jnS st).medium != 0

/-- Every record in the stage buffer goes to the partner's engine; without a partner it stays staged (R541). -/
def State.forwardAll (s : State) (st : Nat) : State :=
  let v := s.jnS st
  let recs := (v.exts.map (fun e => e.recs)).flatten ++ (v.lanes.map (fun l => l.cur)).flatten
  let s1 := (s.setJn st { v with
    lanes := []
    exts := []
    commits := []
    covered := []
    closing := []
    staleFlush := 0
    firstAcc := none
    accBytes := 0 }).putBit (jn st + JN.JN_STAT) 5 (s.jnPartner st)
  let s2 := if s.jnPartner st then
      (s1.updJn (partner st) (fun p => { p with fwd := p.fwd ++ recs })).setInflight st 0
    else s1.updJn st (fun w => { w.setLane 0 { cur := recs } with
      firstAcc := if recs = [] then none else some (v.firstAcc.getD s.cycle)
      accBytes := (recs.map (fun r => r.length)).sum })
  s2.jnFresh st

/-- The drive is lost (R541). -/
def State.loseDrive (s : State) (st : Nat) : State :=
  if s.jnState st = 4 then s
  else
    let s1 := (((s.jnEvent st 9).setJnState st 0).health st 0x22 2 0x0E 0 (drv st) 0)
    (s1.updJn st (fun v => { v with
      drive := none
      linkUp := false
      lastMedium := if v.medium = 0 then v.lastMedium else some v.medium
      finalDone := v.finalDone || v.final })).forwardAll st

/-- DRIVE_LOST (R541): a controller fatal status, or the link to a drive in use going down. -/
def execDriveLost (st : Nat) (s : State) : Res :=
  .next (if s.stOk st && (s.jnS st).drive.isSome then s.loseDrive st else s)

/-- DRIVE_REMOVED (R550): the root port reports link down; a DETACHED drive stays so, any other is lost. -/
def execDriveRemoved (st : Nat) (s : State) : Res :=
  .next (if s.stOk st = false then s
    else if s.jnState st = 4 then s.updJn st (fun v => { v with
      linkUp := false
      drive := none })
    else if (s.jnS st).drive.isSome ∨ (s.jnS st).linkUp = true then s.loseDrive st
    else s)

/-! ## Flush and anchor (R540, R543) -/

/-- FLUSH_DONE (R540): the flush has completed and the anchor writes begin; a failed one loses the drive. FLUSH_MAX is the
longest of the last 24 h. The drive completes flushes in order, so that one of a superseded commit comes first. -/
def execFlushDone (st : Nat) (ok : Bool) (s : State) : Res :=
  let v := s.jnS st
  .next (match v.commits with
    | [] => s
    | c :: rest =>
      if s.stOk st = false then s
      else if ok = false ∧ (c.phase = 3 ∨ v.staleFlush ≠ 0) then (s.jnEvent st 6).loseDrive st
      else if v.staleFlush ≠ 0 then s.setJn st { v with staleFlush := v.staleFlush - 1 }
      else if c.phase ≠ 3 then s
      else
        let fl := (v.flushes ++ [(s.cycle, s.cycle - v.flushAt)]).filter (fun a => decide (s.cycle < a.1 + 86400000 * 1000000))
        ((s.setJn st { v with
          commits := { c with phase := 5 } :: rest
          flushes := fl
          anchorAt := s.cycle }).wrN (jn st + JN.FLUSH_MAX) (ceilDiv ((fl.map (fun a => a.2)).foldl Nat.max 0) 1000)))

/-- The bytes of an anchor (R543). -/
def State.anchorBytes (s : State) (st state jseq : Nat) : List Byte :=
  let v := s.jnS st
  let lane (l : Nat) : List Byte := match (v.lane l).zone with
    | none => zeros 32
    | some z => leBytes z 4 ++ zeros 4 ++ leBytes (v.lane l).comWp 8 ++ leBytes ((v.lane l).validEnd.getD ((v.lane l).comWp * 4096)) 8 ++
        zeros 8
  let body := leBytes 1 1 ++ leBytes (drv st) 1 ++ leBytes state 2 ++ leBytes v.jepoch 4 ++ leBytes v.gen 8 ++ leBytes v.medium 16 ++
    leBytes jseq 8 ++ leBytes (dtPack (s.stamp st)) 12 ++ leBytes v.lanes.length 1 ++ zeros 11 ++
    ((List.range 8).map lane).flatten ++ leBytes (s.jnTotal st JN.PAYLOAD_LO) 8 ++ leBytes (s.jnTotal st JN.HOST_LO) 8 ++
    leBytes (s.jnTotal st JN.PAD_LO) 8 ++ leBytes (s.jnTotal st JN.TORN_LO) 8 ++ leBytes (s.jnTotal st JN.MEDIA_LO) 8 ++
    leBytes v.recBytes 8 ++ leBytes v.ckptNext 8
  let full := padTo 0xFFC body
  full ++ leBytes (crc32c full) 4

/-- The next slot of the medium of drive `d` in a store (MR_NEXT, R554). -/
def State.mrNext (s : State) (st d : Nat) : Nat := s.fld (mr st + MR.MR_NEXT) (10 + 16 * d) (16 * d)

/-- An anchor written into a slot of a store, and MR_NEXT moved on within its half. -/
def State.storeAnchor (s : State) (st d slot : Nat) (b : List Byte) : State :=
  (s.setBytes st (0x0C00000000 + 4096 * slot) b).wrFld (mr st + MR.MR_NEXT) (10 + 16 * d) (16 * d) (d * 1024 + (slot + 1) % 1024)

/-- An anchor of a steward's medium with a STATE: into the next slot of its own store, then of the partner's; a partner write
that fails is counted (R543). -/
def State.writeAnchor (s : State) (st state jseq : Nat) (peerOk : Bool) : State :=
  let s0 := s.updJn st (fun v => { v with gen := v.gen + 1 })
  let b := s0.anchorBytes st state jseq
  let slot := s.mrNext st (drv st)
  let s1 := s0.storeAnchor st (drv st) slot b
  if s.present (partner st) = false then s1
  else if peerOk && s.jnPartner st then s1.storeAnchor (partner st) (drv st) slot b
  else (s1.inc (jn st + JN.ANCHOR_PEER_FAIL)).jnEvent st 7

/-- Whether a drive is told of a normal shutdown: SHUTDOWN started the final commit, and PWR_FAIL_N is not asserted (R568, R693); and the ms that its
completion is awaited. -/
def State.normalStop (s : State) (st : Nat) : Bool := s.shutNormal && !s.bit (hu st + HU.HU_STAT) 4
def State.stopWait (s : State) (st : Nat) : Nat := if s.normalStop st then 10000 else 10

/-- What the end of a commit of a kind brings: a detach finishes the lanes and forwards (R550), a final commit tells the drive, by a normal
shutdown (1) where SHUTDOWN started it and PWR_FAIL_N is not asserted (R568, R693). -/
def State.commitEnd (s : State) (st kind : Nat) : State :=
  if kind = 2 then
    let s1 := forEach (List.range (s.jnS st).lanes.length) s (fun s l => s.finishZone st l)
    (((s1.setJnState st 4).updJn st (fun v => { v with
      lastMedium := some v.medium
      perstLow := true
      perstAt := s.cycle + msec 500 })).emit .drPerst st [0]).forwardAll st
  else if kind = 1 then (s.nvme st 9 [b2n (s.normalStop st)] []).updJn st (fun v => { v with finalDone := true, shnAt := some s.cycle })
  else s

/-- ANCHOR_WRITE_DONE (R540, R543): the anchor is in the stores, the commit is done: its records leave the stage buffer. -/
def execAnchorWriteDone (st : Nat) (peerOk : Bool) (s : State) : Res :=
  let v := s.jnS st
  .next (match v.commits with
    | [] => s
    | c :: rest =>
      if s.stOk st = false ∨ c.phase ≠ 5 then s
      else
        let cov := v.exts.filter (fun e => v.covered.contains e.id)
        let jseq := cov.foldl (fun m e => Nat.max m e.jseq) (s.jnTotal st JN.JSEQ_DONE_LO)
        let lanes := (List.range v.lanes.length).map (fun l =>
          let x := v.lane l
          let mine := cov.filter (fun e => e.lane == l && x.zone == some (e.lba / v.zoneSize (s.jnConv st)))
          { x with
            comWp := mine.foldl (fun m e => Nat.max m (e.lba + e.nlb)) x.comWp
            validEnd := if mine = [] then x.validEnd else none })
        let freed := ((cov.map (fun e => e.recs)).flatten.map (fun r => r.length)).sum
        let us := (s.cycle - v.anchorAt) / 1000
        let amax := if v.anchorMeas then Nat.max us (s.rdN (jn st + JN.ANCHOR_MAX)) else us
        let s1 := s.setJn st { v with
          lanes := lanes
          exts := v.exts.filter (fun e => !v.covered.contains e.id)
          covered := []
          commits := rest
          anchorMeas := true }
        let s2 := (s1.writeAnchor st (if c.kind = 1 then 3 else if c.kind = 2 then 4 else 1) jseq peerOk).wrN (jn st + JN.ANCHOR_MAX) amax
        let s3 := (((s2.setInflight st (v.inflight - freed)).setJnTotal st JN.JSEQ_DONE_LO jseq).inc (jn st + JN.COMMITS)).jnEvent st 0
        (s3.commitEnd st c.kind).jnAdvance st)

/-! ## The governor (R536, R537) -/

/-- Nanobytes of a bucket after it filled from cycle `at_` to `now` at `rate` bytes per second, up to `cap` nanobytes. -/
def fillTo (level rate cap at_ now : Nat) : Nat := Nat.min cap (level + rate * (now - at_))

/-- The device bucket's capacity in nanobytes (R536). -/
def State.devCap (s : State) (st : Nat) : Nat := (s.jnS st).devRate * s.fld (jn st + JN.LIFE) 15 8 * 3600 * 1000000000

def State.devNow (s : State) (st : Nat) : Nat :=
  fillTo (s.jnS st).devLevel (s.jnS st).devRate (s.devCap st) (s.jnS st).devAt s.cycle

/-- A stream's bucket: capacity and level in nanobytes (R536); full at attach. -/
def State.sgCap (s : State) (st x : Nat) : Nat := s.rdN (jn st + JN.SG_BURST + 0x10 * x) * 1024 * 1000000000
def State.sgNow (s : State) (st x : Nat) : Nat :=
  match Tbl.get (fun _ => none) (s.jnS st).buckets x with
  | none => s.sgCap st x
  | some (l, t) => fillTo l (s.rdN (jn st + JN.SG_BUDGET + 0x10 * x) * 1000) (s.sgCap st x) t s.cycle

/-- The device bucket debited; falling below half its capacity sets BUDGET_LOW (R553). -/
def State.devDebit (s : State) (st n : Nat) : State :=
  let l := s.devNow st
  let s1 := s.updJn st (fun v => { v with
    devLevel := l - n
    devAt := s.cycle })
  if (l - n) * 2 < s.devCap st ∧ s.devCap st ≤ l * 2 then s1.jnEvent st 22 else s1

/-- Whether the device bucket, less a record of `n` bytes, holds at least 1/`den` of its capacity (0: class TRUMP). -/
def State.devHolds (s : State) (st n den : Nat) : Bool :=
  let l := s.devNow st
  let nb := n * 1000000000
  decide (nb ≤ l) && (den == 0 || decide (s.devCap st ≤ (l - nb) * den))

/-- The denominator of RES_c of a journal class (R536). -/
def resDen (c : Nat) : Nat := if c = 0 then 0 else if c = 1 then 8 else if c = 2 then 4 else 2

/-- Whether the governor admits a record of stream `x` and `n` bytes. -/
def State.governs (s : State) (st x n : Nat) : Bool :=
  decide (n * 1000000000 ≤ s.sgNow st x) && s.devHolds st n (resDen (s.fld (jn st + JN.SG_CFG + 0x10 * x) 2 1))

/-- DEV_BUDGET in bytes per second (R537). -/
def State.budgetNow (s : State) (st : Nat) : Nat :=
  let v := s.jnS st
  let host := s.jnTotal st JN.HOST_LO
  let w := if s.jnConv st then host else Nat.max (s.jnTotal st JN.MEDIA_LO) host
  let now := s.stamp st / sec16
  let tend := v.firstUse + s.fld (jn st + JN.LIFE) 7 0 * 31557600
  let floor := s.rdN (jn st + JN.FLOOR) * 1000
  let left := 95 * s.endur st - 100 * w
  if tend ≤ now ∨ left = 0 then floor
  else
    let kn := if host < 2 ^ 30 ∨ v.recBytes = 0 then 101 else host
    let kd := if host < 2 ^ 30 ∨ v.recBytes = 0 then 100 else v.recBytes
    Nat.max floor (left * kd / (100 * (tend - now) * kn))

/-- The budget recomputed; the device bucket keeps its level within its new capacity. -/
def State.setBudget (s : State) (st : Nat) : State :=
  let l := s.devNow st
  let r := s.budgetNow st
  (s.updJn st (fun v => { v with
    devRate := r
    devLevel := l
    devAt := s.cycle
    budgetAt := s.cycle })).wrN (jn st + JN.DEV_BUDGET) (r / 1000)

/-- BUDGET_UPDATE (R537): an hour has passed since the last computation or the attach. -/
def execBudgetUpdate (st : Nat) (s : State) : Res :=
  .next (if s.stOk st && (s.jnS st).drive.isSome && decide ((s.jnS st).budgetAt + msec 3600000 ≤ s.cycle) then s.setBudget st else s)

/-- Both kinds of bucket full, as at an attach (R536). -/
def State.fillBuckets (s : State) (st : Nat) : State :=
  let s1 := s.setBudget st
  s1.updJn st (fun v => { v with
    buckets := []
    devLevel := s1.devCap st
    devAt := s.cycle })

/-! ## Accepting records (R533-R539) -/

/-- The lane of the next record of `n` lanes: that of the open extent, else the first lane without an outstanding append (R531). -/
def JnS.pickLane (v : JnS) (n : Nat) : Nat :=
  match (List.range v.lanes.length).find? (fun l => (v.lane l).cur ≠ []) with
  | some l => l
  | none => ((List.range n).find? (fun l => !v.busy l)).getD 0

/-- Whether a record of `n` bytes still fits the lane's zone with the extent that is open in it. -/
def State.zoneFits (s : State) (st l n : Nat) : Bool :=
  let v := s.jnS st
  let x := v.lane l
  match x.zone with
  | none => true
  | some z =>
    let off := x.wp - z * v.zoneSize (s.jnConv st)
    decide (off + extBlocks (s.gran st) off (extRaw v.ckptDue x.cur + n) ≤ v.zoneCap (s.jnConv st))

/-- A record is accepted (R534, R540, R546): staged in the current extent; INFLIGHT reaching 7/8 of the window begins a commit.
While records are forwarded it goes to the partner (R541). -/
def State.accept (s : State) (st : Nat) (r : List Byte) : State :=
  let s0 := (s.addJnTotal st JN.PAYLOAD_LO (r.length - 48)).updJn st (fun v => { v with
    recBytes := v.recBytes + r.length
    ckptRecs := v.ckptRecs + 1
    ckptFirst := some (v.ckptFirst.getD (dtUnpack (leAt r 24 12)))
    lastSeq := if leAt r 4 2 < 512 then Tbl.set (fun _ => 0xFFFFFFFF) v.lastSeq (leAt r 4 2) (leAt r 12 4) else v.lastSeq })
  if (s.forwarding st || s.jnAway st) && s.jnPartner st then
    ((s0.updJn (partner st) (fun p => { p with fwd := p.fwd ++ [r] })).jnRatios st).setBit (jn st + JN.JN_STAT) 5
  else
    let l := (s0.jnS st).pickLane (s0.laneCount st)
    let s1 := if s0.zoneFits st l r.length then s0 else ((s0.closeLane st l).leaveZone st l)
    let s2 := (s1.updJn st (fun v => { (v.setLane l { v.lane l with cur := (v.lane l).cur ++ [r] }) with
      firstAcc := some (v.firstAcc.getD s.cycle)
      accBytes := v.accBytes + r.length })).setInflight st ((s1.jnS st).inflight + r.length)
    let s3 := s2.jnRatios st
    if s3.jnState st = 3 ∧ 7 * s3.jnWindow st ≤ 8 * (s3.jnS st).inflight then s3.beginCommit st 0 else s3

/-- Whether clip `k` names stream `x` (R538, R552). -/
def State.clipNames (s : State) (st k x : Nat) : Bool :=
  let n := s.fld (jn st + JN.CL_CTL + 0x20 * k) 10 8 + 1
  s.bit (jn st + JN.CL_CTL + 0x20 * k) 31 && (List.range n).any (fun i =>
    s.fld (jn st + JN.CL_S + 0x20 * k + 4 * (i / 2)) (8 + 16 * (i % 2)) (16 * (i % 2)) == x)

/-- Whether an open clip window takes a record. -/
def State.clipTakes (s : State) (st : Nat) (r : List Byte) (k : Nat) : Bool :=
  match Tbl.get (fun _ => none) (s.jnS st).clips k with
  | none => false
  | some (a, b) => let t := dtUnpack (leAt r 24 12); s.clipNames st k (leAt r 4 2) && decide (a ≤ t) && decide (t < b)

/-- A record a clip takes: charged to the device bucket as class TRUMP, or discarded (R538). -/
def State.clipAdmit (s : State) (st : Nat) (r : List Byte) : State :=
  if s.devHolds st r.length 0 then (s.devDebit st (r.length * 1000000000)).accept st r
  else (s.inc (jn st + JN.CLIP_SHORT)).jnEvent st 25

/-- Whether SG_FILTER of its stream selects a record (R534, R552). -/
def State.sgPasses (s : State) (st : Nat) (r : List Byte) : Bool :=
  let x := leAt r 4 2
  let src := leAt r 6 2
  let typ := leAt r 0 1
  let b : Option Nat := if src ≤ 2 then some src
    else if 0x10 ≤ src ∧ src ≤ 0x13 then some (src - 0x10 + 3)
    else if src = 0x20 then some 7
    else if 0x30 ≤ src ∧ src ≤ 0x33 then some (src - 0x30 + 8)
    else if typ = 6 ∨ typ = 7 then some 12 else none
  decide (x < 512) && s.bit (jn st + JN.SG_CFG + 0x10 * x) 0 &&
    (match b with | some i => s.bit (jn st + JN.SG_FILTER + 0x10 * x) i | none => false)

/-- Bytes of the pre-roll store. -/
def JnS.preSize (v : JnS) : Nat := (v.pre.map (fun r => r.length)).sum

/-- The oldest pre-roll records released until the store fits, each counted (R538). -/
def State.preTrim (s : State) (st lim : Nat) : Nat → State
  | 0 => s
  | n + 1 =>
    let v := s.jnS st
    match v.pre with
    | [] => s
    | _ :: rest =>
      if v.preSize ≤ lim then s
      else (((s.setJn st { v with pre := rest }).inc (jn st + JN.PREROLL_DROP)).jnEvent st 27).preTrim st lim n

/-- A record not admitted: kept for a clip that names its stream, else discarded (R534, R538). -/
def State.preKeep (s : State) (st : Nat) (r : List Byte) : State :=
  let lim := s.rdN (jn st + JN.PRE_SIZE) * 1048576
  if lim ≠ 0 ∧ (List.range 16).any (fun k => s.clipNames st k (leAt r 4 2)) = true then
    (s.updJn st (fun v => { v with pre := v.pre ++ [r] })).preTrim st lim ((s.jnS st).pre.length + 1)
  else s.inc (jn st + JN.GOV_SKIP)

/-- GOVERNOR_ADMIT (R534, R536, R538): a taken record is filtered, admitted through a clip or by its budget, kept for pre-roll, or
discarded. -/
def State.offer (s : State) (st : Nat) (r : List Byte) : State :=
  let x := leAt r 4 2
  if s.sgPasses st r = false then s.inc (jn st + JN.REC_DISCARD)
  else if (List.range 16).any (fun k => s.clipTakes st r k) then s.clipAdmit st r
  else if s.governs st x r.length then
    let lvl := s.sgNow st x - r.length * 1000000000
    ((s.updJn st (fun v => { v with buckets := Tbl.set (fun _ => none) v.buckets x (some (lvl, s.cycle)) })).devDebit st
      (r.length * 1000000000)).accept st r
  else s.preKeep st r

/-- Whether the engine takes records (R530, R533, R538, R567): it is enabled and attached, or forwards, in weir mode or with
CONTINUOUS, and no final commit runs. -/
def State.jnTakes (s : State) (st : Nat) : Bool :=
  s.stOk st && s.bit (jn st + JN.JN_CTL) 0 && (s.jnState st == 3 || s.forwarding st || s.jnAway st) &&
    (s.weirOn || s.bit (jn st + JN.JN_CTL) 1) && !(s.jnS st).final && !s.finalC

/-- Fields of journal ring entry `k` (R533, R552). -/
def State.jrFld (s : State) (st k hi lo : Nat) : Nat := s.fld (jn st + JN.JR_CFG + 0x20 * k) hi lo
def State.jrPos (s : State) (st k : Nat) : Nat := s.rdPair (jn st + JN.JR_POS_LO + 0x20 * k) (jn st + JN.JR_POS_HI + 0x20 * k)
def State.setJrPos (s : State) (st k n : Nat) : State :=
  s.wrPair (jn st + JN.JR_POS_LO + 0x20 * k) (jn st + JN.JR_POS_HI + 0x20 * k) n

/-- `n` ring bytes from position `pos` of a ring of `size` bytes at `base` in a steward's own memory. -/
def State.ringBytes (s : State) (st base size pos n : Nat) : List Byte :=
  (List.range n).map (fun i => s.byteAt st (base + (pos + i) % size))

/-- JOURNAL_TAKE (R533-R536): the next whole record of journal ring `k` below its tail is taken, acknowledged and returned as
credit, and offered to the governor; `poison` says that its read met an uncorrectable word, and the record is dropped (R597). -/
def execJournalTake (st k : Nat) (poison : Bool) (s : State) : Res :=
  .next (if s.jnTakes st = false ∨ 64 ≤ k ∨ s.jrFld st k 31 31 = 0 ∨ (s.jnS st).stopped.contains k = true then s
    else
      let die := s.jrFld st k 23 22
      let e := s.jrFld st k 21 18
      let c := s.jrFld st k 17 13
      let q := s.jrFld st k 11 0
      let tail := leNat (s.bytesAt st (s.rdN (jn st + JN.JR_TAIL_LO + 0x20 * k) + s.fld (jn st + JN.JR_TAIL_HI + 0x20 * k) 7 0 * 2 ^ 32) 8)
      let pos := s.jrPos st k
      let base := s.rdN (bgc die e c + BG.RING_BASE_LO) + s.fld (bgc die e c + BG.RING_BASE_HI) 7 0 * 2 ^ 32
      let size := 2 ^ s.fld (bgc die e c + BG.RING_LOG) 5 0
      if bargeOk s die e c = false ∨ s.carrierOf die q ≠ st ∨ tail < pos + 48 then s
      else
        let h := s.ringBytes st base size pos 48
        let len := leAt h 8 4
        if leAt h 1 1 % 16 ≠ 1 ∨ len % 64 ≠ 0 ∨ 262144 < len then
          (s.updJn st (fun v => { v with stopped := k :: v.stopped })).jnEvent st 28
        else if tail < pos + 48 + len then s
        else if s.jnWindow st < (s.jnS st).inflight + 48 + len then s.jnEvent st 2
        else
          let r := s.ringBytes st base size pos (48 + len)
          let s1 := ((s.setJrPos st k (pos + 48 + len)).ackQueue die q 1).addCredit die e c (48 + len)
          if poison then s1.health st 0x12 1 0x0E 0 (leAt r 4 2) (leAt r 12 4) else s1.offer st r)

/-- FORWARDED_RECORD_RX (R541): a record the partner accepted is journalled as the engine's own. -/
def execForwardedRecordRx (st : Nat) (s : State) : Res :=
  .next (match (s.jnS st).fwd with
    | [] => s
    | r :: rest =>
      if s.stOk st = false ∨ s.jnState st ≠ 3 ∨ (s.jnS st).final = true then s
      else if s.jnWindow st < (s.jnS st).inflight + r.length then s.jnEvent st 2
      else (s.updJn st (fun v => { v with fwd := rest })).accept st r)

/-! ## Event clips (R538, R539) -/

/-- Whether record `a` comes before `b`: by TIME, then by SEQ. -/
def recBefore (a b : List Byte) : Bool :=
  let ta := dtUnpack (leAt a 24 12)
  let tb := dtUnpack (leAt b 24 12)
  decide (ta < tb) || (ta == tb && decide (leAt a 12 4 ≤ leAt b 12 4))

/-- A record inserted into a list in TIME order, then SEQ order. -/
def recInsert (r : List Byte) : List (List Byte) → List (List Byte)
  | [] => [r]
  | x :: xs => if recBefore r x then r :: x :: xs else x :: recInsert r xs

/-- An event of a relay line for clip `k`: its window opens, or the close of one that device time has not reached moves, and stored
records in it are admitted. -/
def State.clipOpen (s : State) (st k t : Nat) : State :=
  let pre := s.rdN (jn st + JN.CL_PRE + 0x20 * k) * 1000000 * 65536
  let close := t + s.rdN (jn st + JN.CL_POST + 0x20 * k) * 1000000 * 65536
  let s1 := match (Tbl.get (fun _ => none) (s.jnS st).clips k).filter (fun w => decide (s.stamp st < w.2)) with
    | some (a, _) => s.updJn st (fun v => { v with clips := Tbl.set (fun _ => none) v.clips k (some (a, close)) })
    | none => ((s.updJn st (fun v => { v with clips := Tbl.set (fun _ => none) v.clips k (some (t - pre, close)) })).inc
        (jn st + JN.CLIP_TRIG)).jnEvent st 24
  let mine := ((s1.jnS st).pre.filter (fun r => s1.clipTakes st r k)).foldl (fun l r => recInsert r l) []
  forEach mine (s1.updJn st (fun v => { v with pre := v.pre.filter (fun r => !mine.contains r) })) (fun s r => s.clipAdmit st r)

/-- CLIP_TRIGGER (R538, R539): the oldest relay event delivered to the engine acts on the clips armed for its line. -/
def execClipTrigger (st : Nat) (s : State) : Res :=
  .next (match Tbl.get (fun _ => []) s.relayJ st with
    | [] => s
    | (line, t) :: rest =>
      let s1 := { s with relayJ := Tbl.set (fun _ => []) s.relayJ st rest }
      if s.jnTakes st = false then s1
      else forEach (List.range 16) s1 (fun s k =>
        if s.bit (jn st + JN.CL_CTL + 0x20 * k) 31 ∧ s.fld (jn st + JN.CL_CTL + 0x20 * k) 3 0 = line then s.clipOpen st k t else s))

/-- CLIP_WINDOW_CLOSE (R539): device time reaches the close of a clip's window. -/
def execClipWindowClose (st clip : Nat) (s : State) : Res :=
  .next (match Tbl.get (fun _ => none) (s.jnS st).clips clip with
    | some (_, b) => if s.stOk st = true ∧ b ≤ s.stamp st then
        s.updJn st (fun v => { v with clips := Tbl.set (fun _ => none) v.clips clip none }) else s
    | none => s)

/-- PREROLL_EXPIRE (R538): stored records whose TIME lies further back than CL_PRE of every clip that names their stream are
released. -/
def execPrerollExpire (st : Nat) (s : State) : Res :=
  let keep (r : List Byte) : Bool := (List.range 16).any (fun k => s.clipNames st k (leAt r 4 2) &&
    decide (s.stamp st ≤ dtUnpack (leAt r 24 12) + s.rdN (jn st + JN.CL_PRE + 0x20 * k) * 1000000 * 65536))
  .next (if s.stOk st then s.updJn st (fun v => { v with pre := v.pre.filter keep }) else s)

/-! ## Weir mode (R544) -/

/-- The enabled journal ring entry of a queue on a steward. -/
def State.jrEntry (s : State) (st die q : Nat) : Option Nat :=
  (List.range 64).find? (fun k => s.jrFld st k 31 31 == 1 && s.jrFld st k 23 22 == die && s.jrFld st k 11 0 == q)

/-- A host ring set aside at `f`: its ledger has no pending record (R433). -/
def State.ledgerAt (s : State) (st k f : Nat) : State := s.setLedger st k { pos := f, bound := f }

/-- Queue `q` of a die moves from its host ring to its journal ring on the steward that carries it, or back (R544): the channel
that writes the one is aborted, its ring rewound by R433, the queue replayed, and the channel of the other started. -/
def State.weirQueue (s : State) (st die q : Nat) (enter : Bool) : State :=
  match s.ringEntry st die q, s.jrEntry st die q with
  | some k, some j =>
    let he := s.ringEng st k
    let hc := s.ringCh st k
    let je := s.jrFld st j 21 18
    let jc := s.jrFld st j 17 13
    if enter then
      let s1 := s.abortQuiet die he hc
      let r := s1.rewind die he hc q (s1.shadow st k)
      (((r.1.ledgerAt st k r.2.1).replayQueue die q).1).chStart die je jc
    else
      let s1 := s.abortQuiet die je jc
      let r := s1.rewind die je jc q (s1.jrPos st j)
      ((r.1.replayQueue die q).1).chStart die he hc
  | _, _ => s

/-- The queues of the streams a steward carries. -/
def State.carriedQueues (s : State) (st : Nat) : List (Nat × Nat) :=
  ((s.carriedStreams st).map (fun x => (x / 128, s.rdN (dk (x / 128) + BS.BS_SQ + 4 * (x % 128)) % 4096))).eraseDups

/-- The stewards of the part that the lead does not count as lost. -/
def State.liveStewards (s : State) : List Nat := s.stewards.filter (fun st => st == s.lead || !s.peerLost s.lead)

/-- FIN_REQ.WEIR of every pipeline that has an enabled output with USE_W (R544). -/
def State.weirPipes (s : State) (b : Bool) : State :=
  forEach ((List.range 512).filter (fun n => s.present (n / 128))) s (fun s n =>
    if (List.range 4).any (fun k => s.abit (pl n + PL.OUT_CTL + 0x100 * k) 0 && s.abit (pl n + PL.OUT_CTL + 0x100 * k) 10) then
      s.putBit (pl n + PL.FIN_REQ) 1 b else s)

/-- WEIR_ENTER (R544): ACCEPT of every present endpoint has been clear for WEIR_DELAY ms. -/
def execWeirEnter (s : State) : Res :=
  let d := msec (s.fld (jn s.lead + JN.WEIR_TIME) 15 0)
  .next (if s.weirOn || s.finalC || s.liveStewards.any (fun st => s.bit (epb st + EP.EP_STAT) 17 || decide (s.cycle < (s.ep st).acceptClr + d)) then s
    else
      let s1 := ({ s with weirOn := true } : State).weirPipes true
      let s2 := forEach s.liveStewards s1 (fun s st => forEach (s.carriedQueues st) (s.setBit (jn st + JN.JN_STAT) 4)
        (fun s x => s.weirQueue st x.1 x.2 true))
      (s2.jnEvent s.lead 12).upAll)

/-- Every open clip window closes as weir mode ends, and CLIP_CUT is set for it (R539). -/
def State.clipsCut (s : State) (st : Nat) : State :=
  if (s.jnS st).clips = [] then s
  else (s.updJn st (fun v => { v with clips := [] })).jnEvent st 26

/-- WEIR_EXIT (R544): an endpoint has held ACCEPT for WEIR_EXIT ms. -/
def execWeirExit (s : State) : Res :=
  let d := msec (s.fld (jn s.lead + JN.WEIR_TIME) 31 16)
  .next (if s.weirOn && !s.finalC && s.liveStewards.any (fun st => s.bit (epb st + EP.EP_STAT) 17 && decide ((s.ep st).acceptSet + d ≤ s.cycle)) then
      let s1 := ({ s with weirOn := false } : State).weirPipes false
      let s2 := forEach s.liveStewards s1 (fun s st => (forEach (s.carriedQueues st) (s.clrBit (jn st + JN.JN_STAT) 4)
        (fun s x => s.weirQueue st x.1 x.2 false)).clipsCut st)
      (s2.jnEvent s.lead 13).upAll
    else s)

/-! ## Probe, recovery, replacement (R521, R523, R545, R550) -/

/-- The REFUSE_CAUSE of a drive, the first requirement not met: zoned where it meets every one, else conventional with CONV_OK
(R521). `none` refused-free: the answer is the cause, or the mode. -/
def State.driveJudge (s : State) (st : Nat) (d : DriveInfo) : Except Nat Bool :=
  let lanes := s.fld (jn st + JN.LANES) 3 0
  let common : Option Nat := if !d.version then some 1 else if !d.lba4k then some 2 else if !d.flush then some 3
    else if 96 < d.npwg then some 7 else none
  let zoned : Option Nat := if !d.version then some 1 else if !d.lba4k then some 2 else if !d.flush then some 3
    else if d.zasl < 262144 then some 4
    else if d.zoneCap * 4096 < 268435456 ∨ d.zones < 64 then some 5
    else if (match d.resources with | some n => decide (n < lanes + 2) | none => false) then some 6
    else if 96 < d.npwg then some 7 else none
  if d.zns then (match zoned with | some c => .error c | none => .ok true)
  else match common with
    | some c => .error c
    | none =>
      if s.bit (jn st + JN.JN_CTL) 3 = false then .error 0
      else if d.capacity < 64 * 2 ^ 30 then .error 5 else .ok false

/-- A drive becomes ACTIVE: buckets full, forwarding stops (R536, R550). -/
def State.attachDone (s : State) (st : Nat) : State :=
  let s0 := if s.jnConv st then s.setJnTotal st JN.MEDIA_LO (2 ^ 64 - 1) else s
  let s1 := ((s0.setJnState st 3).clrBit (jn st + JN.JN_STAT) 5).jnEvent st 8
  (((s1.updJn st (fun v => { v with
    flushes := []
    anchorMeas := false
    rateMeas := false
    appends := []
    wearAt := none
    stopped := v.stopped }) |>.wrN (jn st + JN.WRITE_RATE) 500 |>.wrN (jn st + JN.FLUSH_MAX) 50000 |>.wrN (jn st + JN.ANCHOR_MAX)
      1000).fillBuckets st).jnRatios st).jnFresh st

/-- MEDIUM_ID reported (R552). -/
def State.setMedium (s : State) (st m : Nat) : State :=
  forEach (List.range 4) (s.updJn st (fun v => { v with medium := m })) (fun s i => s.wrN (jn st + JN.MEDIUM_ID + 4 * i) (m / 2 ^ (32 * i)))

/-- Totals of a medium: PAYLOAD, HOST, PAD, TORN, MEDIA, and RECBYTES (R546). -/
def State.setTotals (s : State) (st : Nat) (t : List Nat) : State :=
  (((((s.setJnTotal st JN.PAYLOAD_LO (t.getD 0 0)).setJnTotal st JN.HOST_LO (t.getD 1 0)).setJnTotal st JN.PAD_LO (t.getD 2 0)).setJnTotal
    st JN.TORN_LO (t.getD 3 0)).setJnTotal st JN.MEDIA_LO (t.getD 4 0)).updJn st (fun v => { v with recBytes := t.getD 5 0 })

/-- A medium's anchor slots cleared in a store (R550). -/
def State.clearSlots (s : State) (st d : Nat) : State :=
  { s with mem := s.mem.filter (fun e =>
      !(decide (st * 0x10000000000 + 0x0C00000000 + d * 1024 * 4096 ≤ e.1) &&
        decide (e.1 < st * 0x10000000000 + 0x0C00000000 + (d + 1) * 1024 * 4096))) }

/-- A blank drive gets its identity zone and enters ACTIVE (R523, R525, R550 step 4); its MEDIUM_ID is drawn at random. -/
def State.initMedium (s : State) (st : Nat) (d : DriveInfo) : State :=
  let m := s.freeNat 0 % 2 ^ 128
  let staged := (((s.jnS st).exts.filter (fun e => !e.done)).map (fun e => e.recs)).flatten ++ ((s.jnS st).lanes.map (fun l => l.cur)).flatten
  let s1 := (((s.skipFree 1).setMedium st m).updJn st (fun v => { v with
    firstUse := s.stamp st / sec16
    seq := 0
    jepoch := 0
    gen := 0
    prevJseq := 0
    lanes := [{ cur := staged }]
    exts := []
    closing := []
    commits := []
    zones := []
    prevZone := 0xFFFFFFFF
    ckptNext := 2 ^ 30
    ckptDue := false
    ckptPrev := 2 ^ 64 - 1
    ckptRecs := 0
    ckptFirst := none
    lastSeq := [] })).setTotals st []
  let conv := s.jnConv st
  let h := zblock (s1.jrec st 0x0C 0x0302 (s.stamp st) (zonePayload (drv st) 0 0 m 0 0xFFFFFFFF 0))
  let s2 := (s1.nvme st (if conv then 1 else 7) [0, 0] h).jseqUse st
  let i := zblock (s2.jrec st 0x0B 0x0303 (s.stamp st) (identityPayload (drv st) (b2n conv) m (Config.partConst 0)
    (s.stamp st) ((s.jnS st).zoneN conv) ((s.jnS st).zoneCap conv) (s.endur st) d))
  let s3 := ((s2.nvme st (if conv then 1 else 7) [0, 1] i).jseqUse st).hostWrote st 8192
  let s4 := if conv then s3 else s3.nvme st 5 [0] []
  let s5 := (s4.clearSlots st (drv st))
  let s6 := if s.present (partner st) then s5.clearSlots (partner st) (drv st) else s5
  s6.attachDone st

/-- DRIVE_PROBE (R521, R550): a drive whose link is up is accepted in zoned or conventional mode, or refused; a blank one is
initialised, the medium last detached goes on to recovery, and any other is FOREIGN. Before any medium has been detached, an
identity is taken as this package's own (log entry 45). -/
def execDriveProbe (st : Nat) (d : DriveInfo) (s : State) : Res :=
  .next (if s.stOk st = false ∨ s.jnState st ≠ 1 then s
    else
      let k := jn st + JN.JN_STAT
      match s.driveJudge st d with
      | .error c => ((s.setJnState st 5).wrFld k 19 16 c).jnEvent st 10
      | .ok zoned =>
        let s1 := (((s.putBit k 3 zoned).wrFld k 19 16 0).wrN (jn st + JN.GRAN) (Nat.max 4096 (d.npwg * 4096))).updJn st (fun v => { v with
          drive := some d
          endurance := driveEndur d.capacity d.endurance })
        match d.identity with
        | none => if d.blank then s1.initMedium st d else (s1.setJnState st 6).jnEvent st 11
        | some (m, first) =>
          let known := match (s.jnS st).lastMedium with | some x => x == m | none => true
          if known then ((s1.setMedium st m).updJn st (fun v => { v with firstUse := first })).setJnState st 2
          else (s1.setJnState st 6).jnEvent st 11)

/-- Whether a record at offset `p` of a lane's bytes is valid and ends by `lim` (R528). -/
def validRec (b : List Byte) (p lim : Nat) : Bool :=
  let h := slice b p 48
  let len := leAt h 8 4
  let typ := leAt h 0 1
  decide (h.length = 48) && leAt h 1 1 == 1 && leAt h 2 2 / 4096 == 0 && leAt h 46 2 == 0 && decide (leAt h 40 2 < 16384) &&
    decide (1 ≤ typ) && decide (typ ≤ 12) &&
    len % 64 == 0 && decide (len ≤ 262144) && decide (p + 48 + len ≤ lim) && leAt h 36 4 == pcrcOf (slice b (p + 48) len)

/-- Records of an extent followed from offset `p` (R545): where the last valid one ends, and whether all are valid. -/
def scanRecs (b : List Byte) (lim : Nat) : Nat → Nat → Nat × Bool
  | 0, p => (p, true)
  | n + 1, p => if validRec b p lim then scanRecs b lim n (p + 48 + leAt b (p + 8) 4) else (p, false)

/-- The scan of a lane from byte `pos` of the bytes read (R545): where the last valid record ends, and the JSEQ of the last valid mark. -/
def scanLane (b : List Byte) (medium : Nat) : Nat → Nat → Nat × Nat → Nat × Nat
  | 0, _, e => e
  | f + 1, pos, e =>
    if b.length ≤ pos then e
    else
      let nlb := leAt b (pos + 48 + 0x20) 4
      let nrec := leAt b (pos + 48 + 4) 4
      if validRec b pos b.length = false ∨ leAt b (pos + 6) 2 ≠ 0x0301 ∨ leAt b (pos + 8) 4 ≠ 64 ∨
        leAt b (pos + 48 + 0x10) 16 ≠ medium ∨ b.length < pos + nlb * 4096 ∨ nlb = 0 then e
      else
        let r := scanRecs b (pos + nlb * 4096) nrec (pos + 112)
        let j := leAt b (pos + 48 + 8) 8
        if r.2 then scanLane b medium f (pos + nlb * 4096) (pos + nlb * 4096, j)
        else (if r.1 = pos + 112 then e.1 else r.1, j)

/-- The valid anchor of a medium with the highest GEN, of the own and the partner's store: steward and slot (R545). -/
def State.bestAnchor (s : State) (st : Nat) (bad : List Nat) : Option (Nat × Nat) :=
  let d := drv st
  let slots := (List.range 1024).map (fun i => i + 1024 * d)
  let mine := (slots.filter (fun i => !bad.contains i && s.slotValid st i)).map (fun i => (st, i))
  let his := if s.jnPartner st then (slots.filter (fun i => s.slotValid (partner st) i)).map (fun i => (partner st, i)) else []
  let gen (x : Nat × Nat) : Nat := leNat (s.bytesAt x.1 (0x0C00000000 + 4096 * x.2 + 8) 8)
  match (mine ++ his).filter (fun x => leNat (s.bytesAt x.1 (0x0C00000000 + 4096 * x.2 + 0x10) 16) == (s.jnS st).medium) with
  | [] => none
  | x :: rest => some (rest.foldl (fun a y => if gen a < gen y then y else a) x)

/-- The lanes that a recovery scans (R545), with the block at which each scan starts: those of the anchor (`at_` reads it; a zone of 0 is
a lane without a zone, since zone 0 holds no lane), or with RESCAN the open zones whose ZONE_HEADER shows the medium, from block 1. -/
def recoverLanes (anchored : Bool) (at_ : Nat → Nat → Nat) (medium zs : Nat) (lanes : List LaneScan) : List (Option (LaneScan × Nat)) :=
  if anchored then (List.range (Nat.min 8 (at_ 0x34 1))).map (fun i =>
    let z := at_ (0x40 + 0x20 * i) 4
    let w := at_ (0x48 + 0x20 * i) 8
    if z = 0 then none
    else some ((lanes.find? (fun l => l.zone == z)).getD { zone := z, header := [], wp := w, data := [] }, w))
  else (lanes.filter (fun l => validRec l.header 0 4096 && leAt l.header 6 2 == 0x0302 && leAt l.header (48 + 8) 16 == medium)).map
    (fun l => some (l, l.zone * zs + 1))

/-- A lane after its scan (R545): the lane, the bytes torn, and the JSEQ of its last valid mark. New extents start at the write pointer, in
conventional mode the block after what the scan found (R551). -/
def recoverLane (conv : Bool) (medium : Nat) : Option (LaneScan × Nat) → LaneS × Nat × Nat
  | none => ({}, 0, 0)
  | some (l, start) =>
    let r := scanLane l.data medium (l.data.length / 4096 + 1) 0 (0, 0)
    let e := start * 4096 + r.1
    let wp := if conv then ceilDiv e 4096 else l.wp
    ({ zone := some l.zone, wp := wp, comWp := wp, validEnd := some e }, wp * 4096 - e, r.2)

/-- The zone opened last: that of the highest FIRST_JSEQ. -/
def lastZone (zones : List (Nat × Nat)) : Nat :=
  (zones.foldl (fun (a : Nat × Nat) z => if a.1 = 0xFFFFFFFF ∨ a.2 ≤ z.2 then z else a) (0xFFFFFFFF, 0)).1

/-- JOURNAL_RECOVERY (R545): from the newest anchor, or with RESCAN from zone headers, the lanes are scanned; the totals come back
from the anchor, and the space beyond the last valid record is torn. `lanes` is what the drive reports of each open zone, `full`
the full zones and their FIRST_JSEQ, `badSlots` slots of the own store read with an uncorrectable word, and `corrected` the words that
the reading corrected (R554). -/
def execJournalRecovery (st : Nat) (lanes : List LaneScan) (full : List (Nat × Nat)) (badSlots : List Nat) (corrected : Nat)
    (s : State) : Res :=
  .next (if s.stOk st = false ∨ s.jnState st ≠ 2 then s
    else
      let sc := s.wrN (mr st + MR.MR_ECC_CORR) (s.rdN (mr st + MR.MR_ECC_CORR) + corrected)
      let s0 := if badSlots = [] then sc else
        (sc.setBit (mr st + MR.MR_EVENTS) 0).wrN (mr st + MR.MR_ECC_UNCORR) (s.rdN (mr st + MR.MR_ECC_UNCORR) + badSlots.length)
      let best := s0.bestAnchor st badSlots
      if best = none ∧ (s.jnS st).rescan = false then s0.jnEvent st 18
      else
        let at_ (o n : Nat) : Nat := match best with
          | some x => leNat (s.bytesAt x.1 (0x0C00000000 + 4096 * x.2 + o) n)
          | none => 0
        let conv := s.jnConv st
        let staged := ((s.jnS st).lanes.map (fun l => l.cur)).flatten
        let scan := recoverLanes best.isSome at_ (s.jnS st).medium ((s.jnS st).zoneSize conv) lanes
        let ls := scan.map (recoverLane conv (s.jnS st).medium)
        let torn := (ls.map (fun x => x.2.1)).sum
        let zones := full ++ scan.filterMap (fun x => x.map (fun l => (l.1.zone, leAt l.1.header (48 + 0x20) 8)))
        let s1 := if best = none then (s0.jnEvent st 18) else s0.setTotals st ((List.range 6).map (fun i => at_ (0x140 + 8 * i) 8))
        let s2 := s1.updJn st (fun v => { v with
          lanes := ls.map (fun x => x.1)
          exts := []
          closing := []
          commits := []
          jepoch := (at_ 4 4 + 1) % 2 ^ 32
          gen := at_ 8 8
          prevJseq := ls.foldl (fun m x => Nat.max m x.2.2) (at_ 0x20 8)
          zones := forEach zones ([] : Tbl (Option Nat)) (fun t z => Tbl.set (fun _ => none) t z.1 (some z.2))
          prevZone := lastZone zones
          ckptNext := if best.isSome then at_ 0x170 8 else v.ckptNext
          rescan := false })
        let s3 := (s2.addJnTotal st JN.TORN_LO torn).setJnTotal st JN.JSEQ_DONE_LO (at_ 0x20 8)
        let s4 := if torn = 0 then s3 else s3.jnEvent st 17
        let s4' := match best with
          | some x => s4.wrFld (mr st + MR.MR_NEXT) (10 + 16 * drv st) (16 * drv st) (drv st * 1024 + (x.2 + 1) % 1024)
          | none => s4
        let s5 := (s4'.writeAnchor st 2 (at_ 0x20 8) true).jnEvent st 16
        let s6 := s5.attachDone st
        s6.updJn st (fun v => let l := v.pickLane (s6.laneCount st); v.setLane l { v.lane l with cur := staged }))

/-- DETACH (R550): a commit whose anchor has STATE DETACHED; the lanes are then finished and records forwarded. -/
def execDetach (st req v : Nat) (s : State) : Res :=
  .next (s.onKey (jn st + JN.JN_CMD) req (fun s => if v.testBit 1 && s.jnLive st then s.beginCommit st 2 else s))

/-- ATTACH (R550): the drive whose link is up is probed. -/
def execAttach (st req v : Nat) (s : State) : Res :=
  .next (s.onKey (jn st + JN.JN_CMD) req (fun s =>
    if v.testBit 2 && s.stOk st && (s.jnS st).linkUp && (s.jnState st == 0 || s.jnState st == 4 || s.jnState st == 5 || s.jnState st == 6) then
      s.setJnState st 1 else s))

/-- INIT (R550): every zone of a FOREIGN or FULL drive is reset, and it is treated as blank. -/
def execInitDrive (st req v : Nat) (s : State) : Res :=
  .next (s.onKey (jn st + JN.JN_CMD) req (fun s =>
    match (s.jnS st).drive with
    | none => s
    | some d =>
      if v.testBit 3 && s.stOk st && (s.jnState st == 6 || s.jnState st == 7) then
        (s.nvme st (if s.jnConv st then 8 else 6) [0xFFFFFFFF] []).initMedium st d
      else s))

/-- RESCAN (R545): recovery may go on from zone headers. -/
def execRescan (st req v : Nat) (s : State) : Res :=
  .next (s.onKey (jn st + JN.JN_CMD) req (fun s =>
    if v.testBit 4 && s.stOk st then s.updJn st (fun x => { x with rescan := true }) else s))

/-- DRIVE_LINK_TRY (R708): while no drive is in use and PERST_N is high, the root port tries link training every 100 ms; a drive that trains
is probed. -/
def execDriveLinkTry (st : Nat) (trains : Bool) (s : State) : Res :=
  .next (if s.stOk st && s.passed (s.jnS st).linkTryAt (msec 100) && !(s.jnS st).perstLow && !(s.jnS st).linkUp && (s.jnState st == 0 || s.jnState st == 4) then
      let s1 := s.updJn st (fun v => { v with linkTryAt := some s.cycle, linkUp := trains })
      if trains then s1.setJnState st 1 else s1
    else s)

/-! ## Wear (R548, R549) -/

/-- Medium bytes written in the last 30 days, from readings (R549). -/
def recentBytes (w now : Nat) (l : List (Nat × Nat)) : Nat :=
  match l.filter (fun x => decide (now ≤ x.1 + 2592000)) with
  | [] => 0
  | x :: rest => w - rest.foldl (fun a y => Nat.min a y.2) x.2

/-- Whether the wear logs are read now (R548): an hour has passed since they were last, none was since the attach, or an Asynchronous Event
asks for them. -/
def State.wearNow (s : State) (st : Nat) : Bool :=
  (s.jnS st).wearDue || (match (s.jnS st).wearAt with | none => true | some t => decide (t + msec 3600000 ≤ s.cycle))

/-- Get Log Page 0x02 and 0x09 go to the drive (R522). -/
def State.wearAsk (s : State) (st : Nat) : State := (s.nvme st 3 [2] []).nvme st 3 [9] []

/-- WEAR_READ (R548, R549): MEDIA, E, WEAR and EOL from the drive's log pages: Data Units Written, Percentage Used, and Media
Units Written and the Endurance Estimate where the drive reports them. -/
def execWearRead (st units pct : Nat) (media endurance : Option Nat) (s0 : State) : Res :=
  .next (match s0.stOk st && s0.wearNow st, (s0.jnS st).drive with
    | true, some d =>
      let s := if (s0.jnS st).wearDue then s0 else s0.wearAsk st
      let conv := s.jnConv st
      let m := if conv then 2 ^ 64 - 1 else match media with | some n => n * 1000000000 | none => units * 512000
      let e0 := driveEndur d.capacity endurance
      let e := if s.rdN (jn st + JN.ENDUR_OVR) ≠ 0 then s.rdN (jn st + JN.ENDUR_OVR) * 1000000000 else e0
      let host := s.jnTotal st JN.HOST_LO
      let w := if conv then host else Nat.max m host
      let now := s.stamp st / sec16
      let v := s.jnS st
      let hist := (v.wear ++ [(now, w)]).filter (fun x => decide (now ≤ x.1 + 2592000))
      let r := recentBytes w now hist
      let eol := if r = 0 then 2 ^ 48 - 1 else Nat.min (2 ^ 48 - 1) (now + (e - w) * 2592000 / r)
      let wear := Nat.min 16383 (Nat.max (if e = 0 then 16383 else w * 10000 / e) (pct * 100))
      let old := s.fld (jn st + JN.WEAR) 13 0
      let s1 := ((s.setJn st { v with
        wear := hist
        endurance := e0
        wearAt := some s.cycle
        wearDue := false }).setJnTotal st JN.MEDIA_LO m).wrN (jn st + JN.WEAR) (wear + pct % 256 * 65536)
      let s2 := ((s1.wrN (jn st + JN.EOL_LO) eol).wrN (jn st + JN.EOL_HI) (eol / 2 ^ 32)).jnRatios st
      let s3 := if old < 8000 ∧ 8000 ≤ wear then (s2.jnEvent st 20).health st 0x20 1 0x0E 0 wear eol else s2
      if old < 9500 ∧ 9500 ≤ wear then (s3.jnEvent st 21).health st 0x21 2 0x0E 0 wear eol else s3
    | _, _ => s0)

/-- DRIVE_ASYNC_EVENT (R548): the engine asks for the wear logs and for the next Asynchronous Event. -/
def execDriveAsyncEvent (st : Nat) (s : State) : Res :=
  .next (if s.stOk st && (s.jnS st).drive.isSome then
    ((s.updJn st (fun v => { v with wearDue := true })).wearAsk st).nvme st 10 [] [] else s)

end Sys2Proof.Machine
end

