-- ==== Sys2Proof/Machine/Recover.lean ====
section
/-! DEFINITION. Recovery of delivery (R395, R433, R434): channels aborted, rings rewound, queues replayed behind a new epoch and
their fences, channels started again. -/
namespace Sys2Proof.Machine
set_option Elab.async false

/-- The channels of a die. -/
def dieChans : List (Nat × Nat) := (List.range 512).map (fun i => (i / 32, i % 32))

/-- The channels of a die that a recovery takes from steward `lost`: running, or halted with BUS_HALT, with TARGET that steward
(R395, R433). -/
def State.chansTo (s : State) (die lost : Nat) : List (Nat × Nat) :=
  dieChans.filter (fun x => s.fld (bgc die x.1 x.2 + BG.CH_CFG) 0 0 == lost - 4 &&
    (chRunning (s.chState die x.1 x.2) || (s.chState die x.1 x.2 == 5 && s.fld (bgc die x.1 x.2 + BG.CH_STAT) 11 8 == 1)))

/-- The enabled host ring entries and journal ring entries of a steward that name channels of a list (R433, R588). -/
def State.ringsNaming (s : State) (st die : Nat) (chs : List (Nat × Nat)) : List Nat :=
  (List.range 1024).filter (fun k => s.ringOn st k && s.ringDie st k == die && chs.contains (s.ringEng st k, s.ringCh st k))
def State.jrNaming (s : State) (st die : Nat) (chs : List (Nat × Nat)) : List Nat :=
  (List.range 64).filter (fun k => s.jrFld st k 31 31 == 1 && s.jrFld st k 23 22 == die &&
    chs.contains (s.jrFld st k 21 18, s.jrFld st k 17 13))

/-- The rings of channels of a list rewound (R433); the second part gives, by queue, the bytes by which its ring was rewound. -/
def State.rewindRings (s : State) (st die : Nat) (chs : List (Nat × Nat)) : State × List (Nat × Nat) :=
  let a := forEach (s.ringsNaming st die chs) (s, ([] : List (Nat × Nat))) (fun a k =>
    let q := s.ringQueue st k
    let r := a.1.rewind die (s.ringEng st k) (s.ringCh st k) q (s.shadow st k)
    (r.1.ledgerAt st k r.2.1, a.2 ++ [(q, r.2.2)]))
  forEach (s.jrNaming st die chs) a (fun a k =>
    let q := s.jrFld st k 11 0
    let r := a.1.rewind die (s.jrFld st k 21 18) (s.jrFld st k 17 13) q (s.jrPos st k)
    (r.1, a.2 ++ [(q, r.2.2)]))

/-- The queue whose fence a channel's restart waits for: that of the ring entry that names it. -/
def State.chanQueue (s : State) (st die : Nat) (x : Nat × Nat) : Option Nat :=
  match (s.ringsNaming st die [x]).head? with
  | some k => some (s.ringQueue st k)
  | none => ((s.jrNaming st die [x]).head?).map (fun k => s.jrFld st k 11 0)

/-- The package epoch plus 1, into BS_EPOCH of every present die and UP_EPOCH of every steward, whose change vector 1 signals (R413, R434). -/
def State.nextEpoch (s : State) : State :=
  let e := (s.epoch + 1) % 2 ^ 32
  let s1 := forEach s.concs { s with epoch := e } (fun s d => s.wrN (dk d + BS.BS_EPOCH) e)
  forEach s.stewards s1 (fun s st => (s.wrN (upb st + UP.UP_EPOCH) e).msix st 1)

/-- What one recovery writes into its fences (R406). -/
structure FenceInfo where
  cause : Nat
  steward : Nat
  writer : Nat
  prevEpoch : Nat
  detect : Nat

/-- A queue replayed (R352) and its fence pushed behind what it replays (R434). -/
def State.replayFence (s : State) (i : FenceInfo) (rews : List (Nat × Nat)) (die q : Nat) : State :=
  let r := s.replayQueue die q
  r.1.pushFence { die := die
                  queue := q
                  cause := i.cause
                  steward := i.steward
                  writer := i.writer
                  prevEpoch := i.prevEpoch
                  detect := i.detect
                  replayed := r.2
                  firstSeq := if r.2 = 0 then none else ((r.1.queue die q).und.head?).map (fun x => leAt x.data 12 4)
                  rewind := ((rews.find? (fun x => x.1 == q)).map (fun x => x.2)).getD 0 }

/-- Recovery of one die by steward `st` (R433, R434): the channels of the list are aborted, their rings rewound and their TARGET
set; the queues of the list take CARRIER `st`, are replayed and get their fences; the channels start no earlier than `due`. The
new epoch has been written. -/
def State.recoverDie (s : State) (st die : Nat) (i : FenceInfo) (chs : List (Nat × Nat)) (qs : List Nat) (due : Nat) : State :=
  let s1 := forEach chs s (fun s x => s.abortQuiet die x.1 x.2)
  let r := s1.rewindRings st die chs
  let s2 := forEach chs r.1 (fun s x => s.wrFld (bgc die x.1 x.2 + BG.CH_CFG) 0 0 (st - 4))
  let s3 := if s.part = .azl128 then s2 else forEach qs s2 (fun s q => s.wrFld (qk die q + BS.Q_CFG) 25 25 (st - 4))
  let s4 := forEach qs s3 (fun s q => s.replayFence i r.2 die q)
  { s4 with restarts := s4.restarts ++ chs.map (fun x =>
      { st := st, die := die, eng := x.1, ch := x.2, queue := s.chanQueue st die x, due := due }) }

/-- Whether the fence of a queue still waits for a cell (R434). -/
def State.fenceWaits (s : State) (die q : Nat) : Bool := s.fences.any (fun f => f.die == die && f.queue == q)

/-- Whether a channel may be started: its time has come and its queue's fence is queued (R433, R434). -/
def State.restartReady (s : State) (r : Restart) : Bool :=
  decide (r.due ≤ s.cycle) && (match r.queue with | some q => !s.fenceWaits r.die q | none => true)

/-- The channels of a steward's recovery that may start are started with START; the switch-over ends with the last of them and
the last fence, and FO_DURATION reports the time from the last heartbeat (R433, R584, R608). -/
def State.restartGo (s : State) (st : Nat) : State :=
  let go := s.restarts.filter (fun r => r.st == st && s.restartReady r)
  let s1 := forEach go { s with restarts := s.restarts.filter (fun r => !(r.st == st && s.restartReady r)) } (fun s r =>
    s.chStart r.die r.eng r.ch)
  match Tbl.get (fun _ => none) s.switchAt st with
  | none => s1
  | some t =>
    if s1.restarts.any (fun r => r.st == st) = true ∨ s1.fences.any (fun f => f.writer == st) = true then s1
    else (({ s1 with switchAt := Tbl.set (fun _ => none) s1.switchAt st none }).wrN (fo st + BRS.FO_DURATION) ((s.cycle - t) /
      1000)).setBit (fo st + BRS.FO_EVENTS) 5

end Sys2Proof.Machine
end

