-- ==== Sys2Proof/Machine/Power.lean ====
section
/-! DEFINITION. Power cuts and hold-up (R555-R577): the hold-up test, the commit window, final commit and resume. -/
namespace Sys2Proof.Machine
set_option Elab.async false

def State.huS (s : State) (st : Nat) : HuS := Tbl.get (fun _ => {}) s.hus st
def State.setHu (s : State) (st : Nat) (v : HuS) : State := { s with hus := Tbl.set (fun _ => {}) s.hus st v }
def State.updHu (s : State) (st : Nat) (f : HuS → HuS) : State := s.setHu st (f (s.huS st))
def State.huEvent (s : State) (st i : Nat) : State := s.setBit (hu st + HU.HU_EVENTS) i
/-- A committed HU register of a steward. -/
def State.huA (s : State) (st off : Nat) : Nat := s.actN (hu st + off)
def State.vNow (s : State) (st : Nat) : Nat := s.rdN (hu st + HU.V_NOW)

/-- HU_STAT.STATE and TEST_DRIVER as their conditions stand (R559, R574, R577). -/
def State.huFresh (s : State) (st : Nat) : State :=
  let v := s.huS st
  let k := hu st + HU.HU_STAT
  let n := if s.fld k 2 0 = 5 ∧ s.finalC = true then 5 else if s.finalC then 4 else if v.testAt.isSome then 2
    else if v.ever = false then 0 else if s.rdN (jn st + JN.WINDOW) = 0 then 3 else 1
  (s.wrFld k 2 0 n).putBit k 6 (st == s.lead)

/-! ## The window (R562-R566, R574, R575) -/

/-- T_HOLD in µs (R564): µF × mV² / mW is 10^-9 s. -/
def State.tHold (s : State) (st : Nat) : Nat :=
  let v0 := Nat.min (s.huA st HU.V_B) (s.vNow st)
  let vm := s.huA st HU.V_MIN
  s.rdN (hu st + HU.CAP) * (s.huA st HU.MARGIN % 128) * (v0 * v0 - vm * vm) / (200 * s.huA st HU.P_FC * 1000)

/-- T_AVAIL in µs (R564). -/
def State.tAvail (s : State) (st hold : Nat) : Int :=
  (hold : Int) - (s.flushMax st : Nat) - (s.rdN (jn st + JN.ANCHOR_MAX) : Nat) - 2000

/-- WINDOW in units of 4 KiB (R564); a negative result is 0. -/
def State.windowOf (s : State) (st : Nat) (avail : Int) : Nat :=
  (((s.rdN (jn st + JN.WRITE_RATE) : Nat) : Int) * avail - (s.laneCount st * s.gran st : Nat)).toNat / 4096

/-- The monitor's computation (R564, R565, R574): T_HOLD, T_AVAIL and WINDOW; SHORT entered or left; the 7/8 rule of R540 where
the new window brings it about. -/
def State.windowUpdate (s : State) (st : Nat) : State :=
  let old := s.jnWindow st
  let hold := if (s.huS st).valid then s.tHold st else 0
  let avail := s.tAvail st hold
  let w := if (s.huS st).valid then s.windowOf st avail else 0
  let s1 := ((s.wrN (hu st + HU.T_HOLD) hold).wrI (hu st + HU.T_AVAIL) avail).wrN (jn st + JN.WINDOW) w
  let cap := s.rdN (hu st + HU.CAP)
  let s2 := if w = 0 ∧ (s.huS st).short = false then
      (((s1.updHu st (fun v => { v with short := true })).huEvent st 2).health st 0x30 2 0x0F 0 (wordOfInt avail).toNat cap)
    else if w ≠ 0 ∧ (s.huS st).short = true then
      ((s1.updHu st (fun v => { v with short := false })).health st 0x31 0 0x0F 0 w cap)
    else s1
  let n := (s.jnS st).inflight
  let s3 := if s2.jnLive st = true ∧ s2.finalC = false ∧ 0 < n ∧ 7 * s2.jnWindow st ≤ 8 * n ∧ ¬ 7 * old ≤ 8 * n then s2.beginCommit st 0
    else s2
  s3.huFresh st

/-- WINDOW_UPDATE (R564): every 10 ms. -/
def execWindowUpdate (st : Nat) (s : State) : Res :=
  .next (if s.stOk st && s.passed (s.huS st).windowAt (msec 10) then
    (s.updHu st (fun v => { v with windowAt := some s.cycle })).windowUpdate st else s)

/-! ## The hold-up test (R559-R562) -/

/-- HU_TEST driven by the lead. -/
def State.huPin (s : State) (level : Bool) : State := s.emit .huTest s.lead [b2n level]

/-- A test ends without a result (R561): 1 NOT_CHARGED, 2 TIMEOUT, 3 TOO_FAST, 4 ABORTED. -/
def State.huFail (s : State) (cause : Nat) : State :=
  let st := s.lead
  let s1 := if (s.huS st).testAt.isSome then s.huPin false else s
  let s2 := s1.updHu st (fun v => { v with
    testAt := none
    ts := none
    retryAt := if cause = 1 then some (s.cycle + msec 10000) else v.retryAt })
  (((s2.wrFld (hu st + HU.HU_STAT) 14 12 cause).huEvent st 1).incW (hu st + HU.TESTS_FAILED)).huFresh st

/-- A test that runs is aborted (R561). -/
def State.huAbort (s : State) : State := if (s.huS s.lead).testAt.isSome then s.huFail 4 else s

/-- The lead starts a test, which fails at once with NOT_CHARGED while V_NOW lies below V_A (R560, R561). -/
def State.huStart (s : State) : State :=
  let st := s.lead
  let s1 := s.updHu st (fun v => { v with
    dueAt := s.cycle + s.huA st HU.PERIOD * 1000000000
    retryAt := none
    waitVa := false })
  if s.vNow st < s.huA st HU.V_A then s1.huFail 1
  else ((s1.updHu st (fun v => { v with
    testAt := some s.cycle
    ts := none })).huPin true).huFresh st

/-- Whether the lead may start a test. -/
def State.huReady (s : State) (st : Nat) : Bool := s.stOk st && st == s.lead && !s.finalC && (s.huS st).testAt.isNone

/-- HU_TEST_START (R560): a periodic test falls due. -/
def execHuTestStart (st : Nat) (s : State) : Res :=
  .next (if s.huReady st && s.abit (hu st + HU.HU_CTL) 0 && decide ((s.huS st).dueAt ≤ s.cycle) then s.huStart else s)

/-- TEST_NOW (R560, R576): on the lead only. -/
def execTestNow (st req v : Nat) (s : State) : Res :=
  .next (s.onKey (hu st + HU.HU_CMD) req (fun s => if v.testBit 0 && s.huReady st then s.huStart else s))

/-- HU_TEST_RETRY (R560): 10 s after NOT_CHARGED. -/
def execHuTestRetry (st : Nat) (s : State) : Res :=
  .next (match (s.huS st).retryAt with
    | some t => if s.huReady st = true ∧ t ≤ s.cycle then s.huStart else s
    | none => s)

/-- A test result taken by a monitor (R560, R562). -/
def State.huTake (s : State) (st t cap : Nat) : State :=
  let s1 := (((s.wrN (hu st + HU.T_TEST) t).wrN (hu st + HU.CAP) cap).wrN (hu st + HU.TEST_AGE) 0).updHu st (fun v => { v with
    valid := true
    ever := true
    validAt := s.cycle })
  (s1.huEvent st 0).huFresh st

/-- HU_TEST_END (R560, R561): V_NOW has fallen below V_B; the result goes to the partner too. -/
def State.huEnd (s : State) (ts : Nat) : State :=
  let st := s.lead
  let t := (s.stamp st - ts) / 65536000
  if t < 1000 then s.huFail 3
  else
    let cap := s.huA st HU.I_TEST * t / (s.huA st HU.V_A - s.huA st HU.V_B)
    let s1 := (s.updHu st (fun v => { v with
      testAt := none
      ts := none })).huPin false
    let s2 := if s.present (partner st) then s1.updHu (partner st) (fun v => { v with rx := some (t, cap) }) else s1
    s2.huTake st t cap

/-- HU_SAMPLE (R560, R572, R575): every 10 µs HU_SENSE is sampled; `code` is the 12-bit sample of 0 to 1,200 mV. -/
def execHuSample (st code : Nat) (s0 : State) : Res :=
  .next (if s0.stOk st = false ∨ s0.passed (s0.huS st).sampleAt (usec 10) = false then s0
    else
      let s := s0.updHu st (fun v => { v with sampleAt := some s0.cycle })
      let v := code % 4096 * 1200 * (s.huA st HU.SCALE % 2 ^ 20) / (4096 * 256)
      let s1 := s.wrN (hu st + HU.V_NOW) v
      let h := s.huS st
      if (s.huS s.lead).testAt.isNone then
        let s2 := if v < s.huA st HU.V_B then s1.huEvent st 3 else s1
        if h.waitVa = true ∧ s.huReady st = true ∧ s.huA st HU.V_A ≤ v ∧ 0 < s.huA st HU.V_A then s2.huStart else s2
      else if st ≠ s.lead then s1
      else
        let ts := match h.ts with | some t => some t | none => if v < s.huA st HU.V_A then some (s.stamp st) else none
        let s2 := s1.updHu st (fun x => { x with ts := ts })
        match ts with
        | some t => if v < s.huA st HU.V_B then s2.huEnd t else s2
        | none => s2)

/-- HU_TEST_TIMEOUT (R561). -/
def execHuTestTimeout (st : Nat) (s : State) : Res :=
  .next (match (s.huS st).testAt with
    | some t => if s.stOk st = true ∧ st = s.lead ∧ t + msec (s.huA st HU.TEST_MAX) ≤ s.cycle then s.huFail 2 else s
    | none => s)

/-- HU_RESULT_RX (R560): the partner takes the result over U_X. -/
def execHuResultRx (st : Nat) (s : State) : Res :=
  .next (match (s.huS st).rx with
    | some (t, cap) => if s.stOk st then (s.updHu st (fun v => { v with rx := none })).huTake st t cap else s
    | none => s)

/-- HU_RESULT_EXPIRE (R562): a result older than 2 × PERIOD is no longer valid. -/
def execHuResultExpire (st : Nat) (s : State) : Res :=
  .next (if s.stOk st = true ∧ (s.huS st).valid = true ∧ (s.huS st).validAt + 2 * s.huA st HU.PERIOD * 1000000000 ≤ s.cycle then
      ((s.updHu st (fun v => { v with valid := false })).wrN (hu st + HU.CAP) 0).windowUpdate st
    else s)

/-! ## The shadowed registers (R563, R576) -/

/-- The shadowed HU registers. -/
def huShadowed : List Nat := [HU.HU_CTL, HU.SCALE, HU.V_A, HU.V_B, HU.V_MIN, HU.I_TEST, HU.P_FC, HU.MARGIN, HU.PERIOD, HU.TEST_MAX,
  HU.PF_FILT, HU.RESUME, HU.MIN_WINDOW]

/-- Whether R563 refuses the shadows of a steward. -/
def State.huRefused (s : State) (st : Nat) : Bool :=
  let r := fun o => s.rdN (hu st + o)
  !(decide (r HU.V_B < r HU.V_A) && decide (r HU.V_MIN < r HU.V_B) && decide ((r HU.V_A - r HU.V_B) * 8 ≤ r HU.V_A) &&
    decide (r HU.I_TEST ≠ 0) && decide (r HU.P_FC ≠ 0))

/-- HU_COMMIT (R563, R576) on the lead; its values are copied to the partner. The partner's own shadowed values are ignored. -/
def State.huCommit (s : State) (st : Nat) : State :=
  if st ≠ s.lead then s
  else if s.huRefused st then s.huEvent st 8
  else
    let s1 := (s.undirty 8 0).commitRegs (huShadowed.map (fun o => hu st + o))
    if s.present (partner st) then
      forEach huShadowed s1 (fun s o => (s.wr (hu (partner st) + o) (s.act (hu st + o))).setAct (hu (partner st) + o) (s.act (hu st + o)))
    else s1

def execHuCommit (st req v : Nat) (s : State) : Res :=
  .next (s.onKey (hu st + HU.HU_COMMIT) req (fun s => if v.testBit 0 then s.huCommit st else s))

/-! ## Final commit (R555-R570) -/

/-- The camera ports of the present dies. -/
def State.allPorts (s : State) : List Nat := (List.range 128).filter (fun p => s.present (p / 32))

/-- FINAL_COMMIT_ENTER on a concentrator (R567, R570): ports go quiet and their landing FIFOs empty, channels are aborted with
QUIET, SSI frames stop, with PCC_SHED cable power is no longer wanted, and a frame of the chain is due at once (R719). -/
def State.fcConc (s : State) (die : Nat) : State :=
  let shed := s.abit (hu s.lead + HU.HU_CTL) 1 || s.shutNormal
  let s1 := forEach (s.allPorts.filter (fun p => p / 32 == die)) s (fun s p =>
    let s1 := if s.lpState p = 0 ∨ s.lpRole p = 2 then s else s.goQuiet p
    let s2 := s1.updPort p (fun v => { v with fifo := [], line := [], cur := none, stream := [], discard := true })
    if shed then s2.setPwr p false else s2)
  let run := dieChans.filter (fun x => chRunning (s.chState die x.1 x.2))
  let s2 := forEach run s1 (fun s x => s.chAbort die x.1 x.2 true)
  let s3 := { s2 with fcChans := s2.fcChans ++ run.map (fun x => (die, x.1, x.2)) }
  let s4 : State := forEach (List.range 4) s3 (fun s a => s.updAx (4 * die + a) (fun v => { v with ssiAt := none }))
  s4.updPcc die (fun v => { v with frameAt := none })

/-- FINAL_COMMIT_ENTER on a steward (R567-R569): the engine commits what it has accepted; one without a drive is done.
The I2C target releases its pins (R664). -/
def State.fcSteward (s : State) (st : Nat) : State :=
  let s1 := (((s.updHu st (fun v => { v with fcAt := s.cycle })).wrN (hu st + HU.FC_VSTART) (s.vNow st)).huEvent st 4).huFresh st
  let s2 := (((s1.updJn st (fun v => { v with
    final := true
    finalDone := !(s1.jnState st == 3 || s1.jnState st == 7) })).updI2c st (fun v => { v with inTransfer := false })).clrBit
      (i2c st + I2C.I2C_STAT) 5).clrBit (i2c st + I2C.I2C_STAT) 4
  if s1.jnState st = 3 ∨ s1.jnState st = 7 then s2.beginCommit st 1 else s2

/-- FINAL_COMMIT_ENTER (R567): once started it runs to its end. -/
def State.finalEnter (s : State) : State :=
  if s.finalC then s
  else
    let s1 := s.huAbort
    let s2 := forEach s.concs { s1 with finalC := true, fcChans := [] } (fun s d => s.fcConc d)
    (forEach s.stewards s2 (fun s st => s.fcSteward st)).upAll

/-- PWR_FAIL (R555, R567, R572): PWR_FAIL_N has been low for `low` ns, and that is at least PF_FILT µs, the lead's on every die; a steward that
has already reached FINAL_DONE counts RESUME anew. -/
def execPwrFail (low : Nat) (s : State) : Res :=
  .next (if low < s.huA s.lead HU.PF_FILT % 128 * 1000 then s
    else (forEach s.stewards s (fun s st =>
    let s1 := s.setBit (hu st + HU.HU_STAT) 4
    if s.finalC && s.hostSilent st then s1.updHu st (fun v => { v with doneAt := s.cycle }) else s1)).finalEnter)

/-- The final-commit level and the reset level of a rail in mV (R557). -/
def railLevels (rail : Nat) : Nat × Nat :=
  match rail with
  | 3 => (760, 720)
  | 5 => (1140, 1080)
  | 6 => (1710, 1620)
  | 7 => (1710, 1620)
  | 8 => (1000, 950)
  | _ => (710, 680)

/-- A rail trip seen by the stewards in `sts`: UV, UV_RAIL of the first rail and UV_TRIP (R557). -/
def State.railTrip (s : State) (sts : List Nat) (rail : Nat) : State :=
  (forEach sts s (fun s st =>
    let k := hu st + HU.HU_STAT
    let s1 := if s.bit k 5 then s else s.wrFld k 11 8 rail
    (s1.setBit k 5).huEvent st 7)).finalEnter

/-- RAIL_UNDERVOLT (R557): a rail of a die has stayed at `mv` mV or below for `ns` ns: below its final-commit level for 1 µs. A steward's trip shows in its own
HU_STAT, a concentrator's in that of every steward (log entry 46). -/
def execRailUndervolt (die rail mv ns : Nat) (s : State) : Res :=
  .next (if s.present die && decide (1 ≤ rail) && decide (rail ≤ 8) && decide (mv < (railLevels rail).1) && decide (1000 ≤ ns) then
      s.railTrip (if die < 4 then s.stewards else [die]) rail
    else s)

/-- FINAL_DONE (R568, R569, R693): the commit and the drive's shutdown are over (`shst`: CSTS.SHST reports it complete, awaited for 10 ms
after an abrupt notification and 10 s after a normal one): the
steward parks its cores and goes silent. At the end of a shutdown of both stewards STAGE reads OFF, and FAULT_N is asserted. -/
def execFinalDone (st : Nat) (shst : Bool) (s : State) : Res :=
  .next (if s.stOk st = false ∨ s.finalC = false ∨ (s.jnS st).finalDone = false ∨ s.hostSilent st = true ∨
      (shst || s.passed (s.jnS st).shnAt (msec (s.stopWait st))) = false then s
    else
      let h := s.huS st
      let s1 := ((s.wrN (hu st + HU.FC_VEND) (s.vNow st)).wrN (hu st + HU.FC_TIME) ((s.cycle - h.fcAt) / 1000)).huEvent st 5
      let s2 := ({ (s1.updHu st (fun v => { v with doneAt := s.cycle })) with
        parked := st :: s.parked.filter (fun x => x != st) }).wrFld (hu st + HU.HU_STAT) 2 0 5
      if s2.shutNormal && s2.stewards.all (fun x => s2.hostSilent x) then
        (forEach s2.stewards s2 (fun s x => s.wrFld (sc x + SC.BOOT_STAT) 3 0 9)).faultN 4 true
      else s2)

/-! ## Resume (R572) -/

/-- Delivery restarted by one steward on the channels that final commit aborted (R572). -/
def State.resumeRings (s : State) (prev st : Nat) : State :=
  let i : FenceInfo := { cause := 4, steward := st - 4, writer := st, prevEpoch := prev, detect := s.stamp st }
  (forEach s.concs s (fun s d =>
    let mine := (s.fcChans.filter (fun x => x.1 == d)).map (fun x => (x.2.1, x.2.2))
    let chs := mine.filter (fun x => s.fld (bgc d x.1 x.2 + BG.CH_CFG) 0 0 == st - 4)
    s.recoverDie st d i chs (s.carried d (st - 4)) s.cycle)).restartGo st

/-- POWER_RESUME (R572, R673, R693): no boundary scan has been asked for, no die has reset, no shutdown is under way, every steward has reached FINAL_DONE, and PWR_FAIL_N, deasserted for
`high` ns, has been so for RESUME ms since. -/
def execPowerResume (high : Nat) (s : State) : Res :=
  let ok := s.finalC && s.jtag.bscan.isNone && decide (msec (s.huA s.lead HU.RESUME) ≤ high) && !s.shutNormal && s.fcReset.isEmpty && s.stewards.all (fun st => s.hostSilent st &&
    decide ((s.huS st).doneAt + msec (s.huA s.lead HU.RESUME) ≤ s.cycle))
  .next (if ok = false then s
    else
      let s1 : State := { s with
        finalC := false
        parked := s.parked.filter (fun x => !s.stewards.contains x) }
      let s2 := forEach s1.stewards s1 (fun s st =>
        (((s.clrBit (hu st + HU.HU_STAT) 4).updJn st (fun v => { v with
          final := false
          finalDone := false
          shnAt := none })).updHu st (fun v => { v with waitVa := st == s.lead })).huFresh st)
      let s3 := forEach s2.allPorts s2 (fun s p => if s.abit (lp p + LP.CTL) 4 && s.lpRole p != 2 then s.goDetect p else s)
      let s4 := forEach s3.stewards s3 (fun s st => (s.windowUpdate st).sendWaiting st)
      let s5 := forEach s4.stewards s4.nextEpoch (fun t st => t.resumeRings s4.epoch st)
      (forEach s5.stewards { s5 with fcChans := [] } (fun s st => s.huEvent st 6)).upAll)

end Sys2Proof.Machine
end

