-- ==== Sys2Proof/Machine/Avail.lean ====
section
/-! DEFINITION. Availability and integrity (R578-R610): heartbeats, loss and failover, moored mode, planned stops, the patrol
scrubber, stack failure, keeper watchdogs and the commands of the check-value units. What a heartbeat's arrival brings is in
Return.lean. -/
namespace Sys2Proof.Machine
set_option Elab.async false

def State.hb (s : State) (die m : Nat) : HbS := Tbl.get (fun _ => {}) s.hbs (die * 8 + m)
def State.setHb (s : State) (die m : Nat) (v : HbS) : State := { s with hbs := Tbl.set (fun _ => {}) s.hbs (die * 8 + m) v }
def State.updHb (s : State) (die m : Nat) (f : HbS → HbS) : State := s.setHb die m (f (s.hb die m))

/-- FO_STAT and FO_EVENTS of a die: of its BR block on a concentrator, of U_X on a steward (R607, R608). -/
def foStat (die : Nat) : Nat := if die < 4 then br die + BR.FO_STAT else fo die + BRS.FO_STAT
def foEvents (die : Nat) : Nat := if die < 4 then br die + BR.FO_EVENTS else fo die + BRS.FO_EVENTS
/-- HB_MISS of a die. -/
def State.hbMax (s : State) (die : Nat) : Nat := s.fld (if die < 4 then br die + BR.FO_CTL else fo die + BRS.FO_CTL) 3 0

/-- The planned mark that end `m` of a die holds for its far steward (R589, R607, R608). -/
def State.isPlanned (s : State) (die m : Nat) : Bool :=
  if die < 4 then s.bit (foStat die) (3 + m) else m == 4 && s.bit (foStat die) 2

/-- Whether the sideband of an end is up (R469). -/
def State.sbUp (s : State) (die m : Nat) : Bool := s.modOk die m && s.bit (modKey die m BR.MOD_STAT) 8

/-- HEARTBEAT_TX (R582): every 100 µs; a concentrator's heartbeat carries HB_SEEN, a steward's its LEAD bit (R685). -/
def execHeartbeatTx (die m : Nat) (s : State) : Res :=
  let f := farEnd die m
  .next (if s.sbUp die m = false ∨ (4 ≤ die ∧ s.hbOn.contains die = false) then s
    else
      let due := match (s.hb die m).tx with | some t => decide (t + usec 100 ≤ s.cycle) | none => true
      if due then
        (s.updHb die m (fun v => { v with tx := some s.cycle })).updHb f.1 f.2 (fun v => { v with
          inbox := v.inbox ++ [if die < 4 then s.fld (foStat die) 1 0 else s.fld (foStat die) 1 1] })
      else s)

/-! ## Moored mode and loss of a die (R587, R592) -/

/-- Whether a concentrator has lost the steward of module `m` (R583, R587): by heartbeats, or its module is FAILED, DOWN or ABSENT. -/
def State.gone (s : State) (die m : Nat) : Bool :=
  let n := s.endState die m
  (s.hb die m).lost && !s.isPlanned die m || n == 0 || n == 1 || n == 5

/-- The current MOVE of a channel writes to a steward: to STEWARD or RING (R395). -/
def State.movesOut (s : State) (die e c : Nat) : Bool :=
  match (s.chan die e c).mv with
  | some v => nbits (v.words.headD 0) 54 53 != 0
  | none => false

/-- MOORED_ENTER (R587): where both stewards are gone; channels that write to a steward halt with BUS_HALT (R395), and the die's time is in
holdover (R59). -/
def State.mooredCheck (s : State) (die : Nat) : State :=
  if s.bit (foStat die) 2 ∨ s.gone die 0 = false ∨ s.gone die 1 = false then s
  else
    let s1 := (((s.setBit (foStat die) 2).setBit (foEvents die) 2).logErr die 5 4 0x0B 0 0 0).health die 6 2 0x0B 0 die 0
    (forEach dieChans s1 (fun s x => if chRunning (s.chState die x.1 x.2) && s.movesOut die x.1 x.2 then s.halt die x.1 x.2 1 else s)).mooredTime
      die

/-- Whether a steward has lost a concentrator die (R592). -/
def State.stLost (s : State) (st die : Nat) : Bool :=
  (s.hb st die).lost || s.endState st die == 1 || s.endState st die == 5

/-- DIE_LOST (R592): every steward that is up has lost the die. -/
def State.dieLostCheck (s : State) (die : Nat) : State :=
  if s.lostDies.contains die ∨ s.liveStewards.all (fun st => s.stLost st die) = false then s
  else
    let s1 : State := { s with lostDies := die :: s.lostDies }
    (forEach s1.liveStewards s1 (fun s st => s.setBit (foEvents st) 3)).health s.lead 5 2 0x0B 0 die 0

/-! ## Loss of a steward or a module (R583, R584) -/

/-- FO_TIME: the declaration. -/
def State.foTime (s : State) (st : Nat) : State := s.wrDt (fo st + BRS.FO_TIME) (dtPack (s.stamp st))

/-- The requester codes of a steward's cores (R439). -/
def coresOf (st o : Nat) : Bool := if st = 4 then decide (1 ≤ o) && decide (o ≤ 4) else decide (5 ≤ o) && decide (o ≤ 8)

/-- The lead role passes to a steward (R25). LEAD of FO_STAT follows it (R608); a hold-up test of the old lead ends (R561); the new lead's
counter is the reference with no step, its SRC selects the source (R59, R60), PPS_OUT passes at the next whole second (R68), and its
first lease of JSEQ numbers starts afresh (R532). -/
def State.setLead (s : State) (st : Nat) : State :=
  if s.stOk st = false then s
  else if s.lead = st then s.setBit (fo st + BRS.FO_STAT) 1
  else
    let s1 := s.huAbort
    let m : State := { s1 with
      lead := st
      tm := { s1.tm with ppsHand := some (s.lead, s.stamp s.lead / sec16) } }
    let m2 := forEach [TB.SCHED_ACT0, TB.SCHED_ACT1, TB.SCHED_ACT2, TB.SCHED_CSTAT, TB.SCHED_CONFLICT] m (fun m o =>
      m.wr (tb st + o) (s.rd (tb s.lead + o)))
    let s2 := (if m2.timeSrc = s.timeSrc then m2 else m2.sourceChanged).setBit (fo st + BRS.FO_STAT) 1
    let s3 := s2.updJn st (fun v => { v with granted := none })
    let s4 := if s.present (partner st) then (s3.clrBit (fo (partner st) + BRS.FO_STAT) 1).huFresh (partner st) else s3
    s4.huFresh st

/-- STEWARD_LOST (R583, R584, R25): the survivor `sv` fails over. Requests that the lost lead had taken end with LEAD_LOST (R633). -/
def State.stewardLost (s : State) (sv : Nat) : State :=
  let l := partner sv
  let last := (s.hb sv 4).rx.getD s.cycle
  let wasLead := s.lead == l
  let s0 : State := { s with declared := l :: s.declared.filter (fun x => x != l) }
  let s1 : State := if wasLead then { s0.leadLost with dict := { s0.dict with serving := true } } else s0
  let s2 := (((s1.setLead sv).setBit (fo sv + BRS.FO_STAT) 3).setBit (fo sv + BRS.FO_EVENTS) 0).foTime sv
  let s3 := (s2.logErr sv 5 2 0x0B 0 (l - 4) 0).semRelease sv (coresOf l)
  let s4 := forEach (s3.ep sv).dbPend (s3.updEp sv (fun e => { e with dbPend := [] })) (fun s p => s.takeHead sv p.1 p.2)
  let i : FenceInfo := { cause := 1, steward := l - 4, writer := sv, prevEpoch := s.epoch, detect := s.stamp sv }
  let due := s.cycle + usec 100
  let s5 := forEach (s.concs.filter (fun d => s.endState sv d == 3)) s4.nextEpoch (fun s d =>
    s.recoverDie sv d i (s.chansTo d l) (s.carried d (l - 4)) due)
  let s6 : State := { s5 with switchAt := Tbl.set (fun _ => none) s5.switchAt sv (some last) }
  (s6.health sv 2 2 0x0B 0 (l - 4) s6.epoch).upAll

/-- SPLIT_HALT (R583): U_X has failed while a concentrator still sees the other steward: the partner stops itself. -/
def State.splitHalt (s : State) (st : Nat) : State :=
  let s1 := ((s.setBit (fo st + BRS.FO_EVENTS) 4).logErr st 5 5 0x0B 0 (st - 4) 0).health st 8 2 0x0B 0 (st - 4) 0
  { s1 with
    hbOn := s1.hbOn.filter (fun x => x != st)
    parked := st :: s1.parked.filter (fun x => x != st) }

/-- Whether a concentrator that a steward hears reports HB_SEEN for the other steward in its last heartbeat (R583). -/
def State.othersSee (s : State) (st : Nat) : Bool :=
  s.concs.any (fun d => (s.hb st d).rx.isSome && !s.stLost st d && (s.hb st d).seen.testBit (partner st - 4))

/-- The scope of a loss on U_X, judged by one steward (R583). -/
def State.uxJudge (s : State) (st : Nat) : State :=
  if s.stOk st = false ∨ s.hbOn.contains st = false ∨ s.present (partner st) = false ∨ (s.hb st 4).lost = false ∨
    s.isPlanned st 4 = true ∨ s.declared.contains (partner st) = true then s
  else if s.othersSee st = false then s.stewardLost st
  else if st ≠ s.lead then s.splitHalt st
  else s

/-- MODULE_LOST (R583, R434): die `die` has lost steward `l` while the other steward still hears both. -/
def State.moduleJudge (s : State) (die l : Nat) : State :=
  let sv := partner l
  let uxOk := match (s.hb sv 4).rx with | some t => decide (s.cycle < t + usec 105) && !(s.hb sv 4).lost | none => false
  if s.gone die (l - 4) = false ∨ s.present sv = false ∨ uxOk = false ∨ s.hbOn.contains sv = false ∨ (s.hb sv die).rx = none ∨
    s.stLost sv die = true ∨ s.modLost.contains (die, l) = true ∨ s.present l = false then s
  else
    let last := (s.hb die (l - 4)).rx.getD s.cycle
    let s1 : State := { s with modLost := (die, l) :: s.modLost }
    let s2 := (((s1.setBit (fo sv + BRS.FO_EVENTS) 2).foTime sv).logErr sv 5 3 0x0B 0 die 0).health sv 4 2 0x0B 0 (l - 4) die
    let i : FenceInfo := { cause := 2, steward := l - 4, writer := sv, prevEpoch := s.epoch, detect := s.stamp sv }
    let s3 := s2.nextEpoch.recoverDie sv die i (s.chansTo die l) (s.carried die (l - 4)) (s.cycle + usec 100)
    { s3 with switchAt := Tbl.set (fun _ => none) s3.switchAt sv (some last) }

/-- A concentrator loses a steward (R583, R587): it releases that steward's semaphores (R460). -/
def State.dieLoses (s : State) (die m : Nat) : State :=
  let s1 := s.clrBit (foStat die) m
  if s.isPlanned die m then s1
  else
    let s2 := ((s1.setBit (foEvents die) m).logErr die 5 2 0x0B 0 m 0).semRelease die (coresOf (4 + m))
    (s2.mooredCheck die).moduleJudge die (4 + m)

/-- An end has lost its far die. -/
def State.endLost (s : State) (die m : Nat) : State :=
  let s1 := s.updHb die m (fun v => { v with lost := true })
  if die < 4 then s1.dieLoses die m
  else if m < 4 then ((s1.dieLostCheck m).moduleJudge m die)
  else ((s1.clrBit (fo die + BRS.FO_STAT) 0).uxJudge die).upAll

/-- HEARTBEAT_MISS (R582, R583): none has arrived within 105 µs of the last, or within 100 µs of the last miss. -/
def execHeartbeatMiss (die m : Nat) (s : State) : Res :=
  .next (match (s.hb die m).rx with
    | none => s
    | some t =>
      let v := s.hb die m
      if s.modOk die m = false ∨ s.cycle < t + usec (105 + 100 * v.miss) then s
      else
        let s1 := if die < 4 ∨ m = 4 then s.inc (modKey die m BR.HB_MISSED) else s
        let s2 := (s1.logErr die 5 1 0x0B 0 m 0).updHb die m (fun v => { v with miss := v.miss + 1 })
        if s.hbMax die ≤ v.miss + 1 ∧ v.lost = false then s2.endLost die m else s2)

/-- MOD_CMD_DOWN (R447, R583). -/
def execModCmdDown (die m req v : Nat) (s : State) : Res :=
  .next (s.onKey (modKey die m BR.MOD_CMD) req (fun s =>
    if modFirst (s.endState die m) v = some 0 then (s.modDown die m).endLost die m else s))

/-- RETRAIN_LIMIT_EXPIRE (R447, R583): a retrain has lasted longer than this end's limit, and the end enters FAILED. -/
def execRetrainLimitExpire (die m : Nat) (s : State) : Res :=
  .next (if s.endState die m = 4 ∧ (s.modS die m).retrainAt + usec (s.rdN (modKey die m BR.RETRAIN_LIMIT)) < s.cycle then
    (s.modEnter die m 5).endLost die m else s)

/-- FAILOVER_RESTART (R433, R584). -/
def execFailoverRestart (st : Nat) (s : State) : Res := .next (if s.stOk st then s.restartGo st else s)

/-! ## Planned stops (R589) -/

/-- Whether a steward holds a semaphore of any die. -/
def State.holdsSem (s : State) (st : Nat) : Bool :=
  s.dies.any (fun d => (List.range 64).any (fun n => coresOf st (s.fld (semKey d n) 7 0)))

/-- The planned marks that the partner and the concentrators hold for a steward. -/
def State.markPlanned (s : State) (st : Nat) (b : Bool) : State :=
  let s1 := if s.present (partner st) then s.putBit (fo (partner st) + BRS.FO_STAT) 2 b else s
  forEach s.concs s1 (fun s d =>
    let s2 := s.putBit (foStat d) (3 + (st - 4)) b
    if b then s2.setBit (foEvents d) 4 else s2)

/-- PLANNED_STOP (R589): refused while the steward carries a stream or holds the lead role or a semaphore. -/
def execPlannedStop (st req v : Nat) (s : State) : Res :=
  .next (s.onKey (fo st + BRS.FO_CMD) req (fun s =>
    if v.testBit 0 = false then s
    else if st = s.lead ∨ s.carriedStreams st ≠ [] ∨ s.holdsSem st = true then s.setBit (fo st + BRS.FO_EVENTS) 6
    else
      let s1 : State := { s with plannedAt := Tbl.set (fun _ => none) s.plannedAt st (some s.cycle) }
      let s2 := s1.markPlanned st true
      (if s.present (partner st) then s2.setBit (fo (partner st) + BRS.FO_STAT) 3 else s2).upAll))

/-- The planned stop of a steward ends without a loss. -/
def State.endPlanned (s : State) (st : Nat) : State :=
  if (Tbl.get (fun _ => none) s.plannedAt st).isSome then
    ({ s with plannedAt := Tbl.set (fun _ => none) s.plannedAt st none } : State).markPlanned st false
  else s

/-- The planned mark of a steward goes; an end that misses its heartbeats by then has lost it (R583, R589). -/
def State.plannedOver (s : State) (st : Nat) : State :=
  let s1 := forEach (s.concs.filter (fun d => (s.hb d (st - 4)).lost)) (s.endPlanned st) (fun s d => s.dieLoses d (st - 4))
  s1.uxJudge (partner st)

/-- CANCEL_STOP (R589). -/
def execCancelStop (st req v : Nat) (s : State) : Res :=
  .next (s.onKey (fo st + BRS.FO_CMD) req (fun s =>
    if v.testBit 2 = true ∧ (Tbl.get (fun _ => none) s.plannedAt st).isSome = true then s.plannedOver st else s))

/-- PLANNED_STOP_EXPIRE (R589): after 10 s the stop becomes a loss. -/
def execPlannedStopExpire (st : Nat) (s : State) : Res :=
  .next (match Tbl.get (fun _ => none) s.plannedAt st with
    | none => s
    | some t =>
      if s.stOk st = false ∨ s.cycle < t + msec 10000 then s else s.plannedOver st)

/-! ## Stack failure, watchdogs, scrubbing (R591, R594, R598) -/

/-- A steward stops its heartbeats and parks its cores. -/
def State.stopSteward (s : State) (st : Nat) : State :=
  { s with
    hbOn := s.hbOn.filter (fun x => x != st)
    parked := st :: s.parked.filter (fun x => x != st) }

/-- STACK_FAILED (R594): training has failed, or `words` uncorrectable words within 1 s exceed UNCORR_LIMIT. -/
def execStackFailed (st : Nat) (training : Bool) (words : Nat) (s : State) : Res :=
  .next (if s.stOk st = true ∧ (training = true ∨ s.fld (lpd st + LPD.SCRUB_CTL) 23 16 < words) then
    (s.health st 0x11 2 0x14 0 (st - 4) words).stopSteward st else s)

/-- A keeper core is reset: its semaphores are released (R460). -/
def State.keeperReset (s : State) (die core : Nat) : State := s.semRelease die (fun o => o == 9 + core)

/-- KEEPER_WATCHDOG (R591, R604): it does not count while the core is held or halted by debug (R674). -/
def execKeeperWatchdog (die core : Nat) (s : State) : Res :=
  .next (if decide (die < 4) && s.present die && decide (core < 2) && !s.bit (kp die + KP.KP_CTL) core && !s.halted.contains (die * 8 + core) then
      let s1 := (s.keeperReset die core).health die 0x42 1 0x0C core core 0
      { s1 with wdogs := (die * 2 + core) :: s1.wdogs.filter (fun x => x != die * 2 + core) }
    else s)

/-- What the scrubber does with a word that it has read (R596, R598): one corrected is written back and counted; an uncorrectable one is left,
counted and logged, and a HEALTH record reports it, its memory code a free value. -/
def State.scrubWord (s : State) (die addr data check : Nat) : State :=
  let k := scrubK die
  match checkRead data check with
  | .clean => s
  | .corrected _ => s.incW (k + 0xC)
  | .bad => ((((s.incW (k + 0x10)).setBit (k + 0x14) 0).logErr die 2 3 (if die < 4 then 0x04 else 0x14) 0 0 addr).health die 0x10 1
      (if die < 4 then 0x04 else 0x14) 0 addr (s.freeNat 0 % 2 ^ 64)).skipFree 1

/-- SCRUB_READ (R598, R599): the scrubber reads the word at `addr`, or the one that it has to read again, as stored: its data and its check
word. Where a functional access meets the word in the same cycle, that access is performed, a write-back is discarded, and the word is read
again. `last` ends a pass. -/
def execScrubRead (die addr data check : Nat) (meets last : Bool) (s : State) : Res :=
  let k := scrubK die
  let a := (s.scrub die).again.getD addr
  .next (if s.present die = false ∨ s.bit k 0 = false then s
    else if meets then s.setScrub die { s.scrub die with again := some a }
    else
      let s1 := (s.setScrub die { s.scrub die with again := none }).scrubWord die a data check
      if last then (s1.setScrub die { began := s.cycle }).incW (k + 8) else s1)

/-- PASS_LATE (R598). -/
def execPassLate (die : Nat) (s : State) : Res :=
  let k := scrubK die
  .next (if s.present die = true ∧ s.bit k 0 = true ∧ (s.scrub die).began + s.rdN (k + 4) * 1000000000 < s.cycle then
    s.setBit (k + 0x14) 1 else s)

/-! ## Check-value units (R600-R602, R609) -/

/-- Whether a die has a check-value unit. -/
def State.ckOk (s : State) (die u : Nat) : Bool := s.present die && decide (u < if die < 4 then 8 else 4)

/-- CK_START (R600, R601): POLY 0b11 is refused. FRAME mode exists on concentrators only. -/
def execCkStart (die u req v : Nat) (s : State) : Res :=
  let k := ck die u
  .next (s.onKey (k + CK.CK_CMD) req (fun s =>
    if s.ckOk die u = false ∨ v.testBit 0 = false ∨ s.bit (k + CK.CK_STAT) 0 = true then s
    else
      let poly := s.fld (k + CK.CK_CTL) 1 0
      let frame := s.bit (k + CK.CK_CTL) 2
      if poly = 3 then s.setBit (k + CK.CK_EVENTS) 2
      else if frame = true ∧ 4 ≤ die then s
      else (s.setCk die u { phase := if frame then 1 else 3, crc := ckInit poly, began := s.cycle }).wrFld (k + CK.CK_STAT) 1 0 1))

/-- CK_STOP (R602). -/
def execCkStop (die u req v : Nat) (s : State) : Res :=
  let k := ck die u
  .next (s.onKey (k + CK.CK_CMD) req (fun s =>
    if s.ckOk die u = true ∧ v.testBit 1 = true ∧ v.testBit 0 = false then (s.setCk die u {}).clrBit (k + CK.CK_STAT) 0 else s))

end Sys2Proof.Machine
end

