-- ==== Sys2Proof/Machine/Elec.lean ====
section
/-! DEFINITION. Electrical, thermal and package (R697-R724): PERST_N, supply sequence, the power-over-cable chain, temperature. -/
namespace Sys2Proof.Machine
set_option Elab.async false

/-- UP_PERST (R707): a Fundamental Reset of one endpoint: its link and configuration space reset, the effects of R410 apply. -/
def execUpPerst (st : Nat) (s : State) : Res :=
  .next (if s.stOk st = false then s
    else
      let k := epb st + EP.EP_STAT
      let s1 := ((((s.funcReset st).wrFld k 4 0 0).wrFld k 10 8 0).clrBit k 16).updEp st (fun e => { e with
        bme := false
        d3hot := false
        stalled := false
        mps := 0
        flr := false })
      s1.acceptFresh st)

/-- DR_PERST_RELEASE (R708): the time from READY, or the low time of a detach, has passed. -/
def execDrPerstRelease (st : Nat) (s : State) : Res :=
  let v := s.jnS st
  .next (if s.stOk st = true ∧ v.perstLow = true ∧ 0 < v.perstAt ∧ v.perstAt ≤ s.cycle then
    (s.updJn st (fun v => { v with perstLow := false })).emit .drPerst st [1] else s)

/-- SEQUENCE_FAULT (R703): FAULT_N is held low until RESET_N. -/
def execSequenceFault (s : State) : Res := .next (s.faultN 5 true)

/-! ## The power-over-cable chain (R717-R721) -/

/-- A port's cable power has failed (R123, R720): from any state it enters FAULT with cause PWR_FLT, its power is no longer wanted, and the
event `i` of PCC_EVENTS is set. Nothing changes further during the off time of PORT_RESET, nor in the FAULT that this power fault led to. -/
def State.pwrFault (s : State) (p i : Nat) : State :=
  let st := s.lpState p
  if (s.port p).offUntil.isSome || (st == 10 && s.fld (lp p + LP.FAULT_CAUSE) 3 0 == 9) then s
  else
    ((((s.wrN (lp p + LP.FAULT_CAUSE) (9 + st * 16 + s.fld (lp p + LP.STATE) 23 16 * 256)).goFault p).lpEvent p 9).setPwr p false).setBit
      (sm (p / 32) + SM.PCC_EVENTS) i

/-- The ON bits of the next frame (R719): ports that stay on, and at most STAGGER of those that wait, in rising order. -/
def State.pccNext (s : State) (die : Nat) : Nat :=
  let on := s.rdN (sm die + SM.PCC_ON)
  let want := (List.range 32).filter (fun l => (s.port (32 * die + l)).pwrWant)
  let keep := want.filter (fun l => on.testBit l)
  let add := (want.filter (fun l => !on.testBit l)).take (s.fld (sm die + SM.PCC_CTL) 13 8)
  ((keep ++ add).map (fun l => 2 ^ l)).sum

/-- What a frame's status reports of local port `l`, whose ON was `on` (R719, R720). -/
def State.pccPort (s : State) (die fault pgood on l : Nat) : State :=
  let p := 32 * die + l
  if on.testBit l then
    if fault.testBit l then s.pwrFault p 0
    else if pgood.testBit l then s.setBit (lp p + LP.STATUS) 5
    else s
  else if fault.testBit l ∧ 2 ≤ Tbl.get (fun _ => 0) (s.pcc die).off l then
    (s.incW (sm die + SM.PCC_CHAIN_ERR)).setBit (sm die + SM.PCC_EVENTS) 2
  else s

/-- Bits 2l + `i` of a frame word of 64 bits, gathered with local port l at bit l, and a word with bits l put at 2l + `i` (R717, R718). -/
def pccGather (i w : Nat) : Nat := ((List.range 32).map (fun l => b2n (w.testBit (2 * l + i)) * 2 ^ l)).sum
def pccSpread (i w : Nat) : Nat := ((List.range 32).map (fun l => b2n (w.testBit l) * 2 ^ (2 * l + i))).sum

/-- A frame (R717-R720): its status belongs to the ON bits of the frame before, and what it reports changes the next frame's; `low` says that PCC_FLT_N has been held low outside
frames since that one. -/
def State.pccFrame (s : State) (die fault pgood : Nat) (low : Bool) : State :=
  let k := sm die
  let on := s.rdN (k + SM.PCC_ON)
  let s1 := (s.wrN (k + SM.PCC_PGOOD) (pgood % 2 ^ 32)).wrN (k + SM.PCC_FAULT) (fault % 2 ^ 32)
  let s2 := forEach (List.range 32) s1 (fun s l => s.pccPort die fault pgood on l)
  let run := if low = true ∧ fault % 2 ^ 32 = 0 then (s.pcc die).low + 1 else 0
  let s3 := if run = 10 then (s2.incW (k + SM.PCC_CHAIN_ERR)).setBit (k + SM.PCC_EVENTS) 2 else s2
  let next := s.pccNext die
  let s4 := forEach (List.range 32) s3 (fun s l =>
    if next.testBit l then
      if on.testBit l then s else s.updPcc die (fun v => { v with onAt := Tbl.set (fun _ => none) v.onAt l (some s.cycle) })
    else
      let n := if on.testBit l then 0 else Tbl.get (fun _ => 0) (s.pcc die).off l
      (s.updPcc die (fun v => { v with
        onAt := Tbl.set (fun _ => none) v.onAt l none
        off := Tbl.set (fun _ => 0) v.off l (Nat.min 2 (n + 1)) })).clrBit (lp (32 * die + l) + LP.STATUS) 5)
  (s4.updPcc die (fun v => { v with low := run % 10 })).wrN (k + SM.PCC_ON) next

/-- Whether a die's chain sends frames (R719). -/
def State.pccOn (s : State) (die : Nat) : Bool := decide (die < 4) && s.present die && s.bit (sm die + SM.PCC_CTL) 0

/-- A frame goes out, as one word of 64 bits with ON of port l at bit 2l and ILIM at bit 2l + 1 (R717), against a status word with FAULT at bit 2l
and PGOOD at bit 2l + 1 (R718). -/
def State.pccSend (s : State) (die status : Nat) (low : Bool) : State :=
  let s1 := (s.pccFrame die (pccGather 0 status) (pccGather 1 status) low).updPcc die (fun v => { v with frameAt := some s.cycle })
  s1.emit .pccFrame die [pccSpread 0 (s1.rdN (sm die + SM.PCC_ON)) + pccSpread 1 (s.rdN (sm die + SM.PCC_ILIM))]

/-- PCC_FRAME (R719): every 100 µs. -/
def execPccFrame (die status : Nat) (low : Bool) (s : State) : Res :=
  .next (if s.pccOn die && s.passed (s.pcc die).frameAt (usec 100) then s.pccSend die status low else s)

/-- PCC_FLT_FALL (R719): PCC_FLT_N falls outside a frame, and a frame starts. -/
def execPccFltFall (die status : Nat) (s : State) : Res := .next (if s.pccOn die then s.pccSend die status false else s)

/-- PG_TIMEOUT (R720): a port with ON set reports no PGOOD within PG_TIME. -/
def execPgTimeout (port : Nat) (s : State) : Res :=
  let die := port / 32
  .next (match Tbl.get (fun _ => none) (s.pcc die).onAt (port % 32) with
    | none => s
    | some t =>
      if s.pccOn die = true ∧ s.bit (sm die + SM.PCC_ON) (port % 32) = true ∧ s.bit (lp port + LP.STATUS) 5 = false ∧ t + msec (s.fld (sm die + SM.PCC_CTL) 23 16) ≤ s.cycle then
        s.pwrFault port 1
      else s)

/-! ## Temperature (R724) -/

/-- TEMP of a die. -/
def tempKey (die : Nat) : Nat := if die < 4 then sm die + SM.TEMP else sc die + SC.TEMP

/-- OVERTEMP (R724): a reading of the junction sensor in 1/16 °C; at 110 °C one health record, the next only after a fall below
105 °C. -/
def execOvertemp (die : Nat) (temp : Int) (s : State) : Res :=
  .next (if s.present die = false then s
    else
      let s1 := s.wrFld (tempKey die) 15 0 ((temp % 65536).toNat)
      if temp < 105 * 16 then { s1 with hotDies := s1.hotDies.filter (fun d => d != die) }
      else if 110 * 16 ≤ temp ∧ s1.hotDies.contains die = false then
        ({ s1 with hotDies := die :: s1.hotDies } : State).health die 0x50 1 (if die < 4 then 0x0D else 0) 0 ((temp % 2 ^ 64).toNat) (reporterOf die)
      else s1)

/-- OVERTEMP_CRITICAL (R724): the sensor has read `temp` or more, in 1/16 °C, for `ns` ns; 125 °C for 1 ms starts final commit on every die and
holds FAULT_N low. -/
def execOvertempCritical (die : Nat) (temp : Int) (ns : Nat) (s : State) : Res :=
  .next (if s.present die = true ∧ 125 * 16 ≤ temp ∧ msec 1 ≤ ns then
    ((s.wrFld (tempKey die) 15 0 ((temp % 65536).toNat)).faultN 6 true).finalEnter else s)

end Sys2Proof.Machine
end

