-- ==== Sys2Proof/Machine/Mgmt.lean ====
section
/-! DEFINITION. Management, flash and debug ports (R652-R676): CAN state, the I2C target, the flash controller, the TAP and the
debug modules. -/
namespace Sys2Proof.Machine
set_option Elab.async false

/-! ## CAN FD (R625, R626, R652-R655) -/

def State.canS (s : State) (st : Nat) : CanS := Tbl.get (fun _ => {}) s.cans st
def State.updCan (s : State) (st : Nat) (f : CanS → CanS) : State := { s with cans := Tbl.set (fun _ => {}) s.cans st (f (s.canS st)) }
def State.canEvent (s : State) (st i : Nat) : State := s.setBit (can st + CAN.CAN_EVENTS) i
def State.canOff (s : State) (st : Nat) : Bool := s.fld (can st + CAN.CAN_STAT) 17 16 == 2

/-- Whether a port takes part in traffic (R652, R655, R675, R686). -/
def State.canLive (s : State) (st : Nat) : Bool :=
  s.stOk st && (s.canS st).on && s.bit (can st + CAN.CAN_CTL) 0 && !s.canOff st && !s.finalC

/-- CAN_x_STB of a port (R652): high while EN is clear and from FINAL_DONE on. -/
def State.canStandby (s : State) (st : Nat) : Bool := !s.bit (can st + CAN.CAN_CTL) 0 || s.hostSilent st

/-- The data bit timing of a rate code (R653, R638). -/
def canTiming (rate : Nat) : CanBit :=
  match rate with
  | 0 => { tseg1 := 63, tseg2 := 16, sjw := 16 }
  | 1 => { tseg1 := 29, tseg2 := 10, sjw := 10 }
  | 2 => { tseg1 := 14, tseg2 := 5, sjw := 5 }
  | _ => { tseg1 := 11, tseg2 := 4, sjw := 4 }

/-- A data phase above 1 Mbit/s (R653): the loop delay of the transceiver, a free value, is measured into CAN_TDC, and the secondary sample point
lies at it plus the data sample point. -/
def State.canPhase (s : State) (st : Nat) : State :=
  let v := s.canS st
  if v.rate = 0 then s
  else
    let d := s.freeNat 0
    ((s.skipFree 1).updCan st (fun v => { v with ssp := d + 1 + v.bits.tseg1 })).wrFld (can st + CAN.CAN_TDC) 5 0 (Nat.min 63 d)

/-- A frame sent: not with LISTEN_ONLY or LOOPBACK set. -/
def State.canSend (s : State) (st cob : Nat) (d : List Byte) : State :=
  if s.canLive st && s.fld (can st + CAN.CAN_CTL) 3 2 == 0 then
    ((s.canPhase st).inc (can st + CAN.TX_FRAMES)).emit .canTx st (cob :: d.map (fun b => b.toNat))
  else s

/-- A frame received. -/
def State.canRecv (s : State) (st : Nat) : State := s.inc (can st + CAN.RX_FRAMES)

/-- An object of the dictionary's own, by index, sub-index and CAN port (0 A, 1 B). -/
def State.objOf (s : State) (port idx sub : Nat) (dflt : List Byte) : List Byte :=
  match Tbl.get (fun _ => []) s.objs (port * 2 ^ 24 + idx * 256 + sub) with | [] => dflt | v => v
def State.setObj (s : State) (port idx sub : Nat) (v : List Byte) : State :=
  { s with objs := Tbl.set (fun _ => []) s.objs (port * 2 ^ 24 + idx * 256 + sub) v }

/-- A port takes node-ID and data rate (R625), with it its data bit timing (R653), and sends its boot-up message. -/
def State.canStart (s : State) (st : Nat) : State :=
  let node := leNat (s.objOf 0 0x2100 (0x0B + drv st) [if st = 4 then 0x20#8 else 0x21#8])
  let rate := leNat (s.objOf 0 0x2100 0x0D [0#8])
  let s1 := s.updCan st (fun v => { v with
    on := true
    nmt := 0
    node := node
    rate := rate
    bits := canTiming rate
    hbAt := s.cycle })
  ((s1.wrFld (can st + CAN.CAN_STAT) 26 20 node).wrFld (can st + CAN.CAN_STAT) 29 28 rate).canSend st (0x700 + node) [0#8]

/-- NMT_COMMAND (R626): 1 Start, 2 Stop, 128 Enter Pre-Operational, 129 Reset Node, 130 Reset Communication, to node 0 or the own. -/
def execNmtCommand (st cmd node : Nat) (s : State) : Res :=
  .next (if s.canLive st = false ∨ (node ≠ 0 ∧ node ≠ (s.canS st).node) then s
    else
      let s1 := s.canRecv st
      if cmd = 1 then s1.updCan st (fun v => { v with nmt := 1 })
      else if cmd = 2 then s1.updCan st (fun v => { v with nmt := 2 })
      else if cmd = 128 then s1.updCan st (fun v => { v with nmt := 0 })
      else if cmd = 129 ∨ cmd = 130 then s1.canStart st
      else s1)

/-- CAN_HEARTBEAT_TX (R628): every 0x1017 ms, in Stopped too (R626). -/
def execCanHeartbeatTx (st : Nat) (s : State) : Res :=
  let ms := leNat (s.objOf (drv st) 0x1017 0 (leBytes 1000 2))
  let v := s.canS st
  .next (if s.canLive st = true ∧ ms ≠ 0 ∧ v.hbAt + msec ms ≤ s.cycle then
      (s.updCan st (fun v => { v with hbAt := s.cycle })).canSend st (0x700 + v.node)
        [if v.nmt = 1 then 5#8 else if v.nmt = 2 then 4#8 else 0x7F#8]
    else s)

/-- BUS_OFF (R654): after `errs` error frames more the transmit error counter has passed 255. The port was error-passive on the way; what TEC and
REC then read is ISO 11898-1's, a free value. -/
def execBusOff (st errs : Nat) (s : State) : Res :=
  let k := can st + CAN.CAN_STAT
  .next (if s.stOk st = true ∧ s.canOff st = false then
    ((((((s.skipFree 2).wrFld k 7 0 (s.freeNat 0)).wrFld k 15 8 (s.freeNat 1)).wrFld k 17 16 2).canEvent st 1).canEvent st 0).addSat
      (can st + CAN.ERR_FRAMES) errs |>.inc (can st + CAN.BUS_OFF_CNT) else s)

/-- A bus-off port rejoins. -/
def State.canRejoin (s : State) (st : Nat) : State :=
  if s.stOk st && s.canOff st then (s.wrFld (can st + CAN.CAN_STAT) 17 0 0).canEvent st 2 else s

/-- BUS_OFF_RECOVER (R654): with AUTO_RECOVER, after 128 occurrences of 11 recessive bits. -/
def execBusOffRecover (st : Nat) (s : State) : Res := .next (if s.bit (can st + CAN.CAN_CTL) 1 then s.canRejoin st else s)

/-- RECOVER (R654). -/
def execRecover (st req v : Nat) (s : State) : Res :=
  .next (s.onKey (can st + CAN.CAN_CMD) req (fun s => if v.testBit 0 then s.canRejoin st else s))

/-! ## I2C target (R656-R664) -/

def State.i2cEvent (s : State) (st i : Nat) : State := s.setBit (i2c st + I2C.I2C_EVENTS) i
def State.i2cState (s : State) (st : Nat) : Nat := s.fld (i2c st + I2C.I2C_STAT) 1 0

/-- Whether the target acknowledges address `addr` (R656). -/
def State.i2cAck (s : State) (st addr : Nat) : Bool :=
  let k := i2c st + I2C.I2C_CFG
  s.stOk st && s.bit k 16 && !s.finalC && ((addr ^^^ s.fld k 6 0) &&& (127 - s.fld k 14 8)) % 128 == 0

/-- I2C_POINTER_WRITE (R658). -/
def execI2cPointerWrite (st addr ptr : Nat) (s : State) : Res :=
  .next (if s.i2cAck st addr then
    (s.updI2c st (fun v => { v with
      ptr := ptr % 256
      inTransfer := true })).setBit (i2c st + I2C.I2C_STAT) 5 else s)

/-- A transfer ends. -/
def State.i2cStop (s : State) (st : Nat) : State :=
  (s.updI2c st (fun v => { v with inTransfer := false })).clrBit (i2c st + I2C.I2C_STAT) 5

/-- A frame discarded (R660). -/
def State.i2cFrameErr (s : State) (st : Nat) : State :=
  ((s.inc (i2c st + I2C.FRAME_ERR)).i2cEvent st 1).wrFld (i2c st + I2C.I2C_STAT) 1 0 3

/-- A transfer abandoned: a request in it is discarded as in R660 (R662, R663). -/
def State.i2cAbandon (s : State) (st : Nat) : State :=
  let v := s.i2cS st
  (if v.inTransfer = true ∧ v.ptr = 0x20 ∧ s.i2cState st ≠ 1 then s.i2cFrameErr st else s).i2cStop st

/-- I2C_REQUEST (R659, R660): the STOP that ends a write to REQUEST; `data` is what followed the pointer byte. -/
def execI2cRequest (st : Nat) (data : List Byte) (s : State) : Res :=
  .next (if s.stOk st = false ∨ s.finalC = true ∨ (s.i2cS st).inTransfer = false ∨ (s.i2cS st).ptr ≠ 0x20 then s
    else
      let s0 := s.i2cStop st
      let len := leAt data 1 1
      if s.i2cState st = 1 then (s0.inc (i2c st + I2C.BUSY_NACK)).i2cEvent st 5
      else if 8 ≤ len ∧ len ≤ 64 ∧ data.length = len + 3 ∧ crc8 (data.take (len + 2)) = leAt data (len + 2) 1 then
        let s1 := ((s0.inc (i2c st + I2C.REQUESTS)).i2cEvent st 0).wrFld (i2c st + I2C.I2C_STAT) 1 0 1
        let s2 := s1.updI2c st (fun v => { v with
          tag := leAt data 0 1
          rsp := [] })
        { s2 with dictQ := s2.dictQ ++ [{ src := 3, st := st, bytes := slice data 2 len, at_ := s.cycle }] }
      else s0.i2cFrameErr st)

/-- The Device ID of R408. -/
def State.deviceId (s : State) : Nat := match s.part with | .azl512 => 0xA512 | .azl256 => 0xA256 | .azl128 => 0xA128

/-- The bytes of the region at a pointer (R658). -/
def State.i2cRegion (s : State) (st : Nat) : List Byte :=
  let v := s.i2cS st
  if v.ptr = 0 then [1#8] ++ leBytes (st - 4) 1 ++ leBytes (b2n (st == s.lead)) 1 ++ leBytes (s.fld (tb s.lead + TB.HIER_CTL) 3 0) 1 ++
    leBytes s.deviceId 2 ++ leBytes (s.rdN (upb st + UP.UP_STATUS)) 1 ++ zeros 1
  else if v.ptr = 0x10 then leBytes (s.i2cState st) 1 ++ leBytes v.tag 1
  else if v.ptr = 0x30 then v.rsp
  else []

/-- I2C_READ (R658): `n` bytes, 0xFF beyond the end of the region. The bytes `late` are not ready in time: the target stretches for them, or, with
STRETCH_DIS set, sends each as 0xFF (R661). With `cut` the controller stops in the middle of a bit that the target sends as 0: the transfer stays
open and SDA held low (R662). -/
def execI2cRead (st addr n : Nat) (late : List Nat) (cut : Bool) (s : State) : Res :=
  let k := i2c st + I2C.I2C_STAT
  let dis := s.bit (i2c st + I2C.I2C_CFG) 17
  .next (if s.i2cAck st addr then
    (if cut then ((s.updI2c st (fun v => { v with inTransfer := true })).setBit k 5).setBit k 4 else (s.i2cStop st).clrBit k 4).respond
      (.bytes (((s.i2cRegion st ++ List.replicate n 0xFF#8).take n).mapIdx (fun i b =>
        if dis && late.contains i then 0xFF#8 else b))) else s)

/-- STUCK_RELEASE (R662): the target has held SDA low for `held` ns with no SCL edge, at least 10 ms. -/
def execStuckRelease (st held : Nat) (s : State) : Res :=
  .next (if s.stOk st && (s.i2cS st).inTransfer && decide (msec 10 ≤ held) then
      (((s.i2cAbandon st).wrFld (i2c st + I2C.I2C_STAT) 4 4 0).inc (i2c st + I2C.STUCK_RELEASE)).i2cEvent st 2
    else s)

/-- SCL_TIMEOUT (R662): another device has held SCL low for `low` ns within a transfer, at least 25 ms. -/
def execSclTimeout (st low : Nat) (s : State) : Res :=
  .next (if s.stOk st && (s.i2cS st).inTransfer && decide (msec 25 ≤ low) then
      (((s.i2cAbandon st).wrFld (i2c st + I2C.I2C_STAT) 4 4 0).inc (i2c st + I2C.SCL_TIMEOUT)).i2cEvent st 3
    else s)

/-- RS_ABANDON (R663): a repeated START (`restart`) or STOP in place of an acknowledge; the byte counts as not received. -/
def execRsAbandon (st : Nat) (restart : Bool) (s : State) : Res :=
  .next (if s.stOk st && (s.i2cS st).inTransfer then
      let s1 := ((s.i2cAbandon st).inc (i2c st + I2C.RS_ABANDON)).i2cEvent st 4
      if restart then s1.setBit (i2c st + I2C.I2C_STAT) 5 else s1
    else s)

/-- I2C_RESET (R664). -/
def execI2cReset (st req v : Nat) (s : State) : Res :=
  .next (s.onKey (i2c st + I2C.I2C_CMD) req (fun s =>
    if v.testBit 0 then ((s.i2cStop st).wrFld (i2c st + I2C.I2C_STAT) 4 4 0).wrFld (i2c st + I2C.I2C_STAT) 1 0 0 else s))

/-! ## Configuration flash (R665-R669) -/

/-- The read window of the flash. -/
def flashBase : Nat := 0x0E00000000
def State.flashBytes (s : State) (st addr n : Nat) : List Byte := s.bytesAt st (flashBase + addr) n
def State.flashNat (s : State) (st addr n : Nat) : Nat := leNat (s.flashBytes st addr n)

def State.qspiS (s : State) (st : Nat) : QspiS := Tbl.get (fun _ => {}) s.qspis st
def State.setQspi (s : State) (st : Nat) (v : QspiS) : State := { s with qspis := Tbl.set (fun _ => {}) s.qspis st v }

/-- Where the boot header in force begins (R667). -/
def State.hdrBase (s : State) (st : Nat) : Nat := if s.bit (sc st + SC.BOOT_STAT) 9 then 0x10000 else 0

/-- Whether two ranges meet. -/
def meets (a n b m : Nat) : Bool := decide (a < b + m) && decide (b < a + n)

/-- Whether an operation touches what R669 protects; nothing in BOOT_FAIL (R684). -/
def State.slotActive (s : State) (st addr n : Nat) : Bool :=
  let h := s.hdrBase st
  s.fld (sc st + SC.BOOT_STAT) 3 0 != 8 &&
    (meets addr n h 0x10000 || meets addr n (0x100000 + s.flashNat st (h + 0x10) 1 % 2 * 0x800000) 0x800000 ||
      meets addr n (0x1100000 + s.flashNat st (h + 0x11) 1 % 2 * 0x100000) 0x100000)

/-- Whether the dictionary engine has the flash controller of a steward for a STORE, or will have it next: on the steward where the store began, and
on its partner where that takes part (R649, R669). -/
def State.engineFlash (s : State) (st : Nat) : Bool :=
  s.dict.store.isSome && s.stOk st && (st == s.dict.storeSt || !s.declared.contains st)

/-- Flash of a steward between two addresses erased. -/
def State.eraseFlash (s : State) (st addr n : Nat) : State :=
  let k := st * 0x10000000000 + flashBase + addr
  { s with mem := s.mem.filter (fun e => decide (e.1 < k) || decide (k + n ≤ e.1)) }

/-- Where profile `n` lies in configuration flash (R666). -/
def profAddr (n : Nat) : Nat := 0x1300000 + n * 0x800000

/-- A profile slot written but for its CRC (R668). -/
def State.slotWrite (s : State) (st n : Nat) (b : List Byte × List Byte) : State :=
  ((s.eraseFlash st (profAddr n) 0x800000).setBytes st (flashBase + profAddr n) b.1).setBytes st (flashBase + profAddr n + 0x20) b.2

/-- The store of the dictionary engine that waited for a flash goes on (R669). -/
def State.storeGo (s : State) (st : Nat) : State :=
  match s.dict.store, s.dict.storeWait with
  | some n, some b =>
    if st = s.dict.storeSt then { s.slotWrite st n b with dict := { s.dict with storeWait := none } } else s
  | _, _ => s

/-- An operation refused or begun (R669): kind 1 program, 2 erase, of `n` bytes at `addr`. `odd` marks an address or length outside what
R675 allows, which is refused as RANGE. -/
def State.qspiGo (s : State) (st kind addr n : Nat) (odd : Bool) (data : List Byte) : State :=
  let k := qspi st
  let refuse := fun c => (s.wrFld (k + QSPI.QSPI_STAT) 7 4 c).setBit (k + QSPI.QSPI_EVENTS) 1
  if s.stOk st = false then s
  else if (s.qspiS st).op.isSome || s.engineFlash st then refuse 1
  else if s.slotActive st addr n then refuse 2
  else if odd = true ∨ s.fld (k + QSPI.QSPI_STAT) 31 16 * 0x100000 < addr + n then refuse 3
  else (s.setQspi st { op := some (kind, addr, data) }).setBit (k + QSPI.QSPI_STAT) 0

/-- A QSPI_CMD write whose code is `c`. -/
def State.qspiCmd (s : State) (st req v c : Nat) (f : State → State) : State :=
  s.onKey (qspi st + QSPI.QSPI_CMD) req (fun s => if v % 4 = c then f s else s)

/-- PROGRAM (R669). -/
def execFlashProgram (st req v : Nat) (s : State) : Res :=
  .next (s.qspiCmd st req v 1 (fun s =>
    let a := s.rdN (qspi st + QSPI.QSPI_ADDR)
    let n := s.fld (qspi st + QSPI.QSPI_LEN) 8 0
    let buf := ((List.range 64).map (fun i => leBytes (s.rdN (qspi st + QSPI.QSPI_BUF + 4 * i)) 4)).flatten
    s.qspiGo st 1 a n (n = 0 || decide (256 < n) || decide (256 < a % 256 + n)) (buf.take n)))

/-- ERASE_4K (R669). -/
def execErase4k (st req v : Nat) (s : State) : Res :=
  .next (s.qspiCmd st req v 2 (fun s =>
    let a := s.rdN (qspi st + QSPI.QSPI_ADDR)
    s.qspiGo st 2 a 0x1000 (a % 0x1000 != 0) (List.replicate 0x1000 0xFF#8)))

/-- ERASE_64K (R669). -/
def execErase64k (st req v : Nat) (s : State) : Res :=
  .next (s.qspiCmd st req v 3 (fun s =>
    let a := s.rdN (qspi st + QSPI.QSPI_ADDR)
    s.qspiGo st 2 a 0x10000 (a % 0x10000 != 0) (List.replicate 0x10000 0xFF#8)))

/-- QSPI_DONE (R669): a program clears bits only, and its page is read back; where the flash fails (`ok` clear) what the page then
holds is free. A store of the dictionary engine that waited goes on. -/
def execQspiDone (st : Nat) (ok : Bool) (s : State) : Res :=
  .next (match (s.qspiS st).op with
    | none => s
    | some (kind, a, d) =>
      let old := s.flashBytes st a d.length
      let new := if ok = false then (List.range d.length).map (fun i => Config.freeByte (s.free + i))
        else if kind = 1 then List.zipWith (fun (x y : Byte) => x &&& y) old d else d
      let s1 := (((s.setQspi st {}).setBytes st (flashBase + a) new).clrBit (qspi st + QSPI.QSPI_STAT) 0).skipFree d.length
      let s2 := if ok = true ∧ (kind = 2 ∨ new = d) then (s1.wrFld (qspi st + QSPI.QSPI_STAT) 7 4 0).setBit (qspi st + QSPI.QSPI_EVENTS) 0
        else (s1.wrFld (qspi st + QSPI.QSPI_STAT) 7 4 4).setBit (qspi st + QSPI.QSPI_EVENTS) 2
      s2.storeGo st)

/-! ## JTAG (R670) -/

def State.setIr (s : State) (n : Nat) : State := { s with jtag := { s.jtag with ir := n } }

/-- Whether the balls have passed to boundary scan (R673): at FINAL_DONE, or 200 ms after entry. -/
def State.ballsScanned (s : State) : Bool :=
  match s.jtag.bscan with
  | none => false
  | some t => s.stewards.all (fun st => s.hostSilent st) || decide (t + msec 200 ≤ s.cycle)

/-- IDCODE (R670). -/
def execIdcode (s : State) : Res :=
  .next ((s.setIr 1).respond (.data [wordOf (Config.partConst 1 % 16 * 2 ^ 28 + s.deviceId * 4096 + Config.partConst 3 % 2048 * 2 + 1)]))

/-- BYPASS (R670): the bypass register captures 0. -/
def execBypass (s : State) : Res := .next ((s.setIr 31).respond (.data [0#32]))

/-- SAMPLE/PRELOAD (R670): the levels of the balls are the board's, a free value here. -/
def execSamplePreload (s : State) : Res := .next (((s.setIr 2).respond (.data [Config.freeWord s.free])).skipFree 1)

/-- The die whose debug module DIE_SEL selects (R670): 0 SA, 1 SB, 2-5 C0-C3. -/
def State.selDie (s : State) : Option Nat :=
  let n := s.jtag.dieSel
  let d := if n < 2 then 4 + n else n - 2
  if n < 6 ∧ s.present d = true then some d else none

def State.dbg (s : State) (die : Nat) : DbgS := Tbl.get (fun _ => {}) s.dbgs die
def State.updDbg (s : State) (die : Nat) (f : DbgS → DbgS) : State := { s with dbgs := Tbl.set (fun _ => {}) s.dbgs die (f (s.dbg die)) }

/-- The level that the selected module has granted (R672). -/
def State.selLevel (s : State) : Nat := match s.selDie with | some d => (s.dbg d).level | none => 0

/-- EXTEST, CLAMP, HIGHZ (R673): at level FULL final commit starts on every die, and the balls pass to boundary scan at FINAL_DONE or
after 200 ms; below it the instruction selects BYPASS. -/
def State.boundary (s : State) (ir : Nat) : State :=
  if s.selLevel = 2 then
    ({ s with jtag := { s.jtag with ir := ir, bscan := some (s.jtag.bscan.getD s.cycle) } } : State).finalEnter
  else s.setIr 31

def execExtest (s : State) : Res := .next (s.boundary 0)
def execClampBalls (s : State) : Res := .next (s.boundary 3)
def execHighZ (s : State) : Res := .next (s.boundary 4)

/-- DTMCS (R670): what it reads is fixed by the implementation. -/
def execDtmcs (s : State) : Res := .next (((s.setIr 16).respond (.data [Config.freeWord s.free])).skipFree 1)

/-- DEBUG level and lockout of a steward in DBG_STAT (R676). -/
def State.dbgStat (s : State) (die : Nat) : State :=
  if die < 4 then s
  else
    let v := s.dbg die
    let harts := ((List.range 4).filter (fun h => s.halted.contains (die * 8 + h))).foldl (fun n h => n + 2 ^ h) 0
    ((s.wrFld (sc die + SC.DBG_STAT) 1 0 v.level).wrFld (sc die + SC.DBG_STAT) 7 4 harts).putBit (sc die + SC.DBG_STAT) 8 v.lockAt.isSome

/-- Authentication of a module ends (R672). -/
def State.dbgClose (s : State) (die : Nat) : State := (s.updDbg die (fun v => { v with level := 0, chal := [], sig := [] })).dbgStat die

/-- A read of authdata (R672): the next 4 bytes of a challenge of 16, a fresh one after its last; refused during a lockout, when the read
returns zero (log entry 107). -/
def State.authRead (s : State) (die : Nat) : State :=
  let v := s.dbg die
  if v.lockAt.isSome then s.respond (.data [0#32])
  else
    let w := Config.freeWord s.free
    let old := if 16 ≤ v.chal.length then [] else v.chal
    ((s.skipFree 1).updDbg die (fun v => { v with chal := old ++ leBytes w.toNat 4 })).respond (.data [w])

/-- A write of authdata (R672): the next 4 bytes of a signature of 64; ignored during a lockout. -/
def State.authWrite (s : State) (die data : Nat) : State :=
  let v := s.dbg die
  if v.lockAt.isSome || decide (64 ≤ v.sig.length) then s else s.updDbg die (fun v => { v with sig := v.sig ++ leBytes data 4 })

/-- DMI (R670-R672): an access (1 read, 2 write) of the selected module; with none selected it returns zeros. Authdata (0x30) carries challenge
and signature, a write of 0 to dmcontrol.dmactive ends authentication; what other registers read is the debug specification's. -/
def execDmi (op addr data : Nat) (s : State) : Res :=
  .next (match s.selDie with
    | none => (s.setIr 17).respond (.data [0#32])
    | some d =>
      let s1 := s.setIr 17
      if op = 1 ∧ addr = 0x30 then s1.authRead d
      else if op = 2 ∧ addr = 0x30 then s1.authWrite d (data % 2 ^ 32)
      else if op = 1 then (s1.respond (.data [Config.freeWord s.free])).skipFree 1
      else if op = 2 ∧ addr = 0x10 ∧ data % 2 = 0 then s1.dbgClose d
      else s1)

/-- DIE_SEL (R670). -/
def execDieSel (v : Nat) (s : State) : Res := .next { s with jtag := { s.jtag with ir := 18, dieSel := v % 8 } }

/-- A failed check (R672). -/
def State.authFail (s : State) (die : Nat) : State :=
  let n := (s.dbg die).fails + 1
  let s1 := s.updDbg die (fun v => { v with
    fails := if n = 3 then 0 else n
    lockAt := if n = 3 then some s.cycle else none })
  (if die < 4 then s1 else s1.wrFld (sc die + SC.DBG_STAT) 23 16 (s.fld (sc die + SC.DBG_STAT) 23 16 + 1)).dbgStat die

/-- What a signature of a module covers (R672): challenge, package serial, DIE_SEL and the requested level (log entry 107). -/
def State.authMsg (s : State) (die level : Nat) : List Byte :=
  (s.dbg die).chal ++ leBytes (Config.partConst 0) 8 ++ leBytes ((die + 2) % 6) 1 ++ leBytes level 1

/-- The steward whose boot header holds the debug keys of a die's module (R672). -/
def State.keyHolder (s : State) (die : Nat) : Nat := if die < 4 then s.lead else die

/-- The LEVEL of the debug key of the boot header in force under which the signature written verifies; a LEVEL other than 1 and 2 grants none
(R667, R672). -/
def State.authLevel (s : State) (die level : Nat) : Option Nat :=
  let st := s.keyHolder die
  let k := fun i => s.hdrBase st + 0x20 + 68 * i
  ((List.range 4).find? (fun i => decide (1 ≤ s.flashNat st (k i) 1 ∧ s.flashNat st (k i) 1 ≤ 2) &&
    p256Verify (s.flashBytes st (k i + 4) 64) (s.dbg die).sig (s.authMsg die level))).map (fun i => s.flashNat st (k i) 1)

/-- DEBUG_AUTH (R672): the last word of a signature has been written, with `level` requested, and is checked. A match grants the key's LEVEL; the
third failure in a row locks the module out. -/
def execDebugAuth (die level : Nat) (s : State) : Res :=
  .next (if s.present die = false ∨ (s.dbg die).lockAt.isSome = true ∨ (s.dbg die).sig.length < 64 then s
    else
      let s1 := s.updDbg die (fun v => { v with chal := [], sig := [] })
      match s.authLevel die level with
      | some l =>
        (s1.updDbg die (fun v => { v with
          level := l
          fails := 0 })).dbgStat die
      | none => s1.authFail die)

/-- AUTH_LOCKOUT_EXPIRE (R672): 60 s after the third failure. -/
def execAuthLockoutExpire (die : Nat) (s : State) : Res :=
  .next (match (s.dbg die).lockAt with
    | some t => if s.present die = true ∧ t + msec 60000 ≤ s.cycle then (s.updDbg die (fun v => { v with lockAt := none })).dbgStat die else s
    | none => s)

/-- JTAG_TRST (R670, R672): Test-Logic-Reset selects IDCODE, and authentication ends. -/
def execJtagTrst (s : State) : Res := .next (forEach s.dies (s.setIr 1) (fun s d => s.dbgClose d))

/-! ## Harts under debug (R671, R673, R674) -/

/-- Harts of a die. -/
def hartsOf (die : Nat) : Nat := if die < 4 then 2 else 4

/-- Whether a hart of a die may be controlled: level FULL (R673). -/
def State.hartOk (s : State) (die hart : Nat) : Bool := s.present die && decide (hart < hartsOf die) && (s.dbg die).level == 2

/-- Whether every hart of a die is halted. -/
def State.allHalted (s : State) (die : Nat) : Bool := (List.range (hartsOf die)).all (fun h => s.halted.contains (die * 8 + h))

/-- DEBUG_HALT (R671). -/
def execDebugHalt (die hart : Nat) (s : State) : Res :=
  .next (if s.hartOk die hart then
      let s1 : State := { s with halted := (die * 8 + hart) :: s.halted.filter (fun x => x != die * 8 + hart) }
      (s1.updDbg die (fun v => { v with haltAt := if s1.allHalted die then some (v.haltAt.getD s.cycle) else none })).dbgStat die
    else s)

/-- DEBUG_RESUME (R671). -/
def execDebugResume (die hart : Nat) (s : State) : Res :=
  .next (if s.hartOk die hart then
      let s1 : State := { s with halted := s.halted.filter (fun x => x != die * 8 + hart) }
      (s1.updDbg die (fun v => { v with haltAt := none })).dbgStat die
    else s)

/-- DEBUG_STEP (R671): the hart runs one instruction and is halted again; the cores' own state is not part of the block. -/
def execDebugStep (die hart : Nat) (s : State) : Res :=
  .next (if s.hartOk die hart && s.halted.contains (die * 8 + hart) then s.dbgStat die else s)

/-- DBG_HALT_LIMIT (R674): all four harts halted for the limit: the steward stops its heartbeats. -/
def execDbgHaltLimit (st : Nat) (s : State) : Res :=
  let lim := s.fld (sc st + SC.DBG_CTL) 15 0
  .next (match (s.dbg st).haltAt with
    | some t => if s.stOk st = true ∧ lim ≠ 0 ∧ t + msec lim ≤ s.cycle then { s with hbOn := s.hbOn.filter (fun x => x != st) } else s
    | none => s)

end Sys2Proof.Machine
end

