-- ==== Sys2Proof/Machine/Irq.lean ====
section
/-! DEFINITION. Interrupts (R461-R467, R471, R472): source levels of concentrators and stewards, their messages, and claims by
steward contexts and keeper cores. -/
namespace Sys2Proof.Machine
set_option Elab.async false

/-! ## Source levels (R461-R463) -/

/-- A fired alarm with IRQ_EN (R71, R89). -/
def State.alarmIrq (s : State) (die a : Nat) : Bool :=
  s.bit (alarmK die a + TB.ALARM_STAT) 0 && (s.alarm die a).ctl.testBit 2

/-- The error log holds an unread entry and EL_IRQ_EN is set (R606). -/
def State.logIrq (s : State) (die : Nat) : Bool :=
  s.bit (sm die + SM.EL_IRQ_EN) 0 && s.fld (sm die + SM.EL_WR) 7 0 != s.fld (sm die + SM.EL_RD) 7 0

/-- A correction above 1 ns in the last 1 s (R58). -/
def State.alignFault (s : State) (die : Nat) : Bool :=
  die == s.lead && s.tm.corrs.any (fun x => decide (65536 < x.2) && decide (s.cycle < x.1 + msec 1000))

/-- A software source. -/
def State.swOn (s : State) (die i : Nat) : Bool := Tbl.get (fun _ => false) s.swLv (die * 16 + i)

/-- The level of source `n` of a concentrator die (R462). The mailboxes of keeper cores (210, 211) have no register, so no condition
of the spec raises them. -/
def State.concLevel (s : State) (die n : Nat) : Bool :=
  if n < 32 then
    let p := lp (die * 32 + n)
    s.evOn (p + LP.EVENTS) (p + LP.IRQ_EN) || s.evOn (p + LP.BLK_EVENTS) (p + LP.BLK_IRQ_EN)
  else if n < 64 then (List.range 4).any (fun i =>
    let k := si (die * 128 + 4 * (n - 32) + i)
    s.evOn (k + SI.EVENTS) (k + SI.IRQ_EN))
  else if n < 128 then (List.range 2).any (fun i =>
    let k := pl (die * 128 + 2 * (n - 64) + i)
    s.evOn (k + PL.EVENTS) (k + PL.IRQ_EN) || s.evOn (k + PL.FIN_EVENTS) (k + PL.FIN_IRQ_EN))
  else if n < 144 then (List.range 32).any (fun c =>
    let k := bgc die (n - 128) c
    s.evOn (k + BG.CH_EVENTS) (k + BG.CH_IRQ_EN))
  else if n = 144 then s.evOn (dk die + BS.BS_EVENTS) (dk die + BS.BS_IRQ_EN)
  else if n < 177 then s.bit (ef die + EF.IRQO_STAT) (n - 145)
  else if n < 181 then
    let k := ax (die * 4 + (n - 177))
    s.evOn (k + AX.AX_EVENTS) (k + AX.AX_IRQ_EN)
  else if n < 189 then s.evOn (ck die (n - 181) + CK.CK_EVENTS) (ck die (n - 181) + CK.CK_IRQ_EN)
  else if n = 189 then s.alignFault die
  else if n = 190 then s.evOn (tb die + TB.SCHED_EVENTS) (tb die + TB.SCHED_IRQ_EN)
  else if n < 207 then s.alarmIrq die (n - 191)
  else if n = 207 then s.tm.clkLost
  else if n < 210 then
    s.evOn (modKey die (n - 208) BR.BR_EVENTS) (modKey die (n - 208) BR.BR_IRQ_EN) ||
      (n == 208 && s.evOn (br die + BR.FO_EVENTS) (br die + BR.FO_IRQ_EN))
  else if n < 212 then false
  else if n < 214 then s.wdogs.contains (die * 2 + (n - 212))
  else if n = 214 then s.evOn (sm die + SM.SEM_EVENTS) (sm die + SM.SEM_IRQ_EN)
  else if n = 215 then s.logIrq die
  else if n = 216 then s.evOn (sm die + SM.SCRUB_EVENTS) (sm die + SM.SCRUB_IRQ_EN)
  else if n = 217 then s.evOn (sm die + SM.PCC_EVENTS) (sm die + SM.PCC_IRQ_EN)
  else if n < 234 then s.swOn die (n - 218)
  else false

/-- The level of source `n` of a steward itself (R463). The root port, the dictionary engine and the LPDDR5X controller have no event
register, and nothing delivers a drive's MSI-X vector, so no condition of the spec raises sources 1, 12, 16 and 64-127. -/
def State.stLevel (s : State) (st n : Nat) : Bool :=
  if n = 0 then s.evOn (epb st + EP.EP_EVENTS) (epb st + EP.EP_IRQ_EN)
  else if n = 1 then false
  else if n < 10 then nbits (s.rd (jn st + JN.JN_EVENTS) &&& s.rd (jn st + JN.JN_IRQ_EN)).toNat (4 * (n - 2) + 3) (4 * (n - 2)) != 0
  else if n = 10 then s.evOn (hu st + HU.HU_EVENTS) (hu st + HU.HU_IRQ_EN)
  else if n = 11 then s.bit (mr st + MR.MR_EVENTS) 0 && s.bit (mr st + MR.MR_IRQ_EN) 0
  else if n = 13 then s.evOn (can st + CAN.CAN_EVENTS) (can st + CAN.CAN_IRQ_EN)
  else if n = 14 then s.evOn (i2c st + I2C.I2C_EVENTS) (i2c st + I2C.I2C_IRQ_EN)
  else if n = 15 then s.evOn (qspi st + QSPI.QSPI_EVENTS) (qspi st + QSPI.QSPI_IRQ_EN)
  else if n = 17 then s.evOn (lpd st + LPD.SCRUB_EVENTS) (lpd st + LPD.SCRUB_IRQ_EN)
  else if n = 18 then s.alignFault st
  else if n < 19 then false
  else if n < 35 then s.alarmIrq st (n - 19)
  else if n < 39 then s.evOn (ck st (n - 35) + CK.CK_EVENTS) (ck st (n - 35) + CK.CK_IRQ_EN)
  else if n < 44 then s.evOn (modKey st (n - 39) BR.BR_EVENTS) (modKey st (n - 39) BR.BR_IRQ_EN)
  else if n = 44 then s.evOn (sm st + SM.SEM_EVENTS) (sm st + SM.SEM_IRQ_EN)
  else if n = 45 then s.logIrq st
  else if n = 46 then s.tm.clkLost
  else if n = 47 then s.evOn (fo st + BRS.FO_EVENTS) (fo st + BRS.FO_IRQ_EN)
  else if n < 64 then s.swOn st (n - 48)
  else false

/-! ## Level messages (R461) -/

/-- A level reaches a steward: it keeps the copy, unless its module to the die is FAILED, DOWN or ABSENT. -/
def State.irqTake (s : State) (st die n : Nat) (b : Bool) : State :=
  let x := s.endState st die
  if x = 0 ∨ x = 1 ∨ x = 5 then s
  else { s with irqCopy := Tbl.set (fun _ => false) s.irqCopy (st * 2048 + 256 * (die + 1) + n) b }

/-- Whether a concentrator sends level messages to a steward: the sideband is up, and the die has not declared it lost (R584). -/
def State.irqPath (s : State) (die st : Nat) : Bool := s.sbUp die (modTo st) && !(s.hb die (modTo st)).lost

/-- The levels of all 250 sources are sent to a steward. -/
def State.irqSnap (s : State) (die st : Nat) : State :=
  if s.irqPath die st then forEach (List.range 250) s (fun s n => s.irqTake st die n (s.concLevel die n)) else s

/-- IRQ_LEVEL_CHANGE (R461): a change is sent to the stewards that SRC_CFG names. -/
def execIrqLevelChange (die n : Nat) (s : State) : Res :=
  .next (if decide (die < 4) && s.present die && decide (n < 250) && s.concLevel die n != Tbl.get (fun _ => false) s.irqSent (die * 256 + n) then
      let b := s.concLevel die n
      let s1 : State := { s with irqSent := Tbl.set (fun _ => false) s.irqSent (die * 256 + n) b }
      forEach [4, 5] s1 (fun s st =>
        if s.bit (iq die + IQ.SRC_CFG + 4 * n) (st - 4) && s.irqPath die st then s.irqTake st die n b else s)
    else s)

/-- SIDEBAND_UP (R461): the sideband of a module comes up at both ends; the concentrator sends all its levels. -/
def execSidebandUp (die m : Nat) (s : State) : Res :=
  let f := farEnd die m
  .next (if s.modOk die m = false ∨ s.sbUp die m = true then s
    else
      let s1 := (s.setBit (modKey die m BR.MOD_STAT) 8).setBit (modKey f.1 f.2 BR.MOD_STAT) 8
      if die < 4 then s1.irqSnap die f.1 else if f.1 < 4 then s1.irqSnap f.1 die else s1)

/-- SNAP_SA (R461, R471). -/
def execSnapSa (die req v : Nat) (s : State) : Res :=
  .next (s.onKey (iq die + IQ.SNAP_CMD) req (fun s => if die < 4 ∧ v.testBit 0 then s.irqSnap die 4 else s))

/-- SNAP_SB (R461, R471). -/
def execSnapSb (die req v : Nat) (s : State) : Res :=
  .next (s.onKey (iq die + IQ.SNAP_CMD) req (fun s => if die < 4 ∧ v.testBit 1 then s.irqSnap die 5 else s))

/-- Software sources raised or lowered. -/
def State.swPut (s : State) (die v : Nat) (b : Bool) : State :=
  { s with swLv := forEach ((List.range 16).filter (fun i => v.testBit i)) s.swLv (fun t i => Tbl.set (fun _ => false) t (die * 16 + i) b) }

/-- The IQ block of a die. -/
def iqBase (die : Nat) : Nat := if die < 4 then iq die else iqs die

/-- SW_SET (R471, R472). -/
def execSwSet (die req v : Nat) (s : State) : Res := .next (s.onKey (iqBase die) req (fun s => s.swPut die v true))

/-- SW_CLR (R471, R472). -/
def execSwClr (die req v : Nat) (s : State) : Res := .next (s.onKey (iqBase die) req (fun s => s.swPut die v false))

/-! ## Claims (R464-R467) -/

/-- The level of source g at a steward: its own, or its copy (R464). -/
def State.irqLevel (s : State) (st g : Nat) : Bool :=
  if g < 256 then s.stLevel st g else Tbl.get (fun _ => false) s.irqCopy (st * 2048 + g)

/-- PRIO of source g. -/
def State.irqPrio (s : State) (st g : Nat) : Nat := s.fld (iqs st + IQS.ROUTE + 4 * g) 2 0

/-- A pending source (R465). -/
def State.irqPend (s : State) (st g : Nat) : Bool :=
  s.irqLevel st g && s.irqPrio st g != 0 && !Tbl.get (fun _ => false) s.irqClaims (st * 2048 + g)

/-- The sources of a steward that can be raised, in order: its own, and those whose copy is raised. -/
def State.irqList (s : State) (st : Nat) : List Nat :=
  List.range 64 ++ (s.irqCopy.filter (fun e => decide (e.1 / 2048 = st))).map (fun e => e.1 % 2048)

/-- Whether source g asserts context k (R465). -/
def State.irqFor (s : State) (st k g : Nat) : Bool :=
  s.irqPend st g && s.bit (iqs st + IQS.ROUTE + 4 * g) (8 + k) && decide (s.fld (iqs st + IQS.CTX_THRESH + 4 * k) 2 0 < s.irqPrio st g)

/-- The highest priority, the lowest g on a tie (R466). -/
def State.irqBest (s : State) (st k : Nat) : Option Nat :=
  (s.irqList st).foldl (fun b g =>
    if s.irqFor st k g then
      match b with
      | none => some g
      | some x => if s.irqPrio st x < s.irqPrio st g then some g else some x
    else b) none

/-- MEIP or SEIP of context k (R465). -/
def State.irqOut (s : State) (st k : Nat) : Bool := (s.irqBest st k).isSome

/-- The watchdog source of a keeper is lowered when a claim of it ends (log entry 57). -/
def State.wdogServed (s : State) (die n : Nat) : State :=
  if n = 212 ∨ n = 213 then { s with wdogs := s.wdogs.filter (fun x => x != die * 2 + (n - 212)) } else s

/-- CTX_CLAIM (R466). -/
def execCtxClaim (st k req : Nat) (s : State) : Res :=
  .next (s.onKey (iqs st + IQS.CTX_CLAIM + 8 * k) req (fun s =>
    match if s.stOk st && decide (k < 8) then s.irqBest st k else none with
    | some g => { s with
        irqClaims := Tbl.set (fun _ => false) s.irqClaims (st * 2048 + g) true
        resp := .data [wordOf (0x80000000 + g)] }
    | none => s.respond (.data [0#32])))

/-- CTX_COMPLETE (R466). -/
def execCtxComplete (st k req v : Nat) (s : State) : Res :=
  let g := v % 2048
  .next (s.onKey (iqs st + IQS.CTX_COMPLETE + 8 * k) req (fun s =>
    if s.stOk st && Tbl.get (fun _ => false) s.irqClaims (st * 2048 + g) then
      ({ s with irqClaims := Tbl.set (fun _ => false) s.irqClaims (st * 2048 + g) false } : State).wdogServed (g / 256 - 1)
        (if 256 ≤ g then g % 256 else 0)
    else s))

/-- A source that a keeper core can claim (R467). -/
def State.kpFor (s : State) (die core n : Nat) : Bool :=
  s.concLevel die n && s.bit (iq die + IQ.SRC_CFG + 4 * n) (2 + core) && !Tbl.get (fun _ => false) s.kpClaims (die * 256 + n)

/-- KP_CLAIM (R467): the lowest source first. -/
def execKpClaim (die core req : Nat) (s : State) : Res :=
  .next (s.onKey (iq die + IQ.KP_CLAIM + 8 * core) req (fun s =>
    match if decide (die < 4) && decide (core < 2) then (List.range 250).find? (fun n => s.kpFor die core n) else none with
    | some n => { s with
        kpClaims := Tbl.set (fun _ => false) s.kpClaims (die * 256 + n) true
        resp := .data [wordOf (0x80000000 + n)] }
    | none => s.respond (.data [0#32])))

/-- KP_COMPLETE (R467). -/
def execKpComplete (die core req v : Nat) (s : State) : Res :=
  let n := v % 256
  .next (s.onKey (iq die + IQ.KP_COMPLETE + 8 * core) req (fun s =>
    if decide (die < 4) && Tbl.get (fun _ => false) s.kpClaims (die * 256 + n) then
      ({ s with kpClaims := Tbl.set (fun _ => false) s.kpClaims (die * 256 + n) false } : State).wdogServed die n
    else s))

end Sys2Proof.Machine
end

