-- ==== Sys2Proof/Machine/Access.lean ====
section
/-! DEFINITION. Register access (R14-R17, R450-R452): what a read of a register returns and clears, what a write stores, the
stated ranges, and the registers whose write is a command of its own. -/
namespace Sys2Proof.Machine
set_option Elab.async false

/-- A command performed inside another step. -/
def State.run (s : State) (f : State → Res) : State := match f s with | .next t => t | _ => s

/-- Several commands in turn. -/
def State.runs (s : State) (l : List (State → Res)) : State := l.foldl (fun s f => s.run f) s

/-! ## Live views -/

/-- Bit `i` of every register of a bit map whose condition holds, as a word. -/
def bitWord (n : Nat) (p : Nat → Bool) : Word := wordOf (forEach (List.range n) 0 (fun a i => a + b2n (p i) * 2 ^ i))

/-- CREDIT_STAT of an end (R441, R468): the RDs outstanding read live in every state. -/
def State.creditStat (s : State) (die m : Nat) : Word :=
  let x := s.endState die m
  let n := (s.modS die m).rds.length
  if x = 3 ∨ x = 4 then wordOf (s.pFree die m + (32 - n) * 65536 + n * 0x1000000) else 0#32

/-- A module register (R468, R469). -/
def State.viewMod (s : State) (die m o : Nat) : Word :=
  let w := s.rd (modKey die m o)
  if o = BR.MOD_STAT then (if s.modOk die m then w else wput w 2 0 0)
  else if o = BR.CREDIT_STAT then s.creditStat die m
  else w

/-- A BG register (R396, R397). -/
def State.viewBg (s : State) (die e o : Nat) : Word :=
  let w := s.rd (bg die e + o)
  if o = BG.ENG_STAT then
    let ready := ((List.range 32).filter (fun c => s.chState die e c == 1)).length
    match (s.eng die e).active with
    | some c => wordOf (c + 256 + ready * 65536)
    | none => wordOf (ready * 65536)
  else if o = BG.ENG_IRQ_PEND then
    bitWord 32 (fun c => s.evOn (bgc die e c + BG.CH_EVENTS) (bgc die e c + BG.CH_IRQ_EN))
  else if 0x1000 ≤ o ∧ o < 0x2000 then
    let c := (o - 0x1000) / 0x80
    let run := chRunning (s.chState die e c)
    let pc := if run then (s.chan die e c).pc else s.fld (bgc die e c + BG.CH_PC) 10 0
    if 0x1000 + (o - 0x1000) % 0x80 = BG.CH_PC then (if run then wordOf (pc % 2048) else w)
    else if 0x1000 + (o - 0x1000) % 0x80 = BG.CH_STAT then
      wput w 19 16 (match s.progWord die e pc with | some x => nbits x 63 60 | none => 0)
    else w
  else w

/-- A queue register (R346, R349, R362, R363). -/
def State.viewQ (s : State) (die o : Nat) : Word :=
  let q := (o - 0x0A010000) / 0x20
  let v := s.queue die q
  let r := (o - 0x0A010000) % 0x20
  if r = 0 then wput (s.rd (dk die + o)) 25 25 (s.qCarrier die q)
  else if r = 0x08 then wordOf v.avail
  else if r = 0x0C then wordOf v.headLen
  else if r = 0x10 then wordOf (b2n v.fault * 2 ^ 31 + b2n v.ready * 2 ^ 30 + b2n (v.pos != 0) * 2 ^ 29 + v.undeliv)
  else if r = 0x14 then wordOf v.retained
  else s.rd (dk die + o)

/-- A TB register (R84, R86, R253): the three time registers latched per path, HOLD_EST, the alignment report, and on the partner the
lead's commit registers. -/
def State.viewTb (s : State) (die o req : Nat) : Word :=
  let k := tb die + o
  let src := if 4 ≤ die ∧ 0x10C0 ≤ o ∧ o < 0x10E0 then tb s.lead + o else k
  if o = TB.NOW1 ∨ o = TB.NOW2 ∨ o = TB.PPSCAP1 ∨ o = TB.PPSCAP2 then s.latched req k
  else if o = TB.HOLD_EST ∧ 4 ≤ die then wordOf s.holdEst
  else if o = TB.SLEW_RESID ∧ die = s.lead ∧ s.tm.slewing = true ∧ s.tm.replaced = false then wordOfInt (roundDiv s.tm.slewLeft ns40)
  else if o = TB.ALIGN_MAX ∧ die = s.lead then wordOf s.alignMax
  else if o = TB.STATUS then wput (s.rd k) 6 6 (b2n (s.alignFault die))
  else if o = TB.SYNT_OFS then wordOfInt s.syntNow
  else s.rd src

/-- What a register shows on a concentrator, offset `o`. -/
def State.viewConc (s : State) (die o req : Nat) : Word :=
  let w := s.rd (dk die + o)
  if o < 0x0A010000 then w
  else if o < 0x0A030000 then s.viewQ die o
  else if o < 0x10000000 then w
  else if 0x10200000 ≤ o ∧ o < 0x10400000 then
    if o % 0x4000 = SI.FS_TIME1 ∨ o % 0x4000 = SI.FS_TIME2 then s.latched req (dk die + o) else w
  else if 0x11000000 ≤ o ∧ o < 0x11100000 then
    if o % 0x10000 < 0x3000 ∧ 0x2000 ≤ o % 0x10000 ∧ o % 0x20 = 4 then s.latched req (dk die + o)
    else if 0x1000 ≤ o % 0x10000 ∧ o % 0x10000 < 0x2000 ∧ 0x1000 + o % 0x80 = BG.RING_CREDIT_HI then s.latched req (dk die + o)
    else s.viewBg die ((o - 0x11000000) / 0x10000) (o % 0x10000)
  else if 0x11200000 ≤ o ∧ o < 0x11300000 then
    if AX.POS ≤ o % 0x10000 ∧ o % 0x10000 ≤ AX.LAST_EDGE + 8 then s.latched req (dk die + o) else w
  else if o = 0x11100000 + EF.LEVELS then s.efLevels die
  else if 0x11400000 ≤ o ∧ o < 0x11500000 then s.viewTb die (o - 0x11400000) req
  else if 0x11500400 ≤ o ∧ o < 0x11500420 then bitWord 32 (fun i => s.concLevel die ((o - 0x11500400) / 4 * 32 + i))
  else if 0x11600000 ≤ o ∧ o < 0x11602000 then s.viewMod die ((o - 0x11600000) / 0x1000) (o % 0x1000)
  else w

/-- Whether a steward register is the high half of a pair of R452. -/
def stHigh (o : Nat) : Bool :=
  o == 0x200048 || (decide (0x201000 ≤ o) && decide (o < 0x201030) && o % 8 == 4) ||
    (decide (0x202000 ≤ o) && decide (o < 0x202800) && (o % 0x20 == 0x08 || o % 0x20 == 0x10)) ||
    (decide (0x410000 ≤ o) && decide (o < 0x418000) && (o % 0x20 == 0x08 || o % 0x20 == 0x10 || o % 0x20 == 0x18))

/-- What a register shows on a steward, offset `o`; BAR0 registers stand at 0x8000_0000. -/
def State.viewSt (s : State) (st o req : Nat) : Word :=
  let w := s.rd (dk st + o)
  if stHigh o then s.latched req (dk st + o)
  else if 0x12000 ≤ o ∧ o < 0x120A0 then bitWord 32 (fun i => s.irqPend st ((o - 0x12000) / 4 * 32 + i))
  else if 0x40000 ≤ o ∧ o < 0x50000 then s.viewTb st (o - 0x40000) req
  else if 0x100000 ≤ o ∧ o < 0x150000 ∧ o % 0x10000 < 0x100 then s.viewMod st ((o - 0x100000) / 0x10000) (o % 0x10000)
  else if o = 0x200000 + JN.FLUSH_MAX then wordOf (s.flushMax st)
  else if o = 0x210000 + HU.TEST_AGE then
    (if (s.huS st).ever then wordOf (Nat.min 0xFFFFFFFF ((s.cycle - (s.huS st).validAt) / 1000000000)) else w)
  else if o = 0x720000 + QSPI.QSPI_STAT then wordOf (w.toNat / 2 * 2 + b2n ((s.qspiS st).op.isSome || s.engineFlash st))
  else if o = 0x80000000 then wordOf (w.toNat % 2 + 2 * b2n (s.lead == st) + s.fld (tb s.lead + TB.HIER_CTL) 3 0 * 256)
  else if 0x80000010 ≤ o ∧ o < 0x80000050 then
    bitWord 32 (fun i => s.bit (pl (s.streamPipe ((o - 0x80000010) / 4 * 32 + i)) + PL.FIN_STAT) 0)
  else w

/-- What a read of a register returns, apart from what it clears or latches. -/
def State.view (s : State) (key req : Nat) : Word :=
  match lookupReg key with
  | none => 0#32
  | some (r, _, _) =>
    if r.wo then 0#32
    else if key / 0x100000000 < 4 then s.viewConc (key / 0x100000000) (key % 0x100000000) req
    else s.viewSt (key / 0x100000000) (key % 0x100000000) req

/-! ## Reads -/

/-- The register whose read latches others, read by its own command. -/
def readCmd (key req : Nat) : Option (State → Res) :=
  let die := key / 0x100000000
  let o := key % 0x100000000
  if die < 4 then
    if 0x10000000 ≤ o ∧ o < 0x10200000 then
      let p := die * 32 + (o - 0x10000000) / 0x10000
      if o % 0x10000 = LP.RX_POP then some (execRxPop p req)
      else if o % 0x10000 = LP.RX_STAT then some (execRxStatRead p req)
      else none
    else if 0x10200000 ≤ o ∧ o < 0x10400000 then
      if o % 0x4000 = SI.FS_TIME0 then some (execFsTimeRead (die * 128 + (o - 0x10200000) / 0x4000) req) else none
    else if 0x11000000 ≤ o ∧ o < 0x11100000 then
      if 0x2000 ≤ o % 0x10000 ∧ o % 0x10000 < 0x2400 ∧ o % 0x20 = 0 then
        some (execRingTotalRead die ((o - 0x11000000) / 0x10000) ((o % 0x10000 - 0x2000) / 0x20) req) else none
    else if 0x11200000 ≤ o ∧ o < 0x11300000 then
      if o % 0x10000 = AX.COUNT then some (execAxisCountRead (die * 4 + (o - 0x11200000) / 0x10000) req) else none
    else if o = 0x11400000 + TB.NOW0 then some (execNowRead die req)
    else if o = 0x11501000 ∨ o = 0x11501008 then some (execKpClaim die ((o - 0x11501000) / 8) req)
    else none
  else if o = 0x40000 + TB.NOW0 then some (execNowRead die req)
  else if o = 0x40000 + TB.PPSCAP0 then some (execPpscapRead die req)
  else if 0x14000 ≤ o ∧ o < 0x14040 ∧ o % 8 = 0 then some (execCtxClaim die ((o - 0x14000) / 8) req)
  else none

/-- The high half that a read of a low half latches (R435, R452, R552). -/
def pairHigh (key : Nat) : Option Nat :=
  let o := key % 0x100000000
  if key / 0x100000000 < 4 then
    if 0x11000000 ≤ o ∧ o < 0x11100000 ∧ 0x1000 ≤ o % 0x10000 ∧ o % 0x10000 < 0x2000 ∧ 0x1000 + o % 0x80 = BG.RING_CREDIT then
      some (key + 4) else none
  else if stHigh (o + 4) then some (key + 4) else none

/-- The offset of a key within its TB block, if it lies in one. -/
def tbOff (key : Nat) : Option Nat :=
  let o := key % 0x100000000
  if key / 0x100000000 < 4 then (if 0x11400000 ≤ o ∧ o < 0x11500000 then some (o - 0x11400000) else none)
  else if 0x40000 ≤ o ∧ o < 0x50000 then some (o - 0x40000) else none

/-- What a read clears: RC bits (R14), the least free count, which starts again at the present one (R362), and the high-water mark
of a landing FIFO (R191); a read of SYNT_OFS reports f (R75). -/
def State.readClear (s : State) (key rc : Nat) : State :=
  let die := key / 0x100000000
  let o := key % 0x100000000
  let s1 := if rc = 0 then s else s.wr key (s.rd key &&& ~~~ (wordOf rc))
  if die < 4 ∧ o = BS.BS_FREE_MIN then s1.wr key (s.rd (dk die + BS.BS_FREE))
  else if die < 4 ∧ 0x10000000 ≤ o ∧ o < 0x10200000 ∧ o % 0x10000 = LP.FIFO_OVF then
    let k := lp (die * 32 + (o - 0x10000000) / 0x10000) + LP.FIFO_STAT
    s1.wrFld k 25 16 (s.fld k 9 0)
  else if tbOff key = some TB.SYNT_OFS then s1.noteSynt
  else s1

/-- A 32-bit read of a register that exists (R14, R452): the state after it and the word returned. -/
def State.readReg (s : State) (key req : Nat) : State × Word :=
  match readCmd key req with
  | some f =>
    let t := s.run f
    ({ t with resp := s.resp }, match t.resp with | .data (w :: _) => w | _ => 0#32)
  | none =>
    let w := s.view key req
    let s1 := match pairHigh key with | some h => s.latch req h (s.rd h) | none => s
    match lookupReg key with
    | some (r, _, _) => (s1.readClear key r.rc, w)
    | none => (s1, w)

/-! ## Writes -/

/-- Bits hi:lo of `v` within lo..hi. -/
def inR (v hi lo a b : Nat) : Bool := decide (a ≤ nbits v hi lo) && decide (nbits v hi lo ≤ b)

/-- The ranges stated for fields of the registers of a concentrator. -/
def rangeConc (o v : Nat) : Bool :=
  if 0x10000000 ≤ o ∧ o < 0x10200000 then
    let r := o % 0x10000
    if r = LP.TX_CFG then inR v 1 0 1 3
    else if r = LP.RETRY then inR v 3 0 1 15
    else if r = LP.LOCK_CFG then inR v 3 0 1 15 && inR v 15 8 1 255
    else if r = LP.DLY_CTL then inR v 9 0 1 1000
    else if r = LP.BUS_CTL then inR v 7 0 1 255
    else true
  else if 0x10200000 ≤ o ∧ o < 0x10400000 then
    let r := o % 0x4000
    if r = SI.CTL then inR v 13 8 0x2A 0x2F
    else if r = SI.GEOM then inR v 13 0 16 8192 && inR v 29 16 1 8192
    else if r = SI.PERIOD then inR v 31 0 1000000 4000000000
    else if r = SI.GATE then inR v 5 0 0 32
    else if r = SI.RO_LAT then inR v 31 0 0 1000000
    else true
  else if 0x10400000 ≤ o ∧ o < 0x10C00000 then
    let r := o % 0x10000
    if r = PL.HIST_SIZE then inR v 13 0 1 8192 && inR v 29 16 1 8192
    else if r = PL.ZONE_SIZE then inR v 13 0 2 8192 && inR v 29 16 2 8192 && v % 2 == 0 && v / 65536 % 2 == 0
    else true
  else if 0x11000000 ≤ o ∧ o < 0x11100000 ∧ 0x1000 ≤ o % 0x10000 ∧ o % 0x10000 < 0x2000 ∧ 0x1000 + o % 0x80 = BG.CH_RATE then
    inR v 8 0 1 256 && inR v 24 16 1 256
  else if 0x11150000 ≤ o ∧ o < 0x11150080 ∧ o % 0x20 = 8 then inR v 31 0 1 1000000000
  else if o = 0x11160000 then inR v 16 0 1000 100000
  else if 0x11200000 ≤ o ∧ o < 0x11300000 then
    let r := o % 0x10000
    if r = AX.FILT then inR v 7 0 1 255
    else if r = AX.SSI_CFG then inR v 15 8 1 250
    else if r = AX.IDX_PERIOD then inR v 31 0 0 0x7FFFFFFF
    else if r = AX.FAULT_CFG then inR v 7 0 1 255 && inR v 31 16 1 65535
    else true
  else if o = 0x11600000 + BR.FO_CTL then inR v 3 0 2 15
  else if o = 0x11800000 + SM.SCRUB_PERIOD then inR v 31 0 3600 86400
  else if o = 0x11800000 + SM.PCC_CTL then inR v 13 8 1 32 && inR v 23 16 1 255
  else true

/-- The ranges stated for fields of the registers of a steward. -/
def rangeSt (o v : Nat) : Bool :=
  if o = 0x142000 then inR v 3 0 2 15 && inR v 31 16 0 60000
  else if o = 0x43004 ∨ (0x43000 ≤ o ∧ o < 0x43200 ∧ o % 8 = 4) then inR v 31 0 0 1000000
  else if o = 0x200000 + JN.COMMIT_LAT then inR v 31 16 100 5000 && inR v 15 0 10 (nbits v 31 16)
  else if o = 0x200000 + JN.PAD_LIMIT then inR v 31 0 1000 50000
  else if o = 0x200000 + JN.LANES then inR v 3 0 1 8
  else if o = 0x200000 + JN.LIFE then inR v 7 0 1 30 && inR v 15 8 1 168
  else if 0x206000 ≤ o ∧ o < 0x206200 ∧ o % 0x20 = 4 then inR v 31 0 0 30000
  else if 0x206000 ≤ o ∧ o < 0x206200 ∧ o % 0x20 = 8 then inR v 31 0 1 300000
  else if o = 0x210000 + HU.MARGIN then inR v 6 0 50 100
  else if o = 0x210000 + HU.PERIOD then inR v 31 0 60 86400
  else if o = 0x210000 + HU.TEST_MAX then inR v 31 0 10 10000
  else if o = 0x210000 + HU.PF_FILT then inR v 6 0 1 100
  else if o = 0x210000 + HU.RESUME then inR v 31 0 100 60000
  else if o = 0x400000 + EP.SHED_PARAM then inR v 7 0 50 100
  else if o = 0x400000 + EP.ACCEPT_STALL then inR v 31 0 1 1000
  else if o = 0x400000 + EP.MSIX_MOD then inR v 31 0 0 1000
  else if o = 0x600000 + LPD.SCRUB_PERIOD then inR v 31 0 3600 86400
  else true

/-- The ranges stated for TB registers (R84). -/
def rangeTb (o v : Nat) : Bool :=
  if o = TB.SLEW_RATE then inR v 31 0 1 500000
  else if o = TB.DEAL_INTERVAL then inR v 31 0 125 8000
  else if 0x2000 ≤ o ∧ o < 0x2200 ∧ o % 0x20 = 0xC then inR v 31 0 1000 0xFFFFFFFF
  else true

/-- Whether a value lies within the ranges stated for the register's fields. -/
def inRange (key v : Nat) : Bool :=
  (match tbOff key with | some o => rangeTb o v | none => true) &&
    (if key / 0x100000000 < 4 then rangeConc (key % 0x100000000) v else rangeSt (key % 0x100000000) v)

/-- A write by the access codes of R14: RW bits take the value, W1C bits written as 1 clear, locked bits stay. -/
def State.storeReg (s : State) (key : Nat) (r : RegRow) (locked : Bool) (v : Nat) : State :=
  let m := if locked then r.wr &&& (0xFFFFFFFF - r.lock) else r.wr
  let cur := s.rd key
  let w := wordOf v
  s.wr key (((cur &&& ~~~ (wordOf m)) ||| (w &&& wordOf m)) &&& ~~~ (w &&& wordOf r.w1c))

/-- A value out of its range is ignored, where the block says so, and is reported the way the block says: TB (R87) and the
power-over-cable chain (R721) in the error log, JN (R552) and BG (R396) by CFG_REFUSED. Other blocks store it. -/
def State.rangeStop (s : State) (key req v : Nat) : Option State :=
  let die := key / 0x100000000
  let o := key % 0x100000000
  match tbOff key with
  | some x => if rangeTb x v then none else some (s.logErr die 1 4 9 req 0 0)
  | none =>
    if inRange key v then none
    else if 4 ≤ die ∧ 0x200000 ≤ o ∧ o < 0x210000 then some (s.setBit (jn die + JN.JN_EVENTS) 29)
    else if die < 4 ∧ o = 0x11800000 + SM.PCC_CTL then some (s.logErr die 1 4 0x0D req 0 0)
    else if die < 4 ∧ 0x11000000 ≤ o ∧ o < 0x11100000 then
      some (s.chEvent die ((o - 0x11000000) / 0x10000) ((o % 0x10000 - 0x1000) / 0x80) 6)
    else none

/-- Whether a write that is within its range changes nothing in the block's present state: an eye scan under way (R133), a running
check-value unit (R609), reserved sources (R471) and routes (R472), the partner's schedule copies (R253), a basin carrier on the AZL128
(R363). -/
def State.writeHeld (s : State) (key : Nat) : Bool :=
  let die := key / 0x100000000
  let o := key % 0x100000000
  if die < 4 then
    (decide (0x10000000 ≤ o) && decide (o < 0x10200000) && decide (LP.ES_CTL ≤ o % 0x10000) && decide (o % 0x10000 ≤ LP.ES_V) &&
      s.bit (lp (die * 32 + (o - 0x10000000) / 0x10000) + LP.STATUS) 6) ||
    (decide (0x11300000 ≤ o) && decide (o < 0x11308000) && s.bit (ck die ((o - 0x11300000) / 0x1000) + CK.CK_STAT) 0) ||
    (decide (0x11500000 + 4 * 234 ≤ o) && decide (o < 0x11500400))
  else
    (decide (0x30000 ≤ o) && decide (o < 0x34000) && s.bit (ck die ((o - 0x30000) / 0x1000) + CK.CK_STAT) 0) ||
    (decide (0x10000 ≤ o) && decide (o < 0x11400) &&
      (let g := (o - 0x10000) / 4
       if g < 256 then decide (128 ≤ g) else decide (234 ≤ g % 256) || !s.present (g / 256 - 1))) ||
    (die != s.lead && ((decide (0x410C0 ≤ o) && decide (o < 0x410EC)) || (decide (0x43000 ≤ o) && decide (o < 0x43200))))

/-- A ring entry or a ledger of a steward (R435): written only while the entry is inactive. -/
def State.writeRing (s : State) (st k r : Nat) (row : RegRow) (v : Nat) : State :=
  let b := epb st + EP.RING_CFG + 0x20 * k
  if r = 0x0C then s.updEp st (fun e => { e with dbLo := (k, v % 2 ^ 32) :: e.dbLo.filter (fun p => p.1 != k) })
  else if r = 0x04 ∨ r = 0x08 then s.storeReg (b + r) row false v
  else if s.ringActive st k then s.epEvent st 8
  else
    let s1 := s.storeReg (b + r) row false v
    if r = 0x14 ∨ r = 0x18 then
      s1.setLedger st k { pos := s1.rdPair (b + 0x14) (b + 0x18), bound := s1.rdPair (b + 0x14) (b + 0x18) }
    else s1

/-- Whether journal ring entry `k` is active on a steward (R418, R533). -/
def State.jrActive (s : State) (st k : Nat) : Bool :=
  s.jrFld st k 31 31 == 1 && s.carrierOf (s.jrFld st k 23 22) (s.jrFld st k 11 0) == st

/-- A plain register written: its hold, its range, its store, and what the write brings with it. -/
def State.writePlain (s : State) (key req : Nat) (row : RegRow) (v : Nat) : State :=
  let die := key / 0x100000000
  let o := key % 0x100000000
  if s.writeHeld key then s
  else match s.rangeStop key req v with
  | some s1 => s1
  | none =>
    match tbOff key with
    | some x =>
      if x = TB.HIER_CTL then
        let s1 := s.storeReg key row (s.tm.hierLocked.contains die) v
        if s1.bit key 15 = s.bit key 15 then s1 else s1.setTm { s1.tm with synt := 0, syntAt := s.cycle }
      else if x = TB.CTL then
        let s1 := s.storeReg key row false v
        if die = s.lead ∧ s.fld key 1 0 ≠ v % 4 then s1.sourceChanged else s1
      else if 0x2000 ≤ x ∧ x < 0x2200 ∧ x % 0x20 = 0x14 ∧ v.testBit 0 then (s.storeReg key row false v).wrFld key 31 16 0
      else s.storeReg key row false v
    | none =>
      if 4 ≤ die ∧ 0x410000 ≤ o ∧ o < 0x418000 then s.writeRing die ((o - 0x410000) / 0x20) (o % 0x20) row v
      else if die < 4 ∧ o = 0x11800000 + SM.PCC_CTL ∧ v.testBit 0 = false then
        forEach (List.range 32) (s.storeReg key row false v) (fun s l => s.setPwr (die * 32 + l) (s.port (die * 32 + l)).pwrWant)
      else if o = scrubCtl die ∧ v.testBit 0 = true ∧ s.bit key 0 = false then (s.storeReg key row false v).scrubStart die
      else if 4 ≤ die ∧ o = 0x220000 then s.setBits key (v % 2)
      else if 4 ≤ die ∧ 0x202000 ≤ o ∧ o < 0x202800 ∧ o % 0x20 ≠ 4 ∧ o % 0x20 ≠ 8 ∧ s.jrActive die ((o - 0x202000) / 0x20) = true then
        s.jnEvent die 29
      else if 4 ≤ die ∧ 0x202000 ≤ o ∧ o < 0x202800 then
        (s.storeReg key row false v).setJn die { (s.jnS die) with stopped := (s.jnS die).stopped.filter (fun k => k != (o - 0x202000) / 0x20) }
      else if die < 4 ∧ 0x0A010000 ≤ o ∧ o < 0x0A030000 ∧ o % 0x20 = 0 ∧ s.part = .azl128 then
        (s.storeReg key row false v).clrBit key 25
      else if die < 4 ∧ 0x11000000 ≤ o ∧ o < 0x11100000 ∧ 0x1000 ≤ o % 0x10000 ∧ o % 0x10000 < 0x2000 ∧ 0x1000 + o % 0x80 = BG.CH_RATE then
        (s.settleAcc die ((o - 0x11000000) / 0x10000) ((o % 0x10000 - 0x1000) / 0x80)).storeReg key row false v
      else s.storeReg key row false v

/-- The commands that a write of a camera port's register performs. ES_CMD with START and STOP acts on STOP first, so that the write ends a scan
and begins the next (DESIGN CHOICE, log entry 60). -/
def cmdLp (p r req v : Nat) : Option (List (State → Res)) :=
  if r = LP.COMMIT then some [execLpCommit p req v]
  else if r = LP.CMD then some [if v.testBit 3 then execLpPortReset p req v else if v.testBit 2 then execLpFaultClear p req v
    else if v.testBit 1 then execLpFullRetrain p req v else execLpRetrain p req v]
  else if r = LP.ES_CMD then some [execEsStop p req v, execEsStart p req v]
  else if r = LP.TX_GO then some [execTxGo p req v]
  else none

/-- Those of a pipeline. -/
def cmdPl (n r req v : Nat) : Option (List (State → Res)) :=
  if r = PL.COMMIT then some [execPlCommit n req v]
  else if r = PL.PA_CMD then some [execPaFlush n req v]
  else if r = PL.PA_CTL then some [execPaCtlWrite n req v]
  else if r = PL.PL_CMD then some [execPlReset n req v]
  else if PL.MAP0_E ≤ r ∧ r < PL.MAP0_E + 0x2000 then some [execMapWrite n 0 ((r - PL.MAP0_E) / 4) req v]
  else if PL.MAP1_E ≤ r ∧ r < PL.MAP1_E + 0x2000 then some [execMapWrite n 1 ((r - PL.MAP1_E) / 4) req v]
  else none

/-- Those of a barge engine. -/
def cmdBg (die e r req v : Nat) : Option (List (State → Res)) :=
  if r = BG.ENG_CMD then some [if v.testBit 1 then execAbortAllQuiet die e req v else execAbortAll die e req v]
  else if 0x1000 ≤ r ∧ r < 0x2000 then
    let c := (r - 0x1000) / 0x80
    let x := 0x1000 + (r - 0x1000) % 0x80
    if x = BG.CH_CMD then
      some [fun s => match s.firstCmd die e c v with
        | some 0 => if v.testBit 4 then execChAbortQuiet die e c req v s else execChAbort die e c req v s
        | some 1 => execChResume die e c req v s
        | some 2 => execChStart die e c req v s
        | some _ => execChReset die e c req v s
        | none => .next s]
    else if x = BG.CH_CFG ∨ x = BG.RING_BASE_LO ∨ x = BG.RING_BASE_HI then some [execChCfgWrite die e c x req v]
    else if x = BG.RING_ADD then some [execRingAdd die e c req v]
    else if x = BG.RING_LOG then some [execRingLogWrite die e c req v]
    else none
  else none

/-- Those of the timebase of a die; the scheduler of a concentrator among them. -/
def cmdTb (die x req v : Nat) : Option (List (State → Res)) :=
  if x = TB.COMMIT then some [execTbSet die req v, execTbSlew die req v, execTbRate die req v, execTbCancel die req v]
  else if 0x2000 ≤ x ∧ x < 0x2200 ∧ x % 0x20 = 0x18 then some [execAlarmCommit die ((x - 0x2000) / 0x20) req v]
  else if x = TB.SCHED_COMMIT then some [execSchedCommit die req v, execSchedCancel die req v]
  else if die < 4 ∧ 0x20000 ≤ x ∧ x < 0x22000 ∧ x % 0x40 = 0xC then some [execExpLenWrite (die * 128 + (x - 0x20000) / 0x40) req v]
  else if die < 4 ∧ 0x40000 ≤ x ∧ x < 0x40100 then some [execLeadWrite (die * 32 + (x - 0x40000) / 8) (x % 8 == 4) req v]
  else none

/-- Those of the basin. -/
def cmdBs (die o v : Nat) : Option (List (State → Res)) :=
  let q := (o - 0x0A010000) / 0x20
  if o = BS.BS_CMD then
    some (if v % 4 = 3 then [execReplaySa die true] else if v.testBit 0 then [execReplaySa die false]
      else if v.testBit 1 then [execReplaySb die false] else [])
  else if 0x0A010000 ≤ o ∧ o < 0x0A030000 ∧ o % 0x20 = 0x18 then some [execQAck die q v]
  else if 0x0A010000 ≤ o ∧ o < 0x0A030000 ∧ o % 0x20 = 0x1C then
    some ((if v.testBit 0 then [execQReplay die q] else []) ++ (if v.testBit 1 then [execQFlush die q] else []))
  else none

/-- Those of the event fabric. -/
def cmdEf (die x req v : Nat) : Option (List (State → Res)) :=
  if x = EF.EF_COMMIT then some [execEfCommit die req v]
  else if x = EF.EF_SW_PULSE then some [execSwPulse die req v]
  else if 0x20000 ≤ x ∧ x < 0x20200 ∧ x % 0x20 = 0x18 then some [execCellClr die ((x - 0x20000) / 0x20) req v]
  else if efShadowed x then some [execEfShadowWrite die x req v]
  else none

/-- Those of an axis. -/
def cmdAx (a r req v : Nat) : Option (List (State → Res)) :=
  if r = AX.AX_COMMIT then some [execAxCommit a req v]
  else if r = AX.AX_CMD then some ((if v.testBit 2 then [execClrCount a req v] else []) ++ (if v.testBit 0 then [execAxRef a req v] else []) ++
    (if v.testBit 1 then [execArmHome a req v] else []))
  else none

/-- The semaphore block's. -/
def cmdSm (die x req v : Nat) : Option (List (State → Res)) :=
  if x < 0x200 ∧ x % 8 = 0 then
    some ((if v.testBit 1 then [execSemRel die (x / 8) req] else []) ++ (if v.testBit 0 then [execSemAcq die (x / 8) req 0] else []))
  else if x = SM.SEM_FORCE then some [if v.testBit 8 then execSemForceAll die req v else execSemForceOwner die req v]
  else none

/-- MOD_CMD of a module: the first bit that acts (R447). -/
def cmdMod (die m req v : Nat) : List (State → Res) :=
  [fun s => match modFirst (s.endState die m) v with
    | some 0 => execModCmdDown die m req v s
    | some 1 => execModCmdUp die m req v s
    | some _ => execModCmdRetrain die m req v s
    | none => .next s]

/-- The commands that a write of a concentrator register performs. -/
def cmdConc (die o req v : Nat) : Option (List (State → Res)) :=
  if o < 0x10000000 then cmdBs die o v
  else if o < 0x10200000 then cmdLp (die * 32 + (o - 0x10000000) / 0x10000) (o % 0x10000) req v
  else if o < 0x10400000 then
    if o % 0x4000 = SI.COMMIT then some [execSiCommit (die * 128 + (o - 0x10200000) / 0x4000) req v] else none
  else if o < 0x11000000 then cmdPl (die * 128 + (o - 0x10400000) / 0x10000) (o % 0x10000) req v
  else if o < 0x11100000 then cmdBg die ((o - 0x11000000) / 0x10000) (o % 0x10000) req v
  else if o < 0x11200000 then cmdEf die (o - 0x11100000) req v
  else if o < 0x11300000 then cmdAx (die * 4 + (o - 0x11200000) / 0x10000) (o % 0x10000) req v
  else if o < 0x11400000 then
    if o % 0x1000 = CK.CK_CMD then some [execCkStart die ((o - 0x11300000) / 0x1000) req v, execCkStop die ((o - 0x11300000) / 0x1000) req v]
    else none
  else if o < 0x11500000 then cmdTb die (o - 0x11400000) req v
  else if o = 0x11500000 + IQ.SW_SET then some [execSwSet die req v]
  else if o = 0x11500000 + IQ.SW_CLR then some [execSwClr die req v]
  else if o = 0x11500000 + IQ.SNAP_CMD then some [execSnapSa die req v, execSnapSb die req v]
  else if o = 0x11501004 ∨ o = 0x1150100C then some [execKpComplete die ((o - 0x11501004) / 8) req v]
  else if o = 0x11600004 ∨ o = 0x11601004 then some (cmdMod die ((o - 0x11600004) / 0x1000) req v)
  else if 0x11800000 ≤ o then cmdSm die (o - 0x11800000) req v
  else none

/-- The commands that a write of a steward register performs, but for those of start-up and of the other steward's reset. -/
def cmdSt (st o req v : Nat) : Option (List (State → Res)) :=
  if o = 0x10000 + IQS.SW_SET then some [execSwSet st req v]
  else if o = 0x10000 + IQS.SW_CLR then some [execSwClr st req v]
  else if 0x14000 ≤ o ∧ o < 0x14040 ∧ o % 8 = 4 then some [execCtxComplete st ((o - 0x14000) / 8) req v]
  else if 0x20000 ≤ o ∧ o < 0x30000 then cmdSm st (o - 0x20000) req v
  else if 0x30000 ≤ o ∧ o < 0x34000 ∧ o % 0x1000 = CK.CK_CMD then
    some [execCkStart st ((o - 0x30000) / 0x1000) req v, execCkStop st ((o - 0x30000) / 0x1000) req v]
  else if 0x40000 ≤ o ∧ o < 0x50000 then cmdTb st (o - 0x40000) req v
  else if 0x100000 ≤ o ∧ o < 0x150000 then
    let m := (o - 0x100000) / 0x10000
    let r := o % 0x10000
    if r = BRS.MOD_CMD then some (cmdMod st m req v)
    else if 0x100 ≤ r ∧ r < 0x180 ∧ r % 0x10 = 0 then some [execPfMarkWrite st m ((r - 0x100) / 0x10) req false v]
    else if 0x100 ≤ r ∧ r < 0x180 ∧ r % 0x10 = 4 then some [execPfMarkWrite st m ((r - 0x100) / 0x10) req true v]
    else if r = BRS.PF_CMD then (if v.testBit 0 then some [execPfFlush st m req] else some [])
    else none
  else if o = 0x200000 + JN.JN_CMD then
    some ((if v.testBit 0 then [execCommitNow st req v] else []) ++ (if v.testBit 1 then [execDetach st req v] else []) ++
      (if v.testBit 2 then [execAttach st req v] else []) ++ (if v.testBit 3 then [execInitDrive st req v] else []) ++
      (if v.testBit 4 then [execRescan st req v] else []))
  else if o = 0x210000 + HU.HU_CMD then some [execTestNow st req v]
  else if o = 0x210000 + HU.HU_COMMIT then some [execHuCommit st req v]
  else if o = 0x400000 + EP.EP_DRAIN then some [execEpDrain st req v]
  else if 0x410000 ≤ o ∧ o < 0x418000 ∧ o % 0x20 = 0x10 then some [execDbShadowWrite st ((o - 0x410000) / 0x20) req v]
  else if o = 0x700000 + CAN.CAN_CMD then some [execRecover st req v]
  else if o = 0x710000 + I2C.I2C_CMD then some [execI2cReset st req v]
  else if o = 0x720000 + QSPI.QSPI_CMD then
    some ((if v.testBit 0 then [execFlashProgram st req v] else []) ++ (if v.testBit 1 then [execErase4k st req v] else []) ++
      (if v.testBit 2 then [execErase64k st req v] else []))
  else none

/-- A 32-bit write of a register that exists, by its command or by its access codes (R14). -/
def State.writeReg (s : State) (key req v : Nat) : State :=
  let die := key / 0x100000000
  let o := key % 0x100000000
  match if die < 4 then cmdConc die o req v else cmdSt die o req v with
  | some l => s.runs l
  | none =>
    match lookupReg key with
    | some (r, _, _) => if r.own then s else s.writePlain key req r v
    | none => s

end Sys2Proof.Machine
end

