-- ==== Sys2Proof/Machine/DictObj.lean ====
section
/-! DEFINITION. The index map of the object dictionary (R611-R615, R628, R636-R646): every object's access, size, marks, and the register
fields it mirrors. -/
namespace Sys2Proof.Machine
set_option Elab.async false

/-- A field of a register as it stands in an object: bits hi:lo, in as many bytes as they need (R614). -/
structure RegPart where
  key : Nat
  hi : Nat := 31
  lo : Nat := 0
  deriving DecidableEq, Repr

def RegPart.width (p : RegPart) : Nat := (p.hi + 8 - p.lo) / 8

/-- Where the value of an object comes from: register fields, the dictionary's own storage, or a computed value. -/
inductive ObjSrc where
  | regs (l : List RegPart)
  | own (dflt : List Byte)
  | val (f : State → List Byte)

/-- An object (R611, R613): access 0 const, 1 ro, 2 wo, 3 rw; its size; marks P and M; whether it is a DOMAIN; its source; and the further
copies that a write sets ("both", R636, R641). -/
structure Obj where
  acc : Nat
  size : Nat
  p : Bool := false
  m : Bool := false
  dom : Bool := false
  src : ObjSrc
  copies : List (List RegPart) := []

/-- What a look-up answers (R616). -/
inductive Found where
  | noIndex
  | noSub
  | obj (o : Obj)

def w32 (k : Nat) : RegPart := { key := k }
def widths (l : List RegPart) : Nat := (l.map (fun p => p.width)).sum
/-- Objects over register fields. -/
def rw (l : List RegPart) (p : Bool) : Obj := { acc := 3, size := widths l, p := p, src := .regs l }
def ro (l : List RegPart) (m : Bool) : Obj := { acc := 1, size := widths l, m := m, src := .regs l }
def wo (l : List RegPart) : Obj := { acc := 2, size := widths l, src := .regs l }
def rwDom (l : List RegPart) : Obj := { acc := 3, size := widths l, p := true, dom := true, src := .regs l }
/-- Words at a stride. -/
def wordsAt (k stride n : Nat) : List RegPart := (List.range n).map (fun i => w32 (k + stride * i))
def u8 (k : Nat) : RegPart := { key := k, hi := 7, lo := 0 }
def u16 (k : Nat) : RegPart := { key := k, hi := 15, lo := 0 }

/-- The record of a list of sub-indices from 1, or `none` where the sub-index is a gap. -/
def recSub (l : List (Nat × Obj)) (sub : Nat) : Found :=
  if sub = 0 then .obj { acc := 0, size := 1, src := .val (fun _ => leBytes ((l.map (fun e => e.1)).foldl Nat.max 0) 1) }
  else match l.lookup sub with
    | some o => .obj o
    | none => .noSub

def numbered (start : Nat) (l : List Obj) : List (Nat × Obj) := (List.range l.length).zip l |>.map (fun e => (start + e.1, e.2))

/-! ## Global records (R637-R642) -/

/-- The lead's registers. -/
def State.ltb (s : State) : Nat := tb s.lead

/-- 0x2000, identity and status (R637). The format of the image versions is not stated: they are constants of the part. -/
def State.obj2000 (s : State) : List (Nat × Obj) :=
  let c := fun (acc n : Nat) (m : Bool) (f : State → List Byte) => ({ acc := acc, size := n, m := m, src := .val f } : Obj)
  [ (1, c 0 4 false (fun _ => leBytes (Config.partConst 2) 4)),
    (2, c 0 2 false (fun s => leBytes s.deviceId 2)),
    (3, c 0 8 false (fun _ => leBytes (Config.partConst 0 / 2 * 2) 8)),
    (4, c 1 1 true (fun s => leBytes ((s.dies.filter (fun d => !s.lostDies.contains d && !s.declared.contains d)).foldl
      (fun a d => a + 2 ^ d) 0) 1)),
    (5, c 1 32 false (fun _ => leBytes (Config.partConst 5) 32)),
    (6, c 1 32 false (fun _ => leBytes (Config.partConst 6) 32)),
    (7, c 1 1 true (fun s => leBytes (s.lead - 4) 1)),
    (8, ro [w32 (upb s.lead + UP.UP_STATUS)] true),
    (9, ro [w32 (upb s.lead + UP.UP_EPOCH)] true),
    (10, c 1 12 true (fun s => leBytes (dtPack (s.stamp s.lead)) 12)),
    (11, c 0 2 false (fun s => s.flashBytes s.lead (s.hdrBase s.lead + 4) 2)) ]

/-- What a function reports of itself in configuration space (R408). -/
structure PciIdent where
  vendor : Nat
  subVendor : Nat
  device : Nat
  classCode : Nat
  revision : Nat
  subsystem : Nat
  serial : Nat
  deriving DecidableEq, Repr

/-- The identity of a steward's function (R408): bit 0 of the serial number names the steward. -/
def State.pciIdent (s : State) (st : Nat) : PciIdent :=
  { vendor := Config.partConst 2
    subVendor := Config.partConst 2
    device := s.deviceId
    classCode := 0x048000
    revision := Config.partConst 1
    subsystem := leNat (s.flashBytes st (s.hdrBase st + 4) 2)
    serial := Config.partConst 0 / 2 * 2 + b2n (st == 5) }

/-- Whether the bytes of profile `n` on a steward are a valid copy (R647, R668). -/
def State.profValid (s : State) (st n : Nat) : Bool :=
  let a := profAddr n
  let len := s.flashNat st (a + 4) 4
  s.present st && s.flashNat st a 1 == 1 && s.flashNat st (a + 1) 1 == n && decide (len + 0x20 ≤ 0x800000) &&
    crc32c (s.flashBytes st a 0x1C ++ s.flashBytes st (a + 0x20) len) == s.flashNat st (a + 0x1C) 4
/-- The steward whose copy of profile `n` is used (R647): of two valid ones the higher GEN, the lead's at a tie. -/
def State.profCopy (s : State) (n : Nat) : Option Nat :=
  let l := s.lead
  let q := partner l
  if s.profValid l n ∧ s.profValid q n then
    some (if s.flashNat l (profAddr n + 8) 8 < s.flashNat q (profAddr n + 8) 8 then q else l)
  else if s.profValid l n then some l
  else if s.profValid q n then some q
  else none

/-- One entry of CATALOG (R638): GEN, CRC, STORED, FLAGS; copy A is SA's. -/
def State.catalog (s : State) (n : Nat) : List Byte :=
  (match s.profCopy n with
    | some st => s.flashBytes st (profAddr n + 8) 4 ++ s.flashBytes st (profAddr n + 0x1C) 4 ++ s.flashBytes st (profAddr n + 0x10) 4
    | none => zeros 12) ++ leBytes (b2n (s.profValid 4 n) + 2 * b2n (s.profValid 5 n)) 4

/-- An object of the dictionary's own. -/
def ownObj (acc size : Nat) (p m : Bool) (d : List Byte) : Obj := { acc := acc, size := size, p := p, m := m, src := .own d }

/-- 0x2100, profiles and persistence (R638). -/
def obj2100 : List (Nat × Obj) :=
  [ (1, ownObj 1 1 false true [4#8]),
    (2, ownObj 1 1 false false [0#8]),
    (3, ownObj 2 1 false false [0#8]),
    (4, ownObj 3 1 false false [0#8]),
    (5, ownObj 3 12 false false (zeros 12)),
    (6, ownObj 2 1 false false [0#8]),
    (7, ownObj 1 4 false false (zeros 4)),
    (8, ownObj 2 1 false false [0#8]),
    (9, ownObj 1 4 false false (zeros 4)),
    (10, { acc := 1, size := 80, src := .val (fun s => ((List.range 5).map (fun n => s.catalog n)).flatten) }),
    (11, ownObj 3 1 true false [0x20#8]),
    (12, ownObj 3 1 true false [0x21#8]),
    (13, ownObj 3 1 true false [0#8]),
    (14, ownObj 3 1 true false [3#8]) ]

/-- 0x2200, timebase, schedule set and hierarchy, on the lead (R639). -/
def State.obj2200 (s : State) : List (Nat × Obj) :=
  let k := s.ltb
  let t := fun o => w32 (k + o)
  [ (1, rw [{ key := k + TB.CTL, hi := 3 }] true),
    (2, rw [t TB.SET0, t TB.SET1, t TB.SET2] false),
    (3, rw [t TB.SLEW_NS] false),
    (4, rw [u16 (k + TB.SLEW_SUB)] false),
    (5, rw [t TB.RATE_SET] false),
    (6, wo [u8 (k + TB.COMMIT)]) ] ++
  numbered 7 ([TB.SLEW_RATE, TB.HOLD_DRIFT, TB.HOLD_LIMIT, TB.SERVO, TB.STEP_THRESH, TB.PPS_WINDOW, TB.PPSIN_OFS, TB.PPSOUT_WIDTH,
    TB.PPSOUT_OFS, TB.HIER_CTL, TB.DEAL_INTERVAL].map (fun o => rw [t o] true)) ++
  [ (0x12, ro [t TB.STATUS] true),
    (0x13, ro [t TB.HOLD_EST] true),
    (0x14, rw [t TB.EPOCH0, t TB.EPOCH1, t TB.EPOCH2] true),
    (0x15, rwDom ((List.range 64).flatMap (fun g => [t (TB.GRP_PERIOD + 8 * g), t (TB.GRP_GUARD + 8 * g)]))),
    (0x16, rw [t TB.SCHED_ACT0, t TB.SCHED_ACT1, t TB.SCHED_ACT2] false),
    (0x17, wo [u8 (k + TB.SCHED_COMMIT)]),
    (0x18, ro [t TB.SCHED_CSTAT] false),
    (0x19, ro [t TB.SCHED_CONFLICT] false),
    (0x1A, ownObj 3 16 true false (List.replicate 16 0xFF#8)),
    (0x1B, ownObj 3 2 true false (leBytes 100 2)) ]

/-- A register object written to both stewards (R636). -/
def State.both (s : State) (f : Nat → List RegPart) (dom : Bool) : Obj :=
  let o := rw (f s.lead) true
  { o with
    dom := dom
    copies := if s.present (partner s.lead) && !s.declared.contains (partner s.lead) then [f (partner s.lead)] else [] }

/-- 0x2300, journal (R640). -/
def State.obj2300 (s : State) : List (Nat × Obj) :=
  let per := fun (l : List (Nat × Obj)) => l.filter (fun e => s.present 5 || e.1 % 2 == 1)
  numbered 1 ([JN.JN_CTL, JN.WEIR_TIME, JN.COMMIT_LAT, JN.PAD_LIMIT, JN.LANES, JN.LIFE, JN.ENDUR_OVR, JN.FLOOR].map (fun o =>
    s.both (fun st => [w32 (jn st + o)]) false)) ++
  [ (9, s.both (fun st => wordsAt (jn st + JN.SG_CFG) 4 2048) true),
    (10, s.both (fun st => wordsAt (jn st + JN.CL_CTL) 4 128) true) ] ++
  per ((List.range 2).flatMap (fun i =>
    let st := 4 + i
    [ (0x0B + i, wo [u8 (jn st + JN.JN_CMD)]),
      (0x0D + i, ro ([JN.JN_STAT, JN.WEAR, JN.DEV_BUDGET, JN.WA_HOST, JN.WA_MEDIA, JN.WINDOW, JN.EOL_LO, JN.EOL_HI].map (fun o => w32 (jn st + o))) false),
      (0x0F + i, ro (wordsAt (jn st + JN.MEDIUM_ID) 4 4) false) ]))

/-- 0x2400, availability and hold-up (R636, R641). -/
def State.obj2400 (s : State) : List (Nat × Obj) :=
  let q := partner s.lead
  let others := if s.present q && !s.declared.contains q then [q] else []
  let scrub := fun o lo => ({ rw [w32 (lpd s.lead + lo)] true with
    copies := others.map (fun d => [w32 (lpd d + lo)]) ++ s.concs.map (fun d => [w32 (sm d + o)]) } : Obj)
  [ (1, { rw [w32 (fo s.lead + BRS.FO_CTL)] true with
      copies := others.map (fun d => [w32 (fo d + BRS.FO_CTL)]) ++ s.concs.map (fun d => [({ key := br d + BR.FO_CTL, hi := 3 } : RegPart)]) }),
    (2, scrub SM.SCRUB_CTL LPD.SCRUB_CTL),
    (3, scrub SM.SCRUB_PERIOD LPD.SCRUB_PERIOD),
    (4, ro ([w32 (upb s.lead + UP.UP_STATUS), w32 (fo s.lead + BRS.FO_STAT)] ++ (List.range 4).map (fun d => u8 (br d + BR.FO_STAT)) ++
      [w32 (fo s.lead + BRS.FO_DURATION)]) true) ] ++
  numbered 5 (huShadowed.map (fun o => rw [w32 (hu s.lead + o)] true)) ++
  [ (0x12, wo [u8 (hu s.lead + HU.HU_COMMIT)]),
    (0x13, wo [u8 (hu s.lead + HU.HU_CMD)]),
    (0x14, ro ([HU.HU_STAT, HU.V_NOW, HU.CAP, HU.T_HOLD, HU.T_AVAIL, HU.TEST_AGE].map (fun o => w32 (hu s.lead + o))) true) ]

/-- CARRIER as the factory has it (R9, R642): the steward of the die's first module, SB for the second half of the dies. -/
def State.carrierFactory (s : State) : List Byte :=
  match s.part with
  | .azl128 => zeros 64
  | _ => (List.range 64).map (fun i =>
      BitVec.ofNat 8 ((List.range 8).foldl (fun a b => a + 2 ^ b * ((resetWord (qk ((8 * i + b) / 128) ((8 * i + b) % 128) + BS.Q_CFG)).toNat / 2 ^ 25 % 2)) 0))

/-- 0x2500, uplink and shedding (R642). -/
def State.obj2500 (s : State) : List (Nat × Obj) :=
  [ (1, ownObj 3 64 true false s.carrierFactory),
    (2, s.both (fun st => [{ key := epb st + EP.EP_CTL, hi := 0 }]) false),
    (3, s.both (fun st => [w32 (epb st + EP.UP_BUDGET)]) false),
    (4, s.both (fun st => [w32 (epb st + EP.SHED_PARAM)]) false),
    (5, s.both (fun st => wordsAt (epb st + EP.SHED_CFG) 4 512) true),
    (6, ro (wordsAt (upb s.lead + UP.SHED_MAP) 4 16) true),
    (7, ro [w32 (epb 4 + EP.DEMAND), w32 (epb 4 + EP.DEMAND_PLAN), w32 (epb 5 + EP.DEMAND), w32 (epb 5 + EP.DEMAND_PLAN)] false) ]

/-! ## Repeated records (R643-R646) -/

def objStream (x : Nat) : List (Nat × Obj) :=
  numbered 1 ([SI.CTL, SI.BIND, SI.GEOM, SI.GATE, SI.RO_LAT].map (fun o => rw [w32 (si x + o)] true)) ++
  [ (6, wo [u8 (si x + SI.COMMIT)]), (7, ro [w32 (si x + SI.STATE)] true), (8, ro [w32 (si x + SI.FRAME)] true),
    (9, ro (wordsAt (si x + SI.FS_TIME0) 4 3) true) ]

def objPort (p : Nat) : List (Nat × Obj) :=
  numbered 1 ([LP.CTL, LP.TX_CFG, LP.RETRY, LP.EQ_CTL, LP.CDR_CTL, LP.SLOT_MAP, LP.LOCK_CFG, LP.DLY_CTL, LP.DLY_ASYM, LP.BUS_CTL].map (fun o =>
    rw [w32 (lp p + o)] true)) ++
  [ (0x0B, rw [w32 (lk p + TB.LEAD)] true), (0x0C, rw [w32 (lk p + TB.MIN_MARGIN)] true),
    (0x0D, wo [u8 (lp p + LP.COMMIT)]), (0x0E, wo [u8 (lp p + LP.CMD)]),
    (0x0F, ro [w32 (lp p + LP.STATE)] true), (0x10, ro [w32 (lp p + LP.DLY_FILT)] true), (0x11, ro (wordsAt (lp p + LP.CAPS) 4 4) false) ]

/-- PERIOD sets the scheduler's PERIOD and SI.PERIOD (R643). -/
def objSched (x : Nat) : List (Nat × Obj) :=
  [ (1, rw [w32 (sk x + TB.S_CTL)] true),
    (2, { rw [w32 (sk x + TB.PERIOD)] true with copies := [[w32 (si x + SI.PERIOD)]] }),
    (3, rw [w32 (sk x + TB.PHASE)] true),
    (4, { rw [w32 (sk x + TB.EXP_LEN)] true with m := true }) ] ++
  numbered 5 ([TB.TRIG_LAT, TB.TRIG_LEN, TB.STROBE_OFS, TB.STROBE_LEN, TB.MIN_GAP].map (fun o => rw [w32 (sk x + o)] true)) ++
  [ (10, ro [w32 (sk x + TB.S_STAT)] true) ]

/-- The bank of the defect map that is active (R267, R645). -/
def State.mapActive (s : State) (n : Nat) : Nat := s.afld (pl n + PL.DPC_CTL) 2 2
def mapBase (n bank : Nat) : Nat := pl n + (if bank = 0 then PL.MAP0_E else PL.MAP1_E)

def State.objPipe (s : State) (n : Nat) : List (Nat × Obj) :=
  let k := pl n
  numbered 1 ([PL.RS_CTL, PL.CFA_MAP0, PL.CFA_MAP1, PL.DPC_CTL, PL.DPC_ABS, PL.DPC_REL, PL.SAT_LVL, PL.TAP_T0, PL.TAP_T1, PL.TAP_T2, PL.TAP_TI,
    PL.STATS_CTL, PL.HIST_ORG, PL.HIST_SIZE, PL.ZONE_ORG, PL.ZONE_SIZE].map (fun o => rw [w32 (k + o)] true)) ++
  [ (0x11, rw (wordsAt (k + PL.BLK) 4 16) true),
    (0x12, rw ((List.range 16).flatMap (fun i => [w32 (k + PL.KNEE_X + 16 * i), w32 (k + PL.KNEE_Y + 16 * i), w32 (k + PL.KNEE_M + 16 * i)])) true),
    (0x13, rw ((List.range 4).flatMap (fun r => (List.range 5).map (fun c => u16 (k + PL.MTX + 0x20 * r + 4 * c)))) true),
    (0x14, rwDom (wordsAt (mapBase n (s.mapActive n)) 4 2048)),
    (0x15, rw [w32 (k + PL.PA_CTL)] true), (0x16, rw [w32 (k + PL.PA_TAG)] false),
    (0x17, wo [u8 (k + PL.PA_CMD)]), (0x18, wo [u8 (k + PL.COMMIT)]),
    (0x19, ro [w32 (k + PL.PA_STAT)] false), (0x1A, ro [w32 (k + PL.RS_STAT)] false), (0x1B, ro [w32 (k + PL.RS_CFG_STAT)] false) ]

def objFin (n : Nat) : List (Nat × Obj) :=
  let k := pl n
  numbered 1 ([PL.FIN_CTL, PL.WB_R, PL.WB_G, PL.WB_B, PL.IR_GAIN].map (fun o => rw [w32 (k + o)] true)) ++
  [ (6, rw ((List.range 3).flatMap (fun r => (List.range 3).map (fun c => u16 (k + PL.CCM + 0x10 * r + 4 * c)))) true),
    (7, rw ((List.range 257).map (fun i => u16 (k + PL.CURVE + 4 * i))) true),
    (8, rw [u8 (k + PL.FIN_REQ)] false), (9, ro [w32 (k + PL.FIN_STAT)] false), (10, ro [w32 (k + PL.FIN_CFG_STAT)] false) ] ++
  (List.range 4).flatMap (fun f =>
    let o := k + 0x100 * f
    numbered (0x10 + 8 * f) ([PL.OUT_CTL, PL.CROP_ORG, PL.CROP_SIZE, PL.OUT_SIZE].map (fun r => rw [w32 (o + r)] true)) ++
    [ (0x14 + 8 * f, rw (wordsAt (k + PL.KH + 0x400 * f) 4 128) true), (0x15 + 8 * f, rw (wordsAt (k + PL.KV + 0x400 * f) 4 128) true),
      (0x16 + 8 * f, ro [w32 (o + PL.STEP_X), w32 (o + PL.STEP_Y)] false) ])

def objAxis (a : Nat) : List (Nat × Obj) :=
  numbered 1 ([AX.AX_CTL, AX.FILT, AX.SSI_CFG, AX.IDX_PERIOD, AX.IDX_GATE, AX.FAULT_CFG, AX.OBS_GAIN, AX.WIN_LOWER, AX.WIN_UPPER, AX.REC_CFG,
    AX.REF_VAL].map (fun o => rw [w32 (ax a + o)] true)) ++
  [ (0x0C, wo [u8 (ax a + AX.AX_COMMIT)]), (0x0D, { wo [u8 (ax a + AX.AX_CMD)] with m := true }) ] ++
  numbered 0x0E ([AX.AX_STAT, AX.COUNT, AX.POS, AX.SPEED, AX.ACCEL].map (fun o => ro [w32 (ax a + o)] true))

def objEvent (d : Nat) : List (Nat × Obj) :=
  let k := ef d
  [ (1, rwDom (wordsAt (k + EF.EN_LO) 4 1536)),
    (2, rwDom ((List.range 64).flatMap (fun n => wordsAt (k + EF.CH_CFG + 0x10 * n) 4 2))),
    (3, rwDom ((List.range 16).flatMap (fun n => wordsAt (k + EF.LC_CTL + 0x20 * n) 4 5))),
    (4, rwDom ((List.range 8).flatMap (fun n => wordsAt (k + EF.TW_OPEN0 + 0x20 * n) 4 8))),
    (5, rwDom (wordsAt (k + EF.ISEL) 4 128)),
    (6, rwDom (wordsAt (k + EF.PSEL) 4 128)),
    (7, rwDom (wordsAt (k + EF.IRQO_SEL) 4 32)),
    (8, rwDom ((List.range 4).flatMap (fun n => wordsAt (k + EF.PIN_CFG + 0x20 * n) 4 3))),
    (9, rw [w32 (k + EF.EF_CTL)] true),
    (10, wo [u8 (k + EF.EF_COMMIT)]),
    (11, ro [w32 (k + EF.EF_CSTAT)] false),
    (12, ro [w32 (k + EF.LEVELS)] true) ]

/-! ## Communication objects (R628); sub-indices and default COB-IDs are those of CiA 301 (PRESUMED) -/

/-- The name of the part (R628). -/
def State.partName (s : State) : List Byte :=
  (match s.part with | .azl512 => [0x35#8, 0x31#8, 0x32#8] | .azl256 => [0x32#8, 0x35#8, 0x36#8] | .azl128 => [0x31#8, 0x32#8, 0x38#8]) |>
    (fun d => [0x41#8, 0x5A#8, 0x4C#8] ++ d)

/-- Whether 0x1001 reads 1: UP_STATUS.MODE is not NORMAL, or a FAULT health record is younger than 10 s. -/
def State.canError (s : State) : Bool :=
  s.fld (upb s.lead + UP.UP_STATUS) 2 0 != 0 || (match s.dict.faultAt with | some t => decide (s.cycle < t + 10000000000) | none => false)

def varObj (sub : Nat) (o : Obj) : Found := if sub = 0 then .obj o else .noSub

/-- The default COB-ID of a PDO of a port: RPDO or TPDO `i`; TPDOs above 4 are off (bit 31). -/
def State.pdoCob (s : State) (port i : Nat) (tx : Bool) : Nat :=
  (if tx then 0x180 else 0x200) + 0x100 * (i % 4) + (s.canS (4 + port)).node + (if 4 ≤ i then 2 ^ 31 else 0)

def State.commObj (s : State) (port idx sub : Nat) : Found :=
  let u := fun (acc n d : Nat) => ownObj acc n false false (leBytes d n)
  if idx = 0x1000 then varObj sub { acc := 0, size := 4, src := .val (fun _ => zeros 4) }
  else if idx = 0x1001 then varObj sub { acc := 1, size := 1, src := .val (fun s => leBytes (b2n s.canError) 1) }
  else if idx = 0x1005 then varObj sub (u 3 4 0x80)
  else if idx = 0x1008 then varObj sub { acc := 0, size := 6, src := .val (fun s => s.partName) }
  else if idx = 0x1009 ∨ idx = 0x100A then varObj sub { acc := 0, size := 32, src := .val (fun _ => leBytes (Config.partConst idx) 32) }
  else if idx = 0x1014 then varObj sub (u 3 4 (0x80 + (s.canS (4 + port)).node))
  else if idx = 0x1015 then varObj sub (u 3 2 0)
  else if idx = 0x1017 then varObj sub (ownObj 3 2 true false (leBytes 1000 2))
  else if idx = 0x1018 then recSub [
    (1, { acc := 0, size := 4, src := .val (fun _ => leBytes (Config.partConst 2) 4) }),
    (2, { acc := 0, size := 4, src := .val (fun s => leBytes s.deviceId 4) }),
    (3, { acc := 0, size := 4, src := .val (fun _ => leBytes (Config.partConst 1) 4) }),
    (4, { acc := 0, size := 4, src := .val (fun _ => leBytes (Config.partConst 0 / 2 * 2) 4) })] sub
  else if 0x1400 ≤ idx ∧ idx < 0x1404 then recSub [(1, u 3 4 (s.pdoCob port (idx - 0x1400) false)), (2, u 3 1 0xFE)] sub
  else if 0x1800 ≤ idx ∧ idx < 0x1808 then
    recSub [(1, u 3 4 (s.pdoCob port (idx - 0x1800) true)), (2, u 3 1 0xFE), (3, u 3 2 0), (5, u 3 2 0)] sub
  else if (0x1600 ≤ idx ∧ idx < 0x1604) ∨ (0x1A00 ≤ idx ∧ idx < 0x1A08) then
    (if sub = 0 then .obj (u 3 1 0) else if sub ≤ 32 then .obj (u 3 4 0) else .noSub)
  else .noIndex

/-! ## Look-up (R636) -/

/-- The object at an index and sub-index; `port` is the CAN port whose communication objects are meant. -/
def State.findObj (s : State) (port idx sub : Nat) : Found :=
  if 0x1000 ≤ idx ∧ idx < 0x2000 then s.commObj port idx sub
  else if idx = 0x2000 then recSub s.obj2000 sub
  else if idx = 0x2100 then recSub obj2100 sub
  else if idx = 0x2200 then recSub s.obj2200 sub
  else if idx = 0x2300 then recSub s.obj2300 sub
  else if idx = 0x2400 then recSub s.obj2400 sub
  else if idx = 0x2500 then recSub s.obj2500 sub
  else if 0x3000 ≤ idx ∧ idx < 0x3200 ∧ s.streamOk (idx - 0x3000) = true then recSub (objStream (idx - 0x3000)) sub
  else if 0x3200 ≤ idx ∧ idx < 0x3280 ∧ s.portOk (idx - 0x3200) = true then recSub (objPort (idx - 0x3200)) sub
  else if 0x3400 ≤ idx ∧ idx < 0x3600 ∧ s.streamOk (idx - 0x3400) = true then recSub (s.objPipe (idx - 0x3400)) sub
  else if 0x3600 ≤ idx ∧ idx < 0x3800 ∧ s.streamOk (idx - 0x3600) = true then recSub (objFin (idx - 0x3600)) sub
  else if 0x3800 ≤ idx ∧ idx < 0x3810 ∧ s.present ((idx - 0x3800) / 4) = true then recSub (objAxis (idx - 0x3800)) sub
  else if 0x3900 ≤ idx ∧ idx < 0x3904 ∧ s.present (idx - 0x3900) = true then recSub (objEvent (idx - 0x3900)) sub
  else if 0x4000 ≤ idx ∧ idx < 0x4200 ∧ s.streamOk (idx - 0x4000) = true then recSub (objSched (idx - 0x4000)) sub
  else .noIndex

/-- Every persistent object of the dies present, as index and sub-index (R647). The communication object 0x1017 is held per port. -/
def State.persistent (s : State) : List (Nat × Nat) :=
  let ps := fun (l : List (Nat × Obj)) => (l.filter (fun e => e.2.p)).map (fun e => e.1)
  let put := fun (idx : Nat) (l : List Nat) => l.map (fun i => (idx, i))
  let sts := (List.range 512).filter (fun x => s.streamOk x)
  [(0x1017, 0)] ++ put 0x2100 (ps obj2100) ++ put 0x2200 (ps s.obj2200) ++ put 0x2300 (ps s.obj2300) ++ put 0x2400 (ps s.obj2400) ++
    put 0x2500 (ps s.obj2500) ++
    sts.flatMap (fun x => put (0x3000 + x) (ps (objStream x))) ++
    ((List.range 128).filter (fun p => s.portOk p)).flatMap (fun p => put (0x3200 + p) (ps (objPort p))) ++
    sts.flatMap (fun n => put (0x3400 + n) (ps (s.objPipe n)) ++ put (0x3600 + n) (ps (objFin n))) ++
    (s.concs.flatMap (fun d => (List.range 4).map (fun i => 4 * d + i))).flatMap (fun a => put (0x3800 + a) (ps (objAxis a))) ++
    s.concs.flatMap (fun d => put (0x3900 + d) (ps (objEvent d))) ++
    sts.flatMap (fun x => put (0x4000 + x) (ps (objSched x)))

end Sys2Proof.Machine
end

