-- ==== Sys2Proof/Machine/Dict.lean ====
section
/-! DEFINITION. The dictionary engine (R611-R624, R631, R645-R651): reads and writes of objects, set commits, and profiles. -/
namespace Sys2Proof.Machine
set_option Elab.async false

/-- The requester number of steward hardware (R439). -/
def dictReq : Nat := 0x20

/-- An abort without detail (R616). -/
def abortRes (a : Nat) : OpRes := { abort := a }

/-! ## Shadows (R618, R620) -/

/-- The block whose commit a register's shadow waits for (R618): kind and instance, as in `State.undirty`. -/
def State.shadowOf (s : State) (key : Nat) : Option (Nat × Nat) :=
  let die := key / 0x100000000
  let o := key % 0x100000000
  if die < 4 then
    if 0x10000000 ≤ o ∧ o < 0x10200000 then
      let p := die * 32 + (o - 0x10000000) / 0x10000
      if (lpShadowed p).contains key then some (1, p) else none
    else if 0x10200000 ≤ o ∧ o < 0x10400000 then
      let x := die * 128 + (o - 0x10200000) / 0x4000
      if (siShadowed x).contains key then some (2, x) else none
    else if 0x10400000 ≤ o ∧ o < 0x10C00000 then
      let n := die * 128 + (o - 0x10400000) / 0x10000
      if plKey n key then some (3, n) else none
    else if 0x11100000 ≤ o ∧ o < 0x11200000 then (if efShadowed (o - 0x11100000) then some (5, die) else none)
    else if 0x11200000 ≤ o ∧ o < 0x11240000 then
      let a := die * 4 + (o - 0x11200000) / 0x10000
      if (axShadowed a).contains key then some (4, a) else none
    else if 0x11420000 ≤ o ∧ o < 0x11422000 then (if schOffsets.contains (0x20000 + o % 0x40) then some (9, 0) else none)
    else none
  else if key = s.ltb + TB.SET0 ∨ key = s.ltb + TB.SET1 ∨ key = s.ltb + TB.SET2 then some (0, 0)
  else if key = s.ltb + TB.SLEW_NS ∨ key = s.ltb + TB.SLEW_SUB then some (0, 1)
  else if key = s.ltb + TB.RATE_SET then some (0, 2)
  else if 0x43000 ≤ o ∧ o < 0x43200 ∨ 0x410E0 ≤ o ∧ o < 0x410EC then some (9, 0)
  else if 0x210000 ≤ o ∧ o < 0x220000 ∧ huShadowed.contains (o - 0x210000) = true then some (8, 0)
  else none

/-- The owner of semaphore 63 of a die. -/
def State.sem63 (s : State) (die : Nat) : Nat := s.fld (semKey die 63) 7 0

/-- A block's shadow is about to be written: it joins the next set commit, and semaphore 63 of its die is taken (R618, R620). -/
def State.markDirty (s : State) (e : Nat × Nat) (die : Nat) : State :=
  let s1 : State := if s.dict.dirty.contains e then s else { s with dict := { s.dict with dirty := e :: s.dict.dirty } }
  if s1.sem63 die = dictReq then s1 else s1.run (execSemAcq die 63 dictReq 0)

/-! ## Fields (R614, R615) -/

/-- Ranges of fields that the block itself checks only at its commit, or answers in a way of its own. -/
def fieldRange (key v : Nat) : Bool :=
  let o := key % 0x100000000
  if 4 ≤ key / 0x100000000 then true
  else if 0x11440000 ≤ o ∧ o < 0x11440100 then
    (if o % 8 = 0 then inR v 31 0 20000 1000000 else inR v 31 0 5000 100000)
  else if 0x11420000 ≤ o ∧ o < 0x11422000 then
    let r := 0x20000 + o % 0x40
    if r = TB.PERIOD then inR v 31 0 1000000 4000000000
    else if r = TB.TRIG_LAT then inR v 31 0 0 1000000
    else if r = TB.TRIG_LEN then inR v 31 0 1 1000000
    else if r = TB.STROBE_OFS then decide ((signed 32 v).natAbs ≤ 1000000000)
    else if r = TB.STROBE_LEN then inR v 31 0 1 1000000000
    else if r = TB.MIN_GAP then inR v 31 0 0 4000000000
    else true
  else true

/-- The word that a field value makes of a register. -/
def State.merged (s : State) (p : RegPart) (v : Nat) : Nat :=
  match lookupReg p.key with
  | some (r, _, _) => if r.wo then v * 2 ^ p.lo else (wput (s.rd p.key) p.hi p.lo v).toNat
  | none => 0

/-- Whether a field takes a value (R615): it fits, sets no reserved bit and lies in its range. HIER_CTL holds a field that only the device
writes; a write may carry any value there. A key that is no register is a reserved word. -/
def State.partOk (s : State) (p : RegPart) (v : Nat) : Bool :=
  match lookupReg p.key with
  | none => v == 0
  | some (r, _, _) =>
    decide (v < 2 ^ (p.hi + 1 - p.lo)) && ((v * 2 ^ p.lo) &&& (0xFFFFFFFF - r.wr) == 0 || p.key == s.ltb + TB.HIER_CTL) &&
      inRange p.key (s.merged p v) && fieldRange p.key v

/-- The values of fields in the bytes of an object, lowest first. -/
def partVals : List RegPart → List Byte → List (RegPart × Nat)
  | [], _ => []
  | p :: ps, b => (p, leNat (b.take p.width)) :: partVals ps (b.drop p.width)

/-- A register field written by the engine (R614): DPC_CTL.MAP_BANK is not written through the dictionary (R645). -/
def State.putPart (s : State) (p : RegPart) (v : Nat) : State :=
  match lookupReg p.key with
  | none => s
  | some _ =>
    let w := s.merged p v
    let o := p.key % 0x100000000
    let w := if p.key / 0x100000000 < 4 ∧ 0x10400000 ≤ o ∧ o < 0x10C00000 ∧ o % 0x10000 = PL.DPC_CTL then
      (wput (wordOf w) 2 2 (s.fld p.key 2 2)).toNat else w
    let s1 := match s.shadowOf p.key with
      | some e => s.markDirty e (p.key / 0x100000000)
      | none => s
    s1.writeReg p.key dictReq w

/-- Those fields written that meet bytes `off` to `off + len`, in ascending order. -/
def State.putFields (s : State) (off len : Nat) : Nat → List (RegPart × Nat) → State
  | _, [] => s
  | at_, (p, v) :: l =>
    (if off < at_ + p.width ∧ at_ < off + len then s.putPart p v else s).putFields off len (at_ + p.width) l

/-- The bytes of register fields as they stand, without the effects of a read. -/
def State.partBytes (s : State) (l : List RegPart) : List Byte :=
  (l.map (fun p => leBytes (wbits (s.view p.key dictReq) p.hi p.lo) p.width)).flatten

/-- Register fields read in ascending order, each by a read of its register (R614). -/
def State.readFields (s : State) : List RegPart → State × List Byte
  | [] => (s, [])
  | p :: l =>
    let (s1, w) := s.readReg p.key dictReq
    let (s2, b) := s1.readFields l
    (s2, leBytes (wbits w p.hi p.lo) p.width ++ b)

/-! ## Reading -/

/-- Which copy of the communication objects an index means: each CAN port has its own (log entry 82). -/
def commPort (idx port : Nat) : Nat := if 0x1000 ≤ idx ∧ idx < 0x2000 then port else 0

/-- An object's value. CARRIER of the AZL128 reads all zero (R642); POS, SPEED and ACCEL read COUNT first (R614). -/
def State.readObj (s : State) (port idx sub : Nat) (o : Obj) : State × List Byte :=
  match o.src with
  | .val f => (s, f s)
  | .own d =>
    if idx = 0x2500 ∧ s.part = .azl128 then (s, zeros 64) else (s, s.objOf (commPort idx port) idx sub d)
  | .regs l =>
    let s1 := if 0x3800 ≤ idx ∧ idx < 0x3810 ∧ 0x10 ≤ sub ∧ sub ≤ 0x12 then
      (s.readReg (ax (idx - 0x3800) + AX.COUNT) dictReq).1 else s
    s1.readFields l

/-- READ (R614, R623). -/
def State.dictRead (s : State) (port idx sub len off : Nat) : State × OpRes :=
  match s.findObj port idx sub with
  | .noIndex => (s, abortRes 0x06020000)
  | .noSub => (s, abortRes 0x06090011)
  | .obj o =>
    if o.acc = 2 then (s, abortRes 0x06010001)
    else if o.dom = false ∧ off ≠ 0 then (s, abortRes 0x08000000)
    else
      let (s1, b) := s.readObj port idx sub o
      (s1, { data := slice b off len })

/-! ## Set commits (R618-R620) -/

def State.isDirty (s : State) (k i : Nat) : Bool := s.dict.dirty.contains (k, i)
def State.dirtyOf (s : State) (k : Nat) : List Nat := (s.dict.dirty.filter (fun e => e.1 == k)).map (fun e => e.2)

/-- A commit refused by a block (R616): DETAIL is CLASS 0x01 with the block's status. -/
def commitRes (status block : Nat) : OpRes := { abort := 0x08000020, detail := 0x100 + status % 256, block := block }

/-- The registers of a context and of a pipeline as they would stand after the set. -/
def State.trialSi (s : State) (x o : Nat) : Nat := if s.isDirty 2 x then s.rdN (si x + o) else s.actN (si x + o)
def State.trialPl (s : State) (n o : Nat) : Nat := if s.isDirty 3 n then s.rdN (pl n + o) else s.plCommitted n o
def State.trialPrio (s : State) (x : Nat) : Nat :=
  if s.isDirty 9 0 then s.fld (sk x + TB.S_CTL) 2 1 else s.afld (sk x + TB.S_CTL) 2 1

/-- Whether the TRUMP streams of the set exceed 100,000 MB/s, 100 bytes per ns (R431). -/
def State.trumpOver (s : State) : Bool :=
  let on := (List.range 512).filter (fun x => s.streamOk x && (s.trialSi x SI.CTL).testBit 0 && (s.trialSi x SI.BIND).testBit 31 &&
    s.trialPrio x == 0)
  let d := fun x =>
    let n := x / 128 * 128 + nbits (s.trialSi x SI.BIND) 6 0
    let t := fun i => let w := s.trialPl n (PL.TAP_T0 + 4 * i); if w.testBit 0 then tapBytes2 (nbits w 2 1) else 0
    (nbits (s.trialSi x SI.GEOM) 13 0 * nbits (s.trialSi x SI.GEOM) 29 16 * (4 * (t 0 + t 1 + t 2) + t 3),
      8 * Nat.max 1 (s.trialSi x SI.PERIOD))
  ratioAbove 100 (on.map d)

/-- The first breach of the scheduler's part of a set with activation time `act` (R235, R242, R244). -/
def State.schBreach (s : State) (act : Nat) : Option Nat :=
  match s.schRefusal act with
  | some c => some c
  | none => let c := (s.schVerdict (s.setNow act)).1; if c = 0 then none else some c

/-- The first breach of one block of the set (kinds as in `State.undirty`), every other block taken as it would stand (R618). The statuses
of LP and HU have no number in the spec: they are free (log entry 14). -/
def State.blockBreach (s : State) (act : Nat) (e : Nat × Nat) : Option OpRes :=
  let n := e.2
  match e.1 with
  | 0 => (s.tbRefusal s.lead (2 ^ n)).map (fun c => commitRes c 9)
  | 1 => if s.lpRefused n then some (commitRes (s.freeNat 0) 1) else none
  | 2 =>
    if siRange (s.trialSi n) then some (commitRes 3 2)
    else if bindRefused (n / 128) s.trialSi then some (commitRes 1 2)
    else if s.rateRefused (n / 128) s.trialSi s.trialPl then some (commitRes 2 2)
    else if s.trumpOver then some (dictErr 0x08000020 1)
    else none
  | 3 =>
    let g := fun o => s.rdN (pl n + o)
    if rawBreach g ≠ 0 then some (commitRes (rawBreach g) 3)
    else if finBreach g ≠ 0 then some (commitRes (finBreach g) 3)
    else if s.rateRefused (n / 128) s.trialSi s.trialPl then some (commitRes 4 3)
    else if s.trumpOver then some (dictErr 0x08000020 1)
    else none
  | 4 => if s.axRefuse n then some (commitRes 1 7) else none
  | 5 =>
    let g := fun k => s.rdN k
    if (loopAt g n).isSome then some (commitRes 1 6)
    else if (List.range 64).any (fun c => nbits (g (chK n c + EF.CH_CFG)) 30 29 == 3) || (List.range 16).any (cellBad g n) then
      some (commitRes 2 6)
    else if (List.range 8).any (winBad g n) then some (commitRes 3 6)
    else none
  | 8 => if s.huRefused s.lead then some (commitRes (s.freeNat 0) 0x0F) else none
  | 9 => match s.schBreach act with
    | some c => some (commitRes c 9)
    | none => if s.trumpOver then some (dictErr 0x08000020 1) else none
  | _ => none

/-- What the block of the first breach shows of a refused set: CFG_STAT of the set's contexts of its die (R195), the statuses of the pipeline
(R292, R324), SCHED_CSTAT (R235). -/
def State.noteBreach (s : State) (act : Nat) (l : List (Nat × Nat)) (e : Nat × Nat) : State :=
  let n := e.2
  if e.1 = 2 then
    let c := if siRange (s.trialSi n) then 3 else if bindRefused (n / 128) s.trialSi then 1
      else b2n (s.rateRefused (n / 128) s.trialSi s.trialPl) * 2
    if c = 0 then s else s.siRefuse ((l.filter (fun x => x.1 == 2 && x.2 / 128 == n / 128)).map (fun x => x.2)) dictReq c
  else if e.1 = 3 then
    let g := fun o => s.rdN (pl n + o)
    s.plRefuse n dictReq (rawBreach g, if finBreach g ≠ 0 then finBreach g else b2n (s.rateRefused (n / 128) s.trialSi s.trialPl) * 4)
  else if e.1 = 9 then
    match s.schRefusal act with
    | some c => s.schLast c
    | none => if (s.schVerdict (s.setNow act)).1 = 0 then s else s.schReport (s.schVerdict (s.setNow act))
  else s

/-- The block of a set at which its checks find the first breach, and the answer (R618). -/
def State.firstBreach (s : State) (act : Nat) (l : List (Nat × Nat)) : Option ((Nat × Nat) × OpRes) :=
  l.findSome? (fun e => (s.blockBreach act e).map (fun r => (e, r)))

/-- The carrier that object 0x2500 names for a stream. -/
def State.wantCarrier (s : State) (x : Nat) : Nat :=
  4 + nbits (leAt (s.objOf 0 0x2500 1 s.carrierFactory) (x / 8) 1) (x % 8) (x % 8)

/-- REDUCED after a stream has moved while the partner is up (R580, R586, R590): over where every stream is with its carrier of object 0x2500 and
no stop is planned; entered where some is not and the partner carries none. -/
def State.reducedJudge (s : State) : State :=
  let k := fo s.lead + BRS.FO_STAT
  let home := ((List.range 512).filter (fun x => s.streamOk x)).all (fun x => s.streamCarrier x == s.wantCarrier x)
  if s.bit k 0 = false ∨ s.bit k 2 = true then s
  else if home then (s.clrBit k 3).upAll
  else if s.carriedStreams (partner s.lead) = [] then (s.setBit k 3).upAll
  else s

/-- CARRIER_MOVE (R424): stream `stream` moves to steward `st` without a fence. -/
def execCarrierMove (stream st : Nat) (s : State) : Res :=
  .next (if s.stOk st && s.streamOk stream then
    ((s.moveQueue (stream / 128) (s.streamQueue stream) st).1).reducedJudge else s)

/-- One block committed after the checks have passed; what the block itself still refuses (R619). -/
def State.commitBlock (s : State) (act : Nat) (e : Nat × Nat) : State × Option OpRes :=
  let n := e.2
  match e.1 with
  | 0 => (((if n = 0 then s.run (execTbSet s.lead dictReq 1) else if n = 1 then s.run (execTbSlew s.lead dictReq 2)
      else s.run (execTbRate s.lead dictReq 4))).undirty 0 n, none)
  | 1 => (s.run (execLpCommit n dictReq 1), none)
  | 2 => (s.siCommitAll [n], none)
  | 3 =>
    if s.bit (pl n + PL.PA_CTL) 0 = true ∧ (s.boundStream n).isSome = true ∧ 4 ≤ (s.pipe n).sets.length then
      (s.wrFld (pl n + PL.PA_STAT) 9 8 1, some (commitRes 1 3))
    else (s.plTake n, none)
  | 4 => (s.run (execAxCommit n dictReq 1), none)
  | 5 =>
    if (s.efS n).snap.isSome then (s.run (execEfCommit n dictReq 1), some (commitRes 4 6))
    else ((s.run (execEfCommit n dictReq 1)).run (execEfCheckDone n), none)
  | 6 =>
    let sts := (List.range 512).filter (fun x => s.streamOk x && s.present 5)
    (((forEach sts s (fun t x => (t.moveQueue (x / 128) (t.streamQueue x) (t.wantCarrier x)).1)).reducedJudge).undirty 6 0, none)
  | 8 => (s.huCommit s.lead, none)
  | 9 =>
    let s1 := s.schTake act
    if s1.sched.checking.isSome then (s1.run execSchedCheckDone, none) else (s1, (s.schBreach act).map (fun c => commitRes c 9))
  | _ => (s, none)

/-- Blocks committed in order until one refuses. -/
def State.commitBlocks (s : State) (act : Nat) : List (Nat × Nat) → State × Option OpRes
  | [] => (s, none)
  | e :: l =>
    match s.commitBlock act e with
    | (s1, none) => s1.commitBlocks act l
    | (s1, some r) => (s1, some r)

/-- The blocks of a set in the order of R618: TB, LP, SI, PL, AX, EF, endpoint, HU, and the scheduler last. -/
def State.inOrder (s : State) : List (Nat × Nat) :=
  (List.range 10).flatMap (fun k => s.dict.dirty.reverse.filter (fun e => e.1 == k))

def State.active (s : State) : Nat := leNat (s.objOf 0 0x2100 1 [4#8])

/-- PROF_STATUS (7) or APPLY_STATUS (9) set (R638). -/
def State.dictStat (s : State) (sub st prof detail : Nat) : State :=
  s.setObj 0 0x2100 sub (leBytes (st + prof * 256 + detail * 65536) 4)

/-- The semaphores of R620 released. -/
def State.dropSems (s : State) : State :=
  forEach s.dies s (fun s d => if s.sem63 d = dictReq then s.run (execSemRel d 63 dictReq) else s)

/-- A set commit of the blocks of which `p` holds (R618-R620): REFUSED with the first breach, PARTIAL where a block refuses after the checks,
or DONE with the DETAIL `note`. -/
def State.applySet (s : State) (act prof note : Nat) (p : Nat × Nat → Bool) : State × OpRes :=
  let l := s.inOrder.filter p
  match s.firstBreach act l with
  | some (e, r) => ((((s.noteBreach act l e).dictStat 9 4 prof r.detail).skipFree 1).dropSems, r)
  | none =>
    match s.commitBlocks act l with
    | (s1, none) => ((s1.dictStat 9 3 prof note).dropSems, {})
    | (s1, some _) =>
      (((s1.dictStat 9 5 prof 0x104).logErr s1.lead 1 4 0x13 dictReq 0 0).dropSems, dictErr 0x08000020 4)

/-- APPLY (R618): every block, with the ACT of object 0x2200. -/
def State.apply (s : State) : State × OpRes := s.applySet (s.rdDt (s.ltb + TB.SCHED_ACT0)) s.active 0 (fun _ => true)

/-! ## Profiles (R647-R651) -/

/-- The entries of a profile slot (R668). -/
def profEntries : Nat → List Byte → List ((Nat × Nat) × List Byte)
  | 0, _ => []
  | n + 1, b =>
    if b.length < 8 then []
    else
      let len := leAt b 4 4
      ((leAt b 0 2, leAt b 2 1), slice b 8 len) :: profEntries n (b.drop (8 + roundUp len 4))

/-- The entries of the copy of profile `n` that is used. -/
def State.profile (s : State) (n : Nat) : List ((Nat × Nat) × List Byte) :=
  match s.profCopy n with
  | some st =>
    let len := s.flashNat st (profAddr n + 4) 4
    profEntries len (s.flashBytes st (profAddr n + 0x20) len)
  | none => []

/-- The factory value of an object: what its registers reset to, or the value the tables state (log entry 8). -/
def factoryBytes (o : Obj) : List Byte :=
  match o.src with
  | .regs l => (l.map (fun p => leBytes (wbits (resetWord p.key) p.hi p.lo) p.width)).flatten
  | .own d => d
  | .val _ => []

/-- The value an object takes from profile `n` (R648): its own entry, that of profile 4, or its factory value. -/
def State.profValue (s : State) (n idx sub : Nat) (o : Obj) : List Byte :=
  match (s.profile n).lookup (idx, sub) with
  | some b => b
  | none => match (s.profile 4).lookup (idx, sub) with
    | some b => b
    | none => factoryBytes o

/-- The value written into an object (R614): register fields with their copies, the inactive bank of the defect map (R645), or the
dictionary's own storage. -/
def State.storeObj (s : State) (port idx sub : Nat) (o : Obj) (off : Nat) (data : List Byte) : State :=
  match o.src with
  | .val _ => s
  | .own _ =>
    let s1 := s.setObj (commPort idx port) idx sub data
    if idx = 0x2500 then { s1 with dict := { s1.dict with dirty := if s1.isDirty 6 0 then s1.dict.dirty else (6, 0) :: s1.dict.dirty } } else s1
  | .regs l =>
    if 0x3400 ≤ idx ∧ idx < 0x3600 ∧ sub = 0x14 then
      let n := idx - 0x3400
      let bank := 1 - s.mapActive n
      let ws := wordsAt (mapBase n bank) 4 2048
      let s1 := s.putFields off data.length 0 (partVals ws (patch (s.partBytes ws) off data))
      (s1.markDirty (3, n) (n / 128)).wrFld (pl n + PL.DPC_CTL) 2 2 bank
    else
      let full := patch (s.partBytes l) off data
      forEach (l :: o.copies) s (fun s l => s.putFields off data.length 0 (partVals l full))

/-- Whether a locked field holds another value than the object's bytes name (R651). -/
def State.lockSkipped (s : State) (o : Obj) (data : List Byte) : Bool :=
  match o.src with
  | .regs l => (partVals l data).any (fun e => match lookupReg e.1.key with
      | some (r, _, _) => ((s.merged e.1 e.2) ^^^ s.rdN e.1.key) &&& r.lock != 0
      | none => false)
  | _ => false

/-- Every persistent object written with its value of profile `n` (R650); whether a locked field was skipped. On the AZL128 a bit of 1 of
CARRIER is loaded as 0 (R642). -/
def State.loadProfile (s : State) (n : Nat) : State × Bool :=
  forEach s.persistent (s, false) (fun a e =>
    match s.findObj 0 e.1 e.2 with
    | .obj o =>
      let v := s.profValue n e.1 e.2 o
      let b := if e.1 = 0x2500 ∧ e.2 = 1 ∧ s.part = .azl128 then zeros 64 else padTo o.size (v.take o.size)
      let t := a.1.storeObj 0 e.1 e.2 o 0 b
      (t, a.2 || t.lockSkipped o b)
    | _ => a)

/-- Pipelines in SENSOR mode tagged with their next frame number, their pending sets discarded first with `flush` (R650). -/
def State.tagPipes (s : State) (flush : Bool) : State :=
  forEach ((s.dirtyOf 3).filter (fun n => s.bit (pl n + PL.PA_CTL) 0)) s (fun s n =>
    let s1 := if flush then s.run (execPaFlush n dictReq 1) else s
    match s1.boundStream n with
    | some x =>
      if s1.bit (pl n + PL.PA_CTL) 1 then s1.wrN (pl n + PL.PA_TAG) (s1.rdN (si x + SI.FRAME) + 1)
      else s1.wrN (pl n + PL.PA_TAG) ((s1.rdN (si x + SI.SENSOR_FN) + 1) % 65536)
    | none => s1)

/-- What a switch's set commit leaves in PROF_STATUS and ACTIVE. -/
def State.switchEnd (s : State) (n : Nat) (r : OpRes) (note : Nat) : State :=
  if r.abort = 0 then (s.setObj 0 0x2100 1 [BitVec.ofNat 8 n]).dictStat 7 3 n note
  else s.dictStat 7 (if r.detail = 0x104 ∧ r.block = 0x13 then 5 else 4) n r.detail

/-- A profile written and committed (R648, R650). -/
def State.switchNow (s : State) (n : Nat) (flush : Bool) (note : Nat) : State :=
  let (s1, skipped) := s.loadProfile n
  let (s2, r) := (s1.tagPipes flush).applySet 0 n (if skipped then 0x108 else 0) (fun _ => true)
  s2.switchEnd n r note

/-- Whether a switch or a store is under way (R650). -/
def State.profBusy (s : State) : Bool := s.dict.atSel.isSome || s.dict.store.isSome

/-- A waiting AT_TIME switch withdrawn (R650). -/
def State.cancelAt (s : State) : State :=
  match s.dict.atSel with
  | some (n, _) => ({ s.schDrop 10 with dict := { s.dict with atSel := none, dirty := [] } }.dropSems).dictStat 7 0 n 0
  | none => s

/-- SELECT (R650). A profile without a valid copy is refused with PROFILE_INVALID. -/
def State.selectProfile (s : State) (n : Nat) : State × OpRes :=
  let w := leNat (s.objOf 0 0x2100 4 [0#8])
  let at_ := leNat (s.objOf 0 0x2100 5 (zeros 12))
  if n = 0xFF then (s.cancelAt, {})
  else if s.profBusy then (s, dictErr 0x08000022 9)
  else if n < 4 ∧ (s.profCopy n).isNone then (s.dictStat 7 4 n 0x105, dictErr 0x08000022 5)
  else if w = 2 then
    if dtUnpack at_ < s.stamp s.lead + 10000000 * 65536 then (s.dictStat 7 4 n 0x10A, dictErr 0x08000022 0xA)
    else
      let (s1, _) := s.loadProfile n
      match s1.firstBreach at_ s1.inOrder with
      | some (e, r) => ((((s1.noteBreach at_ s1.inOrder e).dictStat 7 4 n r.detail).dictStat 9 4 n r.detail).dropSems, r)
      | none =>
        let s2 := if s1.isDirty 9 0 then (s1.commitBlock at_ (9, 0)).1 else s1
        ({ s2 with dict := { s2.dict with atSel := some (n, dtUnpack at_) } }.dictStat 7 1 n 0, {})
  else (s.switchNow n (w = 0) 0, {})

/-- Whether a persistent object of profile `n` meets a locked field of another value (R651). -/
def State.profSkipped (s : State) (n : Nat) : Bool :=
  s.persistent.any (fun e =>
    match s.findObj 0 e.1 e.2 with
    | .obj o => s.lockSkipped o (padTo o.size ((s.profValue n e.1 e.2 o).take o.size))
    | _ => false)

/-- AT_TIME (R650): device time has reached AT: the other blocks are committed. -/
def execAtTime (s : State) : Res :=
  .next (match s.dict.atSel with
    | some (n, t) =>
      if t ≤ s.stamp s.lead then
        let s0 : State := { s with dict := { s.dict with atSel := none } }
        let (s1, r) := (s0.tagPipes true).applySet 0 n (if s.profSkipped n then 0x108 else 0) (fun e => e.1 != 9)
        s1.switchEnd n r 0
      else s
    | none => s)

/-- The bytes of a profile slot without its CRC (R668). -/
def State.slotBytes (s : State) (n gen : Nat) : List Byte × List Byte :=
  let es := (s.persistent.map (fun e => match s.findObj 0 e.1 e.2 with
    | .obj o =>
      let b := match o.src with
        | .regs l => s.partBytes l
        | _ => (s.readObj 0 e.1 e.2 o).2
      leBytes e.1 2 ++ leBytes e.2 1 ++ zeros 1 ++ leBytes b.length 4 ++ padTo (roundUp b.length 4) b
    | _ => [])).flatten
  (leBytes 1 1 ++ leBytes n 1 ++ leBytes s.deviceId 2 ++ leBytes es.length 4 ++ leBytes gen 8 ++
    leBytes (s.stamp s.lead / sec16) 4 ++ zeros 8, es)

/-- STORE (R649): the slot of the lead's flash is written but for its CRC, which STORE_DONE programs last (R668); GEN is one above the
highest of a valid copy. It waits while an operation of firmware runs on that flash (R669). -/
def State.storeProfile (s : State) (n : Nat) : State × OpRes :=
  if s.profBusy then (s, dictErr 0x08000022 9)
  else
    let gen := ([4, 5].map (fun st => if s.profValid st n then s.flashNat st (profAddr n + 8) 8 else 0)).foldl Nat.max 0 + 1
    let b := s.slotBytes n gen
    let wait := (s.qspiS s.lead).op.isSome
    let s1 := if wait then s else s.slotWrite s.lead n b
    let d := { s1.dict with
      store := some n
      storeSt := s.lead
      storeWait := if wait then some b else none }
    ({ s1 with dict := d }.dictStat 7 1 n 0, {})

/-- A profile slot copied from one steward's flash to the other's. -/
def State.copySlot (s : State) (a b n : Nat) : State :=
  let x := profAddr n
  let len := Nat.min 0x7FFFE0 (s.flashNat a (x + 4) 4)
  (s.eraseFlash b x 0x800000).setBytes b (flashBase + x) (s.flashBytes a x (0x20 + len))

/-- STORE_DONE (R649): the CRC is programmed, the partner has its copy, and PROF_STATUS leaves PENDING. It does not come while the engine waits for an
operation of firmware on either flash (R669). -/
def execStoreDone (s : State) : Res :=
  .next (match s.dict.store with
    | some n =>
      let a := profAddr n
      let l := s.dict.storeSt
      let two := s.engineFlash (partner l)
      if (s.qspiS l).op.isSome || (two && (s.qspiS (partner l)).op.isSome) then s
      else
        let crc := crc32c (s.flashBytes l a 0x1C ++ s.flashBytes l (a + 0x20) (s.flashNat l (a + 4) 4))
        let s1 := s.setBytes l (flashBase + a + 0x1C) (leBytes crc 4)
        let s2 := if two then s1.copySlot l (partner l) n else s1
        { s2 with dict := { s2.dict with store := none } }.dictStat 7 3 n 0
    | none => s)

/-! ## Writing -/

/-- Whether an entry of a PDO mapping names an object that may be mapped (R629). -/
def State.mappable (s : State) (v : Nat) : Bool :=
  v == 0 || (match s.findObj 0 (v / 65536) (v / 256 % 256) with
    | .obj o => o.m && v % 256 == o.size * 8 % 256
    | _ => false)

/-- The bytes of the object that an entry of a PDO mapping names. -/
def State.mapSize (s : State) (v : Nat) : Nat :=
  match s.findObj 0 (v / 65536) (v / 256 % 256) with
  | .obj o => o.size
  | _ => 0

/-- Whether a PDO mapping, with `v` written to one of its sub-indices, names at most 64 bytes (R629). -/
def State.mapFits (s : State) (port idx sub v : Nat) : Bool :=
  let n := if sub = 0 then v else leNat (s.objOf port idx 0 [0#8])
  decide (((List.range n).map (fun i => s.mapSize (if i + 1 = sub then v else leNat (s.objOf port idx (i + 1) (zeros 4))))).sum ≤ 64)

/-- The range of an object of the dictionary's own (R625, R629, R631, R638, R639, R642). -/
def State.ownOk (s : State) (idx sub : Nat) (b : List Byte) : Bool :=
  let v := leNat b
  if idx = 0x2100 then
    (match sub with
      | 3 => decide (v ≤ 4) || v == 0xFF
      | 4 => decide (v ≤ 2)
      | 5 => dtValid v
      | 6 => decide (v ≤ 3)
      | 8 => v == 1
      | 11 => decide (1 ≤ v ∧ v ≤ 127)
      | 12 => decide (1 ≤ v ∧ v ≤ 127)
      | 13 => decide (v ≤ 3)
      | 14 => decide (v ≤ 3)
      | _ => true)
  else if idx = 0x2200 ∧ sub = 0x1A then b.all (fun x => x == 0xFF#8 || s.portOk x.toNat)
  else if idx = 0x2200 ∧ sub = 0x1B then decide (10 ≤ v ∧ v ≤ 1000)
  else if idx = 0x2500 then v == 0 || s.part != .azl128
  else if (0x1400 ≤ idx ∧ idx < 0x1404 ∨ 0x1800 ≤ idx ∧ idx < 0x1808) ∧ sub = 2 then decide (v ≤ 0xF0 ∨ v = 0xFE ∨ v = 0xFF)
  else if (0x1600 ≤ idx ∧ idx < 0x1604 ∨ 0x1A00 ≤ idx ∧ idx < 0x1A08) ∧ sub = 0 then decide (v ≤ 32)
  else true

/-- Whether the I2C route may write an object (R631). -/
def State.i2cMay (s : State) (idx sub : Nat) : Bool :=
  let v := leNat (s.objOf 0 0x2100 14 [3#8])
  (idx == 0x2100 && decide (3 ≤ sub ∧ sub ≤ 6) && v.testBit 0) || (idx == 0x2400 && decide (5 ≤ sub ∧ sub ≤ 0x13) && v.testBit 1)

/-- WRITE (R614, R615, R631): `src` is the rank of the route; the I2C route is refused before the object is looked up. -/
def State.dictWrite (s : State) (src port idx sub off : Nat) (data : List Byte) : State × OpRes :=
  if src = 3 ∧ s.i2cMay idx sub = false then (s, dictErr 0x08000021 2)
  else match s.findObj port idx sub with
  | .noIndex => (s, abortRes 0x06020000)
  | .noSub => (s, abortRes 0x06090011)
  | .obj o =>
    if o.acc < 2 then (s, abortRes 0x06010002)
    else if (if o.dom then o.size < off + data.length ∨ data.length = 0 else off ≠ 0 ∨ data.length ≠ o.size) then (s, abortRes 0x06070010)
    else
      match o.src with
      | .val _ => (s, abortRes 0x06010002)
      | .own _ =>
        if s.ownOk idx sub data = false then (s, abortRes 0x06090030)
        else if (0x1600 ≤ idx ∧ idx < 0x1604 ∨ 0x1A00 ≤ idx ∧ idx < 0x1A08) ∧ sub ≠ 0 ∧ s.mappable (leNat data) = false then
          (s, abortRes 0x06040041)
        else if (0x1600 ≤ idx ∧ idx < 0x1604 ∨ 0x1A00 ≤ idx ∧ idx < 0x1A08) ∧ s.mapFits port idx sub (leNat data) = false then
          (s, abortRes 0x06090030)
        else if idx = 0x2100 ∧ sub = 3 then s.selectProfile (leNat data)
        else if idx = 0x2100 ∧ sub = 6 then s.storeProfile (leNat data)
        else if idx = 0x2100 ∧ sub = 8 then s.apply
        else (s.storeObj port idx sub o off data, {})
      | .regs l =>
        let full := patch (s.partBytes l) off data
        if (partVals l full).all (fun e => s.partOk e.1 e.2) then (s.storeObj port idx sub o off data, {})
        else (s, abortRes 0x06090030)

/-! ## Requests (R621-R624) -/

/-- One operation of a request; `ok` where it is whole and of a known code. -/
structure DOp where
  ok : Bool
  op : Nat
  sub : Nat
  idx : Nat
  len : Nat
  off : Nat
  data : List Byte

/-- The operations of a request (R621). -/
def parseOps : Nat → List Byte → List DOp
  | 0, _ => []
  | n + 1, b =>
    let op := leAt b 0 1
    let len := leAt b 4 2
    let data := if op = 2 then slice b 12 len else []
    { ok := decide (12 ≤ b.length) && (op == 1 || (op == 2 && data.length == len)), op := op, sub := leAt b 1 1, idx := leAt b 2 2, len := len,
      off := leAt b 8 4, data := data } :: parseOps n (b.drop (12 + if op = 2 then roundUp len 4 else 0))

/-- The longest response a route carries (R416, R621, R631). -/
def rspLimit (src : Nat) : Nat := if src = 3 then 64 else 4096

/-- Operations performed in order (R623): past the route's limit each ends with 0x0800_0000. -/
def State.runOps (s : State) (src port limit : Nat) : Nat → List DOp → State × List OpRes
  | _, [] => (s, [])
  | used, o :: l =>
    let r := if limit < used + 12 ∨ o.ok = false then (s, abortRes 0x08000000)
      else if o.op = 1 then s.dictRead port o.idx o.sub o.len o.off
      else s.dictWrite src port o.idx o.sub o.off o.data
    let size := 12 + roundUp r.2.data.length 4
    let r' := if limit < used + size then (r.1, abortRes 0x08000000) else r
    let (s2, rs) := r'.1.runOps src port limit (if limit < used + size then limit + 1 else used + size) l
    (s2, r'.2 :: rs)

/-- The dies whose shadows a request would write (R620). -/
def State.reqDies (s : State) (b : List Byte) : List Nat :=
  (parseOps (leAt b 1 1) (b.drop 8)).flatMap (fun o =>
    if o.ok = false ∨ o.op ≠ 2 then []
    else if o.idx = 0x2100 ∧ o.sub = 3 then s.dies
    else match s.findObj 0 o.idx o.sub with
      | .obj x => match x.src with
        | .regs l => ((l :: x.copies).flatten.filter (fun p => (s.shadowOf p.key).isSome)).map (fun p => p.key / 0x100000000)
        | _ => []
      | _ => [])

/-- Whether a request must wait for semaphore 63 of a die (R620). -/
def State.reqBlocked (s : State) (b : List Byte) : Bool :=
  (s.reqDies b).any (fun d => s.sem63 d != 0 && s.sem63 d != dictReq)

/-- A request performed at this package (R623): its response. -/
def State.perform (s : State) (r : DictReq) : State × List Byte :=
  let n := leAt r.bytes 1 1
  if leAt r.bytes 0 1 ≠ 1 ∨ n = 0 ∨ 64 < n then (s, rspAll r.bytes (abortRes 0x08000000))
  else
    let port := if r.src = 2 then r.st - 4 else s.lead - 4
    let (s1, rs) := s.runOps r.src port (rspLimit r.src) 12 (parseOps n (r.bytes.drop 8))
    if (leAt r.bytes 2 2).testBit 0 = false then (s1, rspBytes r.bytes {} rs)
    else if rs.any (fun x => x.abort != 0) then (s1, rspBytes r.bytes (abortRes 0x08000022) rs)
    else if r.src = 3 then (s1, rspBytes r.bytes (dictErr 0x08000021 2) rs)
    else
      let (s2, a) := s1.apply
      (s2, rspBytes r.bytes a rs)

/-! ## The gateway (R634, R635) -/

/-- Transactions open on a port. -/
def State.gwOpen (s : State) (p : Nat) : List GwTx := s.gws.filter (fun g => g.port == p && g.opened.isSome)

/-- The lowest TRANS that no open transaction of a port uses. -/
def freeTrans (used : List Nat) : Nat := ((List.range 5).find? (fun t => !used.contains t)).getD 0

/-- A waiting transaction of a port opened while fewer than four are open: its request leaves in GW_REQ segments. -/
def State.gwStart (s : State) (p : Nat) : State :=
  if 4 ≤ (s.gwOpen p).length then s
  else match s.gws.findIdx? (fun g => g.port == p && g.opened.isNone) with
    | none => s
    | some i =>
      match s.gws[i]? with
      | none => s
      | some g =>
        let t := freeTrans ((s.gwOpen p).map (fun x => x.trans))
        let s1 : State := { s with gws := setAt s.gws i { g with trans := t, opened := some s.cycle } }
        (s1.updPort p (fun v => { v with gwq := v.gwq ++ segments t 57 g.req.bytes })).bchStart p

/-- A request for another package (R634): forwarded on the port GW_ROUTE names, or ended with NO_ROUTE, as one is
whose TARGET GW_ROUTE has no entry for. A worker sends none upward. -/
def State.forward (s : State) (r : DictReq) : State :=
  let route := s.objOf 0 0x2200 0x1A (List.replicate 16 0xFF#8)
  let p := if leAt r.bytes 4 1 < 16 then leAt route (leAt r.bytes 4 1) 1 else 0xFF
  if p = 0xFF ∨ s.portOk p = false ∨ s.lpRole p ≠ 1 then s.answer r (rspAll r.bytes (dictErr 0x08000022 7))
  else ({ s with gws := s.gws ++ [{ req := r, port := p }] } : State).gwStart p

/-- The own package number. -/
def State.pkgId (s : State) : Nat := s.fld (s.ltb + TB.HIER_CTL) 3 0

/-- The request that is taken next (R624): by engine cycle, then source rank, then SA before SB; among equals the first to arrive. -/
def reqBefore (a b : DictReq) : Bool :=
  decide (a.at_ < b.at_) || (a.at_ == b.at_ && (decide (a.src < b.src) || (a.src == b.src && decide (a.st < b.st))))
def nextReq : List DictReq → Option DictReq
  | [] => none
  | r :: l => match nextReq l with
    | some q => if reqBefore q r then some q else some r
    | none => some r

/-- A CAN response: an RPDO (`port` 1) has none, a USDO transfer answers at 0x580 + node-ID (R627). -/
def State.canAnswer (s : State) (r : DictReq) (rsp : List Byte) : State :=
  if r.port = 1 then s else s.canSend r.st (0x580 + (s.canS r.st).node) rsp

/-- The next request taken and performed or forwarded; it waits while the engine does not serve or semaphore 63 is held. -/
def State.serveOne (s : State) : State :=
  match nextReq s.dictQ with
  | none => s
  | some r =>
    if s.dict.serving = false ∨ s.finalC = true ∨ s.reqBlocked r.bytes = true then s
    else
      let s1 : State := { s with dictQ := s.dictQ.erase r }
      if leAt r.bytes 4 1 ≠ 0xFF ∧ leAt r.bytes 4 1 ≠ s.pkgId then s1.forward r
      else
        let (s2, b) := s1.perform r
        if r.src = 2 then s2.canAnswer r b else s2.answer r b

/-- Requests served in order, at most `n` of them. -/
def State.serve (s : State) : Nat → State
  | 0 => s
  | n + 1 => s.serveOne.serve n

def State.enqueueReq (s : State) (r : DictReq) : State := { s with dictQ := s.dictQ ++ [{ r with at_ := s.cycle }] }

/-- DICT_REQUEST (R623, R624, R632): a call of steward firmware arrives, if `call` holds one, and the engine takes the next request. -/
def execDictRequest (call : Option (Nat × List Byte)) (s : State) : Res :=
  .next (match call with
    | some (st, b) => if s.stOk st then (s.enqueueReq { src := 0, st := st, bytes := b }).serveOne else s.serveOne
    | none => s.serveOne)

end Sys2Proof.Machine
end

