-- ==== Sys2Proof/Machine/Routes.lean ====
section
/-! DEFINITION. The routes of the dictionary (R416, R417, R625-R635): mailbox, gateway and CAN; the role move (R25, R26), and the step of
device time (R65). -/
namespace Sys2Proof.Machine
set_option Elab.async false

/-! ## The mailbox (R412, R416, R417) -/

/-- Where the mailbox buffers of BAR0 lie in a steward's table of bytes: no address of R39. -/
def mbReqBuf : Nat := bar0Mem + 0x1000
def mbRspBuf : Nat := bar0Mem + 0x2000

def State.mbState (s : State) (st : Nat) : Nat := s.fld (upb st + UP.MB_STATUS) 1 0

/-- MB_REQUEST (R416, R417, R630): MB_CMD with LEN and without RELEASE; the bytes stand in the request buffer. -/
def execMbRequest (st req v : Nat) (s : State) : Res :=
  .next (s.onKey (upb st + UP.MB_CMD) req (fun s =>
    let len := v % 8192
    let k := upb st + UP.MB_STATUS
    if v.testBit 15 = true ∨ st < 4 then s
    else if s.mbState st ≠ 0 ∨ len = 0 ∨ 4096 < len then s.setBit k 2
    else
      let s1 := ((s.wrFld k 1 0 1).wrFld k 31 16 (v / 65536)).incW (epb st + EP.MB_REQS)
      (s1.epEvent st 6).enqueueReq { src := 1, st := st, bytes := s.bytesAt st mbReqBuf len }))

/-- MB_DONE (R413, R416): the response is in the buffer, STATE is DONE, and vector 0 is raised. -/
def execMbDone (st : Nat) (s : State) : Res :=
  .next (match (s.ep st).mbRsp with
    | some b =>
      if s.stOk st = false ∨ s.mbState st ≠ 1 then s
      else
        let s1 := ((s.updEp st (fun e => { e with mbRsp := none })).setBytes st mbRspBuf b).wrN (upb st + UP.MB_RSP_LEN) b.length
        (s1.wrFld (upb st + UP.MB_STATUS) 1 0 2).msix st 0
    | none => s)

/-- MB_RELEASE (R416, R437): STATE returns to IDLE and REJECTED clears; while a request is under way only REJECTED clears. -/
def execMbRelease (st req v : Nat) (s : State) : Res :=
  .next (s.onKey (upb st + UP.MB_CMD) req (fun s =>
    let k := upb st + UP.MB_STATUS
    if v.testBit 15 = false ∨ st < 4 then s
    else (if s.mbState st = 1 then s else s.wrFld k 1 0 0).clrBit k 2))

/-! ## The gateway (R187, R634, R635) -/

/-- One segment taken into a port's reassembly: the whole transaction once its last segment is in. A transaction with a segment out of order
is discarded and counted once, and what is left of it is passed over (R187). -/
def State.gwSegment (s : State) (port : Nat) (m : List Byte) : State × Option (Nat × List Byte) :=
  let t := leAt m 0 2
  let seg := leAt m 2 1
  let v := s.port port
  let cur := (v.gwRx.find? (fun g => g.trans == t)).getD { trans := t, next := 0, bytes := [] }
  let rest := v.gwRx.filter (fun g => g.trans != t)
  let dead : GwRx := { trans := t, next := 0, bytes := [], dead := true }
  let left := if 128 ≤ seg then rest else dead :: rest
  if cur.dead = true ∧ seg % 128 ≠ 0 then (s.setPort port { v with gwRx := left }, none)
  else if seg % 128 ≠ (if cur.dead then 0 else cur.next) then
    ((s.setPort port { v with gwRx := left }).inc (lp port + LP.GW_SEG_ERR), none)
  else
    let b := cur.bytes ++ m.drop 3
    let next := if cur.dead then 1 else (cur.next + 1) % 128
    if 128 ≤ seg then (s.setPort port { v with gwRx := rest }, some (t, b))
    else (s.setPort port { v with gwRx := { trans := t, next := next, bytes := b } :: rest }, none)

/-- A gateway transaction that ends with a response. -/
def State.gwEnd (s : State) (g : GwTx) (rsp : List Byte) : State :=
  (({ s with gws := s.gws.erase g } : State).answer g.req rsp).gwStart g.port

/-- GW_RSP_RX (R187, R634, R635): a segment of a response on a down-role port; a response to no open transaction is discarded. -/
def execGwRspRx (port : Nat) (s : State) : Res :=
  .next (if s.portOk port = false then s
    else match s.takeMsg port (· == 0xC0) with
    | none => s
    | some ((_, m), s1) =>
      match s1.gwSegment port m with
      | (s2, some (t, b)) => (match (s2.gwOpen port).find? (fun g => g.trans == t) with
          | some g => s2.gwEnd g b
          | none => s2)
      | (s2, none) => s2)

/-- GW_REQ_RX (R187, R634): a segment of a request on the port that UP_PORT names; one on another port is ignored. -/
def execGwReqRx (port : Nat) (groups : List Nat) (s : State) : Res :=
  .next (match s.bchTake port 0x40 groups with
    | (s0, none) => s0
    | (s0, some m) =>
      if s.fld (s.ltb + TB.HIER_CTL) 14 8 ≠ port then s0
      else match s0.gwSegment port m with
        | (s1, some (t, b)) => s1.enqueueReq { src := 4, st := s1.lead, port := port, trans := t, bytes := b }
        | (s1, none) => s1)

/-- GW_TIMEOUT (R635): an open transaction has had no complete response for GW_TIMEOUT ms. -/
def execGwTimeout (port trans : Nat) (s : State) : Res :=
  .next (match (s.gwOpen port).find? (fun g => g.trans == trans) with
    | some g =>
      if g.opened.getD 0 + msec (leNat (s.objOf 0 0x2200 0x1B (leBytes 100 2))) ≤ s.cycle then
        s.gwEnd g (rspAll g.req.bytes (dictErr 0x05040000 6))
      else s
    | none => s)

/-! ## CAN (R625-R629) -/

/-- A request of one or more operations as bytes (R621). -/
def reqBytes (ops : List (List Byte)) : List Byte :=
  leBytes 1 1 ++ leBytes ops.length 1 ++ zeros 2 ++ [0xFF#8] ++ zeros 3 ++ ops.flatten

def opBytes (write : Bool) (idx sub off len : Nat) (data : List Byte) : List Byte :=
  leBytes (if write then 2 else 1) 1 ++ leBytes sub 1 ++ leBytes idx 2 ++ leBytes (if write then data.length else len) 2 ++ zeros 2 ++
    leBytes off 4 ++ (if write then padTo (roundUp data.length 4) data else [])

/-- The engine takes everything that waits, in order. -/
def State.serveAll (s : State) : State := s.serve s.dictQ.length

/-- USDO_TRANSFER (R624, R627): an upload or download at the own node-ID is one operation of rank CAN; none in Stopped (R626). -/
def execUsdoTransfer (st : Nat) (write : Bool) (idx sub off len : Nat) (data : List Byte) (s : State) : Res :=
  .next (if s.canLive st = false ∨ (s.canS st).nmt = 2 then s
    else ((s.canRecv st).enqueueReq { src := 2, st := st, bytes := reqBytes [opBytes write idx sub off len data] }).serveAll)

/-- A communication or mapping value of a PDO of a port. -/
def State.pdoVal (s : State) (st idx sub : Nat) : Nat :=
  match s.commObj (st - 4) idx sub with
  | .obj o => (match o.src with | .own d => leNat (s.objOf (st - 4) idx sub d) | _ => 0)
  | _ => 0

/-- The mapped entries of a PDO: index, sub-index, bytes (R629). -/
def State.pdoMap (s : State) (st idx : Nat) : List (Nat × Nat × Nat) :=
  ((List.range (s.pdoVal st idx 0)).map (fun i => s.pdoVal st idx (i + 1))).filterMap (fun v =>
    match s.findObj 0 (v / 65536) (v / 256 % 256) with
    | .obj o => some (v / 65536, v / 256 % 256, o.size)
    | _ => none)

/-- The writes of an RPDO cut out of its data; `none` where the data is too short. -/
def rpdoOps : List (Nat × Nat × Nat) → List Byte → Option (List (List Byte))
  | [], _ => some []
  | (i, u, n) :: l, d =>
    if d.length < n then none
    else (rpdoOps l (d.drop n)).map (fun r => opBytes true i u 0 n (d.take n) :: r)

/-- RPDO_RX (R624, R629): the mapped writes of RPDO `n` are one request of rank CAN, without a response. -/
def execRpdoRx (st n : Nat) (data : List Byte) (s : State) : Res :=
  .next (if s.canLive st = false ∨ (s.canS st).nmt ≠ 1 ∨ 4 ≤ n ∨ (s.pdoVal st (0x1400 + n) 1).testBit 31 = true then s
    else
      let s1 := s.canRecv st
      match rpdoOps (s.pdoMap st (0x1600 + n)) data with
      | some [] => s1
      | some ops => (s1.enqueueReq { src := 2, st := st, port := 1, bytes := reqBytes ops }).serveAll
      | none => s1)

/-- The values of a TPDO read in one unit (R629). -/
def State.tpdoRead (s : State) : List (Nat × Nat × Nat) → State × List Byte
  | [] => (s, [])
  | (i, u, n) :: l =>
    let (s1, r) := s.dictRead 0 i u n 0
    let (s2, b) := s1.tpdoRead l
    (s2, padTo n r.data ++ b)

/-- Whether TPDO `n` of a port may be sent now. -/
def State.tpdoOn (s : State) (st n : Nat) : Bool :=
  s.canLive st && (s.canS st).nmt == 1 && s.dict.serving && decide (n < 8) && !(s.pdoVal st (0x1800 + n) 1).testBit 31

/-- Whether TPDO `n` of a port falls due at its own times, on the bus or off it (R654). -/
def State.tpdoDue (s : State) (st n : Nat) : Bool :=
  s.stOk st && (s.canS st).on && s.bit (can st + CAN.CAN_CTL) 0 && !s.finalC && (s.canS st).nmt == 1 && s.dict.serving &&
    decide (n < 8) && !(s.pdoVal st (0x1800 + n) 1).testBit 31

/-- What TPDO `n` sent last, and when. -/
def State.tpdoLast (s : State) (st n : Nat) : List Byte × Nat := Tbl.get (fun _ => ([], 0)) (s.canS st).sent n

/-- A TPDO that falls due while the port is bus-off (R654): counted, not sent. What it sent last stays, its times run anew. -/
def State.tpdoDrop (s : State) (st n : Nat) : State :=
  ((s.updCan st (fun v => { v with sent := Tbl.set (fun _ => ([], 0)) v.sent n ((s.tpdoLast st n).1, s.cycle) })).inc
    (can st + CAN.TX_DROP)).canEvent st 4

/-- TPDO `n` sent, or with `onChange` only where a value differs from what it sent last. -/
def State.tpdoSend (s : State) (st n : Nat) (onChange : Bool) : State :=
  let (s1, b) := s.tpdoRead (s.pdoMap st (0x1A00 + n))
  if onChange = true ∧ b = (s.tpdoLast st n).1 then s1
  else if s.canOff st = true then s1.tpdoDrop st n
  else (s1.updCan st (fun v => { v with sent := Tbl.set (fun _ => ([], 0)) v.sent n (b, s.cycle) })).canSend st
    (s.pdoVal st (0x1800 + n) 1 % 2048) b

/-- Whether the inhibit time of TPDO `n`, in units of 100 µs, has passed. -/
def State.inhibitOver (s : State) (st n : Nat) : Bool :=
  let t := s.pdoVal st (0x1800 + n) 3
  t == 0 || (s.tpdoLast st n).1 == [] || decide ((s.tpdoLast st n).2 + usec (100 * t) ≤ s.cycle)

/-- SYNC_RX (R629): TPDOs of type 1 to 0xF0 are sent at every so many SYNCs, those of type 0 at a SYNC after a change. -/
def execSyncRx (st : Nat) (s : State) : Res :=
  .next (if s.canLive st = false ∨ (s.canS st).nmt ≠ 1 then s
    else forEach (List.range 8) (s.canRecv st) (fun s n =>
      let t := s.pdoVal st (0x1800 + n) 2
      if s.tpdoOn st n = false ∨ 0xF0 < t then s
      else if t = 0 then s.tpdoSend st n true
      else
        let c := Tbl.get (fun _ => 0) (s.canS st).syncs n + 1
        let s1 := s.updCan st (fun v => { v with syncs := Tbl.set (fun _ => 0) v.syncs n (if t ≤ c then 0 else c) })
        if t ≤ c then s1.tpdoSend st n false else s1))

/-- TPDO_EVENT_TIMER (R629). -/
def execTpdoEventTimer (st n : Nat) (s : State) : Res :=
  let t := s.pdoVal st (0x1800 + n) 5
  .next (if s.tpdoDue st n = true ∧ 0xFE ≤ s.pdoVal st (0x1800 + n) 2 ∧ t ≠ 0 ∧ (s.tpdoLast st n).2 + msec t ≤ s.cycle ∧ s.inhibitOver st n = true then
      (if s.canOff st = true then s.tpdoDrop st n else s.tpdoSend st n false) else s)

/-- TPDO_CHANGE_CHECK (R629): every 1 ms. -/
def execTpdoChangeCheck (st : Nat) (s : State) : Res :=
  .next (if s.passed (s.canS st).chgAt (msec 1) = false then s
    else forEach (List.range 8) (s.updCan st (fun v => { v with chgAt := some s.cycle })) (fun s n =>
      if s.tpdoDue st n = true ∧ 0xFE ≤ s.pdoVal st (0x1800 + n) 2 ∧ s.inhibitOver st n = true then s.tpdoSend st n true else s))

/-! ## The role move and the step of device time -/

/-- ROLE_MOVE (R25, R26, R59, R561): the old lead commits every pending dictionary write, then the partner takes the role. Requests that wait
are answered by the new lead. -/
def execRoleMove (s : State) : Res :=
  let q := partner s.lead
  .next (if s.present q = false ∨ s.hbOn.contains q = false ∨ s.declared.contains q = true ∨ s.dict.serving = false then s
    else (if s.dict.dirty.isEmpty then s else (s.apply).1).setLead q)

/-- TIME_STEP (R65, R68, R72, R247, R487): an issued step reaches its activation time and acts on all dies: alarms and windows that it
crosses, and every scheduler. -/
def execTimeStep (s : State) : Res :=
  .next (match s.tm.pendStep with
    | (a, st) :: rest =>
      if a ≤ s.now s.lead then
        let old := fun d => s.stamp d
        let new := ((a : Int) + st.delta).toNat / 2 ^ 24
        ((((s.setTm { s.tm with pendStep := rest }).applyStep st.delta).stepSched (a / 2 ^ 24) new).stepWindows old)
      else s
    | [] => s)

end Sys2Proof.Machine
end

