-- ==== Sys2Proof/Machine/Startup.lean ====
section
/-! DEFINITION. Start-up and shutdown (R557, R585, R673, R677-R696): what a die reset clears, the boot ROM, READY and the lead role, warm
restart and shutdown, and the keeper loader. -/
namespace Sys2Proof.Machine
set_option Elab.async false

/-! ## Reset of a die (R557, R680, R691) -/

/-- A table without the entries of a die, `n` keys a die. -/
def dropDie {α : Type} (n die : Nat) (t : Tbl α) : Tbl α := t.filter (fun e => decide (e.1 / n ≠ die))

/-- Whether a register keeps its value over a die reset: the root hash is programmed once, STAGE (and the header copy in force) survive a
warm restart (R691, R695). -/
def keepsReg (die : Nat) (warm : Bool) (k : Nat) : Bool :=
  let o := k % 0x100000000
  decide (4 ≤ die) && ((decide (SC.ROOT_HASH ≤ o) && decide (o < SC.ROOT_HASH + 0x20)) || (warm && (o == SC.STAGE_LO || o == SC.STAGE_HI)))

/-- Whether a byte of a die's memory keeps its value over a die reset: the flash and the MRAM of a steward always, its memory stack over a
warm restart. -/
def keepsByte (die : Nat) (warm : Bool) (k : Nat) : Bool :=
  let a := k % 0x10000000000
  decide (4 ≤ die) && ((decide (0x0C00000000 ≤ a) && decide (a < 0x0C00800000)) ||
    (decide (0x0E00000000 ≤ a) && decide (a < 0x0E10000000)) || (warm && decide (a < 0x300000000)))

/-- The registers and memories of a die at reset. -/
def State.resetRegs (s : State) (die : Nat) (warm : Bool) : State :=
  { s with
    regs := s.regs.filter (fun e => decide (e.1 / 0x100000000 ≠ die) || keepsReg die warm e.1)
    acts := dropDie 0x100000000 die s.acts
    latches := s.latches.filter (fun e => decide (e.1 % 0x10000000000 / 0x100000000 ≠ die))
    mem := s.mem.filter (fun e => decide (e.1 / 0x10000000000 ≠ die) || keepsByte die warm e.1)
    times := dropDie 1 die s.times
    alarms := dropDie 16 die s.alarms
    cks := dropDie 8 die s.cks
    healthLost := dropDie 1 die s.healthLost
    scrubAt := Tbl.set (fun _ => {}) s.scrubAt die { began := s.cycle }
    mods := dropDie 8 die s.mods
    hbs := dropDie 8 die s.hbs
    dbgs := dropDie 1 die s.dbgs
    halted := s.halted.filter (fun k => decide (k / 8 ≠ die))
    hotDies := s.hotDies.filter (fun d => d != die)
    irqSent := dropDie 256 die s.irqSent
    kpClaims := dropDie 256 die s.kpClaims
    swLv := dropDie 16 die s.swLv }

/-- What a concentrator keeps beside its registers, at reset (R680). -/
def State.resetConc (s : State) (die : Nat) : State :=
  { s with
    queues := dropDie 4096 die s.queues
    prods := dropDie 2048 die s.prods
    efs := dropDie 1 die s.efs
    ports := dropDie 32 die s.ports
    sis := dropDie 128 die s.sis
    pipes := dropDie 128 die s.pipes
    schs := dropDie 128 die s.schs
    cellPtr := dropDie 1 die s.cellPtr
    cellMem := dropDie 0x100000000 die s.cellMem
    fences := s.fences.filter (fun f => f.die != die)
    chans := dropDie 512 die s.chans
    engs := dropDie 16 die s.engs
    axes := dropDie 4 die s.axes
    fcChans := s.fcChans.filter (fun x => x.1 != die)
    restarts := s.restarts.filter (fun r => r.die != die)
    wdogs := s.wdogs.filter (fun x => decide (x / 2 ≠ die))
    pccs := dropDie 1 die s.pccs
    kpVer := dropDie 1 die s.kpVer
    kpReq := dropDie 2 die s.kpReq
    ubFirst := s.ubFirst.filter (fun x => x != die) }

/-- What a steward keeps beside its registers, at reset. A mailbox request under way has its response discarded; the dictionary engine
of the lead stops serving until it is READY again (R686). The streams that its shedding logic has shed stay shed (R429): the partner's
logic answers for them. -/
def State.resetSteward (s : State) (st : Nat) : State :=
  let busy := (s.dictQ ++ s.gws.map (fun g => g.req)).any (fun r => r.src == 1 && r.st == st)
  ({ s with
    eps := Tbl.set (fun _ => {}) (Tbl.set (fun _ => {}) (dropDie 1 st s.eps) (partner st) { s.ep (partner st) with
      shed := s.shedNow (partner st) ++ (s.ep st).shed.filter (fun x => !(s.shedNow (partner st)).contains x) }) st
      ({ mbDiscard := busy } : EpS)
    ledgers := dropDie 1024 st s.ledgers
    relaySt := dropDie 1 st s.relaySt
    relayJ := dropDie 1 st s.relayJ
    jns := dropDie 1 st s.jns
    hus := dropDie 1 st s.hus
    parked := s.parked.filter (fun x => x != st)
    hbOn := s.hbOn.filter (fun x => x != st)
    switchAt := dropDie 1 st s.switchAt
    peerUpAt := dropDie 1 st s.peerUpAt
    readyAt := dropDie 1 st s.readyAt
    i2cs := dropDie 1 st s.i2cs
    cans := dropDie 1 st s.cans
    qspis := dropDie 1 st s.qspis
    irqCopy := dropDie 2048 st s.irqCopy
    irqClaims := dropDie 2048 st s.irqClaims
    weirOn := s.weirOn && s.hbOn.any (fun x => x != st)
    restarts := s.restarts.filter (fun r => r.st != st)
    dict := if s.lead = st then { s.dict with serving := false, dirty := [], atSel := none, store := none, storeWait := none }
      else if s.dict.storeSt = st then { s.dict with store := none, storeWait := none } else s.dict } : State).faultN
      (st - 2) false

/-- The far ends of a die's modules when it resets: an ACTIVE one retrains, and its sideband is down (R446, R447). -/
def State.farReset (s : State) (die : Nat) : State :=
  forEach (List.range (if die < 4 then 2 else 5)) s (fun s m =>
    if s.modOk die m = false then s
    else
      let f := farEnd die m
      let s1 := if s.endState f.1 f.2 = 3 then s.modEnter f.1 f.2 4 else s
      s1.clrBit (modKey f.1 f.2 BR.MOD_STAT) 8)

/-- A reset of one die (R557, R673, R691): its registers and state take their reset values, but RATE_ADJ and RATE_CLAMP, which show the
rate word that goes on being applied (R53); its HIER_CTL is unlocked (R88). When every die has reset, final commit is
over (R570). -/
def State.dieReset (s : State) (die : Nat) (warm : Bool) : State :=
  let s0 := (s.farReset die).resetRegs die warm
  let s1 := (s0.setTm { s0.tm with hierLocked := s0.tm.hierLocked.filter (fun x => x != die) }).refreshRate
  let s2 := if die < 4 then s1.resetConc die else s1.resetSteward die
  if s2.finalC then
    let l := if s2.fcReset.contains die then s2.fcReset else die :: s2.fcReset
    if s2.dies.all (fun d => l.contains d) then { s2 with finalC := false, shutNormal := false, fcReset := [] } else { s2 with fcReset := l }
  else s2

/-- A die reset with its cause, which a steward reports (R695). -/
def State.resetWith (s : State) (die cause : Nat) (warm : Bool) : State :=
  let copy := s.fld (sc die + SC.BOOT_STAT) 9 9
  let s1 := s.dieReset die warm
  if die < 4 then s1.upAll
  else (((s1.wrN (sc die + SC.RESET_CAUSE) cause).putBit (sc die + SC.BOOT_STAT) 10 warm).wrFld (sc die + SC.BOOT_STAT) 9 9
    (if warm then copy else 0)).upAll

/-- RAIL_RESET (R557): a rail has stayed at `mv` mV or below for `ns` ns: below its reset level for 1 µs. -/
def execRailReset (die rail mv ns : Nat) (s : State) : Res :=
  .next (if s.present die && decide (1 ≤ rail) && decide (rail ≤ 8) && decide (mv < (railLevels rail).2) && decide (1000 ≤ ns) then s.resetWith die 5 false else s)

/-- NDMRESET (R671, R673): with level FULL; a cold restart. -/
def execNdmreset (die : Nat) (s : State) : Res :=
  .next (if s.present die && (s.dbg die).level == 2 then s.resetWith die 4 false else s)

/-- PEER_RESET (R585, R691): while the sideband of U_X is up; a warm restart of the partner. -/
def execPeerReset (st req v : Nat) (s : State) : Res :=
  .next (s.onKey (fo st + BRS.FO_CMD) req (fun s =>
    if v.testBit 1 = true ∧ 4 ≤ st ∧ s.sbUp st 4 = true then s.resetWith (partner st) 3 true else s))

/-- RESET_ASSERT (R570, R678): RESET_N low resets every die and releases every output; flash, MRAM and the root hashes keep their
contents, and the TAP is untouched but for boundary scan, which ends (R673). -/
def execResetAssert (s : State) : Res :=
  let s1 : State := { State.reset with
    part := s.part
    pending := s.pending
    cycle := s.cycle
    free := s.free
    resp := s.resp
    out := s.out
    regs := s.regs.filter (fun e => keepsReg (e.1 / 0x100000000) false e.1)
    mem := s.mem.filter (fun e => keepsByte (e.1 / 0x10000000000) false e.1)
    jtag := { s.jtag with bscan := none }
    rstLow := true }
  .next (if s.faultWhy.isEmpty then s1.emit .pinFaultN 0 [0] else s1)

/-- RESET_RELEASE (R679): the rising edge of RESET_N samples PROF_SEL1 and PROF_SEL0. -/
def execResetRelease (profSel : Nat) (s : State) : Res :=
  .next (if s.rstLow then ({ s with rstLow := false } : State).setObj 0 0x2100 2 [BitVec.ofNat 8 (profSel % 4)] else s)

/-! ## The boot ROM (R681-R684, R691) -/

/-- ROOT_KEY of a header copy (R682). -/
def State.rootKey (s : State) (st c : Nat) : List Byte := s.flashBytes st (0x10000 * c + 0x1000) 64

/-- Whether a copy's root key matches (R681): its hash is ROOT_HASH, byte i of the hash in byte i of the registers (log entry 106); with ROOT_HASH
all zero it is the reference root key. -/
def State.rootOk (s : State) (st c : Nat) : Bool :=
  let h := (List.range 8).flatMap (fun i => leBytes (s.rdN (sc st + SC.ROOT_HASH + 4 * i)) 4)
  if h = zeros 32 then s.rootKey st c == Config.rootKey else beBytes (sha256 (s.rootKey st c)) 32 == h

/-- Whether a copy of the boot header is usable (R667, R681, R682): its CRC and its root key match, and its signature verifies. -/
def State.hdrOk (s : State) (st c : Nat) : Bool :=
  let a := 0x10000 * c
  s.rootOk st c && crc32c (s.flashBytes st a 0xFFC) == s.flashNat st (a + 0xFFC) 4 &&
    p256Verify (s.rootKey st c) (s.flashBytes st (a + 0x1040) 64) (s.flashBytes st a 0x1000)

/-- The header copy in force: the higher GEN first. -/
def State.hdrPick (s : State) (st : Nat) : Option Nat :=
  let order := if s.flashNat st 0x00008 8 < s.flashNat st 0x10008 8 then [1, 0] else [0, 1]
  order.find? (fun c => s.hdrOk st c)

/-- Whether an image verifies (R681, R683): the digest of its body, and its signature under a key. -/
def imageOk (key hdr body : List Byte) : Bool := beBytes (sha256 body) 32 == slice hdr 0x20 32 && p256Verify key (slice hdr 0x40 64) (hdr.take 64)

/-- Where a firmware slot of a steward lies in its flash, and the bytes of its image's body (R683). -/
def slotAddr (slot : Nat) : Nat := 0x100000 + 0x800000 * slot
def State.slotBody (s : State) (st slot : Nat) : List Byte :=
  s.flashBytes st (slotAddr slot + 0x100) (Nat.min 0x7FFF00 (s.flashNat st (slotAddr slot + 0xC) 4))

/-- Whether the image of a slot verifies under the root key of header copy `c`. -/
def State.slotOk (s : State) (st c slot : Nat) : Bool :=
  imageOk (s.rootKey st c) (s.flashBytes st (slotAddr slot) 256) (s.slotBody st slot)

/-- Whether the image at STAGE in a steward's memory verifies under the root key of header copy `c` (R691). -/
def State.stagedOk (s : State) (st c : Nat) : Bool :=
  let a := s.rdN (sc st + SC.STAGE_LO) / 4096 * 4096 + s.rdN (sc st + SC.STAGE_HI) % 4 * 2 ^ 32
  let hdr := s.bytesAt st a 256
  imageOk (s.rootKey st c) hdr (s.bytesAt st (a + 0x100) (leAt hdr 0xC 4))

/-- The ROM fails: stage BOOT_FAIL with its code, and FAULT_N is low (R684). -/
def State.bootFail (s : State) (st code : Nat) : State :=
  ((s.wrFld (sc st + SC.BOOT_STAT) 3 0 8).wrFld (sc st + SC.BOOT_STAT) 15 12 code).faultN (st - 2) true

/-- What the ROM sets from the header and SFDP: I2C address and mask (R667, R675), and the flash size; a flash without an SFDP table (size 0) leaves
SFDP_FAIL in LAST. A new pass starts without SLOT_FALLBACK. -/
def State.bootHeader (s : State) (st c : Nat) (r : BootResult) : State :=
  let a := 0x10000 * c
  s |>.wrFld (sc st + SC.BOOT_STAT) 9 9 c |>.clrBit (sc st + SC.BOOT_STAT) 4 |>.wrFld (qspi st + QSPI.QSPI_STAT) 7 4 (if r.flashMiB = 0 then 5 else 0)
    |>.wrFld (i2c st + I2C.I2C_CFG) 6 0 (s.flashNat st (a + 0x12) 1) |>.wrFld (i2c st + I2C.I2C_CFG) 14 8 (s.flashNat st (a + 0x13) 1)
    |>.wrFld (qspi st + QSPI.QSPI_STAT) 31 16 r.flashMiB

/-- The image of a slot copied to its LOAD address (R683). -/
def State.loadImage (s : State) (st slot : Nat) : State :=
  s.setBytes st (s.flashNat st (slotAddr slot + 0x10) 8) (s.slotBody st slot)

/-- A cold pass of the ROM (R681). -/
def State.bootCold (s : State) (st : Nat) (r : BootResult) : State :=
  match s.hdrPick st with
  | none => s.bootFail st 1
  | some c =>
    let s1 := s.bootHeader st c r
    if r.memOk = false then s1.bootFail st 3
    else
      let slot := s.flashNat st (0x10000 * c + 0x10) 1 % 2
      if s.slotOk st c slot then (s1.loadImage st slot).wrFld (sc st + SC.BOOT_STAT) 3 0 4
      else
        let s2 := s1.setBit (sc st + SC.BOOT_STAT) 4
        if s.slotOk st c (1 - slot) then (s2.loadImage st (1 - slot)).wrFld (sc st + SC.BOOT_STAT) 3 0 4 else s2.bootFail st 2

/-- BOOT_ROM (R681, R684, R691): in stage ROM. After a warm restart with STAGE.VALID the staged image is entered, or STAGE.VALID clears and
the ROM boots as after a cold reset. -/
def execBootRom (st : Nat) (r : BootResult) (s : State) : Res :=
  let k := sc st + SC.BOOT_STAT
  .next (if s.stOk st = false ∨ s.rstLow = true ∨ s.fld k 3 0 ≠ 1 then s
    else if s.bit k 10 = true ∧ s.bit (sc st + SC.STAGE_LO) 0 = true then
      (if s.stagedOk st (b2n (s.bit k 9)) then (s.bootHeader st (s.fld k 9 9) r).wrFld k 3 0 4 else (s.clrBit (sc st + SC.STAGE_LO) 0).bootCold st r)
    else s.bootCold st r)

/-- One bit of a write of BOOT_CMD. -/
def bootCmd (st req v bit : Nat) (f : State → State) (s : State) : State :=
  s.onKey (sc st + SC.BOOT_CMD) req (fun s => if v.testBit bit = true ∧ 4 ≤ st then f s else s)

/-- RETRY (R684): in BOOT_FAIL the ROM starts again. -/
def execBootRetry (st req v : Nat) (s : State) : Res :=
  .next (bootCmd st req v 3 (fun s =>
    let k := sc st + SC.BOOT_STAT
    if s.fld k 3 0 ≠ 8 then s
    else (((s.wrFld k 3 0 1).wrFld k 15 12 0).wrN (sc st + SC.RESET_CAUSE) 6).faultN (st - 2) false) s)

/-! ## READY and the lead role (R685-R688, R692) -/

/-- The object "both" registers, ring tables and profiles that the lead copies to the partner (R636, R649, R686). -/
def State.copyToPartner (s : State) : State :=
  let l := s.lead
  let q := partner l
  let words := fun (a n : Nat) => (List.range n).map (fun i => a + 4 * i)
  let keys := ([JN.JN_CTL, JN.WEIR_TIME, JN.COMMIT_LAT, JN.PAD_LIMIT, JN.LANES, JN.LIFE, JN.ENDUR_OVR, JN.FLOOR].map (fun o => jn l + o)) ++
    words (jn l + JN.SG_CFG) 2048 ++ words (jn l + JN.CL_CTL) 128 ++ words (jn l + JN.JR_CFG) 512 ++
    [epb l + EP.EP_CTL, epb l + EP.UP_BUDGET, epb l + EP.SHED_PARAM] ++ words (epb l + EP.SHED_CFG) 512 ++
    (List.range 1024).flatMap (fun k => [EP.RING_CFG, EP.RING_TAIL_LO, EP.RING_TAIL_HI].map (fun o => epb l + o + 0x20 * k)) ++
    [fo l + BRS.FO_CTL, lpd l + LPD.SCRUB_CTL, lpd l + LPD.SCRUB_PERIOD]
  let s1 := forEach (keys.filter (fun k => (lookupReg k).isSome)) s (fun s k => s.wr (k - dk l + dk q) (s.rd k))
  let s2 := forEach huShadowed s1 (fun s o => (s.wr (hu q + o) (s.rd (hu l + o))).setAct (hu q + o) (s.act (hu l + o)))
  let s3 := if s2.sched.pend.isSome then s2 else
    forEach ((words (tb l + TB.GRP_PERIOD) 128) ++ (words (tb l + TB.EPOCH0) 3)) s2 (fun s k => s.wr (k - dk l + dk q) (s.rd k))
  forEach (List.range 5) s3 (fun s n =>
    if s.profValid l n ∧ (s.profValid q n = false ∨ s.flashNat q (profAddr n + 8) 8 < s.flashNat l (profAddr n + 8) 8) then s.copySlot l q n
    else s)

/-- ADOPTED set on every present die (R593). -/
def State.adopt (s : State) : State := forEach s.concs s (fun s d => s.setBit (br d + BR.FO_CTL) 8)

/-- CAN ports of the stewards that are READY start (R625, R686). -/
def State.canGo (s : State) : State :=
  forEach (s.stewards.filter (fun st => s.hbOn.contains st && !(s.canS st).on)) s (fun s st => s.canStart st)

/-- The lead's READY (R686, R687): the selected profile is loaded and committed, or profile 4 where it has no valid copy (R648); the
engine serves; a partner that is READY gets its copy. -/
def State.leadGo (s : State) : State :=
  let want := leNat (s.objOf 0 0x2100 2 [0#8])
  let n := if (s.profCopy want).isSome then want else 4
  let s1 : State := { s with dict := { s.dict with serving := true } }
  let s2 := (s1.switchNow n true (if n = want then 0 else 0x105)).adopt
  let s3 := s2.updHu s2.lead (fun v => { v with dueAt := s.cycle })
  let s4 := s3.canGo.wrFld (sc s.lead + SC.BOOT_STAT) 3 0 7
  if s4.present (partner s4.lead) && s4.hbOn.contains (partner s4.lead) then s4.copyToPartner.wrFld (sc (partner s4.lead) + SC.BOOT_STAT) 3 0 7
  else s4

/-- LEAD_CLAIM (R685): an ACQ of semaphore 62 of the lowest-numbered present concentrator die over an ACTIVE module; the winner is lead. -/
def State.leadClaim (s : State) (st : Nat) : State :=
  match s.concs.head? with
  | none => s
  | some d =>
    if s.endState st d ≠ 3 then s
    else
      let me := if st = 4 then 1 else 5
      let s1 := s.run (execSemAcq d 62 me 0)
      if s1.fld (semKey d 62) 7 0 = me then ((s1.setBit (sc st + SC.BOOT_STAT) 11).setLead st).leadGo else s1

/-- Whether a steward hears its partner's heartbeats with LEAD (R585, R685). -/
def State.hearsLead (s : State) (st : Nat) : Bool :=
  s.present (partner st) && (s.hb st 4).rx.isSome && !(s.hb st 4).lost && (s.hb st 4).seen % 2 == 1

/-- A steward passes from FW to PROFILE (R685-R688): heartbeats start, the journal engine may probe its drive once DR_PERST_N is
released, and SA claims the lead role unless the partner leads. -/
def State.readyGo (s : State) (st : Nat) : State :=
  let s1 := ({ s with
    hbOn := st :: s.hbOn.filter (fun x => x != st)
    readyAt := Tbl.set (fun _ => none) s.readyAt st (some s.cycle) } : State).faultN 0 false
  let s2 := (s1.updJn st (fun v => { v with perstAt := s.cycle + msec 100 })).wrFld (sc st + SC.BOOT_STAT) 3 0 6
  let s3 :=
    if s2.hearsLead st then
      (let s4 := (if s2.lead = st then s2.setLead (partner st) else s2)
       if s4.dict.serving then (s4.copyToPartner.canGo).wrFld (sc st + SC.BOOT_STAT) 3 0 7 else s4)
    else if st = 4 then s2.leadClaim st
    else s2
  (forEach (List.range 5) s3 (fun s m => s.run (execHeartbeatTx st m))).upAll

/-- READY (R685, R686, R688): in stage FW; while PWR_FAIL_N is asserted the steward waits in PF_WAIT. -/
def execBootReady (st req v : Nat) (s : State) : Res :=
  .next (bootCmd st req v 0 (fun s =>
    if s.fld (sc st + SC.BOOT_STAT) 3 0 ≠ 4 then s
    else if s.bit (hu st + HU.HU_STAT) 4 then s.wrFld (sc st + SC.BOOT_STAT) 3 0 5
    else s.readyGo st) s)

/-- PF_WAIT_END (R688): PWR_FAIL_N has been deasserted for `high` ns without interruption, at least RESUME ms at its reset value, 1,000 ms. During a
final commit of the other dies the steward goes on waiting. -/
def execPfWaitEnd (st high : Nat) (s : State) : Res :=
  .next (if s.stOk st = true ∧ s.fld (sc st + SC.BOOT_STAT) 3 0 = 5 ∧ msec 1000 ≤ high ∧ s.finalC = false then (s.clrBit (hu st + HU.HU_STAT) 4).readyGo st else s)

/-- LEAD_WAIT_EXPIRE (R685): 2,000 ms after SB's READY with no heartbeat from SA. -/
def execLeadWaitExpire (st : Nat) (s : State) : Res :=
  .next (match Tbl.get (fun _ => none) s.readyAt st with
    | some t =>
      if st = 5 ∧ s.present 5 = true ∧ s.fld (sc 5 + SC.BOOT_STAT) 3 0 = 6 ∧ (s.hb 5 4).rx = none ∧ t + msec 2000 ≤ s.cycle then
        (s.leadClaim 5).upAll
      else s
    | none => s)

/-! ## Warm restart and shutdown (R691-R693) -/

/-- WARM (R691): the steward restarts and keeps its memory stack. -/
def execBootWarm (st req v : Nat) (s : State) : Res := .next (bootCmd st req v 1 (fun s => s.resetWith st 2 true) s)

/-- SHUTDOWN (R693): on the lead; final commit with PCC_SHED treated as set and a normal drive shutdown. -/
def execBootShutdown (st req v : Nat) (s : State) : Res :=
  .next (bootCmd st req v 2 (fun s =>
    if st = s.lead ∧ s.finalC = false then ({ s with shutNormal := true } : State).finalEnter else s) s)

/-- ROOT_COMMIT (R695): ROOT_PROG is programmed into ROOT_HASH once. -/
def execRootCommit (st req v : Nat) (s : State) : Res :=
  .next (s.onKey (sc st + SC.ROOT_COMMIT) req (fun s =>
    if v.testBit 0 = true ∧ 4 ≤ st ∧ (List.range 8).all (fun i => s.rd (sc st + SC.ROOT_HASH + 4 * i) == 0#32) = true then
      forEach (List.range 8) s (fun s i => s.wr (sc st + SC.ROOT_HASH + 4 * i) (s.rd (sc st + SC.ROOT_PROG + 4 * i)))
    else s))

/-! ## The keeper loader (R689, R690, R696) -/

/-- Whether a path may write the loader registers, but for KP_IDLE: U_A and U_B. -/
def kpPath (req : Nat) : Bool := (decide (1 ≤ req) && decide (req ≤ 8)) || req == 0x20

/-- Where the IRAM of a keeper core stands in its die's table of bytes: no address of R42. -/
def iramAt (core : Nat) : Nat := 0x7100000000 + core * 0x20000

def State.kpHeld (s : State) (die core : Nat) : Bool := s.bit (kp die + KP.KP_CTL) core

/-- A write of a loader register on a concentrator die. -/
def kpWrite (die off req : Nat) (f : State → State) (s : State) : State :=
  s.onKey (kp die + off) req (fun s => if die < 4 then f s else s)

/-- KP_LOAD_DATA (R689, R696): one word, while the core is held. -/
def execKpLoadData (die req v : Nat) (s : State) : Res :=
  .next (kpWrite die KP.KP_LOAD_DATA req (fun s =>
    let k := kp die + KP.KP_LOAD_ADDR
    let core := s.fld k 17 17
    let a := s.fld k 16 2 * 4
    if kpPath req = false ∨ s.kpHeld die core = false then s
    else ((s.setBytes die (iramAt core + a) (leBytes v 4)).wrFld k 16 2 (a / 4 + 1)).clrBit (kp die + KP.KP_STAT) (8 + core)) s)

/-- VERIFY (R689): of the core that KP_LOAD_ADDR names. -/
def execKpVerify (die req v : Nat) (s : State) : Res :=
  .next (kpWrite die KP.KP_CMD req (fun s =>
    if kpPath req = true ∧ v.testBit 0 = true then
      { s with kpVer := Tbl.set (fun _ => none) s.kpVer die (some (s.fld (kp die + KP.KP_LOAD_ADDR) 17 17)) }
    else s) s)

/-- The first check of a keeper image that fails (R683, R696): 1 MAGIC, 2 LENGTH, 3 DIGEST, 4 SIGNATURE, under the keeper key. -/
def kpVerdict (hdr body : List Byte) : Nat :=
  let len := leAt hdr 0xC 4
  if leAt hdr 0 4 ≠ 0x415A4C31 ∨ leAt hdr 4 1 ≠ 1 ∨ leAt hdr 5 1 ≠ 2 then 1
  else if len % 64 ≠ 0 ∨ 0x20000 < len + 256 then 2
  else if beBytes (sha256 (body.take len)) 32 ≠ slice hdr 0x20 32 then 3
  else if p256Verify Config.keeperKey (slice hdr 0x40 64) (hdr.take 64) = false then 4
  else 0

/-- VERIFY_DONE (R696): VERIFIED is set, or VRES names the failure. -/
def execVerifyDone (die : Nat) (s : State) : Res :=
  .next (match Tbl.get (fun _ => none) s.kpVer die with
    | some core =>
      if 4 ≤ die ∨ s.present die = false then s
      else
        let c := kpVerdict (s.bytesAt die (iramAt core) 256) (s.bytesAt die (iramAt core + 256) (0x20000 - 256))
        let s1 : State := { s with kpVer := Tbl.set (fun _ => none) s.kpVer die none }
        (s1.wrFld (kp die + KP.KP_STAT) 18 16 c).putBit (kp die + KP.KP_STAT) (8 + core) (c == 0)
    | none => s)

/-- REQ_IDLE (R690): REQ_IDLE0 and REQ_IDLE1 ask the keeper cores to reach their idle points. -/
def execReqIdle (die req v : Nat) (s : State) : Res :=
  .next (kpWrite die KP.KP_CMD req (fun s =>
    if kpPath req = false then s
    else forEach [0, 1] s (fun s core =>
      if v.testBit (1 + core) then { s with kpReq := Tbl.set (fun _ => false) s.kpReq (die * 2 + core) true } else s)) s)

/-- A keeper core is held: it is in reset, so its semaphores are released (R460). -/
def State.kpHold (s : State) (die core : Nat) : State := (s.setBit (kp die + KP.KP_CTL) core).keeperReset die core

/-- KP_IDLE (R690, R696): written by a keeper core at its idle point. -/
def execKpIdle (die req v : Nat) (s : State) : Res :=
  .next (kpWrite die KP.KP_IDLE req (fun s =>
    let core := req - 9
    if v.testBit 0 = false ∨ (req ≠ 9 ∧ req ≠ 10) then s
    else
      let s1 : State := { s with kpReq := Tbl.set (fun _ => false) s.kpReq (die * 2 + core) false }
      (s1.setBit (kp die + KP.KP_STAT) core).kpHold die core) s)

/-- KP_HOLD_WRITE (R689, R690): HOLD sets, or clears for a verified image; a running core is no longer idle. -/
def execKpHoldWrite (die req v : Nat) (s : State) : Res :=
  .next (kpWrite die KP.KP_CTL req (fun s =>
    if kpPath req = false then s
    else forEach [0, 1] s (fun s core =>
      if v.testBit core then (if s.kpHeld die core then s else s.kpHold die core)
      else if s.bit (kp die + KP.KP_STAT) (8 + core) then (s.clrBit (kp die + KP.KP_CTL) core).clrBit (kp die + KP.KP_STAT) core
      else s)) s)

end Sys2Proof.Machine
end

