-- ==== Sys2Proof/Machine/Return.lean ====
section
/-! DEFINITION. What the arrival of a heartbeat brings (R582, R583, R586, R588, R589, R593): a steward or a die comes back, moored mode ends,
and streams return to their carriers. -/
namespace Sys2Proof.Machine
set_option Elab.async false

/-! ## End of moored mode (R588) -/

/-- The channels that a steward's enabled host and journal ring entries name on a die. -/
def State.namedChans (s : State) (st die : Nat) : List (Nat × Nat) :=
  (((List.range 1024).filter (fun k => s.ringOn st k && s.ringDie st k == die)).map (fun k => (s.ringEng st k, s.ringCh st k)) ++
    ((List.range 64).filter (fun k => s.jrFld st k 31 31 == 1 && s.jrFld st k 23 22 == die)).map (fun k =>
      (s.jrFld st k 21 18, s.jrFld st k 17 13))).eraseDups

/-- MOORED_RETURN (R434, R588): steward `st` takes the lead role if no lead is up, and delivers the die's history by rewind, replay and
fences with CAUSE MOORED_RETURN. The die reports MOORED_EXIT with the records replayed. -/
def State.mooredReturn (s : State) (die st : Nat) : State :=
  let s1 := (s.clrBit (foStat die) 2).setBit (foEvents die) 3
  let s2 := State.rejoinTime (if s1.hbOn.contains s1.lead && !s1.declared.contains s1.lead then s1 else s1.setLead st) die
  let qs := List.range 4096
  let n := (qs.map (fun q => (s2.replayQueue die q).2)).sum
  let i : FenceInfo := { cause := 3, steward := st - 4, writer := st, prevEpoch := s.epoch, detect := s.stamp st }
  ((s2.nextEpoch.recoverDie st die i (s2.namedChans st die) qs s.cycle).restartGo st).health die 7 0 0x0B 0 die n

/-! ## Return of a die (R593) -/

/-- The die that a record of the dictionary belongs to (R636). -/
def dieOfIndex (idx : Nat) : Option Nat :=
  if 0x3000 ≤ idx ∧ idx < 0x3200 then some ((idx - 0x3000) / 128)
  else if 0x3200 ≤ idx ∧ idx < 0x3280 then some ((idx - 0x3200) / 32)
  else if 0x3400 ≤ idx ∧ idx < 0x3600 then some ((idx - 0x3400) / 128)
  else if 0x3600 ≤ idx ∧ idx < 0x3800 then some ((idx - 0x3600) / 128)
  else if 0x3800 ≤ idx ∧ idx < 0x3810 then some ((idx - 0x3800) / 4)
  else if 0x3900 ≤ idx ∧ idx < 0x3904 then some (idx - 0x3900)
  else if 0x4000 ≤ idx ∧ idx < 0x4200 then some ((idx - 0x4000) / 128)
  else none

/-- The objects of the active profile that belong to a die, written into its shadows and committed as a set; ADOPTED is set. -/
def State.adoptDie (s : State) (die : Nat) : State :=
  let n := s.active
  let s1 := forEach (s.persistent.filter (fun e => dieOfIndex e.1 == some die)) s (fun t e =>
    match t.findObj 0 e.1 e.2 with
    | .obj o => t.storeObj 0 e.1 e.2 o 0 (padTo o.size ((s.profValue n e.1 e.2 o).take o.size))
    | _ => t)
  ((s1.applySet 0 n 0 (fun _ => true)).1).setBit (br die + BR.FO_CTL) 8

/-- The fences of CAUSE DIE_RESTART: one into each queue of the die that an enabled ring entry of a steward names (R434, R593). -/
def State.restartFences (s : State) (die : Nat) : State :=
  let qs := ((s.stewards.flatMap (fun st => ((List.range 1024).filter (fun k => s.ringOn st k && s.ringDie st k == die)).map (fun k =>
    s.ringQueue st k)))).eraseDups
  forEach qs s.nextEpoch (fun t q => t.pushFence { die := die
                                                   queue := q
                                                   cause := 5
                                                   steward := s.lead - 4
                                                   writer := s.lead
                                                   prevEpoch := s.epoch
                                                   detect := s.stamp s.lead
                                                   replayed := 0 })

/-- DIE_BACK (R593): a lost die's heartbeat returns; ADOPTED tells a moored die from one that was reset. -/
def State.dieBack (s : State) (die : Nat) : State :=
  if s.lostDies.contains die = false then s
  else
    let s1 : State := { s with lostDies := s.lostDies.filter (fun d => d != die) }
    if s1.bit (br die + BR.FO_CTL) 8 then s1.health s1.lead 9 0 0x0B 0 die 0
    else ((s1.health s1.lead 9 0 0x0B 0 die 1).adoptDie die).restartFences die

/-! ## HEARTBEAT_RX -/

/-- PEER_BACK (R586, R589): the partner's first heartbeat on U_X. -/
def State.peerBack (s : State) (st : Nat) : State :=
  let p := partner st
  let s1 := (s.endPlanned p).setBit (fo st + BRS.FO_STAT) 0
  let s2 : State := { s1 with
    declared := s1.declared.filter (fun x => x != p)
    peerUpAt := Tbl.set (fun _ => 0) s1.peerUpAt st s.cycle }
  let s3 := (s2.setBit (fo st + BRS.FO_EVENTS) 1).health st 3 0 0x0B 0 (p - 4) 0
  (if st = s3.lead ∧ s3.dict.serving = true then s3.copyToPartner else s3).upAll

/-- Whether an end has missed a heartbeat since its last (R582). -/
def State.silent (s : State) (die m : Nat) : Bool :=
  match (s.hb die m).rx with
  | some t => decide (t + usec 105 ≤ s.cycle)
  | none => true

/-- HEARTBEAT_RX (R582): the oldest heartbeat that has reached an end is taken. The first one after a planned stop ends it (R589). -/
def execHeartbeatRx (die m : Nat) (s : State) : Res :=
  .next (match (s.hb die m).inbox with
    | [] => s
    | x :: rest =>
      if s.modOk die m = false then s
      else
        let s1 := s.updHb die m (fun v => { v with
          inbox := rest
          rx := some s.cycle
          miss := 0
          lost := false
          seen := x })
        if die < 4 then
          let st := 4 + m
          let s2 := if s.silent die m then (s1.setBit (foStat die) m).endPlanned st else s1.setBit (foStat die) m
          let s3 : State := { s2 with modLost := s2.modLost.filter (fun e => e != (die, st)) }
          if s3.bit (foStat die) 2 then s3.mooredReturn die st else s3
        else if m < 4 then
          let s2 := s1.putBit (fo die + BRS.FO_STAT) (8 + m) (x.testBit (partner die - 4))
          ((s2.dieBack m).uxJudge die).moduleJudge m (partner die)
        else
          let s2 := if s.bit (fo die + BRS.FO_STAT) 0 = false then s1.peerBack die
            else if s.silent die m then s1.endPlanned (partner die) else s1
          forEach s2.concs s2 (fun s d => s.moduleJudge d (partner die)))

/-! ## Return of the streams (R586) -/

/-- RETURN_HOLD_EXPIRE (R586): with AUTO_RETURN set and PEER_UP held for RETURN_HOLD ms, the lead moves each stream to its carrier, one die
at a time; with the last of them the mode is normal again. -/
def execReturnHoldExpire (st : Nat) (s : State) : Res :=
  let k := fo st + BRS.FO_CTL
  .next (if s.stOk st = true ∧ st = s.lead ∧ s.bit k 8 = true ∧ s.bit (fo st + BRS.FO_STAT) 0 = true ∧
      Tbl.get (fun _ => 0) s.peerUpAt st + msec (s.fld k 31 16) ≤ s.cycle then
      let sts := (List.range 512).filter (fun x => s.streamOk x)
      (forEach sts s (fun t x => (t.moveQueue (x / 128) (t.streamQueue x) (t.wantCarrier x)).1)).reducedJudge
    else s)

end Sys2Proof.Machine
end

