-- ==== Sys2Proof/Machine/Bus.lean ====
section
/-! DEFINITION. The bus: where addresses lead (R39-R42), what an access of each size does (R450, R451), register commands without a row
of their own (R14), transactions over modules (R442, R456), the steps of a MOVE (R374, R383, R384, R388, R391, R392), the memory mode of
the check-value units (R601), and the system bus of debug (R671, R673). -/
namespace Sys2Proof.Machine
set_option Elab.async false

/-! ## Where an address leads -/

/-- What stands at an address. -/
inductive Place where
  /-- Nothing: an access ends with this status of R605. -/
  | bad (status : Nat)
  /-- A register, or a reserved word of a block. -/
  | reg (key : Nat)
  /-- A block whose registers the spec does not give, or memory outside the package: reads are free, writes leave no trace. -/
  | outside
  /-- Bytes of a memory. -/
  | mem (die addr : Nat)
  /-- Boot ROM, by offset. -/
  | rom (off : Nat)
  /-- Memory that can only be read. -/
  | fixed (die addr : Nat)
  /-- The window of a queue, by offset in it (R345). -/
  | window (die q off : Nat)
  /-- The basin direct window (R360). -/
  | cell (die addr : Nat)
  /-- The host, from a steward, by host address (R415). -/
  | host (st addr : Nat)
  /-- The memory space of a steward's recording drive, by offset in the window (R39). -/
  | drive (st off : Nat)
  deriving DecidableEq, Repr

/-- Whether an offset of a die window lies in a block of R42 other than the basin's; the SM block ends where R470 says. -/
def concBlock (o : Nat) : Bool :=
  (decide (0x10000000 ≤ o) && decide (o < 0x10C00000)) || (decide (0x11000000 ≤ o) && decide (o < 0x11240000)) ||
    (decide (0x11300000 ≤ o) && decide (o < 0x11308000)) || (decide (0x11400000 ≤ o) && decide (o < 0x11510000)) ||
    (decide (0x11600000 ≤ o) && decide (o < 0x11610000)) || (decide (0x11700000 ≤ o) && decide (o < 0x11710000)) ||
    (decide (0x11800000 ≤ o) && decide (o < 0x11808000))

/-- An offset of a concentrator's window (R42). Unlisted offsets of the basin's register range are unmapped (R362). -/
def State.placeConc (s : State) (die o : Nat) : Place :=
  if s.present die = false then .bad 1
  else if o < 0x04000000 then .cell die o
  else if 0x08000000 ≤ o ∧ o < 0x0A000000 then .window die ((o - 0x08000000) / 0x2000) (o % 0x2000)
  else if 0x0A000000 ≤ o ∧ o < 0x0C000000 then (if (lookupReg (dk die + o / 4 * 4)).isSome then .reg (dk die + o / 4 * 4) else .bad 1)
  else if concBlock o then .reg (dk die + o / 4 * 4)
  else .bad 1

/-- The steward blocks of R41 as (base, end) whose registers the spec gives. -/
def stewardBlocks : List (Nat × Nat) := [
  (0, 0x10000), (0x10000, 0x20000), (0x20000, 0x26000), (0x30000, 0x34000), (0x40000, 0x50000), (0x100000, 0x150000),
  (0x200000, 0x210000), (0x210000, 0x220000), (0x220000, 0x230000), (0x400000, 0x500000), (0x600000, 0x610000), (0x700000, 0x710000),
  (0x710000, 0x720000), (0x720000, 0x730000)]

/-- An offset of steward local registers (R41); the dictionary engine and the root port controller have no stated registers. -/
def State.placeLocal (s : State) (st o : Nat) : Place :=
  if s.present st = false then .bad 1
  else if stewardBlocks.any (fun b => decide (b.1 ≤ o) && decide (o < b.2)) then .reg (dk st + o / 4 * 4)
  else if (0x300000 ≤ o ∧ o < 0x310000) ∨ (0x500000 ≤ o ∧ o < 0x600000) then .outside
  else .bad 1

/-- An offset of BAR0 (R412); what the MSI-X PBA shows is not stated. -/
def State.placeBar0 (s : State) (st o : Nat) : Place :=
  if s.present st = false then .bad 1
  else if 0x1000 ≤ o ∧ o < 0x2000 then .mem st (bar0Mem + o)
  else if 0x2000 ≤ o ∧ o < 0x3000 then .fixed st (bar0Mem + o)
  else if 0x20000 ≤ o ∧ o < 0x20400 then .mem st (bar0Mem + o)
  else if 0x20000 ≤ o then .outside
  else .reg (dk st + 0x80000000 + o / 4 * 4)

/-- The status with which a path over a module ends (R447): LINK_DOWN where it is DOWN or FAILED. -/
def State.hop (s : State) (die m : Nat) : Nat := if s.endState die m = 1 ∨ s.endState die m = 5 then 4 else 0

/-- What a steward's own map holds below the windows to other dies (R39, R597). -/
def State.placeOwn (s : State) (st a : Nat) : Place :=
  if s.present st = false then .bad 1
  else if a < 0x300000000 then .mem st a
  else if 0x800000000 ≤ a ∧ a < 0x800020000 then .rom (a - 0x800000000)
  else if 0x810000000 ≤ a ∧ a < 0x810400000 then .mem st a
  else if 0xC00000000 ≤ a ∧ a < 0xC00800000 then (if s.bit (mr st) 0 then .fixed st a else .mem st a)
  else if 0xE00000000 ≤ a ∧ a < 0xE10000000 then .fixed st a
  else if 0x1000000000 ≤ a ∧ a < 0x1001000000 then s.placeLocal st (a - 0x1000000000)
  else .bad 1

/-- An address of a steward's map (R39, R40). -/
def State.placeSt (s : State) (st a : Nat) : Place :=
  if 0x2000000000 ≤ a ∧ a < 0x2400000000 then
    let d := (a - 0x2000000000) / 0x100000000
    if s.present d = false then .bad 1
    else if s.hop st d ≠ 0 then .bad (s.hop st d) else s.placeConc d (a % 0x100000000)
  else if 0x4000000000 ≤ a ∧ a < 0x6000000000 then
    if s.present (partner st) = false then .bad 1
    else if s.peerLost st then .bad 2
    else if s.hop st 4 ≠ 0 then .bad (s.hop st 4)
    else s.placeOwn (partner st) (a - 0x4000000000)
  else if 0x6000000000 ≤ a ∧ a < 0x6100000000 then (if s.present st then .drive st (a - 0x6000000000) else .bad 1)
  else if 0x8000000000 ≤ a ∧ a < 0x10000000000 then
    match s.hostAddr st a with | some h => .host st h | none => .bad 1
  else s.placeOwn st a

/-- A register command's place: an offset of a die's own map as the register tables give it, BAR0 of a steward at 0x8000_0000. -/
def State.placeKey (s : State) (die o : Nat) : Place :=
  if die < 4 then s.placeConc die o
  else if 0x80000000 ≤ o ∧ o < 0x80040000 then s.placeBar0 die (o - 0x80000000)
  else s.placeLocal die o

/-- The steward whose core a requester code names (R439). -/
def reqSteward (req : Nat) : Option Nat :=
  if 1 ≤ req ∧ req ≤ 4 then some 4 else if 5 ≤ req ∧ req ≤ 8 then some 5 else none

/-- The status with which a requester's path to a die ends, 0 where it is open: a keeper core reaches its own concentrator only (R37), a
steward's core another die over its module (R447) and the other steward while that is not lost (R40). -/
def State.pathStop (s : State) (req die : Nat) : Nat :=
  if req = 9 ∨ req = 10 then (if die < 4 then 0 else 1)
  else match reqSteward req with
    | some st => if st = die then 0 else if die < 4 then s.hop st die else if s.peerLost st then 2 else s.hop st 4
    | none => 0

/-- Where a requester's access to an offset of a die leads. -/
def State.placeFrom (s : State) (req die o : Nat) : Place :=
  match s.placeKey die o with
  | .bad x => .bad x
  | p => if s.pathStop req die = 0 then p else .bad (s.pathStop req die)

/-! ## Register writes -/

/-- A write of a keeper loader register (R696): KP_LOAD_ADDR too takes writes of U_A and U_B only. -/
def State.writeKp (s : State) (die x req v : Nat) : State :=
  if x = KP.KP_CTL then s.run (execKpHoldWrite die req v)
  else if x = KP.KP_LOAD_DATA then s.run (execKpLoadData die req v)
  else if x = KP.KP_CMD then s.runs [execKpVerify die req v, execReqIdle die req v]
  else if x = KP.KP_IDLE then s.run (execKpIdle die req v)
  else if kpPath req then s.writeReg (kp die + x) req v else s

/-- A 32-bit write of any register: by its commands, or by its access codes (R14). -/
def State.writeWord (s : State) (key req v : Nat) : State :=
  let die := key / 0x100000000
  let o := key % 0x100000000
  if die < 4 then
    if 0x11700000 ≤ o ∧ o < 0x11710000 then s.writeKp die (o - 0x11700000) req v else s.writeReg key req v
  else if o = SC.BOOT_CMD then s.runs [execBootReady die req v, execBootWarm die req v, execBootShutdown die req v, execBootRetry die req v]
  else if o = SC.ROOT_COMMIT then s.run (execRootCommit die req v)
  else if key = fo die + BRS.FO_CMD then s.runs [execPlannedStop die req v, execPeerReset die req v, execCancelStop die req v]
  else if key = upb die + UP.MB_CMD then s.run (if v.testBit 15 then execMbRelease die req v else execMbRequest die req v)
  else if 0x80010000 ≤ o ∧ o < 0x80014000 ∧ o % 0x10 = 0 then s.wrN key v
  else if 0x80010000 ≤ o ∧ o < 0x80014000 ∧ o % 0x10 = 4 then
    s.run (execDoorbell die ((o - 0x80010000) / 0x10) (s.rdN (key - 4) + v % 0x100000000 * 0x100000000))
  else s.writeReg key req v

/-! ## Reads -/

/-- The byte of a cell that the direct window shows (R360): that of the record in it, else what was written into the cell; what else a
cell holds is not stated. -/
def State.cellByte (s : State) (die addr i : Nat) : Byte :=
  match (s.queues.filter (fun e => e.1 / 4096 == die)).findSome? (fun e => (e.2.und ++ e.2.ret).findSome? (fun r =>
      match r.cells.idxOf? (addr / 256) with | some j => r.data[256 * j + addr % 256]? | none => none)) with
  | some b => b
  | none => (Tbl.get (fun _ => none) s.cellMem (dk die + addr)).getD (Config.freeByte (s.free + i))

/-- A byte read without any effect; `i` tells free bytes of one access apart. -/
def State.peek (s : State) (p : Place) (req i x : Nat) : Byte :=
  match p with
  | .bad _ => Config.freeByte (s.free + i)
  | .reg k => BitVec.ofNat 8 ((s.view k req).toNat / 256 ^ (x % 4))
  | .outside => Config.freeByte (s.free + i)
  | .mem d a => if bar0Mem ≤ a ∧ a < bar0Mem + 0x2000 then 0#8 else s.byteAt d a
  | .rom o => Config.romByte o
  | .fixed d a => s.byteAt d a
  | .window _ _ _ => 0#8
  | .cell d a => s.cellByte d a i
  | .host _ _ => Config.freeByte (s.free + i)
  | .drive _ _ => Config.freeByte (s.free + i)

/-- Bytes of a queue's stream, zero where there are none (R346). -/
def State.popRead (s : State) (die q n : Nat) (err : PopErr) : State × List Byte :=
  let s0 := if (s.queue die q).fault then s else s.popErr die q err
  let r := State.popBytes die q (n + 1) n s0
  (if r.2.length < n then r.1.inc (dk die + BS.BS_POP_EMPTY) else r.1, padTo n r.2)

/-- `n` bytes from address `a` of a map, each register word of them read once, each run in a pop region as one read. A status where the
access ends with one. -/
def State.readAt (f : State → Nat → Place) (req : Nat) (err : PopErr) : Nat → Nat → Nat → State → State × Nat × List Byte
  | 0, _, _, s => (s, 0, [])
  | fuel + 1, a, n, s =>
    if n = 0 then (s, 0, [])
    else
      let k4 := Nat.min n (4 - a % 4)
      let step : State × Nat × List Byte := match f s a with
        | .bad st => (s, st, [])
        | .reg k =>
          let r := s.readReg k req
          (r.1, 0, ((leBytes r.2.toNat 4).drop (a % 4)).take k4)
        | .window d q off =>
          if off < 0x1000 then
            let r := s.popRead d q (Nat.min n (0x1000 - off)) err
            (r.1, 0, r.2)
          else (s, 0, zeros (Nat.min n (0x2000 - off)))
        | _ => (s.skipFree k4, 0, (List.range k4).map (fun i => s.peek (f s (a + i)) req i (a + i)))
      if step.2.1 ≠ 0 then step
      else
        let r := State.readAt f req .none fuel (a + step.2.2.length) (n - step.2.2.length) step.1
        (r.1, r.2.1, step.2.2 ++ r.2.2)

/-! ## Writes -/

/-- Status of a write that an address does not take because it can only be read (R39); no status of R605. -/
def readOnly : Nat := 0x100

/-- Who writes: the requester, its path at a concentrator's push windows, the die the write came from, and the ring whose tail it is. -/
structure Writer where
  req : Nat
  path : Nat
  die : Nat
  tail : Option (Nat × Nat) := none
  deriving DecidableEq, Repr

/-- Bytes written from address `a` of a map, in address order; what stands before the first address that ends with a status is written. -/
def State.writeAt (f : State → Nat → Place) (w : Writer) : Nat → Nat → List Byte → State → State × Nat
  | 0, _, _, s => (s, 0)
  | fuel + 1, a, bs, s =>
    if bs = [] then (s, 0)
    else
      let k4 := Nat.min bs.length (4 - a % 4)
      let step : State × Nat × Nat := match f s a with
        | .bad st => (s, st, 1)
        | .reg k => if a % 4 = 0 ∧ k4 = 4 then (s.writeWord k w.req (leNat (bs.take 4)), 0, 4) else (s, 7, 1)
        | .outside => (s, 0, k4)
        | .mem d m =>
          if bar0Mem ≤ m ∧ m < bar0Mem + 0x2000 ∧ s.mbState d = 1 then (s, 0, k4) else (s.setBytes d m (bs.take k4), 0, k4)
        | .rom _ => (s, readOnly, 1)
        | .fixed _ _ => (s, readOnly, 1)
        | .window d q off =>
          if a % 4 ≠ 0 ∨ k4 < 4 then (s, 7, 1)
          else if 0x1000 ≤ off ∧ off < 0x1FF8 then
            let n := Nat.min (bs.length / 4 * 4) (0x1FF8 - off)
            (s.run (execPushWrite d q w.path (bs.take n)), 0, n)
          else if off = 0x1FF8 then (s.run (execPushEnd d q w.path (leNat (bs.take 4))), 0, 4)
          else (s.run (execBasinBadAccess d (0x08000000 + q * 0x2000 + off)), 0, 4)
        | .cell d m =>
          let n := Nat.min bs.length (0x4000000 - m)
          (s.run (execDirectWrite d m (bs.take n)), 0, n)
        | .drive st o => (s.emit .driveWrite st (o :: bs.map (fun b => b.toNat)), 0, bs.length)
        | .host st h => (s.hostWrite st { die := w.die, addr := h, bytes := bs, tail := w.tail }, 0, bs.length)
      if step.2.1 ≠ 0 then (step.1, step.2.1)
      else State.writeAt f w fuel (a + step.2.2) (bs.drop step.2.2) step.1

/-! ## Accesses by size (R450, R451) -/

/-- Bytes of a size; none for an atomic. -/
def sizeBytes : AccSize → Nat
  | .b1 => 1
  | .b2 => 2
  | .b4 => 4
  | .b8 => 8
  | .amo => 0

/-- The status that an access's size and address give before anything is done: UNSUPPORTED, MISALIGNED, or none. -/
def sizeStop (size : AccSize) (a : Nat) : Nat :=
  if size = .amo then 8 else if a % sizeBytes size ≠ 0 then 6 else 0

/-- A read of one size: 64 bits as two words, the lower first, ending with the lower's error; 8 and 16 bits as one word. -/
def State.readSized (s : State) (f : State → Nat → Place) (req a : Nat) (size : AccSize) : State × Nat × List Byte :=
  if sizeStop size a ≠ 0 then (s, sizeStop size a, [])
  else
    let w := State.readAt f req .none 4 (a / 4 * 4) 4 s
    if w.2.1 ≠ 0 then w
    else if size = .b8 then
      let h := State.readAt f req .none 4 (a + 4) 4 w.1
      (h.1, h.2.1, w.2.2 ++ h.2.2)
    else (w.1, 0, slice w.2.2 (a % 4) (sizeBytes size))

/-- A write of one size (R450, R451). -/
def State.writeSized (s : State) (f : State → Nat → Place) (w : Writer) (a : Nat) (size : AccSize) (v : Nat) : State × Nat :=
  if sizeStop size a ≠ 0 then (s, sizeStop size a)
  else if size = .b8 then
    let lo := State.writeAt f w 4 a (leBytes v 4) s
    if lo.2 ≠ 0 then lo else State.writeAt f w 4 (a + 4) (leBytes (v / 0x100000000) 4) lo.1
  else State.writeAt f w 4 a (leBytes v (sizeBytes size)) s

/-- How an access ends: an error as an access fault (R449); a write that a read-only address does not take ends without one. -/
def State.endAccess (s : State) (req addr status : Nat) (r : Resp) : State :=
  if status = 0 ∨ status = readOnly then s.respond r else s.accessFault req addr status

/-- The writer of a core's access. -/
def State.coreWriter (s : State) (req : Nat) : Writer := { req := req, path := s.pathOf req, die := 8 }

/-! ## Prefetched lines (R453-R457) -/

/-- Prefetch lines of a sender that a write overlaps are invalidated first (R456). -/
def State.cutLines (s : State) (st m a n : Nat) : State :=
  if st < 4 then s else s.dropLines st m (fun l => decide (l.addr < a + n) && decide (a < l.addr + 256))

/-- Whether an address lies in an active prefetch mark of a steward's module (R453, R455). -/
def State.inMark (s : State) (st m a : Nat) : Bool :=
  decide (4 ≤ st) && s.bit (brs st m + BRS.PF_CTL) 0 && (List.range 8).any (fun i =>
    let k := brs st m + BRS.PF_BASE + 0x10 * i
    s.bit (k + 8) 0 && decide (s.rdN k * 4096 ≤ a) && decide (a < s.fld (k + 8) 31 4 * 4096))

/-- Words of a line that a read of `n` bytes at `a` takes. -/
def lineWords (a n : Nat) : List Nat := (List.range ((a % 4 + n + 3) / 4)).map (fun i => a % 256 / 4 + i)

/-- A core's read answered from a line, if one holds it (R456). -/
def State.lineHit (s : State) (st m a n : Nat) : Option State :=
  match (s.modS st m).lines.find? (fun l => l.addr == a / 256 * 256 && decide (s.cycle < l.at_ + s.fld (brs st m + BRS.PF_CTL) 27 16)) with
  | some l =>
    let l' : PfLine := { l with got := l.got ++ (lineWords a n).filter (fun w => !l.got.contains w) }
    some (((s.updMod st m (fun v => { v with lines := v.lines.erase l ++ [l'] })).inc (modKey st m BRS.PF_HIT)).respond
      (.bytes (slice l.data (a % 256) n)))
  | none => none

/-- A line kept at a module: four of them, the least recently used replaced (R456). -/
def State.keepLine (s : State) (st m : Nat) (l : PfLine) : State :=
  let s1 := s.dropLines st m (fun x => x.addr == l.addr)
  let s2 := if 4 ≤ (s1.modS st m).lines.length then
      (let old := (s1.modS st m).lines.headD l
       s1.dropLines st m (fun x => x.addr == old.addr))
    else s1
  s2.updMod st m (fun v => { v with lines := v.lines ++ [l] })

/-- The module and the address in its steward's map by which a steward's core reaches a register of another die (R39). -/
def bridgeTo (st die off : Nat) : Option (Nat × Nat) :=
  if st = die ∨ 0x80000000 ≤ off ∧ 4 ≤ die then none
  else if die < 4 then some (die, 0x2000000000 + die * 0x100000000 + off) else some (4, 0x5000000000 + off)

/-- A register written with an access of any size. -/
def State.regWriteOne (s : State) (die off req : Nat) (size : AccSize) (v : Nat) : State :=
  let s0 := match (reqSteward req).bind (fun st => (bridgeTo st die off).map (fun b => (st, b))) with
    | some (st, m, a) => s.cutLines st m a (sizeBytes size)
    | none => s
  let r := s0.writeSized (fun s a => s.placeFrom req die a) (s0.coreWriter req) off size v
  r.1.endAccess req (keyAddr (dk die + off)) r.2 .none

/-- A register read with an access of any size, without the prefetch of its bridge. -/
def State.regReadPlain (s : State) (die off req : Nat) (size : AccSize) : State :=
  let r := s.readSized (fun s a => s.placeFrom req die a) req off size
  r.1.endAccess req (keyAddr (dk die + off)) r.2.1 (.bytes r.2.2)

/-- A register read with an access of any size: inside an active mark it is answered from its line, or fetches its line (R453, R456). -/
def State.regReadOne (s : State) (die off req : Nat) (size : AccSize) : State :=
  match (reqSteward req).bind (fun st => (bridgeTo st die off).map (fun b => (st, b))) with
  | none => s.regReadPlain die off req size
  | some (st, m, a) =>
    if s.inMark st m a = false ∨ sizeStop size a ≠ 0 then s.regReadPlain die off req size
    else
      match s.lineHit st m a (sizeBytes size) with
      | some t => t
      | none =>
        let r := State.readAt (fun s x => s.placeFrom req die x) req .none 256 (off / 256 * 256) 256 s
        if r.2.1 ≠ 0 then r.1.endAccess req a r.2.1 .none
        else
          (r.1.keepLine st m { addr := a / 256 * 256, at_ := r.1.cycle, data := r.2.2, got := lineWords a (sizeBytes size) }).respond
            (.bytes (slice r.2.2 (a % 256) (sizeBytes size)))

/-- The block of R42 that an offset of a concentrator's window lies in, by its place in the table. -/
def blockNo (o : Nat) : Nat :=
  ([0x08000000, 0x0A000000, 0x10000000, 0x10200000, 0x10400000, 0x11000000, 0x11100000, 0x11200000, 0x11300000, 0x11400000, 0x11500000,
    0x11600000, 0x11700000, 0x11800000].filter (fun b => decide (b ≤ o))).length

/-- Whether two accesses to a die collide (R35): one over U_A and one over U_B, at one block of a concentrator. -/
def State.collide (s : State) (die off req : Nat) (r : Rival) : Bool :=
  decide (die < 4) && decide (s.pathOf req + s.pathOf r.req = 1) && blockNo off == blockNo r.off

/-- The rival's access (R35). -/
def State.rivalAccess (s : State) (die : Nat) (r : Rival) : State :=
  match r.value with
  | some v => s.regWriteOne die r.off r.req r.size v
  | none => s.regReadOne die r.off r.req r.size

/-- An access of requester `req`, and the one that collides with it: the die performs them one after the other, U_A first after its reset
and then alternating (R35). The sender of the command is answered with its own access. -/
def State.withRival (s : State) (die off req : Nat) (rival : Option Rival) (own : State → State) : State :=
  match rival with
  | none => own s
  | some r =>
    if s.collide die off req r = false then own s
    else
      let bFirst := s.ubFirst.contains die
      let s1 : State := { s with ubFirst := if bFirst then s.ubFirst.filter (fun x => x != die) else die :: s.ubFirst }
      if (s.pathOf req == 1) = bFirst then
        let t := own s1
        (t.rivalAccess die r).respond t.resp
      else own (s1.rivalAccess die r)

/-- The semaphore whose SEM_CMD two words of one cycle write over different paths, and the rival's word (R459). -/
def State.semRival (s : State) (die off req : Nat) (size : AccSize) (r : Rival) : Option (Nat × Nat) :=
  let o := off - sm die % 0x100000000
  match r.value with
  | some v =>
    if r.off = off ∧ size = .b4 ∧ r.size = .b4 ∧ sm die % 0x100000000 ≤ off ∧ o < 0x200 ∧ o % 8 = 0 ∧ semPath req ≠ semPath r.req ∧
        s.pathStop req die = 0 ∧ s.pathStop r.req die = 0 then some (o / 8, v) else none
  | none => none

/-- Two words written to one SEM_CMD in the same cycle (R458, R459): each REL first, then the ACQ of one path, or of both by the pointer. -/
def State.semBoth (s : State) (die n req v req2 v2 : Nat) : State :=
  let rel := fun (s : State) (r w : Nat) => if w.testBit 1 then s.run (execSemRel die n r) else s
  let s1 := rel (rel s req v) req2 v2
  if v.testBit 0 ∧ v2.testBit 0 then s1.run (execSemAcq die n req req2)
  else if v.testBit 0 then s1.run (execSemAcq die n req 0)
  else if v2.testBit 0 then s1.run (execSemAcq die n req2 0)
  else s1

/-- REG_WRITE (R14, R16, R17, R35, R450, R459): a register written with an access of any size. -/
def execRegWrite (die off req : Nat) (size : AccSize) (v : Nat) (rival : Option Rival) (s : State) : Res :=
  .next (match rival.bind (fun r => (s.semRival die off req size r).map (fun x => (r.req, x))) with
    | some (req2, n, v2) => (s.semBoth die n req v req2 v2).respond .none
    | none => s.withRival die off req rival (fun s => s.regWriteOne die off req size v))

/-- RC_READ (R14, R35, R450): a register read with an access of any size; what it returns is then cleared where its bits are RC. -/
def execRcRead (die off req : Nat) (size : AccSize) (rival : Option Rival) (s : State) : Res :=
  .next (s.withRival die off req rival (fun s => s.regReadOne die off req size))

/-- COUNTER_PAIR_READ (R452): the low word of a pair read; its high word is latched for the path. -/
def execCounterPairRead (die off req : Nat) (s : State) : Res :=
  let r := s.readSized (fun s a => s.placeFrom req die a) req off .b4
  .next (r.1.endAccess req (keyAddr (dk die + off)) r.2.1 (.data [wordOf (leNat r.2.2)]))

/-! ## Transactions over a module (R439-R449) -/

/-- Where a transaction that has reached an end leads: an offset of R42 on a concentrator; on a steward the map of R39, without its
windows where it came over U_X (R40). -/
def State.placeRx (s : State) (die m a : Nat) : Place :=
  if die < 4 then (if a < 0x100000000 then s.placeConc die a else .bad 1)
  else if m < 4 then s.placeSt die a
  else s.placeOwn die a

/-- The address as the sender's own map gives it (R39). -/
def senderAddr (die m a : Nat) : Nat :=
  if die < 4 then 0x2000000000 + die * 0x100000000 + a else if m < 4 then a else 0x4000000000 + a

/-- The writer of a transaction received at an end. A barge's push through a steward comes over that steward's module. -/
def State.rxWriter (die m req : Nat) : Writer :=
  { req := req, path := if die < 4 then m else if m < 4 then die - 4 else partner die - 4, die := m }

/-- Why a transaction does not leave its sender: LINK_DOWN, PEER_LOST, UNMAPPED where there is no far die, or none. -/
def State.sendStop (s : State) (die m : Nat) : Nat :=
  let f := farEnd die m
  if s.modOk die m = false then 1
  else if 4 ≤ die ∧ m = 4 ∧ s.peerLost f.1 = true then 2
  else s.hop f.1 f.2

/-- Whether LEN and the address of a transaction are as R439 lays down. -/
def rxLenOk (addr len : Nat) : Bool := decide (4 ≤ len) && decide (len ≤ 256) && len % 4 == 0 && addr % 4 == 0

/-- A WR sent, received and performed in its order (R439, R442). -/
def State.takeWr (s : State) (die m : Nat) (w : PendWr) : State :=
  let f := farEnd die m
  let a := senderAddr die m w.addr
  let s1 := (s.sendTxn f.1 f.2 { op := 1, cls := 0, req := w.req, len := w.data.length, addr := w.addr } w.data).updMod die m (fun v =>
    { v with owedP := v.owedP + pUnits w.data.length })
  let r := State.writeAt (fun s x => s.placeRx die m x) (State.rxWriter die m w.req) w.data.length w.addr w.data
    (s1.cutLines f.1 f.2 a w.data.length)
  r.1.endAccess w.req a r.2 .none

/-- ODVEL_WR_RX (R34, R442, R446): a WR, performed at the end that receives it. One that is under way while the module retrains stays
unacknowledged and is sent once more after it; one that finds it in TRAINING, or finds no P credit, waits (R441). -/
def execOdvelWrRx (die m req addr : Nat) (data : List Byte) (s : State) : Res :=
  let f := farEnd die m
  let a := senderAddr die m addr
  let w : PendWr := { req := req, addr := addr, data := data }
  .next (if rxLenOk addr data.length = false then s
    else if s.sendStop die m ≠ 0 then s.accessFault req a (s.sendStop die m)
    else if s.pFree f.1 f.2 < pUnits data.length then s
    else if s.endState f.1 f.2 = 4 then s.updMod f.1 f.2 (fun v => { v with wrs := v.wrs ++ [w] })
    else if s.endState f.1 f.2 ≠ 3 then s
    else s.takeWr die m w)

/-- The writes of an end that were not acknowledged, sent once more in order after a retrain (R446). -/
def State.resend (s : State) (die m : Nat) : State :=
  let f := farEnd die m
  forEach (s.modS die m).wrs (s.updMod die m (fun v => { v with wrs := [] })) (fun s w => s.takeWr f.1 f.2 w)

/-- MODULE_RETRAIN_DONE (R446): both ends return to ACTIVE, writes not acknowledged are sent once more, and reads without their
completion end RETRAINED. -/
def execModuleRetrainDone (die m width : Nat) (s : State) : Res :=
  let f := farEnd die m
  .next (if s.endState die m = 4 ∧ s.endState f.1 f.2 = 4 then
    (((((s.modEnter die m 3).modEnter f.1 f.2 3).wrFld (modKey die m BR.MOD_STAT) 22 16 width |>.wrFld (modKey f.1 f.2 BR.MOD_STAT) 22 16
      width).resend die m).resend f.1 f.2 |>.endReads die m 3).endReads f.1 f.2 3
  else s)

/-- Whether a requester is a steward core. -/
def isCore (req : Nat) : Bool := decide (1 ≤ req) && decide (req ≤ 8)

/-- ODVEL_RD_RX (R34, R442, R449, R456): a core's read. Inside an active mark it is answered from its line, or fetches its line; else the
RD is performed at the end that receives it, and its completion is on its way. A concentrator sends none, and at most 32 are outstanding. -/
def execOdvelRdRx (die m req tag addr len : Nat) (s : State) : Res :=
  let f := farEnd die m
  let a := senderAddr die m addr
  let mark := isCore req && s.inMark f.1 f.2 a && s.inMark f.1 f.2 (a + len - 1) && decide (a % 256 + len ≤ 256)
  .next (if rxLenOk addr len = false ∨ (4 ≤ die ∧ m < 4) then s
    else if s.sendStop die m ≠ 0 then s.accessFault req a (s.sendStop die m)
    else if s.endState f.1 f.2 ≠ 3 then s
    else
      match if mark then s.lineHit f.1 f.2 a len else none with
      | some t => t
      | none =>
        if 32 ≤ (s.modS f.1 f.2).rds.length ∨ (s.modS f.1 f.2).rds.any (fun r => r.tag == tag) = true then s
        else
          let from_ := if mark then addr / 256 * 256 else addr
          let n := if mark then 256 else len
          let s1 := (s.sendTxn f.1 f.2 { op := 2, cls := 1, req := req, tag := tag, len := n, addr := from_ } []).updMod die m (fun v =>
            { v with owedNp := v.owedNp + 1 })
          let r := State.readAt (fun s x => s.placeRx die m x) req .none 256 from_ n s1
          r.1.updMod f.1 f.2 (fun v => { v with
            rds := v.rds ++ [{ tag := tag, req := req, addr := a, at_ := s.cycle, len := len, status := r.2.1, data := r.2.2 }] }))

/-- ODVEL_CPL_RX (R442, R449): the completion of the oldest read performed reaches its requester, and the read ends. -/
def execOdvelCplRx (die m tag : Nat) (s : State) : Res :=
  .next (if s.modOk die m = false then s
    else match (s.modS die m).rds with
    | [] => s
    | r :: rest =>
      if r.tag ≠ tag ∨ s.endState die m ≠ 3 then s
      else
        let f := farEnd die m
        let st := if r.status ≤ 1 then r.status else 2
        let s1 := (s.updMod die m (fun v => { v with rds := rest })).sendTxn f.1 f.2 (if r.status = 0 then
            { op := 4, cls := 2, req := r.req, tag := tag, len := r.data.length, addr := r.addr }
          else { op := 3, cls := 2, req := r.req, tag := tag, status := st, len := r.len, addr := r.addr }) r.data
        if r.status ≠ 0 then s1.rdFault r.status r
        else if r.data.length = r.len then s1.respond (.bytes r.data)
        else
          (s1.keepLine die m { addr := r.addr / 256 * 256, at_ := r.at_, data := r.data, got := lineWords r.addr r.len }).respond
            (.bytes (slice r.data (r.addr % 256) r.len)))

/-! ## The steps of a MOVE (R374, R381-R384) -/

/-- The byte addresses of the source of bytes `p` to `p + n - 1` of a MOVE's length (R383). -/
def mvSrc (w0 src total p n : Nat) : List Nat :=
  let e := mvE w0
  let ps := nbits w0 44 25 * 64
  (List.range n).map (fun i =>
    let j := (p + i) / e
    let b := (p + i) % e
    match nbits w0 59 57 with
    | 2 => src + j % mvK w0 * ps + j / mvK w0 * e + b
    | 4 => src + j % 2 * (total / 2) + j / 2 * e + b
    | 5 => src + j % 4 * (total / 4) + j / 4 * e + b
    | _ => src + p + i)

/-- The byte addresses of their destination. -/
def mvDst (w0 dst p n : Nat) : List Nat :=
  let e := mvE w0
  let ps := nbits w0 44 25 * 64
  (List.range n).map (fun i =>
    let j := (p + i) / e
    let b := (p + i) % e
    match nbits w0 59 57 with
    | 1 => dst + j % mvK w0 * ps + j / mvK w0 * e + b
    | _ => dst + p + i)

/-- One group of a BITPLANE shuffle: byte k holds bit k of the eight values (R383). -/
def bitPlane (e : Nat) (g : List Byte) : List Byte :=
  (List.range (8 * e)).map (fun k => BitVec.ofNat 8 ((List.range 8).foldl (fun n i =>
    n + b2n ((leAt g (i * e) e).testBit k) * 2 ^ i) 0))

/-- The bytes of a step after its shuffle; a step of BITPLANE holds whole groups. -/
def shuffled (w0 : Nat) (l : List Byte) : List Byte :=
  if nbits w0 59 57 = 3 then
    (List.range (l.length / (8 * mvE w0))).flatMap (fun g => bitPlane (mvE w0) (slice l (8 * mvE w0 * g) (8 * mvE w0)))
  else l

/-- Runs of consecutive addresses, each with its first address and the bytes that go with it. -/
def runsOf : List (Nat × Byte) → List (Nat × List Byte)
  | [] => []
  | (a, b) :: t =>
    match runsOf t with
    | [] => [(a, [b])]
    | (a', bs) :: r => if a + 1 = a' then (a, b :: bs) :: r else (a, [b]) :: (a', bs) :: r

/-- The steward a channel targets (R397). -/
def State.chTarget (s : State) (die e c : Nat) : Nat := 4 + s.fld (bgc die e c + BG.CH_CFG) 0 0

/-- Where a barge's write leads (R373): its die's window, or the target's map over the die's module. -/
def State.placeBarge (s : State) (die st : Nat) (loc : Bool) (a : Nat) : Place :=
  if loc then s.placeConc die a
  else if s.modOk die (st - 4) = false then .bad 1
  else if s.hop die (st - 4) ≠ 0 then .bad 4
  else s.placeSt st a

/-- The writer of a channel's write: over its target's module where it pushes to a queue. -/
def bargeWriter (die st : Nat) (tail : Option (Nat × Nat)) : Writer := { req := 0x10, path := st - 4, die := die, tail := tail }

/-- Runs of bytes written, up to the first that fails. -/
def State.writeRuns (f : State → Nat → Place) (w : Writer) : List (Nat × List Byte) → State → State × Nat
  | [], s => (s, 0)
  | (a, bs) :: t, s =>
    let r := State.writeAt f w bs.length a bs s
    if r.2 ≠ 0 then r else State.writeRuns f w t r.1

/-- Runs of addresses read, up to the first that fails. -/
def State.readRuns (f : State → Nat → Place) (err : PopErr) : List (Nat × List Byte) → State → State × Nat × List Byte
  | [], s => (s, 0, [])
  | (a, bs) :: t, s =>
    let r := State.readAt f 0x10 err bs.length a bs.length s
    if r.2.1 ≠ 0 then r
    else
      let u := State.readRuns f .none t r.1
      (u.1, u.2.1, r.2.2 ++ u.2.2)

/-- The size of the next step (R374): up to a 256-byte boundary of the destination without a shuffle, whole groups with one. -/
def State.stepLen (s : State) (die e c : Nat) (m : MoveRun) : Nat :=
  let w0 := m.words.getD 0 0
  let p := m.total - m.left
  if nbits w0 59 57 ≠ 0 then Nat.min m.left (256 / mvG w0 * mvG w0)
  else
    let d := if nbits w0 54 53 = 2 then s.ringTotal die e c else m.dst + p
    Nat.min m.left (256 - d % 256)

/-- The bytes of a step as they leave the source: a pattern, the cursor, records of a queue, or the die's window. A status where a read
ends with one. -/
def State.stepData (s : State) (die : Nat) (m : MoveRun) (n : Nat) (err : PopErr) : State × Nat × List Byte :=
  let w0 := m.words.getD 0 0
  let p := m.total - m.left
  match nbits w0 56 55 with
  | 1 => (s, 0, (List.range n).map (fun i => BitVec.ofNat 8 (m.words.getD 1 0 / 256 ^ ((p + i) % 8))))
  | 2 => (s, 0, slice (leBytes m.cursor 8) p n)
  | _ =>
    match m.queue with
    | some q =>
      let r := s.popRead die q n err
      (r.1, 0, r.2)
    | none => State.readRuns (fun s a => s.placeConc die a) err (runsOf ((mvSrc w0 m.src m.total p n).map (fun a => (a, 0#8)))) s

/-- The ring entry of the target whose tail pointer a CURSOR MOVE writes (R419). -/
def State.tailOf (s : State) (die e c : Nat) (m : MoveRun) (n : Nat) : Option (Nat × Nat) :=
  let st := s.chTarget die e c
  let w0 := m.words.getD 0 0
  if nbits w0 56 55 = 2 ∧ nbits w0 54 53 = 1 ∧ n = 8 then
    ((s.ringsOf st die e c).find? (fun k => s.rdPair (epb st + EP.RING_TAIL_LO + 0x20 * k) (epb st + EP.RING_TAIL_HI + 0x20 * k) == m.dst)).map
      (fun k => (k, m.cursor))
  else none

/-- What a step that has moved leaves in the channel (R374, R381, R384); the last step ends the MOVE. -/
def State.stepDone (s : State) (die e c : Nat) (m : MoveRun) (n acc : Nat) (data : List Byte) : State :=
  let st := s.chTarget die e c
  let s1 := if nbits (m.words.getD 0 0) 54 53 = 2 then
      (let t := (s.setTotal die e c (s.ringTotal die e c + n)).setCredit die e c (s.ringCredit die e c - n)
       forEach (s.ringsOf st die e c) t (fun t k => t.ledgerFeed st k data))
    else s
  let odd := (s1.chan die e c).odd + n
  let s2 := (s1.addSat (bgn die e c + BG.BYTES) (odd / 64)).updChan die e c (fun v => { v with
    acc := acc - 256 * n
    accAt := s.cycle
    odd := odd % 64
    failAt := none
    retries := 0
    mv := if m.left ≤ n then none else some { m with left := m.left - n } })
  if m.left ≤ n then (s2.goPc die e c ((s.chan die e c).pc + 5)).recFree die else s2

/-- The next step attempted: the channel after it, or the status with which it failed, and then nothing has moved. -/
def State.tryStep (s : State) (die e c : Nat) (m : MoveRun) (err : PopErr) : State × Nat :=
  let w0 := m.words.getD 0 0
  let ds := nbits w0 54 53
  let st := s.chTarget die e c
  let n := s.stepLen die e c m
  let k := bgc die e c
  let base := s.rdPair (k + BG.RING_BASE_LO) (k + BG.RING_BASE_HI)
  let dst := if ds = 2 then (List.range n).map (fun i => base + (s.ringTotal die e c + i) % 2 ^ s.fld (k + BG.RING_LOG) 5 0)
    else mvDst w0 m.dst (m.total - m.left) n
  let f := fun (s : State) a => s.placeBarge die st (ds == 0) a
  let w := bargeWriter die st (s.tailOf die e c m n)
  let dry := State.writeRuns f w (runsOf (dst.map (fun a => (a, 0#8)))) s
  if dry.2 ≠ 0 then (s, dry.2)
  else
    let r := s.stepData die m n err
    if r.2.1 ≠ 0 then (s, r.2.1)
    else
      let out := shuffled w0 r.2.2
      ((State.writeRuns f w (runsOf (dst.zip out)) r.1).1.stepDone die e c m n (s.accNow die e c) out, 0)

/-- A step that failed (R388, R389, R395): logged; the channel halts when its retries are used up, and at once where it writes to a steward
and none is reachable, or through the mirror window to a lost steward (R40). -/
def State.stepFailed (s : State) (die e c : Nat) (m : MoveRun) (status : Nat) : State :=
  let ds := nbits (m.words.getD 0 0) 54 53
  let s1 := if status ≤ 9 then s.logErr die 0 status 5 0x10 (32 * e + c) m.dst else s
  if status = 2 ∨ s.fld (bg die e + BG.ENG_CFG) 2 0 ≤ (s.chan die e c).retries ∨ (ds ≠ 0 ∧ s.bit (foStat die) 2 = true) then
    (s1.halt die e c 1).updChan die e c (fun v => { v with failAt := none })
  else s1.updChan die e c (fun v => { v with failAt := some s.cycle })

/-- Whether a step must wait (R384, R388, R441): for the rate limiter, for the module to its target while that trains, or for its P
credit. -/
def State.stepWaits (s : State) (die e c : Nat) (m : MoveRun) : Bool :=
  let x := s.endState die (s.chTarget die e c - 4)
  decide (s.accNow die e c < 256 * s.stepLen die e c m) || (nbits (m.words.getD 0 0) 54 53 != 0 && (x == 2 || x == 4 ||
    decide (s.pFree die (s.chTarget die e c - 4) < pUnits (s.stepLen die e c m))))

/-- MOVE_STEP (R374, R383, R384, R388): the active channel's next step, once the rate limiter admits it. -/
def execMoveStep (die e : Nat) (err : PopErr) (s : State) : Res :=
  .next (match (s.eng die e).active with
    | none => s
    | some c =>
      let v := s.chan die e c
      match v.mv with
      | none => s
      | some m =>
        if bargeOk s die e c = false ∨ v.abort ≠ none ∨ v.failAt ≠ none ∨ s.stepWaits die e c m = true then s
        else
          let r := s.tryStep die e c m err
          if r.2 = 0 then r.1 else s.stepFailed die e c m r.2)

/-- WRITE_RETRY (R388, R389): 1 µs after a failed write. -/
def execWriteRetry (die e c : Nat) (err : PopErr) (s : State) : Res :=
  let v := s.chan die e c
  .next (match v.failAt, v.mv with
    | some t, some m =>
      if bargeOk s die e c = false ∨ v.abort ≠ none ∨ (s.eng die e).active ≠ some c ∨ s.cycle < t + usec 1 ∨
          s.stepWaits die e c m = true then s
      else
        let s1 := (s.inc (bgn die e c + BG.RETRIES)).updChan die e c (fun v => { v with retries := v.retries + 1 })
        let r := s1.tryStep die e c m err
        if r.2 = 0 then r.1 else s1.stepFailed die e c m r.2
    | _, _ => s)

/-- The status word of an aborted channel (R392), with the state before the abort. -/
def State.statusWord (s : State) (die e c resid state : Nat) : List Byte :=
  let k := bgc die e c
  leBytes (die * 4096 + e * 256 + c) 2 ++ leBytes 6 1 ++ leBytes state 1 ++ leBytes (s.chan die e c).pc 4 ++ leBytes resid 4 ++
    leBytes (s.rdN (k + BG.CH_IDX0)) 4 ++ leBytes (s.rdN (k + BG.CH_IDX1)) 4 ++ leBytes (s.rdN (k + BG.CH_IDX2)) 4 ++
    leBytes (s.ringTotal die e c) 4 ++ zeros 4

/-- ABORT_COMPLETE (R391, R392): the channel's writes have completed. -/
def execAbortComplete (die e c : Nat) (s : State) : Res :=
  .next (match (s.chan die e c).abort with
    | none => s
    | some quiet =>
      if bargeOk s die e c = false then s
      else
        let k := bgc die e c
        let resid := ((s.chan die e c).kept.map (fun m => m.left)).getD 0
        let sw := s.rdN (k + BG.CH_SW_LO) + s.fld (k + BG.CH_SW) 7 0 * 0x100000000
        let loc := !s.bit (k + BG.CH_SW) 16
        let f := fun (s : State) (a : Nat) => if loc && decide (0x08000000 ≤ a) && decide (a < 0x0A000000) then .bad 1 else s.placeBarge die (s.chTarget die e c) loc a
        let w := State.writeAt f (bargeWriter die (s.chTarget die e c) none) 32 sw (s.statusWord die e c resid (s.chState die e c)) s
        let s1 := if quiet then s else if w.2 = 0 then w.1 else s.inc (bgn die e c + BG.LATE_ERR)
        s1.abortQuiet die e c)

/-! ## Check values over memory (R600-R602) -/

/-- Whether an address of a die's own space lies in a volatile page (R454). -/
def volatileAt (die a : Nat) : Bool :=
  if die < 4 then concVolatile a
  else if 0x2000000000 ≤ a ∧ a < 0x2400000000 then concVolatile (a % 0x100000000)
  else if 0x1000000000 ≤ a ∧ a < 0x1001000000 then stewardVolatile.any (fun r => decide (r.1 ≤ a - 0x1000000000) && decide (a - 0x1000000000 < r.2))
  else if 0x5000000000 ≤ a ∧ a < 0x5001000000 then stewardVolatile.any (fun r => decide (r.1 ≤ a - 0x5000000000) && decide (a - 0x5000000000 < r.2))
  else false

/-- The place of an address in a die's own space (R601). -/
def State.placeDie (s : State) (die a : Nat) : Place :=
  if die < 4 then (if a < 0x100000000 then s.placeConc die a else .bad 1) else s.placeSt die a

/-- CK_MEM_DONE (R601, R602): a MEM-mode computation has read its LEN bytes, 64 in 16 FCLK cycles; volatile pages count as zero bytes and set SKIPPED. -/
def execCkMemDone (die u : Nat) (s : State) : Res :=
  let k := ck die u
  .next (if s.ckOk die u = false ∨ (s.ckS die u).phase ≠ 3 ∨
      s.cycle < (s.ckS die u).began + ceilDiv (s.rdN (k + CK.CK_LEN)) 64 * 16 then s
    else
      let base := s.rdN (k + CK.CK_BASE_LO) + (if die < 4 then 0 else s.fld (k + CK.CK_BASE_HI) 7 0 * 0x100000000)
      let len := s.rdN (k + CK.CK_LEN)
      let bytes := (List.range len).map (fun i =>
        if volatileAt die (base + i) then 0#8 else s.peek (s.placeDie die (base + i)) 0x20 i (base + i))
      let skip := (List.range len).any (fun i => volatileAt die (base + i))
      ((s.skipFree len).putBit (k + CK.CK_STAT) 1 skip).ckFinish die u (ckRun (s.fld (k + CK.CK_CTL) 1 0) bytes (s.ckS die u).crc))

/-! ## The system bus of debug (R671, R673) -/

/-- SYSBUS_ACCESS (R671, R673): 32 or 64 bits as REQ 0x20. OBSERVE reads outside volatile pages, FULL writes too; a read inside a volatile
page ends with sberror 2 and does not reach it. -/
def execSysbusAccess (die addr size : Nat) (write : Bool) (data : Nat) (s : State) : Res :=
  let lvl := (s.dbg die).level
  let sz : AccSize := if size = 8 then .b8 else .b4
  let f := fun (s : State) a => s.placeDie die a
  .next (if s.present die = false ∨ lvl = 0 ∨ (write = true ∧ lvl < 2) then s
    else if size ≠ 4 ∧ size ≠ 8 then s.respond (.status 4)
    else if addr % size ≠ 0 then s.respond (.status 3)
    else if write then
      let r := s.writeSized f { req := 0x20, path := if die < 4 then s.lead - 4 else die - 4, die := 8 } addr sz data
      r.1.respond (if r.2 = 0 ∨ r.2 = readOnly then .none else .status 2)
    else if volatileAt die addr then s.respond (.status 2)
    else
      let r := s.readSized f 0x20 addr sz
      r.1.respond (if r.2.1 = 0 then .bytes r.2.2 else .status 2))

end Sys2Proof.Machine
end

