-- ==== Sys2Proof/Machine/Dispatch.lean ====
section
/-! DEFINITION. One arm per command: its meaning. -/
namespace Sys2Proof.Machine

/-- The effect of a command on everything but the queue. -/
def exec (i : Instr) (s : State) : Host.Outcome State Fault Refusal :=
  match i with
  | .regWrite die off req size v rival => Sys2Proof.Machine.execRegWrite die off req size v rival s
  | .rcRead die off req size rival => Sys2Proof.Machine.execRcRead die off req size rival s
  | .counterPairRead die off req => Sys2Proof.Machine.execCounterPairRead die off req s
  | .roleMove => Sys2Proof.Machine.execRoleMove s
  | .clockLoss absent => Sys2Proof.Machine.execClockLoss absent s
  | .clockRestore present => Sys2Proof.Machine.execClockRestore present s
  | .rateActivation => Sys2Proof.Machine.execRateActivation s
  | .nowRead die req => Sys2Proof.Machine.execNowRead die req s
  | .ppscapRead die req => Sys2Proof.Machine.execPpscapRead die req s
  | .ppsEdge frac falling => Sys2Proof.Machine.execPpsEdge frac falling s
  | .ppsSourceLost => Sys2Proof.Machine.execPpsSourceLost s
  | .holdLimitExceeded => Sys2Proof.Machine.execHoldLimitExceeded s
  | .alignTick => Sys2Proof.Machine.execAlignTick s
  | .alignReplyRx die t1 rxStamp txStamp => Sys2Proof.Machine.execAlignReplyRx die t1 rxStamp txStamp s
  | .alignCorrectionRx die corr => Sys2Proof.Machine.execAlignCorrectionRx die corr s
  | .tbSet die req v => Sys2Proof.Machine.execTbSet die req v s
  | .tbSlew die req v => Sys2Proof.Machine.execTbSlew die req v s
  | .tbRate die req v => Sys2Proof.Machine.execTbRate die req v s
  | .tbCancel die req v => Sys2Proof.Machine.execTbCancel die req v s
  | .slewDone => Sys2Proof.Machine.execSlewDone s
  | .timeStep => Sys2Proof.Machine.execTimeStep s
  | .ppsOutStart => Sys2Proof.Machine.execPpsOutStart s
  | .ppsOutEnd => Sys2Proof.Machine.execPpsOutEnd s
  | .alarmCommit die alarm req v => Sys2Proof.Machine.execAlarmCommit die alarm req v s
  | .alarmFire die alarm => Sys2Proof.Machine.execAlarmFire die alarm s
  | .dealTx port => Sys2Proof.Machine.execDealTx port s
  | .dealRx port tArr groups => Sys2Proof.Machine.execDealRx port tArr groups s
  | .dealTimeout => Sys2Proof.Machine.execDealTimeout s
  | .alignMsgRx die t1 => Sys2Proof.Machine.execAlignMsgRx die t1 s
  | .lpCommit port req v => Sys2Proof.Machine.execLpCommit port req v s
  | .lpRetrain port req v => Sys2Proof.Machine.execLpRetrain port req v s
  | .lpFullRetrain port req v => Sys2Proof.Machine.execLpFullRetrain port req v s
  | .lpFaultClear port req v => Sys2Proof.Machine.execLpFaultClear port req v s
  | .lpPortReset port req v => Sys2Proof.Machine.execLpPortReset port req v s
  | .portResetOffDone port => Sys2Proof.Machine.execPortResetOffDone port s
  | .sigDet port mv held ad => Sys2Proof.Machine.execSigDet port mv held ad s
  | .coarseLock port ad => Sys2Proof.Machine.execCoarseLock port ad s
  | .trainingFrameRx port lvls ad => Sys2Proof.Machine.execTrainingFrameRx port lvls ad s
  | .eqConverged port ctle => Sys2Proof.Machine.execEqConverged port ctle s
  | .tapTimeout port => Sys2Proof.Machine.execTapTimeout port s
  | .trainTimeout port => Sys2Proof.Machine.execTrainTimeout port s
  | .headLost port => Sys2Proof.Machine.execHeadLost port s
  | .freqErr port ppm held => Sys2Proof.Machine.execFreqErr port ppm held s
  | .faultHoldExpire port => Sys2Proof.Machine.execFaultHoldExpire port s
  | .idleExit port => Sys2Proof.Machine.execIdleExit port s
  | .relockFail port => Sys2Proof.Machine.execRelockFail port s
  | .esStart port req v => Sys2Proof.Machine.execEsStart port req v s
  | .esStop port req v => Sys2Proof.Machine.execEsStop port req v s
  | .esPointDone port errors => Sys2Proof.Machine.execEsPointDone port errors s
  | .trainingSetRx port groups => Sys2Proof.Machine.execTrainingSetRx port groups s
  | .forwardBlockRx port frac lvls ad => Sys2Proof.Machine.execForwardBlockRx port frac lvls ad s
  | .markerRx port sym frac lvls ad => Sys2Proof.Machine.execMarkerRx port sym frac lvls ad s
  | .packetRx port => Sys2Proof.Machine.execPacketRx port s
  | .dlyEchoRx port => Sys2Proof.Machine.execDlyEchoRx port s
  | .headCapsRx port => Sys2Proof.Machine.execHeadCapsRx port s
  | .headReportRx port => Sys2Proof.Machine.execHeadReportRx port s
  | .busResultRx port => Sys2Proof.Machine.execBusResultRx port s
  | .gwRspRx port => Sys2Proof.Machine.execGwRspRx port s
  | .vendorRx port => Sys2Proof.Machine.execVendorRx port s
  | .beaconTx port => Sys2Proof.Machine.execBeaconTx port s
  | .dlyMarkTx port => Sys2Proof.Machine.execDlyMarkTx port s
  | .dlyMarkTimeout port markId => Sys2Proof.Machine.execDlyMarkTimeout port markId s
  | .headQueryTx port => Sys2Proof.Machine.execHeadQueryTx port s
  | .bchMsgSend port => Sys2Proof.Machine.execBchMsgSend port s
  | .txGo port req v => Sys2Proof.Machine.execTxGo port req v s
  | .busTimeout port id => Sys2Proof.Machine.execBusTimeout port id s
  | .dlyMarkRx port sym groups => Sys2Proof.Machine.execDlyMarkRx port sym groups s
  | .headQueryRx port groups => Sys2Proof.Machine.execHeadQueryRx port groups s
  | .gwReqRx port groups => Sys2Proof.Machine.execGwReqRx port groups s
  | .rxPop port req => Sys2Proof.Machine.execRxPop port req s
  | .rxStatRead port req => Sys2Proof.Machine.execRxStatRead port req s
  | .frameStart port => Sys2Proof.Machine.execFrameStart port s
  | .frameEnd port => Sys2Proof.Machine.execFrameEnd port s
  | .imageLine port => Sys2Proof.Machine.execImageLine port s
  | .genericShortPacket port => Sys2Proof.Machine.execGenericShortPacket port s
  | .sidePacket port => Sys2Proof.Machine.execSidePacket port s
  | .breakEntry port => Sys2Proof.Machine.execBreakEntry port s
  | .frameTimeout stream => Sys2Proof.Machine.execFrameTimeout stream s
  | .siCommit stream req v => Sys2Proof.Machine.execSiCommit stream req v s
  | .plCommit pipe req v => Sys2Proof.Machine.execPlCommit pipe req v s
  | .paFlush pipe req v => Sys2Proof.Machine.execPaFlush pipe req v s
  | .paCtlWrite pipe req v => Sys2Proof.Machine.execPaCtlWrite pipe req v s
  | .fsTimeRead stream req => Sys2Proof.Machine.execFsTimeRead stream req s
  | .occurrenceDecide stream fresh => Sys2Proof.Machine.execOccurrenceDecide stream fresh s
  | .pulseIssue port => Sys2Proof.Machine.execPulseIssue port s
  | .pulseWithdraw port => Sys2Proof.Machine.execPulseWithdraw port s
  | .schedCommit die req v => Sys2Proof.Machine.execSchedCommit die req v s
  | .schedCancel die req v => Sys2Proof.Machine.execSchedCancel die req v s
  | .schedCheckDone => Sys2Proof.Machine.execSchedCheckDone s
  | .schedDistFail => Sys2Proof.Machine.execSchedDistFail s
  | .schedActivate => Sys2Proof.Machine.execSchedActivate s
  | .stepAnnounce => Sys2Proof.Machine.execStepAnnounce s
  | .expLenWrite stream req v => Sys2Proof.Machine.execExpLenWrite stream req v s
  | .leadWrite port margin req v => Sys2Proof.Machine.execLeadWrite port margin req v s
  | .pipelineLine pipe asRead bufErr => Sys2Proof.Machine.execPipelineLine pipe asRead bufErr s
  | .pipelineFrameDone pipe bufErr => Sys2Proof.Machine.execPipelineFrameDone pipe bufErr s
  | .plReset pipe req v => Sys2Proof.Machine.execPlReset pipe req v s
  | .mapWrite pipe bank entry req v => Sys2Proof.Machine.execMapWrite pipe bank entry req v s
  | .finLineTake die bufErr => Sys2Proof.Machine.execFinLineTake die bufErr s
  | .finFrameDone pipe bufErr => Sys2Proof.Machine.execFinFrameDone pipe bufErr s
  | .cellRequest die producers => Sys2Proof.Machine.execCellRequest die producers s
  | .recordClose die producer h payload => Sys2Proof.Machine.execRecordClose die producer h payload s
  | .notifyRepeat die queue => Sys2Proof.Machine.execNotifyRepeat die queue s
  | .queueAgeReady die queue => Sys2Proof.Machine.execQueueAgeReady die queue s
  | .popRead die queue n err => Sys2Proof.Machine.execPopRead die queue n err s
  | .qAck die queue n => Sys2Proof.Machine.execQAck die queue n s
  | .qReplay die queue => Sys2Proof.Machine.execQReplay die queue s
  | .qFlush die queue => Sys2Proof.Machine.execQFlush die queue s
  | .replaySa die both => Sys2Proof.Machine.execReplaySa die both s
  | .replaySb die both => Sys2Proof.Machine.execReplaySb die both s
  | .pushWrite die queue path data => Sys2Proof.Machine.execPushWrite die queue path data s
  | .pushEnd die queue path m => Sys2Proof.Machine.execPushEnd die queue path m s
  | .basinBadAccess die off => Sys2Proof.Machine.execBasinBadAccess die off s
  | .directWrite die addr data => Sys2Proof.Machine.execDirectWrite die addr data s
  | .fencePushRetry die queue => Sys2Proof.Machine.execFencePushRetry die queue s
  | .chStart die e c req v => Sys2Proof.Machine.execChStart die e c req v s
  | .chAbort die e c req v => Sys2Proof.Machine.execChAbort die e c req v s
  | .chAbortQuiet die e c req v => Sys2Proof.Machine.execChAbortQuiet die e c req v s
  | .chResume die e c req v => Sys2Proof.Machine.execChResume die e c req v s
  | .chReset die e c req v => Sys2Proof.Machine.execChReset die e c req v s
  | .abortAll die e req v => Sys2Proof.Machine.execAbortAll die e req v s
  | .abortAllQuiet die e req v => Sys2Proof.Machine.execAbortAllQuiet die e req v s
  | .engineDispatch die e => Sys2Proof.Machine.execEngineDispatch die e s
  | .moveInsn die e => Sys2Proof.Machine.execMoveInsn die e s
  | .moveStep die e err => Sys2Proof.Machine.execMoveStep die e err s
  | .loopInsn die e => Sys2Proof.Machine.execLoopInsn die e s
  | .waitInsn die e => Sys2Proof.Machine.execWaitInsn die e s
  | .waitTimeRelExpire die e c => Sys2Proof.Machine.execWaitTimeRelExpire die e c s
  | .waitTimeAbsReached die e c => Sys2Proof.Machine.execWaitTimeAbsReached die e c s
  | .signalInsn die e => Sys2Proof.Machine.execSignalInsn die e s
  | .signalPulse die e c => Sys2Proof.Machine.execSignalPulse die e c s
  | .endInsn die e => Sys2Proof.Machine.execEndInsn die e s
  | .endComplete die e c => Sys2Proof.Machine.execEndComplete die e c s
  | .writeRetry die e c err => Sys2Proof.Machine.execWriteRetry die e c err s
  | .lateError die e c addr => Sys2Proof.Machine.execLateError die e c addr s
  | .abortComplete die e c => Sys2Proof.Machine.execAbortComplete die e c s
  | .ringAdd die e c req v => Sys2Proof.Machine.execRingAdd die e c req v s
  | .ringLogWrite die e c req v => Sys2Proof.Machine.execRingLogWrite die e c req v s
  | .ringTotalRead die e c req => Sys2Proof.Machine.execRingTotalRead die e c req s
  | .chCfgWrite die e c off req v => Sys2Proof.Machine.execChCfgWrite die e c off req v s
  | .functionLevelReset st => Sys2Proof.Machine.execFunctionLevelReset st s
  | .doorbell st k head => Sys2Proof.Machine.execDoorbell st k head s
  | .doorbellConfirm st k => Sys2Proof.Machine.execDoorbellConfirm st k s
  | .tailAck st k => Sys2Proof.Machine.execTailAck st k s
  | .ringVector st k => Sys2Proof.Machine.execRingVector st k s
  | .carrierMove stream st => Sys2Proof.Machine.execCarrierMove stream st s
  | .epDrain st req v => Sys2Proof.Machine.execEpDrain st req v s
  | .epDrainDone st m => Sys2Proof.Machine.execEpDrainDone st m s
  | .shedPlan st => Sys2Proof.Machine.execShedPlan st s
  | .shedHoldExpire st stream => Sys2Proof.Machine.execShedHoldExpire st stream s
  | .acceptStallExpire st => Sys2Proof.Machine.execAcceptStallExpire st s
  | .uplinkLinkChange st width rate up bme d3hot mps => Sys2Proof.Machine.execUplinkLinkChange st width rate up bme d3hot mps s
  | .postedCreditGrant st => Sys2Proof.Machine.execPostedCreditGrant st s
  | .flrComplete st => Sys2Proof.Machine.execFlrComplete st s
  | .dbShadowWrite st k req v => Sys2Proof.Machine.execDbShadowWrite st k req v s
  | .flitRx die m crcOk phyErr => Sys2Proof.Machine.execFlitRx die m crcOk phyErr s
  | .odvelWrRx die m req addr data => Sys2Proof.Machine.execOdvelWrRx die m req addr data s
  | .odvelRdRx die m req tag addr len => Sys2Proof.Machine.execOdvelRdRx die m req tag addr len s
  | .odvelCplRx die m tag => Sys2Proof.Machine.execOdvelCplRx die m tag s
  | .modCmdRetrain die m req v => Sys2Proof.Machine.execModCmdRetrain die m req v s
  | .modCmdDown die m req v => Sys2Proof.Machine.execModCmdDown die m req v s
  | .modCmdUp die m req v => Sys2Proof.Machine.execModCmdUp die m req v s
  | .moduleTrained die m width => Sys2Proof.Machine.execModuleTrained die m width s
  | .moduleRetrainDone die m width => Sys2Proof.Machine.execModuleRetrainDone die m width s
  | .retrainLimitExpire die m => Sys2Proof.Machine.execRetrainLimitExpire die m s
  | .npTimeout die m tag => Sys2Proof.Machine.execNpTimeout die m tag s
  | .pfMarkWrite st m mark req limit v => Sys2Proof.Machine.execPfMarkWrite st m mark req limit v s
  | .pfFlush st m req => Sys2Proof.Machine.execPfFlush st m req s
  | .pfLineExpire st m => Sys2Proof.Machine.execPfLineExpire st m s
  | .semAcq die n req rival => Sys2Proof.Machine.execSemAcq die n req rival s
  | .semRel die n req => Sys2Proof.Machine.execSemRel die n req s
  | .semForceOwner die req v => Sys2Proof.Machine.execSemForceOwner die req v s
  | .semForceAll die req v => Sys2Proof.Machine.execSemForceAll die req v s
  | .irqLevelChange die n => Sys2Proof.Machine.execIrqLevelChange die n s
  | .sidebandUp die m => Sys2Proof.Machine.execSidebandUp die m s
  | .snapSa die req v => Sys2Proof.Machine.execSnapSa die req v s
  | .snapSb die req v => Sys2Proof.Machine.execSnapSb die req v s
  | .swSet die req v => Sys2Proof.Machine.execSwSet die req v s
  | .swClr die req v => Sys2Proof.Machine.execSwClr die req v s
  | .ctxClaim st k req => Sys2Proof.Machine.execCtxClaim st k req s
  | .ctxComplete st k req v => Sys2Proof.Machine.execCtxComplete st k req v s
  | .kpClaim die core req => Sys2Proof.Machine.execKpClaim die core req s
  | .kpComplete die core req v => Sys2Proof.Machine.execKpComplete die core req v s
  | .channelEvent die => Sys2Proof.Machine.execChannelEvent die s
  | .clockedDelivery die => Sys2Proof.Machine.execClockedDelivery die s
  | .cellRegPulse die cell => Sys2Proof.Machine.execCellRegPulse die cell s
  | .cellStableExpire die cell => Sys2Proof.Machine.execCellStableExpire die cell s
  | .holdoffExpire die cell => Sys2Proof.Machine.execHoldoffExpire die cell s
  | .windowOpen die w => Sys2Proof.Machine.execWindowOpen die w s
  | .windowClose die w => Sys2Proof.Machine.execWindowClose die w s
  | .pinFilterAccept die pin stamp held level => Sys2Proof.Machine.execPinFilterAccept die pin stamp held level s
  | .pinPulseEnd die pin => Sys2Proof.Machine.execPinPulseEnd die pin s
  | .eventRecordWrite die => Sys2Proof.Machine.execEventRecordWrite die s
  | .relayForward st => Sys2Proof.Machine.execRelayForward st s
  | .relayMsgRx die => Sys2Proof.Machine.execRelayMsgRx die s
  | .relayEmit die => Sys2Proof.Machine.execRelayEmit die s
  | .efCommit die req v => Sys2Proof.Machine.execEfCommit die req v s
  | .efCheckDone die => Sys2Proof.Machine.execEfCheckDone die s
  | .efShadowWrite die off req v => Sys2Proof.Machine.execEfShadowWrite die off req v s
  | .cellClr die cell req v => Sys2Proof.Machine.execCellClr die cell req v s
  | .swPulse die req v => Sys2Proof.Machine.execSwPulse die req v s
  | .axisCount axis levels stamp held => Sys2Proof.Machine.execAxisCount axis levels stamp held s
  | .axisIndex axis stamp held => Sys2Proof.Machine.execAxisIndex axis stamp held s
  | .ssiPoll axis => Sys2Proof.Machine.execSsiPoll axis s
  | .ssiFrameDone axis word highOk => Sys2Proof.Machine.execSsiFrameDone axis word highOk s
  | .observerUpdate axis => Sys2Proof.Machine.execObserverUpdate axis s
  | .illWinExpire axis => Sys2Proof.Machine.execIllWinExpire axis s
  | .axCommit axis req v => Sys2Proof.Machine.execAxCommit axis req v s
  | .axRef axis req v => Sys2Proof.Machine.execAxRef axis req v s
  | .armHome axis req v => Sys2Proof.Machine.execArmHome axis req v s
  | .clrCount axis req v => Sys2Proof.Machine.execClrCount axis req v s
  | .axisRecPeriodic axis => Sys2Proof.Machine.execAxisRecPeriodic axis s
  | .axisRecordWrite axis => Sys2Proof.Machine.execAxisRecordWrite axis s
  | .axisCountRead axis req => Sys2Proof.Machine.execAxisCountRead axis req s
  | .journalTake st k poison => Sys2Proof.Machine.execJournalTake st k poison s
  | .commitNow st req v => Sys2Proof.Machine.execCommitNow st req v s
  | .commitLatMax st => Sys2Proof.Machine.execCommitLatMax st s
  | .commitLatMin st => Sys2Proof.Machine.execCommitLatMin st s
  | .appendDone st lane lba ok => Sys2Proof.Machine.execAppendDone st lane lba ok s
  | .appendRetry st lane => Sys2Proof.Machine.execAppendRetry st lane s
  | .flushDone st ok => Sys2Proof.Machine.execFlushDone st ok s
  | .anchorWriteDone st peerOk => Sys2Proof.Machine.execAnchorWriteDone st peerOk s
  | .driveLost st => Sys2Proof.Machine.execDriveLost st s
  | .forwardedRecordRx st => Sys2Proof.Machine.execForwardedRecordRx st s
  | .jseqLease st => Sys2Proof.Machine.execJseqLease st s
  | .budgetUpdate st => Sys2Proof.Machine.execBudgetUpdate st s
  | .wearRead st units pct media endurance => Sys2Proof.Machine.execWearRead st units pct media endurance s
  | .driveAsyncEvent st => Sys2Proof.Machine.execDriveAsyncEvent st s
  | .clipTrigger st => Sys2Proof.Machine.execClipTrigger st s
  | .clipWindowClose st clip => Sys2Proof.Machine.execClipWindowClose st clip s
  | .prerollExpire st => Sys2Proof.Machine.execPrerollExpire st s
  | .weirEnter => Sys2Proof.Machine.execWeirEnter s
  | .weirExit => Sys2Proof.Machine.execWeirExit s
  | .journalRecovery st lanes full badSlots corrected => Sys2Proof.Machine.execJournalRecovery st lanes full badSlots corrected s
  | .detach st req v => Sys2Proof.Machine.execDetach st req v s
  | .attach st req v => Sys2Proof.Machine.execAttach st req v s
  | .initDrive st req v => Sys2Proof.Machine.execInitDrive st req v s
  | .rescan st req v => Sys2Proof.Machine.execRescan st req v s
  | .driveProbe st d => Sys2Proof.Machine.execDriveProbe st d s
  | .driveRemoved st => Sys2Proof.Machine.execDriveRemoved st s
  | .driveLinkTry st trains => Sys2Proof.Machine.execDriveLinkTry st trains s
  | .pwrFail low => Sys2Proof.Machine.execPwrFail low s
  | .railUndervolt die rail mv ns => Sys2Proof.Machine.execRailUndervolt die rail mv ns s
  | .huTestStart st => Sys2Proof.Machine.execHuTestStart st s
  | .testNow st req v => Sys2Proof.Machine.execTestNow st req v s
  | .huTestRetry st => Sys2Proof.Machine.execHuTestRetry st s
  | .huSample st code => Sys2Proof.Machine.execHuSample st code s
  | .huTestTimeout st => Sys2Proof.Machine.execHuTestTimeout st s
  | .huResultRx st => Sys2Proof.Machine.execHuResultRx st s
  | .huResultExpire st => Sys2Proof.Machine.execHuResultExpire st s
  | .windowUpdate st => Sys2Proof.Machine.execWindowUpdate st s
  | .finalDone st shst => Sys2Proof.Machine.execFinalDone st shst s
  | .powerResume high => Sys2Proof.Machine.execPowerResume high s
  | .huCommit st req v => Sys2Proof.Machine.execHuCommit st req v s
  | .heartbeatTx die m => Sys2Proof.Machine.execHeartbeatTx die m s
  | .heartbeatRx die m => Sys2Proof.Machine.execHeartbeatRx die m s
  | .heartbeatMiss die m => Sys2Proof.Machine.execHeartbeatMiss die m s
  | .failoverRestart st => Sys2Proof.Machine.execFailoverRestart st s
  | .peerReset st req v => Sys2Proof.Machine.execPeerReset st req v s
  | .plannedStop st req v => Sys2Proof.Machine.execPlannedStop st req v s
  | .cancelStop st req v => Sys2Proof.Machine.execCancelStop st req v s
  | .plannedStopExpire st => Sys2Proof.Machine.execPlannedStopExpire st s
  | .returnHoldExpire st => Sys2Proof.Machine.execReturnHoldExpire st s
  | .stackFailed st training words => Sys2Proof.Machine.execStackFailed st training words s
  | .keeperWatchdog die core => Sys2Proof.Machine.execKeeperWatchdog die core s
  | .scrubRead die addr data check meets last => Sys2Proof.Machine.execScrubRead die addr data check meets last s
  | .passLate die => Sys2Proof.Machine.execPassLate die s
  | .ckStart die u req v => Sys2Proof.Machine.execCkStart die u req v s
  | .ckStop die u req v => Sys2Proof.Machine.execCkStop die u req v s
  | .ckMemDone die u => Sys2Proof.Machine.execCkMemDone die u s
  | .mbRequest st req v => Sys2Proof.Machine.execMbRequest st req v s
  | .mbDone st => Sys2Proof.Machine.execMbDone st s
  | .mbRelease st req v => Sys2Proof.Machine.execMbRelease st req v s
  | .dictRequest call => Sys2Proof.Machine.execDictRequest call s
  | .storeDone => Sys2Proof.Machine.execStoreDone s
  | .atTime => Sys2Proof.Machine.execAtTime s
  | .gwTimeout port tr => Sys2Proof.Machine.execGwTimeout port tr s
  | .usdoTransfer st write idx sub off len data => Sys2Proof.Machine.execUsdoTransfer st write idx sub off len data s
  | .rpdoRx st n data => Sys2Proof.Machine.execRpdoRx st n data s
  | .syncRx st => Sys2Proof.Machine.execSyncRx st s
  | .tpdoEventTimer st n => Sys2Proof.Machine.execTpdoEventTimer st n s
  | .tpdoChangeCheck st => Sys2Proof.Machine.execTpdoChangeCheck st s
  | .nmtCommand st cmd node => Sys2Proof.Machine.execNmtCommand st cmd node s
  | .canHeartbeatTx st => Sys2Proof.Machine.execCanHeartbeatTx st s
  | .busOff st errs => Sys2Proof.Machine.execBusOff st errs s
  | .busOffRecover st => Sys2Proof.Machine.execBusOffRecover st s
  | .recover st req v => Sys2Proof.Machine.execRecover st req v s
  | .i2cPointerWrite st addr ptr => Sys2Proof.Machine.execI2cPointerWrite st addr ptr s
  | .i2cRequest st data => Sys2Proof.Machine.execI2cRequest st data s
  | .i2cRead st addr n late cut => Sys2Proof.Machine.execI2cRead st addr n late cut s
  | .stuckRelease st held => Sys2Proof.Machine.execStuckRelease st held s
  | .sclTimeout st low => Sys2Proof.Machine.execSclTimeout st low s
  | .rsAbandon st restart => Sys2Proof.Machine.execRsAbandon st restart s
  | .i2cReset st req v => Sys2Proof.Machine.execI2cReset st req v s
  | .flashProgram st req v => Sys2Proof.Machine.execFlashProgram st req v s
  | .erase4k st req v => Sys2Proof.Machine.execErase4k st req v s
  | .erase64k st req v => Sys2Proof.Machine.execErase64k st req v s
  | .qspiDone st ok => Sys2Proof.Machine.execQspiDone st ok s
  | .idcode => Sys2Proof.Machine.execIdcode s
  | .bypass => Sys2Proof.Machine.execBypass s
  | .samplePreload => Sys2Proof.Machine.execSamplePreload s
  | .extest => Sys2Proof.Machine.execExtest s
  | .clampBalls => Sys2Proof.Machine.execClampBalls s
  | .highZ => Sys2Proof.Machine.execHighZ s
  | .dtmcs => Sys2Proof.Machine.execDtmcs s
  | .dmi op addr data => Sys2Proof.Machine.execDmi op addr data s
  | .dieSel v => Sys2Proof.Machine.execDieSel v s
  | .debugAuth die level => Sys2Proof.Machine.execDebugAuth die level s
  | .authLockoutExpire die => Sys2Proof.Machine.execAuthLockoutExpire die s
  | .jtagTrst => Sys2Proof.Machine.execJtagTrst s
  | .debugHalt die hart => Sys2Proof.Machine.execDebugHalt die hart s
  | .debugResume die hart => Sys2Proof.Machine.execDebugResume die hart s
  | .debugStep die hart => Sys2Proof.Machine.execDebugStep die hart s
  | .sysbusAccess die addr size write data => Sys2Proof.Machine.execSysbusAccess die addr size write data s
  | .ndmreset die => Sys2Proof.Machine.execNdmreset die s
  | .dbgHaltLimit st => Sys2Proof.Machine.execDbgHaltLimit st s
  | .railReset die rail mv ns => Sys2Proof.Machine.execRailReset die rail mv ns s
  | .resetAssert => Sys2Proof.Machine.execResetAssert s
  | .resetRelease profSel => Sys2Proof.Machine.execResetRelease profSel s
  | .bootRom st r => Sys2Proof.Machine.execBootRom st r s
  | .bootReady st req v => Sys2Proof.Machine.execBootReady st req v s
  | .leadWaitExpire st => Sys2Proof.Machine.execLeadWaitExpire st s
  | .bootWarm st req v => Sys2Proof.Machine.execBootWarm st req v s
  | .bootShutdown st req v => Sys2Proof.Machine.execBootShutdown st req v s
  | .bootRetry st req v => Sys2Proof.Machine.execBootRetry st req v s
  | .pfWaitEnd st high => Sys2Proof.Machine.execPfWaitEnd st high s
  | .kpLoadData die req v => Sys2Proof.Machine.execKpLoadData die req v s
  | .kpVerify die req v => Sys2Proof.Machine.execKpVerify die req v s
  | .verifyDone die => Sys2Proof.Machine.execVerifyDone die s
  | .reqIdle die req v => Sys2Proof.Machine.execReqIdle die req v s
  | .kpIdle die req v => Sys2Proof.Machine.execKpIdle die req v s
  | .kpHoldWrite die req v => Sys2Proof.Machine.execKpHoldWrite die req v s
  | .rootCommit st req v => Sys2Proof.Machine.execRootCommit st req v s
  | .upPerst st => Sys2Proof.Machine.execUpPerst st s
  | .drPerstRelease st => Sys2Proof.Machine.execDrPerstRelease st s
  | .sequenceFault => Sys2Proof.Machine.execSequenceFault s
  | .pccFrame die status low => Sys2Proof.Machine.execPccFrame die status low s
  | .pccFltFall die status => Sys2Proof.Machine.execPccFltFall die status s
  | .pgTimeout port => Sys2Proof.Machine.execPgTimeout port s
  | .overtemp die temp => Sys2Proof.Machine.execOvertemp die temp s
  | .overtempCritical die temp ns => Sys2Proof.Machine.execOvertempCritical die temp ns s

end Sys2Proof.Machine
end

