-- ==== Sys2Proof/Machine/Step.lean ====
section
/-! DEFINITION. One step of the block: the command at the front of the queue, or a cycle of FCLK where none waits (log entries 1 and 2). -/
namespace Sys2Proof.Machine
set_option Elab.async false

/-- One FCLK cycle with no command: the event fabric of each concentrator is evaluated (R483, R484), the read side of each landing FIFO takes a
line (R160), and the counters of the dies advance (R43, R52). -/
def State.idle (s : State) : State := (forEach s.concs s (fun s d => s.efIdle d)).fifoLines.tick

/-- One step: the front command is taken from the queue and executed; with an empty queue one cycle passes. -/
def step (s : State) : Host.Outcome State Fault Refusal :=
  match s.pending with
  | [] => .next s.idle
  | c :: rest => exec c { s with pending := rest }

/-- The state with the command that a word spells at the front of its queue; as it is where the word spells none. -/
def State.withFetchWord (s : State) (nbits w : Nat) : State :=
  match Sys2Proof.decodeTableWord nbits w with
  | some c => { s with pending := c :: s.pending }
  | none => s

end Sys2Proof.Machine
end

