-- ==== Sys2Proof/WellFormed.lean ====
section
/-! DEFINITION. Which commands name things that the largest part has: dies, stewards, ports, streams and the other numbered units, requesters
and words. Every meaning is total, and a command that names no such thing has no effect. -/
namespace Sys2Proof
set_option Elab.async false

/-- A numbered thing that an operand names. -/
inductive Site where
  | die (n : Nat)
  | conc (n : Nat)
  | steward (n : Nat)
  | module (die m : Nat)
  | port (n : Nat)
  | stream (n : Nat)
  | pipe (n : Nat)
  | axis (n : Nat)
  | engine (n : Nat)
  | channel (n : Nat)
  | queue (n : Nat)
  | producer (n : Nat)
  | path (n : Nat)
  | bank (n : Nat)
  | ring (n : Nat)
  | context (n : Nat)
  | entry (n : Nat)
  | alarm (n : Nat)
  | cell (n : Nat)
  | window (n : Nat)
  | core (n : Nat)
  | hart (n : Nat)
  | unit (die n : Nat)
  | sem (n : Nat)
  | mark (n : Nat)
  | lane (n : Nat)
  | rail (n : Nat)
  | profSel (n : Nat)
  | requester (n : Nat)
  | word (n : Nat)
  | levels (n : Nat) (l : List Nat)
  | groups (l : List Nat)
  deriving DecidableEq, Repr

/-- Whether the largest part has what a site names: dies 0-3 C0-C3, 4 SA, 5 SB (R1, R7, R22); 4,096 queues and 1,292 producers (R333, R344);
16 engines of 32 channels (R364); 1,024 rings (R418); 8 contexts (R465); 64 journal ring entries (R533); 16 alarms (R71); 16 cells and 8
windows (R479, R483); the requesters of R439; registers of 32 bits (R14); symbols of a block or training
frame as level indices (R95, R106, R142) and code groups of 10 bits (R108). -/
def Site.ok : Site → Bool
  | .die n => decide (n < 6)
  | .conc n => decide (n < 4)
  | .steward n => n == 4 || n == 5
  | .module d m => decide (d < 6) && decide (m < if d < 4 then 2 else 5)
  | .port n => decide (n < 128)
  | .stream n => decide (n < 512)
  | .pipe n => decide (n < 512)
  | .axis n => decide (n < 16)
  | .engine n => decide (n < 16)
  | .channel n => decide (n < 32)
  | .queue n => decide (n < 4096)
  | .producer n => decide (n < 1292)
  | .path n => decide (n < 4)
  | .bank n => decide (n < 2)
  | .ring n => decide (n < 1024)
  | .context n => decide (n < 8)
  | .entry n => decide (n < 64)
  | .alarm n => decide (n < 16)
  | .cell n => decide (n < 16)
  | .window n => decide (n < 8)
  | .core n => decide (n < 2)
  | .hart n => decide (n < 4)
  | .unit d n => decide (d < 6) && decide (n < if d < 4 then 8 else 4)
  | .sem n => decide (n < 64)
  | .mark n => decide (n < 8)
  | .lane n => decide (n < 8)
  | .rail n => decide (1 ≤ n) && decide (n ≤ 8)
  | .profSel n => decide (n < 4)
  | .requester n => (decide (1 ≤ n) && decide (n ≤ 10)) || n == 0x10 || n == 0x20
  | .word n => decide (n < 0x100000000)
  | .levels n l => l.length == n && l.all (fun d => decide (d < 4))
  | .groups l => l.all (fun g => decide (g < 1024))

/-- The sites of a command. -/
def Instr.sites : Instr → List Site
  | .regWrite die _ req _ _ _ => [.die die, .requester req]
  | .rcRead die _ req _ _ => [.die die, .requester req]
  | .counterPairRead die _ req => [.die die, .requester req]
  | .roleMove => []
  | .clockLoss _ => []
  | .clockRestore _ => []
  | .rateActivation => []
  | .nowRead die req => [.die die, .requester req]
  | .ppscapRead die req => [.die die, .requester req]
  | .ppsEdge _ _ => []
  | .ppsSourceLost => []
  | .holdLimitExceeded => []
  | .alignTick => []
  | .alignReplyRx die _ _ _ => [.die die]
  | .alignCorrectionRx die _ => [.die die]
  | .tbSet die req v => [.die die, .requester req, .word v]
  | .tbSlew die req v => [.die die, .requester req, .word v]
  | .tbRate die req v => [.die die, .requester req, .word v]
  | .tbCancel die req v => [.die die, .requester req, .word v]
  | .slewDone => []
  | .timeStep => []
  | .ppsOutStart => []
  | .ppsOutEnd => []
  | .alarmCommit die alarm req v => [.die die, .alarm alarm, .requester req, .word v]
  | .alarmFire die alarm => [.die die, .alarm alarm]
  | .dealTx port => [.port port]
  | .dealRx port _ groups => [.port port, .groups groups]
  | .dealTimeout => []
  | .alignMsgRx die _ => [.die die]
  | .lpCommit port req v => [.port port, .requester req, .word v]
  | .lpRetrain port req v => [.port port, .requester req, .word v]
  | .lpFullRetrain port req v => [.port port, .requester req, .word v]
  | .lpFaultClear port req v => [.port port, .requester req, .word v]
  | .lpPortReset port req v => [.port port, .requester req, .word v]
  | .portResetOffDone port => [.port port]
  | .sigDet port _ _ _ => [.port port]
  | .coarseLock port _ => [.port port]
  | .trainingFrameRx port lvls _ => [.port port, .levels 8192 lvls]
  | .eqConverged port _ => [.port port]
  | .tapTimeout port => [.port port]
  | .trainTimeout port => [.port port]
  | .headLost port => [.port port]
  | .freqErr port _ _ => [.port port]
  | .faultHoldExpire port => [.port port]
  | .idleExit port => [.port port]
  | .relockFail port => [.port port]
  | .esStart port req v => [.port port, .requester req, .word v]
  | .esStop port req v => [.port port, .requester req, .word v]
  | .esPointDone port _ => [.port port]
  | .trainingSetRx port groups => [.port port, .groups groups]
  | .forwardBlockRx port _ lvls _ => [.port port, .levels 512 lvls]
  | .markerRx port _ _ lvls _ => [.port port, .levels 512 lvls]
  | .packetRx port => [.port port]
  | .dlyEchoRx port => [.port port]
  | .headCapsRx port => [.port port]
  | .headReportRx port => [.port port]
  | .busResultRx port => [.port port]
  | .gwRspRx port => [.port port]
  | .vendorRx port => [.port port]
  | .beaconTx port => [.port port]
  | .dlyMarkTx port => [.port port]
  | .dlyMarkTimeout port _ => [.port port]
  | .headQueryTx port => [.port port]
  | .bchMsgSend port => [.port port]
  | .txGo port req v => [.port port, .requester req, .word v]
  | .busTimeout port _ => [.port port]
  | .dlyMarkRx port _ groups => [.port port, .groups groups]
  | .headQueryRx port groups => [.port port, .groups groups]
  | .gwReqRx port groups => [.port port, .groups groups]
  | .rxPop port req => [.port port, .requester req]
  | .rxStatRead port req => [.port port, .requester req]
  | .frameStart port => [.port port]
  | .frameEnd port => [.port port]
  | .imageLine port => [.port port]
  | .genericShortPacket port => [.port port]
  | .sidePacket port => [.port port]
  | .breakEntry port => [.port port]
  | .frameTimeout stream => [.stream stream]
  | .siCommit stream req v => [.stream stream, .requester req, .word v]
  | .plCommit pipe req v => [.pipe pipe, .requester req, .word v]
  | .paFlush pipe req v => [.pipe pipe, .requester req, .word v]
  | .paCtlWrite pipe req v => [.pipe pipe, .requester req, .word v]
  | .fsTimeRead stream req => [.stream stream, .requester req]
  | .occurrenceDecide stream _ => [.stream stream]
  | .pulseIssue port => [.port port]
  | .pulseWithdraw port => [.port port]
  | .schedCommit die req v => [.die die, .requester req, .word v]
  | .schedCancel die req v => [.die die, .requester req, .word v]
  | .schedCheckDone => []
  | .schedDistFail => []
  | .schedActivate => []
  | .stepAnnounce => []
  | .expLenWrite stream req v => [.stream stream, .requester req, .word v]
  | .leadWrite port _ req v => [.port port, .requester req, .word v]
  | .pipelineLine pipe _ _ => [.pipe pipe]
  | .pipelineFrameDone pipe _ => [.pipe pipe]
  | .plReset pipe req v => [.pipe pipe, .requester req, .word v]
  | .mapWrite pipe bank _ req v => [.pipe pipe, .bank bank, .requester req, .word v]
  | .finLineTake die _ => [.conc die]
  | .finFrameDone pipe _ => [.pipe pipe]
  | .cellRequest die _ => [.conc die]
  | .recordClose die producer _ _ => [.conc die, .producer producer]
  | .notifyRepeat die queue => [.conc die, .queue queue]
  | .queueAgeReady die queue => [.conc die, .queue queue]
  | .popRead die queue _ _ => [.conc die, .queue queue]
  | .qAck die queue _ => [.conc die, .queue queue]
  | .qReplay die queue => [.conc die, .queue queue]
  | .qFlush die queue => [.conc die, .queue queue]
  | .replaySa die _ => [.conc die]
  | .replaySb die _ => [.conc die]
  | .pushWrite die queue path _ => [.conc die, .queue queue, .path path]
  | .pushEnd die queue path _ => [.conc die, .queue queue, .path path]
  | .basinBadAccess die _ => [.conc die]
  | .directWrite die _ _ => [.conc die]
  | .fencePushRetry die queue => [.conc die, .queue queue]
  | .chStart die e c req v => [.conc die, .engine e, .channel c, .requester req, .word v]
  | .chAbort die e c req v => [.conc die, .engine e, .channel c, .requester req, .word v]
  | .chAbortQuiet die e c req v => [.conc die, .engine e, .channel c, .requester req, .word v]
  | .chResume die e c req v => [.conc die, .engine e, .channel c, .requester req, .word v]
  | .chReset die e c req v => [.conc die, .engine e, .channel c, .requester req, .word v]
  | .abortAll die e req v => [.conc die, .engine e, .requester req, .word v]
  | .abortAllQuiet die e req v => [.conc die, .engine e, .requester req, .word v]
  | .engineDispatch die e => [.conc die, .engine e]
  | .moveInsn die e => [.conc die, .engine e]
  | .moveStep die e _ => [.conc die, .engine e]
  | .loopInsn die e => [.conc die, .engine e]
  | .waitInsn die e => [.conc die, .engine e]
  | .waitTimeRelExpire die e c => [.conc die, .engine e, .channel c]
  | .waitTimeAbsReached die e c => [.conc die, .engine e, .channel c]
  | .signalInsn die e => [.conc die, .engine e]
  | .signalPulse die e c => [.conc die, .engine e, .channel c]
  | .endInsn die e => [.conc die, .engine e]
  | .endComplete die e c => [.conc die, .engine e, .channel c]
  | .writeRetry die e c _ => [.conc die, .engine e, .channel c]
  | .lateError die e c _ => [.conc die, .engine e, .channel c]
  | .abortComplete die e c => [.conc die, .engine e, .channel c]
  | .ringAdd die e c req v => [.conc die, .engine e, .channel c, .requester req, .word v]
  | .ringLogWrite die e c req v => [.conc die, .engine e, .channel c, .requester req, .word v]
  | .ringTotalRead die e c req => [.conc die, .engine e, .channel c, .requester req]
  | .chCfgWrite die e c _ req v => [.conc die, .engine e, .channel c, .requester req, .word v]
  | .functionLevelReset st => [.steward st]
  | .doorbell st k _ => [.steward st, .ring k]
  | .doorbellConfirm st k => [.steward st, .ring k]
  | .tailAck st k => [.steward st, .ring k]
  | .ringVector st k => [.steward st, .ring k]
  | .carrierMove stream st => [.stream stream, .steward st]
  | .epDrain st req v => [.steward st, .requester req, .word v]
  | .epDrainDone st m => [.module st m, .steward st]
  | .shedPlan st => [.steward st]
  | .shedHoldExpire st stream => [.steward st, .stream stream]
  | .acceptStallExpire st => [.steward st]
  | .uplinkLinkChange st _ _ _ _ _ _ => [.steward st]
  | .postedCreditGrant st => [.steward st]
  | .flrComplete st => [.steward st]
  | .dbShadowWrite st k req v => [.steward st, .ring k, .requester req, .word v]
  | .flitRx die m _ _ => [.module die m]
  | .odvelWrRx die m req _ _ => [.module die m, .requester req]
  | .odvelRdRx die m req _ _ _ => [.module die m, .requester req]
  | .odvelCplRx die m _ => [.module die m]
  | .modCmdRetrain die m req v => [.module die m, .requester req, .word v]
  | .modCmdDown die m req v => [.module die m, .requester req, .word v]
  | .modCmdUp die m req v => [.module die m, .requester req, .word v]
  | .moduleTrained die m _ => [.module die m]
  | .moduleRetrainDone die m _ => [.module die m]
  | .retrainLimitExpire die m => [.module die m]
  | .npTimeout die m _ => [.module die m]
  | .pfMarkWrite st m i req _ v => [.module st m, .mark i, .requester req, .word v, .steward st]
  | .pfFlush st m req => [.module st m, .requester req, .steward st]
  | .pfLineExpire st m => [.module st m, .steward st]
  | .semAcq die n req _ => [.die die, .sem n, .requester req]
  | .semRel die n req => [.die die, .sem n, .requester req]
  | .semForceOwner die req v => [.die die, .requester req, .word v]
  | .semForceAll die req v => [.die die, .requester req, .word v]
  | .irqLevelChange die _ => [.conc die]
  | .sidebandUp die m => [.module die m]
  | .snapSa die req v => [.conc die, .requester req, .word v]
  | .snapSb die req v => [.conc die, .requester req, .word v]
  | .swSet die req v => [.die die, .requester req, .word v]
  | .swClr die req v => [.die die, .requester req, .word v]
  | .ctxClaim st k req => [.steward st, .context k, .requester req]
  | .ctxComplete st k req v => [.steward st, .context k, .requester req, .word v]
  | .kpClaim die core req => [.conc die, .core core, .requester req]
  | .kpComplete die core req v => [.conc die, .core core, .requester req, .word v]
  | .channelEvent die => [.conc die]
  | .clockedDelivery die => [.conc die]
  | .cellRegPulse die cell => [.conc die, .cell cell]
  | .cellStableExpire die cell => [.conc die, .cell cell]
  | .holdoffExpire die cell => [.conc die, .cell cell]
  | .windowOpen die w => [.conc die, .window w]
  | .windowClose die w => [.conc die, .window w]
  | .pinFilterAccept die _ _ _ _ => [.conc die]
  | .pinPulseEnd die _ => [.conc die]
  | .eventRecordWrite die => [.conc die]
  | .relayForward st => [.steward st]
  | .relayMsgRx die => [.conc die]
  | .relayEmit die => [.conc die]
  | .efCommit die req v => [.conc die, .requester req, .word v]
  | .efCheckDone die => [.conc die]
  | .efShadowWrite die _ req v => [.conc die, .requester req, .word v]
  | .cellClr die cell req v => [.conc die, .cell cell, .requester req, .word v]
  | .swPulse die req v => [.conc die, .requester req, .word v]
  | .axisCount axis _ _ _ => [.axis axis]
  | .axisIndex axis _ _ => [.axis axis]
  | .ssiPoll axis => [.axis axis]
  | .ssiFrameDone axis _ _ => [.axis axis]
  | .observerUpdate axis => [.axis axis]
  | .illWinExpire axis => [.axis axis]
  | .axCommit axis req v => [.axis axis, .requester req, .word v]
  | .axRef axis req v => [.axis axis, .requester req, .word v]
  | .armHome axis req v => [.axis axis, .requester req, .word v]
  | .clrCount axis req v => [.axis axis, .requester req, .word v]
  | .axisRecPeriodic axis => [.axis axis]
  | .axisRecordWrite axis => [.axis axis]
  | .axisCountRead axis req => [.axis axis, .requester req]
  | .journalTake st k _ => [.steward st, .entry k]
  | .commitNow st req v => [.steward st, .requester req, .word v]
  | .commitLatMax st => [.steward st]
  | .commitLatMin st => [.steward st]
  | .appendDone st lane _ _ => [.steward st, .lane lane]
  | .appendRetry st lane => [.steward st, .lane lane]
  | .flushDone st _ => [.steward st]
  | .anchorWriteDone st _ => [.steward st]
  | .driveLost st => [.steward st]
  | .forwardedRecordRx st => [.steward st]
  | .jseqLease st => [.steward st]
  | .budgetUpdate st => [.steward st]
  | .wearRead st _ _ _ _ => [.steward st]
  | .driveAsyncEvent st => [.steward st]
  | .clipTrigger st => [.steward st]
  | .clipWindowClose st _ => [.steward st]
  | .prerollExpire st => [.steward st]
  | .weirEnter => []
  | .weirExit => []
  | .journalRecovery st _ _ _ _ => [.steward st]
  | .detach st req v => [.steward st, .requester req, .word v]
  | .attach st req v => [.steward st, .requester req, .word v]
  | .initDrive st req v => [.steward st, .requester req, .word v]
  | .rescan st req v => [.steward st, .requester req, .word v]
  | .driveProbe st _ => [.steward st]
  | .driveRemoved st => [.steward st]
  | .driveLinkTry st _ => [.steward st]
  | .pwrFail _ => []
  | .railUndervolt die rail _ _ => [.die die, .rail rail]
  | .huTestStart st => [.steward st]
  | .testNow st req v => [.steward st, .requester req, .word v]
  | .huTestRetry st => [.steward st]
  | .huSample st _ => [.steward st]
  | .huTestTimeout st => [.steward st]
  | .huResultRx st => [.steward st]
  | .huResultExpire st => [.steward st]
  | .windowUpdate st => [.steward st]
  | .finalDone st _ => [.steward st]
  | .powerResume _ => []
  | .huCommit st req v => [.steward st, .requester req, .word v]
  | .heartbeatTx die m => [.module die m]
  | .heartbeatRx die m => [.module die m]
  | .heartbeatMiss die m => [.module die m]
  | .failoverRestart st => [.steward st]
  | .peerReset st req v => [.steward st, .requester req, .word v]
  | .plannedStop st req v => [.steward st, .requester req, .word v]
  | .cancelStop st req v => [.steward st, .requester req, .word v]
  | .plannedStopExpire st => [.steward st]
  | .returnHoldExpire st => [.steward st]
  | .stackFailed st _ _ => [.steward st]
  | .keeperWatchdog die core => [.conc die, .core core]
  | .scrubRead die _ _ _ _ _ => [.die die]
  | .passLate die => [.die die]
  | .ckStart die u req v => [.die die, .unit die u, .requester req, .word v]
  | .ckStop die u req v => [.die die, .unit die u, .requester req, .word v]
  | .ckMemDone die u => [.die die, .unit die u]
  | .mbRequest st _ v => [.steward st, .word v]
  | .mbDone st => [.steward st]
  | .mbRelease st _ v => [.steward st, .word v]
  | .dictRequest _ => []
  | .storeDone => []
  | .atTime => []
  | .gwTimeout port _ => [.port port]
  | .usdoTransfer st _ _ _ _ _ _ => [.steward st]
  | .rpdoRx st _ _ => [.steward st]
  | .syncRx st => [.steward st]
  | .tpdoEventTimer st _ => [.steward st]
  | .tpdoChangeCheck st => [.steward st]
  | .nmtCommand st _ _ => [.steward st]
  | .canHeartbeatTx st => [.steward st]
  | .busOff st _ => [.steward st]
  | .busOffRecover st => [.steward st]
  | .recover st req v => [.steward st, .requester req, .word v]
  | .i2cPointerWrite st _ _ => [.steward st]
  | .i2cRequest st _ => [.steward st]
  | .i2cRead st _ _ _ _ => [.steward st]
  | .stuckRelease st _ => [.steward st]
  | .sclTimeout st _ => [.steward st]
  | .rsAbandon st _ => [.steward st]
  | .i2cReset st req v => [.steward st, .requester req, .word v]
  | .flashProgram st req v => [.steward st, .requester req, .word v]
  | .erase4k st req v => [.steward st, .requester req, .word v]
  | .erase64k st req v => [.steward st, .requester req, .word v]
  | .qspiDone st _ => [.steward st]
  | .idcode => []
  | .bypass => []
  | .samplePreload => []
  | .extest => []
  | .clampBalls => []
  | .highZ => []
  | .dtmcs => []
  | .dmi _ _ _ => []
  | .dieSel v => [.word v]
  | .debugAuth die _ => [.die die]
  | .authLockoutExpire die => [.die die]
  | .jtagTrst => []
  | .debugHalt die hart => [.die die, .hart hart]
  | .debugResume die hart => [.die die, .hart hart]
  | .debugStep die hart => [.die die, .hart hart]
  | .sysbusAccess die _ _ _ _ => [.die die]
  | .ndmreset die => [.die die]
  | .dbgHaltLimit st => [.steward st]
  | .railReset die rail _ _ => [.die die, .rail rail]
  | .resetAssert => []
  | .resetRelease profSel => [.profSel profSel]
  | .bootRom st _ => [.steward st]
  | .bootReady st req v => [.steward st, .requester req, .word v]
  | .leadWaitExpire st => [.steward st]
  | .bootWarm st req v => [.steward st, .requester req, .word v]
  | .bootShutdown st req v => [.steward st, .requester req, .word v]
  | .bootRetry st req v => [.steward st, .requester req, .word v]
  | .pfWaitEnd st _ => [.steward st]
  | .kpLoadData die req v => [.conc die, .requester req, .word v]
  | .kpVerify die req v => [.conc die, .requester req, .word v]
  | .verifyDone die => [.conc die]
  | .reqIdle die req v => [.die die, .requester req, .word v]
  | .kpIdle die req v => [.conc die, .requester req, .word v]
  | .kpHoldWrite die req v => [.conc die, .requester req, .word v]
  | .rootCommit st req v => [.steward st, .requester req, .word v]
  | .upPerst st => [.steward st]
  | .drPerstRelease st => [.steward st]
  | .sequenceFault => []
  | .pccFrame die _ _ => [.die die]
  | .pccFltFall die _ => [.die die]
  | .pgTimeout port => [.port port]
  | .overtemp die _ => [.die die]
  | .overtempCritical die _ _ => [.die die]

/-- Whether every site of a command is one that the largest part has. -/
def Instr.wellFormed (i : Instr) : Bool := i.sites.all Site.ok

end Sys2Proof
end

