-- ==== Sys2Proof/Safety.lean ====
section
/-! DEFINITION. What a state that the block can be in looks like, in the terms that statements use: the canonical form of its registers and
bytes, a steward as lead, waiting commands that name what exists. -/
namespace Sys2Proof.Machine
set_option Elab.async false

/-- The registers are a table in canonical form: keys rise, and none is listed with its reset value. -/
abbrev State.regsOk (s : State) : Prop := Tbl.wf resetWord s.regs = true

/-- The bytes of the memories are a table in canonical form: keys rise, and none is listed with its blank value. -/
abbrev State.memOk (s : State) : Prop := Tbl.wf blankByte s.mem = true

/-- The lead role is held by a steward that the part has (R2, R25). -/
abbrev State.leadOk (s : State) : Prop := s.stOk s.lead = true

/-- Every waiting command names only what the largest part has. -/
abbrev State.pendingOk (s : State) : Prop := ∀ c ∈ s.pending, c.wellFormed = true

/-- What every step keeps. -/
structure State.Inv (s : State) : Prop where
  regs : s.regsOk
  mem : s.memOk
  lead : s.leadOk
  pending : s.pendingOk

/-! ## What a command does -/

/-- The command ends with a next state, of which `P` holds. -/
def Completes (c : Instr) (s : State) (P : State → Prop) : Prop := ∃ t, exec c s = .next t ∧ P t

/-- Every register but the named ones holds what it held. -/
def RegsBut (s t : State) (ks : List Nat) : Prop := ∀ k, k ∉ ks → t.rd k = s.rd k

/-- Whether a requester's access to an offset of a die ends there and nowhere on its way: its path is open (R37, R40, R447), and the prefetch of its
bridge has no active mark and no line there (R453, R456). -/
def State.direct (s : State) (req die off : Nat) : Bool :=
  s.pathStop req die == 0 && (match (reqSteward req).bind (fun st => (bridgeTo st die off).map (fun b => (st, b))) with
    | none => true
    | some (st, m, a) => !s.inMark st m a && (s.modS st m).lines.all (fun l => !(decide (l.addr < a + 8) && decide (a < l.addr + 256))))

/-- The events that the channels of a die deliver from the pulses and held events of cycle `c` (R476-R479, R484). -/
def State.dueEvents (s : State) (die c : Nat) : List ChEv :=
  let v := s.efS die
  let ps := (v.pulses.filter (fun p => p.2.2 == c)).map (fun p => (p.1, p.2.1))
  let held := (v.held.filter (fun h => h.1 == c)).map (fun h => h.2)
  let s0 := (s.setEf die { v with
    pulses := v.pulses.filter (fun p => p.2.2 != c)
    held := v.held.filter (fun h => h.1 != c) }).efBegin die
  let env : CellEnv := { evs := [], wins := s0.winMask die, pins := s0.pinMask die, q := (s0.efS die).qPrev }
  (s0.carry die held (s0.settle die held env (onePulse ps) 17 (onePulse ps))).now

/-! ## What a command may change -/

/-- The fields of State, but for the queue and the part. -/
inductive Field where
  | cycle | free | resp | out | regs | acts | latches | mem | lead | times | tm | alarms | queues | prods | healthLost | cks
  | efs | ports | sis | pipes | schs | sched | finalC | cellPtr | cellMem | fences | chans | engs | eps | ledgers | epoch
  | weirOn | lostDies | mods | axes | relaySt | relayJ | jns | hus | parked | shutNormal | fcChans | restarts | switchAt | hbs
  | hbOn | plannedAt | declared | modLost | peerUpAt | scrubAt | wdogs | halted | dictQ | gws | objs | dict | i2cs | cans | qspis
  | dbgs | pccs | hotDies | faultWhy | jtag | irqSent | irqCopy | irqClaims | kpClaims | swLv | readyAt | fcReset | kpVer | kpReq
  | rstLow | ubFirst
  deriving DecidableEq, Repr

/-- A field is the same in two states. -/
def Field.Same (f : Field) (s t : State) : Prop :=
  match f with
  | .cycle => t.cycle = s.cycle
  | .free => t.free = s.free
  | .resp => t.resp = s.resp
  | .out => t.out = s.out
  | .regs => t.regs = s.regs
  | .acts => t.acts = s.acts
  | .latches => t.latches = s.latches
  | .mem => t.mem = s.mem
  | .lead => t.lead = s.lead
  | .times => t.times = s.times
  | .tm => t.tm = s.tm
  | .alarms => t.alarms = s.alarms
  | .queues => t.queues = s.queues
  | .prods => t.prods = s.prods
  | .healthLost => t.healthLost = s.healthLost
  | .cks => t.cks = s.cks
  | .efs => t.efs = s.efs
  | .ports => t.ports = s.ports
  | .sis => t.sis = s.sis
  | .pipes => t.pipes = s.pipes
  | .schs => t.schs = s.schs
  | .sched => t.sched = s.sched
  | .finalC => t.finalC = s.finalC
  | .cellPtr => t.cellPtr = s.cellPtr
  | .cellMem => t.cellMem = s.cellMem
  | .fences => t.fences = s.fences
  | .chans => t.chans = s.chans
  | .engs => t.engs = s.engs
  | .eps => t.eps = s.eps
  | .ledgers => t.ledgers = s.ledgers
  | .epoch => t.epoch = s.epoch
  | .weirOn => t.weirOn = s.weirOn
  | .lostDies => t.lostDies = s.lostDies
  | .mods => t.mods = s.mods
  | .axes => t.axes = s.axes
  | .relaySt => t.relaySt = s.relaySt
  | .relayJ => t.relayJ = s.relayJ
  | .jns => t.jns = s.jns
  | .hus => t.hus = s.hus
  | .parked => t.parked = s.parked
  | .shutNormal => t.shutNormal = s.shutNormal
  | .fcChans => t.fcChans = s.fcChans
  | .restarts => t.restarts = s.restarts
  | .switchAt => t.switchAt = s.switchAt
  | .hbs => t.hbs = s.hbs
  | .hbOn => t.hbOn = s.hbOn
  | .plannedAt => t.plannedAt = s.plannedAt
  | .declared => t.declared = s.declared
  | .modLost => t.modLost = s.modLost
  | .peerUpAt => t.peerUpAt = s.peerUpAt
  | .scrubAt => t.scrubAt = s.scrubAt
  | .wdogs => t.wdogs = s.wdogs
  | .halted => t.halted = s.halted
  | .dictQ => t.dictQ = s.dictQ
  | .gws => t.gws = s.gws
  | .objs => t.objs = s.objs
  | .dict => t.dict = s.dict
  | .i2cs => t.i2cs = s.i2cs
  | .cans => t.cans = s.cans
  | .qspis => t.qspis = s.qspis
  | .dbgs => t.dbgs = s.dbgs
  | .pccs => t.pccs = s.pccs
  | .hotDies => t.hotDies = s.hotDies
  | .faultWhy => t.faultWhy = s.faultWhy
  | .jtag => t.jtag = s.jtag
  | .irqSent => t.irqSent = s.irqSent
  | .irqCopy => t.irqCopy = s.irqCopy
  | .irqClaims => t.irqClaims = s.irqClaims
  | .kpClaims => t.kpClaims = s.kpClaims
  | .swLv => t.swLv = s.swLv
  | .readyAt => t.readyAt = s.readyAt
  | .fcReset => t.fcReset = s.fcReset
  | .kpVer => t.kpVer = s.kpVer
  | .kpReq => t.kpReq = s.kpReq
  | .rstLow => t.rstLow = s.rstLow
  | .ubFirst => t.ubFirst = s.ubFirst

/-- Every field. -/
def Field.all : List Field := [
  .cycle, .free, .resp, .out, .regs, .acts, .latches, .mem, .lead, .times, .tm, .alarms, .queues, .prods, .healthLost, .cks, .efs,
  .ports, .sis, .pipes, .schs, .sched, .finalC, .cellPtr, .cellMem, .fences, .chans, .engs, .eps, .ledgers, .epoch, .weirOn, .lostDies,
  .mods, .axes, .relaySt, .relayJ, .jns, .hus, .parked, .shutNormal, .fcChans, .restarts, .switchAt, .hbs, .hbOn, .plannedAt, .declared,
  .modLost, .peerUpAt, .scrubAt, .wdogs, .halted, .dictQ, .gws, .objs, .dict, .i2cs, .cans, .qspis, .dbgs, .pccs, .hotDies, .faultWhy,
  .jtag, .irqSent, .irqCopy, .irqClaims, .kpClaims, .swLv, .readyAt, .fcReset, .kpVer, .kpReq, .rstLow, .ubFirst]

end Sys2Proof.Machine

namespace Sys2Proof
open Machine

/-- The fields that a command may change. -/
def Instr.touches (c : Instr) : List Field :=
  match c with
  | .alignMsgRx .. => [.out]
  | .basinBadAccess .. | .waitTimeRelExpire .. | .waitTimeAbsReached .. | .lateError .. | .epDrainDone .. | .passLate ..
    | .busOffRecover .. | .debugStep .. => [.regs]
  | .holdoffExpire .. | .windowOpen .. | .windowClose .. | .relayEmit .. => [.efs]
  | .stepAnnounce => [.sched]
  | .ssiPoll .. | .illWinExpire .. => [.axes]
  | .jseqLease .. | .clipWindowClose .. | .prerollExpire .. => [.jns]
  | .heartbeatTx .. => [.hbs]
  | .dbgHaltLimit .. => [.hbOn]
  | .dieSel .. => [.jtag]
  | .busOff .. => [.free, .regs]
  | .esStop .. | .rxStatRead .. | .expLenWrite .. | .leadWrite .. | .mapWrite .. | .ringAdd .. | .ringLogWrite .. | .chCfgWrite ..
    | .dbShadowWrite .. | .pfMarkWrite .. | .semAcq .. | .semRel .. | .semForceOwner .. | .semForceAll .. | .efShadowWrite ..
    | .attach .. | .mbRelease .. | .recover .. | .kpHoldWrite .. | .rootCommit .. => [.resp, .regs]
  | .idcode | .bypass => [.resp, .jtag]
  | .alignTick | .ppsOutStart | .ppsOutEnd => [.out, .tm]
  | .ringVector .. => [.out, .eps]
  | .driveAsyncEvent .. | .drPerstRelease .. => [.out, .jns]
  | .sequenceFault => [.out, .faultWhy]
  | .alignCorrectionRx .. => [.regs, .times]
  | .rateActivation | .ppsSourceLost | .holdLimitExceeded | .dealTimeout => [.regs, .tm]
  | .qAck .. => [.regs, .queues]
  | .cellRegPulse .. | .cellStableExpire .. | .pinFilterAccept .. | .relayMsgRx .. => [.regs, .efs]
  | .esPointDone .. | .dlyEchoRx .. | .headCapsRx .. | .headReportRx .. | .busResultRx .. | .vendorRx .. | .dlyMarkTimeout .. =>
    [.regs, .ports]
  | .occurrenceDecide .. => [.regs, .schs]
  | .schedCheckDone => [.regs, .sched]
  | .engineDispatch .. => [.regs, .engs]
  | .doorbell .. | .doorbellConfirm .. | .shedHoldExpire .. => [.regs, .eps]
  | .pfLineExpire .. => [.regs, .mods]
  | .axisRecPeriodic .. => [.regs, .axes]
  | .budgetUpdate .. | .driveLinkTry .. => [.regs, .jns]
  | .huResultRx .. => [.regs, .hus]
  | .i2cPointerWrite .. | .stuckRelease .. | .sclTimeout .. | .rsAbandon .. => [.regs, .i2cs]
  | .debugAuth .. | .authLockoutExpire .. => [.regs, .dbgs]
  | .sidebandUp .. => [.regs, .irqCopy]
  | .verifyDone .. => [.regs, .kpVer]
  | .notifyRepeat .. | .queueAgeReady .. => [.queues, .efs]
  | .signalPulse .. => [.efs, .chans]
  | .resetRelease .. => [.objs, .rstLow]
  | .irqLevelChange .. => [.irqSent, .irqCopy]
  | .samplePreload | .dtmcs => [.free, .resp, .jtag]
  | .idleExit .. | .packetRx .. | .busTimeout .. => [.free, .regs, .ports]
  | .observerUpdate .. => [.free, .regs, .axes]
  | .nowRead .. | .ppscapRead .. | .fsTimeRead .. | .ringTotalRead .. | .axisCountRead .. => [.resp, .regs, .latches]
  | .kpLoadData .. => [.resp, .regs, .mem]
  | .alarmCommit .. => [.resp, .regs, .alarms]
  | .ckStart .. | .ckStop .. => [.resp, .regs, .cks]
  | .efCommit .. | .cellClr .. | .swPulse .. => [.resp, .regs, .efs]
  | .esStart .. | .rxPop .. => [.resp, .regs, .ports]
  | .paFlush .. | .paCtlWrite .. => [.resp, .regs, .pipes]
  | .chStart .. | .chAbort .. | .chAbortQuiet .. | .chResume .. | .chReset .. | .abortAll .. | .abortAllQuiet .. => [.resp, .regs, .chans]
  | .epDrain .. => [.resp, .regs, .eps]
  | .npTimeout .. | .pfFlush .. => [.resp, .regs, .mods]
  | .armHome .. | .clrCount .. => [.resp, .regs, .axes]
  | .rescan .. => [.resp, .regs, .jns]
  | .mbRequest .. => [.resp, .regs, .dictQ]
  | .i2cRead .. | .i2cReset .. => [.resp, .regs, .i2cs]
  | .flashProgram .. | .erase4k .. | .erase64k .. => [.resp, .regs, .qspis]
  | .snapSa .. | .snapSb .. => [.resp, .regs, .irqCopy]
  | .ctxClaim .. => [.resp, .regs, .irqClaims]
  | .kpClaim .. => [.resp, .regs, .kpClaims]
  | .swSet .. | .swClr .. => [.resp, .regs, .swLv]
  | .kpVerify .. => [.resp, .regs, .kpVer]
  | .reqIdle .. | .kpIdle .. => [.resp, .regs, .kpReq]
  | .alignReplyRx .. => [.out, .regs, .tm]
  | .pinPulseEnd .. => [.out, .regs, .efs]
  | .shedPlan .. => [.out, .regs, .eps]
  | .commitLatMax .. | .commitLatMin .. | .appendDone .. | .appendRetry .. | .forwardedRecordRx .. => [.out, .regs, .jns]
  | .huTestStart .. | .huTestRetry .. | .huSample .. | .huTestTimeout .. => [.out, .regs, .hus]
  | .clockRestore .. => [.out, .tm, .faultWhy]
  | .journalRecovery .. => [.regs, .mem, .jns]
  | .slewDone => [.regs, .times, .tm]
  | .alarmFire .. => [.regs, .alarms, .efs]
  | .qReplay .. | .qFlush .. | .replaySa .. | .replaySb .. => [.regs, .queues, .efs]
  | .directWrite .. => [.regs, .queues, .cellMem]
  | .pulseWithdraw .. => [.regs, .efs, .ports]
  | .endComplete .. => [.regs, .efs, .chans]
  | .axisCount .. | .axisIndex .. | .ssiFrameDone .. => [.regs, .efs, .axes]
  | .schedDistFail => [.regs, .schs, .sched]
  | .moveInsn .. | .loopInsn .. | .waitInsn .. | .signalInsn .. | .endInsn .. => [.regs, .chans, .engs]
  | .debugHalt .. | .debugResume .. => [.regs, .halted, .dbgs]
  | .i2cRequest .. => [.regs, .dictQ, .i2cs]
  | .jtagTrst => [.regs, .dbgs, .jtag]
  | .storeDone => [.mem, .objs, .dict]
  | .relayForward .. => [.efs, .relaySt, .relayJ]
  | .ppsEdge .. => [.free, .out, .regs, .tm]
  | .nmtCommand .. | .canHeartbeatTx .. => [.free, .out, .regs, .cans]
  | .odvelCplRx .. => [.resp, .out, .regs, .mods]
  | .commitNow .. | .detach .. => [.resp, .out, .regs, .jns]
  | .testNow .. => [.resp, .out, .regs, .hus]
  | .bootRetry .. => [.resp, .out, .regs, .faultWhy]
  | .huCommit .. => [.resp, .regs, .acts, .dict]
  | .axRef .. => [.resp, .regs, .efs, .axes]
  | .schedCancel .. => [.resp, .regs, .schs, .sched]
  | .flitRx .. | .modCmdRetrain .. | .modCmdUp .. | .moduleTrained .. => [.resp, .regs, .mods, .irqCopy]
  | .ctxComplete .. => [.resp, .regs, .wdogs, .irqClaims]
  | .kpComplete .. => [.resp, .regs, .wdogs, .kpClaims]
  | .mbDone .. => [.out, .regs, .mem, .eps]
  | .anchorWriteDone .. => [.out, .regs, .mem, .jns]
  | .bootRom .. => [.out, .regs, .mem, .faultWhy]
  | .clipTrigger .. => [.out, .regs, .relayJ, .jns]
  | .tailAck .. => [.regs, .queues, .eps, .ledgers]
  | .frameTimeout .. => [.regs, .efs, .sis, .pipes]
  | .failoverRestart .. => [.regs, .chans, .restarts, .switchAt]
  | .tbSet .. | .tbSlew .. | .tbRate .. | .tbCancel .. => [.free, .resp, .out, .regs, .tm]
  | .popRead .. => [.free, .resp, .regs, .queues, .efs]
  | .dmi .. => [.free, .resp, .regs, .dbgs, .jtag]
  | .driveProbe .. => [.free, .out, .regs, .mem, .jns]
  | .dealTx .. | .portResetOffDone .. | .sigDet .. | .coarseLock .. | .trainingFrameRx .. | .eqConverged .. | .tapTimeout ..
    | .trainTimeout .. | .headLost .. | .freqErr .. | .faultHoldExpire .. | .relockFail .. | .trainingSetRx .. | .forwardBlockRx ..
    | .markerRx .. | .beaconTx .. | .dlyMarkTx .. | .headQueryTx .. | .bchMsgSend .. | .dlyMarkRx .. | .headQueryRx .. | .pgTimeout .. =>
    [.free, .out, .regs, .efs, .ports]
  | .qspiDone .. => [.free, .regs, .mem, .dict, .qspis]
  | .plCommit .. => [.resp, .regs, .acts, .pipes, .dict]
  | .axCommit .. => [.resp, .regs, .acts, .axes, .dict]
  | .schedCommit .. => [.resp, .regs, .schs, .sched, .dict]
  | .finalDone .. => [.out, .regs, .hus, .parked, .faultWhy]
  | .schedActivate => [.regs, .acts, .efs, .schs, .sched]
  | .frameEnd .. | .imageLine .. | .breakEntry .. => [.regs, .efs, .ports, .sis, .pipes]
  | .initDrive .. => [.free, .resp, .out, .regs, .mem, .jns]
  | .lpRetrain .. | .lpFullRetrain .. | .lpFaultClear .. | .lpPortReset .. | .txGo .. => [.free, .resp, .out, .regs, .efs, .ports]
  | .dealRx .. => [.free, .out, .regs, .tm, .efs, .ports]
  | .pulseIssue .. => [.free, .out, .regs, .efs, .ports, .schs]
  | .gwReqRx .. => [.free, .out, .regs, .efs, .ports, .dictQ]
  | .pccFrame .. | .pccFltFall .. => [.free, .out, .regs, .efs, .ports, .pccs]
  | .cellRequest .. | .pushWrite .. => [.free, .regs, .queues, .prods, .efs, .cellPtr]
  | .pushEnd .. => [.free, .regs, .queues, .prods, .efs, .cellMem]
  | .fencePushRetry .. => [.free, .regs, .queues, .efs, .cellMem, .fences]
  | .channelEvent .. | .clockedDelivery .. => [.out, .regs, .efs, .chans, .axes, .relaySt]
  | .siCommit .. => [.resp, .regs, .acts, .efs, .sis, .pipes, .dict]
  | .lpCommit .. => [.free, .resp, .out, .regs, .acts, .efs, .ports, .dict]
  | .gwRspRx .. | .gwTimeout .. => [.free, .resp, .out, .regs, .efs, .ports, .eps, .gws, .i2cs]
  | .efCheckDone .. => [.free, .out, .regs, .acts, .efs, .chans, .axes, .relaySt, .dict]
  | .syncRx .. | .tpdoEventTimer .. | .tpdoChangeCheck .. =>
    [.free, .resp, .out, .regs, .latches, .tm, .ports, .cans, .irqClaims, .kpClaims]
  | .counterPairRead .. => [.free, .resp, .regs, .latches, .tm, .queues, .efs, .ports, .irqClaims, .kpClaims]
  | .timeStep => [.free, .out, .regs, .times, .tm, .alarms, .efs, .ports, .schs, .sched]
  | .recordClose .. | .eventRecordWrite .. | .ckMemDone .. =>
    [.free, .out, .regs, .queues, .prods, .healthLost, .cks, .efs, .cellMem, .dict]
  | .acceptStallExpire .. | .uplinkLinkChange .. | .postedCreditGrant .. | .flrComplete .. =>
    [.free, .out, .regs, .queues, .prods, .healthLost, .efs, .cellMem, .eps, .dict]
  | .journalTake .. | .flushDone .. | .driveLost .. | .wearRead .. | .driveRemoved .. =>
    [.free, .out, .regs, .queues, .prods, .healthLost, .efs, .cellMem, .jns, .dict]
  | .scrubRead .. => [.free, .out, .regs, .queues, .prods, .healthLost, .efs, .cellMem, .scrubAt, .dict]
  | .keeperWatchdog .. => [.free, .out, .regs, .queues, .prods, .healthLost, .efs, .cellMem, .wdogs, .dict]
  | .overtemp .. => [.free, .out, .regs, .queues, .prods, .healthLost, .efs, .cellMem, .dict, .hotDies]
  | .plannedStop .. => [.free, .resp, .out, .regs, .queues, .prods, .healthLost, .efs, .cellMem, .plannedAt, .dict]
  | .functionLevelReset .. | .upPerst .. => [.free, .out, .regs, .mem, .queues, .prods, .healthLost, .efs, .cellMem, .eps, .dict]
  | .clockLoss .. => [.free, .out, .regs, .tm, .queues, .prods, .healthLost, .efs, .cellMem, .dict, .faultWhy]
  | .axisRecordWrite .. => [.free, .out, .regs, .queues, .prods, .healthLost, .cks, .efs, .cellMem, .axes, .dict]
  | .huResultExpire .. | .windowUpdate .. => [.free, .out, .regs, .queues, .prods, .healthLost, .efs, .cellMem, .jns, .hus, .dict]
  | .stackFailed .. => [.free, .out, .regs, .queues, .prods, .healthLost, .efs, .cellMem, .parked, .hbOn, .dict]
  | .odvelRdRx .. => [.free, .resp, .out, .regs, .latches, .tm, .queues, .efs, .ports, .mods, .irqClaims, .kpClaims]
  | .plReset .. => [.free, .resp, .out, .regs, .queues, .prods, .healthLost, .cks, .efs, .pipes, .cellMem, .dict]
  | .finLineTake .. | .finFrameDone .. =>
    [.free, .out, .regs, .queues, .prods, .healthLost, .cks, .efs, .pipes, .cellPtr, .cellMem, .dict]
  | .carrierMove .. | .returnHoldExpire .. =>
    [.free, .out, .regs, .queues, .prods, .healthLost, .efs, .cellMem, .chans, .engs, .ledgers, .dict]
  | .genericShortPacket .. | .sidePacket .. =>
    [.free, .out, .regs, .queues, .prods, .healthLost, .cks, .efs, .ports, .sis, .pipes, .cellMem, .dict]
  | .pipelineLine .. => [.free, .out, .regs, .queues, .prods, .healthLost, .cks, .efs, .sis, .pipes, .cellPtr, .cellMem, .dict]
  | .weirEnter => [.free, .out, .regs, .queues, .prods, .healthLost, .efs, .cellMem, .chans, .engs, .ledgers, .weirOn, .dict]
  | .weirExit => [.free, .out, .regs, .queues, .prods, .healthLost, .efs, .cellMem, .chans, .engs, .ledgers, .weirOn, .jns, .dict]
  | .frameStart .. => [.free, .out, .regs, .acts, .queues, .prods, .healthLost, .cks, .efs, .ports, .sis, .pipes, .schs, .cellMem, .dict]
  | .pipelineFrameDone .. =>
    [.free, .out, .regs, .acts, .queues, .prods, .healthLost, .cks, .efs, .sis, .pipes, .schs, .cellPtr, .cellMem, .dict]
  | .pwrFail .. | .railUndervolt .. =>
    [.free, .out, .regs, .queues, .prods, .healthLost, .efs, .ports, .finalC, .cellMem, .chans, .axes, .jns, .hus, .fcChans, .dict,
    .i2cs, .pccs]
  | .overtempCritical .. =>
    [.free, .out, .regs, .queues, .prods, .healthLost, .efs, .ports, .finalC, .cellMem, .chans, .axes, .jns, .hus, .fcChans, .dict,
    .i2cs, .pccs, .faultWhy]
  | .extest | .clampBalls | .highZ =>
    [.free, .out, .regs, .queues, .prods, .healthLost, .efs, .ports, .finalC, .cellMem, .chans, .axes, .jns, .hus, .fcChans, .dict,
    .i2cs, .pccs, .jtag]
  | .bootShutdown .. =>
    [.free, .resp, .out, .regs, .queues, .prods, .healthLost, .efs, .ports, .finalC, .cellMem, .chans, .axes, .jns, .hus, .shutNormal,
    .fcChans, .dict, .i2cs, .pccs]
  | .atTime =>
    [.free, .resp, .out, .regs, .acts, .tm, .queues, .prods, .healthLost, .efs, .ports, .sis, .pipes, .sched, .cellMem, .chans, .engs,
    .ledgers, .axes, .relaySt, .objs, .dict]
  | .powerResume .. =>
    [.free, .out, .regs, .queues, .prods, .healthLost, .efs, .ports, .finalC, .cellMem, .fences, .chans, .engs, .eps, .ledgers, .epoch,
    .jns, .hus, .parked, .fcChans, .restarts, .switchAt, .dict]
  | .roleMove =>
    [.free, .resp, .out, .regs, .acts, .lead, .tm, .queues, .prods, .healthLost, .efs, .ports, .sis, .pipes, .sched, .cellMem, .chans,
    .engs, .ledgers, .axes, .relaySt, .jns, .hus, .objs, .dict]
  | .cancelStop .. | .plannedStopExpire .. =>
    [.free, .resp, .out, .regs, .lead, .tm, .queues, .prods, .healthLost, .efs, .ports, .cellMem, .fences, .chans, .engs, .eps, .ledgers,
    .epoch, .jns, .hus, .parked, .restarts, .switchAt, .hbOn, .plannedAt, .declared, .modLost, .dictQ, .gws, .dict, .i2cs]
  | .heartbeatMiss .. =>
    [.free, .resp, .out, .regs, .lead, .tm, .queues, .prods, .healthLost, .efs, .ports, .cellMem, .fences, .chans, .engs, .eps, .ledgers,
    .epoch, .lostDies, .jns, .hus, .parked, .restarts, .switchAt, .hbs, .hbOn, .declared, .modLost, .dictQ, .gws, .dict, .i2cs]
  | .modCmdDown .. | .retrainLimitExpire .. =>
    [.free, .resp, .out, .regs, .lead, .tm, .queues, .prods, .healthLost, .efs, .ports, .cellMem, .fences, .chans, .engs, .eps, .ledgers,
    .epoch, .lostDies, .mods, .jns, .hus, .parked, .restarts, .switchAt, .hbs, .hbOn, .declared, .modLost, .dictQ, .gws, .dict, .i2cs,
    .irqCopy]
  | .leadWaitExpire .. =>
    Field.all.filter (fun f => !decide (f ∈ [.cycle, .latches, .times, .finalC, .cellPtr, .weirOn, .relayJ, .shutNormal, .fcChans,
    .plannedAt, .peerUpAt, .halted, .dbgs, .pccs, .hotDies, .faultWhy, .jtag, .irqSent, .readyAt, .fcReset, .kpVer, .kpReq, .rstLow,
    .ubFirst]))
  | .dictRequest .. | .usdoTransfer .. | .rpdoRx .. =>
    Field.all.filter (fun f => !decide (f ∈ [.cycle, .times, .finalC, .cellPtr, .weirOn, .relayJ, .shutNormal, .fcChans, .plannedAt,
    .peerUpAt, .halted, .dbgs, .pccs, .hotDies, .faultWhy, .jtag, .irqSent, .readyAt, .fcReset, .kpVer, .kpReq, .rstLow, .ubFirst]))
  | .heartbeatRx .. =>
    Field.all.filter (fun f => !decide (f ∈ [.cycle, .latches, .times, .finalC, .cellPtr, .weirOn, .relayJ, .shutNormal, .fcChans,
    .halted, .cans, .dbgs, .pccs, .hotDies, .faultWhy, .jtag, .irqSent, .readyAt, .fcReset, .kpVer, .kpReq, .rstLow, .ubFirst]))
  | .bootReady .. | .pfWaitEnd .. =>
    Field.all.filter (fun f => !decide (f ∈ [.cycle, .latches, .times, .finalC, .cellPtr, .weirOn, .relayJ, .shutNormal, .fcChans,
    .plannedAt, .peerUpAt, .halted, .dbgs, .pccs, .hotDies, .jtag, .irqSent, .fcReset, .kpVer, .kpReq, .rstLow, .ubFirst]))
  | .peerReset .. | .ndmreset .. | .railReset .. | .bootWarm .. =>
    Field.all.filter (fun f => !decide (f ∈ [.cycle, .lead, .sched, .epoch, .lostDies, .plannedAt, .declared, .modLost, .dictQ, .gws,
    .objs, .jtag, .rstLow]))
  | .regWrite .. | .rcRead .. | .moveStep .. | .writeRetry .. | .abortComplete .. | .odvelWrRx .. | .moduleRetrainDone ..
    | .sysbusAccess .. => Field.all.filter (fun f => !decide (f ∈ [.cycle, .jtag, .rstLow]))
  | .resetAssert => Field.all.filter (fun f => !decide (f ∈ [.cycle, .free, .resp]))

end Sys2Proof
end

