-- ==== Sys2Proof/Certificates/Slice0/Obligations.lean ====
section
/-! DEFINITION. What is claimed of the block, one proposition per statement, with the rules it follows. -/
open Sys2Proof Sys2Proof.Machine

/-- A step executes the command at the front of the queue; with an empty queue one cycle passes. For every command and state, a step
with that command in front is its execution with the rest of the queue. That an empty queue lets one FCLK cycle pass, and that
commands wait in a queue at all, is the model's choice (log entries 1 and 2). -/
def Obligations.StepRunsFront : Prop :=
  (∀ (c : Instr) (rest : List Instr) (s : State), step { s with pending := c :: rest } = exec c { s with pending := rest }) ∧
  (∀ s : State, s.pending = [] → step s = .next s.idle ∧ s.idle.cycle = s.cycle + 1 ∧ s.idle.pending = [])

/-- The state after reset meets the invariant, and registers read the reset values of their tables. The values are those that the
register tables of the cited chapters give: ports, contexts, basin, channels, producers, semaphores and axes of the AZL512, which is
the part the model resets to (log entry 3). Nothing waits, and no memory byte is listed. -/
def Obligations.ResetState : Prop :=
  State.reset.Inv ∧ State.reset.pending = [] ∧ State.reset.mem = [] ∧
  (∀ p, p < 128 → State.reset.rd (lp p + LP.CTL) = 1#32 ∧ State.reset.rd (lp p + LP.STATE) = 0x100#32) ∧
  (∀ x, x < 512 → State.reset.rd (si x + SI.CTL) = 0x2C03#32 ∧ State.reset.rd (si x + SI.GEOM) = 0x04380780#32) ∧
  (∀ d, d < 4 → State.reset.rd (dk d + BS.BS_FREE) = 0x40000#32 ∧ State.reset.rd (dk d + BS.BS_RESERVE) = 0x1000#32) ∧
  (∀ d e c, d < 4 → e < 16 → c < 32 → State.reset.chState d e c = 0) ∧
  (∀ d n, d < 6 → n < 64 → State.reset.rd (semKey d n) = 0#32)

/-- Every step keeps the canonical form of registers and memories, a present steward as lead, and a queue of well-formed commands. From
every state that meets the invariant, whatever command stands in front or none, the next state meets it. That a steward which the
part has is lead is the machine's own; the canonical form is the model's. -/
def Obligations.StepKeepsInv : Prop :=
  ∀ s s' : State, s.Inv → step s = .next s' → s'.Inv

/-- Every command of every state completes, leaves the queue and the part, and changes no field that it is not listed to touch. The
frame of all 341 commands: each answers a next state, in which every field of State outside its list (Instr.touches) is as it was;
where the list has no memory every byte of every die reads as before, and where it has no registers every register does. -/
def Obligations.CommandFrames : Prop :=
  ∀ (c : Instr) (s : State), ∃ t, exec c s = .next t ∧ t.pending = s.pending ∧ t.part = s.part ∧
    (∀ f : Field, f ∉ c.touches → f.Same s t) ∧
    (Field.mem ∉ c.touches → ∀ die a, t.byteAt die a = s.byteAt die a) ∧
    (Field.regs ∉ c.touches → RegsBut s t [])

/-- A read of NOW0 latches NOW1 and NOW2, and their reads return what it latched. R55 for every present die and path, for the latched
words without a prefetch or a rival access: the word answered and the two latched ones are one DT96 value, device time at the read; a
read of NOW1 or NOW2 answers the value last latched and latches nothing; the page of NOW0 and of the PPS capture registers is
volatile. -/
def Obligations.DeviceTimeLatch : Prop :=
  ∀ (die req : Nat) (s : State), s.present die = true →
    Completes (.nowRead die req) s (fun t => ∃ w, t.resp = .data [w] ∧
      dtOfWords w (t.latched req (tb die + TB.NOW1)) (t.latched req (tb die + TB.NOW2)) = dtPack (s.stamp die) ∧ t.cycle = s.cycle ∧
      t.regs = s.regs) ∧
    (∀ o ∈ [TB.NOW1, TB.NOW2], s.direct req die (tb die + o - dk die) = true → Completes (.rcRead die (tb die + o - dk die) req .b4 none) s (fun t =>
      t.resp = .bytes (leBytes (s.latched req (tb die + o)).toNat 4) ∧ t.latches = s.latches ∧ t.regs = s.regs)) ∧
    (∀ o ∈ [TB.NOW0, TB.NOW1, TB.NOW2, TB.PPSCAP0, TB.PPSCAP1, TB.PPSCAP2],
      volatileAt die (if die < 4 then 0x11400000 + o else 0x1000040000 + o) = true)

/-- A free semaphore goes to the writer of ACQ, a held one changes nothing but CONTENDED, and only its owner releases it. R458 for each
of the 64 semaphores of every present die, without a rival in the same cycle. CONTENDED stays set until the next grant, a wrong REL
is counted, and the next read of SEMn_STAT shows the result. -/
def Obligations.SemaphoreRule : Prop :=
  ∀ (die n req : Nat) (s : State), s.present die = true → n < 64 → 1 ≤ req → req < 256 →
    (s.fld (semKey die n) 7 0 = 0 → Completes (.semAcq die n req 0) s (fun t => t.fld (semKey die n) 7 0 = req ∧
      t.bit (semKey die n) 8 = false ∧ RegsBut s t [semKey die n, sm die + SM.SEM_HELD_LO, sm die + SM.SEM_HELD_HI])) ∧
    (s.fld (semKey die n) 7 0 ≠ 0 → Completes (.semAcq die n req 0) s (fun t =>
      t.rd (semKey die n) = s.rd (semKey die n) ||| 0x100#32 ∧ RegsBut s t [semKey die n])) ∧
    (s.fld (semKey die n) 7 0 = req → Completes (.semRel die n req) s (fun t => t.fld (semKey die n) 7 0 = 0 ∧
      t.bit (semKey die n) 8 = s.bit (semKey die n) 8)) ∧
    (s.fld (semKey die n) 7 0 ≠ req → Completes (.semRel die n req) s (fun t => t.rd (semKey die n) = s.rd (semKey die n) ∧
      t.rd (sm die + SM.SEM_BAD_REL) = wordOf (s.rdN (sm die + SM.SEM_BAD_REL) + 1))) ∧
    (s.direct req die (semKey die n - dk die) = true → Completes (.rcRead die (semKey die n - dk die) req .b4 none) s (fun t =>
      t.resp = .bytes (leBytes (s.rd (semKey die n)).toNat 4) ∧ t.regs = s.regs))

/-- A supply sequence that breaks its rules holds FAULT_N low, and only RESET_N ends that. R703: SEQUENCE_FAULT completes in every
state with FAULT_N held for that reason and nothing else changed but the pin; no other command than RESET_ASSERT lifts the reason,
and RESET_ASSERT does. -/
def Obligations.SupplySequenceFault : Prop :=
  (∀ s : State, Completes .sequenceFault s (fun t => t.faultWhy.contains 5 = true ∧ t.regs = s.regs ∧ t.mem = s.mem ∧
    (s.faultWhy ≠ [] → t.out = s.out) ∧ (s.faultWhy = [] → t.out.length = s.out.length + 1))) ∧
  (∀ (c : Instr) (s t : State), exec c s = .next t → c ≠ .resetAssert → s.faultWhy.contains 5 = true → t.faultWhy.contains 5 = true) ∧
  (∀ s : State, Completes .resetAssert s (fun t => t.faultWhy.contains 5 = false))

/-- A write of TB.COMMIT on the lead starts the step, slew, rate change or cancel that its bits name. Writes of TB.COMMIT that R87 does
not refuse, as R61-R64 give them; a change is issued with an activation time at least 50 µs ahead (R54). In which order waiting
changes apply is the model's choice (log entry 86). TB_SET in FREE or HOST mode: the counter is to step to TB.SET plus the time that
passes to the load, a waiting slew is dropped, and a running one is told to stop before. TB_SET in PPS mode: the seconds of TB.SET
name the next accepted edge. TB_SLEW: an offset that is not 0 is to be added at SLEW_RATE, in place of one that waits. An offset of 0
stops the slew. TB_RATE: RATE_SET becomes the source's rate word at its activation. TB_CANCEL: a running slew stops at an activation
time; one that waits is dropped, and its offset goes to SLEW_RESID. -/
def Obligations.TimeCommits : Prop :=
  (∀ (s : State) (die req v : Nat), s.present die = true → 4 ≤ die → v.testBit 0 = true → s.tbRefusal die v = none → s.timeSrc ≠ 1 →
    Completes (.tbSet die req v) s (fun t =>
      t.tm.slewWaiting = none ∧
      (∃ a, s.now s.lead + 50000 * ns40 ≤ a ∧ t.tm.pendStep = s.tm.pendStep ++ [(a, StepBy.load (((dtUnpack (s.rdDt (tb s.lead +
        TB.SET0)) * 2 ^ 24 : Nat) : Int) - (s.now s.lead : Nat)))] ∧ (s.tm.slew.isSome = true → ∃ b, b < a ∧ (b, RateChange.stop
        s.tm.slewWaiting) ∈ t.tm.pendRate)))) ∧
  (∀ (s : State) (die req v : Nat), s.present die = true → 4 ≤ die → v.testBit 0 = true → s.tbRefusal die v = none → s.timeSrc = 1 →
    Completes (.tbSet die req v) s (fun t =>
      t.tm.ppsSeconds = some (s.rdDt (tb s.lead + TB.SET0) / 2 ^ 48 % 2 ^ 48) ∧
      t.tm.pendStep = s.tm.pendStep ∧
      t.regs = s.regs)) ∧
  (∀ (s : State) (die req v : Nat), s.present die = true → 4 ≤ die → v.testBit 1 = true → s.tbRefusal die v = none → (s.rdI (tb s.lead
    + TB.SLEW_NS) * 2 ^ 40 + ((s.fld (tb s.lead + TB.SLEW_SUB) 15 0 : Nat) : Int) * 2 ^ 24) ≠ 0 →
    Completes (.tbSlew die req v) s (fun t =>
      (∃ a, s.now s.lead + 50000 * ns40 ≤ a ∧ t.tm.pendRate = s.tm.noSlews ++ [(a, RateChange.slew
        { rem := (s.rdI (tb s.lead + TB.SLEW_NS) * 2 ^ 40 + ((s.fld (tb s.lead + TB.SLEW_SUB) 15 0 : Nat) : Int) * 2 ^ 24), term := if (s.rdI (tb s.lead + TB.SLEW_NS) * 2 ^ 40 + ((s.fld (tb s.lead + TB.SLEW_SUB) 15 0 : Nat) : Int) * 2 ^ 24) < 0 then -ppbWord (s.rdN (tb s.lead + TB.SLEW_RATE)) else ppbWord (s.rdN (tb s.lead + TB.SLEW_RATE)) }
        s.tm.slewWaiting)]) ∧
      t.tm.slew = s.tm.slew)) ∧
  (∀ (s : State) (die req v : Nat), s.present die = true → 4 ≤ die → v.testBit 1 = true → s.tbRefusal die v = none → s.rdI (tb s.lead +
    TB.SLEW_NS) * 2 ^ 40 + ((s.fld (tb s.lead + TB.SLEW_SUB) 15 0 : Nat) : Int) * 2 ^ 24 = 0 →
    Completes (.tbSlew die req v) s (fun t =>
      t.tm.slewWaiting = none ∧
      (s.tm.slew.isSome = true → ∃ a, s.now s.lead + 50000 * ns40 ≤ a ∧ (a, RateChange.stop s.tm.slewWaiting) ∈ t.tm.pendRate))) ∧
  (∀ (s : State) (die req v : Nat), s.present die = true → 4 ≤ die → v.testBit 2 = true → s.tbRefusal die v = none →
    Completes (.tbRate die req v) s (fun t =>
      (∃ a, s.now s.lead + 50000 * ns40 ≤ a ∧ t.tm.pendRate = s.tm.pendRate ++ [(a, RateChange.source (s.rdI (tb s.lead +
        TB.RATE_SET)))]) ∧
      t.regs = s.regs)) ∧
  (∀ (s : State) (die req v : Nat), s.present die = true → 4 ≤ die → v.testBit 3 = true → s.tbRefusal die v = none →
    Completes (.tbCancel die req v) s (fun t =>
      t.tm.slewWaiting = none ∧
      (s.tm.slew.isSome = true → ∃ a, s.now s.lead + 50000 * ns40 ≤ a ∧ (a, RateChange.stop s.tm.slewWaiting) ∈ t.tm.pendRate) ∧
      (s.tm.slew = none → s.tm.slewWaiting ≠ none → t.rd (tb s.lead + TB.SLEW_RESID) = wordOfInt (roundDiv (s.tm.slewWaiting.getD 0)
        ns40))))

/-- Rate changes, steps and the end of a slew reach every present die. R54, R63 and R65: at its activation time a change applies to all
dies that the lead reaches; a slew ends when its offset is used up. RATE_ACTIVATION of a new word of the source. RATE_ACTIVATION of
the start of a slew; what it discards goes to SLEW_RESID. RATE_ACTIVATION of the stop of a running slew: its remainder goes to
SLEW_RESID. SLEW_DONE: every counter adds the remainder, and SLEWING clears. -/
def Obligations.RateAndSlew : Prop :=
  (∀ (s : State) (a : Nat) (r : Int) (rest : List (Nat × RateChange)), s.tm.pendRate = (a, .source r) :: rest → a ≤ s.now s.lead →
    s.tm.pendStep.all (fun e => decide (a ≤ e.1)) = true →
    Completes .rateActivation s (fun t =>
      t.tm.srcRate = r ∧
      t.tm.pendRate = rest ∧
      (∀ d ∈ s.timeDies, t.rd (tb d + TB.RATE_ADJ) = wordOfInt (rateClamp (r + s.slewTerm))))) ∧
  (∀ (s : State) (a : Nat) (sl : Slew) (left : Option Int) (rest : List (Nat × RateChange)), s.tm.pendRate = (a, .slew sl left) :: rest
    → a ≤ s.now s.lead → s.tm.pendStep.all (fun e => decide (a ≤ e.1)) = true →
    Completes .rateActivation s (fun t =>
      t.tm.slew = some sl ∧
      t.tm.pendRate = rest ∧
      t.rd (tb s.lead + TB.SLEW_RESID) = wordOfInt (roundDiv (s.tm.discarded left) ns40) ∧
      (∀ d ∈ s.timeDies, t.bit (tb d + TB.STATUS) 1 = true) ∧
      (∀ d ∈ s.timeDies, t.rd (tb d + TB.RATE_ADJ) = wordOfInt (rateClamp (s.tm.srcRate + sl.term))))) ∧
  (∀ (s : State) (a : Nat) (sl : Slew) (left : Option Int) (rest : List (Nat × RateChange)), s.tm.pendRate = (a, .stop left) :: rest →
    s.tm.slew = some sl → a ≤ s.now s.lead → s.tm.pendStep.all (fun e => decide (a ≤ e.1)) = true →
    Completes .rateActivation s (fun t =>
      t.tm.slew = none ∧
      t.rd (tb s.lead + TB.SLEW_RESID) = wordOfInt (roundDiv (sl.rem + left.getD 0) ns40) ∧
      (∀ d ∈ s.timeDies, t.bit (tb d + TB.STATUS) 1 = false) ∧
      (∀ d ∈ s.timeDies, t.rd (tb d + TB.RATE_ADJ) = wordOfInt (rateClamp s.tm.srcRate)))) ∧
  (∀ (s : State) (sl : Slew), s.tm.slew = some sl → s.slewLast sl = true →
    Completes .slewDone s (fun t =>
      t.tm.slew = none ∧
      (∀ d ∈ s.dies, t.now d = (((s.now d : Nat) : Int) + sl.rem).toNat) ∧
      (∀ d ∈ s.timeDies, t.bit (tb d + TB.STATUS) 1 = false)))

/-- PPS edges are captured and servoed on; a lost source and a passed hold limit set the status of every die. R56, R66, R67, R69, R85:
stamps, the outlier rule, the servo word, and the status bits of TB.STATUS. Outside PPS mode an edge is only captured. An edge
outside the window is an outlier until three have come in a row. After three outliers in a row the servo steps to the edge. An edge
accepted by a running servo issues a new rate word. The edge of the other polarity does nothing. PPS_SOURCE_LOST: 2 s without an
accepted edge set SRC_LOST and HOLDOVER and clear LOCKED. HOLD_LIMIT_EXCEEDED sets TIME_UNSYNC. PPSCAP_READ. -/
def Obligations.PpsAndHoldover : Prop :=
  (∀ (s : State) (frac : Nat) (falling : Bool), falling = s.bit (tb s.lead + TB.CTL) 2 → s.timeSrc ≠ 1 →
    Completes (.ppsEdge frac falling) s (fun t =>
      t.rd (tb s.lead + TB.PPSCAP0) = dtWord (dtPack (s.ppsStamp frac)) 0 ∧
      t.rd (tb s.lead + TB.PPSCAP0 + 4) = dtWord (dtPack (s.ppsStamp frac)) 1 ∧
      t.rd (tb s.lead + TB.PPSCAP0 + 8) = dtWord (dtPack (s.ppsStamp frac)) 2 ∧
      t.rdN (tb s.lead + TB.PPSCAP_CNT) = Nat.min 0xFFFFFFFF (s.rdN (tb s.lead + TB.PPSCAP_CNT) + 1) ∧
      t.tm = s.tm)) ∧
  (∀ (s : State) (frac : Nat) (falling : Bool), falling = s.bit (tb s.lead + TB.CTL) 2 → s.timeSrc = 1 → s.packageMoored = false →
    s.rdN (tb s.lead + TB.PPS_WINDOW) * 65536 < (phaseErr (s.ppsStamp frac)).natAbs → s.tm.outlierRun < 3 →
    Completes (.ppsEdge frac falling) s (fun t =>
      t.rd (tb s.lead + TB.PPS_OUTLIER) = wordOf (s.rdN (tb s.lead + TB.PPS_OUTLIER) + 1) ∧
      t.tm = { s.tm with outlierRun := s.tm.outlierRun + 1, goodRun := 0 })) ∧
  (∀ (s : State) (frac : Nat) (falling : Bool), falling = s.bit (tb s.lead + TB.CTL) 2 → s.timeSrc = 1 → s.packageMoored = false → 3 ≤
    s.tm.outlierRun →
    Completes (.ppsEdge frac falling) s (fun t =>
      t.rd (tb s.lead + TB.PPS_REACQ) = wordOf (s.rdN (tb s.lead + TB.PPS_REACQ) + 1) ∧
      (∃ a, s.now s.lead + 50000 * ns40 ≤ a ∧ t.tm.pendStep = s.tm.pendStep ++ [(a, StepBy.load (-phaseErr (s.ppsStamp frac) * 2 ^
        24))]) ∧
      t.tm.outlierRun = 0 ∧ t.tm.lastAccepted = some s.cycle)) ∧
  (∀ (s : State) (frac : Nat) (falling : Bool), falling = s.bit (tb s.lead + TB.CTL) 2 → s.timeSrc = 1 → s.packageMoored = false →
    s.tm.outlierRun < 3 → (phaseErr (s.ppsStamp frac)).natAbs ≤ s.rdN (tb s.lead + TB.PPS_WINDOW) * 65536 → s.tm.ppsSeconds = none →
    s.tm.ppsStarted = true → s.bit (tb s.lead + TB.STATUS) 3 = false →
    Completes (.ppsEdge frac falling) s (fun t =>
      (∃ a, s.now s.lead + 50000 * ns40 ≤ a ∧ t.tm.pendRate = s.tm.pendRate ++ [(a, RateChange.source (s.tm.srcRate + ppsCorrection
        (phaseErr (s.ppsStamp frac)) (s.tm.integ + phaseErr (s.ppsStamp frac))))]) ∧
      t.tm.lastAccepted = some s.cycle ∧
      t.tm.outlierRun = 0)) ∧
  (∀ (s : State) (frac : Nat) (falling : Bool), falling ≠ s.bit (tb s.lead + TB.CTL) 2 →
    Completes (.ppsEdge frac falling) s (fun t =>
      t = s)) ∧
  (∀ (s : State), s.timeSrc = 1 → msec 2000 ≤ s.sinceSource s.tm.lastAccepted →
    Completes .ppsSourceLost s (fun t =>
      (∀ d ∈ s.timeDies, t.bit (tb d + TB.STATUS) 4 = true ∧ t.bit (tb d + TB.STATUS) 3 = true ∧ t.bit (tb d + TB.STATUS) 0 = false) ∧
      t.tm.holdSince.isSome = true ∧
      t.tm.srcRate = s.tm.srcRate)) ∧
  (∀ (s : State), s.tm.holdSince.isSome = true → s.rdN (tb s.lead + TB.HOLD_LIMIT) < s.holdEst →
    Completes .holdLimitExceeded s (fun t =>
      (∀ d ∈ s.timeDies, t.bit (tb d + TB.STATUS) 2 = true) ∧
      t.tm.srcRate = s.tm.srcRate)) ∧
  (∀ (s : State) (die req : Nat), s.present die = true →
    Completes (.ppscapRead die req) s (fun t =>
      t.resp = .data [s.rd (tb die + TB.PPSCAP0)] ∧
      t.latched req (tb die + TB.PPSCAP1) = s.rd (tb die + TB.PPSCAP1) ∧
      t.latched req (tb die + TB.PPSCAP2) = s.rd (tb die + TB.PPSCAP2) ∧
      t.regs = s.regs))

/-- Alignment messages go to every other die, replies give a correction, and a correction is applied in steps of 1/16 ns. R57-R59, for
the dies that the lead reaches. ALIGN_TICK, 1 ms after the last: one message with the lead's stamp to each other die. ALIGN_MSG_RX:
the die answers with its stamps. ALIGN_REPLY_RX: the correction is sent; the largest of the last second is in ALIGN_MAX, and
ALIGN_FAULT says whether it is above 1 ns. ALIGN_CORRECTION_RX: the die has the correction to apply; its counter stays, and the next
cycle adds 1 ns, the rate word and at most 1/16 ns of it. -/
def Obligations.Alignment : Prop :=
  (∀ (s : State), s.passed s.tm.alignAt (msec 1) = true →
    Completes .alignTick s (fun t =>
      (∀ d ∈ s.timeDies, d ≠ s.lead → { kind := .alignMsg, unit := d, data := [s.stamp s.lead] } ∈ t.out) ∧
      (t.out.length = s.out.length + (s.timeDies.filter (fun d => d ≠ s.lead)).length) ∧
      t.tm.alignAt = some s.cycle ∧
      t.regs = s.regs)) ∧
  (∀ (s : State) (die t1 : Nat), s.aligned die = true →
    Completes (.alignMsgRx die t1) s (fun t =>
      t.out = { kind := .alignReply, unit := die, data := [t1, s.stamp die, s.stamp die] } :: s.out ∧
      t.regs = s.regs)) ∧
  (∀ (s : State) (die t1 rxStamp txStamp : Nat), s.aligned die = true →
    Completes (.alignReplyRx die t1 rxStamp txStamp) s (fun t =>
      t.out = { kind := .alignCorr, unit := die, data := [unsignedOf 64 (alignCorrection t1 rxStamp txStamp (s.stamp s.lead))] } ::
        s.out ∧
      t.rd (tb s.lead + TB.ALIGN_MAX) = wordOf (Nat.max s.alignMax (alignCorrection t1 rxStamp txStamp (s.stamp s.lead)).natAbs) ∧
      t.bit (tb s.lead + TB.STATUS) 6 = decide (65536 < Nat.max s.alignMax (alignCorrection t1 rxStamp txStamp (s.stamp
        s.lead)).natAbs) ∧
      RegsBut s t [tb s.lead + TB.ALIGN_MAX, tb s.lead + TB.STATUS])) ∧
  (∀ (s : State) (die : Nat) (corr : Int), s.aligned die = true →
    Completes (.alignCorrectionRx die corr) s (fun t =>
      (t.timeOf die).corr = corr * 2 ^ 24 ∧
      t.now die = s.now die ∧
      t.tick.now die = ((s.now die : Int) + 2 ^ 40 + s.cycleAdd + clampInt (-(2 ^ 36)) (2 ^ 36) (corr * 2 ^ 24)).toNat ∧
      t.rd (tb die + TB.ALIGN_OFS) = wordOfInt corr ∧
      RegsBut s t [tb die + TB.ALIGN_OFS]))

/-- Time alarms arm and fire, and PPS_OUT is driven for its width. R68, R71, R72. That the old lead drives the pulse to the end of the
second of a role move is log entry 88. ALARM_COMMIT: time, period and control take effect. ALARM_FIRE of a one-shot alarm: FIRED, and
the alarm is disarmed. ALARM_FIRE of a periodic alarm: it rearms one period on. PPS_OUT_START: the pin goes high for PPSOUT_WIDTH,
once a second. PPS_OUT_END: the width has passed, and the steward that began the pulse ends it. -/
def Obligations.AlarmsAndPulse : Prop :=
  (∀ (s : State) (die alarm req v : Nat), s.present die = true → v.testBit 0 = true → alarm < 16 → dtValid (s.rdDt (alarmK die alarm +
    TB.ALARM_T0)) = true →
    Completes (.alarmCommit die alarm req v) s (fun t =>
      (t.alarm die alarm).val = dtUnpack (s.rdDt (alarmK die alarm + TB.ALARM_T0)) ∧
      (t.alarm die alarm).armed = s.bit (alarmK die alarm + TB.ALARM_CTL) 0 ∧
      (t.alarm die alarm).per = s.rdN (alarmK die alarm + TB.ALARM_PER) ∧
      (t.alarm die alarm).late = decide ((t.alarm die alarm).val ≤ s.stamp die) ∧
      t.regs = s.regs)) ∧
  (∀ (s : State) (die alarm : Nat), s.present die = true → alarm < 16 → (s.alarm die alarm).armed = true → (s.alarm die alarm).val ≤
    s.stamp die → (s.alarm die alarm).ctl.testBit 1 = false →
    Completes (.alarmFire die alarm) s (fun t =>
      (t.alarm die alarm).armed = false ∧
      t.bit (alarmK die alarm + TB.ALARM_STAT) 0 = true ∧
      (die < 4 → (576 + alarm, (s.alarm die alarm).val, s.cycle) ∈ (t.efS die).pulses) ∧
      RegsBut s t [alarmK die alarm + TB.ALARM_STAT])) ∧
  (∀ (s : State) (die alarm : Nat), s.present die = true → alarm < 16 → (s.alarm die alarm).armed = true → (s.alarm die alarm).val ≤
    s.stamp die → (s.alarm die alarm).ctl.testBit 1 = true → (s.alarm die alarm).per ≠ 0 →
    Completes (.alarmFire die alarm) s (fun t =>
      (t.alarm die alarm).armed = true ∧
      (t.alarm die alarm).val = (s.alarm die alarm).val + (s.alarm die alarm).per * 65536 ∧
      t.bit (alarmK die alarm + TB.ALARM_STAT) 0 = true)) ∧
  (∀ (s : State), s.bit (tb (s.ppsDriver (((((s.stamp s.lead : Int) - s.rdI (tb s.lead + TB.PPSOUT_OFS) * 65536)).toNat) / sec16)) +
    TB.CTL) 3 = true → 0 ≤ ((s.stamp s.lead : Int) - s.rdI (tb s.lead + TB.PPSOUT_OFS) * 65536) → ((((s.stamp s.lead : Int) - s.rdI (tb
    s.lead + TB.PPSOUT_OFS) * 65536)).toNat) % sec16 < 2 * 65536 → s.tm.ppsLastSec ≠ some (((((s.stamp s.lead : Int) - s.rdI (tb s.lead
    + TB.PPSOUT_OFS) * 65536)).toNat) / sec16) →
    Completes .ppsOutStart s (fun t =>
      t.out =
        { kind := .pinPpsOut, unit := (s.ppsDriver (((((s.stamp s.lead : Int) - s.rdI (tb s.lead + TB.PPSOUT_OFS) * 65536)).toNat) / sec16)), data := [1] }
        :: s.out ∧
      t.tm.ppsOutEnd = some ((s.ppsDriver (((((s.stamp s.lead : Int) - s.rdI (tb s.lead + TB.PPSOUT_OFS) * 65536)).toNat) / sec16)),
        s.cycle + s.rdN (tb (s.ppsDriver (((((s.stamp s.lead : Int) - s.rdI (tb s.lead + TB.PPSOUT_OFS) * 65536)).toNat) / sec16)) +
        TB.PPSOUT_WIDTH)) ∧
      t.tm.ppsLastSec = some (((((s.stamp s.lead : Int) - s.rdI (tb s.lead + TB.PPSOUT_OFS) * 65536)).toNat) / sec16) ∧
      t.regs = s.regs)) ∧
  (∀ (s : State) (d e : Nat), s.tm.ppsOutEnd = some (d, e) → e ≤ s.cycle →
    Completes .ppsOutEnd s (fun t =>
      t.out = { kind := .pinPpsOut, unit := d, data := [0] } :: s.out ∧
      t.tm.ppsOutEnd = none ∧
      t.regs = s.regs))

/-- Deals are counted and servoed on, stopped deals mean holdover, and a lost clock is reported until REFCLK is back. R73-R82 for deals
of the worker's upstream port, whose payload the received characters spell; R47 for FCLK's reference. DEAL_RX of the enabled port and
domain while the servo runs and the offset is within STEP_THRESH: counted, its offset and delay reported, and a rate word with the
trim of R80 issued. The first accepted deal steps the worker by its offset. A deal that came over three hops is refused and HIER_LOOP
set. DEAL_TIMEOUT: the worker enters holdover. CLOCK_LOSS, REFCLK without an edge for 1 µs: FAULT_N is low, the clock-loss level is
up on every die, and stamps are UNSYNC from now on. While the clock is lost it is an interruption, from which REFCLK's presence
counts anew. CLOCK_RESTORE after 10 ms of REFCLK without interruption: clock loss no longer holds FAULT_N low, and TIME_UNSYNC stays.
A shorter presence does not end the state. -/
def Obligations.DealsAndClock : Prop :=
  (∀ (s : State) (port tArr : Nat) (groups : List Nat) (m : List Byte), s.portOk port = true → s.lpRole port = 2 → s.lpState port = 8 →
    msgOf groups = some (3, m) → m.length = 24 → s.moored (port / 32) = false → s.bit (tb s.lead + TB.HIER_CTL) 15 = true → port =
    s.fld (tb s.lead + TB.HIER_CTL) 14 8 → leAt m 23 1 = s.fld (tb s.lead + TB.HIER_CTL) 31 24 → leAt m 22 1 % 16 < 3 →
    s.tm.dealLastSeq ≠ some (leAt m 20 2) → s.tm.pendStep = [] → s.timeSrc = 3 → s.bit (tb s.lead + TB.STATUS) 3 = false →
    s.tm.dealStarted = true → ((((dtUnpack (leAt m 0 12) : Nat) : Int) + leAt m 12 4 - tArr)).natAbs ≤ s.rdN (tb s.lead +
    TB.STEP_THRESH) * 65536 →
    Completes (.dealRx port tArr groups) s (fun t =>
      t.rd (tb s.lead + TB.DEAL_RX) = wordOf (s.rdN (tb s.lead + TB.DEAL_RX) + 1) ∧
      t.rd (tb s.lead + TB.HOP_DELAY) = wordOf (leAt m 12 4) ∧
      t.rd (tb s.lead + TB.DEAL_OFS) = wordOfInt (((dtUnpack (leAt m 0 12) : Nat) : Int) + leAt m 12 4 - tArr) ∧
      t.fld (tb s.lead + TB.HIER_CTL) 7 6 = leAt m 22 1 % 16 + 1 ∧
      t.tm.dealLastSeq = some (leAt m 20 2) ∧ t.tm.lastDeal = some s.cycle ∧ t.tm.dealSum = s.tm.dealSum + (((dtUnpack (leAt m 0 12) :
        Nat) : Int) + leAt m 12 4 - tArr) ∧
      (∃ a, s.now s.lead + 50000 * ns40 ≤ a ∧ t.tm.pendRate = s.tm.pendRate ++ [(a, RateChange.source (signed 32 (leAt m 16 4) +
        dealTrim (s.fld (tb s.lead + TB.SERVO) 4 0) (s.fld (tb s.lead + TB.SERVO) 12 8) (s.rdN (tb s.lead + TB.DEAL_INTERVAL))
        (((dtUnpack (leAt m 0 12) : Nat) : Int) + leAt m 12 4 - tArr) (s.tm.dealSum + (((dtUnpack (leAt m 0 12) : Nat) : Int) + leAt m
        12 4 - tArr))))]))) ∧
  (∀ (s : State) (port tArr : Nat) (groups : List Nat) (m : List Byte), s.portOk port = true → s.lpRole port = 2 → s.lpState port = 8 →
    msgOf groups = some (3, m) → m.length = 24 → s.moored (port / 32) = false → s.bit (tb s.lead + TB.HIER_CTL) 15 = true → port =
    s.fld (tb s.lead + TB.HIER_CTL) 14 8 → leAt m 23 1 = s.fld (tb s.lead + TB.HIER_CTL) 31 24 → leAt m 22 1 % 16 < 3 →
    s.tm.dealLastSeq ≠ some (leAt m 20 2) → s.tm.pendStep = [] → s.timeSrc = 3 → s.tm.dealStarted = false →
    Completes (.dealRx port tArr groups) s (fun t =>
      (∃ a, s.now s.lead + 50000 * ns40 ≤ a ∧ t.tm.pendStep = [(a, StepBy.add ((((dtUnpack (leAt m 0 12) : Nat) : Int) + leAt m 12 4 -
        tArr) * 2 ^ 24))]) ∧
      t.tm.dealStarted = true ∧
      t.rd (tb s.lead + TB.DEAL_RX) = wordOf (s.rdN (tb s.lead + TB.DEAL_RX) + 1))) ∧
  (∀ (s : State) (port tArr : Nat) (groups : List Nat) (m : List Byte), s.portOk port = true → s.lpRole port = 2 → s.lpState port = 8 →
    msgOf groups = some (3, m) → m.length = 24 → s.moored (port / 32) = false → s.bit (tb s.lead + TB.HIER_CTL) 15 = true → port =
    s.fld (tb s.lead + TB.HIER_CTL) 14 8 → leAt m 23 1 = s.fld (tb s.lead + TB.HIER_CTL) 31 24 → 3 ≤ leAt m 22 1 % 16 →
    Completes (.dealRx port tArr groups) s (fun t =>
      t.rd (tb s.lead + TB.DEAL_BAD) = wordOf (s.rdN (tb s.lead + TB.DEAL_BAD) + 1) ∧
      t.bit (tb s.lead + TB.STATUS) 7 = true ∧
      RegsBut s t [tb s.lead + TB.DEAL_BAD, tb s.lead + TB.STATUS] ∧
      t.tm = s.tm)) ∧
  (∀ (s : State), s.timeSrc = 3 → usec (8 * s.rdN (tb s.lead + TB.DEAL_INTERVAL)) ≤ s.sinceSource s.tm.lastDeal →
    Completes .dealTimeout s (fun t =>
      (∀ d ∈ s.timeDies, t.bit (tb d + TB.STATUS) 4 = true ∧ t.bit (tb d + TB.STATUS) 3 = true ∧ t.bit (tb d + TB.STATUS) 0 = false) ∧
      t.tm.holdSince.isSome = true)) ∧
  (∀ (s : State) (absent : Nat), s.tm.clkLost = false → 1000 ≤ absent →
    Completes (.clockLoss absent) s (fun t =>
      t.tm.clkLost = true ∧ t.tm.clkLostAt = s.cycle ∧
      1 ∈ t.faultWhy ∧
      (∀ d ∈ s.dies, t.bit (tb d + TB.STATUS) 2 = true) ∧
      ((∀ d ∈ s.concs, t.concLevel d 207 = true) ∧ (∀ d ∈ s.stewards, t.stLevel d 46 = true)))) ∧
  (∀ (s : State) (absent : Nat), s.tm.clkLost = true → 1000 ≤ absent →
    Completes (.clockLoss absent) s (fun t =>
      t = s.setTm { s.tm with clkLostAt := s.cycle })) ∧
  (∀ (s : State) (present : Nat), s.tm.clkLost = true → msec 10 ≤ present → s.tm.clkLostAt + present ≤ s.cycle →
    Completes (.clockRestore present) s (fun t =>
      t.tm = { s.tm with clkLost := false } ∧
      1 ∉ t.faultWhy ∧
      t.regs = s.regs)) ∧
  (∀ (s : State) (present : Nat), present < msec 10 →
    Completes (.clockRestore present) s (fun t =>
      t = s))

/-- Writes of COMMIT and CMD of a camera port commit its shadows or move its training state. R119-R124 and R139, for every port and
every state that the command acts in. LP_COMMIT: every shadowed register takes effect. A refused commit changes no committed value.
LP_RETRAIN: RUN to RETRAIN. LP_FULL_RETRAIN: RUN to WAKE. LP_FAULT_CLEAR: FAULT to DETECT, at the configured class. LP_PORT_RESET
with PWR_EN: IDLE, with cable power off for 200 ms and the transmit queue empty. PORT_RESET_OFF_DONE of an enabled port: DETECT. A
port that is not enabled stays where it is. -/
def Obligations.PortCommands : Prop :=
  (∀ (s : State) (port req v : Nat), s.portOk port = true → v.testBit 0 = true → s.lpRefused port = false →
    Completes (.lpCommit port req v) s (fun t =>
      (∀ k ∈ lpShadowed port, t.act k = s.rd k) ∧
      (∀ k, k ∉ lpShadowed port → t.act k = s.act k))) ∧
  (∀ (s : State) (port req v : Nat), s.portOk port = true → v.testBit 0 = true → s.lpRefused port = true →
    Completes (.lpCommit port req v) s (fun t =>
      t.acts = s.acts ∧
      t.ports = s.ports)) ∧
  (∀ (s : State) (port req v : Nat), s.portOk port = true → v % 16 = 1 → s.lpRun port = true →
    Completes (.lpRetrain port req v) s (fun t =>
      t.lpState port = 9 ∧
      t.fld (lp port + LP.STATE) 7 4 = 8 ∧
      t.bit (lp port + LP.BLK_STATUS) 0 = false ∧
      (t.port port).retrainStep = 0)) ∧
  (∀ (s : State) (port req v : Nat), s.portOk port = true → v % 16 = 3 → s.lpRun port = true →
    Completes (.lpFullRetrain port req v) s (fun t =>
      t.lpState port = 2 ∧
      t.fld (lp port + LP.STATE) 7 4 = 8 ∧
      (t.port port).wakeAt = s.cycle)) ∧
  (∀ (s : State) (port req v : Nat), s.portOk port = true → v.testBit 2 = true → v.testBit 3 = false → s.lpState port = 10 →
    Completes (.lpFaultClear port req v) s (fun t =>
      t.lpState port = 1 ∧
      (t.port port).attempts = 0 ∧
      (t.port port).fallback = none ∧
      t.fld (lp port + LP.STATE) 9 8 = s.afld (lp port + LP.CTL) 1 0)) ∧
  (∀ (s : State) (port req v : Nat), s.portOk port = true → v.testBit 3 = true → s.abit (lp port + LP.CTL) 5 = true →
    Completes (.lpPortReset port req v) s (fun t =>
      t.lpState port = 0 ∧
      (t.port port).offUntil = some (s.cycle + msec 200) ∧
      (t.port port).txq = [] ∧
      t.fld (lp port + LP.TX_STAT) 3 0 = 8)) ∧
  (∀ (s : State) (port e : Nat), s.portOk port = true → (s.port port).offUntil = some e → e ≤ s.cycle → s.abit (lp port + LP.CTL) 4 =
    true →
    Completes (.portResetOffDone port) s (fun t =>
      t.lpState port = 1 ∧
      (t.port port).offUntil = none)) ∧
  (∀ (s : State) (port e : Nat), s.portOk port = true → (s.port port).offUntil = some e → e ≤ s.cycle → s.abit (lp port + LP.CTL) 4 =
    false →
    Completes (.portResetOffDone port) s (fun t =>
      (t.port port).offUntil = none ∧
      t.regs = s.regs))

/-- The training of a camera port moves from state to state as the signal, frames and equaliser report. R97-R117 for a port that is not
in the up role. SIG_DET: 50 mV for 2 µs move DETECT to WAKE. 30 mV for 100 ns clear SIG_DET. COARSE_LOCK: WAKE to TRAIN_CDR; the echo
canceller reports at least 30 dB. TRAINING_FRAME_RX in TRAIN_EQ: the status field is reported. In TRAIN_CDR valid frames are counted
up to four. PRECODE ends when the head answers as asked and the checker counts fewer than 4 errors in 2^16 symbols. A frame that is
not valid starts the count anew. EQ_CONVERGED: TRAIN_EQ to TRAIN_TX, with the request of INIT_PRESET; the CTLE setting holds unless
it is overridden. TAP_TIMEOUT: counted, and the attempt fails with cause 4. TRAIN_TIMEOUT: the attempt fails with the cause of its
state; without a signal it does not count. -/
def Obligations.PortTraining : Prop :=
  (∀ (s : State) (port mv held : Nat) (ad : Adapt), s.portOk port = true → s.lpState port = 1 → s.lpRole port ≠ 2 → s.bit (lp port +
    LP.STATUS) 3 = false → 50 ≤ mv → 2000 ≤ held →
    Completes (.sigDet port mv held ad) s (fun t =>
      t.lpState port = 2 ∧
      t.bit (lp port + LP.STATUS) 0 = true ∧
      (t.port port).wakeAt = s.cycle)) ∧
  (∀ (s : State) (port mv held : Nat) (ad : Adapt), s.portOk port = true → s.lpState port ≠ 0 → s.lpRole port ≠ 2 → s.bit (lp port +
    LP.STATUS) 3 = false → s.bit (lp port + LP.STATUS) 0 = true → mv ≤ 30 → 100 ≤ held →
    Completes (.sigDet port mv held ad) s (fun t =>
      t.bit (lp port + LP.STATUS) 0 = false ∧
      RegsBut s t [lp port + LP.STATUS])) ∧
  (∀ (s : State) (port : Nat) (ad : Adapt), s.portOk port = true → s.lpRole port ≠ 2 → s.lpState port = 2 → (s.port port).rateSets =
    none → s.bit (lp port + LP.STATUS) 3 = false →
    Completes (.coarseLock port ad) s (fun t =>
      t.lpState port = 3 ∧
      t.bit (lp port + LP.STATUS) 1 = true ∧
      30 ≤ t.rdN (lp port + LP.ECHO_STAT) ∧
      (ad.echo ≤ 255 → t.rdN (lp port + LP.ECHO_STAT) = Nat.max 30 ad.echo))) ∧
  (∀ (s : State) (port : Nat) (lvls : List Nat) (ad : Adapt) (status : Nat), s.portOk port = true → s.lpRole port ≠ 2 → s.lpState port
    = 4 → frameStatus lvls = some status →
    Completes (.trainingFrameRx port lvls ad) s (fun t =>
      t.rd (lp port + LP.HEAD_STAT0) = wordOf status ∧
      t.rd (lp port + LP.HEAD_STAT1) = wordOf (nbits status 47 32) ∧
      t.bit (lp port + LP.STATUS) 4 = true ∧
      t.lpState port = 4)) ∧
  (∀ (s : State) (port : Nat) (lvls : List Nat) (ad : Adapt) (status : Nat), s.portOk port = true → s.lpRole port ≠ 2 → s.lpState port
    = 3 → frameStatus lvls = some status → (s.port port).frames < 3 →
    Completes (.trainingFrameRx port lvls ad) s (fun t =>
      (t.port port).frames = (s.port port).frames + 1 ∧
      t.lpState port = 3)) ∧
  (∀ (s : State) (port : Nat) (lvls : List Nat) (ad : Adapt) (status : Nat), s.portOk port = true → s.lpRole port ≠ 2 → s.lpState port
    = 6 → frameStatus lvls = some status → status.testBit 31 = (s.port port).precodeReq → (((s.adapt port ad).checkFrame port lvls
    (status.testBit 31)).port port).prbsClean 16 = true →
    Completes (.trainingFrameRx port lvls ad) s (fun t =>
      t.lpState port = 7 ∧
      t.bit (lp port + LP.STATE) 10 = (s.port port).precodeReq)) ∧
  (∀ (s : State) (port : Nat) (lvls : List Nat) (ad : Adapt), s.portOk port = true → s.lpRole port ≠ 2 → s.lpState port = 3 →
    frameStatus lvls = none →
    Completes (.trainingFrameRx port lvls ad) s (fun t =>
      (t.port port).frames = 0 ∧
      t.lpState port = 3 ∧
      t.rd (lp port + LP.HEAD_STAT0) = s.rd (lp port + LP.HEAD_STAT0))) ∧
  (∀ (s : State) (port ctle : Nat), s.portOk port = true → s.lpRole port ≠ 2 → s.lpState port = 4 → (s.port port).tapsStill = true →
    (s.port port).prbsClean 20 = true →
    Completes (.eqConverged port ctle) s (fun t =>
      t.lpState port = 5 ∧
      t.bit (lp port + LP.STATUS) 2 = true ∧
      (t.port port).tapReq = (s.port port).trainPreset * 64 ∧
      (t.port port).tapCount = 0 ∧ (t.port port).tapAt = s.cycle ∧
      t.fld (lp port + LP.EQ_STAT) 3 0 = if s.abit (lp port + LP.EQ_CTL) 1 then s.afld (lp port + LP.EQ_CTL) 7 4 else ctle % 16)) ∧
  (∀ (s : State) (port : Nat), s.portOk port = true → s.lpRole port ≠ 2 → s.lpState port = 5 → (s.port port).tapAt + usec 200 ≤ s.cycle
    →
    Completes (.tapTimeout port) s (fun t =>
      t.rdN (lp port + LP.TAP_TIMEOUT) = Nat.min 0xFFFFFFFF (s.rdN (lp port + LP.TAP_TIMEOUT) + 1) ∧
      t.rd (lp port + LP.FAULT_CAUSE) = wordOf (4 + 5 * 16 + Nat.min 255 ((s.port port).attempts + 1) * 256) ∧
      (t.lpState port = 2 ∨ t.lpState port = 10))) ∧
  (∀ (s : State) (port : Nat), s.portOk port = true → s.lpRole port ≠ 2 → stateTimeout (s.lpState port) ≠ 0 → (s.port port).rateSets =
    none → (s.port port).entered + usec (stateTimeout (s.lpState port)) * clsMul (s.lpRate port) ≤ s.cycle →
    Completes (.trainTimeout port) s (fun t =>
      t.rd (lp port + LP.FAULT_CAUSE) = wordOf (timeoutCause (s.lpState port) + s.lpState port * 16 + Nat.min 255 (if s.bit (lp port +
        LP.STATUS) 0 then (s.port port).attempts + 1 else (s.port port).attempts) * 256) ∧
      (t.lpState port = 2 ∨ t.lpState port = 10)))

/-- A lost head, a frequency error, the end of FAULT and a failed re-lock move the port as the table of states says. R100, R118, R124,
R129. HEAD_LOST: without SIG_DET for 1 ms, in forward idle for 2 ms: DETECT, with its event. FREQ_ERR during training, beyond 100 ppm
for 1 ms: reported. FREQ_ERR in RUN: RETRAIN. Within 100 ppm FREQ_ERR clears. FAULT_HOLD_EXPIRE: DETECT. IDLE_EXIT: the port
re-locks. RELOCK_FAIL: RETRAIN. TRAINING_SET_RX: a port in the up role follows the state and the class that a valid set names, and
sends what the state calls for. -/
def Obligations.PortLosses : Prop :=
  (∀ (s : State) (port : Nat), s.portOk port = true → s.lpRole port ≠ 2 → 2 ≤ s.lpState port → s.lpState port ≤ 9 → s.bit (lp port +
    LP.STATUS) 0 = false → (if s.bit (lp port + LP.STATUS) 3 then (s.port port).idleAt + msec 2 else (s.port port).sigLostAt + msec 1)
    ≤ s.cycle →
    Completes (.headLost port) s (fun t =>
      t.lpState port = 1 ∧
      t.bit (lp port + LP.EVENTS) 11 = true ∧
      t.rd (lp port + LP.DLY_STAT) = 0#32 ∧ t.rd (lp port + LP.DLY_FILT) = 0#32)) ∧
  (∀ (s : State) (port : Nat) (ppm : Int) (held : Nat), s.portOk port = true → s.lpRole port ≠ 2 → 2 ≤ s.lpState port → s.lpState port
    ≤ 9 → s.lpRun port = false → 100 < ppm.natAbs → msec 1 ≤ held →
    Completes (.freqErr port ppm held) s (fun t =>
      t.bit (lp port + LP.STATUS) 7 = true ∧
      t.bit (lp port + LP.EVENTS) 10 = true ∧
      RegsBut s t [lp port + LP.STATUS, lp port + LP.EVENTS] ∧
      t.ports = s.ports)) ∧
  (∀ (s : State) (port : Nat) (ppm : Int) (held : Nat), s.portOk port = true → s.lpRole port ≠ 2 → s.lpRun port = true → 100 <
    ppm.natAbs → msec 1 ≤ held →
    Completes (.freqErr port ppm held) s (fun t =>
      t.lpState port = 9 ∧
      t.fld (lp port + LP.STATE) 7 4 = 8)) ∧
  (∀ (s : State) (port : Nat) (ppm : Int) (held : Nat), s.portOk port = true → s.lpRole port ≠ 2 → 2 ≤ s.lpState port → s.lpState port
    ≤ 9 → ppm.natAbs ≤ 100 →
    Completes (.freqErr port ppm held) s (fun t =>
      t.bit (lp port + LP.STATUS) 7 = false ∧
      RegsBut s t [lp port + LP.STATUS] ∧
      t.ports = s.ports)) ∧
  (∀ (s : State) (port : Nat), s.portOk port = true → s.lpRole port ≠ 2 → s.lpState port = 10 → (s.port port).entered + msec (s.afld
    (lp port + LP.RETRY) 23 8) ≤ s.cycle →
    Completes (.faultHoldExpire port) s (fun t =>
      t.lpState port = 1 ∧
      (t.port port).attempts = 0)) ∧
  (∀ (s : State) (port : Nat), s.portOk port = true → s.lpRun port = true → s.bit (lp port + LP.STATUS) 3 = true →
    Completes (.idleExit port) s (fun t =>
      t.bit (lp port + LP.STATUS) 0 = true ∧
      (t.port port).relock = true ∧
      (t.port port).relockAt = s.cycle ∧
      RegsBut s t [lp port + LP.STATUS])) ∧
  (∀ (s : State) (port : Nat), s.portOk port = true → s.lpRun port = true → (s.port port).relock = true → (s.port port).relockAt + usec
    1 * clsMul (s.lpRate port) ≤ s.cycle →
    Completes (.relockFail port) s (fun t =>
      t.lpState port = 9 ∧
      (t.port port).retrainStep = 0)) ∧
  (∀ (s : State) (port : Nat) (groups : List Nat) (st mode req seq : Nat), s.portOk port = true → s.lpRole port = 2 → s.abit (lp port +
    LP.CTL) 4 = true → setOf groups = some (st, mode, req, seq) →
    Completes (.trainingSetRx port groups) s (fun t =>
      (t.port port).headState = st ∧
      t.lpState port = st % 16 ∧
      t.fld (lp port + LP.STATE) 9 8 = mode % 4 ∧
      (st = 3 → t.out.head?.map (fun o => (o.kind, o.unit)) = some (.fwd, port))))

/-- An eye scan starts, writes its points, stops, and is refused where it cannot run. R132-R134, R141. ES_START: the scan runs. A
refused START reports REFUSED. ES_STOP: the scan ends as STOPPED. ES_POINT_DONE: the count of a point is written; a point that is not
the last moves on. The last point ends the scan as DONE. -/
def Obligations.EyeScan : Prop :=
  (∀ (s : State) (port req v : Nat), s.portOk port = true → v.testBit 0 = true → s.bit (lp port + LP.STATUS) 6 = false → s.esRefused
    port = false →
    Completes (.esStart port req v) s (fun t =>
      t.rd (lp port + LP.ES_STATUS) = 1#32 ∧
      t.bit (lp port + LP.STATUS) 6 = true ∧
      (∀ i, i < 4096 → t.rd (lp port + LP.ES_RESULT + 4 * i) = resetWord (lp port + LP.ES_RESULT + 4 * i)))) ∧
  (∀ (s : State) (port req v : Nat), s.portOk port = true → v.testBit 0 = true → s.bit (lp port + LP.STATUS) 6 = false → s.esRefused
    port = true →
    Completes (.esStart port req v) s (fun t =>
      t.fld (lp port + LP.ES_STATUS) 2 0 = 5 ∧
      t.bit (lp port + LP.EVENTS) 5 = true ∧
      RegsBut s t [lp port + LP.ES_STATUS, lp port + LP.EVENTS])) ∧
  (∀ (s : State) (port req v : Nat), s.portOk port = true → v.testBit 1 = true → s.bit (lp port + LP.STATUS) 6 = true →
    Completes (.esStop port req v) s (fun t =>
      t.fld (lp port + LP.ES_STATUS) 2 0 = 3 ∧
      t.bit (lp port + LP.STATUS) 6 = false ∧
      t.bit (lp port + LP.EVENTS) 5 = true)) ∧
  (∀ (s : State) (port errors : Nat), s.portOk port = true → s.bit (lp port + LP.STATUS) 6 = true → (s.fld (lp port + LP.ES_STATUS) 28
    16) + 1 < s.esPoints port → (s.fld (lp port + LP.ES_STATUS) 28 16) < 4096 →
    Completes (.esPointDone port errors) s (fun t =>
      t.rd (lp port + LP.ES_RESULT + 4 * (s.fld (lp port + LP.ES_STATUS) 28 16)) = wordOf (0x80000000 + Nat.min 0xFFFFFF (Nat.min (2 ^
        s.fld (lp port + LP.ES_CTL) 12 8) errors)) ∧
      t.fld (lp port + LP.ES_STATUS) 28 16 = (s.fld (lp port + LP.ES_STATUS) 28 16) + 1 ∧
      t.bit (lp port + LP.STATUS) 6 = true)) ∧
  (∀ (s : State) (port errors : Nat), s.portOk port = true → s.bit (lp port + LP.STATUS) 6 = true → s.esPoints port ≤ s.fld (lp port +
    LP.ES_STATUS) 28 16 + 1 →
    Completes (.esPointDone port errors) s (fun t =>
      t.fld (lp port + LP.ES_STATUS) 2 0 = 2 ∧
      t.bit (lp port + LP.STATUS) 6 = false))

/-- Blocks, markers and packets of the forward channel are taken in their places. R142-R161 for a port in RUN that is not in the up
role and not in forward idle. FORWARD_BLOCK_RX: a DATA, CTRL or FILL block that decodes moves the position on and counts its
corrected bytes. MARKER_RX at a marker position: a new superframe. A block without the pattern there is a missed marker. PACKET_RX:
an accepted short packet is one word of the landing FIFO: its header, in the slot of its virtual channel. -/
def Obligations.BlocksAndPackets : Prop :=
  (∀ (s : State) (port frac : Nat) (lvls : List Nat) (ad : Adapt) (b : List Byte) (n : Nat), s.portOk port = true → s.lpRole port ≠ 2 →
    s.lpRun port = true → s.bit (lp port + LP.STATUS) 3 = false → (s.port port).pos ≠ 256 → rsDecode (s.rxBlock port lvls) = some (b,
    n) →
    Completes (.forwardBlockRx port frac lvls ad) s (fun t =>
      (t.port port).pos = (s.port port).pos + 1 ∧
      t.rdN (lp port + LP.RS_CORR) = Nat.min 0xFFFFFFFF (s.rdN (lp port + LP.RS_CORR) + n) ∧
      t.lpState port = 8 ∧
      (leAt b 0 2 % 4 = 3 → t.bit (lp port + LP.STATUS) 3 = true))) ∧
  (∀ (s : State) (port sym frac : Nat) (lvls : List Nat) (ad : Adapt) (b : List Byte) (n : Nat), s.portOk port = true → s.lpRole port ≠
    2 → s.lpRun port = true → s.bit (lp port + LP.STATUS) 3 = false → (s.port port).relock = false → (s.port port).pos = 256 → markerOf
    (s.rxBlock port lvls) = some (b, n) →
    Completes (.markerRx port sym frac lvls ad) s (fun t =>
      (t.port port).pos = 0 ∧
      (t.port port).missRun = 0 ∧
      t.fld (lp port + LP.BLK_STATUS) 31 16 = leAt b 16 2 ∧
      (t.port port).marks.head? = some (leAt b 16 2, markerStamp (s.lpRate port) (s.now (port / 32) + frac)))) ∧
  (∀ (s : State) (port sym frac : Nat) (lvls : List Nat) (ad : Adapt), s.portOk port = true → s.lpRole port ≠ 2 → s.lpRun port = true →
    s.bit (lp port + LP.STATUS) 3 = false → (s.port port).pos = 256 → markerOf (s.rxBlock port lvls) = none → (s.port port).missRun + 1
    < s.afld (lp port + LP.LOCK_CFG) 3 0 →
    Completes (.markerRx port sym frac lvls ad) s (fun t =>
      (t.port port).missRun = (s.port port).missRun + 1 ∧
      (t.port port).pos = 0 ∧
      t.rdN (lp port + LP.MARK_MISS) = Nat.min 0xFFFFFFFF (s.rdN (lp port + LP.MARK_MISS) + 1) ∧
      t.lpState port = 8)) ∧
  (∀ (s : State) (port : Nat) (b0 b1 b2 b3 : StreamByte) (d : Nat) (corr : Bool) (slot : Nat), s.portOk port = true → (s.port
    port).discard = false → (s.port port).cur = none → (s.port port).stream = [b0, b1, b2, b3] → hdrCheck (leNat [b0.val, b1.val,
    b2.val, b3.val]) = some (d, corr) → dtHandling (d % 64) = 1 → d % 64 < 16 → s.slotOf port (nbits d 25 24 * 4 + nbits d 7 6) = some
    slot → (s.port port).fullEnd = none → (s.port port).fifo.length < 505 →
    Completes (.packetRx port) s (fun t =>
      (t.port port).stream = [] ∧
      (t.port port).cur = none ∧
      (∃ w : FifoWord, (t.port port).fifo = (s.port port).fifo ++ [w] ∧ w.data % 2 ^ 24 = d % 2 ^ 24 ∧ w.tag % 4 = slot % 4 ∧ w.tag / 4
        % 32 = 0b10011 ∧ w.tag.testBit 9 = false) ∧
      t.rdN (lp port + LP.HDR_CORR) = if corr then Nat.min 0xFFFFFFFF (s.rdN (lp port + LP.HDR_CORR) + 1) else s.rdN (lp port +
        LP.HDR_CORR)))

/-- Messages of the head are taken in order and have the effect of their type. R167-R189: echoes, capabilities, reports, bus results
and vendor messages. DLY_ECHO_RX for no outstanding marker: counted as lost. An echo that fits gives a raw delay. HEAD_CAPS_RX: the
capabilities are stored, and no query is due. HEAD_REPORT_RX: the report is stored. BUS_RESULT_RX of an outstanding ID: it is free
again. A result with another ID is stray. VENDOR_RX: the message goes to the receive queue. -/
def Obligations.ForwardMessages : Prop :=
  (∀ (s : State) (port : Nat) (m : List Byte), (s.takeMsg port (· == 0x81)).map (fun r => r.1) = some (0x81, m) → (s.port
    port).markers.find? (fun e => e.1 == leAt m 0 1 && decide (s.cycle ≤ e.2.2 + usec 100)) = none →
    Completes (.dlyEchoRx port) s (fun t =>
      t.rdN (lp port + LP.DLY_LOST) = Nat.min 0xFFFFFFFF (s.rdN (lp port + LP.DLY_LOST) + 1) ∧
      RegsBut s t [lp port + LP.DLY_LOST])) ∧
  (∀ (s : State) (port : Nat) (m : List Byte) (i t1 c sfc stamp : Nat), s.portOk port = true → s.lpRole port ≠ 1 → (s.takeMsg port (·
    == 0x81)).map (fun r => r.1) = some (0x81, m) → (s.port port).markers.find? (fun e => e.1 == leAt m 0 1 && decide (s.cycle ≤ e.2.2
    + usec 100)) = some (i, t1, c) → (s.port port).marks.find? (fun e => e.1 == leAt m 1 2) = some (sfc, stamp) → s.bit (lp port +
    LP.DLY_STAT) 0 = false →
    Completes (.dlyEchoRx port) s (fun t =>
      t.rd (lp port + LP.DLY_RAW) = wordOfInt (rawDelay (s.lpRate port) stamp t1 (leAt m 3 2 * 512 + leAt m 5 2) (s.rdN (lp port +
        LP.DLY_TA)) (s.rdI (lp port + LP.DLY_ASYM))) ∧
      (∀ e ∈ (t.port port).markers, e.1 ≠ leAt m 0 1))) ∧
  (∀ (s : State) (port : Nat) (m : List Byte), (s.takeMsg port (· == 0x82)).map (fun r => r.1) = some (0x82, m) →
    Completes (.headCapsRx port) s (fun t =>
      (t.port port).capsValid = true ∧
      (t.port port).queryDue = false ∧
      (∀ i, i < 4 → t.rd (lp port + LP.CAPS + 4 * i) = wordOf (leAt m (4 * i) 4)) ∧
      t.rd (lp port + LP.DLY_TA) = wordOf (leAt m 5 3) ∧
      t.bit (lp port + LP.BLK_EVENTS) 3 = true)) ∧
  (∀ (s : State) (port : Nat) (m : List Byte), (s.takeMsg port (· == 0x83)).map (fun r => r.1) = some (0x83, m) →
    Completes (.headReportRx port) s (fun t =>
      (t.port port).headTimeOk = (leAt m 0 1).testBit 0 ∧
      (∀ i, i < 3 → t.rd (lp port + LP.REPORT + 4 * i) = wordOf (leAt m (4 * i) 4)))) ∧
  (∀ (s : State) (port : Nat) (m : List Byte), (s.takeMsg port (· == 0xA0)).map (fun r => r.1) = some (0xA0, m) → (s.port
    port).outst.any (fun e => e.1 == leAt m 0 1) = true →
    Completes (.busResultRx port) s (fun t =>
      ((t.port port).outst = (s.port port).outst.filter (fun e => e.1 != leAt m 0 1)))) ∧
  (∀ (s : State) (port : Nat) (m : List Byte), (s.takeMsg port (· == 0xA0)).map (fun r => r.1) = some (0xA0, m) → (s.port
    port).outst.any (fun e => e.1 == leAt m 0 1) = false →
    Completes (.busResultRx port) s (fun t =>
      t.rdN (lp port + LP.BUS_STRAY) = Nat.min 0xFFFFFFFF (s.rdN (lp port + LP.BUS_STRAY) + 1) ∧
      RegsBut s t [lp port + LP.BUS_STRAY] ∧
      (t.port port).outst = (s.port port).outst)) ∧
  (∀ (s : State) (port typ : Nat) (m : List Byte), (s.takeMsg port (fun x => decide (0xE0 ≤ x))).map (fun r => r.1) = some (typ, m) →
    (s.port port).rx.length + ceilDiv m.length 4 + 1 ≤ 256 →
    Completes (.vendorRx port) s (fun t =>
      (t.port port).rx.length = (s.port port).rx.length + ceilDiv m.length 4 + 1 ∧
      (t.port port).rx.take (s.port port).rx.length = (s.port port).rx ∧
      t.bit (lp port + LP.BLK_EVENTS) 6 = true))

/-- Messages of the back-channel fall due in RUN and leave when the channel is free. R165-R175, R78: a message that falls due waits
while another is being sent. BCH_MSG_SEND with a beacon due: the beacon leaves, stamped now. In RUN with nothing to send an idle pair
leaves. BEACON_TX: once in each millisecond of device time. DEAL_TX of a port in the down role, every DEAL_INTERVAL. DLY_MARK_TX,
every INTERVAL, to a head whose capabilities are known. HEAD_QUERY_TX while the capabilities are not known. DLY_MARK_TIMEOUT: the
marker is given up and counted. BUS_TIMEOUT: the ID is free again. DLY_MARK_RX of the up role: the echo names the symbol 140 symbols
on. HEAD_QUERY_RX of the up role: capabilities of version 1, no outputs and no buses wait to be sent. A message that is not whole is
discarded and counted. -/
def Obligations.BackChannel : Prop :=
  (∀ (s : State) (port : Nat), s.portOk port = true → s.lpRun port = true → s.lpRole port ≠ 2 → (s.port port).rateSets = none → (s.port
    port).clearDue = false → (s.port port).setsOwed = 0 → (s.port port).beaconDue = true → (s.port port).pulseq = [] →
    Completes (.bchMsgSend port) s (fun t =>
      (t.out.head?.map (fun o => (o.kind, o.unit, o.data)) = some (.bch, port, (encodeAll (s.port port).bchPos (msgChars 0x01 (leBytes
        (dtPack (s.stamp (port / 32))) 12 ++ leBytes (s.rdN (lp port + LP.DLY_FILT)) 4 ++ leBytes (s.port port).beaconSeq 1 ++ leBytes
        (b2n (s.bit (tb (port / 32) + TB.STATUS) 2) + 2 * b2n (s.bit (lp port + LP.DLY_STAT) 0)) 1))).1)) ∧
      (t.port port).beaconDue = false ∧
      (t.port port).bchBusy = true ∧
      t.regs = s.regs)) ∧
  (∀ (s : State) (port : Nat), s.portOk port = true → s.lpRun port = true → s.lpRole port ≠ 2 → (s.port port).rateSets = none → (s.port
    port).clearDue = false → (s.port port).setsOwed = 0 → (s.port port).beaconDue = false → (s.port port).dealDue = false → (s.port
    port).markDue = false → (s.port port).pulseq = [] → (s.port port).queryDue = false → (s.port port).txq = [] → (s.port port).gwq =
    [] →
    Completes (.bchMsgSend port) s (fun t =>
      (t.out.head?.map (fun o => (o.kind, o.unit, o.data)) = some (.bch, port, (encodeAll (s.port port).bchPos [charK28_5,
        charD16_2]).1)) ∧
      (t.port port).bchBusy = false ∧
      t.regs = s.regs)) ∧
  (∀ (s : State) (port : Nat), s.portOk port = true → s.lpRun port = true → s.lpRole port = 0 → (s.port port).lastBeacon ≠ s.stamp
    (port / 32) / (65536 * 1000000) → (s.port port).bchBusy = true →
    Completes (.beaconTx port) s (fun t =>
      t.port port = { s.port port with beaconDue := true, lastBeacon := s.stamp (port / 32) / (65536 * 1000000) } ∧
      t.regs = s.regs)) ∧
  (∀ (s : State) (port : Nat), s.portOk port = true → s.lpRun port = true → s.lpRole port = 1 → s.fld (tb s.lead + TB.HIER_CTL) 7 6 ≠ 3
    → (s.port port).lastDeal + usec (s.rdN (tb s.lead + TB.DEAL_INTERVAL)) ≤ s.cycle → (s.port port).bchBusy = true →
    Completes (.dealTx port) s (fun t =>
      t.port port = { s.port port with dealDue := true, lastDeal := s.cycle } ∧
      t.regs = s.regs)) ∧
  (∀ (s : State) (port : Nat), s.portOk port = true → s.lpRun port = true → s.lpRole port ≠ 2 → s.bit (lp port + LP.STATUS) 3 = false →
    s.bit (lp port + LP.DLY_CTL) 31 = false → (s.port port).capsValid = true → (s.port port).lastMark + usec (Nat.max 1 (s.fld (lp port
    + LP.DLY_CTL) 9 0)) ≤ s.cycle → (s.port port).bchBusy = true →
    Completes (.dlyMarkTx port) s (fun t =>
      t.port port = { s.port port with markDue := true, lastMark := s.cycle } ∧
      t.regs = s.regs)) ∧
  (∀ (s : State) (port : Nat), s.portOk port = true → s.lpRun port = true → s.lpRole port ≠ 2 → (s.port port).capsValid = false →
    (s.port port).lastQuery ≤ s.cycle → (s.port port).bchBusy = true →
    Completes (.headQueryTx port) s (fun t =>
      t.port port = { s.port port with queryDue := true, lastQuery := s.cycle + msec 1 } ∧
      t.regs = s.regs)) ∧
  (∀ (s : State) (port markId : Nat), s.portOk port = true → (s.port port).markers.any (fun e => e.1 == markId && decide (e.2.2 + usec
    100 ≤ s.cycle)) = true →
    Completes (.dlyMarkTimeout port markId) s (fun t =>
      ((t.port port).markers = (s.port port).markers.filter (fun e => e.1 != markId)) ∧
      t.rdN (lp port + LP.DLY_LOST) = Nat.min 0xFFFFFFFF (s.rdN (lp port + LP.DLY_LOST) + 1) ∧
      RegsBut s t [lp port + LP.DLY_LOST])) ∧
  (∀ (s : State) (port id i bus c : Nat), s.portOk port = true → (s.port port).outst.find? (fun e => e.1 == id) = some (i, bus, c) → c
    + msec (s.fld (lp port + LP.BUS_CTL) 7 0) ≤ s.cycle →
    Completes (.busTimeout port id) s (fun t =>
      ((t.port port).outst = (s.port port).outst.filter (fun e => e.1 != id)))) ∧
  (∀ (s : State) (port sym : Nat) (groups : List Nat) (m : List Byte), s.portOk port = true → s.lpRole port = 2 → s.lpRun port = true →
    msgOf groups = some (0x02, m) → m.length = 1 →
    Completes (.dlyMarkRx port sym groups) s (fun t =>
      (t.port port).fwdq = (s.port port).fwdq ++ [(0x81, leBytes (leAt m 0 1) 1 ++ leBytes ((sym + 140) / 131584) 2 ++ leBytes ((sym +
        140) % 131584 / 512) 2 ++ leBytes ((sym + 140) % 512) 2)] ∧
      t.regs = s.regs)) ∧
  (∀ (s : State) (port : Nat) (groups : List Nat), s.portOk port = true → s.lpRole port = 2 → s.lpRun port = true → msgOf groups = some
    (0x30, []) →
    Completes (.headQueryRx port groups) s (fun t =>
      (∃ m : List Byte, (t.port port).fwdq = (s.port port).fwdq ++ [(0x82, m)] ∧ m.take 3 = [1#8, 0#8, 0#8] ∧ 16 ≤ leAt m 3 1 ∧ 8 ≤
        leAt m 4 1) ∧
      t.regs = s.regs)) ∧
  (∀ (s : State) (port : Nat) (groups : List Nat), s.portOk port = true → s.lpRole port = 2 → s.lpRun port = true → msgOf groups = none
    →
    Completes (.headQueryRx port groups) s (fun t =>
      t.rdN (lp port + LP.BCH_CRC_ERR) = Nat.min 0xFFFFFFFF (s.rdN (lp port + LP.BCH_CRC_ERR) + 1) ∧
      RegsBut s t [lp port + LP.BCH_CRC_ERR]))

/-- TX_GO queues a message or names its refusal, and reads of the receive queue return and remove. R164, R188, R189, R193. TX_GO of a
message that fits: queued, with LAST = 0. TX_GO outside RUN: LAST = 3. RX_POP: the next word is returned and removed. An empty queue
returns 0. RX_STAT_READ: the status is returned, and OVF clears. -/
def Obligations.PortQueues : Prop :=
  (∀ (s : State) (port req v : Nat), s.portOk port = true → v.testBit 0 = true → s.lpRun port = true → txLen (s.lpRole port) (leAt
    (s.txBuf port) 0 1) (leAt (s.txBuf port) 17 1) (leAt (s.txBuf port) 1 1) = some (leAt (s.txBuf port) 1 1) → leAt (s.txBuf port) 1 1
    ≤ 60 → leAt (s.txBuf port) 0 1 ≠ 0x20 → (s.port port).txq.length < 8 → (s.port port).bchBusy = true →
    Completes (.txGo port req v) s (fun t =>
      (t.port port).txq = (s.port port).txq ++ [(s.txBuf port).take (2 + leAt (s.txBuf port) 1 1)] ∧
      t.fld (lp port + LP.TX_STAT) 18 16 = 0 ∧
      t.fld (lp port + LP.TX_STAT) 3 0 = 7 - (s.port port).txq.length ∧
      RegsBut s t [lp port + LP.TX_STAT])) ∧
  (∀ (s : State) (port req v : Nat), s.portOk port = true → v.testBit 0 = true → s.lpRun port = false →
    Completes (.txGo port req v) s (fun t =>
      t.fld (lp port + LP.TX_STAT) 18 16 = 3 ∧
      RegsBut s t [lp port + LP.TX_STAT] ∧
      t.ports = s.ports)) ∧
  (∀ (s : State) (port req : Nat) (w : Word) (rest : List Word), s.portOk port = true → (s.port port).rx = w :: rest →
    Completes (.rxPop port req) s (fun t =>
      t.resp = .data [w] ∧
      (t.port port).rx = rest ∧
      RegsBut s t [lp port + LP.RX_STAT])) ∧
  (∀ (s : State) (port req : Nat), s.portOk port = true → (s.port port).rx = [] →
    Completes (.rxPop port req) s (fun t =>
      t.resp = .data [0#32] ∧
      t.regs = s.regs ∧
      t.ports = s.ports)) ∧
  (∀ (s : State) (port req : Nat), s.portOk port = true →
    Completes (.rxStatRead port req) s (fun t =>
      t.resp = .data [s.rd (lp port + LP.RX_STAT)] ∧
      t.bit (lp port + LP.RX_STAT) 16 = false ∧
      RegsBut s t [lp port + LP.RX_STAT] ∧
      t.ports = s.ports))

/-- Entries of the landing FIFO open, fill and end the frames of enabled contexts. R202-R211: the entry at the head of the FIFO of a
port is taken by the context of its stream 4 × port + slot. FRAME_START of a context without a frame before it and without a binding:
a frame opens. A frame start that comes before PERIOD has passed is dropped. FRAME_END ends the open frame. IMAGE_LINE within the
height of the open frame of an unbound context: counted. A line of another data type counts in DT_MISMATCH. BREAK_ENTRY ends an open
frame and counts. FRAME_TIMEOUT ends a frame without a packet for PERIOD. -/
def Obligations.FramesAndLines : Prop :=
  (∀ (s : State) (port : Nat) (ws rest : List FifoWord), s.portOk port = true → splitPkt ((s.port port).line ++ (s.port port).fifo) =
    some (ws, rest) → skippable (pktOf ws) = false → (pktOf ws).brk = false → (pktOf ws).di % 64 = 0 → s.abit (si (streamOf port (pktOf
    ws)) + SI.CTL) 0 = true → (s.sis1 (streamOf port (pktOf ws))).isOpen = false → (s.sis1 (streamOf port (pktOf ws))).lastAdm = none →
    s.bit (si (streamOf port (pktOf ws)) + SI.STATE) 1 = false → s.bit (si (streamOf port (pktOf ws)) + SI.STATE) 2 = false →
    Completes (.frameStart port) s (fun t =>
      (t.port port).line ++ (t.port port).fifo = rest ∧
      (t.sis1 (streamOf port (pktOf ws))).isOpen = true ∧
      (t.sis1 (streamOf port (pktOf ws))).frameNext = ((s.sis1 (streamOf port (pktOf ws))).frameNext + 1) % 2 ^ 32 ∧
      t.rd (si (streamOf port (pktOf ws)) + SI.FRAME) = wordOf (s.sis1 (streamOf port (pktOf ws))).frameNext ∧
      t.rd (si (streamOf port (pktOf ws)) + SI.SENSOR_FN) = wordOf (pktOf ws).wc ∧
      t.bit (si (streamOf port (pktOf ws)) + SI.STATE) 0 = true)) ∧
  (∀ (s : State) (port : Nat) (ws rest : List FifoWord) (a : Nat), s.portOk port = true → splitPkt ((s.port port).line ++ (s.port
    port).fifo) = some (ws, rest) → skippable (pktOf ws) = false → (pktOf ws).brk = false → (pktOf ws).di % 64 = 0 → s.abit (si
    (streamOf port (pktOf ws)) + SI.CTL) 0 = true → (s.sis1 (streamOf port (pktOf ws))).isOpen = false → (s.sis1 (streamOf port (pktOf
    ws))).lastAdm = some a → s.readout (streamOf port (pktOf ws)) (pktOf ws).time (s.actN (si (streamOf port (pktOf ws)) + SI.RO_LAT))
    < a + s.actN (si (streamOf port (pktOf ws)) + SI.PERIOD) * (64 - s.afld (si (streamOf port (pktOf ws)) + SI.GATE) 5 0) * 1024 →
    Completes (.frameStart port) s (fun t =>
      (t.sis1 (streamOf port (pktOf ws))).isOpen = false ∧
      (t.sis1 (streamOf port (pktOf ws))).dropping = true ∧
      t.rdN (si (streamOf port (pktOf ws)) + SI.RATE_DROP) = Nat.min 0xFFFFFFFF (s.rdN (si (streamOf port (pktOf ws)) + SI.RATE_DROP) +
        1) ∧
      t.bit (si (streamOf port (pktOf ws)) + SI.EVENTS) 6 = true)) ∧
  (∀ (s : State) (port : Nat) (ws rest : List FifoWord), s.portOk port = true → splitPkt ((s.port port).line ++ (s.port port).fifo) =
    some (ws, rest) → skippable (pktOf ws) = false → (pktOf ws).brk = false → (pktOf ws).di % 64 = 1 → s.abit (si (streamOf port (pktOf
    ws)) + SI.CTL) 0 = true → (s.sis1 (streamOf port (pktOf ws))).isOpen = true →
    Completes (.frameEnd port) s (fun t =>
      (t.port port).line ++ (t.port port).fifo = rest ∧
      (t.sis1 (streamOf port (pktOf ws))).isOpen = false ∧
      t.rdN (si (streamOf port (pktOf ws)) + SI.FRAMES) = Nat.min 0xFFFFFFFF (s.rdN (si (streamOf port (pktOf ws)) + SI.FRAMES) + 1) ∧
      t.bit (si (streamOf port (pktOf ws)) + SI.STATE) 0 = false)) ∧
  (∀ (s : State) (port : Nat) (ws rest : List FifoWord), s.portOk port = true → splitPkt ((s.port port).line ++ (s.port port).fifo) =
    some (ws, rest) → skippable (pktOf ws) = false → (pktOf ws).brk = false → 0x2A ≤ (pktOf ws).di % 64 → (pktOf ws).di % 64 ≤ 0x2F →
    s.abit (si (streamOf port (pktOf ws)) + SI.CTL) 0 = true → (s.sis1 (streamOf port (pktOf ws))).isOpen = true → (s.sis1 (streamOf
    port (pktOf ws))).toPipe = none → (pktOf ws).di % 64 = nbits (s.sis1 (streamOf port (pktOf ws))).ctl 13 8 → (s.sis1 (streamOf port
    (pktOf ws))).lineNo < nbits (s.sis1 (streamOf port (pktOf ws))).geom 29 16 →
    Completes (.imageLine port) s (fun t =>
      (t.port port).line ++ (t.port port).fifo = rest ∧
      (t.sis1 (streamOf port (pktOf ws))).lineNo = (s.sis1 (streamOf port (pktOf ws))).lineNo + 1 ∧
      (t.sis1 (streamOf port (pktOf ws))).linesRx = (s.sis1 (streamOf port (pktOf ws))).linesRx + 1 ∧
      t.fld (si (streamOf port (pktOf ws)) + SI.STATE) 31 16 = ((s.sis1 (streamOf port (pktOf ws))).linesRx + 1) % 65536)) ∧
  (∀ (s : State) (port : Nat) (ws rest : List FifoWord), s.portOk port = true → splitPkt ((s.port port).line ++ (s.port port).fifo) =
    some (ws, rest) → skippable (pktOf ws) = false → (pktOf ws).brk = false → 0x2A ≤ (pktOf ws).di % 64 → (pktOf ws).di % 64 ≤ 0x2F →
    s.abit (si (streamOf port (pktOf ws)) + SI.CTL) 0 = true → (s.sis1 (streamOf port (pktOf ws))).isOpen = true → (pktOf ws).di % 64 ≠
    nbits (s.sis1 (streamOf port (pktOf ws))).ctl 13 8 →
    Completes (.imageLine port) s (fun t =>
      t.rdN (si (streamOf port (pktOf ws)) + SI.DT_MISMATCH) = Nat.min 0xFFFFFFFF (s.rdN (si (streamOf port (pktOf ws)) +
        SI.DT_MISMATCH) + 1) ∧
      (t.sis1 (streamOf port (pktOf ws))).linesRx = (s.sis1 (streamOf port (pktOf ws))).linesRx)) ∧
  (∀ (s : State) (port : Nat) (ws rest : List FifoWord), s.portOk port = true → splitPkt ((s.port port).line ++ (s.port port).fifo) =
    some (ws, rest) → (pktOf ws).brk = true → s.abit (si (streamOf port (pktOf ws)) + SI.CTL) 0 = true →
    Completes (.breakEntry port) s (fun t =>
      (t.port port).line ++ (t.port port).fifo = rest ∧
      (t.sis1 (streamOf port (pktOf ws))).isOpen = false ∧
      t.rdN (si (streamOf port (pktOf ws)) + SI.LINK_BREAK) = Nat.min 0xFFFFFFFF (s.rdN (si (streamOf port (pktOf ws)) + SI.LINK_BREAK)
        + 1) ∧
      t.bit (si (streamOf port (pktOf ws)) + SI.EVENTS) 10 = true)) ∧
  (∀ (s : State) (stream : Nat), s.streamOk stream = true → s.finalC = false → (s.sis1 stream).isOpen = true → (s.sis1 stream).lastPkt
    + s.actN (si stream + SI.PERIOD) * 65536 ≤ s.stamp (stream / 128) →
    Completes (.frameTimeout stream) s (fun t =>
      (t.sis1 stream).isOpen = false ∧
      t.rdN (si stream + SI.FRAMES) = Nat.min 0xFFFFFFFF (s.rdN (si stream + SI.FRAMES) + 1) ∧
      t.rdN (si stream + SI.UNTERM_CNT) = Nat.min 0xFFFFFFFF (s.rdN (si stream + SI.UNTERM_CNT) + 1)))

/-- Generic short packets and side packets of a bound context become records that take the stream's SEQ. R202: with their enables set,
the packet is taken and one record of the stream is closed. GENERIC_SHORT_PACKET with GSP_EN and an active binding. SIDE_PACKET with
SIDE_EN in a frame that a pipeline takes. -/
def Obligations.SidePackets : Prop :=
  (∀ (s : State) (port : Nat) (ws rest : List FifoWord), s.portOk port = true → splitPkt ((s.port port).line ++ (s.port port).fifo) =
    some (ws, rest) → skippable (pktOf ws) = false → (pktOf ws).brk = false → 8 ≤ (pktOf ws).di % 64 → (pktOf ws).di % 64 ≤ 15 → s.abit
    (si (streamOf port (pktOf ws)) + SI.CTL) 0 = true → s.abit (si (streamOf port (pktOf ws)) + SI.CTL) 3 = true → s.bit (si (streamOf
    port (pktOf ws)) + SI.STATE) 1 = true → (s.sis1 (streamOf port (pktOf ws))).dropping = false → (s.prod (streamOf port (pktOf ws) /
    128) (streamOf port (pktOf ws) % 128)).dropping = false → (s.sis1 (streamOf port (pktOf ws))).store = [] →
    Completes (.genericShortPacket port) s (fun t =>
      (t.port port).line ++ (t.port port).fifo = rest ∧
      t.rd (dk (streamOf port (pktOf ws) / 128) + BS.BS_SEQ + 4 * (streamOf port (pktOf ws) % 128)) = wordOf (s.rdN (dk (streamOf port
        (pktOf ws) / 128) + BS.BS_SEQ + 4 * (streamOf port (pktOf ws) % 128)) + 1))) ∧
  (∀ (s : State) (port : Nat) (ws rest : List FifoWord), s.portOk port = true → splitPkt ((s.port port).line ++ (s.port port).fifo) =
    some (ws, rest) → skippable (pktOf ws) = false → (pktOf ws).brk = false → (pktOf ws).di % 64 = 0x12 → s.abit (si (streamOf port
    (pktOf ws)) + SI.CTL) 0 = true → (s.sis1 (streamOf port (pktOf ws))).isOpen = true → s.abit (si (streamOf port (pktOf ws)) +
    SI.CTL) 2 = true → (s.sis1 (streamOf port (pktOf ws))).toPipe ≠ none → (s.prod (streamOf port (pktOf ws) / 128) (streamOf port
    (pktOf ws) % 128)).dropping = false → (s.sis1 (streamOf port (pktOf ws))).store = [] →
    Completes (.sidePacket port) s (fun t =>
      (t.port port).line ++ (t.port port).fifo = rest ∧
      t.rd (dk (streamOf port (pktOf ws) / 128) + BS.BS_SEQ + 4 * (streamOf port (pktOf ws) % 128)) = wordOf (s.rdN (dk (streamOf port
        (pktOf ws) / 128) + BS.BS_SEQ + 4 * (streamOf port (pktOf ws) % 128)) + 1)))

/-- Commits of ingest contexts and of pipeline parameters take effect as a whole or report why not. R195, R220-R224, R225. SI_COMMIT
that passes its checks: every shadowed register takes effect. A refused commit changes no committed value and reports its code.
PL_COMMIT in FRAME mode of a bound pipeline: a snapshot waits. PL_COMMIT of a pipeline that no stream is bound to: applied at once.
PL_COMMIT with four sets waiting: PSET_FULL. PA_FLUSH: the waiting sets are discarded and counted. PA_CTL_WRITE that changes the
mode: sets and snapshot are discarded. FS_TIME_READ: the low word is returned, and the other two are held for the path. -/
def Obligations.StreamCommits : Prop :=
  (∀ (s : State) (stream req v : Nat), s.streamOk stream = true → v.testBit 0 = true → s.siVerdict (stream / 128) [stream] = 0 →
    Completes (.siCommit stream req v) s (fun t =>
      (∀ k ∈ siShadowed stream, t.act k = s.rd k) ∧
      (∀ k, k ∉ siShadowed stream → t.act k = s.act k))) ∧
  (∀ (s : State) (stream req v : Nat), s.streamOk stream = true → v.testBit 0 = true → s.siVerdict (stream / 128) [stream] ≠ 0 →
    Completes (.siCommit stream req v) s (fun t =>
      t.acts = s.acts ∧
      t.fld (si stream + SI.CFG_STAT) 2 0 = s.siVerdict (stream / 128) [stream] ∧
      t.sis = s.sis)) ∧
  (∀ (s : State) (pipe req v : Nat), pipe < 512 → s.present (pipe / 128) = true → v.testBit 0 = true → s.plVerdict pipe = (0, 0) →
    (s.boundStream pipe).isSome = true → s.bit (pl pipe + PL.PA_CTL) 0 = false →
    Completes (.plCommit pipe req v) s (fun t =>
      (t.pipe pipe).snap.isSome = true ∧
      (t.pipe pipe).sets = (s.pipe pipe).sets ∧
      t.acts = s.acts ∧
      t.fld (pl pipe + PL.PA_STAT) 9 8 = 0)) ∧
  (∀ (s : State) (pipe req v : Nat), pipe < 512 → s.present (pipe / 128) = true → v.testBit 0 = true → s.plVerdict pipe = (0, 0) →
    s.boundStream pipe = none → s.regsOk →
    Completes (.plCommit pipe req v) s (fun t =>
      (∀ e ∈ s.plImage pipe, t.act e.1 = e.2) ∧
      t.fld (pl pipe + PL.PA_STAT) 9 8 = 2 ∧
      t.pipes = s.pipes)) ∧
  (∀ (s : State) (pipe req v : Nat), pipe < 512 → s.present (pipe / 128) = true → v.testBit 0 = true → s.plVerdict pipe = (0, 0) →
    (s.boundStream pipe).isSome = true → s.bit (pl pipe + PL.PA_CTL) 0 = true → 4 ≤ (s.pipe pipe).sets.length →
    Completes (.plCommit pipe req v) s (fun t =>
      t.fld (pl pipe + PL.PA_STAT) 9 8 = 1 ∧
      RegsBut s t [pl pipe + PL.PA_STAT] ∧
      t.pipes = s.pipes)) ∧
  (∀ (s : State) (pipe req v : Nat), s.present (pipe / 128) = true → v.testBit 0 = true →
    Completes (.paFlush pipe req v) s (fun t =>
      (t.pipe pipe).sets = [] ∧
      (t.pipe pipe).snap = (s.pipe pipe).snap ∧
      t.rd (pl pipe + PL.PA_DISCARD) = wordOf (s.rdN (pl pipe + PL.PA_DISCARD) + (s.pipe pipe).sets.length) ∧
      t.fld (pl pipe + PL.PA_STAT) 2 0 = 0)) ∧
  (∀ (s : State) (pipe req v : Nat), s.present (pipe / 128) = true → s.fld (pl pipe + PL.PA_CTL) 1 0 ≠ v % 4 →
    Completes (.paCtlWrite pipe req v) s (fun t =>
      t.fld (pl pipe + PL.PA_CTL) 1 0 = v % 4 ∧
      (t.pipe pipe).sets = [] ∧
      (t.pipe pipe).snap = none ∧
      t.acts = s.acts)) ∧
  (∀ (s : State) (stream req : Nat), s.streamOk stream = true →
    Completes (.fsTimeRead stream req) s (fun t =>
      t.resp = .data [s.rd (si stream + SI.FS_TIME0)] ∧
      t.latched req (si stream + SI.FS_TIME1) = s.rd (si stream + SI.FS_TIME1) ∧
      t.latched req (si stream + SI.FS_TIME2) = s.rd (si stream + SI.FS_TIME2) ∧
      t.regs = s.regs))

/-- A schedule set is taken, checked, cancelled, abandoned or put in force as one. R242-R245 on the lead. SCHED_COMMIT that R242 does
not refuse: the set is taken with its time, 2 ms after the commit for ACT = 0. While a set waits, a commit is refused. SCHED_CANCEL:
the waiting set is discarded. SCHED_CHECK_DONE without a breach: the set awaits its time. A breach is reported, and the set is gone.
SCHED_DIST_FAIL in the last millisecond before the set acts, with a die not reached: it is abandoned on all dies. SCHED_ACTIVATE of a
set that every die has: its EPOCH is in force on every concentrator. -/
def Obligations.ScheduleSets : Prop :=
  (∀ (s : State) (die req v : Nat), s.present die = true → die = s.lead → v % 4 = 1 → s.schRefusal (s.rdDt (tb s.lead + TB.SCHED_ACT0))
    = none →
    Completes (.schedCommit die req v) s (fun t =>
      t.sched.checking = some
        { act := if s.rdDt (tb s.lead + TB.SCHED_ACT0) = 0 then s.stamp s.lead + 2000000 * 65536 else dtUnpack (s.rdDt (tb s.lead + TB.SCHED_ACT0)), img := s.schImage } ∧
      t.sched.pend = s.sched.pend ∧
      t.regs = s.regs)) ∧
  (∀ (s : State) (die req v : Nat), s.present die = true → die = s.lead → v % 4 = 1 → s.sched.pend.isSome = true →
    Completes (.schedCommit die req v) s (fun t =>
      t.fld (tb s.lead + TB.SCHED_CSTAT) 3 0 = 8 ∧
      t.sched = s.sched ∧
      RegsBut s t [tb s.lead + TB.SCHED_CSTAT])) ∧
  (∀ (s : State) (die req v : Nat), s.present die = true → die = s.lead → v % 4 = 2 → s.sched.pend.isSome = true →
    Completes (.schedCancel die req v) s (fun t =>
      t.sched.pend = none ∧
      t.fld (tb s.lead + TB.SCHED_CSTAT) 3 0 = 10 ∧
      t.bit (tb s.lead + TB.SCHED_CSTAT) 4 = false ∧
      t.acts = s.acts)) ∧
  (∀ (s : State) (set : SchedSet), s.sched.checking = some set → (s.schVerdict set).1 = 0 →
    Completes .schedCheckDone s (fun t =>
      t.sched.pend = some { set with reached := s.leadReaches } ∧
      t.sched.checking = none ∧
      t.fld (tb s.lead + TB.SCHED_CSTAT) 3 0 = 0 ∧
      t.bit (tb s.lead + TB.SCHED_CSTAT) 4 = true)) ∧
  (∀ (s : State) (set : SchedSet), s.sched.checking = some set → (s.schVerdict set).1 ≠ 0 →
    Completes .schedCheckDone s (fun t =>
      t.sched.pend = s.sched.pend ∧
      t.sched.checking = none ∧
      t.fld (tb s.lead + TB.SCHED_CSTAT) 3 0 = (s.schVerdict set).1 % 16 ∧
      t.rd (tb s.lead + TB.SCHED_CONFLICT) = wordOf ((s.schVerdict set).2.2.1 + (s.schVerdict set).2.2.2 * 65536))) ∧
  (∀ (s : State) (set : SchedSet), s.sched.pend = some set → s.schSpread set = false → set.act ≤ s.stamp s.lead + 1000000 * 65536 →
    Completes .schedDistFail s (fun t =>
      t.sched.pend = none ∧
      t.fld (tb s.lead + TB.SCHED_CSTAT) 3 0 = 9 ∧
      (∀ d ∈ s.concs, t.bit (tb d + TB.SCHED_EVENTS) 4 = true))) ∧
  (∀ (s : State) (set : SchedSet), s.sched.pend = some set → s.schSpread set = true → set.act ≤ s.stamp s.lead →
    Completes .schedActivate s (fun t =>
      t.sched.pend = none ∧
      (∀ d ∈ s.concs, t.rd (tb d + TB.EPOCH_ACT0) = wordOf (set.cfg (gk TB.EPOCH0)) ∧ t.rd (tb d + TB.EPOCH_ACT1) = wordOf (set.cfg (gk
        TB.EPOCH1)) ∧ t.rd (tb d + TB.EPOCH_ACT2) = wordOf (set.cfg (gk TB.EPOCH2))) ∧
      (∀ d ∈ s.concs, t.bit (tb d + TB.SCHED_EVENTS) 0 = true) ∧
      t.bit (tb s.lead + TB.SCHED_CSTAT) 4 = false))

/-- Occurrences are decided, pulses issued and withdrawn, and a step of time moves every die. R65, R232, R236-R240, R247.
OCCURRENCE_DECIDE of the schedule in force, launched: its edges wait for their launch times. One that may not be launched is counted.
The next occurrence of an accepted set is decided before the set acts. PULSE_ISSUE: of the edges whose launch time has come one waits
at the port; none of them is past its deadline. In the final commit no pulse is issued. PULSE_WITHDRAW: pulses past their deadline
are gone. STEP_ANNOUNCE: pulses from the step's time on are held back. TIME_STEP: every die that the lead reaches moves by the step;
what still waits moves with it. EXP_LEN_WRITE: clamped into its range. LEAD_WRITE inside the ranges takes effect. Outside them it is
refused. -/
def Obligations.PulsesAndSteps : Prop :=
  (∀ (s : State) (stream : Nat) (fresh : Bool) (o : Occ), fresh = false → stream < 512 → s.present (stream / 128) = true → (s.sch
    stream).owed = [] → s.nextOcc stream = some o → s.occDue stream o = true → s.launchOk stream o.edges = true →
    Completes (.occurrenceDecide stream fresh) s (fun t =>
      (t.sch stream).next = some (o.n + 1) ∧
      (t.sch stream).edges = (s.sch stream).edges ++ o.edges ∧
      t.rdN (skc stream + TB.LAUNCHED) = Nat.min 0xFFFFFFFF (s.rdN (skc stream + TB.LAUNCHED) + 1) ∧
      RegsBut s t [skc stream + TB.LAUNCHED])) ∧
  (∀ (s : State) (stream : Nat) (fresh : Bool) (o : Occ), fresh = false → stream < 512 → s.present (stream / 128) = true → (s.sch
    stream).owed = [] → s.nextOcc stream = some o → s.occDue stream o = true → s.launchOk stream o.edges = false →
    Completes (.occurrenceDecide stream fresh) s (fun t =>
      (t.sch stream).next = some (o.n + 1) ∧
      (t.sch stream).edges = (s.sch stream).edges ∧
      t.rdN (skc stream + TB.NOT_LAUNCHED) = Nat.min 0xFFFFFFFF (s.rdN (skc stream + TB.NOT_LAUNCHED) + 1) ∧
      t.bit (tb (stream / 128) + TB.SCHED_EVENTS) 1 = true)) ∧
  (∀ (s : State) (stream : Nat) (fresh : Bool) (o : Occ), fresh = true → stream < 512 → s.present (stream / 128) = true → s.nextNew
    stream = some o → s.occDue stream o = true → s.launchOk stream o.edges = false →
    Completes (.occurrenceDecide stream fresh) s (fun t =>
      (t.sch stream).newNext = some (o.n + 1) ∧
      (t.sch stream).next = (s.sch stream).next ∧
      t.rdN (skc stream + TB.NOT_LAUNCHED) = Nat.min 0xFFFFFFFF (s.rdN (skc stream + TB.NOT_LAUNCHED) + 1))) ∧
  (∀ (s : State) (port : Nat) (x : Nat × Edge) (xs : List (Nat × Edge)), s.portOk port = true → s.finalC = false → (s.port
    port).bchBusy = true → (s.port port).pulseq = [] → ((List.range 4).flatMap (fun i => (s.sch (4 * port + i)).edges.map (fun e => (4
    * port + i, e)))).filter (fun a => decide (a.2.t - s.leadOf a.1 ≤ (s.stamp (port / 32) : Int)) && !s.held a.2.t) = x :: xs → (x ::
    xs).all (fun a => decide ((s.stamp (port / 32) : Int) ≤ s.deadline port a.2.t)) = true →
    Completes (.pulseIssue port) s (fun t =>
      (∃ a ∈ x :: xs, (∀ b ∈ x :: xs, edgeBefore b a = true → edgeBefore a b = true ∨ b = a) ∧ ∃ m : SchedMsg, (t.port port).pulseq =
        [m] ∧ m.pulse = true ∧ m.stream = a.1 ∧ m.bytes = s.pulseBytes a.1 a.2 ∧ (m.deadline : Int) = s.deadline port a.2.t) ∧
      t.regs = s.regs)) ∧
  (∀ (s : State) (port : Nat), s.finalC = true →
    Completes (.pulseIssue port) s (fun t =>
      t = s)) ∧
  (∀ (s : State) (port : Nat), s.portOk port = true → ((s.port port).pulseq.any (fun m => m.pulse && decide (m.deadline ≤ s.stamp (port
    / 32)))) = true →
    Completes (.pulseWithdraw port) s (fun t =>
      ((t.port port).pulseq = (s.port port).pulseq.filter (fun m => !(m.pulse && decide (m.deadline ≤ s.stamp (port / 32))))) ∧
      t.bit (tb (port / 32) + TB.SCHED_EVENTS) 2 = true)) ∧
  (∀ (s : State) (a : Nat) (by_ : StepBy) (rest : List (Nat × StepBy)), s.tm.pendStep = (a, by_) :: rest →
    Completes .stepAnnounce s (fun t =>
      t.sched = { s.sched with hold := some (a / 2 ^ 24) } ∧
      t.regs = s.regs)) ∧
  (∀ (s : State) (a : Nat) (by_ : StepBy) (rest : List (Nat × StepBy)), s.tm.pendStep = (a, by_) :: rest → a ≤ s.now s.lead →
    Completes .timeStep s (fun t =>
      t.tm.pendStep.length = rest.length ∧
      t.tm.steps = s.tm.steps + 1 ∧
      (∀ d ∈ s.timeDies, t.now d = (((s.now d : Nat) : Int) + by_.delta).toNat) ∧
      t.sched.hold = none)) ∧
  (∀ (s : State) (stream req v : Nat), stream < 512 → s.present (stream / 128) = true → s.bit (sk stream + TB.S_STAT) 0 = true →
    Completes (.expLenWrite stream req v) s (fun t =>
      t.rd (sk stream + TB.EXP_LEN) = wordOf (clampNat 1 (Nat.min (s.actN (sk stream + TB.PERIOD) - 1) 1000000000) (v % 2 ^ 32)) ∧
      RegsBut s t [sk stream + TB.EXP_LEN, sk stream + TB.S_STAT])) ∧
  (∀ (s : State) (port : Nat) (margin : Bool) (req v : Nat), s.portOk port = true → margin = false → 20000 ≤ v → v ≤ 1000000 → 5000 ≤
    s.rdN (lk port + TB.MIN_MARGIN) → s.rdN (lk port + TB.MIN_MARGIN) ≤ 100000 → s.rdN (lk port + TB.MIN_MARGIN) + 10000 ≤ v →
    Completes (.leadWrite port margin req v) s (fun t =>
      t.rd (lk port + TB.LEAD) = wordOf v ∧
      RegsBut s t [lk port + TB.LEAD])) ∧
  (∀ (s : State) (port : Nat) (margin : Bool) (req v : Nat), s.portOk port = true → margin = false → v % 2 ^ 32 < 20000 →
    Completes (.leadWrite port margin req v) s (fun t =>
      t.bit (tb (port / 32) + TB.SCHED_EVENTS) 5 = true ∧
      RegsBut s t [tb (port / 32) + TB.SCHED_EVENTS]))

/-- A pipeline takes lines, ends frames, finishes them, is reset, and takes map entries into the inactive bank. R205, R213, R269, R291,
R315, R321, R323. PIPELINE_LINE: the line leaves the store and joins the frame's lines at point B. PIPELINE_FRAME_DONE: the frame has
left the raw stage. FIN_LINE_TAKE: the oldest waiting line of the die leaves its queue. FIN_FRAME_DONE: the oldest frame has left the
finishing stage. PL_RESET: every frame that remains is cut, and the event is set. MAP_WRITE to the inactive bank. MAP_WRITE to the
active bank: ignored, with MAP_BUSY. -/
def Obligations.PipelinesAtWork : Prop :=
  (∀ (s : State) (pipe : Nat) (asRead : Option (List Byte)) (bufErr : Option BufErr) (j : Job) (l : SLine), asRead = none → bufErr =
    none → s.rawJob pipe = some j → s.jobOf pipe j.stream j.frame = some j → j.cut = false → (s.sis1 j.stream).store = [.line l] →
    Completes (.pipelineLine pipe asRead bufErr) s (fun t =>
      (t.sis1 j.stream).store = [] ∧
      (∃ j2, t.jobOf pipe j.stream j.frame = some j2 ∧ j2.rows = j.rows ++
        [{ y := l.n, px := bLine (plParam j.params pipe) l.n (unpackLine j.dt j.width l.bytes), flags := l.flags, time := l.time }]))) ∧
  (∀ (s : State) (pipe : Nat) (bufErr : Option BufErr) (j : Job) (fe : FrameEnd), s.rawJob pipe = some j → (s.sis1 j.stream).store =
    [.fin fe] →
    Completes (.pipelineFrameDone pipe bufErr) s (fun t =>
      (t.sis1 j.stream).store = [] ∧
      (∀ x ∈ (t.pipe pipe).jobs, x.stream = j.stream → x.frame = j.frame → x.rawDone = true))) ∧
  (∀ (s : State) (die : Nat) (bufErr : Option BufErr) (n st frame y : Nat) (j : Job), s.oldestLine die = some (n, st, frame, y) →
    s.jobOf n st frame = some j →
    Completes (.finLineTake die bufErr) s (fun t =>
      (∃ j2, t.jobOf n st frame = some j2 ∧ j2.finq = j.finq.drop 1))) ∧
  (∀ (s : State) (pipe : Nat) (bufErr : Option BufErr) (j : Job), s.firstFin pipe = some j → j.rawDone = true → j.finq = [] →
    Completes (.finFrameDone pipe bufErr) s (fun t =>
      (∀ x ∈ (t.pipe pipe).jobs, x.stream = j.stream → x.frame = j.frame → x.finDone = true))) ∧
  (∀ (s : State) (pipe req v : Nat), s.present (pipe / 128) = true → v.testBit 0 = true →
    Completes (.plReset pipe req v) s (fun t =>
      (∀ x ∈ (t.pipe pipe).jobs, x.cut = true ∧ x.finDone = true ∧ x.rawDone = false) ∧
      t.bit (pl pipe + PL.EVENTS) 5 = true)) ∧
  (∀ (s : State) (pipe bank entry req v : Nat), s.present (pipe / 128) = true → s.afld (pl pipe + PL.DPC_CTL) 2 2 ≠ bank % 2 →
    Completes (.mapWrite pipe bank entry req v) s (fun t =>
      t.rd (pl pipe + (if bank % 2 = 0 then PL.MAP0_E else PL.MAP1_E) + 4 * (entry % 2048)) = wordOf v &&& 0x1FFF1FFF#32 ∧
      RegsBut s t [(pl pipe + (if bank % 2 = 0 then PL.MAP0_E else PL.MAP1_E) + 4 * (entry % 2048))])) ∧
  (∀ (s : State) (pipe bank entry req v : Nat), s.present (pipe / 128) = true → s.afld (pl pipe + PL.DPC_CTL) 2 2 = bank % 2 →
    Completes (.mapWrite pipe bank entry req v) s (fun t =>
      t.bit (pl pipe + PL.EVENTS) 1 = true ∧
      RegsBut s t [pl pipe + PL.EVENTS]))

/-- Producers are granted cells or meet POOL_EMPTY, and closed records take their SEQ. R335-R343 on a present concentrator die.
CELL_REQUEST of one producer that finds a cell. One that finds none loses its open record. RECORD_CLOSE of a stream's record consumes
its SEQ. A record that the basin takes stands at the tail of its queue, with the fields that the basin fills. NOTIFY_REPEAT of a
queue that is still ready: its line pulses again, and the next time is set. QUEUE_AGE_READY: the head record has waited 2^TO_EXP µs.
BASIN_BAD_ACCESS: a write to a pop region is counted. -/
def Obligations.BasinAllocation : Prop :=
  (∀ (s : State) (die : Nat) (producers : List Nat) (b : Nat), die < 4 → s.present die = true → producers = [b] → b < 1290 → (s.prod
    die b).dropping = false → 0 < s.grantable die (s.reserveOk die b) →
    Completes (.cellRequest die producers) s (fun t =>
      (t.prod die b).cells.length = (s.prod die b).cells.length + 1 ∧
      (t.prod die b).isOpen = true ∧
      t.rdN (dk die + BS.BS_FREE) = s.rdN (dk die + BS.BS_FREE) - 1 ∧
      t.queues = s.queues)) ∧
  (∀ (s : State) (die : Nat) (producers : List Nat) (b : Nat), die < 4 → s.present die = true → producers = [b] → b < 1290 → (s.prod
    die b).dropping = false → s.grantable die (s.reserveOk die b) = 0 →
    Completes (.cellRequest die producers) s (fun t =>
      (t.prod die b).dropping = true ∧
      (t.prod die b).cells = [] ∧
      t.rdN (dk die + BS.BS_REC_DROP) = Nat.min 0xFFFFFFFF (s.rdN (dk die + BS.BS_REC_DROP) + 1))) ∧
  (∀ (s : State) (die producer : Nat) (h : RecHdr) (payload : List Byte), die < 4 → s.present die = true → producer < 1286 → h.stream <
    512 → (s.prod die producer).dropping = false →
    Completes (.recordClose die producer h payload) s (fun t =>
      t.rd (dk die + BS.BS_SEQ + 4 * (h.stream % 128)) = wordOf (s.rdN (dk die + BS.BS_SEQ + 4 * (h.stream % 128)) + 1))) ∧
  (∀ (s : State) (die producer : Nat) (h : RecHdr) (payload : List Byte), die < 4 → s.present die = true → producer < 1286 → s.recTaken
    die producer h.stream payload.length = true → s.mirrorEn die producer = false → (List.range 8).all (fun u => (s.ckS die u).phase ==
    0) = true →
    Completes (.recordClose die producer h payload) s (fun t =>
      ((t.queue die (s.recQueue die producer h.stream)).und.getLast?.map (fun r => r.data) = some (s.recData die h payload (s.nextSeq
        die (s.recQueue die producer h.stream) h.stream))) ∧
      (∀ i, i < 4096 → i ≠ (s.recQueue die producer h.stream) → (t.queue die i).und = (s.queue die i).und))) ∧
  (∀ (s : State) (die queue : Nat), die < 4 → s.present die = true → queue < 4096 → (s.queue die queue).ready = true → (s.queue die
    queue).fault = false → Nat.max 1 (s.fld (qk die queue + BS.Q_CFG) 11 0) ≤ (s.queue die queue).undeliv → (s.queue die
    queue).nextNotify ≤ s.now die →
    Completes (.notifyRepeat die queue) s (fun t =>
      (t.queue die queue).nextNotify = s.now die + notifyPeriod (s.fld (qk die queue + BS.Q_CFG) 31 27) ∧
      (t.queue die queue).und = (s.queue die queue).und ∧
      (384 + s.fld (qk die queue + BS.Q_CFG) 21 16, s.stamp die, s.cycle) ∈ (t.efS die).pulses ∧
      t.regs = s.regs)) ∧
  (∀ (s : State) (die queue : Nat) (r : Rec) (rest : List Rec), die < 4 → s.present die = true → queue < 4096 → (s.queue die queue).und
    = r :: rest → (s.queue die queue).ready = false → (s.queue die queue).fault = false → s.fld (qk die queue + BS.Q_CFG) 31 27 ≤ 16 →
    r.entered + notifyPeriod (s.fld (qk die queue + BS.Q_CFG) 31 27) ≤ s.now die →
    Completes (.queueAgeReady die queue) s (fun t =>
      (t.queue die queue).ready = true ∧
      (384 + s.fld (qk die queue + BS.Q_CFG) 21 16, s.stamp die, s.cycle) ∈ (t.efS die).pulses ∧
      t.regs = s.regs)) ∧
  (∀ (s : State) (die off : Nat), die < 4 → s.present die = true → 0x08000000 ≤ off → off < 0x0A000000 → off % 0x2000 < 0x1000 →
    Completes (.basinBadAccess die off) s (fun t =>
      t.rdN (dk die + BS.BS_BAD_ACCESS) = Nat.min 0xFFFFFFFF (s.rdN (dk die + BS.BS_BAD_ACCESS) + 1) ∧
      RegsBut s t [dk die + BS.BS_BAD_ACCESS]))

/-- Queues deliver, retain, release, replay and flush their records in order. R346-R355 on a present concentrator die. POP_READ inside
the head record. POP_READ of the rest of the head record: it enters retention. POP_READ of an empty queue: zeros, counted. Q_ACK: the
oldest retained records are released. Q_REPLAY of a queue without a record in delivery: the retained records come first, marked.
Q_FLUSH of a queue without a record in delivery: it is empty. REPLAY_SA: every queue that SA carried is SB's. REPLAY_SB: every queue
that SB carried is SA's. -/
def Obligations.QueueDelivery : Prop :=
  (∀ (s : State) (die queue n : Nat) (err : PopErr) (r : Rec) (rest : List Rec), die < 4 → s.present die = true → queue < 4096 → err =
    .none → (s.queue die queue).fault = false → (s.queue die queue).und = r :: rest → r.dup = false → 0 < n → (s.queue die queue).pos +
    n < r.data.length →
    Completes (.popRead die queue n err) s (fun t =>
      t.resp = .bytes ((r.data.drop (s.queue die queue).pos).take n) ∧
      (t.queue die queue).pos = (s.queue die queue).pos + n ∧
      (t.queue die queue).und = (s.queue die queue).und ∧
      t.regs = s.regs)) ∧
  (∀ (s : State) (die queue n : Nat) (err : PopErr) (r : Rec) (rest : List Rec), die < 4 → s.present die = true → queue < 4096 → err =
    .none → (s.queue die queue).fault = false → (s.queue die queue).flushHead = false → (s.queue die queue).und = r :: rest → r.dup =
    false → 0 < n → (s.queue die queue).pos + n = r.data.length → s.rdN (dk die + BS.BS_RET_CELLS) + cellsOf r.data.length ≤ s.rdN (dk
    die + BS.BS_RET_LIMIT) → s.rdN (dk die + BS.BS_RET_CELLS) + cellsOf r.data.length < 2 ^ 32 →
    Completes (.popRead die queue n err) s (fun t =>
      t.resp = .bytes (r.data.drop (s.queue die queue).pos) ∧
      (t.queue die queue).und = rest ∧
      (t.queue die queue).pos = 0 ∧
      (t.queue die queue).ret = (s.queue die queue).ret ++ [{ r with order := s.nextOrder die, dup := false }] ∧
      t.rdN (dk die + BS.BS_RET_CELLS) = s.rdN (dk die + BS.BS_RET_CELLS) + cellsOf r.data.length)) ∧
  (∀ (s : State) (die queue n : Nat) (err : PopErr), die < 4 → s.present die = true → queue < 4096 → err = .none → (s.queue die
    queue).und = [] → 0 < n →
    Completes (.popRead die queue n err) s (fun t =>
      t.resp = .bytes (zeros n) ∧
      t.rdN (dk die + BS.BS_POP_EMPTY) = Nat.min 0xFFFFFFFF (s.rdN (dk die + BS.BS_POP_EMPTY) + 1) ∧
      RegsBut s t [dk die + BS.BS_POP_EMPTY] ∧
      t.queues = s.queues)) ∧
  (∀ (s : State) (die queue n : Nat), die < 4 → s.present die = true → queue < 4096 → n % 65536 ≤ (s.queue die queue).ret.length →
    Completes (.qAck die queue n) s (fun t =>
      (t.queue die queue).ret = (s.queue die queue).ret.drop (n % 65536) ∧
      (t.queue die queue).und = (s.queue die queue).und ∧
      (t.rd (dk die + BS.BS_FREE) = wordOf (s.rdN (dk die + BS.BS_FREE) + (((s.queue die queue).ret.take (n % 65536)).map (fun r =>
        cellsOf r.data.length)).sum)) ∧
      RegsBut s t [dk die + BS.BS_FREE, dk die + BS.BS_RET_CELLS])) ∧
  (∀ (s : State) (die queue : Nat), die < 4 → s.present die = true → queue < 4096 → (s.queue die queue).pos = 0 →
    Completes (.qReplay die queue) s (fun t =>
      ((t.queue die queue).und = (s.queue die queue).ret.map (fun r => { r with dup := true }) ++ (s.queue die queue).und) ∧
      (t.queue die queue).ret = [] ∧
      (t.queue die queue).pos = 0 ∧
      RegsBut s t [dk die + BS.BS_RET_CELLS])) ∧
  (∀ (s : State) (die queue : Nat), die < 4 → s.present die = true → queue < 4096 → (s.queue die queue).pos = 0 →
    Completes (.qFlush die queue) s (fun t =>
      (t.queue die queue).und = [] ∧
      (t.queue die queue).ret = [] ∧
      (t.queue die queue).fault = false ∧
      t.rdN (dk die + BS.BS_FLUSH_DROP) = Nat.min 0xFFFFFFFF (s.rdN (dk die + BS.BS_FLUSH_DROP) + ((s.queue die queue).und.length +
        (s.queue die queue).ret.length)))) ∧
  (∀ (s : State) (die : Nat) (both : Bool), die < 4 → s.present die = true → both = false → s.part ≠ .azl128 →
    Completes (.replaySa die both) s (fun t =>
      (∀ q, q < 4096 → s.fld (qk die q + BS.Q_CFG) 25 25 = 0 → t.fld (qk die q + BS.Q_CFG) 25 25 = 1 ∧ (t.queue die q).ret = []))) ∧
  (∀ (s : State) (die : Nat) (both : Bool), die < 4 → s.present die = true → both = false → s.part ≠ .azl128 →
    Completes (.replaySb die both) s (fun t =>
      (∀ q, q < 4096 → s.fld (qk die q + BS.Q_CFG) 25 25 = 1 → t.fld (qk die q + BS.Q_CFG) 25 25 = 0 ∧ (t.queue die q).ret = [])))

/-- Records are pushed through the windows, cells are written directly, and a fence that waits is pushed. R356-R360, R434 on a present
concentrator die. PUSH_WRITE that finds its cells: the bytes join the open record. PUSH_END without an open record: counted. PUSH_END
of a good record of a stream of the die: closed, with its SEQ. DIRECT_WRITE with the window enabled: the bytes lie in their cells.
With the window disabled it is counted. FENCE_PUSH_RETRY with a cell free: the fence no longer waits. -/
def Obligations.PushAndDirect : Prop :=
  (∀ (s : State) (die queue path : Nat) (data : List Byte), die < 4 → s.present die = true → queue < 4096 → (s.prod die (1286 + path %
    4)).dropping = false → ((s.prod die (1286 + path % 4)).isOpen = true → (s.prod die (1286 + path % 4)).queue = queue) → s.mirrorEn
    die (1286 + path % 4) = false → cellsOf ((s.prod die (1286 + path % 4)).bytes ++ data).length - (s.prod die (1286 + path %
    4)).cells.length ≤ s.grantable die (s.reserveOk die (1286 + path % 4)) →
    Completes (.pushWrite die queue path data) s (fun t =>
      (t.prod die (1286 + path % 4)).bytes = (s.prod die (1286 + path % 4)).bytes ++ data ∧
      (t.prod die (1286 + path % 4)).isOpen = true ∧
      (t.prod die (1286 + path % 4)).queue = queue ∧
      t.queues = s.queues)) ∧
  (∀ (s : State) (die queue path m : Nat), die < 4 → s.present die = true → queue < 4096 → (s.prod die (1286 + path % 4)).isOpen =
    false →
    Completes (.pushEnd die queue path m) s (fun t =>
      t.rdN (dk die + BS.BS_PUSH_ERR) = Nat.min 0xFFFFFFFF (s.rdN (dk die + BS.BS_PUSH_ERR) + 1) ∧
      RegsBut s t [dk die + BS.BS_PUSH_ERR])) ∧
  (∀ (s : State) (die queue path m : Nat), die < 4 → s.present die = true → queue < 4096 → (s.prod die (1286 + path % 4)).isOpen = true
    → (s.prod die (1286 + path % 4)).dropping = false → (s.prod die (1286 + path % 4)).queue = queue → (s.prod die (1286 + path %
    4)).bytes.length = m + 48 → m ≤ 262144 → leAt (s.prod die (1286 + path % 4)).bytes 1 1 = 1 → leAt (s.prod die (1286 + path %
    4)).bytes 4 2 / 128 = die → cellsOf (48 + roundUp m 64) - (s.prod die (1286 + path % 4)).cells.length ≤ s.grantable die
    (s.reserveOk die (1286 + path % 4)) →
    Completes (.pushEnd die queue path m) s (fun t =>
      t.prod die (1286 + path % 4) = {} ∧
      t.rd (dk die + BS.BS_SEQ + 4 * (leAt (s.prod die (1286 + path % 4)).bytes 4 2 % 128)) = wordOf (s.rdN (dk die + BS.BS_SEQ + 4 *
        (leAt (s.prod die (1286 + path % 4)).bytes 4 2 % 128)) + 1))) ∧
  (∀ (s : State) (die addr : Nat) (data : List Byte), die < 4 → s.present die = true → s.bit (dk die + BS.BS_CTL) 0 = true →
    Completes (.directWrite die addr data) s (fun t =>
      (∀ i, i < data.length → addr + i < 0x4000000 → Tbl.get (fun _ => none) t.cellMem (dk die + addr + i) = some (data.getD i 0#8)) ∧
      t.regs = s.regs)) ∧
  (∀ (s : State) (die addr : Nat) (data : List Byte), die < 4 → s.present die = true → s.bit (dk die + BS.BS_CTL) 0 = false →
    Completes (.directWrite die addr data) s (fun t =>
      t.rdN (dk die + BS.BS_BAD_ACCESS) = Nat.min 0xFFFFFFFF (s.rdN (dk die + BS.BS_BAD_ACCESS) + 1) ∧
      RegsBut s t [dk die + BS.BS_BAD_ACCESS] ∧
      t.cellMem = s.cellMem)) ∧
  (∀ (s : State) (die queue : Nat) (f : Fence), die < 4 → s.present die = true → queue < 4096 → s.fences.find? (fun f => f.die == die
    && f.queue == queue) = some f → f.due ≤ s.cycle → s.grantable die true ≠ 0 →
    Completes (.fencePushRetry die queue) s (fun t =>
      (t.fences = s.fences.filter (fun x => !(x.die == die && x.queue == queue)))))

/-- Writes of CH_CMD and ENG_CMD start, abort, resume and reset barge channels. R367, R381, R391-R396, each performed where R394 gives
the command its turn. CH_START of a channel that does not run: READY at CH_PC, with indices and residue 0. A START of a running
channel is counted. CH_ABORT of a running channel: under abort, as QUIET says. CH_ABORT_QUIET. CH_RESUME of a halted or aborted
channel: READY at CH_PC. CH_RESET of a channel that does not run: IDLE. ABORT_ALL: every running channel of the engine is under
abort. ABORT_ALL_QUIET. -/
def Obligations.ChannelCommands : Prop :=
  (∀ (s : State) (die e c req v : Nat), bargeOk s die e c = true → s.firstCmd die e c v = some 2 → chRunning (s.chState die e c) =
    false → s.ringAligned die e c = true →
    Completes (.chStart die e c req v) s (fun t =>
      t.rd (bgc die e c + BG.CH_STAT) = 1#32 ∧
      t.rd (bgc die e c + BG.CH_IDX0) = 0#32 ∧ t.rd (bgc die e c + BG.CH_IDX1) = 0#32 ∧ t.rd (bgc die e c + BG.CH_IDX2) = 0#32 ∧ t.rd
        (bgc die e c + BG.CH_RESID) = 0#32 ∧
      (t.chan die e c).pc = s.fld (bgc die e c + BG.CH_PC) 10 0 ∧
      (t.chan die e c).mv = none ∧
      RegsBut s t [bgc die e c + BG.CH_IDX0, bgc die e c + BG.CH_IDX1, bgc die e c + BG.CH_IDX2, bgc die e c + BG.CH_RESID, bgc die e c
        + BG.CH_LATCH_LO, bgc die e c + BG.CH_LATCH_HI, bgc die e c + BG.CH_STAT])) ∧
  (∀ (s : State) (die e c req v : Nat), bargeOk s die e c = true → s.firstCmd die e c v = some 2 → chRunning (s.chState die e c) = true
    →
    Completes (.chStart die e c req v) s (fun t =>
      t.rdN (bgn die e c + BG.START_BUSY) = Nat.min 0xFFFFFFFF (s.rdN (bgn die e c + BG.START_BUSY) + 1) ∧
      t.bit (bgc die e c + BG.CH_EVENTS) 5 = true ∧
      RegsBut s t [bgn die e c + BG.START_BUSY, bgc die e c + BG.CH_EVENTS] ∧
      t.chans = s.chans)) ∧
  (∀ (s : State) (die e c req v : Nat), bargeOk s die e c = true → s.firstCmd die e c v = some 0 → (s.chan die e c).abort = none →
    Completes (.chAbort die e c req v) s (fun t =>
      t.chan die e c = { s.chan die e c with abort := some (v.testBit 4) } ∧
      t.regs = s.regs)) ∧
  (∀ (s : State) (die e c req v : Nat), bargeOk s die e c = true → s.firstCmd die e c v = some 0 → (s.chan die e c).abort = none →
    Completes (.chAbortQuiet die e c req v) s (fun t =>
      t.chan die e c = { s.chan die e c with abort := some true } ∧
      t.regs = s.regs)) ∧
  (∀ (s : State) (die e c req v : Nat), bargeOk s die e c = true → s.firstCmd die e c v = some 1 → s.ringAligned die e c = true →
    Completes (.chResume die e c req v) s (fun t =>
      t.rd (bgc die e c + BG.CH_STAT) = 1#32 ∧
      (t.chan die e c).pc = s.fld (bgc die e c + BG.CH_PC) 10 0 ∧
      RegsBut s t [bgc die e c + BG.CH_STAT])) ∧
  (∀ (s : State) (die e c req v : Nat), bargeOk s die e c = true → s.firstCmd die e c v = some 3 →
    Completes (.chReset die e c req v) s (fun t =>
      t.rd (bgc die e c + BG.CH_STAT) = 0#32 ∧
      (t.chan die e c).mv = none ∧
      RegsBut s t [bgc die e c + BG.CH_IDX0, bgc die e c + BG.CH_IDX1, bgc die e c + BG.CH_IDX2, bgc die e c + BG.CH_RESID, bgc die e c
        + BG.CH_STAT])) ∧
  (∀ (s : State) (die e req v : Nat), bargeOk s die e 0 = true → v.testBit 0 = true →
    Completes (.abortAll die e req v) s (fun t =>
      (∀ c, c < 32 → chRunning (s.chState die e c) = true → (s.chan die e c).abort = none → (t.chan die e c).abort = some (v.testBit
        1)) ∧
      t.regs = s.regs)) ∧
  (∀ (s : State) (die e req v : Nat), bargeOk s die e 0 = true → v.testBit 0 = true →
    Completes (.abortAllQuiet die e req v) s (fun t =>
      (∀ c, c < 32 → chRunning (s.chState die e c) = true → (s.chan die e c).abort = none → (t.chan die e c).abort = some true) ∧
      t.regs = s.regs))

/-- An engine picks the next ready channel and executes LOOP, WAIT, SIGNAL, END and MOVE of its program. R364-R378 for the active
channel of an engine at an instruction, not under abort and with no MOVE in progress. ENGINE_DISPATCH: the first ready channel after
the last one is active. LOOP with turns left: the index rises, and the program goes on at the target. LOOP at its last turn: the
index is 0, and the program goes on behind it. WAIT for an event that is latched: the latch clears, and the program goes on. Without
it the channel blocks on the event and frees the engine. SIGNAL: its pulse is armed. END: the channel ends and the engine is free.
MOVE of plain memory inside the address spaces: it starts. An instruction of no known opcode halts the channel with BAD_INSN. -/
def Obligations.ChannelProgram : Prop :=
  (∀ (s : State) (die e c : Nat), bargeOk s die e 0 = true → (s.eng die e).active = none → ((List.range 32).map (fun i => ((s.eng die
    e).last + 1 + i) % 32)).find? (fun c => s.chState die e c == 1 && (s.chan die e c).abort.isNone) = some c →
    Completes (.engineDispatch die e) s (fun t =>
      t.eng die e = { active := some c, last := c } ∧
      t.chState die e c = 2 ∧
      RegsBut s t [bgc die e c + BG.CH_STAT])) ∧
  (∀ (s : State) (die e c w : Nat), (s.eng die e).active = some c → bargeOk s die e c = true → (s.chan die e c).abort = none → (s.chan
    die e c).mv = none → (s.chan die e c).ending = false → s.progWord die e (s.chan die e c).pc = some w → nbits w 63 60 = 2 → nbits w
    33 11 = 0 → nbits w 59 58 ≠ 3 → s.rdN (bgc die e c + BG.CH_IDX0 + 4 * nbits w 59 58) + 1 < nbits w 57 34 →
    Completes (.loopInsn die e) s (fun t =>
      t.rdN (bgc die e c + BG.CH_IDX0 + 4 * nbits w 59 58) = s.rdN (bgc die e c + BG.CH_IDX0 + 4 * nbits w 59 58) + 1 ∧
      (t.chan die e c).pc = nbits w 10 0 ∧
      RegsBut s t [bgc die e c + BG.CH_IDX0 + 4 * nbits w 59 58])) ∧
  (∀ (s : State) (die e c w : Nat), (s.eng die e).active = some c → bargeOk s die e c = true → (s.chan die e c).abort = none → (s.chan
    die e c).mv = none → (s.chan die e c).ending = false → s.progWord die e (s.chan die e c).pc = some w → nbits w 63 60 = 2 → nbits w
    33 11 = 0 → nbits w 59 58 ≠ 3 → nbits w 57 34 ≠ 0 → nbits w 57 34 ≤ s.rdN (bgc die e c + BG.CH_IDX0 + 4 * nbits w 59 58) + 1 →
    Completes (.loopInsn die e) s (fun t =>
      t.rd (bgc die e c + BG.CH_IDX0 + 4 * nbits w 59 58) = 0#32 ∧
      (t.chan die e c).pc = (s.chan die e c).pc + 1)) ∧
  (∀ (s : State) (die e c w : Nat), (s.eng die e).active = some c → bargeOk s die e c = true → (s.chan die e c).abort = none → (s.chan
    die e c).mv = none → (s.chan die e c).ending = false → s.progWord die e (s.chan die e c).pc = some w → nbits w 63 60 = 3 → nbits w
    59 6 = 0 → s.bit (latchReg die e c (w % 64)) (w % 32) = true →
    Completes (.waitInsn die e) s (fun t =>
      t.bit (latchReg die e c (w % 64)) (w % 32) = false ∧
      (t.chan die e c).pc = (s.chan die e c).pc + 1)) ∧
  (∀ (s : State) (die e c w : Nat), (s.eng die e).active = some c → bargeOk s die e c = true → (s.chan die e c).abort = none → (s.chan
    die e c).mv = none → (s.chan die e c).ending = false → s.progWord die e (s.chan die e c).pc = some w → nbits w 63 60 = 3 → nbits w
    59 6 = 0 → s.bit (latchReg die e c (w % 64)) (w % 32) = false →
    Completes (.waitInsn die e) s (fun t =>
      t.chState die e c = 3 ∧
      t.fld (bgc die e c + BG.CH_STAT) 13 12 = 1 ∧
      (t.eng die e).active = none ∧
      (t.chan die e c).pc = (s.chan die e c).pc)) ∧
  (∀ (s : State) (die e c w : Nat), (s.eng die e).active = some c → bargeOk s die e c = true → (s.chan die e c).abort = none → (s.chan
    die e c).mv = none → (s.chan die e c).ending = false → s.progWord die e (s.chan die e c).pc = some w → nbits w 63 60 = 4 → nbits w
    59 3 = 0 →
    Completes (.signalInsn die e) s (fun t =>
      (t.chan die e c).sigs = (s.chan die e c).sigs ++ [nbits w 2 0] ∧
      (t.chan die e c).pc = (s.chan die e c).pc + 1 ∧
      t.regs = s.regs)) ∧
  (∀ (s : State) (die e c w : Nat), (s.eng die e).active = some c → bargeOk s die e c = true → (s.chan die e c).abort = none → (s.chan
    die e c).mv = none → (s.chan die e c).ending = false → s.progWord die e (s.chan die e c).pc = some w → nbits w 63 60 = 5 → nbits w
    59 11 = 0 →
    Completes (.endInsn die e) s (fun t =>
      (t.chan die e c).ending = true ∧
      (t.eng die e).active = none ∧
      t.regs = s.regs)) ∧
  (∀ (s : State) (die e c w : Nat) (ws : List Nat), (s.eng die e).active = some c → bargeOk s die e c = true → (s.chan die e c).abort =
    none → (s.chan die e c).mv = none → (s.chan die e c).ending = false → s.progWord die e (s.chan die e c).pc = some w → nbits w 63 60
    = 1 → (s.mvFetch die e c (s.chan die e c).pc w).toOption = some ws → nbits (ws.getD 0 0) 59 53 = 0 → (ws.getD 0 0).testBit 48 =
    false → inSpace 32 [(((nbits (ws.getD 1 0) 31 0 : Int) + s.mvSteps die e c (ws.getD 3 0)), nbits (ws.getD 0 0) 24 0)] = true →
    inSpace 32 [(((nbits (ws.getD 2 0) 39 0 : Int) + s.mvSteps die e c (ws.getD 4 0)), nbits (ws.getD 0 0) 24 0)] = true → meetsWindows
    [(((nbits (ws.getD 2 0) 39 0 : Int) + s.mvSteps die e c (ws.getD 4 0)), nbits (ws.getD 0 0) 24 0)] = false → nbits (ws.getD 0 0) 24
    0 ≠ 0 →
    Completes (.moveInsn die e) s (fun t =>
      (t.chan die e c).mv = some
        { words := ws, src := ((nbits (ws.getD 1 0) 31 0 : Int) + s.mvSteps die e c (ws.getD 3 0)).toNat, dst := ((nbits (ws.getD 2 0) 39 0 : Int) + s.mvSteps die e c (ws.getD 4 0)).toNat, total := nbits (ws.getD 0 0) 24 0, left := nbits (ws.getD 0 0) 24 0, queue := none, cursor := s.ringTotal die e c } ∧
      t.regs = s.regs)) ∧
  (∀ (s : State) (die e c w : Nat), (s.eng die e).active = some c → bargeOk s die e c = true → (s.chan die e c).abort = none → (s.chan
    die e c).mv = none → (s.chan die e c).ending = false → s.progWord die e (s.chan die e c).pc = some w → nbits w 63 60 = 0 →
    Completes (.moveInsn die e) s (fun t =>
      t.chState die e c = 5 ∧
      t.fld (bgc die e c + BG.CH_STAT) 11 8 = 2 ∧
      t.bit (bgc die e c + BG.CH_EVENTS) 0 = true ∧
      (t.eng die e).active = none))

/-- Waits end, signals pulse, END completes, late errors are counted, and rings take credit. R370, R377, R378, R381, R390, R395, R396.
WAIT_TIME_REL_EXPIRE: the channel is READY. WAIT_TIME_ABS_REACHED: the channel is READY. SIGNAL_PULSE: the oldest armed signal pulses
its producer. END_COMPLETE: DONE, with the pulse that CH_CFG names. LATE_ERROR: counted, with its event. RING_ADD: credit up to the
ring size. RING_LOG_WRITE of a channel that does not run: an empty ring of that size with full credit. RING_TOTAL_READ: the low word
is returned, and the high word is held for the path. CH_CFG_WRITE of a channel that does not run. While it runs the write is refused.
-/
def Obligations.ChannelEvents : Prop :=
  (∀ (s : State) (die e c d : Nat), (s.chan die e c).relAt = some d → bargeOk s die e c = true → d ≤ s.cycle → (s.chan die e c).abort =
    none → s.chState die e c = 3 →
    Completes (.waitTimeRelExpire die e c) s (fun t =>
      t.chState die e c = 1 ∧
      t.fld (bgc die e c + BG.CH_STAT) 13 12 = 0 ∧
      RegsBut s t [bgc die e c + BG.CH_STAT])) ∧
  (∀ (s : State) (die e c x : Nat), (s.chan die e c).absT = some x → bargeOk s die e c = true → timeReached (s.stamp die) x = true →
    (s.chan die e c).abort = none → s.chState die e c = 3 →
    Completes (.waitTimeAbsReached die e c) s (fun t =>
      t.chState die e c = 1 ∧
      t.fld (bgc die e c + BG.CH_STAT) 13 12 = 0 ∧
      RegsBut s t [bgc die e c + BG.CH_STAT])) ∧
  (∀ (s : State) (die e c n : Nat) (rest : List Nat), bargeOk s die e c = true → (s.chan die e c).sigs = n :: rest →
    Completes (.signalPulse die e c) s (fun t =>
      (t.chan die e c).sigs = rest ∧
      (448 + 8 * e + n, s.stamp die, s.cycle) ∈ (t.efS die).pulses ∧
      t.regs = s.regs)) ∧
  (∀ (s : State) (die e c : Nat), bargeOk s die e c = true → (s.chan die e c).ending = true → (s.chan die e c).abort = none →
    Completes (.endComplete die e c) s (fun t =>
      t.chState die e c = 4 ∧
      (t.chan die e c).ending = false ∧
      (448 + 8 * e + s.fld (bgc die e c + BG.CH_CFG) 6 4, s.stamp die, s.cycle) ∈ (t.efS die).pulses ∧
      RegsBut s t [bgc die e c + BG.CH_STAT])) ∧
  (∀ (s : State) (die e c addr : Nat), bargeOk s die e c = true →
    Completes (.lateError die e c addr) s (fun t =>
      t.rdN (bgn die e c + BG.LATE_ERR) = Nat.min 0xFFFFFFFF (s.rdN (bgn die e c + BG.LATE_ERR) + 1) ∧
      t.bit (bgc die e c + BG.CH_EVENTS) 2 = true ∧
      t.chans = s.chans)) ∧
  (∀ (s : State) (die e c req v : Nat), bargeOk s die e c = true →
    Completes (.ringAdd die e c req v) s (fun t =>
      t.ringCredit die e c = Nat.min (2 ^ s.fld (bgc die e c + BG.RING_LOG) 5 0) (s.ringCredit die e c + v % 2 ^ 32) ∧
      t.chans = s.chans)) ∧
  (∀ (s : State) (die e c req v : Nat), bargeOk s die e c = true → chRunning (s.chState die e c) = false → 12 ≤ v % 64 → v % 64 ≤ 32 →
    Completes (.ringLogWrite die e c req v) s (fun t =>
      t.fld (bgc die e c + BG.RING_LOG) 5 0 = v % 64 ∧
      t.ringTotal die e c = 0 ∧
      t.ringCredit die e c = 2 ^ (v % 64))) ∧
  (∀ (s : State) (die e c req : Nat), bargeOk s die e c = true →
    Completes (.ringTotalRead die e c req) s (fun t =>
      t.resp = .data [s.rd (bgn die e c + BG.RING_TOTAL_LO)] ∧
      t.latched req (bgn die e c + BG.RING_TOTAL_HI) = s.rd (bgn die e c + BG.RING_TOTAL_HI) ∧
      t.regs = s.regs)) ∧
  (∀ (s : State) (die e c off req v : Nat), bargeOk s die e c = true → off = BG.CH_CFG → chRunning (s.chState die e c) = false →
    Completes (.chCfgWrite die e c off req v) s (fun t =>
      t.rd (bgc die e c + BG.CH_CFG) = wordOf v &&& wordOf 0x71 ∧
      RegsBut s t [bgc die e c + BG.CH_CFG])) ∧
  (∀ (s : State) (die e c off req v : Nat), bargeOk s die e c = true → off = BG.CH_CFG → chRunning (s.chState die e c) = true →
    Completes (.chCfgWrite die e c off req v) s (fun t =>
      t.bit (bgc die e c + BG.CH_EVENTS) 6 = true ∧
      RegsBut s t [bgc die e c + BG.CH_EVENTS]))

/-- The conditions of ACCEPT follow the link, Bus Master Enable, power state, credit and reset of the function. R407, R410, R417 and
R426 on a present steward: ACCEPT is set while the link is up, Bus Master Enable set, D3hot not, posted credit granted and no
Function Level Reset under way. UPLINK_LINK_CHANGE; a link that comes up has posted credit, which is the model's choice (log entry
109). ACCEPT_STALL_EXPIRE: no posted credit for ACCEPT_STALL ms. POSTED_CREDIT_GRANT. FUNCTION_LEVEL_RESET clears the mailbox, the
MSI-X table and the vectors owed; ACCEPT is clear until it ends. FLR_COMPLETE. -/
def Obligations.EndpointAcceptance : Prop :=
  (∀ (s : State) (st width rate : Nat) (up bme d3hot : Bool) (mps : Nat), s.stOk st = true →
    Completes (.uplinkLinkChange st width rate up bme d3hot mps) s (fun t =>
      t.bit (epb st + EP.EP_STAT) 16 = up ∧
      t.bit (epb st + EP.EP_STAT) 17 = (up && bme && !d3hot && !((s.ep st).stalled && s.bit (epb st + EP.EP_STAT) 16) && !(s.ep
        st).flr) ∧
      (t.ep st).bme = bme ∧ (t.ep st).d3hot = d3hot ∧ (t.ep st).mps = Nat.min 2 mps ∧
      (up = true → t.fld (epb st + EP.EP_STAT) 4 0 = width % 32 ∧ t.fld (epb st + EP.EP_STAT) 10 8 = rate % 8))) ∧
  (∀ (s : State) (st : Nat), s.stOk st = true → (s.ep st).creditAt + msec (s.rdN (epb st + EP.ACCEPT_STALL)) ≤ s.cycle →
    Completes (.acceptStallExpire st) s (fun t =>
      (t.ep st).stalled = true ∧
      t.bit (epb st + EP.EP_STAT) 17 = false)) ∧
  (∀ (s : State) (st : Nat), s.stOk st = true →
    Completes (.postedCreditGrant st) s (fun t =>
      (t.ep st).stalled = false ∧ (t.ep st).creditAt = s.cycle ∧
      t.bit (epb st + EP.EP_STAT) 17 = (s.bit (epb st + EP.EP_STAT) 16 && (s.ep st).bme && !(s.ep st).d3hot && !(s.ep st).flr))) ∧
  (∀ (s : State) (st : Nat), s.stOk st = true →
    Completes (.functionLevelReset st) s (fun t =>
      (t.ep st).flr = true ∧
      (t.ep st).vecPend = [] ∧
      (t.ep st).mbRsp = none ∧
      t.rd (upb st + UP.MB_STATUS) = 0#32 ∧
      t.rd (upb st + UP.UP_EPOCH) = 0#32 ∧
      (∀ a, a < 0x400 → t.byteAt st (bar0Mem + 0x20000 + a) = 0#8) ∧
      t.bit (epb st + EP.EP_STAT) 17 = false)) ∧
  (∀ (s : State) (st : Nat), s.stOk st = true →
    Completes (.flrComplete st) s (fun t =>
      (t.ep st).flr = false ∧
      t.bit (epb st + EP.EP_STAT) 17 = (s.bit (epb st + EP.EP_STAT) 16 && (s.ep st).bme && !(s.ep st).d3hot && !(s.ep st).stalled)))

/-- Doorbells reach both stewards' shadows, acknowledged tails leave the ledger, and a ring's vector is sent. R419-R423 and R435 on a
present steward. A DOORBELL of an enabled ring that advances by more than the ring's size is counted. One within the ring's size is
sent to the other steward and awaits its confirmation. DOORBELL_CONFIRM: the oldest unconfirmed HEAD becomes the shadow.
DB_SHADOW_WRITE: a write of the high half sets the pair. TAIL_ACK: the oldest unacknowledged tail write leaves, with the record ends
up to it. A ledger that has stopped releases nothing. RING_VECTOR: an owed vector is sent once, MSIX_MOD µs after the last message of
it at the earliest. -/
def Obligations.RingsAndDoorbells : Prop :=
  (∀ (s : State) (st k head : Nat), s.stOk st = true → k < 1024 → s.ringOn st k = true → ((head % 2 ^ 64 + 2 ^ 64 - s.headBase st k) %
    2 ^ 64) ≠ 0 → (2 ^ s.fld (bgc (s.ringDie st k) (s.ringEng st k) (s.ringCh st k) + BG.RING_LOG) 5 0) < ((head % 2 ^ 64 + 2 ^ 64 -
    s.headBase st k) % 2 ^ 64) →
    Completes (.doorbell st k head) s (fun t =>
      t.rdN (epb st + EP.DB_BAD) = Nat.min 0xFFFFFFFF (s.rdN (epb st + EP.DB_BAD) + 1) ∧
      t.bit (epb st + EP.EP_EVENTS) 3 = true ∧
      (t.ep st).dbPend = (s.ep st).dbPend ∧
      t.chans = s.chans)) ∧
  (∀ (s : State) (st k head : Nat), s.stOk st = true → k < 1024 → s.ringOn st k = true → s.peerLost st = false → ((head % 2 ^ 64 + 2 ^
    64 - s.headBase st k) % 2 ^ 64) ≠ 0 → ((head % 2 ^ 64 + 2 ^ 64 - s.headBase st k) % 2 ^ 64) ≤ (2 ^ s.fld (bgc (s.ringDie st k)
    (s.ringEng st k) (s.ringCh st k) + BG.RING_LOG) 5 0) → ((head % 2 ^ 64 + 2 ^ 64 - s.headBase st k) % 2 ^ 64) < 2 ^ 63 →
    Completes (.doorbell st k head) s (fun t =>
      (t.ep st).dbPend = (s.ep st).dbPend ++ [(k, head % 2 ^ 64)] ∧
      t.shadow st k = s.shadow st k ∧
      t.rdN (upb st + UP.DB_HEAD_LO + 0x10 * k) + t.rdN (upb st + UP.DB_HEAD_HI + 0x10 * k) * 2 ^ 32 = head % 2 ^ 64)) ∧
  (∀ (s : State) (st k h : Nat), s.stOk st = true → k < 1024 → h < 2 ^ 64 → (s.ep st).dbPend.find? (fun p => p.1 == k) = some (k, h) →
    (h + 2 ^ 64 - s.shadow st k) % 2 ^ 64 < 2 ^ 63 →
    Completes (.doorbellConfirm st k) s (fun t =>
      (t.ep st).dbPend = (s.ep st).dbPend.erase (k, h) ∧
      t.shadow st k = h)) ∧
  (∀ (s : State) (st k req v lo : Nat), s.stOk st = true → k < 1024 → (s.ep st).dbLo.lookup k = some lo →
    Completes (.dbShadowWrite st k req v) s (fun t =>
      t.rd (epb st + EP.RING_DB_LO + 0x20 * k) = wordOf lo ∧
      t.rd (epb st + EP.RING_DB_HI + 0x20 * k) = wordOf v ∧
      RegsBut s t [epb st + EP.RING_DB_LO + 0x20 * k, epb st + EP.RING_DB_HI + 0x20 * k])) ∧
  (∀ (s : State) (st k : Nat) (w : TailWr), s.stOk st = true → (s.ep st).tails.find? (fun t => t.ring == k) = some w → (s.ledger st
    k).stopped = false →
    Completes (.tailAck st k) s (fun t =>
      (t.ep st).tails = (s.ep st).tails.erase w ∧
      ((t.ledger st k).ends = (s.ledger st k).ends.filter (fun e => decide (w.value < e))))) ∧
  (∀ (s : State) (st k : Nat) (w : TailWr), s.stOk st = true → (s.ep st).tails.find? (fun t => t.ring == k) = some w → (s.ledger st
    k).stopped = true →
    Completes (.tailAck st k) s (fun t =>
      (t.ep st).tails = (s.ep st).tails.erase w ∧
      t.ledgers = s.ledgers ∧
      t.queues = s.queues)) ∧
  (∀ (s : State) (st k : Nat), s.stOk st = true → s.hostSilent st = false → 2 ≤ s.ringCfg st k 29 24 → (s.ep st).vecPend.contains k =
    true → (s.ep st).vecLast.lookup (s.ringCfg st k 29 24) = none →
    Completes (.ringVector st k) s (fun t =>
      t.out = { kind := OutKind.msix, unit := st, data := [s.ringCfg st k 29 24] } :: s.out ∧
      (t.ep st).vecPend.contains k = false ∧
      (t.ep st).vecLast.lookup (s.ringCfg st k 29 24) = some s.cycle ∧
      t.regs = s.regs))

/-- Streams move between carriers, module drains are reported, and the shedding plan sets the fall-back requests. R424, R425 and
R427-R431 on a present steward. CARRIER_MOVE of a stream whose queue has no ring: its queue takes the new carrier. With a ring that
has drained, the ledger and the channel's target move as well. EP_DRAIN of modules: the writes received so far are to be drained.
EP_DRAIN_DONE of a module whose writes are sent and acknowledged. SHED_PLAN: the streams shed request the fall-back of their
pipelines. SHED_HOLD_EXPIRE: a stream left unshed for the hold time returns. -/
def Obligations.CarriersAndShedding : Prop :=
  (∀ (s : State) (stream st : Nat), s.stOk st = true → s.streamOk stream = true → s.carrierOf (stream / 128) (s.rdN (dk (stream / 128)
    + BS.BS_SQ + 4 * (stream % 128)) % 4096) ≠ st → s.ringEntry (s.carrierOf (stream / 128) (s.rdN (dk (stream / 128) + BS.BS_SQ + 4 *
    (stream % 128)) % 4096)) (stream / 128) (s.rdN (dk (stream / 128) + BS.BS_SQ + 4 * (stream % 128)) % 4096) = none →
    Completes (.carrierMove stream st) s (fun t =>
      t.carrierOf (stream / 128) (s.rdN (dk (stream / 128) + BS.BS_SQ + 4 * (stream % 128)) % 4096) = st ∧
      (∀ i, i < 4096 → i ≠ (s.rdN (dk (stream / 128) + BS.BS_SQ + 4 * (stream % 128)) % 4096) → t.rd (qk (stream / 128) i + BS.Q_CFG) =
        s.rd (qk (stream / 128) i + BS.Q_CFG)) ∧
      t.chans = s.chans)) ∧
  (∀ (s : State) (stream st k : Nat), s.stOk st = true → s.streamOk stream = true → s.carrierOf (stream / 128) (s.rdN (dk (stream /
    128) + BS.BS_SQ + 4 * (stream % 128)) % 4096) ≠ st → s.ringEntry (s.carrierOf (stream / 128) (s.rdN (dk (stream / 128) + BS.BS_SQ +
    4 * (stream % 128)) % 4096)) (stream / 128) (s.rdN (dk (stream / 128) + BS.BS_SQ + 4 * (stream % 128)) % 4096) = some k → s.drained
    (s.carrierOf (stream / 128) (s.rdN (dk (stream / 128) + BS.BS_SQ + 4 * (stream % 128)) % 4096)) (stream / 128) (s.ep (s.carrierOf
    (stream / 128) (s.rdN (dk (stream / 128) + BS.BS_SQ + 4 * (stream % 128)) % 4096))).nextNo = true → chRunning (s.chState (stream /
    128) (s.ringEng (s.carrierOf (stream / 128) (s.rdN (dk (stream / 128) + BS.BS_SQ + 4 * (stream % 128)) % 4096)) k) (s.ringCh
    (s.carrierOf (stream / 128) (s.rdN (dk (stream / 128) + BS.BS_SQ + 4 * (stream % 128)) % 4096)) k)) = false →
    Completes (.carrierMove stream st) s (fun t =>
      t.carrierOf (stream / 128) (s.rdN (dk (stream / 128) + BS.BS_SQ + 4 * (stream % 128)) % 4096) = st ∧
      t.ledger st k = s.ledger (s.carrierOf (stream / 128) (s.rdN (dk (stream / 128) + BS.BS_SQ + 4 * (stream % 128)) % 4096)) k)) ∧
  (∀ (s : State) (st req v : Nat), s.stOk st = true →
    Completes (.epDrain st req v) s (fun t =>
      t.rd (epb st + EP.EP_DRAIN_STAT) = s.rd (epb st + EP.EP_DRAIN_STAT) ||| wordOf (v % 32) ∧
      RegsBut s t [epb st + EP.EP_DRAIN_STAT] ∧
      (∀ m, m < 5 → v.testBit m = true → (t.ep st).drains.lookup m = some (s.ep st).nextNo))) ∧
  (∀ (s : State) (st m : Nat), s.stOk st = true → m < 5 → s.bit (epb st + EP.EP_DRAIN_STAT) m = true → s.drained st m (((s.ep
    st).drains.lookup m).getD (s.ep st).nextNo) = true →
    Completes (.epDrainDone st m) s (fun t =>
      t.bit (epb st + EP.EP_DRAIN_STAT) m = false ∧
      t.bit (epb st + EP.EP_EVENTS) 5 = true ∧
      RegsBut s t [epb st + EP.EP_DRAIN_STAT, epb st + EP.EP_EVENTS])) ∧
  (∀ (s : State) (st : Nat), s.stOk st = true → s.finalC = false → s.bit (epb st + EP.EP_CTL) 0 = true →
    Completes (.shedPlan st) s (fun t =>
      (t.ep st).plan = s.buildPlan st 100 ∧
      (∀ x, x ∈ s.buildPlan st 100 → t.bit (pl (s.streamPipe x) + PL.FIN_REQ) 0 = true ∧ x ∈ (t.ep st).shed))) ∧
  (∀ (s : State) (st stream a : Nat), s.stOk st = true → s.finalC = false → (s.ep st).holds.lookup stream = some a → a + msec (s.fld
    (epb st + EP.SHED_PARAM) 31 16) ≤ s.cycle →
    Completes (.shedHoldExpire st stream) s (fun t =>
      ((t.ep st).shed = (s.ep st).shed.filter (fun x => x != stream)) ∧
      t.bit (pl (s.streamPipe stream) + PL.FIN_REQ) 0 = false ∧
      RegsBut s t [pl (s.streamPipe stream) + PL.FIN_REQ]))

/-- Modules between dies replay, retrain, go down and come up at both ends. R445-R448 and R583 for modules between present dies.
FLIT_RX with a bad CRC: counted, and sent again. An error of the physical layer sends the module to RETRAIN. RETRAIN of an ACTIVE
module. UP of a module that is DOWN or FAILED. DOWN: the end has lost its far die. On a concentrator whose steward has a planned
stop, DOWN leaves the module DOWN. MODULE_TRAINED: both ends ACTIVE. MODULE_RETRAIN_DONE: both ends ACTIVE again, and no read is
outstanding. A write that a concentrator had under way is sent once more, and performed. RETRAIN_LIMIT_EXPIRE: the end has lost its
far die. SIDEBAND_UP: SB_UP at both ends. -/
def Obligations.ModuleStates : Prop :=
  (∀ (s : State) (die m : Nat) (crcOk phyErr : Bool), s.endState die m = 3 → crcOk = false → phyErr = false → (s.modS (farEnd die m).1
    (farEnd die m).2).replays < 15 →
    Completes (.flitRx die m crcOk phyErr) s (fun t =>
      t.rdN (modKey die m BR.CRC_ERR) = Nat.min 0xFFFFFFFF (s.rdN (modKey die m BR.CRC_ERR) + 1) ∧
      t.rdN (modKey (farEnd die m).1 (farEnd die m).2 BR.REPLAYS) = Nat.min 0xFFFFFFFF (s.rdN (modKey (farEnd die m).1 (farEnd die m).2
        BR.REPLAYS) + 1) ∧
      (t.modS (farEnd die m).1 (farEnd die m).2).replays = (s.modS (farEnd die m).1 (farEnd die m).2).replays + 1 ∧
      t.endState die m = 3 ∧
      RegsBut s t [modKey die m BR.CRC_ERR, modKey (farEnd die m).1 (farEnd die m).2 BR.REPLAYS])) ∧
  (∀ (s : State) (die m : Nat) (crcOk phyErr : Bool), s.endState die m = 3 → s.endState (farEnd die m).1 (farEnd die m).2 = 3 → phyErr
    = true →
    Completes (.flitRx die m crcOk phyErr) s (fun t =>
      t.endState die m = 4 ∧
      t.endState (farEnd die m).1 (farEnd die m).2 = 4 ∧
      (t.modS die m).retrainAt = s.cycle)) ∧
  (∀ (s : State) (die m req v : Nat), s.endState die m = 3 → modFirst 3 v = some 2 →
    Completes (.modCmdRetrain die m req v) s (fun t =>
      t.endState die m = 4 ∧
      (t.modS die m).retrainAt = s.cycle ∧
      t.bit (modKey die m BR.BR_EVENTS) 1 = true)) ∧
  (∀ (s : State) (die m req v : Nat), s.modOk die m = true → modFirst (s.endState die m) v = some 1 →
    Completes (.modCmdUp die m req v) s (fun t =>
      t.endState die m = 2 ∧
      t.bit (modKey die m BR.BR_EVENTS) 0 = true ∧
      RegsBut s t [modKey die m BR.MOD_STAT, modKey die m BR.BR_EVENTS])) ∧
  (∀ (s : State) (die m req v : Nat), s.modOk die m = true → modFirst (s.endState die m) v = some 0 →
    Completes (.modCmdDown die m req v) s (fun t =>
      (t.hb die m).lost = true)) ∧
  (∀ (s : State) (die m req v : Nat), die < 4 → s.modOk die m = true → modFirst (s.endState die m) v = some 0 → s.isPlanned die m =
    true →
    Completes (.modCmdDown die m req v) s (fun t =>
      t.endState die m = 1 ∧
      (t.hb die m).lost = true)) ∧
  (∀ (s : State) (die m width : Nat), s.endState die m = 2 → s.endState (farEnd die m).1 (farEnd die m).2 = 2 →
    Completes (.moduleTrained die m width) s (fun t =>
      t.endState die m = 3 ∧
      t.endState (farEnd die m).1 (farEnd die m).2 = 3 ∧
      t.fld (modKey die m BR.MOD_STAT) 22 16 = width % 128)) ∧
  (∀ (s : State) (die m width : Nat), s.endState die m = 4 → s.endState (farEnd die m).1 (farEnd die m).2 = 4 → (s.modS die m).wrs = []
    → (s.modS (farEnd die m).1 (farEnd die m).2).wrs = [] →
    Completes (.moduleRetrainDone die m width) s (fun t =>
      t.endState die m = 3 ∧
      t.endState (farEnd die m).1 (farEnd die m).2 = 3 ∧
      (t.modS die m).rds = [] ∧ (t.modS (farEnd die m).1 (farEnd die m).2).rds = [])) ∧
  (∀ (s : State) (die m width : Nat) (w : PendWr), s.stOk die = true → m < 4 → s.endState die m = 4 → s.endState m (die - 4) = 4 →
    (s.modS die m).wrs = [] → (s.modS m (die - 4)).wrs = [w] → rxLenOk w.addr w.data.length = true → w.addr + w.data.length ≤
    0x300000000 →
    Completes (.moduleRetrainDone die m width) s (fun t =>
      (∀ i, i < w.data.length → t.byteAt die (w.addr + i) = w.data.getD i 0#8) ∧
      (t.modS m (die - 4)).wrs = [] ∧
      t.endState die m = 3)) ∧
  (∀ (s : State) (die m : Nat), s.endState die m = 4 → (s.modS die m).retrainAt + usec (s.rdN (modKey die m BR.RETRAIN_LIMIT)) <
    s.cycle →
    Completes (.retrainLimitExpire die m) s (fun t =>
      (t.hb die m).lost = true)) ∧
  (∀ (s : State) (die m : Nat), s.modOk die m = true → s.sbUp die m = false →
    Completes (.sidebandUp die m) s (fun t =>
      t.bit (modKey die m BR.MOD_STAT) 8 = true ∧
      t.bit (modKey (farEnd die m).1 (farEnd die m).2 BR.MOD_STAT) 8 = true ∧
      t.irqSent = s.irqSent))

/-- Reads and writes over a module are performed at their target, complete, or time out. R439-R449 and R456 for transactions received
at an end of a steward, whose sender's end is ACTIVE. A WR to a steward's DRAM stores its bytes and nothing else. A RD of the
partner's DRAM over U_X: its completion, with the bytes, is on its way. The completion of the oldest read answers its requester.
NP_TIMEOUT: a read that has waited too long ends with TIMEOUT. PF_MARK_WRITE of BASE: the register and the mark's status. PF_FLUSH:
no line is left. PF_LINE_EXPIRE: lines that have reached PF_LIFE are gone. -/
def Obligations.FabricTransactions : Prop :=
  (∀ (s : State) (die m req addr : Nat) (data : List Byte), s.stOk die = true → m < 4 → rxLenOk addr data.length = true → addr +
    data.length ≤ 0x300000000 → s.sendStop die m = 0 → s.endState m (die - 4) = 3 → pUnits data.length ≤ s.pFree m (die - 4) →
    Completes (.odvelWrRx die m req addr data) s (fun t =>
      (∀ i, i < data.length → t.byteAt die (addr + i) = data.getD i 0#8) ∧
      (∀ a, (a < addr ∨ addr + data.length ≤ a) → t.byteAt die a = s.byteAt die a) ∧
      t.regs = s.regs ∧
      t.resp = Resp.none)) ∧
  (∀ (s : State) (die m req tag addr len : Nat), s.stOk die = true → m = 4 → rxLenOk addr len = true → addr + len ≤ 0x300000000 →
    s.sendStop die m = 0 → s.endState (partner die) 4 = 3 → s.inMark (partner die) 4 (0x4000000000 + addr) = false → ((s.modS (partner
    die) 4).rds).length < 32 → ((s.modS (partner die) 4).rds).any (fun r => r.tag == tag) = false →
    Completes (.odvelRdRx die m req tag addr len) s (fun t =>
      (t.modS (partner die) 4).rds = ((s.modS (partner die) 4).rds) ++
        [{ tag := tag, req := req, addr := 0x4000000000 + addr, at_ := s.cycle, len := len, status := 0, data := s.bytesAt die addr len }] ∧
      t.regs = s.regs ∧
      t.mem = s.mem)) ∧
  (∀ (s : State) (die m tag : Nat) (r : PendRd) (rest : List PendRd), s.modOk die m = true → s.endState die m = 3 → (s.modS die m).rds
    = r :: rest → r.tag = tag → r.status = 0 → r.data.length = r.len →
    Completes (.odvelCplRx die m tag) s (fun t =>
      t.resp = Resp.bytes r.data ∧
      (t.modS die m).rds = rest ∧
      t.regs = s.regs)) ∧
  (∀ (s : State) (die m tag : Nat) (r : PendRd), s.modOk die m = true → (s.modS die m).rds.find? (fun r => r.tag == tag) = some r →
    r.at_ + usec (s.rdN (modKey die m BR.NP_TIMEOUT)) ≤ s.cycle →
    Completes (.npTimeout die m tag) s (fun t =>
      (t.modS die m).rds = (s.modS die m).rds.erase r ∧
      t.rdN (modKey die m BR.NP_TIMEOUTS) = Nat.min 0xFFFFFFFF (s.rdN (modKey die m BR.NP_TIMEOUTS) + 1) ∧
      t.resp = Resp.fault 5)) ∧
  (∀ (s : State) (st m i req : Nat) (limit : Bool) (v : Nat), s.stOk st = true → s.modOk st m = true → i < 8 → limit = false →
    Completes (.pfMarkWrite st m i req limit v) s (fun t =>
      t.rd (brs st m + BRS.PF_BASE + 0x10 * i) = wordOf (v % 2 ^ 28) ∧
      t.bit (brs st m + BRS.PF_BASE + 0x10 * i + 8) 0 = (pfStat m (v % 2 ^ 28 * 4096) (s.rdN (brs st m + BRS.PF_BASE + 0x10 * i + 4) *
        4096)).2.2 ∧
      t.bit (brs st m + BRS.PF_BASE + 0x10 * i + 8) 1 = (pfStat m (v % 2 ^ 28 * 4096) (s.rdN (brs st m + BRS.PF_BASE + 0x10 * i + 4) *
        4096)).2.1)) ∧
  (∀ (s : State) (st m req : Nat), s.stOk st = true → s.modOk st m = true →
    Completes (.pfFlush st m req) s (fun t =>
      (t.modS st m).lines = [] ∧
      RegsBut s t [modKey st m BR.PF_DISCARD])) ∧
  (∀ (s : State) (st m : Nat), s.stOk st = true → s.modOk st m = true →
    Completes (.pfLineExpire st m) s (fun t =>
      ((t.modS st m).lines = (s.modS st m).lines.filter (fun l => decide (s.cycle < l.at_ + s.fld (brs st m + BRS.PF_CTL) 27 16))) ∧
      RegsBut s t [modKey st m BR.PF_DISCARD]))

/-- Rivals for a semaphore are served by its round-robin pointer, and forced releases free by owner or all at once. R459 and R460 on a
present die. SEM_ACQ of a free semaphore over two paths in one cycle: the path nearest at or after the pointer wins, and the pointer
moves past it. SEM_FORCE of one owner: it holds none. SEM_FORCE of all: none is held. -/
def Obligations.Semaphores : Prop :=
  (∀ (s : State) (die n req rival : Nat), s.present die = true → n < 64 → s.fld (semKey die n) 7 0 = 0 → (1 ≤ req ∧ req < 256) → (1 ≤
    rival ∧ rival < 256) → semPath rival ≠ semPath req →
    Completes (.semAcq die n req rival) s (fun t =>
      (t.fld (semKey die n) 7 0 = (if (fun r => (semPath r + semPaths die - s.fld (semKey die n) 17 16 % semPaths die) % semPaths die)
        req ≤ (fun r => (semPath r + semPaths die - s.fld (semKey die n) 17 16 % semPaths die) % semPaths die) rival then req else
        rival)) ∧
      t.bit (semKey die n) 8 = true ∧
      (t.fld (semKey die n) 17 16 = (semPath (if (fun r => (semPath r + semPaths die - s.fld (semKey die n) 17 16 % semPaths die) %
        semPaths die) req ≤ (fun r => (semPath r + semPaths die - s.fld (semKey die n) 17 16 % semPaths die) % semPaths die) rival then
        req else rival) + 1) % semPaths die) ∧
      RegsBut s t [semKey die n, sm die + SM.SEM_HELD_LO, sm die + SM.SEM_HELD_HI])) ∧
  (∀ (s : State) (die req v : Nat), s.present die = true → v.testBit 8 = false → v % 256 ≠ 0 →
    Completes (.semForceOwner die req v) s (fun t =>
      (∀ n, n < 64 → t.fld (semKey die n) 7 0 = (if s.fld (semKey die n) 7 0 = v % 256 then 0 else s.fld (semKey die n) 7 0)))) ∧
  (∀ (s : State) (die req v : Nat), s.present die = true → v.testBit 8 = true →
    Completes (.semForceAll die req v) s (fun t =>
      (∀ n, n < 64 → t.fld (semKey die n) 7 0 = 0)))

/-- Levels travel to the stewards; contexts and keeper cores claim and complete sources. R461-R467, R471 and R472 on present dies.
IRQ_LEVEL_CHANGE: the level sent is the level of the source, and a steward named by SRC_CFG holds it. SNAP to SA: it holds the levels
of all sources. SNAP to SB. SW_SET raises the software sources whose bits are set. SW_CLR lowers them. A claim of a context takes the
best source. Its completion frees it. A keeper core claims the lowest source. Its completion frees it. -/
def Obligations.InterruptClaims : Prop :=
  (∀ (s : State) (die n : Nat), die < 4 → s.present die = true → n < 250 → s.concLevel die n ≠ Tbl.get (fun _ => false) s.irqSent (die
    * 256 + n) → s.bit (iq die + IQ.SRC_CFG + 4 * n) 0 = true → s.irqPath die 4 = true → s.endState 4 die = 3 →
    Completes (.irqLevelChange die n) s (fun t =>
      (Tbl.get (fun _ => false) t.irqSent (die * 256 + n) = s.concLevel die n) ∧
      t.irqLevel 4 (256 * (die + 1) + n) = s.concLevel die n ∧
      t.regs = s.regs)) ∧
  (∀ (s : State) (die req v : Nat), die < 4 → s.present die = true → v.testBit 0 = true → s.irqPath die 4 = true → s.endState 4 die = 3
    →
    Completes (.snapSa die req v) s (fun t =>
      (∀ n, n < 250 → t.irqLevel 4 (256 * (die + 1) + n) = s.concLevel die n) ∧
      t.regs = s.regs)) ∧
  (∀ (s : State) (die req v : Nat), die < 4 → s.present die = true → v.testBit 1 = true → s.irqPath die 5 = true → s.endState 5 die = 3
    →
    Completes (.snapSb die req v) s (fun t =>
      (∀ n, n < 250 → t.irqLevel 5 (256 * (die + 1) + n) = s.concLevel die n) ∧
      t.regs = s.regs)) ∧
  (∀ (s : State) (die req v : Nat), s.present die = true →
    Completes (.swSet die req v) s (fun t =>
      (∀ i, i < 16 → t.swOn die i = (v.testBit i || s.swOn die i)) ∧
      t.regs = s.regs)) ∧
  (∀ (s : State) (die req v : Nat), s.present die = true →
    Completes (.swClr die req v) s (fun t =>
      (∀ i, i < 16 → t.swOn die i = (!v.testBit i && s.swOn die i)) ∧
      t.regs = s.regs)) ∧
  (∀ (s : State) (st k req g : Nat), s.stOk st = true → k < 8 → s.irqBest st k = some g →
    Completes (.ctxClaim st k req) s (fun t =>
      t.resp = Resp.data [wordOf (0x80000000 + g)] ∧
      (Tbl.get (fun _ => false) t.irqClaims (st * 2048 + g) = true) ∧
      t.regs = s.regs)) ∧
  (∀ (s : State) (st k req v : Nat), s.stOk st = true → k < 8 → Tbl.get (fun _ => false) s.irqClaims (st * 2048 + v % 2048) = true →
    Completes (.ctxComplete st k req v) s (fun t =>
      (Tbl.get (fun _ => false) t.irqClaims (st * 2048 + v % 2048) = false) ∧
      t.regs = s.regs)) ∧
  (∀ (s : State) (die core req n : Nat), die < 4 → s.present die = true → core < 2 → (List.range 250).find? (fun n => s.kpFor die core
    n) = some n →
    Completes (.kpClaim die core req) s (fun t =>
      t.resp = Resp.data [wordOf (0x80000000 + n)] ∧
      (Tbl.get (fun _ => false) t.kpClaims (die * 256 + n) = true) ∧
      t.regs = s.regs)) ∧
  (∀ (s : State) (die core req v : Nat), die < 4 → s.present die = true → core < 2 → Tbl.get (fun _ => false) s.kpClaims (die * 256 + v
    % 256) = true →
    Completes (.kpComplete die core req v) s (fun t =>
      (Tbl.get (fun _ => false) t.kpClaims (die * 256 + v % 256) = false) ∧
      t.regs = s.regs))

/-- Pulses become events of the channels, which latch at barge channels and interrupt outputs; relays travel to every die. R473-R479,
R491-R494 on a present concentrator die. CHANNEL_EVENT: the oldest waiting cycle's pulses are taken, and its events reach the
interrupt outputs that select them. CLOCKED_DELIVERY: a held event is delivered in its cycle. EVENT_RECORD_WRITE: the oldest captured
event leaves as a record. RELAY_FORWARD: a steward passes the oldest message to every die whose sideband is up, and to its journal.
RELAY_MSG_RX of a first copy in time: its emission is set. A later copy is discarded. RELAY_EMIT: at its time the relay producer
pulses with the event's stamp. SW_PULSE: the software producers named pulse. -/
def Obligations.EventCarriage : Prop :=
  (∀ (s : State) (die c : Nat), s.efOk die = true → s.efDue die = some c → (s.efS die).pulses.any (fun p => p.2.2 == c) = true →
    Completes (.channelEvent die) s (fun t =>
      ((t.efS die).pulses = (s.efS die).pulses.filter (fun p => p.2.2 != c)) ∧
      (∀ i, i < 32 → s.abit (ef die + EF.IRQO_SEL + 4 * i) 7 = true → (s.dueEvents die c).any (fun e => e.ch == s.afld (ef die +
        EF.IRQO_SEL + 4 * i) 5 0) = true → t.bit (ef die + EF.IRQO_STAT) i = true))) ∧
  (∀ (s : State) (die c : Nat), s.efOk die = true → s.efDue die = some c → (s.efS die).held.any (fun h => h.1 == c) = true →
    Completes (.clockedDelivery die) s (fun t =>
      ((t.efS die).held.any (fun h => h.1 == c) = false) ∧
      (∀ i, i < 32 → s.abit (ef die + EF.IRQO_SEL + 4 * i) 7 = true → (s.dueEvents die c).any (fun e => e.ch == s.afld (ef die +
        EF.IRQO_SEL + 4 * i) 5 0) = true → t.bit (ef die + EF.IRQO_STAT) i = true))) ∧
  (∀ (s : State) (die : Nat) (c : EvCap) (rest : List EvCap), s.efOk die = true → (s.efS die).cap = c :: rest → (s.efS die).lastRec =
    none →
    Completes (.eventRecordWrite die) s (fun t =>
      (t.efS die).cap = rest ∧
      (t.efS die).capLost = 0 ∧
      (t.efS die).lastRec = some s.cycle)) ∧
  (∀ (s : State) (st : Nat) (m : RelayMsg) (rest : List RelayMsg), Tbl.get (fun _ => []) s.relaySt st = m :: rest →
    Completes (.relayForward st) s (fun t =>
      (Tbl.get (fun _ => []) t.relaySt st = rest) ∧
      (Tbl.get (fun _ => []) t.relayJ st = Tbl.get (fun _ => []) s.relayJ st ++ [(m.line, m.stamp)]) ∧
      (∀ d, d < 4 → s.present d = true → s.bit (brs st d + BRS.MOD_STAT) 8 = true → (t.efS d).inbox = (s.efS d).inbox ++ [m]) ∧
      t.regs = s.regs)) ∧
  (∀ (s : State) (die : Nat) (m : RelayMsg) (rest : List RelayMsg), s.efOk die = true → (s.efS die).inbox = m :: rest → (s.efS
    die).seen.contains (m.src, m.line, m.seq) = false → s.stamp die < m.cyc + s.fld (ef die + EF.EF_CTL) 16 0 * 65536 + 65536 →
    Completes (.relayMsgRx die) s (fun t =>
      (t.efS die).inbox = rest ∧
      (t.efS die).due = (s.efS die).due ++ [(m.line, m.cyc + s.fld (ef die + EF.EF_CTL) 16 0 * 65536, m.stamp)] ∧
      t.regs = s.regs)) ∧
  (∀ (s : State) (die : Nat) (m : RelayMsg) (rest : List RelayMsg), s.efOk die = true → (s.efS die).inbox = m :: rest → (s.efS
    die).seen.contains (m.src, m.line, m.seq) = true →
    Completes (.relayMsgRx die) s (fun t =>
      t.efS die = { s.efS die with inbox := rest } ∧
      t.regs = s.regs)) ∧
  (∀ (s : State) (die : Nat) (x : Nat × Nat × Nat), s.efOk die = true → (s.efS die).due.find? (fun x => decide (x.2.1 ≤ s.stamp die)) =
    some x →
    Completes (.relayEmit die) s (fun t =>
      (t.efS die).due = (s.efS die).due.erase x ∧
      (t.efS die).pulses = (s.efS die).pulses ++ [(656 + x.1, x.2.2, s.cycle)] ∧
      t.regs = s.regs)) ∧
  (∀ (s : State) (die req v : Nat), s.efOk die = true →
    Completes (.swPulse die req v) s (fun t =>
      (∀ i, i < 8 → v.testBit i = true → (736 + i, s.stamp die, s.cycle) ∈ (t.efS die).pulses) ∧
      t.regs = s.regs))

/-- Registered cells, time windows and pins pulse and change their levels at their times. R483-R489 on a present concentrator die.
CELL_REG_PULSE of a cell without hold-off. CELL_STABLE_EXPIRE: Q takes f. HOLDOFF_EXPIRE. WINDOW_OPEN: its OPEN producer pulses,
once. WINDOW_CLOSE: its CLOSE producer pulses; a periodic window goes to its next occurrence. PIN_FILTER_ACCEPT of a ball that has
held its level for the filter's time: the filtered level changes, and its producer pulses three cycles later. One that has not held
it so long shows at the ball alone. PIN_PULSE_END: the pin is driven inactive. -/
def Obligations.CellsWindowsPins : Prop :=
  (∀ (s : State) (die cell : Nat) (x : Nat × Nat), (s.efS die).edges.find? (fun x => x.1 == cell && decide (x.2 ≤ s.cycle)) = some x →
    s.afld (lcK die cell + EF.LC_CTL) 9 8 ≠ 3 →
    Completes (.cellRegPulse die cell) s (fun t =>
      ((t.efS die).edges = (s.efS die).edges.filter (fun y => y ≠ x)) ∧
      (t.efS die).pulses = (s.efS die).pulses ++ [(624 + cell, s.stamp die, s.cycle)] ∧
      t.regs = s.regs)) ∧
  (∀ (s : State) (die cell a : Nat), s.efOk die = true → cell < 16 → (s.cellS die cell).since = some a → a + s.cellTicks die cell ≤
    s.cycle + 1 →
    Completes (.cellStableExpire die cell) s (fun t =>
      t.bit (lcK die cell + EF.LC_STAT) 0 = (!s.bit (lcK die cell + EF.LC_STAT) 0) ∧
      (t.cellS die cell).since = none ∧
      RegsBut s t [lcK die cell + EF.LC_STAT, ef die + EF.LEVELS])) ∧
  (∀ (s : State) (die cell a : Nat), (s.cellS die cell).hold = some a → a ≤ s.cycle →
    Completes (.holdoffExpire die cell) s (fun t =>
      (t.cellS die cell).hold = none ∧
      (t.cellS die cell).since = (s.cellS die cell).since ∧
      t.regs = s.regs)) ∧
  (∀ (s : State) (die w : Nat), s.efOk die = true → w < 8 → (s.winS die w).en = true → (s.winS die w).opened = false → (s.winS die
    w).opn ≤ s.stamp die →
    Completes (.windowOpen die w) s (fun t =>
      t.winS die w = { s.winS die w with opened := true } ∧
      (t.efS die).pulses = (s.efS die).pulses ++ [(640 + 2 * w, s.stamp die, s.cycle)] ∧
      RegsBut s t [ef die + EF.LEVELS])) ∧
  (∀ (s : State) (die w : Nat), s.efOk die = true → w < 8 → (s.winS die w).en = true → (s.winS die w).opened = true → (s.winS die
    w).closed = false → (s.winS die w).cls ≤ s.stamp die →
    Completes (.windowClose die w) s (fun t =>
      ((s.winS die w).periodic = false → t.winS die w = { s.winS die w with closed := true }) ∧
      ((s.winS die w).periodic = true → (t.winS die w).opn = (s.winS die w).opn + (s.winS die w).per ∧ (t.winS die w).cls = (s.winS die
        w).cls + (s.winS die w).per ∧ (t.winS die w).opened = false) ∧
      (t.efS die).pulses = (s.efS die).pulses ++ [(641 + 2 * w, s.stamp die, s.cycle)] ∧
      RegsBut s t [ef die + EF.LEVELS])) ∧
  (∀ (s : State) (die pin stamp held : Nat) (level : Bool), s.efOk die = true → pin < 4 → s.abit (pinK die pin + EF.PIN_CFG) 0 = false
    → s.bit (pinK die pin + EF.PIN_STAT) 0 ≠ level → s.pinHold die pin ≤ held →
    Completes (.pinFilterAccept die pin stamp held level) s (fun t =>
      t.bit (pinK die pin + EF.PIN_STAT) 0 = level ∧
      (t.efS die).pulses = (s.efS die).pulses ++ [(592 + 2 * pin + (if level then 0 else 1), stamp, s.cycle + 3)] ∧
      RegsBut s t [pinK die pin + EF.PIN_STAT, ef die + EF.LEVELS])) ∧
  (∀ (s : State) (die pin stamp held : Nat) (level : Bool), s.efOk die = true → pin < 4 → s.abit (pinK die pin + EF.PIN_CFG) 0 = false
    → held < s.pinHold die pin →
    Completes (.pinFilterAccept die pin stamp held level) s (fun t =>
      t.bit (pinK die pin + EF.PIN_STAT) 0 = s.bit (pinK die pin + EF.PIN_STAT) 0 ∧
      t.bit (pinK die pin + EF.PIN_STAT) 1 = (level != s.abit (pinK die pin + EF.PIN_CFG) 2) ∧
      t.efs = s.efs ∧
      RegsBut s t [pinK die pin + EF.PIN_STAT])) ∧
  (∀ (s : State) (die pin a : Nat), s.efOk die = true → pin < 4 → s.finalC = false → (Tbl.get (fun _ => (false, none)) (s.efS die).pins
    pin).2 = some a → a ≤ s.cycle →
    Completes (.pinPulseEnd die pin) s (fun t =>
      (Tbl.get (fun _ => (false, none)) (t.efS die).pins pin = (false, none)) ∧
      t.out = { kind := OutKind.eventPin, unit := die * 4 + pin, data := [b2n (s.abit (pinK die pin + EF.PIN_CFG) 2)] } :: s.out ∧
      RegsBut s t [pinK die pin + EF.PIN_STAT]))

/-- Shadow writes follow ownership, and a commit of the event fabric is snapshot, checked, and taken whole or refused. R480, R483-R486,
R495, R496 and R498 on a present concentrator die. EF_SHADOW_WRITE of a register that no unit owns: its writable bits take the value,
but for V33 bits once a commit was taken. A locked channel keeps its registers. CELL_CLR by an admitted path. By a path that does not
own the cell it is refused and counted. EF_COMMIT: the shadows are snapshot, and their check runs. During a check it answers BUSY.
EF_CHECK_DONE of a snapshot without a fault: its values are the committed ones. A loop of unclocked channels is refused with a
channel of it. -/
def Obligations.FabricCommit : Prop :=
  (∀ (s : State) (die off req v w l : Nat), s.efOk die = true → 0x30000 ≤ off → efShadowed off = true → (lookupReg (ef die + off)).map
    (fun e => (e.1.wr, e.1.lock)) = some (w, l) →
    Completes (.efShadowWrite die off req v) s (fun t =>
      t.rd (ef die + off) = wordOf ((s.rdN (ef die + off) &&& (0xFFFFFFFF - (w &&& 0xFFFFFFFF &&& (0xFFFFFFFF - (if (s.efS die).locked
        then l else 0))))) ||| (v % 2 ^ 32 &&& (w &&& 0xFFFFFFFF &&& (0xFFFFFFFF - (if (s.efS die).locked then l else 0))))) ∧
      RegsBut s t [ef die + off])) ∧
  (∀ (s : State) (die off req v n : Nat), s.efOk die = true → n < 64 → off = 0x10000 + 16 * n → ownRight (s.actN (chK die n +
    EF.CH_CFG)) req = 0 → (lookupReg (ef die + off)).isSome = true →
    Completes (.efShadowWrite die off req v) s (fun t =>
      RegsBut s t [])) ∧
  (∀ (s : State) (die cell req v : Nat), s.efOk die = true → cell < 16 → v.testBit 0 = true → ownRight (s.actN (lcK die cell +
    EF.LC_CTL)) req = 3 →
    Completes (.cellClr die cell req v) s (fun t =>
      t.rd (lcK die cell + EF.LC_STAT) = 0#32 ∧
      t.cellS die cell = {} ∧
      RegsBut s t [lcK die cell + EF.LC_STAT, ef die + EF.LEVELS])) ∧
  (∀ (s : State) (die cell req v : Nat), s.efOk die = true → cell < 16 → v.testBit 0 = true → ownRight (s.actN (lcK die cell +
    EF.LC_CTL)) req = 4 →
    Completes (.cellClr die cell req v) s (fun t =>
      t.rd (lcK die cell + EF.LC_STAT) = s.rd (lcK die cell + EF.LC_STAT) ∧
      t.rdN (ef die + EF.OWNER_REFUSED) = Nat.min 0xFFFFFFFF (s.rdN (ef die + EF.OWNER_REFUSED) + 1) ∧
      t.bit (ef die + EF.EF_EVENTS) 7 = true ∧
      t.efs = s.efs)) ∧
  (∀ (s : State) (die req v : Nat), s.efOk die = true → v.testBit 0 = true → (s.efS die).snap = none →
    Completes (.efCommit die req v) s (fun t =>
      ((t.efS die).snap = some (s.regs.filter (fun x => efShadowKey die x.1))) ∧
      t.bit (ef die + EF.EF_CSTAT) 4 = true ∧
      t.acts = s.acts ∧
      RegsBut s t [ef die + EF.EF_CSTAT])) ∧
  (∀ (s : State) (die req v : Nat) (q : Tbl Word), s.efOk die = true → v.testBit 0 = true → (s.efS die).snap = some q →
    Completes (.efCommit die req v) s (fun t =>
      t.fld (ef die + EF.EF_CSTAT) 2 0 = 4 ∧
      t.efs = s.efs ∧
      RegsBut s t [ef die + EF.EF_CSTAT])) ∧
  (∀ (s : State) (die : Nat) (q : Tbl Word), (s.efS die).snap = some q → loopAt (fun k => (Tbl.get resetWord q k).toNat) die = none →
    (List.range 64).any (fun n => nbits ((fun k => (Tbl.get resetWord q k).toNat) (chK die n + EF.CH_CFG)) 30 29 == 3) = false →
    (List.range 16).find? (fun c => cellBad (fun k => (Tbl.get resetWord q k).toNat) die c) = none → (List.range 8).find? (fun w =>
    winBad (fun k => (Tbl.get resetWord q k).toNat) die w) = none →
    Completes (.efCheckDone die) s (fun t =>
      t.acts = mergeTbl (efShadowKey die) s.acts q ∧
      (t.efS die).snap = none ∧
      (t.efS die).locked = true ∧
      t.rd (ef die + EF.EF_CSTAT) = 0#32 ∧
      t.bit (ef die + EF.EF_EVENTS) 0 = true)) ∧
  (∀ (s : State) (die : Nat) (q : Tbl Word) (n : Nat), (s.efS die).snap = some q → loopAt (fun k => (Tbl.get resetWord q k).toNat) die
    = some n →
    Completes (.efCheckDone die) s (fun t =>
      t.acts = s.acts ∧
      (t.efS die).snap = none ∧
      t.rd (ef die + EF.EF_CSTAT) = wordOf (1 + n % 64 * 256) ∧
      t.bit (ef die + EF.EF_EVENTS) 1 = true))

/-- Filtered levels, indexes and SSI frames count, refer and report illegal transitions. R503-R512 for an axis of the part in the mode
named. AXIS_COUNT in QUAD mode: a step to a neighbouring state changes the count by one, as DIR_INV says. A step that skips a state
is illegal: the count stays and AX_ILLEGAL rises. In HALL mode a step along the order of R504. Levels that have not held for FILT_N
samples change nothing. AXIS_INDEX while POS_VALID is clear makes a reference at the count. With POS_VALID set and no home armed, an
index outside IDX_GATE is counted and changes no position. SSI_POLL starts a frame with the stamp of its first edge. SSI_FRAME_DONE:
the first good frame sets the count. A frame whose line was not high counts in SSI_ERR and is illegal; the count stays. -/
def Obligations.AxisDecoding : Prop :=
  (∀ (s : State) (axis levels stamp held : Nat) (d : Int), s.axOk axis = true → s.axSteady axis held = true → s.axMode axis = 1 →
    phaseStep 4 (quadPhase (s.fld (ax axis + AX.AX_STAT) 10 8)) (quadPhase levels) = some d →
    Completes (.axisCount axis levels stamp held) s (fun t =>
      t.rd (ax axis + AX.COUNT) = s.axC axis + wordOfInt (if s.abit (ax axis + AX.AX_CTL) 2 then -d else d) ∧
      t.fld (ax axis + AX.AX_STAT) 10 8 = levels % 8)) ∧
  (∀ (s : State) (axis levels stamp held : Nat), s.axOk axis = true → s.axSteady axis held = true → s.axMode axis = 1 → phaseStep 4
    (quadPhase (s.fld (ax axis + AX.AX_STAT) 10 8)) (quadPhase levels) = none →
    Completes (.axisCount axis levels stamp held) s (fun t =>
      t.rd (ax axis + AX.COUNT) = s.axC axis ∧
      t.rdN (ax axis + AX.AX_ILLEGAL) = Nat.min 0xFFFFFFFF (s.rdN (ax axis + AX.AX_ILLEGAL) + 1) ∧
      t.bit (ax axis + AX.AX_EVENTS) 2 = true ∧
      (t.axS axis).coast = true)) ∧
  (∀ (s : State) (axis levels stamp held n w : Nat) (d : Int), s.axOk axis = true → s.axSteady axis held = true → s.axMode axis = 2 →
    hallPhase levels = some n → (s.axS axis).valid = some w → phaseStep 6 w n = some d →
    Completes (.axisCount axis levels stamp held) s (fun t =>
      t.rd (ax axis + AX.COUNT) = s.axC axis + wordOfInt (if s.abit (ax axis + AX.AX_CTL) 2 then -d else d) ∧
      (t.axS axis).valid = some n)) ∧
  (∀ (s : State) (axis levels stamp held : Nat), s.axSteady axis held = false →
    Completes (.axisCount axis levels stamp held) s (fun t =>
      t = s)) ∧
  (∀ (s : State) (axis stamp held : Nat), s.axOk axis = true → s.axSteady axis held = true → s.axMode axis = 1 → s.bit (ax axis +
    AX.AX_STAT) 0 = false → (s.axS axis).faultAt ≠ some stamp →
    Completes (.axisIndex axis stamp held) s (fun t =>
      t.rd (ax axis + AX.IDX_CAPT) = s.axC axis ∧
      t.rd (ax axis + AX.IDX_BASE) = s.axC axis ∧
      t.rd (ax axis + AX.POS_OFS) = s.act (ax axis + AX.REF_VAL) - s.axC axis ∧
      t.bit (ax axis + AX.AX_STAT) 0 = true ∧ t.bit (ax axis + AX.AX_STAT) 1 = false ∧
      t.bit (ax axis + AX.AX_EVENTS) 4 = true)) ∧
  (∀ (s : State) (axis stamp held : Nat), s.axOk axis = true → s.axSteady axis held = true → s.axMode axis = 1 → s.bit (ax axis +
    AX.AX_STAT) 0 = true → s.bit (ax axis + AX.AX_STAT) 2 = false → (s.afld (ax axis + AX.IDX_GATE) 15 0 : Int) < (s.axIdxDiff
    axis).natAbs →
    Completes (.axisIndex axis stamp held) s (fun t =>
      t.rd (ax axis + AX.IDX_CAPT) = s.axC axis ∧
      t.rdN (ax axis + AX.IDX_OUTSIDE) = Nat.min 0xFFFFFFFF (s.rdN (ax axis + AX.IDX_OUTSIDE) + 1) ∧
      t.rd (ax axis + AX.COUNT) = s.rd (ax axis + AX.COUNT) ∧ t.rd (ax axis + AX.POS_OFS) = s.rd (ax axis + AX.POS_OFS))) ∧
  (∀ (s : State) (axis : Nat), s.axOk axis = true → s.finalC = false → s.axMode axis = 3 → (s.axS axis).ssiAt = none → (s.axS
    axis).ssiPrev = none →
    Completes (.ssiPoll axis) s (fun t =>
      (t.axS axis).ssiAt = some (s.stamp (axis / 4)) ∧
      (t.axS axis).ssiPrev = some s.cycle ∧
      t.regs = s.regs)) ∧
  (∀ (s : State) (axis word : Nat) (highOk : Bool) (a : Nat), s.axOk axis = true → s.axMode axis = 3 → (s.axS axis).ssiAt = some a →
    (s.axS axis).ssiFirst = true → highOk = true →
    Completes (.ssiFrameDone axis word highOk) s (fun t =>
      t.rd (ax axis + AX.COUNT) = wordOf (if s.abit (ax axis + AX.SSI_CFG) 7 then grayToBin (s.afld (ax axis + AX.SSI_CFG) 5 0) (word %
        2 ^ (s.afld (ax axis + AX.SSI_CFG) 5 0)) else word % 2 ^ (s.afld (ax axis + AX.SSI_CFG) 5 0)) ∧
      t.bit (ax axis + AX.AX_STAT) 0 = true ∧
      (t.axS axis).ssiFirst = false)) ∧
  (∀ (s : State) (axis word : Nat) (highOk : Bool) (a : Nat), s.axOk axis = true → s.axMode axis = 3 → (s.axS axis).ssiAt = some a →
    highOk = false →
    Completes (.ssiFrameDone axis word highOk) s (fun t =>
      t.rdN (ax axis + AX.SSI_ERR) = Nat.min 0xFFFFFFFF (s.rdN (ax axis + AX.SSI_ERR) + 1) ∧
      t.rdN (ax axis + AX.AX_ILLEGAL) = Nat.min 0xFFFFFFFF (s.rdN (ax axis + AX.AX_ILLEGAL) + 1) ∧
      t.rd (ax axis + AX.COUNT) = s.rd (ax axis + AX.COUNT)))

/-- Observer, commits, references and records of an axis. R508, R512-R519 for an axis of the part. OBSERVER_UPDATE: one step of the
estimates at the committed gains. ILL_WIN_EXPIRE: the window of illegal transitions closes. AX_COMMIT of admissible values: they are
the committed ones. Of others: AXIS_REFUSED. AX_REF in QUAD or HALL mode: the position at the count is REF_VAL. ARM_HOME. CLR_COUNT:
count and estimates are 0, and POS_VALID is clear. AXIS_REC_PERIODIC: a trigger with CAUSE bit 0. AXIS_RECORD_WRITE: the oldest
trigger leaves as a record. AXIS_COUNT_READ: the count, with the position of the sample latched for the path. -/
def Obligations.AxisCommands : Prop :=
  (∀ (s : State) (axis : Nat), s.axOk axis = true → (s.axS axis).obsAt + usec 1 ≤ s.cycle →
    Completes (.observerUpdate axis) s (fun t =>
      (t.axS axis).obsAt = (s.axS axis).obsAt + usec 1 ∧
      (t.axS axis).x = ((s.axS axis).observe (s.axC axis) (s.afld (ax axis + AX.OBS_GAIN) 4 0) (s.afld (ax axis + AX.OBS_GAIN) 12 8)
        (s.afld (ax axis + AX.OBS_GAIN) 20 16)).x ∧ (t.axS axis).w = ((s.axS axis).observe (s.axC axis) (s.afld (ax axis + AX.OBS_GAIN)
        4 0) (s.afld (ax axis + AX.OBS_GAIN) 12 8) (s.afld (ax axis + AX.OBS_GAIN) 20 16)).w ∧ (t.axS axis).b = ((s.axS axis).observe
        (s.axC axis) (s.afld (ax axis + AX.OBS_GAIN) 4 0) (s.afld (ax axis + AX.OBS_GAIN) 12 8) (s.afld (ax axis + AX.OBS_GAIN) 20
        16)).b ∧
      (t.axS axis).coast = false ∧
      RegsBut s t [ax axis + AX.AX_STAT])) ∧
  (∀ (s : State) (axis a : Nat), s.axOk axis = true → (s.axS axis).illOpen = some a → a + usec (s.afld (ax axis + AX.FAULT_CFG) 31 16)
    ≤ s.cycle →
    Completes (.illWinExpire axis) s (fun t =>
      (t.axS axis).illOpen = none ∧ (t.axS axis).illN = 0 ∧
      t.regs = s.regs)) ∧
  (∀ (s : State) (axis req v : Nat), s.axOk axis = true → v.testBit 0 = true → s.axRefuse axis = false →
    Completes (.axCommit axis req v) s (fun t =>
      (∀ k, k ∈ axShadowed axis → t.act k = s.rd k) ∧
      t.rd (ax axis + AX.AX_CSTAT) = 0#32)) ∧
  (∀ (s : State) (axis req v : Nat), s.axOk axis = true → v.testBit 0 = true → s.axRefuse axis = true →
    Completes (.axCommit axis req v) s (fun t =>
      t.acts = s.acts ∧
      t.rd (ax axis + AX.AX_CSTAT) = 1#32 ∧
      t.bit (ax axis + AX.AX_EVENTS) 9 = true ∧
      t.axes = s.axes)) ∧
  (∀ (s : State) (axis req v : Nat), s.axOk axis = true → v.testBit 0 = true → (s.axMode axis = 1 ∨ s.axMode axis = 2) →
    Completes (.axRef axis req v) s (fun t =>
      t.rd (ax axis + AX.POS_OFS) = s.act (ax axis + AX.REF_VAL) - s.axC axis ∧
      t.axPos axis = s.act (ax axis + AX.REF_VAL) ∧
      t.bit (ax axis + AX.AX_STAT) 0 = true ∧ t.bit (ax axis + AX.AX_STAT) 1 = false)) ∧
  (∀ (s : State) (axis req v : Nat), s.axOk axis = true → v.testBit 1 = true →
    Completes (.armHome axis req v) s (fun t =>
      t.bit (ax axis + AX.AX_STAT) 2 = true ∧
      RegsBut s t [ax axis + AX.AX_STAT])) ∧
  (∀ (s : State) (axis req v : Nat), s.axOk axis = true → v.testBit 2 = true →
    Completes (.clrCount axis req v) s (fun t =>
      t.rd (ax axis + AX.COUNT) = 0#32 ∧
      t.bit (ax axis + AX.AX_STAT) 0 = false ∧
      (t.axS axis).p = 0#32 ∧ (t.axS axis).x = 0 ∧ (t.axS axis).w = 0 ∧ (t.axS axis).b = 0 ∧
      RegsBut s t [ax axis + AX.COUNT, ax axis + AX.AX_STAT])) ∧
  (∀ (s : State) (axis : Nat), s.axOk axis = true → s.afld (ax axis + AX.REC_CFG) 15 0 ≠ 0 → (s.axS axis).lastPer + usec (s.afld (ax
    axis + AX.REC_CFG) 15 0) ≤ s.cycle → (s.axS axis).trigs = [] →
    Completes (.axisRecPeriodic axis) s (fun t =>
      (t.axS axis).trigs = [(s.stamp (axis / 4), 1)] ∧
      (t.axS axis).lastPer = (s.axS axis).lastPer + usec (s.afld (ax axis + AX.REC_CFG) 15 0) ∧
      t.regs = s.regs)) ∧
  (∀ (s : State) (axis a c : Nat) (rest : List (Nat × Nat)), s.axOk axis = true → (s.axS axis).trigs = (a, c) :: rest → (s.axS
    axis).lastRec = none →
    Completes (.axisRecordWrite axis) s (fun t =>
      (t.axS axis).trigs = rest ∧
      (t.axS axis).lost = 0 ∧
      (t.axS axis).lastRec = some s.cycle)) ∧
  (∀ (s : State) (axis req : Nat), s.axOk axis = true →
    Completes (.axisCountRead axis req) s (fun t =>
      t.resp = Resp.data [s.axC axis] ∧
      t.latched req (ax axis + AX.POS) = s.axPos axis ∧
      t.regs = s.regs))

/-- Records are taken from journal rings, staged, appended and covered by commits; clips open and close. R527-R545 for the journal
engine of a present steward. JOURNAL_TAKE of a whole record that fits the window: the entry's position moves behind it. A header that
is none stops the entry. FORWARDED_RECORD_RX: the partner's record is accepted as the engine's own. COMMIT_NOW: an ordinary commit
begins. COMMIT_LAT_MAX. COMMIT_LAT_MIN with admissible padding. APPEND_DONE of an extent's last append, at the expected LBA: the
extent has been written. A failed one with tries left waits for its retry. Another LBA is a lane fault. Of one before the last: the
next append of the extent is sent. APPEND_RETRY: the extent is sent again. FLUSH_DONE: the anchor writes begin. ANCHOR_WRITE_DONE of
an ordinary commit: it is counted, and its extents leave the stage buffer. JSEQ_LEASE: a further lease. CLIP_TRIGGER: the oldest
relay event is taken; an armed clip's window closes CL_POST after it. CLIP_WINDOW_CLOSE. PREROLL_EXPIRE keeps the records that a clip
may still take. -/
def Obligations.JournalRecords : Prop :=
  (∀ (s : State) (st k : Nat) (poison : Bool), s.jnTakes st = true → k < 64 → s.jrFld st k 31 31 = 1 → (s.jnS st).stopped.contains k =
    false → bargeOk s (s.jrFld st k 23 22) (s.jrFld st k 21 18) (s.jrFld st k 17 13) = true → s.carrierOf (s.jrFld st k 23 22) (s.jrFld
    st k 11 0) = st → (leAt (s.ringBytes st (s.rdN (bgc (s.jrFld st k 23 22) (s.jrFld st k 21 18) (s.jrFld st k 17 13) +
    BG.RING_BASE_LO) + s.fld (bgc (s.jrFld st k 23 22) (s.jrFld st k 21 18) (s.jrFld st k 17 13) + BG.RING_BASE_HI) 7 0 * 2 ^ 32) (2 ^
    s.fld (bgc (s.jrFld st k 23 22) (s.jrFld st k 21 18) (s.jrFld st k 17 13) + BG.RING_LOG) 5 0) (s.jrPos st k) 48) 1 1 % 16 = 1 ∧
    leAt (s.ringBytes st (s.rdN (bgc (s.jrFld st k 23 22) (s.jrFld st k 21 18) (s.jrFld st k 17 13) + BG.RING_BASE_LO) + s.fld (bgc
    (s.jrFld st k 23 22) (s.jrFld st k 21 18) (s.jrFld st k 17 13) + BG.RING_BASE_HI) 7 0 * 2 ^ 32) (2 ^ s.fld (bgc (s.jrFld st k 23
    22) (s.jrFld st k 21 18) (s.jrFld st k 17 13) + BG.RING_LOG) 5 0) (s.jrPos st k) 48) 8 4 % 64 = 0 ∧ leAt (s.ringBytes st (s.rdN
    (bgc (s.jrFld st k 23 22) (s.jrFld st k 21 18) (s.jrFld st k 17 13) + BG.RING_BASE_LO) + s.fld (bgc (s.jrFld st k 23 22) (s.jrFld
    st k 21 18) (s.jrFld st k 17 13) + BG.RING_BASE_HI) 7 0 * 2 ^ 32) (2 ^ s.fld (bgc (s.jrFld st k 23 22) (s.jrFld st k 21 18)
    (s.jrFld st k 17 13) + BG.RING_LOG) 5 0) (s.jrPos st k) 48) 8 4 ≤ 262144) → s.jrPos st k + 48 + leAt (s.ringBytes st (s.rdN (bgc
    (s.jrFld st k 23 22) (s.jrFld st k 21 18) (s.jrFld st k 17 13) + BG.RING_BASE_LO) + s.fld (bgc (s.jrFld st k 23 22) (s.jrFld st k
    21 18) (s.jrFld st k 17 13) + BG.RING_BASE_HI) 7 0 * 2 ^ 32) (2 ^ s.fld (bgc (s.jrFld st k 23 22) (s.jrFld st k 21 18) (s.jrFld st
    k 17 13) + BG.RING_LOG) 5 0) (s.jrPos st k) 48) 8 4 ≤ leNat (s.bytesAt st (s.rdN (jn st + JN.JR_TAIL_LO + 0x20 * k) + s.fld (jn st
    + JN.JR_TAIL_HI + 0x20 * k) 7 0 * 2 ^ 32) 8) → (s.jnS st).inflight + 48 + leAt (s.ringBytes st (s.rdN (bgc (s.jrFld st k 23 22)
    (s.jrFld st k 21 18) (s.jrFld st k 17 13) + BG.RING_BASE_LO) + s.fld (bgc (s.jrFld st k 23 22) (s.jrFld st k 21 18) (s.jrFld st k
    17 13) + BG.RING_BASE_HI) 7 0 * 2 ^ 32) (2 ^ s.fld (bgc (s.jrFld st k 23 22) (s.jrFld st k 21 18) (s.jrFld st k 17 13) +
    BG.RING_LOG) 5 0) (s.jrPos st k) 48) 8 4 ≤ s.jnWindow st →
    Completes (.journalTake st k poison) s (fun t =>
      t.rd (jn st + JN.JR_POS_LO + 0x20 * k) = wordOf (s.jrPos st k + 48 + leAt (s.ringBytes st (s.rdN (bgc (s.jrFld st k 23 22)
        (s.jrFld st k 21 18) (s.jrFld st k 17 13) + BG.RING_BASE_LO) + s.fld (bgc (s.jrFld st k 23 22) (s.jrFld st k 21 18) (s.jrFld st
        k 17 13) + BG.RING_BASE_HI) 7 0 * 2 ^ 32) (2 ^ s.fld (bgc (s.jrFld st k 23 22) (s.jrFld st k 21 18) (s.jrFld st k 17 13) +
        BG.RING_LOG) 5 0) (s.jrPos st k) 48) 8 4) ∧
      (poison = true → t.jns = s.jns))) ∧
  (∀ (s : State) (st k : Nat) (poison : Bool), s.jnTakes st = true → k < 64 → s.jrFld st k 31 31 = 1 → (s.jnS st).stopped.contains k =
    false → bargeOk s (s.jrFld st k 23 22) (s.jrFld st k 21 18) (s.jrFld st k 17 13) = true → s.carrierOf (s.jrFld st k 23 22) (s.jrFld
    st k 11 0) = st → leAt (s.ringBytes st (s.rdN (bgc (s.jrFld st k 23 22) (s.jrFld st k 21 18) (s.jrFld st k 17 13) +
    BG.RING_BASE_LO) + s.fld (bgc (s.jrFld st k 23 22) (s.jrFld st k 21 18) (s.jrFld st k 17 13) + BG.RING_BASE_HI) 7 0 * 2 ^ 32) (2 ^
    s.fld (bgc (s.jrFld st k 23 22) (s.jrFld st k 21 18) (s.jrFld st k 17 13) + BG.RING_LOG) 5 0) (s.jrPos st k) 48) 1 1 % 16 ≠ 1 →
    s.jrPos st k + 48 ≤ leNat (s.bytesAt st (s.rdN (jn st + JN.JR_TAIL_LO + 0x20 * k) + s.fld (jn st + JN.JR_TAIL_HI + 0x20 * k) 7 0 *
    2 ^ 32) 8) →
    Completes (.journalTake st k poison) s (fun t =>
      (t.jnS st).stopped = k :: (s.jnS st).stopped ∧
      t.bit (jn st + JN.JN_EVENTS) 28 = true ∧
      RegsBut s t [jn st + JN.JN_EVENTS])) ∧
  (∀ (s : State) (st : Nat) (r : List Byte) (rest : List (List Byte)), s.stOk st = true → (s.jnS st).fwd = r :: rest → s.jnState st = 3
    → (s.jnS st).final = false → s.forwarding st = false → (s.jnS st).inflight + r.length ≤ s.jnWindow st →
    Completes (.forwardedRecordRx st) s (fun t =>
      (t.jnS st).fwd = rest ∧
      (t.jnS st).recBytes = (s.jnS st).recBytes + r.length)) ∧
  (∀ (s : State) (st req v : Nat), s.jnLive st = true → v.testBit 0 = true →
    Completes (.commitNow st req v) s (fun t =>
      ((t.jnS st).commits.map (fun c => c.kind) = (s.jnS st).commits.map (fun c => c.kind) ++ [0]) ∧
      (t.jnS st).firstAcc = none ∧ (t.jnS st).accBytes = 0)) ∧
  (∀ (s : State) (st a : Nat), s.jnLive st = true → (s.jnS st).firstAcc = some a → a + msec (s.fld (jn st + JN.COMMIT_LAT) 31 16) ≤
    s.cycle →
    Completes (.commitLatMax st) s (fun t =>
      ((t.jnS st).commits.map (fun c => c.kind) = (s.jnS st).commits.map (fun c => c.kind) ++ [0]) ∧
      (t.jnS st).firstAcc = none ∧ (t.jnS st).accBytes = 0)) ∧
  (∀ (s : State) (st a : Nat), s.jnLive st = true → (s.jnS st).firstAcc = some a → a + msec (s.fld (jn st + JN.COMMIT_LAT) 15 0) ≤
    s.cycle → s.padNeed st * 1000000 ≤ s.rdN (jn st + JN.PAD_LIMIT) * (s.jnS st).accBytes →
    Completes (.commitLatMin st) s (fun t =>
      ((t.jnS st).commits.map (fun c => c.kind) = (s.jnS st).commits.map (fun c => c.kind) ++ [0]) ∧
      (t.jnS st).firstAcc = none ∧ (t.jnS st).accBytes = 0)) ∧
  (∀ (s : State) (st lane lba : Nat) (ok : Bool) (e : Extent), s.stOk st = true → (s.jnS st).exts.find? (fun e => e.lane == lane &&
    e.sent && !e.done && e.failAt.isNone) = some e → ok = true → lba = e.lba + e.wrote → e.nlb ≤ e.wrote + s.pieceLen st e →
    Completes (.appendDone st lane lba ok) s (fun t =>
      (∀ x, x ∈ (t.jnS st).exts → x.id = e.id → x.done = true))) ∧
  (∀ (s : State) (st lane lba : Nat) (ok : Bool) (e : Extent), s.stOk st = true → (s.jnS st).exts.find? (fun e => e.lane == lane &&
    e.sent && !e.done && e.failAt.isNone) = some e → ok = false → e.tries < 3 →
    Completes (.appendDone st lane lba ok) s (fun t =>
      (∀ x, x ∈ (t.jnS st).exts → x.id = e.id → x.failAt = some s.cycle) ∧
      t.regs = s.regs)) ∧
  (∀ (s : State) (st lane lba : Nat) (ok : Bool) (e : Extent), s.stOk st = true → (s.jnS st).exts.find? (fun e => e.lane == lane &&
    e.sent && !e.done && e.failAt.isNone) = some e → ok = true → lba ≠ e.lba + e.wrote →
    Completes (.appendDone st lane lba ok) s (fun t =>
      t.rdN (jn st + JN.LANE_FAULT) = Nat.min 0xFFFFFFFF (s.rdN (jn st + JN.LANE_FAULT) + 1) ∧
      t.bit (jn st + JN.JN_EVENTS) 5 = true)) ∧
  (∀ (s : State) (st lane lba : Nat) (ok : Bool) (e : Extent), s.stOk st = true → (s.jnS st).exts.find? (fun e => e.lane == lane &&
    e.sent && !e.done && e.failAt.isNone) = some e → ok = true → lba = e.lba + e.wrote → e.wrote + s.pieceLen st e < e.nlb →
    Completes (.appendDone st lane lba ok) s (fun t =>
      (∀ x, x ∈ (t.jnS st).exts → x.id = e.id → x.wrote = e.wrote + s.pieceLen st e))) ∧
  (∀ (s : State) (st lane : Nat) (e : Extent) (a : Nat), s.stOk st = true → (s.jnS st).exts.find? (fun e => e.lane == lane &&
    e.failAt.isSome) = some e → e.failAt = some a → a + msec 1 ≤ s.cycle →
    Completes (.appendRetry st lane) s (fun t =>
      t.rdN (jn st + JN.APPEND_RETRY) = Nat.min 0xFFFFFFFF (s.rdN (jn st + JN.APPEND_RETRY) + 1) ∧
      (t.out =
        { kind := OutKind.nvme, unit := st, data := (if s.jnConv st then 1 else 7) :: [e.lane, e.lba + e.wrote] ++ (slice e.data (e.wrote * 4096) (s.pieceLen st e * 4096)).map (fun b => b.toNat) }
        :: s.out))) ∧
  (∀ (s : State) (st : Nat) (ok : Bool) (c : CommitS) (rest : List CommitS), s.stOk st = true → (s.jnS st).commits = c :: rest →
    c.phase = 3 → ok = true →
    Completes (.flushDone st ok) s (fun t =>
      (t.jnS st).commits = { c with phase := 5 } :: rest ∧
      (t.jnS st).anchorAt = s.cycle ∧
      RegsBut s t [jn st + JN.FLUSH_MAX])) ∧
  (∀ (s : State) (st : Nat) (peerOk : Bool) (c : CommitS) (rest : List CommitS), s.stOk st = true → (s.jnS st).commits = c :: rest →
    c.phase = 5 → c.kind = 0 →
    Completes (.anchorWriteDone st peerOk) s (fun t =>
      ((t.jnS st).exts = (s.jnS st).exts.filter (fun e => !(s.jnS st).covered.contains e.id)) ∧
      (t.jnS st).commits.length = rest.length ∧
      t.rdN (jn st + JN.COMMITS) = Nat.min 0xFFFFFFFF (s.rdN (jn st + JN.COMMITS) + 1) ∧
      t.bit (jn st + JN.JN_EVENTS) 0 = true)) ∧
  (∀ (s : State) (st : Nat), s.stOk st = true → (s.jnS st).lease.length ≤ 1 →
    Completes (.jseqLease st) s (fun t =>
      (t.jnS st).lease.length = (s.jnS st).lease.length + 1 ∧
      t.regs = s.regs)) ∧
  (∀ (s : State) (st line a : Nat) (rest : List (Nat × Nat)), Tbl.get (fun _ => []) s.relayJ st = (line, a) :: rest → s.jnTakes st =
    true →
    Completes (.clipTrigger st) s (fun t =>
      (Tbl.get (fun _ => []) t.relayJ st = rest) ∧
      ((s.jnS st).pre = [] → ∀ k, k < 16 → s.bit (jn st + JN.CL_CTL + 0x20 * k) 31 = true → s.fld (jn st + JN.CL_CTL + 0x20 * k) 3 0 =
        line → (Tbl.get (fun _ => none) (t.jnS st).clips k).map (fun c => c.2) = some (a + s.rdN (jn st + JN.CL_POST + 0x20 * k) *
        1000000 * 65536)))) ∧
  (∀ (s : State) (st clip a b : Nat), s.stOk st = true → Tbl.get (fun _ => none) (s.jnS st).clips clip = some (a, b) → b ≤ s.stamp st →

    Completes (.clipWindowClose st clip) s (fun t =>
      (Tbl.get (fun _ => none) (t.jnS st).clips clip = none) ∧
      t.regs = s.regs)) ∧
  (∀ (s : State) (st : Nat), s.stOk st = true →
    Completes (.prerollExpire st) s (fun t =>
      ((t.jnS st).pre = (s.jnS st).pre.filter (fun r => (List.range 16).any (fun k => s.clipNames st k (leAt r 4 2) && decide (s.stamp
        st ≤ dtUnpack (leAt r 24 12) + s.rdN (jn st + JN.CL_PRE + 0x20 * k) * 1000000 * 65536)))) ∧
      t.regs = s.regs))

/-- Drives are linked, probed, recovered, detached and lost; budgets, wear and weir mode follow. R521, R537, R541, R544-R550 and R708
for the journal engine of a present steward. DRIVE_LINK_TRY that trains. DRIVE_PROBE of a drive that R521 refuses. Of the medium last
in use: recovery. Of another medium: FOREIGN. A blank drive is given its identity and is ACTIVE. JOURNAL_RECOVERY from an anchor, or
with RESCAN: the drive is ACTIVE. RESCAN. INIT of a FOREIGN or FULL drive: it is ACTIVE with no extent. ATTACH: the drive is probed.
DETACH: a detach commit begins. DRIVE_LOST: with a partner that is up, records are forwarded. DRIVE_REMOVED of a DETACHED drive. Of
any other: it is lost. BUDGET_UPDATE. WEAR_READ of a drive that reports its media units. DRIVE_ASYNC_EVENT: both wear logs are read,
and the next event is asked for. WEIR_ENTER. WEIR_EXIT. -/
def Obligations.JournalDrive : Prop :=
  (∀ (s : State) (st : Nat) (trains : Bool), s.stOk st = true → trains = true → (s.jnS st).perstLow = false → (s.jnS st).linkUp = false
    → s.passed (s.jnS st).linkTryAt (msec 100) = true → (s.jnState st = 0 ∨ s.jnState st = 4) →
    Completes (.driveLinkTry st trains) s (fun t =>
      (t.jnS st).linkUp = true ∧
      t.jnState st = 1 ∧
      RegsBut s t [jn st + JN.JN_STAT])) ∧
  (∀ (s : State) (st : Nat) (d : DriveInfo), s.stOk st = true → s.jnState st = 1 → (s.driveJudge st d).toOption = none →
    Completes (.driveProbe st d) s (fun t =>
      t.jnState st = 5 ∧
      t.bit (jn st + JN.JN_EVENTS) 10 = true ∧
      t.jns = s.jns)) ∧
  (∀ (s : State) (st : Nat) (d : DriveInfo) (z : Bool) (m f : Nat), s.stOk st = true → s.jnState st = 1 → (s.driveJudge st d).toOption
    = some z → d.identity = some (m, f) → ((s.jnS st).lastMedium = some m ∨ (s.jnS st).lastMedium = none) →
    Completes (.driveProbe st d) s (fun t =>
      t.jnState st = 2 ∧
      (t.jnS st).drive = some d ∧
      (t.jnS st).medium = m)) ∧
  (∀ (s : State) (st : Nat) (d : DriveInfo) (z : Bool) (m f x : Nat), s.stOk st = true → s.jnState st = 1 → (s.driveJudge st
    d).toOption = some z → d.identity = some (m, f) → (s.jnS st).lastMedium = some x → x ≠ m →
    Completes (.driveProbe st d) s (fun t =>
      t.jnState st = 6 ∧
      t.bit (jn st + JN.JN_EVENTS) 11 = true)) ∧
  (∀ (s : State) (st : Nat) (d : DriveInfo) (z : Bool), s.stOk st = true → s.jnState st = 1 → (s.driveJudge st d).toOption = some z →
    d.identity = none → d.blank = true →
    Completes (.driveProbe st d) s (fun t =>
      t.jnState st = 3 ∧
      (t.jnS st).exts = [] ∧ (t.jnS st).commits = [] ∧
      t.forwarding st = false)) ∧
  (∀ (s : State) (st : Nat) (lanes : List LaneScan) (full : List (Nat × Nat)) (badSlots : List Nat) (corrected : Nat), s.stOk st = true
    → s.jnState st = 2 → ((s.jnS st).rescan = true ∨ s.bestAnchor st badSlots ≠ none) →
    Completes (.journalRecovery st lanes full badSlots corrected) s (fun t =>
      t.jnState st = 3 ∧
      (t.jnS st).rescan = false ∧
      t.bit (jn st + JN.JN_EVENTS) 16 = true)) ∧
  (∀ (s : State) (st req v : Nat), s.stOk st = true → v.testBit 4 = true →
    Completes (.rescan st req v) s (fun t =>
      (t.jnS st).rescan = true ∧
      t.regs = s.regs)) ∧
  (∀ (s : State) (st req v : Nat) (d : DriveInfo), s.stOk st = true → v.testBit 3 = true → (s.jnS st).drive = some d → (s.jnState st =
    6 ∨ s.jnState st = 7) →
    Completes (.initDrive st req v) s (fun t =>
      t.jnState st = 3 ∧
      (t.jnS st).exts = [] ∧ (t.jnS st).commits = [])) ∧
  (∀ (s : State) (st req v : Nat), s.stOk st = true → v.testBit 2 = true → (s.jnS st).linkUp = true → (s.jnState st = 0 ∨ s.jnState st
    = 4 ∨ s.jnState st = 5 ∨ s.jnState st = 6) →
    Completes (.attach st req v) s (fun t =>
      t.jnState st = 1 ∧
      RegsBut s t [jn st + JN.JN_STAT])) ∧
  (∀ (s : State) (st req v : Nat), s.jnLive st = true → v.testBit 1 = true →
    Completes (.detach st req v) s (fun t =>
      ((t.jnS st).commits.map (fun c => c.kind) = (s.jnS st).commits.map (fun c => c.kind) ++ [2]))) ∧
  (∀ (s : State) (st : Nat), s.stOk st = true → (s.jnS st).drive.isSome = true → s.jnState st ≠ 4 →
    Completes (.driveLost st) s (fun t =>
      t.jnState st = 0 ∧
      (t.jnS st).drive = none ∧
      t.forwarding st = t.jnPartner st ∧
      t.bit (jn st + JN.JN_EVENTS) 9 = true)) ∧
  (∀ (s : State) (st : Nat), s.stOk st = true → s.jnState st = 4 →
    Completes (.driveRemoved st) s (fun t =>
      (t.jnS st).linkUp = false ∧ (t.jnS st).drive = none ∧
      t.regs = s.regs)) ∧
  (∀ (s : State) (st : Nat), s.stOk st = true → s.jnState st ≠ 4 → ((s.jnS st).drive.isSome = true ∨ (s.jnS st).linkUp = true) →
    Completes (.driveRemoved st) s (fun t =>
      t.jnState st = 0 ∧
      (t.jnS st).linkUp = false ∧ (t.jnS st).drive = none)) ∧
  (∀ (s : State) (st : Nat), s.stOk st = true → (s.jnS st).drive.isSome = true → (s.jnS st).budgetAt + msec 3600000 ≤ s.cycle →
    Completes (.budgetUpdate st) s (fun t =>
      (t.jnS st).devRate = s.budgetNow st ∧
      t.rd (jn st + JN.DEV_BUDGET) = wordOf (s.budgetNow st / 1000) ∧
      RegsBut s t [jn st + JN.DEV_BUDGET])) ∧
  (∀ (s : State) (st units pct : Nat) (media endurance : Option Nat) (n : Nat), s.stOk st = true → (s.jnS st).drive.isSome = true →
    s.wearNow st = true → s.jnConv st = false → media = some n → n * 1000000000 < 2 ^ 64 →
    Completes (.wearRead st units pct media endurance) s (fun t =>
      t.jnTotal st JN.MEDIA_LO = n * 1000000000 ∧
      (s.rdN (jn st + JN.ENDUR_OVR) ≠ 0 → t.endur st = s.rdN (jn st + JN.ENDUR_OVR) * 1000000000))) ∧
  (∀ (s : State) (st : Nat), s.stOk st = true → (s.jnS st).drive.isSome = true →
    Completes (.driveAsyncEvent st) s (fun t =>
      t.out = { kind := OutKind.nvme, unit := st, data := [10] } :: { kind := OutKind.nvme, unit := st, data := [3, 9] } ::
        { kind := OutKind.nvme, unit := st, data := [3, 2] } :: s.out ∧
      t.regs = s.regs)) ∧
  (∀ (s : State), s.weirOn = false → s.finalC = false → s.liveStewards.all (fun st => !s.bit (epb st + EP.EP_STAT) 17 && decide ((s.ep
    st).acceptClr + msec (s.fld (jn s.lead + JN.WEIR_TIME) 15 0) ≤ s.cycle)) = true →
    Completes .weirEnter s (fun t =>
      t.weirOn = true ∧
      t.bit (jn s.lead + JN.JN_EVENTS) 12 = true)) ∧
  (∀ (s : State), s.weirOn = true → s.finalC = false → s.liveStewards.any (fun st => s.bit (epb st + EP.EP_STAT) 17 && decide ((s.ep
    st).acceptSet + msec (s.fld (jn s.lead + JN.WEIR_TIME) 31 16) ≤ s.cycle)) = true →
    Completes .weirExit s (fun t =>
      t.weirOn = false ∧
      t.bit (jn s.lead + JN.JN_EVENTS) 13 = true))

/-- The hold-up test runs, ends with a result or a cause, and its result sets the commit window. R559-R566 and R574-R577 for a present
steward; the lead drives the test. HU_TEST_START that is due, with V_NOW at V_A or above: the test runs. TEST_NOW with V_NOW below
V_A: NOT_CHARGED. With V_NOW at V_A or above: the test runs. HU_TEST_RETRY. HU_SAMPLE, 10 µs after the last: V_NOW is the scaled
sample. HU_TEST_TIMEOUT. HU_RESULT_RX: the partner takes the result. HU_RESULT_EXPIRE: no result, no capacity. WINDOW_UPDATE, 10 ms
after the last: WINDOW is that of the hold-up time, and 0 without a result. HU_COMMIT on the lead of values that R563 admits: they
are the committed ones. Of others: refused. -/
def Obligations.HoldUpTest : Prop :=
  (∀ (s : State) (st : Nat), s.huReady st = true → s.abit (hu st + HU.HU_CTL) 0 = true → (s.huS st).dueAt ≤ s.cycle → s.huA st HU.V_A ≤
    s.vNow st →
    Completes (.huTestStart st) s (fun t =>
      (t.huS st).testAt = some s.cycle ∧
      t.out = { kind := OutKind.huTest, unit := s.lead, data := [1] } :: s.out)) ∧
  (∀ (s : State) (st req v : Nat), s.huReady st = true → v.testBit 0 = true → s.vNow st < s.huA st HU.V_A →
    Completes (.testNow st req v) s (fun t =>
      (t.huS st).testAt = none ∧
      (t.huS st).retryAt = some (s.cycle + msec 10000) ∧
      t.fld (hu st + HU.HU_STAT) 14 12 = 1 ∧
      t.rd (hu st + HU.TESTS_FAILED) = wordOf (s.rdN (hu st + HU.TESTS_FAILED) + 1))) ∧
  (∀ (s : State) (st req v : Nat), s.huReady st = true → v.testBit 0 = true → s.huA st HU.V_A ≤ s.vNow st →
    Completes (.testNow st req v) s (fun t =>
      (t.huS st).testAt = some s.cycle ∧
      t.out = { kind := OutKind.huTest, unit := s.lead, data := [1] } :: s.out)) ∧
  (∀ (s : State) (st a : Nat), s.huReady st = true → (s.huS st).retryAt = some a → a ≤ s.cycle → s.huA st HU.V_A ≤ s.vNow st →
    Completes (.huTestRetry st) s (fun t =>
      (t.huS st).testAt = some s.cycle ∧
      (t.huS st).retryAt = none)) ∧
  (∀ (s : State) (st code : Nat), s.stOk st = true → s.passed (s.huS st).sampleAt (usec 10) = true →
    Completes (.huSample st code) s (fun t =>
      t.rd (hu st + HU.V_NOW) = wordOf (code % 4096 * 1200 * (s.huA st HU.SCALE % 2 ^ 20) / (4096 * 256)))) ∧
  (∀ (s : State) (st a : Nat), s.stOk st = true → st = s.lead → (s.huS st).testAt = some a → a + msec (s.huA st HU.TEST_MAX) ≤ s.cycle
    →
    Completes (.huTestTimeout st) s (fun t =>
      (t.huS st).testAt = none ∧
      t.fld (hu st + HU.HU_STAT) 14 12 = 2 ∧
      t.rd (hu st + HU.TESTS_FAILED) = wordOf (s.rdN (hu st + HU.TESTS_FAILED) + 1))) ∧
  (∀ (s : State) (st a c : Nat), s.stOk st = true → (s.huS st).rx = some (a, c) →
    Completes (.huResultRx st) s (fun t =>
      t.rd (hu st + HU.T_TEST) = wordOf a ∧
      t.rd (hu st + HU.CAP) = wordOf c ∧
      (t.huS st).rx = none ∧ (t.huS st).valid = true ∧ (t.huS st).validAt = s.cycle)) ∧
  (∀ (s : State) (st : Nat), s.stOk st = true → (s.huS st).valid = true → (s.huS st).validAt + 2 * s.huA st HU.PERIOD * 1000000000 ≤
    s.cycle →
    Completes (.huResultExpire st) s (fun t =>
      (t.huS st).valid = false ∧
      t.rd (hu st + HU.CAP) = 0#32)) ∧
  (∀ (s : State) (st : Nat), s.stOk st = true → s.passed (s.huS st).windowAt (msec 10) = true →
    Completes (.windowUpdate st) s (fun t =>
      t.rd (jn st + JN.WINDOW) = wordOf (if (s.huS st).valid then s.windowOf st (s.tAvail st (s.tHold st)) else 0) ∧
      t.rd (hu st + HU.T_HOLD) = wordOf (if (s.huS st).valid then s.tHold st else 0))) ∧
  (∀ (s : State) (st req v : Nat), s.stOk st = true → st = s.lead → v.testBit 0 = true → s.huRefused st = false →
    Completes (.huCommit st req v) s (fun t =>
      (∀ o, o ∈ huShadowed → t.act (hu st + o) = s.rd (hu st + o)))) ∧
  (∀ (s : State) (st req v : Nat), s.stOk st = true → st = s.lead → v.testBit 0 = true → s.huRefused st = true →
    Completes (.huCommit st req v) s (fun t =>
      t.acts = s.acts ∧
      t.bit (hu st + HU.HU_EVENTS) 8 = true ∧
      RegsBut s t [hu st + HU.HU_EVENTS]))

/-- A power failure starts the final commit, which runs to its end on every steward, and power resumes. R555-R572. PWR_FAIL of PF_FILT
µs: the final commit runs on every present steward. A shorter one is filtered out. RAIL_UNDERVOLT of a present die's rail. During the
final commit it shows in the steward's HU_STAT. FINAL_DONE, with the drive's shutdown complete or waited for: the steward is silent
and its cores are parked. POWER_RESUME. -/
def Obligations.FinalCommit : Prop :=
  (∀ (s : State) (low : Nat), s.finalC = false → s.huA s.lead HU.PF_FILT % 128 * 1000 ≤ low →
    Completes (.pwrFail low) s (fun t =>
      t.finalC = true ∧
      (∀ st, s.stOk st = true → (t.jnS st).final = true))) ∧
  (∀ (s : State) (low : Nat), low < s.huA s.lead HU.PF_FILT % 128 * 1000 →
    Completes (.pwrFail low) s (fun t =>
      t = s)) ∧
  (∀ (s : State) (die rail mv ns : Nat), s.present die = true → (1 ≤ rail ∧ rail ≤ 8) → mv < (railLevels rail).1 → 1000 ≤ ns → s.finalC
    = false →
    Completes (.railUndervolt die rail mv ns) s (fun t =>
      t.finalC = true ∧
      (∀ st, s.stOk st = true → (t.jnS st).final = true))) ∧
  (∀ (s : State) (die rail mv ns : Nat), s.stOk die = true → (1 ≤ rail ∧ rail ≤ 8) → mv < (railLevels rail).1 → 1000 ≤ ns → s.finalC =
    true →
    Completes (.railUndervolt die rail mv ns) s (fun t =>
      t.bit (hu die + HU.HU_STAT) 5 = true ∧
      t.bit (hu die + HU.HU_EVENTS) 7 = true ∧
      (s.bit (hu die + HU.HU_STAT) 5 = false → t.fld (hu die + HU.HU_STAT) 11 8 = rail) ∧
      RegsBut s t [hu die + HU.HU_STAT, hu die + HU.HU_EVENTS])) ∧
  (∀ (s : State) (st : Nat) (shst : Bool), s.stOk st = true → s.finalC = true → (s.jnS st).finalDone = true → s.hostSilent st = false →
    (shst = true ∨ s.passed (s.jnS st).shnAt (msec (s.stopWait st)) = true) →
    Completes (.finalDone st shst) s (fun t =>
      t.hostSilent st = true ∧
      st ∈ t.parked ∧
      t.rd (hu st + HU.FC_VEND) = wordOf (s.vNow st) ∧
      (t.huS st).doneAt = s.cycle)) ∧
  (∀ (s : State) (high : Nat), s.finalC = true → s.jtag.bscan = none → msec (s.huA s.lead HU.RESUME) ≤ high → s.shutNormal = false →
    s.fcReset = [] → s.stewards.all (fun st => s.hostSilent st && decide ((s.huS st).doneAt + msec (s.huA s.lead HU.RESUME) ≤ s.cycle))
    = true →
    Completes (.powerResume high) s (fun t =>
      t.finalC = false ∧
      t.fcChans = [] ∧
      (∀ st, s.stOk st = true → t.bit (hu st + HU.HU_EVENTS) 6 = true)))

/-- Heartbeats are sent, taken and missed; stewards stop, restart and are declared; watchdogs and scrubbers report. R582-R591, R594 and
R598. HEARTBEAT_TX: the first heartbeat of an end whose sideband is up reaches the far end. HEARTBEAT_RX: the oldest heartbeat is
taken. HEARTBEAT_MISS: counted; at HB_MISS misses the far die is lost. FAILOVER_RESTART: the channels that may start no longer wait.
PEER_RESET: the partner restarts warm. PLANNED_STOP of a steward that leads, carries a stream or holds a semaphore is refused. Of any
other it begins. CANCEL_STOP of a planned stop. PLANNED_STOP_EXPIRE. RETURN_HOLD_EXPIRE: a stream away from its carrier, whose queue
no ring entry names, goes back to it. With every stream on its carrier the reduced mode ends. STACK_FAILED: the steward stops.
KEEPER_WATCHDOG of a core that runs. SCRUB_READ of a word with one bit in error: it is counted, and the last word of a pass ends it.
One that an access meets is read again. PASS_LATE. CK_START of a unit that does not run, in memory mode. CK_STOP. CK_MEM_DONE: the
result over the bytes of the range, volatile ones as 0. -/
def Obligations.Heartbeats : Prop :=
  (∀ (s : State) (die m : Nat), s.sbUp die m = true → (die < 4 ∨ s.hbOn.contains die = true) → (s.hb die m).tx = none →
    Completes (.heartbeatTx die m) s (fun t =>
      (t.hb die m).tx = some s.cycle ∧
      (t.hb (farEnd die m).1 (farEnd die m).2).inbox.length = (s.hb (farEnd die m).1 (farEnd die m).2).inbox.length + 1 ∧
      t.regs = s.regs)) ∧
  (∀ (s : State) (die m x : Nat) (rest : List Nat), s.modOk die m = true → (s.hb die m).inbox = x :: rest → (die < 4 ∨ m = 4 ∨
    s.lostDies.contains m = false) →
    Completes (.heartbeatRx die m) s (fun t =>
      (t.hb die m).inbox = rest ∧
      (t.hb die m).rx = some s.cycle ∧
      (t.hb die m).miss = 0 ∧ (t.hb die m).lost = false ∧ (t.hb die m).seen = x)) ∧
  (∀ (s : State) (die m a : Nat), s.modOk die m = true → (s.hb die m).rx = some a → a + usec (105 + 100 * (s.hb die m).miss) ≤ s.cycle
    →
    Completes (.heartbeatMiss die m) s (fun t =>
      (t.hb die m).miss = (s.hb die m).miss + 1 ∧
      ((s.hb die m).miss + 1 = s.hbMax die → (t.hb die m).lost = true))) ∧
  (∀ (s : State) (st : Nat), s.stOk st = true →
    Completes (.failoverRestart st) s (fun t =>
      (t.restarts = s.restarts.filter (fun r => !(r.st == st && s.restartReady r))))) ∧
  (∀ (s : State) (st req v : Nat), s.stOk st = true → v.testBit 1 = true → s.sbUp st 4 = true →
    Completes (.peerReset st req v) s (fun t =>
      t.rd (sc (partner st) + SC.RESET_CAUSE) = 3#32 ∧
      t.bit (sc (partner st) + SC.BOOT_STAT) 10 = true ∧
      t.dbg (partner st) = {})) ∧
  (∀ (s : State) (st req v : Nat), s.stOk st = true → v.testBit 0 = true → (st = s.lead ∨ s.carriedStreams st ≠ [] ∨ s.holdsSem st =
    true) →
    Completes (.plannedStop st req v) s (fun t =>
      t.bit (fo st + BRS.FO_EVENTS) 6 = true ∧
      t.plannedAt = s.plannedAt ∧
      RegsBut s t [fo st + BRS.FO_EVENTS])) ∧
  (∀ (s : State) (st req v : Nat), s.stOk st = true → v.testBit 0 = true → st ≠ s.lead → s.carriedStreams st = [] → s.holdsSem st =
    false →
    Completes (.plannedStop st req v) s (fun t =>
      (Tbl.get (fun _ => none) t.plannedAt st = some s.cycle) ∧
      (s.present (partner st) = true → t.bit (fo (partner st) + BRS.FO_STAT) 2 = true))) ∧
  (∀ (s : State) (st req v : Nat), s.stOk st = true → v.testBit 2 = true → (Tbl.get (fun _ => none) s.plannedAt st).isSome = true →
    Completes (.cancelStop st req v) s (fun t =>
      (Tbl.get (fun _ => none) t.plannedAt st = none))) ∧
  (∀ (s : State) (st a : Nat), s.stOk st = true → Tbl.get (fun _ => none) s.plannedAt st = some a → a + msec 10000 ≤ s.cycle →
    Completes (.plannedStopExpire st) s (fun t =>
      (Tbl.get (fun _ => none) t.plannedAt st = none))) ∧
  (∀ (s : State) (st x : Nat), s.stOk st = true → st = s.lead → s.bit (fo st + BRS.FO_CTL) 8 = true → s.bit (fo st + BRS.FO_STAT) 0 =
    true → Tbl.get (fun _ => 0) s.peerUpAt st + msec (s.fld (fo st + BRS.FO_CTL) 31 16) ≤ s.cycle → s.streamOk x = true → s.ringEntry
    (s.carrierOf (x / 128) (s.streamQueue x)) (x / 128) (s.streamQueue x) = none → (List.range 512).all (fun y => y == x || !s.streamOk
    y || ((y / 128 != x / 128 || s.streamQueue y != s.streamQueue x) && s.carrierOf (y / 128) (s.streamQueue y) == s.wantCarrier y)) =
    true →
    Completes (.returnHoldExpire st) s (fun t =>
      t.carrierOf (x / 128) (s.streamQueue x) = s.wantCarrier x ∧
      t.chans = s.chans)) ∧
  (∀ (s : State) (st : Nat), s.stOk st = true → st = s.lead → s.bit (fo st + BRS.FO_CTL) 8 = true → s.bit (fo st + BRS.FO_STAT) 0 =
    true → Tbl.get (fun _ => 0) s.peerUpAt st + msec (s.fld (fo st + BRS.FO_CTL) 31 16) ≤ s.cycle → s.bit (fo st + BRS.FO_STAT) 2 =
    false → (List.range 512).all (fun x => !s.streamOk x || s.carrierOf (x / 128) (s.streamQueue x) == s.wantCarrier x) = true →
    Completes (.returnHoldExpire st) s (fun t =>
      t.bit (fo st + BRS.FO_STAT) 3 = false ∧
      t.chans = s.chans)) ∧
  (∀ (s : State) (st : Nat) (training : Bool) (words : Nat), s.stOk st = true → (training = true ∨ s.fld (lpd st + LPD.SCRUB_CTL) 23 16
    < words) →
    Completes (.stackFailed st training words) s (fun t =>
      st ∈ t.parked ∧
      (t.hbOn = s.hbOn.filter (fun x => x != st)))) ∧
  (∀ (s : State) (die core : Nat), die < 4 → s.present die = true → core < 2 → s.bit (kp die + KP.KP_CTL) core = false →
    s.halted.contains (die * 8 + core) = false →
    Completes (.keeperWatchdog die core) s (fun t =>
      (t.wdogs = (die * 2 + core) :: s.wdogs.filter (fun x => x != die * 2 + core)))) ∧
  (∀ (s : State) (die addr data check : Nat) (meets last : Bool) (w : Nat), s.present die = true → s.bit (scrubK die) 0 = true →
    checkRead data check = CheckRes.corrected w → meets = false → last = true →
    Completes (.scrubRead die addr data check meets last) s (fun t =>
      t.rd (scrubK die + 0xC) = wordOf (s.rdN (scrubK die + 0xC) + 1) ∧
      t.rd (scrubK die + 8) = wordOf (s.rdN (scrubK die + 8) + 1) ∧
      t.scrub die = { began := s.cycle } ∧
      RegsBut s t [scrubK die + 0xC, scrubK die + 8])) ∧
  (∀ (s : State) (die addr data check : Nat) (meets last : Bool), s.present die = true → s.bit (scrubK die) 0 = true → meets = true →
    Completes (.scrubRead die addr data check meets last) s (fun t =>
      (t.scrub die).again = some ((s.scrub die).again.getD addr) ∧
      (t.scrub die).began = (s.scrub die).began ∧
      t.regs = s.regs)) ∧
  (∀ (s : State) (die : Nat), s.present die = true → s.bit (scrubK die) 0 = true → (s.scrub die).began + s.rdN (scrubK die + 4) *
    1000000000 < s.cycle →
    Completes (.passLate die) s (fun t =>
      t.bit (scrubK die + 0x14) 1 = true ∧
      RegsBut s t [scrubK die + 0x14])) ∧
  (∀ (s : State) (die u req v : Nat), s.ckOk die u = true → v.testBit 0 = true → s.bit (ck die u + CK.CK_STAT) 0 = false → s.fld (ck
    die u + CK.CK_CTL) 1 0 ≠ 3 → s.bit (ck die u + CK.CK_CTL) 2 = false →
    Completes (.ckStart die u req v) s (fun t =>
      t.ckS die u = { phase := 3, crc := ckInit (s.fld (ck die u + CK.CK_CTL) 1 0), began := s.cycle } ∧
      t.fld (ck die u + CK.CK_STAT) 1 0 = 1 ∧
      RegsBut s t [ck die u + CK.CK_STAT])) ∧
  (∀ (s : State) (die u req v : Nat), s.ckOk die u = true → v.testBit 1 = true → v.testBit 0 = false →
    Completes (.ckStop die u req v) s (fun t =>
      t.ckS die u = {} ∧
      t.bit (ck die u + CK.CK_STAT) 0 = false ∧
      RegsBut s t [ck die u + CK.CK_STAT])) ∧
  (∀ (s : State) (die u : Nat), s.ckOk die u = true → (s.ckS die u).phase = 3 → (s.ckS die u).began + ceilDiv (s.rdN (ck die u +
    CK.CK_LEN)) 64 * 16 ≤ s.cycle →
    Completes (.ckMemDone die u) s (fun t =>
      (t.rd (ck die u + CK.CK_RESULT) = wordOf (ckFinal (s.fld (ck die u + CK.CK_CTL) 1 0) (ckRun (s.fld (ck die u + CK.CK_CTL) 1 0)
        ((List.range (s.rdN (ck die u + CK.CK_LEN))).map (fun i => if volatileAt die ((s.rdN (ck die u + CK.CK_BASE_LO) + (if die < 4
        then 0 else s.fld (ck die u + CK.CK_BASE_HI) 7 0 * 0x100000000)) + i) then 0#8 else s.peek (s.placeDie die ((s.rdN (ck die u +
        CK.CK_BASE_LO) + (if die < 4 then 0 else s.fld (ck die u + CK.CK_BASE_HI) 7 0 * 0x100000000)) + i)) 0x20 i ((s.rdN (ck die u +
        CK.CK_BASE_LO) + (if die < 4 then 0 else s.fld (ck die u + CK.CK_BASE_HI) 7 0 * 0x100000000)) + i))) (s.ckS die u).crc))) ∧
      t.bit (ck die u + CK.CK_EVENTS) 0 = true))

/-- Requests reach the dictionary engine by their routes, are performed in order and answered on the same route. R413, R416, R417,
R621-R624, R632, R634, R635, R649 and R650 on a present steward. MB_REQUEST of a length from 1 to 4,096 on an idle mailbox: the bytes
of the request buffer wait for the engine. One of another length, or while the mailbox is not idle, is rejected. MB_DONE: the
response stands in the buffer, STATE is DONE and vector 0 is raised. MB_RELEASE: STATE returns to IDLE, unless a request is under
way, and REJECTED clears. DICT_REQUEST for this package, with nothing waiting, is performed and answered at once. While the engine
serves no requests it waits. GW_REQ_RX of a single segment on the port that UP_PORT names: the request of the package above waits. A
segment out of order discards its transaction, which is counted once. What is left of a discarded transaction is passed over.
GW_RSP_RX of a single segment answers the open transaction it names. GW_TIMEOUT: a transaction without an answer for the time of
object 0x2200 ends with abort 0x05040000. STORE_DONE while no operation of firmware is under way on either flash: the CRC is
programmed behind the slot's header, and PROF_STATUS is DONE. While one is, it waits. AT_TIME once device time has reached AT: the
switch ends, and PROF_STATUS names its profile. -/
def Obligations.DictionaryRequests : Prop :=
  (∀ (s : State) (st req v : Nat), s.stOk st = true → v.testBit 15 = false → s.mbState st = 0 → 1 ≤ v % 8192 → v % 8192 ≤ 4096 →
    Completes (.mbRequest st req v) s (fun t =>
      t.dictQ = s.dictQ ++ [{ src := 1, st := st, bytes := s.bytesAt st mbReqBuf (v % 8192), at_ := s.cycle }] ∧
      t.mbState st = 1 ∧
      t.fld (upb st + UP.MB_STATUS) 31 16 = v / 65536 % 65536 ∧
      t.rd (epb st + EP.MB_REQS) = s.rd (epb st + EP.MB_REQS) + 1#32 ∧
      t.bit (epb st + EP.EP_EVENTS) 6 = true ∧
      RegsBut s t [upb st + UP.MB_STATUS, epb st + EP.MB_REQS, epb st + EP.EP_EVENTS])) ∧
  (∀ (s : State) (st req v : Nat), s.stOk st = true → v.testBit 15 = false → (s.mbState st ≠ 0 ∨ v % 8192 = 0 ∨ 4096 < v % 8192) →
    Completes (.mbRequest st req v) s (fun t =>
      t.dictQ = s.dictQ ∧
      t.bit (upb st + UP.MB_STATUS) 2 = true ∧
      RegsBut s t [upb st + UP.MB_STATUS])) ∧
  (∀ (s : State) (st : Nat) (b : List Byte), s.stOk st = true → s.mbState st = 1 → (s.ep st).mbRsp = some b →
    Completes (.mbDone st) s (fun t =>
      (t.ep st).mbRsp = none ∧
      t.mbState st = 2 ∧
      t.rd (upb st + UP.MB_RSP_LEN) = wordOf b.length ∧
      (∀ i, i < b.length → t.byteAt st (mbRspBuf + i) = (b.getD i 0)) ∧
      (s.hostSilent st = false → t.out.length = s.out.length + 1) ∧
      RegsBut s t [upb st + UP.MB_STATUS, upb st + UP.MB_RSP_LEN])) ∧
  (∀ (s : State) (st req v : Nat), s.stOk st = true → v.testBit 15 = true →
    Completes (.mbRelease st req v) s (fun t =>
      t.mbState st = (if s.mbState st = 1 then 1 else 0) ∧
      t.bit (upb st + UP.MB_STATUS) 2 = false ∧
      RegsBut s t [upb st + UP.MB_STATUS])) ∧
  (∀ (s : State) (call : Option (Nat × List Byte)) (st : Nat) (b : List Byte), call = some (st, b) → s.stOk st = true → s.dictQ = [] →
    s.dict.serving = true → s.finalC = false → leAt b 4 1 = 0xFF → s.reqBlocked b = false →
    Completes (.dictRequest call) s (fun t =>
      t.resp = Resp.bytes (s.perform { src := 0, st := st, bytes := b, at_ := s.cycle }).2)) ∧
  (∀ (s : State) (call : Option (Nat × List Byte)) (st : Nat) (b : List Byte), call = some (st, b) → s.stOk st = true → s.dict.serving
    = false →
    Completes (.dictRequest call) s (fun t =>
      t.dictQ = s.dictQ ++ [{ src := 0, st := st, bytes := b, at_ := s.cycle }] ∧
      t.regs = s.regs ∧ t.resp = s.resp)) ∧
  (∀ (s : State) (port : Nat) (groups : List Nat) (m : List Byte), s.portOk port = true → s.lpRole port = 2 → s.lpRun port = true →
    s.fld (s.ltb + TB.HIER_CTL) 14 8 = port → msgOf groups = some (0x40, m) → (3 ≤ m.length ∧ m.length ≤ 60) → leAt m 2 1 = 128 →
    ((s.port port).gwRx.find? (fun g => g.trans == leAt m 0 2)) = none →
    Completes (.gwReqRx port groups) s (fun t =>
      t.dictQ = s.dictQ ++ [{ src := 4, st := s.lead, port := port, trans := leAt m 0 2, bytes := m.drop 3, at_ := s.cycle }] ∧
      t.regs = s.regs)) ∧
  (∀ (s : State) (port : Nat) (groups : List Nat) (m : List Byte), s.portOk port = true → s.lpRole port = 2 → s.lpRun port = true →
    s.fld (s.ltb + TB.HIER_CTL) 14 8 = port → msgOf groups = some (0x40, m) → (3 ≤ m.length ∧ m.length ≤ 60) → ((s.port
    port).gwRx.find? (fun g => g.trans == leAt m 0 2)).map (fun g => g.dead) ≠ some true → leAt m 2 1 % 128 ≠ (((s.port
    port).gwRx.find? (fun g => g.trans == leAt m 0 2)).map (fun g => g.next)).getD 0 →
    Completes (.gwReqRx port groups) s (fun t =>
      t.dictQ = s.dictQ ∧
      (∀ g ∈ (t.port port).gwRx, g.trans = leAt m 0 2 → g.dead = true) ∧
      t.rdN (lp port + LP.GW_SEG_ERR) = Nat.min 0xFFFFFFFF (s.rdN (lp port + LP.GW_SEG_ERR) + 1) ∧
      RegsBut s t [lp port + LP.GW_SEG_ERR])) ∧
  (∀ (s : State) (port : Nat) (groups : List Nat) (m : List Byte) (g : GwRx), s.portOk port = true → s.lpRole port = 2 → s.lpRun port =
    true → s.fld (s.ltb + TB.HIER_CTL) 14 8 = port → msgOf groups = some (0x40, m) → (3 ≤ m.length ∧ m.length ≤ 60) → (s.port
    port).gwRx.find? (fun g => g.trans == leAt m 0 2) = some g → g.dead = true → leAt m 2 1 % 128 ≠ 0 →
    Completes (.gwReqRx port groups) s (fun t =>
      t.dictQ = s.dictQ ∧
      t.regs = s.regs)) ∧
  (∀ (s : State) (port : Nat) (m : List Byte) (g : GwTx), s.portOk port = true → (s.takeMsg port (· == 0xC0)).map (fun r => r.1) = some
    (0xC0, m) → leAt m 2 1 = 128 → ((s.port port).gwRx.find? (fun g => g.trans == leAt m 0 2)) = none → (s.gwOpen port).find? (fun g =>
    g.trans == leAt m 0 2) = some g → g.req.src = 0 → g ∈ s.gws →
    Completes (.gwRspRx port) s (fun t =>
      t.resp = .bytes (m.drop 3) ∧
      t.gws.length + 1 = s.gws.length)) ∧
  (∀ (s : State) (port trans : Nat) (g : GwTx), (s.gwOpen port).find? (fun g => g.trans == trans) = some g → g.opened.getD 0 + msec
    (leNat (s.objOf 0 0x2200 0x1B (leBytes 100 2))) ≤ s.cycle → g.req.src = 0 → g ∈ s.gws →
    Completes (.gwTimeout port trans) s (fun t =>
      t.resp = .bytes (rspAll g.req.bytes (dictErr 0x05040000 6)) ∧
      t.gws.length + 1 = s.gws.length)) ∧
  (∀ (s : State) (n : Nat), s.dict.store = some n → (s.qspiS s.dict.storeSt).op = none → (s.qspiS (partner s.dict.storeSt)).op = none →

    Completes .storeDone s (fun t =>
      t.dict.store = none ∧
      t.objOf 0 0x2100 7 [] = leBytes (3 + n * 256) 4 ∧
      (s.engineFlash (partner s.dict.storeSt) = false → t.byteAt s.dict.storeSt (flashBase + profAddr n + 0x1C) = (BitVec.ofNat 8
        (crc32c (s.flashBytes s.dict.storeSt (profAddr n) 0x1C ++ s.flashBytes s.dict.storeSt (profAddr n + 0x20) (s.flashNat
        s.dict.storeSt (profAddr n + 4) 4))))) ∧
      t.regs = s.regs)) ∧
  (∀ (s : State), (s.qspiS s.dict.storeSt).op.isSome = true →
    Completes .storeDone s (fun t =>
      t = s)) ∧
  (∀ (s : State) (n a : Nat), s.dict.atSel = some (n, a) → a ≤ s.stamp s.lead →
    Completes .atTime s (fun t =>
      leAt (t.objOf 0 0x2100 7 []) 1 1 = n % 256 ∧
      leAt (t.objOf 0 0x2100 7 []) 0 1 ∈ [3, 4, 5]))

/-- CAN FD ports carry NMT, heartbeats, USDO transfers and PDOs, and leave and rejoin a bus-off bus. R625-R629 and R652-R654. A live
port is on, enabled and not bus-off, on a present steward. NMT_COMMAND to this node sets its state; Reset Node and Reset
Communication start the port anew. One to another node is not taken. CAN_HEARTBEAT_TX at the time of object 0x1017. BUS_OFF, with the
error frames that led to it. BUS_OFF_RECOVER with AUTO_RECOVER set: the port is back on the bus. Without it the port stays off the
bus. RECOVER. USDO_TRANSFER, with nothing waiting: the transfer is one operation, performed and answered at once. While the engine
serves no requests the transfer waits, and in Stopped it is not taken. RPDO_RX of a valid RPDO in the operational state while the
engine serves no requests: its mapped writes wait as one request without a response. While it serves and nothing waits they are
performed at once. Data too short for the mapping are not used. SYNC_RX, shown on TPDO 0: one of transmission type 1 is sent at every
SYNC. Outside the operational state no SYNC is taken. TPDO_CHANGE_CHECK, shown on TPDO 0: one that is event-driven is sent only after
its inhibit time. TPDO_EVENT_TIMER: the TPDO is sent with the values its objects have. One that falls due while the port is bus-off
is counted and not sent. -/
def Obligations.CanTraffic : Prop :=
  (∀ (s : State) (st cmd node : Nat), s.canLive st = true → (node = 0 ∨ node = (s.canS st).node) →
    Completes (.nmtCommand st cmd node) s (fun t =>
      (cmd = 1 → (t.canS st).nmt = 1) ∧
      (cmd = 2 → (t.canS st).nmt = 2) ∧
      (cmd = 128 ∨ cmd = 129 ∨ cmd = 130 → (t.canS st).nmt = 0) ∧
      (cmd = 1 ∨ cmd = 2 ∨ cmd = 128 → t.out = s.out) ∧
      t.rdN (can st + CAN.RX_FRAMES) = Nat.min 0xFFFFFFFF (s.rdN (can st + CAN.RX_FRAMES) + 1))) ∧
  (∀ (s : State) (st cmd node : Nat), node ≠ 0 → node ≠ (s.canS st).node →
    Completes (.nmtCommand st cmd node) s (fun t =>
      t = s)) ∧
  (∀ (s : State) (st : Nat), s.canLive st = true → leNat (s.objOf (drv st) 0x1017 0 (leBytes 1000 2)) ≠ 0 → (s.canS st).hbAt + msec
    (leNat (s.objOf (drv st) 0x1017 0 (leBytes 1000 2))) ≤ s.cycle →
    Completes (.canHeartbeatTx st) s (fun t =>
      (t.canS st).hbAt = s.cycle ∧
      (t.canS st).nmt = (s.canS st).nmt ∧
      (s.fld (can st + CAN.CAN_CTL) 3 2 = 0 → t.rdN (can st + CAN.TX_FRAMES) = Nat.min 0xFFFFFFFF (s.rdN (can st + CAN.TX_FRAMES) + 1)) ∧
      (s.fld (can st + CAN.CAN_CTL) 3 2 ≠ 0 → t.out = s.out) ∧
      RegsBut s t [can st + CAN.TX_FRAMES])) ∧
  (∀ (s : State) (st errs : Nat), s.stOk st = true → s.canOff st = false →
    Completes (.busOff st errs) s (fun t =>
      t.canOff st = true ∧
      t.bit (can st + CAN.CAN_EVENTS) 0 = true ∧ t.bit (can st + CAN.CAN_EVENTS) 1 = true ∧
      t.rdN (can st + CAN.BUS_OFF_CNT) = Nat.min 0xFFFFFFFF (s.rdN (can st + CAN.BUS_OFF_CNT) + 1) ∧
      t.rdN (can st + CAN.ERR_FRAMES) = Nat.min 0xFFFFFFFF (s.rdN (can st + CAN.ERR_FRAMES) + errs) ∧
      RegsBut s t [can st + CAN.CAN_STAT, can st + CAN.CAN_EVENTS, can st + CAN.BUS_OFF_CNT, can st + CAN.ERR_FRAMES])) ∧
  (∀ (s : State) (st : Nat), s.stOk st = true → s.canOff st = true → s.bit (can st + CAN.CAN_CTL) 1 = true →
    Completes (.busOffRecover st) s (fun t =>
      t.canOff st = false ∧
      t.bit (can st + CAN.CAN_EVENTS) 2 = true ∧
      t.fld (can st + CAN.CAN_STAT) 15 0 = 0 ∧
      RegsBut s t [can st + CAN.CAN_STAT, can st + CAN.CAN_EVENTS])) ∧
  (∀ (s : State) (st : Nat), s.bit (can st + CAN.CAN_CTL) 1 = false →
    Completes (.busOffRecover st) s (fun t =>
      t = s)) ∧
  (∀ (s : State) (st req v : Nat), s.stOk st = true → s.canOff st = true → v.testBit 0 = true →
    Completes (.recover st req v) s (fun t =>
      t.canOff st = false ∧
      t.bit (can st + CAN.CAN_EVENTS) 2 = true ∧
      RegsBut s t [can st + CAN.CAN_STAT, can st + CAN.CAN_EVENTS])) ∧
  (∀ (s : State) (st : Nat) (write : Bool) (idx sub off len : Nat) (data : List Byte), s.canLive st = true → (s.canS st).nmt ≠ 2 →
    s.dictQ = [] → s.dict.serving = true → ((s.canRecv st)).reqBlocked (reqBytes [opBytes write idx sub off len data]) = false →
    Completes (.usdoTransfer st write idx sub off len data) s (fun t =>
      t = (((s.canRecv st)).perform ({ src := 2, st := st, bytes := reqBytes [opBytes write idx sub off len data], at_ := s.cycle } :
        DictReq)).1.canAnswer ({ src := 2, st := st, bytes := reqBytes [opBytes write idx sub off len data], at_ := s.cycle } :
        DictReq) (((s.canRecv st)).perform
        ({ src := 2, st := st, bytes := reqBytes [opBytes write idx sub off len data], at_ := s.cycle } : DictReq)).2)) ∧
  (∀ (s : State) (st : Nat) (write : Bool) (idx sub off len : Nat) (data : List Byte), s.canLive st = true → s.dict.serving = false →
    Completes (.usdoTransfer st write idx sub off len data) s (fun t =>
      ((s.canS st).nmt = 2 → t = s) ∧
      ((s.canS st).nmt ≠ 2 → t.dictQ = s.dictQ ++
        [{ src := 2, st := st, bytes := reqBytes [opBytes write idx sub off len data], at_ := s.cycle }]) ∧
      RegsBut s t [can st + CAN.RX_FRAMES])) ∧
  (∀ (s : State) (st n : Nat) (data : List Byte) (ops : List (List Byte)), s.canLive st = true → (s.canS st).nmt = 1 → n < 4 →
    (s.pdoVal st (0x1400 + n) 1).testBit 31 = false → rpdoOps (s.pdoMap st (0x1600 + n)) data = some ops → ops ≠ [] → s.dict.serving =
    false →
    Completes (.rpdoRx st n data) s (fun t =>
      t.dictQ = s.dictQ ++ [{ src := 2, st := st, port := 1, bytes := reqBytes ops, at_ := s.cycle }] ∧
      RegsBut s t [can st + CAN.RX_FRAMES])) ∧
  (∀ (s : State) (st n : Nat) (data : List Byte) (ops : List (List Byte)), s.canLive st = true → (s.canS st).nmt = 1 → n < 4 →
    (s.pdoVal st (0x1400 + n) 1).testBit 31 = false → rpdoOps (s.pdoMap st (0x1600 + n)) data = some ops → ops ≠ [] → s.dictQ = [] →
    s.dict.serving = true → (s.canRecv st).reqBlocked (reqBytes ops) = false →
    Completes (.rpdoRx st n data) s (fun t =>
      t = ((s.canRecv st).perform { src := 2, st := st, port := 1, bytes := reqBytes ops, at_ := s.cycle }).1)) ∧
  (∀ (s : State) (st n : Nat) (data : List Byte), s.canLive st = true → (s.canS st).nmt = 1 → n < 4 → (s.pdoVal st (0x1400 + n)
    1).testBit 31 = false → rpdoOps (s.pdoMap st (0x1600 + n)) data = none →
    Completes (.rpdoRx st n data) s (fun t =>
      t = s.canRecv st)) ∧
  (∀ (s : State) (st : Nat), s.tpdoOn st 0 = true → s.pdoVal st 0x1800 2 = 1 →
    Completes (.syncRx st) s (fun t =>
      (t.tpdoLast st 0).2 = s.cycle ∧
      (t.canS st).nmt = (s.canS st).nmt)) ∧
  (∀ (s : State) (st : Nat), (s.canLive st = false ∨ (s.canS st).nmt ≠ 1) →
    Completes (.syncRx st) s (fun t =>
      t = s)) ∧
  (∀ (s : State) (st : Nat),
    Completes (.tpdoChangeCheck st) s (fun t =>
      (t.tpdoLast st 0 = s.tpdoLast st 0 ∨ (t.tpdoLast st 0).2 = s.cycle) ∧
      (s.inhibitOver st 0 = false → t.tpdoLast st 0 = s.tpdoLast st 0) ∧
      (s.pdoVal st 0x1800 2 < 0xFE → t.tpdoLast st 0 = s.tpdoLast st 0) ∧
      (t.canS st).nmt = (s.canS st).nmt)) ∧
  (∀ (s : State) (st n : Nat), s.tpdoOn st n = true → 0xFE ≤ s.pdoVal st (0x1800 + n) 2 → s.pdoVal st (0x1800 + n) 5 ≠ 0 → (s.tpdoLast
    st n).2 + msec (s.pdoVal st (0x1800 + n) 5) ≤ s.cycle → s.inhibitOver st n = true →
    Completes (.tpdoEventTimer st n) s (fun t =>
      t.tpdoLast st n = ((s.tpdoRead (s.pdoMap st (0x1A00 + n))).2, s.cycle))) ∧
  (∀ (s : State) (st n : Nat), s.tpdoDue st n = true → s.canOff st = true → 0xFE ≤ s.pdoVal st (0x1800 + n) 2 → s.pdoVal st (0x1800 +
    n) 5 ≠ 0 → (s.tpdoLast st n).2 + msec (s.pdoVal st (0x1800 + n) 5) ≤ s.cycle → s.inhibitOver st n = true →
    Completes (.tpdoEventTimer st n) s (fun t =>
      t.rdN (can st + CAN.TX_DROP) = Nat.min 0xFFFFFFFF (s.rdN (can st + CAN.TX_DROP) + 1) ∧
      t.bit (can st + CAN.CAN_EVENTS) 4 = true ∧
      t.tpdoLast st n = ((s.tpdoLast st n).1, s.cycle) ∧
      t.out = s.out))

/-- The I2C target takes requests and ends transfers, and the flash controller programs and erases by its rules. R656-R664 and R669 for
the ports of a present steward. An address is acknowledged while the target is enabled and final commit is not under way.
I2C_POINTER_WRITE at an acknowledged address. Another address is not acknowledged. I2C_REQUEST with a good length and PEC waits for
the engine. A frame with a bad length or PEC is discarded with an error; one while a request is under way is refused. I2C_READ
returns the region at the pointer, then 0xFF, and ends the transfer. Bytes that are late are 0xFF with STRETCH_DIS. One cut short in
a bit that the target sends as 0 leaves the transfer open, SDA held. STUCK_RELEASE of a transfer under way, after 10 ms. SCL_TIMEOUT
of a transfer under way, after 25 ms. RS_ABANDON. I2C_RESET. PROGRAM within one page of an idle, unprotected flash begins. One while
an operation is under way, in a protected range, or outside the flash or its page is refused with the code of that ground. ERASE_4K
of an aligned, unprotected sector begins. ERASE_64K of an aligned, unprotected block begins. One of a misaligned block is refused as
out of range. QSPI_DONE of an erase that succeeds: the range reads 0xFF as written, the controller is idle again and DONE is raised;
a failure raises the error. QSPI_DONE of a program: bits are cleared only. -/
def Obligations.I2cAndFlash : Prop :=
  (∀ (s : State) (st addr ptr : Nat), s.i2cAck st addr = true →
    Completes (.i2cPointerWrite st addr ptr) s (fun t =>
      (t.i2cS st).ptr = ptr % 256 ∧
      (t.i2cS st).inTransfer = true ∧
      t.bit (i2c st + I2C.I2C_STAT) 5 = true ∧
      RegsBut s t [i2c st + I2C.I2C_STAT])) ∧
  (∀ (s : State) (st addr ptr : Nat), s.i2cAck st addr = false →
    Completes (.i2cPointerWrite st addr ptr) s (fun t =>
      t = s)) ∧
  (∀ (s : State) (st : Nat) (data : List Byte), s.stOk st = true → s.finalC = false → (s.i2cS st).inTransfer = true → (s.i2cS st).ptr =
    0x20 → s.i2cState st ≠ 1 → (8 ≤ leAt data 1 1 ∧ leAt data 1 1 ≤ 64) → data.length = leAt data 1 1 + 3 → crc8 (data.take (leAt data
    1 1 + 2)) = leAt data (leAt data 1 1 + 2) 1 →
    Completes (.i2cRequest st data) s (fun t =>
      t.dictQ = s.dictQ ++ [{ src := 3, st := st, bytes := slice data 2 (leAt data 1 1), at_ := s.cycle }] ∧
      t.i2cState st = 1 ∧
      (t.i2cS st).tag = leAt data 0 1 ∧ (t.i2cS st).inTransfer = false ∧
      t.rdN (i2c st + I2C.REQUESTS) = Nat.min 0xFFFFFFFF (s.rdN (i2c st + I2C.REQUESTS) + 1) ∧
      t.bit (i2c st + I2C.I2C_EVENTS) 0 = true ∧
      RegsBut s t [i2c st + I2C.I2C_STAT, i2c st + I2C.I2C_EVENTS, i2c st + I2C.REQUESTS])) ∧
  (∀ (s : State) (st : Nat) (data : List Byte), s.stOk st = true → s.finalC = false → (s.i2cS st).inTransfer = true → (s.i2cS st).ptr =
    0x20 → (s.i2cState st = 1 ∨ data.length ≠ leAt data 1 1 + 3 ∨ crc8 (data.take (leAt data 1 1 + 2)) ≠ leAt data (leAt data 1 1 + 2)
    1) →
    Completes (.i2cRequest st data) s (fun t =>
      t.dictQ = s.dictQ ∧
      (s.i2cState st = 1 → t.i2cState st = 1 ∧ t.bit (i2c st + I2C.I2C_EVENTS) 5 = true ∧ t.rdN (i2c st + I2C.BUSY_NACK) = Nat.min
        0xFFFFFFFF (s.rdN (i2c st + I2C.BUSY_NACK) + 1)) ∧
      (s.i2cState st ≠ 1 → t.i2cState st = 3 ∧ t.bit (i2c st + I2C.I2C_EVENTS) 1 = true ∧ t.rdN (i2c st + I2C.FRAME_ERR) = Nat.min
        0xFFFFFFFF (s.rdN (i2c st + I2C.FRAME_ERR) + 1)) ∧
      RegsBut s t [i2c st + I2C.I2C_STAT, i2c st + I2C.I2C_EVENTS, i2c st + I2C.FRAME_ERR, i2c st + I2C.BUSY_NACK])) ∧
  (∀ (s : State) (st addr n : Nat) (late : List Nat) (cut : Bool), s.i2cAck st addr = true → cut = false →
    Completes (.i2cRead st addr n late cut) s (fun t =>
      (∃ b : List Byte, t.resp = Resp.bytes b ∧ b.length = n ∧ ∀ i, i < n → b.getD i 0 = (if s.bit (i2c st + I2C.I2C_CFG) 17 = true ∧ i
        ∈ late then 0xFF#8 else (s.i2cRegion st).getD i 0xFF#8)) ∧
      (t.i2cS st).inTransfer = false ∧
      t.bit (i2c st + I2C.I2C_STAT) 5 = false ∧
      RegsBut s t [i2c st + I2C.I2C_STAT])) ∧
  (∀ (s : State) (st addr n : Nat) (late : List Nat) (cut : Bool), s.i2cAck st addr = true → cut = true →
    Completes (.i2cRead st addr n late cut) s (fun t =>
      (t.i2cS st).inTransfer = true ∧
      t.bit (i2c st + I2C.I2C_STAT) 4 = true ∧
      RegsBut s t [i2c st + I2C.I2C_STAT])) ∧
  (∀ (s : State) (st held : Nat), s.stOk st = true → (s.i2cS st).inTransfer = true → msec 10 ≤ held →
    Completes (.stuckRelease st held) s (fun t =>
      (t.i2cS st).inTransfer = false ∧
      t.bit (i2c st + I2C.I2C_EVENTS) 2 = true ∧
      t.rdN (i2c st + I2C.STUCK_RELEASE) = Nat.min 0xFFFFFFFF (s.rdN (i2c st + I2C.STUCK_RELEASE) + 1) ∧
      ((s.i2cS st).ptr = 0x20 → s.i2cState st ≠ 1 → t.i2cState st = 3))) ∧
  (∀ (s : State) (st low : Nat), s.stOk st = true → (s.i2cS st).inTransfer = true → msec 25 ≤ low →
    Completes (.sclTimeout st low) s (fun t =>
      (t.i2cS st).inTransfer = false ∧
      t.bit (i2c st + I2C.I2C_EVENTS) 3 = true ∧
      t.rdN (i2c st + I2C.SCL_TIMEOUT) = Nat.min 0xFFFFFFFF (s.rdN (i2c st + I2C.SCL_TIMEOUT) + 1) ∧
      ((s.i2cS st).ptr ≠ 0x20 → t.i2cState st = s.i2cState st))) ∧
  (∀ (s : State) (st : Nat) (restart : Bool), s.stOk st = true → (s.i2cS st).inTransfer = true →
    Completes (.rsAbandon st restart) s (fun t =>
      (t.i2cS st).inTransfer = false ∧
      t.bit (i2c st + I2C.I2C_EVENTS) 4 = true ∧
      t.bit (i2c st + I2C.I2C_STAT) 5 = restart ∧
      t.rdN (i2c st + I2C.RS_ABANDON) = Nat.min 0xFFFFFFFF (s.rdN (i2c st + I2C.RS_ABANDON) + 1))) ∧
  (∀ (s : State) (st req v : Nat), s.stOk st = true → v.testBit 0 = true →
    Completes (.i2cReset st req v) s (fun t =>
      (t.i2cS st).inTransfer = false ∧
      t.i2cState st = 0 ∧
      t.bit (i2c st + I2C.I2C_STAT) 5 = false ∧ t.bit (i2c st + I2C.I2C_STAT) 4 = false ∧
      RegsBut s t [i2c st + I2C.I2C_STAT])) ∧
  (∀ (s : State) (st req v : Nat), s.stOk st = true → v % 4 = 1 → (s.qspiS st).op = none → s.slotActive st (s.rdN (qspi st +
    QSPI.QSPI_ADDR)) (s.fld (qspi st + QSPI.QSPI_LEN) 8 0) = false → (1 ≤ (s.fld (qspi st + QSPI.QSPI_LEN) 8 0) ∧ (s.fld (qspi st +
    QSPI.QSPI_LEN) 8 0) ≤ 256 ∧ (s.rdN (qspi st + QSPI.QSPI_ADDR)) % 256 + (s.fld (qspi st + QSPI.QSPI_LEN) 8 0) ≤ 256) → (s.rdN (qspi
    st + QSPI.QSPI_ADDR)) + (s.fld (qspi st + QSPI.QSPI_LEN) 8 0) ≤ s.fld (qspi st + QSPI.QSPI_STAT) 31 16 * 0x100000 →
    Completes (.flashProgram st req v) s (fun t =>
      ((t.qspiS st).op.map (fun o => (o.1, o.2.1, o.2.2.length)) = some (1, (s.rdN (qspi st + QSPI.QSPI_ADDR)), (s.fld (qspi st +
        QSPI.QSPI_LEN) 8 0))) ∧
      t.bit (qspi st + QSPI.QSPI_STAT) 0 = true ∧
      t.mem = s.mem ∧
      RegsBut s t [qspi st + QSPI.QSPI_STAT])) ∧
  (∀ (s : State) (st req v : Nat), s.stOk st = true → v % 4 = 1 → ((s.qspiS st).op.isSome = true ∨ s.slotActive st (s.rdN (qspi st +
    QSPI.QSPI_ADDR)) (s.fld (qspi st + QSPI.QSPI_LEN) 8 0) = true ∨ (s.fld (qspi st + QSPI.QSPI_LEN) 8 0) = 0) →
    Completes (.flashProgram st req v) s (fun t =>
      (t.qspiS st).op = (s.qspiS st).op ∧
      t.fld (qspi st + QSPI.QSPI_STAT) 7 4 = (if (s.qspiS st).op.isSome then 1 else if s.slotActive st (s.rdN (qspi st +
        QSPI.QSPI_ADDR)) (s.fld (qspi st + QSPI.QSPI_LEN) 8 0) then 2 else 3) ∧
      t.bit (qspi st + QSPI.QSPI_EVENTS) 1 = true ∧
      t.mem = s.mem ∧
      RegsBut s t [qspi st + QSPI.QSPI_STAT, qspi st + QSPI.QSPI_EVENTS])) ∧
  (∀ (s : State) (st req v : Nat), s.stOk st = true → v % 4 = 2 → (s.qspiS st).op = none → s.slotActive st (s.rdN (qspi st +
    QSPI.QSPI_ADDR)) 0x1000 = false → (s.rdN (qspi st + QSPI.QSPI_ADDR)) % 0x1000 = 0 → (s.rdN (qspi st + QSPI.QSPI_ADDR)) + 0x1000 ≤
    s.fld (qspi st + QSPI.QSPI_STAT) 31 16 * 0x100000 →
    Completes (.erase4k st req v) s (fun t =>
      (t.qspiS st).op = some (2, (s.rdN (qspi st + QSPI.QSPI_ADDR)), List.replicate 0x1000 0xFF#8) ∧
      t.bit (qspi st + QSPI.QSPI_STAT) 0 = true ∧
      RegsBut s t [qspi st + QSPI.QSPI_STAT])) ∧
  (∀ (s : State) (st req v : Nat), s.stOk st = true → v % 4 = 3 → (s.qspiS st).op = none → s.slotActive st (s.rdN (qspi st +
    QSPI.QSPI_ADDR)) 0x10000 = false → (s.rdN (qspi st + QSPI.QSPI_ADDR)) % 0x10000 = 0 → (s.rdN (qspi st + QSPI.QSPI_ADDR)) + 0x10000
    ≤ s.fld (qspi st + QSPI.QSPI_STAT) 31 16 * 0x100000 →
    Completes (.erase64k st req v) s (fun t =>
      ((t.qspiS st).op.map (fun o => (o.1, o.2.1)) = some (2, (s.rdN (qspi st + QSPI.QSPI_ADDR)))) ∧
      t.mem = s.mem ∧
      RegsBut s t [qspi st + QSPI.QSPI_STAT])) ∧
  (∀ (s : State) (st req v : Nat), s.stOk st = true → v % 4 = 3 → (s.qspiS st).op = none → s.slotActive st (s.rdN (qspi st +
    QSPI.QSPI_ADDR)) 0x10000 = false → (s.rdN (qspi st + QSPI.QSPI_ADDR)) % 0x10000 ≠ 0 →
    Completes (.erase64k st req v) s (fun t =>
      (t.qspiS st).op = none ∧
      t.fld (qspi st + QSPI.QSPI_STAT) 7 4 = 3 ∧ t.bit (qspi st + QSPI.QSPI_EVENTS) 1 = true ∧
      t.mem = s.mem)) ∧
  (∀ (s : State) (st : Nat) (ok : Bool) (a : Nat) (d : List Byte), (s.qspiS st).op = some (2, a, d) →
    Completes (.qspiDone st ok) s (fun t =>
      (t.qspiS st).op = none ∧
      t.bit (qspi st + QSPI.QSPI_STAT) 0 = false ∧
      (ok = true → t.fld (qspi st + QSPI.QSPI_STAT) 7 4 = 0 ∧ t.bit (qspi st + QSPI.QSPI_EVENTS) 0 = true) ∧
      (ok = false → t.fld (qspi st + QSPI.QSPI_STAT) 7 4 = 4 ∧ t.bit (qspi st + QSPI.QSPI_EVENTS) 2 = true) ∧
      (ok = true → ∀ i, i < d.length → t.byteAt st (flashBase + a + i) = (d.getD i 0)) ∧
      RegsBut s t [qspi st + QSPI.QSPI_STAT, qspi st + QSPI.QSPI_EVENTS])) ∧
  (∀ (s : State) (st : Nat) (ok : Bool) (a : Nat) (x : Byte), (s.qspiS st).op = some (1, a, [x]) → ok = true →
    Completes (.qspiDone st ok) s (fun t =>
      (t.qspiS st).op = none ∧
      t.byteAt st (flashBase + a) = (s.byteAt st (flashBase + a) &&& x) ∧
      ((s.byteAt st (flashBase + a) &&& x) ≠ x → t.fld (qspi st + QSPI.QSPI_STAT) 7 4 = 4 ∧ t.bit (qspi st + QSPI.QSPI_EVENTS) 2 =
        true)))

/-- The TAP selects its registers, boundary scan needs level FULL, and authentication grants, fails and locks out. R670-R673.
Instructions that R673 admits at level FULL only select BYPASS below it. IDCODE captures version, part number and manufacturer.
BYPASS captures 0. SAMPLE/PRELOAD disturbs nothing. EXTEST at level FULL starts final commit. Below it selects BYPASS. CLAMP alike.
Below it selects BYPASS. HIGHZ alike. Below it selects BYPASS. DTMCS. DMI with no die selected returns zeros; a write that clears
dmcontrol.dmactive ends the selected module's authentication; authdata gives the next four bytes of a challenge of 16 and takes a
signature's. DIE_SEL. DEBUG_AUTH once a whole signature is written: one that verifies under a debug key of the boot header grants
that key's level. A failure leaves the level; the third in a row locks the module. A locked module, and one without a whole
signature, answers nothing. AUTH_LOCKOUT_EXPIRE after 60 s. JTAG_TRST selects IDCODE and ends authentication. -/
def Obligations.TapInstructions : Prop :=
  (∀ (s : State),
    Completes .idcode s (fun t =>
      t.jtag.ir = 1 ∧
      t.resp = .data [wordOf (Config.partConst 1 % 16 * 2 ^ 28 + s.deviceId * 4096 + Config.partConst 3 % 2048 * 2 + 1)] ∧
      t.regs = s.regs ∧ t.dbgs = s.dbgs)) ∧
  (∀ (s : State),
    Completes .bypass s (fun t =>
      t.jtag.ir = 31 ∧
      t.resp = .data [0#32] ∧
      t.regs = s.regs ∧ t.dbgs = s.dbgs)) ∧
  (∀ (s : State),
    Completes .samplePreload s (fun t =>
      t.jtag.ir = 2 ∧ t.jtag.bscan = s.jtag.bscan ∧ t.jtag.dieSel = s.jtag.dieSel ∧
      t.regs = s.regs ∧ t.mem = s.mem ∧ t.out = s.out)) ∧
  (∀ (s : State), s.selLevel = 2 →
    Completes .extest s (fun t =>
      t.jtag.ir = 0 ∧ t.jtag.bscan = some (s.jtag.bscan.getD s.cycle) ∧
      t.finalC = true)) ∧
  (∀ (s : State), s.selLevel ≠ 2 →
    Completes .extest s (fun t =>
      t.jtag = { s.jtag with ir := 31 } ∧
      t.finalC = s.finalC ∧ t.regs = s.regs)) ∧
  (∀ (s : State), s.selLevel = 2 →
    Completes .clampBalls s (fun t =>
      t.jtag.ir = 3 ∧ t.jtag.bscan = some (s.jtag.bscan.getD s.cycle) ∧
      t.finalC = true)) ∧
  (∀ (s : State), s.selLevel ≠ 2 →
    Completes .clampBalls s (fun t =>
      t.jtag = { s.jtag with ir := 31 } ∧
      t.finalC = s.finalC ∧ t.regs = s.regs)) ∧
  (∀ (s : State), s.selLevel = 2 →
    Completes .highZ s (fun t =>
      t.jtag.ir = 4 ∧ t.jtag.bscan = some (s.jtag.bscan.getD s.cycle) ∧
      t.finalC = true)) ∧
  (∀ (s : State), s.selLevel ≠ 2 →
    Completes .highZ s (fun t =>
      t.jtag = { s.jtag with ir := 31 } ∧
      t.finalC = s.finalC ∧ t.regs = s.regs)) ∧
  (∀ (s : State),
    Completes .dtmcs s (fun t =>
      t.jtag.ir = 16 ∧ t.jtag.dieSel = s.jtag.dieSel ∧
      t.regs = s.regs ∧ t.dbgs = s.dbgs)) ∧
  (∀ (s : State) (op addr data : Nat),
    Completes (.dmi op addr data) s (fun t =>
      t.jtag.ir = 17 ∧
      (s.selDie = none → t.resp = .data [0#32] ∧ t.dbgs = s.dbgs) ∧
      (∀ d ∈ s.dies, s.selDie = some d → op = 2 → addr = 0x10 → data % 2 = 0 → (t.dbg d).level = 0 ∧ (t.dbg d).fails = (s.dbg d).fails) ∧
      (∀ d ∈ s.dies, s.selDie = some d → op = 1 → addr = 0x30 → (s.dbg d).lockAt = none → ∃ w : Word, t.resp = .data [w] ∧ (t.dbg
        d).chal = (if 16 ≤ (s.dbg d).chal.length then [] else (s.dbg d).chal) ++ leBytes w.toNat 4) ∧
      (∀ d ∈ s.dies, s.selDie = some d → op = 2 → addr = 0x30 → (s.dbg d).lockAt = none → (s.dbg d).sig.length < 64 → (t.dbg d).sig =
        (s.dbg d).sig ++ leBytes (data % 2 ^ 32) 4))) ∧
  (∀ (s : State) (v : Nat),
    Completes (.dieSel v) s (fun t =>
      t.jtag = { s.jtag with ir := 18, dieSel := v % 8 } ∧
      t.regs = s.regs ∧ t.dbgs = s.dbgs)) ∧
  (∀ (s : State) (die level : Nat), s.present die = true → (s.dbg die).lockAt = none → 64 ≤ (s.dbg die).sig.length →
    Completes (.debugAuth die level) s (fun t =>
      (t.dbg die).sig = [] ∧ (t.dbg die).chal = [] ∧
      (∀ l ∈ s.authLevel die level, (t.dbg die).level = l ∧ (t.dbg die).fails = 0 ∧ (t.dbg die).lockAt = none) ∧
      (s.authLevel die level = none → (t.dbg die).level = (s.dbg die).level) ∧
      (s.authLevel die level = none → (s.dbg die).fails = 2 → (t.dbg die).lockAt = some s.cycle ∧ (t.dbg die).fails = 0) ∧
      (s.authLevel die level = none → (s.dbg die).fails < 2 → (t.dbg die).lockAt = none ∧ (t.dbg die).fails = (s.dbg die).fails + 1) ∧
      (4 ≤ die → t.fld (sc die + SC.DBG_STAT) 1 0 = (t.dbg die).level % 4) ∧
      RegsBut s t [sc die + SC.DBG_STAT])) ∧
  (∀ (s : State) (die level : Nat), ((s.dbg die).lockAt.isSome = true ∨ (s.dbg die).sig.length < 64) →
    Completes (.debugAuth die level) s (fun t =>
      t = s)) ∧
  (∀ (s : State) (die a : Nat), s.present die = true → (s.dbg die).lockAt = some a → a + msec 60000 ≤ s.cycle →
    Completes (.authLockoutExpire die) s (fun t =>
      (t.dbg die).lockAt = none ∧
      (t.dbg die).level = (s.dbg die).level ∧
      (4 ≤ die → t.bit (sc die + SC.DBG_STAT) 8 = false) ∧
      RegsBut s t [sc die + SC.DBG_STAT])) ∧
  (∀ (s : State),
    Completes .jtagTrst s (fun t =>
      t.jtag.ir = 1 ∧ t.jtag.bscan = s.jtag.bscan ∧
      (∀ d ∈ s.dies, (t.dbg d).level = 0) ∧
      t.halted = s.halted))

/-- Harts are halted, resumed and stepped at level FULL; the system bus keeps off volatile pages; ndmreset restarts a die. R671, R673
and R674 for the debug module of a present die. DEBUG_HALT. DEBUG_RESUME. DEBUG_STEP of a halted hart leaves it halted.
DBG_HALT_LIMIT: the steward's heartbeats stop. SYSBUS_ACCESS at level FULL writes a word of memory that a steward's own space holds.
From level OBSERVE on it reads one. Below level OBSERVE it does nothing, and below FULL it writes nothing. A bad size or address and
a volatile page end with their sberror. NDMRESET at level FULL: a cold restart of the die. -/
def Obligations.DebuggedHarts : Prop :=
  (∀ (s : State) (die hart : Nat), s.hartOk die hart = true →
    Completes (.debugHalt die hart) s (fun t =>
      t.halted.contains (die * 8 + hart) = true ∧
      (∀ x ∈ s.halted, t.halted.contains x = true) ∧
      (t.allHalted die = true → (t.dbg die).haltAt = some ((s.dbg die).haltAt.getD s.cycle)) ∧
      (t.allHalted die = false → (t.dbg die).haltAt = none) ∧
      RegsBut s t [sc die + SC.DBG_STAT])) ∧
  (∀ (s : State) (die hart : Nat), s.hartOk die hart = true →
    Completes (.debugResume die hart) s (fun t =>
      t.halted.contains (die * 8 + hart) = false ∧
      (∀ x ∈ t.halted, s.halted.contains x = true) ∧
      (t.dbg die).haltAt = none ∧
      RegsBut s t [sc die + SC.DBG_STAT])) ∧
  (∀ (s : State) (die hart : Nat), s.hartOk die hart = true → s.halted.contains (die * 8 + hart) = true →
    Completes (.debugStep die hart) s (fun t =>
      t.halted = s.halted ∧
      t.dbgs = s.dbgs ∧
      RegsBut s t [sc die + SC.DBG_STAT])) ∧
  (∀ (s : State) (st a : Nat), s.stOk st = true → (s.dbg st).haltAt = some a → s.fld (sc st + SC.DBG_CTL) 15 0 ≠ 0 → a + msec (s.fld
    (sc st + SC.DBG_CTL) 15 0) ≤ s.cycle →
    Completes (.dbgHaltLimit st) s (fun t =>
      t.hbOn.contains st = false ∧
      (∀ x ∈ s.hbOn, x ≠ st → t.hbOn.contains x = true) ∧
      t.regs = s.regs)) ∧
  (∀ (s : State) (die addr size : Nat) (write : Bool) (data : Nat), s.stOk die = true → size = 4 → addr % 4 = 0 → addr + 4 ≤
    0x100000000 → (s.dbg die).level = 2 → write = true →
    Completes (.sysbusAccess die addr size write data) s (fun t =>
      (∀ i, i < 4 → t.byteAt die (addr + i) = BitVec.ofNat 8 (data / 256 ^ i)) ∧
      t.resp = .none ∧
      t.regs = s.regs)) ∧
  (∀ (s : State) (die addr size : Nat) (write : Bool) (data : Nat), s.stOk die = true → size = 4 → addr % 4 = 0 → addr + 4 ≤
    0x100000000 → 1 ≤ (s.dbg die).level → write = false →
    Completes (.sysbusAccess die addr size write data) s (fun t =>
      t.resp = .bytes (s.bytesAt die addr 4) ∧
      t.regs = s.regs ∧ t.mem = s.mem)) ∧
  (∀ (s : State) (die addr size : Nat) (write : Bool) (data : Nat), ((s.dbg die).level = 0 ∨ (write = true ∧ (s.dbg die).level < 2)) →
    Completes (.sysbusAccess die addr size write data) s (fun t =>
      t = s)) ∧
  (∀ (s : State) (die addr size : Nat) (write : Bool) (data : Nat), s.present die = true → (s.dbg die).level = 2 → ((size ≠ 4 ∧ size ≠
    8) ∨ ((size = 4 ∨ size = 8) ∧ addr % size ≠ 0) ∨ (size = 4 ∧ addr % 4 = 0 ∧ write = false ∧ volatileAt die addr = true)) →
    Completes (.sysbusAccess die addr size write data) s (fun t =>
      t.resp = .status (if size ≠ 4 ∧ size ≠ 8 then 4 else if addr % size ≠ 0 then 3 else 2) ∧
      t.mem = s.mem ∧ t.regs = s.regs)) ∧
  (∀ (s : State) (die : Nat), s.present die = true → (s.dbg die).level = 2 →
    Completes (.ndmreset die) s (fun t =>
      t.dbg die = {} ∧
      (∀ h, h < 8 → t.halted.contains (die * 8 + h) = false) ∧
      (4 ≤ die → t.rd (sc die + SC.RESET_CAUSE) = 4#32 ∧ t.hbOn.contains die = false ∧ t.i2cS die = {} ∧ t.canS die = {}) ∧
      (die < 4 → t.chan die 0 0 = {} ∧ ∀ l, l < 32 → t.port (32 * die + l) = {}) ∧
      (∀ a, die < 4 ∨ (0x0F00000000 ≤ a ∧ a < 0x10000000000) → a < 0x10000000000 → t.byteAt die a = blankByte (die * 0x10000000000 +
        a))))

/-- RESET_N resets everything but flash, MRAM, root hashes and the TAP; rails, warm restarts and PERST_N reset their part. R557, R570,
R678, R679, R691, R707 and R708. Memory here is a die's table of bytes. RESET_ASSERT: every register but a root hash, and every byte
but those of flash and MRAM, is at its reset value. RESET_RELEASE samples the profile pins. RAIL_RESET of a present die: a rail below
its reset level for 1 µs. WARM keeps the memory stack, the staged image's address and the header copy in force. SHUTDOWN on the lead
starts final commit with a normal drive shutdown. UP_PERST is a Fundamental Reset of one endpoint. DR_PERST_RELEASE once its time has
passed. OVERTEMP_CRITICAL: 125 °C for 1 ms. OVERTEMP below 105 °C: the reading is taken, and the next rise is reported again. At 110
°C the die is reported once. -/
def Obligations.ResetsOfDies : Prop :=
  (∀ (s : State), s.regsOk → s.memOk →
    Completes .resetAssert s (fun t =>
      (∀ k, k < 0x600000000 → t.rd k = (if keepsReg (k / 0x100000000) false k then s.rd k else State.reset.rd k)) ∧
      (∀ k, k < 0x60000000000 → t.mem.get blankByte k = (if keepsByte (k / 0x10000000000) false k then s.mem.get blankByte k else
        blankByte k)) ∧
      t.rstLow = true ∧ t.finalC = false ∧ t.faultWhy = [0] ∧
      t.jtag = { s.jtag with bscan := none } ∧ t.pending = s.pending ∧ t.part = s.part ∧
      t.chans = [] ∧ t.queues = [] ∧ t.ports = [] ∧ t.dictQ = [] ∧ t.hbOn = [])) ∧
  (∀ (s : State) (profSel : Nat), s.rstLow = true →
    Completes (.resetRelease profSel) s (fun t =>
      t.rstLow = false ∧
      t.objOf 0 0x2100 2 [] = [BitVec.ofNat 8 (profSel % 4)] ∧
      t.regs = s.regs ∧ t.mem = s.mem)) ∧
  (∀ (s : State) (die rail mv ns : Nat), s.present die = true → 1 ≤ rail → rail ≤ 8 → mv < (railLevels rail).2 → 1000 ≤ ns → s.memOk →
    Completes (.railReset die rail mv ns) s (fun t =>
      t.dbg die = {} ∧
      (4 ≤ die → t.rd (sc die + SC.RESET_CAUSE) = 5#32 ∧ t.hbOn.contains die = false ∧ t.canS die = {}) ∧
      (die < 4 → t.chan die 0 0 = {} ∧ t.wdogs.contains (die * 2) = false) ∧
      (∀ a, 4 ≤ die → a < 0x10000000 → t.byteAt die (flashBase + a) = s.byteAt die (flashBase + a)) ∧
      t.jtag = s.jtag ∧ t.lead = s.lead)) ∧
  (∀ (s : State) (st req v : Nat), s.stOk st = true → s.regsOk → s.memOk → v.testBit 1 = true →
    Completes (.bootWarm st req v) s (fun t =>
      t.rd (sc st + SC.RESET_CAUSE) = 2#32 ∧
      t.bit (sc st + SC.BOOT_STAT) 10 = true ∧
      t.fld (sc st + SC.BOOT_STAT) 9 9 = s.fld (sc st + SC.BOOT_STAT) 9 9 ∧
      t.rd (sc st + SC.STAGE_LO) = s.rd (sc st + SC.STAGE_LO) ∧ t.rd (sc st + SC.STAGE_HI) = s.rd (sc st + SC.STAGE_HI) ∧
      (∀ a, a < 0x300000000 → t.byteAt st a = s.byteAt st a) ∧
      t.hbOn.contains st = false)) ∧
  (∀ (s : State) (st req v : Nat), s.stOk st = true → st = s.lead → v.testBit 2 = true → s.finalC = false →
    Completes (.bootShutdown st req v) s (fun t =>
      t.finalC = true ∧ t.shutNormal = true)) ∧
  (∀ (s : State) (st : Nat), s.stOk st = true →
    Completes (.upPerst st) s (fun t =>
      (t.ep st).bme = false ∧ (t.ep st).d3hot = false ∧
      t.bit (epb st + EP.EP_STAT) 16 = false ∧ t.bit (epb st + EP.EP_STAT) 17 = false ∧
      t.rd (upb st + UP.MB_STATUS) = 0#32 ∧ (t.ep st).mbRsp = none)) ∧
  (∀ (s : State) (st : Nat), s.stOk st = true → (s.jnS st).perstLow = true → 0 < (s.jnS st).perstAt → (s.jnS st).perstAt ≤ s.cycle →
    Completes (.drPerstRelease st) s (fun t =>
      (t.jnS st).perstLow = false ∧
      t.out.length = s.out.length + 1 ∧
      t.regs = s.regs)) ∧
  (∀ (s : State) (die : Nat) (temp : Int) (ns : Nat), s.present die = true → 125 * 16 ≤ temp → msec 1 ≤ ns →
    Completes (.overtempCritical die temp ns) s (fun t =>
      t.finalC = true ∧
      t.faultWhy.contains 6 = true)) ∧
  (∀ (s : State) (die : Nat) (temp : Int), s.present die = true → temp < 1680 →
    Completes (.overtemp die temp) s (fun t =>
      t.fld (tempKey die) 15 0 = (temp % 65536).toNat ∧
      t.hotDies.contains die = false ∧
      t.out = s.out)) ∧
  (∀ (s : State) (die : Nat) (temp : Int), s.present die = true → 1760 ≤ temp →
    Completes (.overtemp die temp) s (fun t =>
      t.hotDies.contains die = true ∧
      (s.hotDies.contains die = true → t.hotDies = s.hotDies ∧ t.out = s.out)))

/-- The boot ROM picks header and image or fails by name; READY starts heartbeats and leads to the lead role. R681-R688, R691 and R695
on a present steward out of RESET_N. BOOT_ROM of a cold start. With a usable header and an image that verifies the stage is FW, the
image at its LOAD address; without a usable header the ROM fails with code 1, with a failed memory with code 3, without an image with
code 2, and FAULT_N is held low. After a warm restart with STAGE.VALID a staged image that verifies is entered; for one that does
not, STAGE.VALID clears. RETRY in BOOT_FAIL starts the ROM again. READY while PWR_FAIL_N is asserted waits in PF_WAIT. READY of SB
while no partner leads: heartbeats start, and SB waits in PROFILE for SA's. READY of a steward whose partner leads and serves: the
lead's settings are copied and the steward runs. PF_WAIT_END, while no final commit runs, lets READY take its course.
LEAD_WAIT_EXPIRE: SB claims semaphore 62 of the lowest present concentrator over an ACTIVE module; it wins, and leads. It does not
where another holds the semaphore. ROOT_COMMIT programs a blank root hash. It never programs another. -/
def Obligations.BootAndLead : Prop :=
  (∀ (s : State) (st : Nat) (r : BootResult), s.stOk st = true → s.rstLow = false → s.fld (sc st + SC.BOOT_STAT) 3 0 = 1 → s.bit (sc st
    + SC.BOOT_STAT) 10 = false →
    Completes (.bootRom st r) s (fun t =>
      (s.hdrPick st = none → t.fld (sc st + SC.BOOT_STAT) 3 0 = 8 ∧ t.fld (sc st + SC.BOOT_STAT) 15 12 = 1) ∧
      (∀ c ∈ s.hdrPick st, r.memOk = false → t.fld (sc st + SC.BOOT_STAT) 3 0 = 8 ∧ t.fld (sc st + SC.BOOT_STAT) 15 12 = 3) ∧
      (∀ c ∈ s.hdrPick st, r.memOk = true → s.slotOk st c 0 = false → s.slotOk st c 1 = false → t.fld (sc st + SC.BOOT_STAT) 3 0 = 8 ∧
        t.fld (sc st + SC.BOOT_STAT) 15 12 = 2) ∧
      (∀ c ∈ s.hdrPick st, r.memOk = true → s.slotOk st c ((fun c => s.flashNat st (0x10000 * c + 0x10) 1 % 2) c) = true → t.fld (sc st
        + SC.BOOT_STAT) 3 0 = 4 ∧ t.mem = (s.loadImage st ((fun c => s.flashNat st (0x10000 * c + 0x10) 1 % 2) c)).mem) ∧
      (∀ c ∈ s.hdrPick st, r.memOk = true → s.slotOk st c ((fun c => s.flashNat st (0x10000 * c + 0x10) 1 % 2) c) = false → s.slotOk st
        c (1 - (fun c => s.flashNat st (0x10000 * c + 0x10) 1 % 2) c) = true → t.fld (sc st + SC.BOOT_STAT) 3 0 = 4 ∧ t.bit (sc st +
        SC.BOOT_STAT) 4 = true ∧ t.mem = (s.loadImage st (1 - (fun c => s.flashNat st (0x10000 * c + 0x10) 1 % 2) c)).mem) ∧
      (∀ c ∈ s.hdrPick st, t.fld (sc st + SC.BOOT_STAT) 9 9 = c % 2 ∧ t.fld (i2c st + I2C.I2C_CFG) 6 0 = s.flashNat st (0x10000 * c +
        0x12) 1 % 128 ∧ t.fld (qspi st + QSPI.QSPI_STAT) 31 16 = r.flashMiB % 65536) ∧
      (t.fld (sc st + SC.BOOT_STAT) 3 0 = 8 → t.faultWhy.contains (st - 2) = true ∧ t.mem = s.mem))) ∧
  (∀ (s : State) (st : Nat) (r : BootResult), s.stOk st = true → s.rstLow = false → s.fld (sc st + SC.BOOT_STAT) 3 0 = 1 → s.bit (sc st
    + SC.BOOT_STAT) 10 = true → s.bit (sc st + SC.STAGE_LO) 0 = true →
    Completes (.bootRom st r) s (fun t =>
      (s.stagedOk st (s.fld (sc st + SC.BOOT_STAT) 9 9) = true → t.fld (sc st + SC.BOOT_STAT) 3 0 = 4 ∧ t.fld (sc st + SC.BOOT_STAT) 9
        9 = s.fld (sc st + SC.BOOT_STAT) 9 9 ∧ t.mem = s.mem) ∧
      (s.stagedOk st (s.fld (sc st + SC.BOOT_STAT) 9 9) = false → t.bit (sc st + SC.STAGE_LO) 0 = false))) ∧
  (∀ (s : State) (st req v : Nat), s.stOk st = true → v.testBit 3 = true → s.fld (sc st + SC.BOOT_STAT) 3 0 = 8 →
    Completes (.bootRetry st req v) s (fun t =>
      t.fld (sc st + SC.BOOT_STAT) 3 0 = 1 ∧
      t.fld (sc st + SC.BOOT_STAT) 15 12 = 0 ∧
      t.rd (sc st + SC.RESET_CAUSE) = 6#32 ∧
      t.faultWhy.contains (st - 2) = false ∧
      RegsBut s t [sc st + SC.BOOT_STAT, sc st + SC.RESET_CAUSE])) ∧
  (∀ (s : State) (st req v : Nat), s.stOk st = true → v.testBit 0 = true → s.fld (sc st + SC.BOOT_STAT) 3 0 = 4 → s.bit (hu st +
    HU.HU_STAT) 4 = true →
    Completes (.bootReady st req v) s (fun t =>
      t.fld (sc st + SC.BOOT_STAT) 3 0 = 5 ∧
      t.hbOn = s.hbOn ∧
      RegsBut s t [sc st + SC.BOOT_STAT])) ∧
  (∀ (s : State) (st req v : Nat), st = 5 → s.stOk st = true → v.testBit 0 = true → s.fld (sc st + SC.BOOT_STAT) 3 0 = 4 → s.bit (hu st
    + HU.HU_STAT) 4 = false → s.hearsLead 5 = false →
    Completes (.bootReady st req v) s (fun t =>
      t.fld (sc st + SC.BOOT_STAT) 3 0 = 6 ∧
      t.hbOn.contains 5 = true ∧
      (t.readyAt.get (fun _ => none) 5 = some s.cycle) ∧
      t.faultWhy.contains 0 = false ∧
      t.lead = s.lead)) ∧
  (∀ (s : State) (st req v : Nat), s.stOk st = true → v.testBit 0 = true → s.fld (sc st + SC.BOOT_STAT) 3 0 = 4 → s.bit (hu st +
    HU.HU_STAT) 4 = false → s.hearsLead st = true → s.lead = partner st → s.dict.serving = true →
    Completes (.bootReady st req v) s (fun t =>
      t.fld (sc st + SC.BOOT_STAT) 3 0 = 7 ∧
      t.hbOn.contains st = true ∧
      t.lead = s.lead)) ∧
  (∀ (s : State) (st high : Nat), st = 5 → msec 1000 ≤ high → s.finalC = false → s.stOk st = true → s.fld (sc st + SC.BOOT_STAT) 3 0 =
    5 → s.hearsLead 5 = false →
    Completes (.pfWaitEnd st high) s (fun t =>
      t.fld (sc st + SC.BOOT_STAT) 3 0 = 6 ∧
      t.bit (hu st + HU.HU_STAT) 4 = false ∧
      t.hbOn.contains st = true)) ∧
  (∀ (s : State) (st a d : Nat), st = 5 → s.present 5 = true → s.readyAt.get (fun _ => none) st = some a → a + msec 2000 ≤ s.cycle →
    s.fld (sc 5 + SC.BOOT_STAT) 3 0 = 6 → (s.hb 5 4).rx = none → s.concs.head? = some d → s.endState 5 d = 3 → ((s.run (execSemAcq d 62
    5 0))).fld (semKey d 62) 7 0 = 5 →
    Completes (.leadWaitExpire st) s (fun t =>
      t = (((((s.run (execSemAcq d 62 5 0))).setBit (sc 5 + SC.BOOT_STAT) 11).setLead 5).leadGo).upAll)) ∧
  (∀ (s : State) (st a d : Nat), st = 5 → s.present 5 = true → s.readyAt.get (fun _ => none) st = some a → a + msec 2000 ≤ s.cycle →
    s.fld (sc 5 + SC.BOOT_STAT) 3 0 = 6 → (s.hb 5 4).rx = none → s.concs.head? = some d → s.endState 5 d = 3 → ((s.run (execSemAcq d 62
    5 0))).fld (semKey d 62) 7 0 ≠ 5 →
    Completes (.leadWaitExpire st) s (fun t =>
      t = ((s.run (execSemAcq d 62 5 0))).upAll)) ∧
  (∀ (s : State) (st req v : Nat), s.stOk st = true → v.testBit 0 = true → (List.range 8).all (fun i => s.rd (sc st + SC.ROOT_HASH + 4
    * i) == 0#32) = true →
    Completes (.rootCommit st req v) s (fun t =>
      (∀ i, i < 8 → t.rd (sc st + SC.ROOT_HASH + 4 * i) = s.rd (sc st + SC.ROOT_PROG + 4 * i)))) ∧
  (∀ (s : State) (st req v : Nat), s.stOk st = true → v.testBit 0 = true → (List.range 8).all (fun i => s.rd (sc st + SC.ROOT_HASH + 4
    * i) == 0#32) = false →
    Completes (.rootCommit st req v) s (fun t =>
      t = s))

/-- Keeper images are loaded and verified while the core is held, and a core is released only when verified. R689, R690 and R696 on a
present concentrator die, written over U_A or U_B. KP_LOAD_DATA for a held core: the word is stored, the address moves on, and
VERIFIED clears. While the core runs the word is discarded. VERIFY begins for the core that KP_LOAD_ADDR names. VERIFY_DONE sets
VERIFIED, or names the first check that failed. REQ_IDLE0 and REQ_IDLE1 ask the cores. KP_IDLE written by a keeper core holds that
core and withdraws the request. KP_HOLD_WRITE sets HOLD, and clears it for a verified image only. -/
def Obligations.KeeperLoader : Prop :=
  (∀ (s : State) (die req v : Nat), die < 4 → s.present die = true → kpPath req = true → s.kpHeld die (s.fld (kp die + KP.KP_LOAD_ADDR)
    17 17) = true →
    Completes (.kpLoadData die req v) s (fun t =>
      (∀ i, i < 4 → t.byteAt die (iramAt (s.fld (kp die + KP.KP_LOAD_ADDR) 17 17) + (s.fld (kp die + KP.KP_LOAD_ADDR) 16 2 * 4) + i) =
        BitVec.ofNat 8 (v / 256 ^ i)) ∧
      t.fld (kp die + KP.KP_LOAD_ADDR) 16 2 = ((s.fld (kp die + KP.KP_LOAD_ADDR) 16 2 * 4) / 4 + 1) % 0x8000 ∧
      t.bit (kp die + KP.KP_STAT) (8 + (s.fld (kp die + KP.KP_LOAD_ADDR) 17 17)) = false ∧
      RegsBut s t [kp die + KP.KP_LOAD_ADDR, kp die + KP.KP_STAT])) ∧
  (∀ (s : State) (die req v : Nat), die < 4 → s.present die = true → s.kpHeld die (s.fld (kp die + KP.KP_LOAD_ADDR) 17 17) = false →
    Completes (.kpLoadData die req v) s (fun t =>
      t = s)) ∧
  (∀ (s : State) (die req v : Nat), die < 4 → s.present die = true → kpPath req = true → v.testBit 0 = true →
    Completes (.kpVerify die req v) s (fun t =>
      (t.kpVer.get (fun _ => none) die = some (s.fld (kp die + KP.KP_LOAD_ADDR) 17 17)) ∧
      t.regs = s.regs)) ∧
  (∀ (s : State) (die c : Nat), die < 4 → s.present die = true → c < 2 → s.kpVer.get (fun _ => none) die = some c →
    Completes (.verifyDone die) s (fun t =>
      (t.kpVer.get (fun _ => none) die = none) ∧
      t.fld (kp die + KP.KP_STAT) 18 16 = (kpVerdict (s.bytesAt die (iramAt c) 256) (s.bytesAt die (iramAt c + 256) 0x1FF00)) ∧
      t.bit (kp die + KP.KP_STAT) (8 + c) = ((kpVerdict (s.bytesAt die (iramAt c) 256) (s.bytesAt die (iramAt c + 256) 0x1FF00)) == 0) ∧
      RegsBut s t [kp die + KP.KP_STAT])) ∧
  (∀ (s : State) (die req v : Nat), die < 4 → s.present die = true → kpPath req = true →
    Completes (.reqIdle die req v) s (fun t =>
      (∀ c, c < 2 → t.kpReq.get (fun _ => false) (die * 2 + c) = (v.testBit (1 + c) || s.kpReq.get (fun _ => false) (die * 2 + c))) ∧
      t.regs = s.regs)) ∧
  (∀ (s : State) (die req v : Nat), die < 4 → s.present die = true → (req = 9 ∨ req = 10) → v.testBit 0 = true →
    Completes (.kpIdle die req v) s (fun t =>
      t.bit (kp die + KP.KP_STAT) (req - 9) = true ∧
      t.kpHeld die (req - 9) = true ∧
      (t.kpReq.get (fun _ => false) (die * 2 + (req - 9)) = false))) ∧
  (∀ (s : State) (die req v : Nat), die < 4 → s.present die = true → kpPath req = true →
    Completes (.kpHoldWrite die req v) s (fun t =>
      t.kpHeld die 0 = (v.testBit 0 || (s.kpHeld die 0 && !s.bit (kp die + KP.KP_STAT) 8)) ∧
      t.kpHeld die 1 = (v.testBit 1 || (s.kpHeld die 1 && !s.bit (kp die + KP.KP_STAT) 9)) ∧
      t.mem = s.mem))

/-- Frames of the power-over-cable chain take its status, and failed or missing cable power faults the port. R717-R720 for an enabled
chain of a present concentrator die. PCC_FRAME, 100 µs after the last: a word of 64 bits goes out with ON and ILIM of each port, it
takes the status, and a port that was on raises PWR_FLT where it failed; the ON bits sent do not rest on that status. PCC_FLT_FALL is
a frame at once. PG_TIMEOUT: a port that is on without PGOOD enters FAULT. -/
def Obligations.PowerOverCable : Prop :=
  (∀ (s : State) (die status : Nat) (low : Bool), s.pccOn die = true → s.passed (s.pcc die).frameAt (usec 100) = true →
    Completes (.pccFrame die status low) s (fun t =>
      t.rd (sm die + SM.PCC_PGOOD) = wordOf (pccGather 1 status) ∧
      t.rd (sm die + SM.PCC_FAULT) = wordOf (pccGather 0 status) ∧
      (∀ l, l < 32 → (s.rdN (sm die + SM.PCC_ON)).testBit l = true → (pccGather 0 status).testBit l = true → (s.port (32 * die +
        l)).offUntil = none → ¬ (s.lpState (32 * die + l) = 10 ∧ s.fld (lp (32 * die + l) + LP.FAULT_CAUSE) 3 0 = 9) → t.bit (sm die +
        SM.PCC_EVENTS) 0 = true ∧ (t.port (32 * die + l)).pwrWant = false ∧ t.lpState (32 * die + l) = 10) ∧
      t.rd (sm die + SM.PCC_ON) = wordOf (s.pccNext die) ∧
      t.out.head? = some
        { kind := .pccFrame, unit := die, data := [pccSpread 0 (s.pccNext die) + pccSpread 1 (s.rdN (sm die + SM.PCC_ILIM))] } ∧
      (t.pcc die).frameAt = some s.cycle)) ∧
  (∀ (s : State) (die status : Nat), s.pccOn die = true →
    Completes (.pccFltFall die status) s (fun t =>
      t.rd (sm die + SM.PCC_PGOOD) = wordOf (pccGather 1 status) ∧
      t.rd (sm die + SM.PCC_FAULT) = wordOf (pccGather 0 status) ∧
      t.rd (sm die + SM.PCC_ON) = wordOf (s.pccNext die) ∧
      t.out.head? = some
        { kind := .pccFrame, unit := die, data := [pccSpread 0 (s.pccNext die) + pccSpread 1 (s.rdN (sm die + SM.PCC_ILIM))] } ∧
      (t.pcc die).frameAt = some s.cycle ∧
      (t.pcc die).low = 0)) ∧
  (∀ (s : State) (port a : Nat), s.pccOn (port / 32) = true → (s.pcc (port / 32)).onAt.get (fun _ => none) (port % 32) = some a → s.bit
    (sm (port / 32) + SM.PCC_ON) (port % 32) = true → s.bit (lp port + LP.STATUS) 5 = false → (s.port port).offUntil = none → (¬
    (s.lpState port = 10 ∧ s.fld (lp port + LP.FAULT_CAUSE) 3 0 = 9)) → a + msec (s.fld (sm (port / 32) + SM.PCC_CTL) 23 16) ≤ s.cycle
    →
    Completes (.pgTimeout port) s (fun t =>
      t.lpState port = 10 ∧
      t.bit (lp port + LP.EVENTS) 9 = true ∧
      (t.port port).pwrWant = false ∧
      t.bit (sm (port / 32) + SM.PCC_EVENTS) 1 = true))

/-- Register accesses by size, latched pairs, the role move, and the steps of a MOVE with its retries. R14, R26, R35, R40, R374, R384,
R388, R391, R449, R450 and R452. REG_WRITE of a whole register of a concentrator, over an open path: shown on the expected value of a
check-value unit, which a running unit keeps. Two writes that collide, one over U_A and one over U_B: both are done, in an order that
alternates from U_A first, and the second value stays (R35). An atomic, a misaligned access, a part of a register, an absent die and
a closed path end with a fault and write nothing; one of a keeper or barge logs nothing. RC_READ of a register that its read clears:
shown on the counters of the basin. A byte of a register that nothing clears. A read that collides with a write of the same register
over the other path: its answer is the value before the write, or the written one, as the order gives (R35). COUNTER_PAIR_READ: the
low word is answered, the high word latched for the path. ROLE_MOVE to a partner that runs; what the dictionary has written is
committed first. MOVE_STEP: a step that moves takes its bytes off what is left, and clears the retries. One that fails for good ends
the channel with a fault. One that may be tried again moves nothing and waits for its retry. WRITE_RETRY 1 µs after a failed write:
the retry is counted, and its step succeeds or fails as a MOVE_STEP. ABORT_COMPLETE with QUIET: the channel is ABORTED and keeps what
its MOVE had left. -/
def Obligations.BusAccess : Prop :=
  (∀ (s : State) (die off req : Nat) (size : AccSize) (v : Nat) (rival : Option Rival) (u : Nat), s.present die = true → die < 4 → u <
    8 → size = .b4 → rival = none → off = ck die u + CK.CK_EXPECT - dk die → s.direct req die off = true →
    Completes (.regWrite die off req size v rival) s (fun t =>
      t.rd (ck die u + CK.CK_EXPECT) = (if s.bit (ck die u + CK.CK_STAT) 0 then s.rd (ck die u + CK.CK_EXPECT) else wordOf v) ∧
      t.resp = .none ∧
      RegsBut s t [ck die u + CK.CK_EXPECT])) ∧
  (∀ (s : State) (die off req : Nat) (size : AccSize) (v : Nat) (rival : Option Rival) (u req2 v2 : Nat), s.present die = true → die <
    4 → u < 8 → size = .b4 → off = ck die u + CK.CK_EXPECT - dk die → rival = some
    { off := off, size := .b4, req := req2, value := some v2 } → s.pathOf req = 0 → s.pathOf req2 = 1 → s.direct req die off = true →
    s.direct req2 die off = true → s.bit (ck die u + CK.CK_STAT) 0 = false →
    Completes (.regWrite die off req size v rival) s (fun t =>
      t.rd (ck die u + CK.CK_EXPECT) = wordOf (if s.ubFirst.contains die then v else v2) ∧
      t.ubFirst.contains die = !s.ubFirst.contains die ∧
      t.resp = .none ∧
      RegsBut s t [ck die u + CK.CK_EXPECT])) ∧
  (∀ (s : State) (die off req : Nat) (size : AccSize) (v : Nat) (rival : Option Rival), size ≠ .b8 → 9 ≤ req → rival = none → ((if size
    = .amo then 8 else if off % sizeBytes size ≠ 0 then 6 else if s.placeFrom req die off = .bad 1 then 1 else if size ≠ .b4 ∧
    s.placeFrom req die off = .reg (dk die + off / 4 * 4) then 7 else 0) ≠ 0) →
    Completes (.regWrite die off req size v rival) s (fun t =>
      t.resp = .fault (if size = .amo then 8 else if off % sizeBytes size ≠ 0 then 6 else if s.placeFrom req die off = .bad 1 then 1
        else if size ≠ .b4 ∧ s.placeFrom req die off = .reg (dk die + off / 4 * 4) then 7 else 0) ∧
      t.regs = s.regs ∧ t.mem = s.mem)) ∧
  (∀ (s : State) (die off req : Nat) (size : AccSize) (rival : Option Rival), s.present die = true → die < 4 → size = .b4 → rival =
    none → off = BS.BS_POP_EMPTY → s.direct req die off = true →
    Completes (.rcRead die off req size rival) s (fun t =>
      t.resp = .bytes (leBytes (s.rd (dk die + BS.BS_POP_EMPTY)).toNat 4) ∧
      t.rd (dk die + BS.BS_POP_EMPTY) = 0#32 ∧
      RegsBut s t [dk die + BS.BS_POP_EMPTY])) ∧
  (∀ (s : State) (die off req : Nat) (size : AccSize) (rival : Option Rival) (u : Nat), s.present die = true → die < 4 → u < 8 → size =
    .b1 → rival = none → off = ck die u + CK.CK_EXPECT - dk die + 1 → s.direct req die off = true →
    Completes (.rcRead die off req size rival) s (fun t =>
      t.resp = .bytes [BitVec.ofNat 8 (s.rdN (ck die u + CK.CK_EXPECT) / 256)] ∧
      t.regs = s.regs)) ∧
  (∀ (s : State) (die off req : Nat) (size : AccSize) (rival : Option Rival) (u req2 v2 : Nat), s.present die = true → die < 4 → u < 8
    → size = .b4 → off = ck die u + CK.CK_EXPECT - dk die → rival = some { off := off, size := .b4, req := req2, value := some v2 } →
    s.pathOf req = 0 → s.pathOf req2 = 1 → s.direct req die off = true → s.direct req2 die off = true → s.bit (ck die u + CK.CK_STAT) 0
    = false →
    Completes (.rcRead die off req size rival) s (fun t =>
      t.resp = .bytes (leBytes (if s.ubFirst.contains die then wordOf v2 else s.rd (ck die u + CK.CK_EXPECT)).toNat 4) ∧
      t.rd (ck die u + CK.CK_EXPECT) = wordOf v2)) ∧
  (∀ (s : State) (die off req e c : Nat), bargeOk s die e c = true → off = bgc die e c + BG.RING_CREDIT - dk die → s.pathStop req die =
    0 →
    Completes (.counterPairRead die off req) s (fun t =>
      t.resp = .data [s.rd (bgc die e c + BG.RING_CREDIT)] ∧
      t.latched req (bgc die e c + BG.RING_CREDIT_HI) = s.rd (bgc die e c + BG.RING_CREDIT_HI) ∧
      t.regs = s.regs)) ∧
  (∀ (s : State), s.stOk (partner s.lead) = true → s.hbOn.contains (partner s.lead) = true → s.declared.contains (partner s.lead) =
    false → s.dict.serving = true →
    Completes .roleMove s (fun t =>
      t.lead = partner s.lead ∧
      (s.dict.dirty = [] → t.acts = s.acts) ∧
      t.bit (fo (partner s.lead) + BRS.FO_STAT) 1 = true)) ∧
  (∀ (s : State) (die e : Nat) (err : PopErr) (c : Nat) (m : MoveRun), bargeOk s die e c = true → (s.eng die e).active = some c →
    (s.chan die e c).mv = some m → (s.chan die e c).abort = none → (s.chan die e c).failAt = none → s.stepWaits die e c m = false →
    ((s.tryStep die e c m err).2) = 0 → s.stepLen die e c m < m.left →
    Completes (.moveStep die e err) s (fun t =>
      (t.chan die e c).mv = some { m with left := m.left - s.stepLen die e c m } ∧
      (t.chan die e c).retries = 0 ∧
      (t.chan die e c).acc = s.accNow die e c - 256 * s.stepLen die e c m)) ∧
  (∀ (s : State) (die e : Nat) (err : PopErr) (c : Nat) (m : MoveRun), bargeOk s die e c = true → (s.eng die e).active = some c →
    (s.chan die e c).mv = some m → (s.chan die e c).abort = none → (s.chan die e c).failAt = none → s.stepWaits die e c m = false →
    (((s.tryStep die e c m err).2) = 2 ∨ (((s.tryStep die e c m err).2) ≠ 0 ∧ s.fld (bg die e + BG.ENG_CFG) 2 0 ≤ (s.chan die e
    c).retries)) →
    Completes (.moveStep die e err) s (fun t =>
      (t.chan die e c).failAt = none ∧
      t.chState die e c = 5 ∧
      t.mem = s.mem ∧ t.cellMem = s.cellMem ∧ t.queues = s.queues)) ∧
  (∀ (s : State) (die e : Nat) (err : PopErr) (c : Nat) (m : MoveRun), bargeOk s die e c = true → (s.eng die e).active = some c →
    (s.chan die e c).mv = some m → (s.chan die e c).abort = none → (s.chan die e c).failAt = none → s.stepWaits die e c m = false →
    (((s.tryStep die e c m err).2) ≠ 0 ∧ ((s.tryStep die e c m err).2) ≠ 2) → (s.chan die e c).retries < s.fld (bg die e + BG.ENG_CFG)
    2 0 → nbits (m.words.getD 0 0) 54 53 = 0 →
    Completes (.moveStep die e err) s (fun t =>
      (t.chan die e c).failAt = some s.cycle ∧
      (t.chan die e c).mv = some m ∧
      t.mem = s.mem ∧ t.cellMem = s.cellMem ∧ t.queues = s.queues)) ∧
  (∀ (s : State) (die e c : Nat) (err : PopErr) (a : Nat) (m : MoveRun), bargeOk s die e c = true → (s.eng die e).active = some c →
    (s.chan die e c).mv = some m → (s.chan die e c).abort = none → (s.chan die e c).failAt = some a → a + usec 1 ≤ s.cycle →
    s.stepWaits die e c m = false →
    Completes (.writeRetry die e c err) s (fun t =>
      (((State.tryStep ((s.inc (bgn die e c + BG.RETRIES)).updChan die e c (fun v => { v with retries := v.retries + 1 })) die e c m
        err).2) = 0 → (((s.inc (bgn die e c + BG.RETRIES)).updChan die e c (fun v => { v with retries := v.retries + 1 }))).stepLen die
        e c m < m.left → (t.chan die e c).failAt = none ∧ (t.chan die e c).retries = 0) ∧
      (((State.tryStep ((s.inc (bgn die e c + BG.RETRIES)).updChan die e c (fun v => { v with retries := v.retries + 1 })) die e c m
        err).2) ≠ 0 → ((State.tryStep ((s.inc (bgn die e c + BG.RETRIES)).updChan die e c (fun v =>
        { v with retries := v.retries + 1 })) die e c m err).2) ≠ 2 → (s.chan die e c).retries + 1 < s.fld (bg die e + BG.ENG_CFG) 2 0
        → nbits (m.words.getD 0 0) 54 53 = 0 → (t.chan die e c).failAt = some s.cycle ∧ (t.chan die e c).retries = (s.chan die e
        c).retries + 1))) ∧
  (∀ (s : State) (die e c : Nat), bargeOk s die e c = true → (s.chan die e c).abort = some true → chRunning (s.chState die e c) = true
    →
    Completes (.abortComplete die e c) s (fun t =>
      t.chState die e c = 6 ∧
      (t.rd (bgc die e c + BG.CH_RESID) = wordOf (((s.chan die e c).kept.map (fun m => m.left)).getD 0)) ∧
      (t.chan die e c).abort = none ∧
      t.bit (bgc die e c + BG.CH_EVENTS) 1 = true))
end

