-- ==== Sys2Proof/Laws/Keeps.lean ====
section
/-! SUPPORT. What no operation of a command disturbs: the queue, the part, the canonical form of registers and bytes, a lead that the part
has, and every field that the operation does not write. `Keeps F s t` says so of a state `t` reached from `s`, where the bits of `F` name the
fields that stay; one lemma per operation carries it over that operation. -/
namespace Sys2Proof.Machine
set_option Elab.async false

/-! ## Tables -/

theorem Tbl.rising_le {α : Type} {lo hi : Nat} (h : lo ≤ hi) : ∀ {t : Tbl α}, Tbl.rising hi t = true → Tbl.rising lo t = true
  | [], _ => rfl
  | (j, v) :: t, e => by
    simp only [Tbl.rising, Bool.and_eq_true, decide_eq_true_eq] at e ⊢
    exact ⟨Nat.le_trans h e.1, e.2⟩

theorem Tbl.rising_filter {α : Type} (p : Nat × α → Bool) : ∀ {t : Tbl α} {lo : Nat}, Tbl.rising lo t = true →
    Tbl.rising lo (t.filter p) = true
  | [], _, _ => rfl
  | (j, v) :: t, lo, e => by
    simp only [Tbl.rising, Bool.and_eq_true, decide_eq_true_eq] at e
    have ih := Tbl.rising_filter p e.2
    by_cases hp : p (j, v) = true
    · rw [List.filter_cons_of_pos hp]
      simp only [Tbl.rising, Bool.and_eq_true, decide_eq_true_eq]
      exact ⟨e.1, ih⟩
    · rw [List.filter_cons_of_neg hp]
      exact Tbl.rising_le (by omega) ih

/-- A table with entries taken out stays in canonical form. -/
theorem Tbl.wf_filter {α : Type} [DecidableEq α] {d : Nat → α} {t : Tbl α} (p : Nat × α → Bool) (h : Tbl.wf d t = true) :
    Tbl.wf d (t.filter p) = true := by
  simp only [Tbl.wf, Bool.and_eq_true, List.all_eq_true] at h ⊢
  exact ⟨Tbl.rising_filter p h.1, fun e he => h.2 e (List.mem_filter.mp he).1⟩

theorem Tbl.rising_above {α : Type} {k : Nat} : ∀ {t : Tbl α} {lo : Nat}, Tbl.rising lo t = true → Tbl.rising (k + 1) (Tbl.above k t) = true
  | [], _, _ => rfl
  | (j, v) :: t, lo, e => by
    simp only [Tbl.rising, Bool.and_eq_true, decide_eq_true_eq] at e
    unfold Tbl.above
    split
    · exact Tbl.rising_above e.2
    · simp only [Tbl.rising, Bool.and_eq_true, decide_eq_true_eq]
      exact ⟨by omega, e.2⟩

theorem Tbl.mem_above {α : Type} {k : Nat} {x : Nat × α} : ∀ {t : Tbl α}, x ∈ Tbl.above k t → x ∈ t
  | [], h => h
  | (j, v) :: t, h => by
    unfold Tbl.above at h
    split at h
    · exact List.mem_cons_of_mem _ (Tbl.mem_above h)
    · exact h

theorem Tbl.rising_set {α : Type} [DecidableEq α] (d : Nat → α) (k : Nat) (v : α) : ∀ {t : Tbl α} {lo : Nat}, lo ≤ k →
    Tbl.rising lo t = true → Tbl.rising lo (Tbl.set d t k v) = true
  | [], lo, hk, _ => by
    unfold Tbl.set
    split
    · rfl
    · simp only [Tbl.rising, Bool.and_true, decide_eq_true_eq]; exact hk
  | (j, w) :: t, lo, hk, e => by
    have e' := e
    simp only [Tbl.rising, Bool.and_eq_true, decide_eq_true_eq] at e'
    unfold Tbl.set
    split
    · split
      · exact e
      · simp only [Tbl.rising, Bool.and_eq_true, decide_eq_true_eq]
        exact ⟨hk, by omega, e'.2⟩
    · split
      · split
        · exact Tbl.rising_le (by omega) (Tbl.rising_above (k := k) e'.2)
        · simp only [Tbl.rising, Bool.and_eq_true, decide_eq_true_eq]
          exact ⟨hk, Tbl.rising_above e'.2⟩
      · simp only [Tbl.rising, Bool.and_eq_true, decide_eq_true_eq]
        exact ⟨e'.1, Tbl.rising_set d k v (by omega) e'.2⟩

theorem Tbl.mem_set {α : Type} [DecidableEq α] (d : Nat → α) (k : Nat) (v : α) {x : Nat × α} : ∀ {t : Tbl α}, x ∈ Tbl.set d t k v →
    x ∈ t ∨ (x = (k, v) ∧ v ≠ d k)
  | [], h => by
    unfold Tbl.set at h
    split at h
    · cases h
    · rename_i hv; exact .inr ⟨by simpa using h, hv⟩
  | (j, w) :: t, h => by
    unfold Tbl.set at h
    split at h
    · split at h
      · exact .inl h
      · rename_i hv
        rcases List.mem_cons.mp h with h | h
        · exact .inr ⟨h, hv⟩
        · exact .inl h
    · split at h
      · split at h
        · exact .inl (List.mem_cons_of_mem _ (Tbl.mem_above h))
        · rename_i hv
          rcases List.mem_cons.mp h with h | h
          · exact .inr ⟨h, hv⟩
          · exact .inl (List.mem_cons_of_mem _ (Tbl.mem_above h))
      · rcases List.mem_cons.mp h with h | h
        · exact .inl (by rw [h]; exact List.mem_cons_self ..)
        · rcases Tbl.mem_set d k v h with h | h
          · exact .inl (List.mem_cons_of_mem _ h)
          · exact .inr h

/-- A table with a key set stays in canonical form. -/
theorem Tbl.wf_set {α : Type} [DecidableEq α] {d : Nat → α} {t : Tbl α} (k : Nat) (v : α) (h : Tbl.wf d t = true) :
    Tbl.wf d (Tbl.set d t k v) = true := by
  simp only [Tbl.wf, Bool.and_eq_true, List.all_eq_true, decide_eq_true_eq] at h ⊢
  refine ⟨Tbl.rising_set d k v (Nat.zero_le _) h.1, fun e he => ?_⟩
  rcases Tbl.mem_set d k v he with he | ⟨rfl, hv⟩
  · exact h.2 e he
  · exact hv

/-! ## The relation -/

/-- Where a field stands in a set of fields written as bits. -/
def Field.ix (f : Field) : Nat :=
  match f with
  | .cycle => 2 | .free => 3 | .resp => 4 | .out => 5 | .regs => 6 | .acts => 7 | .latches => 8 | .mem => 9 | .lead => 10
  | .times => 11 | .tm => 12 | .alarms => 13 | .queues => 14 | .prods => 15 | .healthLost => 16 | .cks => 17 | .efs => 18
  | .ports => 19 | .sis => 20 | .pipes => 21 | .schs => 22 | .sched => 23 | .finalC => 24 | .cellPtr => 25 | .cellMem => 26
  | .fences => 27 | .chans => 28 | .engs => 29 | .eps => 30 | .ledgers => 31 | .epoch => 32 | .weirOn => 33 | .lostDies => 34
  | .mods => 35 | .axes => 36 | .relaySt => 37 | .relayJ => 38 | .jns => 39 | .hus => 40 | .parked => 41 | .shutNormal => 42
  | .fcChans => 43 | .restarts => 44 | .switchAt => 45 | .hbs => 46 | .hbOn => 47 | .plannedAt => 48 | .declared => 49 | .modLost => 50
  | .peerUpAt => 51 | .scrubAt => 52 | .wdogs => 53 | .halted => 54 | .dictQ => 55 | .gws => 56 | .objs => 57 | .dict => 58
  | .i2cs => 59 | .cans => 60 | .qspis => 61 | .dbgs => 62 | .pccs => 63 | .hotDies => 64 | .faultWhy => 65 | .jtag => 66
  | .irqSent => 67 | .irqCopy => 68 | .irqClaims => 69 | .kpClaims => 70 | .swLv => 71 | .readyAt => 72 | .fcReset => 73 | .kpVer => 74
  | .kpReq => 75 | .rstLow => 76 | .ubFirst => 77

theorem Field.all_ix (f : Field) : Field.all[f.ix - 2]? = some f := by cases f <;> rfl

theorem Field.ix_inj {f g : Field} (h : f.ix = g.ix) : f = g := by
  have e := Field.all_ix f
  rw [h, Field.all_ix g] at e
  exact (Option.some.inj e).symm

/-- What a command leaves in order on its way from `s` to `t`; the fields of `F` are the same. -/
structure Keeps (F : Nat) (s t : State) : Prop where
  pending : t.pending = s.pending
  part : t.part = s.part
  regs : s.regsOk → t.regsOk
  mem : s.memOk → t.memOk
  lead : s.leadOk → t.leadOk
  same : ∀ f : Field, F.testBit f.ix = true → f.Same s t

/-- A meaning that answers a next state keeps what `Keeps` says of it. -/
def ResKeeps (F : Nat) (s : State) : Res → Prop
  | .next t => Keeps F s t
  | _ => True

theorem Field.Same.rfl (f : Field) (s : State) : f.Same s s := by cases f <;> exact Eq.refl _

theorem Field.Same.trans {f : Field} {s t u : State} (h : f.Same s t) (g : f.Same t u) : f.Same s u := by
  cases f <;> exact Eq.trans g h

theorem Keeps.refl (F : Nat) (s : State) : Keeps F s s := ⟨Eq.refl _, Eq.refl _, id, id, id, fun f _ => Field.Same.rfl f s⟩

theorem mask_sub {F T M : Nat} (h : F &&& T = 0) (e : M &&& T = M) : F &&& M = 0 := by
  rw [← e, Nat.and_comm M T, ← Nat.and_assoc, h, Nat.zero_and]

theorem stOk_of_part {s t : State} (h : t.part = s.part) (st : Nat) : t.stOk st = s.stOk st := by
  simp only [State.stOk, State.present, h]

/-- A step further that changes only fields of `M`. -/
theorem Keeps.upd {F M : Nat} {s0 a t : State} (h : Keeps F s0 a) (hF : F &&& M = 0) (hp : t.pending = a.pending) (hq : t.part = a.part)
    (hr : a.regsOk → t.regsOk) (hm : a.memOk → t.memOk) (hl : a.leadOk → t.leadOk)
    (hs : ∀ f : Field, M.testBit f.ix = false → f.Same a t) : Keeps F s0 t where
  pending := hp.trans h.pending
  part := hq.trans h.part
  regs := fun x => hr (h.regs x)
  mem := fun x => hm (h.mem x)
  lead := fun x => hl (h.lead x)
  same := fun f hf => (h.same f hf).trans (hs f (by
    have e := congrArg (fun n => n.testBit f.ix) hF
    simp only [Nat.testBit_and, hf, Bool.true_and, Nat.zero_testBit] at e
    exact e))

theorem keeps_forEach {α : Type} {F : Nat} {s0 : State} (l : List α) (f : State → α → State)
    (hf : ∀ t a, Keeps F s0 t → Keeps F s0 (f t a)) : ∀ {s : State}, Keeps F s0 s → Keeps F s0 (forEach l s f) := by
  unfold forEach
  induction l with
  | nil => exact fun h => h
  | cons a l ih => exact fun h => ih (hf _ a h)

theorem keeps_forEachP {α β : Type} {F : Nat} {s0 : State} (l : List α) (f : State × β → α → State × β)
    (hf : ∀ t a, Keeps F s0 t.1 → Keeps F s0 (f t a).1) : ∀ {p : State × β}, Keeps F s0 p.1 → Keeps F s0 (forEach l p f).1 := by
  unfold forEach
  induction l with
  | nil => exact fun h => h
  | cons a l ih => exact fun h => ih (hf _ a h)

/-! ## Names given on the way: a state, a pair with a state first, a map of states, a map with one more argument, states by number -/

theorem keeps_let {P : Prop} {F : Nat} {s0 x : State} (k : Keeps F s0 x → P) (h : Keeps F s0 x) : P := k h

theorem keeps_let1 {α : Type} {P : Prop} {F : Nat} {s0 : State} {x : State × α} (k : Keeps F s0 x.1 → P) (h : Keeps F s0 x.1) : P := k h

theorem keeps_letF {P : Prop} {F : Nat} {s0 : State} {x : State → State} (k : (∀ u, Keeps F s0 u → Keeps F s0 (x u)) → P)
    (h : ∀ u, Keeps F s0 u → Keeps F s0 (x u)) : P := k h

theorem keeps_letF2 {α : Type} {P : Prop} {F : Nat} {s0 : State} {x : State → α → State}
    (k : (∀ u a, Keeps F s0 u → Keeps F s0 (x u a)) → P) (h : ∀ u a, Keeps F s0 u → Keeps F s0 (x u a)) : P := k h

theorem keeps_letN {α : Type} {P : Prop} {F : Nat} {s0 : State} {x : α → State} (k : (∀ a, Keeps F s0 (x a)) → P)
    (h : ∀ a, Keeps F s0 (x a)) : P := k h

theorem ResKeeps.next {F : Nat} {s0 t : State} (h : Keeps F s0 t) : ResKeeps F s0 (.next t) := h

theorem keeps_ite {F : Nat} {s0 : State} {c : Prop} [Decidable c] {a b : State} (ha : c → Keeps F s0 a) (hb : ¬c → Keeps F s0 b) :
    Keeps F s0 (if c then a else b) := by
  by_cases h : c
  · rw [if_pos h]; exact ha h
  · rw [if_neg h]; exact hb h

theorem keeps_of_pair {α : Type} {F : Nat} {s0 a : State} {b : α} {p : State × α} (e : p = (a, b)) (h : Keeps F s0 p.1) : Keeps F s0 a := by
  rw [e] at h; exact h

/-! ## Base operations -/

theorem keeps_wr {F : Nat} {s0 s : State} (h0 : Keeps F s0 s) (k : Nat) (v : Word)
    (hF : F &&& 0x40 = 0 := by exact mask_sub (by assumption) rfl) : Keeps F s0 (s.wr k v) :=
  h0.upd hF rfl rfl (fun x => Tbl.wf_set k v x) id id
    (fun f => by cases f <;> first | exact fun _ => rfl | exact fun h => nomatch h)

theorem keeps_setByte {F : Nat} {s0 s : State} (h0 : Keeps F s0 s) (die addr : Nat) (b : Byte)
    (hF : F &&& 0x200 = 0 := by exact mask_sub (by assumption) rfl) : Keeps F s0 (s.setByte die addr b) :=
  h0.upd hF rfl rfl id (fun x => Tbl.wf_set _ b x) id
    (fun f => by cases f <;> first | exact fun _ => rfl | exact fun h => nomatch h)

theorem keeps_setBytes {F : Nat} {s0 : State} (hF : F &&& 0x200 = 0) (die : Nat) : ∀ (l : List Byte) (addr : Nat) {s : State}, Keeps F s0 s →
    Keeps F s0 (s.setBytes die addr l)
  | [], _, _, h => h
  | b :: l, addr, _, h => keeps_setBytes hF die l (addr + 1) (keeps_setByte h die addr b)

/-! ## Updates of other fields -/

theorem keeps_mk_acts {F : Nat} {s0 s : State} (h0 : Keeps F s0 s) (xacts : Tbl Word)
    (hF : F &&& 0x80 = 0 := by exact mask_sub (by assumption) rfl) :
    Keeps F s0 { s with acts := xacts } :=
  h0.upd hF rfl rfl id id id (fun f => by cases f <;> first | exact fun _ => rfl | exact fun h => nomatch h)

theorem keeps_mk_latches {F : Nat} {s0 s : State} (h0 : Keeps F s0 s) (xlatches : Tbl Word)
    (hF : F &&& 0x100 = 0 := by exact mask_sub (by assumption) rfl) :
    Keeps F s0 { s with latches := xlatches } :=
  h0.upd hF rfl rfl id id id (fun f => by cases f <;> first | exact fun _ => rfl | exact fun h => nomatch h)

theorem keeps_mk_resp {F : Nat} {s0 s : State} (h0 : Keeps F s0 s) (xresp : Resp)
    (hF : F &&& 0x10 = 0 := by exact mask_sub (by assumption) rfl) :
    Keeps F s0 { s with resp := xresp } :=
  h0.upd hF rfl rfl id id id (fun f => by cases f <;> first | exact fun _ => rfl | exact fun h => nomatch h)

theorem keeps_mk_out {F : Nat} {s0 s : State} (h0 : Keeps F s0 s) (xout : List Out)
    (hF : F &&& 0x20 = 0 := by exact mask_sub (by assumption) rfl) :
    Keeps F s0 { s with out := xout } :=
  h0.upd hF rfl rfl id id id (fun f => by cases f <;> first | exact fun _ => rfl | exact fun h => nomatch h)

theorem keeps_mk_faultWhy {F : Nat} {s0 s : State} (h0 : Keeps F s0 s) (xfaultWhy : List Nat)
    (hF : F &&& 0x20000000000000000 = 0 := by exact mask_sub (by assumption) rfl) :
    Keeps F s0 { s with faultWhy := xfaultWhy } :=
  h0.upd hF rfl rfl id id id (fun f => by cases f <;> first | exact fun _ => rfl | exact fun h => nomatch h)

theorem keeps_mk_free {F : Nat} {s0 s : State} (h0 : Keeps F s0 s) (xfree : Nat)
    (hF : F &&& 0x8 = 0 := by exact mask_sub (by assumption) rfl) :
    Keeps F s0 { s with free := xfree } :=
  h0.upd hF rfl rfl id id id (fun f => by cases f <;> first | exact fun _ => rfl | exact fun h => nomatch h)

theorem keeps_mk_times {F : Nat} {s0 s : State} (h0 : Keeps F s0 s) (xtimes : Tbl DieTime)
    (hF : F &&& 0x800 = 0 := by exact mask_sub (by assumption) rfl) :
    Keeps F s0 { s with times := xtimes } :=
  h0.upd hF rfl rfl id id id (fun f => by cases f <;> first | exact fun _ => rfl | exact fun h => nomatch h)

theorem keeps_mk_tm {F : Nat} {s0 s : State} (h0 : Keeps F s0 s) (xtm : TimeS)
    (hF : F &&& 0x1000 = 0 := by exact mask_sub (by assumption) rfl) :
    Keeps F s0 { s with tm := xtm } :=
  h0.upd hF rfl rfl id id id (fun f => by cases f <;> first | exact fun _ => rfl | exact fun h => nomatch h)

theorem keeps_mk_i2cs {F : Nat} {s0 s : State} (h0 : Keeps F s0 s) (xi2cs : Tbl I2cS)
    (hF : F &&& 0x800000000000000 = 0 := by exact mask_sub (by assumption) rfl) :
    Keeps F s0 { s with i2cs := xi2cs } :=
  h0.upd hF rfl rfl id id id (fun f => by cases f <;> first | exact fun _ => rfl | exact fun h => nomatch h)

theorem keeps_mk_pccs {F : Nat} {s0 s : State} (h0 : Keeps F s0 s) (xpccs : Tbl PccS)
    (hF : F &&& 0x8000000000000000 = 0 := by exact mask_sub (by assumption) rfl) :
    Keeps F s0 { s with pccs := xpccs } :=
  h0.upd hF rfl rfl id id id (fun f => by cases f <;> first | exact fun _ => rfl | exact fun h => nomatch h)

theorem keeps_mk_efs {F : Nat} {s0 s : State} (h0 : Keeps F s0 s) (xefs : Tbl EfS)
    (hF : F &&& 0x40000 = 0 := by exact mask_sub (by assumption) rfl) :
    Keeps F s0 { s with efs := xefs } :=
  h0.upd hF rfl rfl id id id (fun f => by cases f <;> first | exact fun _ => rfl | exact fun h => nomatch h)

theorem keeps_mk_dict {F : Nat} {s0 s : State} (h0 : Keeps F s0 s) (xdict : DictS)
    (hF : F &&& 0x400000000000000 = 0 := by exact mask_sub (by assumption) rfl) :
    Keeps F s0 { s with dict := xdict } :=
  h0.upd hF rfl rfl id id id (fun f => by cases f <;> first | exact fun _ => rfl | exact fun h => nomatch h)

theorem keeps_mk_scrubAt {F : Nat} {s0 s : State} (h0 : Keeps F s0 s) (xscrubAt : Tbl ScrubS)
    (hF : F &&& 0x10000000000000 = 0 := by exact mask_sub (by assumption) rfl) :
    Keeps F s0 { s with scrubAt := xscrubAt } :=
  h0.upd hF rfl rfl id id id (fun f => by cases f <;> first | exact fun _ => rfl | exact fun h => nomatch h)

theorem keeps_mk_queues {F : Nat} {s0 s : State} (h0 : Keeps F s0 s) (xqueues : Tbl QueueS)
    (hF : F &&& 0x4000 = 0 := by exact mask_sub (by assumption) rfl) :
    Keeps F s0 { s with queues := xqueues } :=
  h0.upd hF rfl rfl id id id (fun f => by cases f <;> first | exact fun _ => rfl | exact fun h => nomatch h)

theorem keeps_mk_prods {F : Nat} {s0 s : State} (h0 : Keeps F s0 s) (xprods : Tbl ProdS)
    (hF : F &&& 0x8000 = 0 := by exact mask_sub (by assumption) rfl) :
    Keeps F s0 { s with prods := xprods } :=
  h0.upd hF rfl rfl id id id (fun f => by cases f <;> first | exact fun _ => rfl | exact fun h => nomatch h)

theorem keeps_mk_cks {F : Nat} {s0 s : State} (h0 : Keeps F s0 s) (xcks : Tbl CkS)
    (hF : F &&& 0x20000 = 0 := by exact mask_sub (by assumption) rfl) :
    Keeps F s0 { s with cks := xcks } :=
  h0.upd hF rfl rfl id id id (fun f => by cases f <;> first | exact fun _ => rfl | exact fun h => nomatch h)

theorem keeps_mk_cellMem {F : Nat} {s0 s : State} (h0 : Keeps F s0 s) (xcellMem : Tbl (Option Byte))
    (hF : F &&& 0x4000000 = 0 := by exact mask_sub (by assumption) rfl) :
    Keeps F s0 { s with cellMem := xcellMem } :=
  h0.upd hF rfl rfl id id id (fun f => by cases f <;> first | exact fun _ => rfl | exact fun h => nomatch h)

theorem keeps_mk_cellPtr {F : Nat} {s0 s : State} (h0 : Keeps F s0 s) (xcellPtr : Tbl Nat)
    (hF : F &&& 0x2000000 = 0 := by exact mask_sub (by assumption) rfl) :
    Keeps F s0 { s with cellPtr := xcellPtr } :=
  h0.upd hF rfl rfl id id id (fun f => by cases f <;> first | exact fun _ => rfl | exact fun h => nomatch h)

theorem keeps_mk_healthLost {F : Nat} {s0 s : State} (h0 : Keeps F s0 s) (xhealthLost : Tbl Nat)
    (hF : F &&& 0x10000 = 0 := by exact mask_sub (by assumption) rfl) :
    Keeps F s0 { s with healthLost := xhealthLost } :=
  h0.upd hF rfl rfl id id id (fun f => by cases f <;> first | exact fun _ => rfl | exact fun h => nomatch h)

theorem keeps_mk_ports {F : Nat} {s0 s : State} (h0 : Keeps F s0 s) (xports : Tbl PortS)
    (hF : F &&& 0x80000 = 0 := by exact mask_sub (by assumption) rfl) :
    Keeps F s0 { s with ports := xports } :=
  h0.upd hF rfl rfl id id id (fun f => by cases f <;> first | exact fun _ => rfl | exact fun h => nomatch h)

theorem keeps_mk_cycle_tm {F : Nat} {s0 s : State} (h0 : Keeps F s0 s) (xcycle : Nat) (xtm : TimeS)
    (hF : F &&& 0x1004 = 0 := by exact mask_sub (by assumption) rfl) :
    Keeps F s0 { s with cycle := xcycle, tm := xtm } :=
  h0.upd hF rfl rfl id id id (fun f => by cases f <;> first | exact fun _ => rfl | exact fun h => nomatch h)

theorem keeps_mk_alarms {F : Nat} {s0 s : State} (h0 : Keeps F s0 s) (xalarms : Tbl AlarmS)
    (hF : F &&& 0x2000 = 0 := by exact mask_sub (by assumption) rfl) :
    Keeps F s0 { s with alarms := xalarms } :=
  h0.upd hF rfl rfl id id id (fun f => by cases f <;> first | exact fun _ => rfl | exact fun h => nomatch h)

theorem keeps_mk_schs {F : Nat} {s0 s : State} (h0 : Keeps F s0 s) (xschs : Tbl SchS)
    (hF : F &&& 0x400000 = 0 := by exact mask_sub (by assumption) rfl) :
    Keeps F s0 { s with schs := xschs } :=
  h0.upd hF rfl rfl id id id (fun f => by cases f <;> first | exact fun _ => rfl | exact fun h => nomatch h)

theorem keeps_mk_sched {F : Nat} {s0 s : State} (h0 : Keeps F s0 s) (xsched : SchedS)
    (hF : F &&& 0x800000 = 0 := by exact mask_sub (by assumption) rfl) :
    Keeps F s0 { s with sched := xsched } :=
  h0.upd hF rfl rfl id id id (fun f => by cases f <;> first | exact fun _ => rfl | exact fun h => nomatch h)

theorem keeps_mk_sis {F : Nat} {s0 s : State} (h0 : Keeps F s0 s) (xsis : Tbl SiS)
    (hF : F &&& 0x100000 = 0 := by exact mask_sub (by assumption) rfl) :
    Keeps F s0 { s with sis := xsis } :=
  h0.upd hF rfl rfl id id id (fun f => by cases f <;> first | exact fun _ => rfl | exact fun h => nomatch h)

theorem keeps_mk_pipes {F : Nat} {s0 s : State} (h0 : Keeps F s0 s) (xpipes : Tbl PipeS)
    (hF : F &&& 0x200000 = 0 := by exact mask_sub (by assumption) rfl) :
    Keeps F s0 { s with pipes := xpipes } :=
  h0.upd hF rfl rfl id id id (fun f => by cases f <;> first | exact fun _ => rfl | exact fun h => nomatch h)

theorem keeps_mk_queues_cellMem {F : Nat} {s0 s : State} (h0 : Keeps F s0 s) (xqueues : Tbl QueueS) (xcellMem : Tbl (Option Byte))
    (hF : F &&& 0x4004000 = 0 := by exact mask_sub (by assumption) rfl) :
    Keeps F s0 { s with queues := xqueues, cellMem := xcellMem } :=
  h0.upd hF rfl rfl id id id (fun f => by cases f <;> first | exact fun _ => rfl | exact fun h => nomatch h)

theorem keeps_mk_fences {F : Nat} {s0 s : State} (h0 : Keeps F s0 s) (xfences : List Fence)
    (hF : F &&& 0x8000000 = 0 := by exact mask_sub (by assumption) rfl) :
    Keeps F s0 { s with fences := xfences } :=
  h0.upd hF rfl rfl id id id (fun f => by cases f <;> first | exact fun _ => rfl | exact fun h => nomatch h)

theorem keeps_mk_chans {F : Nat} {s0 s : State} (h0 : Keeps F s0 s) (xchans : Tbl ChanS)
    (hF : F &&& 0x10000000 = 0 := by exact mask_sub (by assumption) rfl) :
    Keeps F s0 { s with chans := xchans } :=
  h0.upd hF rfl rfl id id id (fun f => by cases f <;> first | exact fun _ => rfl | exact fun h => nomatch h)

theorem keeps_mk_engs {F : Nat} {s0 s : State} (h0 : Keeps F s0 s) (xengs : Tbl EngS)
    (hF : F &&& 0x20000000 = 0 := by exact mask_sub (by assumption) rfl) :
    Keeps F s0 { s with engs := xengs } :=
  h0.upd hF rfl rfl id id id (fun f => by cases f <;> first | exact fun _ => rfl | exact fun h => nomatch h)

theorem keeps_mk_eps {F : Nat} {s0 s : State} (h0 : Keeps F s0 s) (xeps : Tbl EpS)
    (hF : F &&& 0x40000000 = 0 := by exact mask_sub (by assumption) rfl) :
    Keeps F s0 { s with eps := xeps } :=
  h0.upd hF rfl rfl id id id (fun f => by cases f <;> first | exact fun _ => rfl | exact fun h => nomatch h)

theorem keeps_mk_ledgers {F : Nat} {s0 s : State} (h0 : Keeps F s0 s) (xledgers : Tbl LedgerS)
    (hF : F &&& 0x80000000 = 0 := by exact mask_sub (by assumption) rfl) :
    Keeps F s0 { s with ledgers := xledgers } :=
  h0.upd hF rfl rfl id id id (fun f => by cases f <;> first | exact fun _ => rfl | exact fun h => nomatch h)

theorem keeps_mk_mods {F : Nat} {s0 s : State} (h0 : Keeps F s0 s) (xmods : Tbl ModS)
    (hF : F &&& 0x800000000 = 0 := by exact mask_sub (by assumption) rfl) :
    Keeps F s0 { s with mods := xmods } :=
  h0.upd hF rfl rfl id id id (fun f => by cases f <;> first | exact fun _ => rfl | exact fun h => nomatch h)

theorem keeps_mk_irqCopy {F : Nat} {s0 s : State} (h0 : Keeps F s0 s) (xirqCopy : Tbl Bool)
    (hF : F &&& 0x100000000000000000 = 0 := by exact mask_sub (by assumption) rfl) :
    Keeps F s0 { s with irqCopy := xirqCopy } :=
  h0.upd hF rfl rfl id id id (fun f => by cases f <;> first | exact fun _ => rfl | exact fun h => nomatch h)

theorem keeps_mk_axes {F : Nat} {s0 s : State} (h0 : Keeps F s0 s) (xaxes : Tbl AxisS)
    (hF : F &&& 0x1000000000 = 0 := by exact mask_sub (by assumption) rfl) :
    Keeps F s0 { s with axes := xaxes } :=
  h0.upd hF rfl rfl id id id (fun f => by cases f <;> first | exact fun _ => rfl | exact fun h => nomatch h)

theorem keeps_mk_relaySt {F : Nat} {s0 s : State} (h0 : Keeps F s0 s) (xrelaySt : Tbl (List RelayMsg))
    (hF : F &&& 0x2000000000 = 0 := by exact mask_sub (by assumption) rfl) :
    Keeps F s0 { s with relaySt := xrelaySt } :=
  h0.upd hF rfl rfl id id id (fun f => by cases f <;> first | exact fun _ => rfl | exact fun h => nomatch h)

theorem keeps_mk_relaySt_relayJ {F : Nat} {s0 s : State} (h0 : Keeps F s0 s) (xrelaySt : Tbl (List RelayMsg)) (xrelayJ : Tbl (List (Nat × Nat)))
    (hF : F &&& 0x6000000000 = 0 := by exact mask_sub (by assumption) rfl) :
    Keeps F s0 { s with relaySt := xrelaySt, relayJ := xrelayJ } :=
  h0.upd hF rfl rfl id id id (fun f => by cases f <;> first | exact fun _ => rfl | exact fun h => nomatch h)

theorem keeps_mk_jns {F : Nat} {s0 s : State} (h0 : Keeps F s0 s) (xjns : Tbl JnS)
    (hF : F &&& 0x8000000000 = 0 := by exact mask_sub (by assumption) rfl) :
    Keeps F s0 { s with jns := xjns } :=
  h0.upd hF rfl rfl id id id (fun f => by cases f <;> first | exact fun _ => rfl | exact fun h => nomatch h)

theorem keeps_mk_relayJ {F : Nat} {s0 s : State} (h0 : Keeps F s0 s) (xrelayJ : Tbl (List (Nat × Nat)))
    (hF : F &&& 0x4000000000 = 0 := by exact mask_sub (by assumption) rfl) :
    Keeps F s0 { s with relayJ := xrelayJ } :=
  h0.upd hF rfl rfl id id id (fun f => by cases f <;> first | exact fun _ => rfl | exact fun h => nomatch h)

theorem keeps_mk_weirOn {F : Nat} {s0 s : State} (h0 : Keeps F s0 s) (xweirOn : Bool)
    (hF : F &&& 0x200000000 = 0 := by exact mask_sub (by assumption) rfl) :
    Keeps F s0 { s with weirOn := xweirOn } :=
  h0.upd hF rfl rfl id id id (fun f => by cases f <;> first | exact fun _ => rfl | exact fun h => nomatch h)

theorem keeps_mk_epoch {F : Nat} {s0 s : State} (h0 : Keeps F s0 s) (xepoch : Nat)
    (hF : F &&& 0x100000000 = 0 := by exact mask_sub (by assumption) rfl) :
    Keeps F s0 { s with epoch := xepoch } :=
  h0.upd hF rfl rfl id id id (fun f => by cases f <;> first | exact fun _ => rfl | exact fun h => nomatch h)

theorem keeps_mk_restarts {F : Nat} {s0 s : State} (h0 : Keeps F s0 s) (xrestarts : List Restart)
    (hF : F &&& 0x100000000000 = 0 := by exact mask_sub (by assumption) rfl) :
    Keeps F s0 { s with restarts := xrestarts } :=
  h0.upd hF rfl rfl id id id (fun f => by cases f <;> first | exact fun _ => rfl | exact fun h => nomatch h)

theorem keeps_mk_switchAt {F : Nat} {s0 s : State} (h0 : Keeps F s0 s) (xswitchAt : Tbl (Option Nat))
    (hF : F &&& 0x200000000000 = 0 := by exact mask_sub (by assumption) rfl) :
    Keeps F s0 { s with switchAt := xswitchAt } :=
  h0.upd hF rfl rfl id id id (fun f => by cases f <;> first | exact fun _ => rfl | exact fun h => nomatch h)

theorem keeps_mk_hus {F : Nat} {s0 s : State} (h0 : Keeps F s0 s) (xhus : Tbl HuS)
    (hF : F &&& 0x10000000000 = 0 := by exact mask_sub (by assumption) rfl) :
    Keeps F s0 { s with hus := xhus } :=
  h0.upd hF rfl rfl id id id (fun f => by cases f <;> first | exact fun _ => rfl | exact fun h => nomatch h)

theorem keeps_mk_fcChans {F : Nat} {s0 s : State} (h0 : Keeps F s0 s) (xfcChans : List (Nat × Nat × Nat))
    (hF : F &&& 0x80000000000 = 0 := by exact mask_sub (by assumption) rfl) :
    Keeps F s0 { s with fcChans := xfcChans } :=
  h0.upd hF rfl rfl id id id (fun f => by cases f <;> first | exact fun _ => rfl | exact fun h => nomatch h)

theorem keeps_mk_finalC_fcChans {F : Nat} {s0 s : State} (h0 : Keeps F s0 s) (xfinalC : Bool) (xfcChans : List (Nat × Nat × Nat))
    (hF : F &&& 0x80001000000 = 0 := by exact mask_sub (by assumption) rfl) :
    Keeps F s0 { s with finalC := xfinalC, fcChans := xfcChans } :=
  h0.upd hF rfl rfl id id id (fun f => by cases f <;> first | exact fun _ => rfl | exact fun h => nomatch h)

theorem keeps_mk_parked {F : Nat} {s0 s : State} (h0 : Keeps F s0 s) (xparked : List Nat)
    (hF : F &&& 0x20000000000 = 0 := by exact mask_sub (by assumption) rfl) :
    Keeps F s0 { s with parked := xparked } :=
  h0.upd hF rfl rfl id id id (fun f => by cases f <;> first | exact fun _ => rfl | exact fun h => nomatch h)

theorem keeps_mk_finalC_parked {F : Nat} {s0 s : State} (h0 : Keeps F s0 s) (xfinalC : Bool) (xparked : List Nat)
    (hF : F &&& 0x20001000000 = 0 := by exact mask_sub (by assumption) rfl) :
    Keeps F s0 { s with finalC := xfinalC, parked := xparked } :=
  h0.upd hF rfl rfl id id id (fun f => by cases f <;> first | exact fun _ => rfl | exact fun h => nomatch h)

theorem keeps_mk_dictQ_gws {F : Nat} {s0 s : State} (h0 : Keeps F s0 s) (xdictQ : List DictReq) (xgws : List GwTx)
    (hF : F &&& 0x180000000000000 = 0 := by exact mask_sub (by assumption) rfl) :
    Keeps F s0 { s with dictQ := xdictQ, gws := xgws } :=
  h0.upd hF rfl rfl id id id (fun f => by cases f <;> first | exact fun _ => rfl | exact fun h => nomatch h)

theorem keeps_mk_hbs {F : Nat} {s0 s : State} (h0 : Keeps F s0 s) (xhbs : Tbl HbS)
    (hF : F &&& 0x400000000000 = 0 := by exact mask_sub (by assumption) rfl) :
    Keeps F s0 { s with hbs := xhbs } :=
  h0.upd hF rfl rfl id id id (fun f => by cases f <;> first | exact fun _ => rfl | exact fun h => nomatch h)

theorem keeps_mk_lostDies {F : Nat} {s0 s : State} (h0 : Keeps F s0 s) (xlostDies : List Nat)
    (hF : F &&& 0x400000000 = 0 := by exact mask_sub (by assumption) rfl) :
    Keeps F s0 { s with lostDies := xlostDies } :=
  h0.upd hF rfl rfl id id id (fun f => by cases f <;> first | exact fun _ => rfl | exact fun h => nomatch h)

theorem keeps_mk_declared {F : Nat} {s0 s : State} (h0 : Keeps F s0 s) (xdeclared : List Nat)
    (hF : F &&& 0x2000000000000 = 0 := by exact mask_sub (by assumption) rfl) :
    Keeps F s0 { s with declared := xdeclared } :=
  h0.upd hF rfl rfl id id id (fun f => by cases f <;> first | exact fun _ => rfl | exact fun h => nomatch h)

theorem keeps_mk_parked_hbOn {F : Nat} {s0 s : State} (h0 : Keeps F s0 s) (xparked : List Nat) (xhbOn : List Nat)
    (hF : F &&& 0x820000000000 = 0 := by exact mask_sub (by assumption) rfl) :
    Keeps F s0 { s with parked := xparked, hbOn := xhbOn } :=
  h0.upd hF rfl rfl id id id (fun f => by cases f <;> first | exact fun _ => rfl | exact fun h => nomatch h)

theorem keeps_mk_modLost {F : Nat} {s0 s : State} (h0 : Keeps F s0 s) (xmodLost : List (Nat × Nat))
    (hF : F &&& 0x4000000000000 = 0 := by exact mask_sub (by assumption) rfl) :
    Keeps F s0 { s with modLost := xmodLost } :=
  h0.upd hF rfl rfl id id id (fun f => by cases f <;> first | exact fun _ => rfl | exact fun h => nomatch h)

theorem keeps_mk_plannedAt {F : Nat} {s0 s : State} (h0 : Keeps F s0 s) (xplannedAt : Tbl (Option Nat))
    (hF : F &&& 0x1000000000000 = 0 := by exact mask_sub (by assumption) rfl) :
    Keeps F s0 { s with plannedAt := xplannedAt } :=
  h0.upd hF rfl rfl id id id (fun f => by cases f <;> first | exact fun _ => rfl | exact fun h => nomatch h)

theorem keeps_mk_wdogs {F : Nat} {s0 s : State} (h0 : Keeps F s0 s) (xwdogs : List Nat)
    (hF : F &&& 0x20000000000000 = 0 := by exact mask_sub (by assumption) rfl) :
    Keeps F s0 { s with wdogs := xwdogs } :=
  h0.upd hF rfl rfl id id id (fun f => by cases f <;> first | exact fun _ => rfl | exact fun h => nomatch h)

theorem keeps_mk_hotDies {F : Nat} {s0 s : State} (h0 : Keeps F s0 s) (xhotDies : List Nat)
    (hF : F &&& 0x10000000000000000 = 0 := by exact mask_sub (by assumption) rfl) :
    Keeps F s0 { s with hotDies := xhotDies } :=
  h0.upd hF rfl rfl id id id (fun f => by cases f <;> first | exact fun _ => rfl | exact fun h => nomatch h)

theorem keeps_mk_cans {F : Nat} {s0 s : State} (h0 : Keeps F s0 s) (xcans : Tbl CanS)
    (hF : F &&& 0x1000000000000000 = 0 := by exact mask_sub (by assumption) rfl) :
    Keeps F s0 { s with cans := xcans } :=
  h0.upd hF rfl rfl id id id (fun f => by cases f <;> first | exact fun _ => rfl | exact fun h => nomatch h)

theorem keeps_mk_objs {F : Nat} {s0 s : State} (h0 : Keeps F s0 s) (xobjs : Tbl (List Byte))
    (hF : F &&& 0x200000000000000 = 0 := by exact mask_sub (by assumption) rfl) :
    Keeps F s0 { s with objs := xobjs } :=
  h0.upd hF rfl rfl id id id (fun f => by cases f <;> first | exact fun _ => rfl | exact fun h => nomatch h)

theorem keeps_mk_dictQ {F : Nat} {s0 s : State} (h0 : Keeps F s0 s) (xdictQ : List DictReq)
    (hF : F &&& 0x80000000000000 = 0 := by exact mask_sub (by assumption) rfl) :
    Keeps F s0 { s with dictQ := xdictQ } :=
  h0.upd hF rfl rfl id id id (fun f => by cases f <;> first | exact fun _ => rfl | exact fun h => nomatch h)

theorem keeps_mk_qspis {F : Nat} {s0 s : State} (h0 : Keeps F s0 s) (xqspis : Tbl QspiS)
    (hF : F &&& 0x2000000000000000 = 0 := by exact mask_sub (by assumption) rfl) :
    Keeps F s0 { s with qspis := xqspis } :=
  h0.upd hF rfl rfl id id id (fun f => by cases f <;> first | exact fun _ => rfl | exact fun h => nomatch h)

theorem keeps_mk_jtag {F : Nat} {s0 s : State} (h0 : Keeps F s0 s) (xjtag : JtagS)
    (hF : F &&& 0x40000000000000000 = 0 := by exact mask_sub (by assumption) rfl) :
    Keeps F s0 { s with jtag := xjtag } :=
  h0.upd hF rfl rfl id id id (fun f => by cases f <;> first | exact fun _ => rfl | exact fun h => nomatch h)

theorem keeps_mk_dbgs {F : Nat} {s0 s : State} (h0 : Keeps F s0 s) (xdbgs : Tbl DbgS)
    (hF : F &&& 0x4000000000000000 = 0 := by exact mask_sub (by assumption) rfl) :
    Keeps F s0 { s with dbgs := xdbgs } :=
  h0.upd hF rfl rfl id id id (fun f => by cases f <;> first | exact fun _ => rfl | exact fun h => nomatch h)

theorem keeps_mk_halted {F : Nat} {s0 s : State} (h0 : Keeps F s0 s) (xhalted : List Nat)
    (hF : F &&& 0x40000000000000 = 0 := by exact mask_sub (by assumption) rfl) :
    Keeps F s0 { s with halted := xhalted } :=
  h0.upd hF rfl rfl id id id (fun f => by cases f <;> first | exact fun _ => rfl | exact fun h => nomatch h)

theorem keeps_mk_hbOn {F : Nat} {s0 s : State} (h0 : Keeps F s0 s) (xhbOn : List Nat)
    (hF : F &&& 0x800000000000 = 0 := by exact mask_sub (by assumption) rfl) :
    Keeps F s0 { s with hbOn := xhbOn } :=
  h0.upd hF rfl rfl id id id (fun f => by cases f <;> first | exact fun _ => rfl | exact fun h => nomatch h)

theorem keeps_mk_irqSent {F : Nat} {s0 s : State} (h0 : Keeps F s0 s) (xirqSent : Tbl Bool)
    (hF : F &&& 0x80000000000000000 = 0 := by exact mask_sub (by assumption) rfl) :
    Keeps F s0 { s with irqSent := xirqSent } :=
  h0.upd hF rfl rfl id id id (fun f => by cases f <;> first | exact fun _ => rfl | exact fun h => nomatch h)

theorem keeps_mk_swLv {F : Nat} {s0 s : State} (h0 : Keeps F s0 s) (xswLv : Tbl Bool)
    (hF : F &&& 0x800000000000000000 = 0 := by exact mask_sub (by assumption) rfl) :
    Keeps F s0 { s with swLv := xswLv } :=
  h0.upd hF rfl rfl id id id (fun f => by cases f <;> first | exact fun _ => rfl | exact fun h => nomatch h)

theorem keeps_mk_resp_irqClaims {F : Nat} {s0 s : State} (h0 : Keeps F s0 s) (xresp : Resp) (xirqClaims : Tbl Bool)
    (hF : F &&& 0x200000000000000010 = 0 := by exact mask_sub (by assumption) rfl) :
    Keeps F s0 { s with resp := xresp, irqClaims := xirqClaims } :=
  h0.upd hF rfl rfl id id id (fun f => by cases f <;> first | exact fun _ => rfl | exact fun h => nomatch h)

theorem keeps_mk_irqClaims {F : Nat} {s0 s : State} (h0 : Keeps F s0 s) (xirqClaims : Tbl Bool)
    (hF : F &&& 0x200000000000000000 = 0 := by exact mask_sub (by assumption) rfl) :
    Keeps F s0 { s with irqClaims := xirqClaims } :=
  h0.upd hF rfl rfl id id id (fun f => by cases f <;> first | exact fun _ => rfl | exact fun h => nomatch h)

theorem keeps_mk_resp_kpClaims {F : Nat} {s0 s : State} (h0 : Keeps F s0 s) (xresp : Resp) (xkpClaims : Tbl Bool)
    (hF : F &&& 0x400000000000000010 = 0 := by exact mask_sub (by assumption) rfl) :
    Keeps F s0 { s with resp := xresp, kpClaims := xkpClaims } :=
  h0.upd hF rfl rfl id id id (fun f => by cases f <;> first | exact fun _ => rfl | exact fun h => nomatch h)

theorem keeps_mk_kpClaims {F : Nat} {s0 s : State} (h0 : Keeps F s0 s) (xkpClaims : Tbl Bool)
    (hF : F &&& 0x400000000000000000 = 0 := by exact mask_sub (by assumption) rfl) :
    Keeps F s0 { s with kpClaims := xkpClaims } :=
  h0.upd hF rfl rfl id id id (fun f => by cases f <;> first | exact fun _ => rfl | exact fun h => nomatch h)

theorem keeps_mk_gws {F : Nat} {s0 s : State} (h0 : Keeps F s0 s) (xgws : List GwTx)
    (hF : F &&& 0x100000000000000 = 0 := by exact mask_sub (by assumption) rfl) :
    Keeps F s0 { s with gws := xgws } :=
  h0.upd hF rfl rfl id id id (fun f => by cases f <;> first | exact fun _ => rfl | exact fun h => nomatch h)

theorem keeps_mk_queues_prods_efs_ports_sis_pipes_schs_cellPtr_cellMem_fences_chans_engs_axes_fcChans_restarts_wdogs_pccs_kpVer_kpReq_ubFirst {F : Nat} {s0 s : State} (h0 : Keeps F s0 s) (xqueues : Tbl QueueS) (xprods : Tbl ProdS) (xefs : Tbl EfS) (xports : Tbl PortS) (xsis : Tbl SiS) (xpipes : Tbl PipeS) (xschs : Tbl SchS) (xcellPtr : Tbl Nat) (xcellMem : Tbl (Option Byte)) (xfences : List Fence) (xchans : Tbl ChanS) (xengs : Tbl EngS) (xaxes : Tbl AxisS) (xfcChans : List (Nat × Nat × Nat)) (xrestarts : List Restart) (xwdogs : List Nat) (xpccs : Tbl PccS) (xkpVer : Tbl (Option Nat)) (xkpReq : Tbl Bool) (xubFirst : List Nat)
    (hF : F &&& 0x2c00802018103e7cc000 = 0 := by exact mask_sub (by assumption) rfl) :
    Keeps F s0 { s with queues := xqueues, prods := xprods, efs := xefs, ports := xports, sis := xsis, pipes := xpipes, schs := xschs, cellPtr := xcellPtr, cellMem := xcellMem, fences := xfences, chans := xchans, engs := xengs, axes := xaxes, fcChans := xfcChans, restarts := xrestarts, wdogs := xwdogs, pccs := xpccs, kpVer := xkpVer, kpReq := xkpReq, ubFirst := xubFirst } :=
  h0.upd hF rfl rfl id id id (fun f => by cases f <;> first | exact fun _ => rfl | exact fun h => nomatch h)

theorem keeps_mk_eps_ledgers_weirOn_relaySt_relayJ_jns_hus_parked_restarts_switchAt_hbOn_peerUpAt_dict_i2cs_cans_qspis_irqCopy_irqClaims_readyAt {F : Nat} {s0 s : State} (h0 : Keeps F s0 s) (xeps : Tbl EpS) (xledgers : Tbl LedgerS) (xweirOn : Bool) (xrelaySt : Tbl (List RelayMsg)) (xrelayJ : Tbl (List (Nat × Nat))) (xjns : Tbl JnS) (xhus : Tbl HuS) (xparked : List Nat) (xrestarts : List Restart) (xswitchAt : Tbl (Option Nat)) (xhbOn : List Nat) (xpeerUpAt : Tbl Nat) (xdict : DictS) (xi2cs : Tbl I2cS) (xcans : Tbl CanS) (xqspis : Tbl QspiS) (xirqCopy : Tbl Bool) (xirqClaims : Tbl Bool) (xreadyAt : Tbl (Option Nat))
    (hF : F &&& 0x1303c08b3e2c0000000 = 0 := by exact mask_sub (by assumption) rfl) :
    Keeps F s0 { s with eps := xeps, ledgers := xledgers, weirOn := xweirOn, relaySt := xrelaySt, relayJ := xrelayJ, jns := xjns, hus := xhus, parked := xparked, restarts := xrestarts, switchAt := xswitchAt, hbOn := xhbOn, peerUpAt := xpeerUpAt, dict := xdict, i2cs := xi2cs, cans := xcans, qspis := xqspis, irqCopy := xirqCopy, irqClaims := xirqClaims, readyAt := xreadyAt } :=
  h0.upd hF rfl rfl id id id (fun f => by cases f <;> first | exact fun _ => rfl | exact fun h => nomatch h)

theorem keeps_mk_finalC_shutNormal_fcReset {F : Nat} {s0 s : State} (h0 : Keeps F s0 s) (xfinalC : Bool) (xshutNormal : Bool) (xfcReset : List Nat)
    (hF : F &&& 0x2000000040001000000 = 0 := by exact mask_sub (by assumption) rfl) :
    Keeps F s0 { s with finalC := xfinalC, shutNormal := xshutNormal, fcReset := xfcReset } :=
  h0.upd hF rfl rfl id id id (fun f => by cases f <;> first | exact fun _ => rfl | exact fun h => nomatch h)

theorem keeps_mk_fcReset {F : Nat} {s0 s : State} (h0 : Keeps F s0 s) (xfcReset : List Nat)
    (hF : F &&& 0x2000000000000000000 = 0 := by exact mask_sub (by assumption) rfl) :
    Keeps F s0 { s with fcReset := xfcReset } :=
  h0.upd hF rfl rfl id id id (fun f => by cases f <;> first | exact fun _ => rfl | exact fun h => nomatch h)

theorem keeps_mk_rstLow {F : Nat} {s0 s : State} (h0 : Keeps F s0 s) (xrstLow : Bool)
    (hF : F &&& 0x10000000000000000000 = 0 := by exact mask_sub (by assumption) rfl) :
    Keeps F s0 { s with rstLow := xrstLow } :=
  h0.upd hF rfl rfl id id id (fun f => by cases f <;> first | exact fun _ => rfl | exact fun h => nomatch h)

theorem keeps_mk_hbOn_readyAt {F : Nat} {s0 s : State} (h0 : Keeps F s0 s) (xhbOn : List Nat) (xreadyAt : Tbl (Option Nat))
    (hF : F &&& 0x1000000800000000000 = 0 := by exact mask_sub (by assumption) rfl) :
    Keeps F s0 { s with hbOn := xhbOn, readyAt := xreadyAt } :=
  h0.upd hF rfl rfl id id id (fun f => by cases f <;> first | exact fun _ => rfl | exact fun h => nomatch h)

theorem keeps_mk_shutNormal {F : Nat} {s0 s : State} (h0 : Keeps F s0 s) (xshutNormal : Bool)
    (hF : F &&& 0x40000000000 = 0 := by exact mask_sub (by assumption) rfl) :
    Keeps F s0 { s with shutNormal := xshutNormal } :=
  h0.upd hF rfl rfl id id id (fun f => by cases f <;> first | exact fun _ => rfl | exact fun h => nomatch h)

theorem keeps_mk_kpVer {F : Nat} {s0 s : State} (h0 : Keeps F s0 s) (xkpVer : Tbl (Option Nat))
    (hF : F &&& 0x4000000000000000000 = 0 := by exact mask_sub (by assumption) rfl) :
    Keeps F s0 { s with kpVer := xkpVer } :=
  h0.upd hF rfl rfl id id id (fun f => by cases f <;> first | exact fun _ => rfl | exact fun h => nomatch h)

theorem keeps_mk_kpReq {F : Nat} {s0 s : State} (h0 : Keeps F s0 s) (xkpReq : Tbl Bool)
    (hF : F &&& 0x8000000000000000000 = 0 := by exact mask_sub (by assumption) rfl) :
    Keeps F s0 { s with kpReq := xkpReq } :=
  h0.upd hF rfl rfl id id id (fun f => by cases f <;> first | exact fun _ => rfl | exact fun h => nomatch h)

theorem keeps_mk_declared_peerUpAt {F : Nat} {s0 s : State} (h0 : Keeps F s0 s) (xdeclared : List Nat) (xpeerUpAt : Tbl Nat)
    (hF : F &&& 0xa000000000000 = 0 := by exact mask_sub (by assumption) rfl) :
    Keeps F s0 { s with declared := xdeclared, peerUpAt := xpeerUpAt } :=
  h0.upd hF rfl rfl id id id (fun f => by cases f <;> first | exact fun _ => rfl | exact fun h => nomatch h)

theorem keeps_mk_ubFirst {F : Nat} {s0 s : State} (h0 : Keeps F s0 s) (xubFirst : List Nat)
    (hF : F &&& 0x20000000000000000000 = 0 := by exact mask_sub (by assumption) rfl) :
    Keeps F s0 { s with ubFirst := xubFirst } :=
  h0.upd hF rfl rfl id id id (fun f => by cases f <;> first | exact fun _ => rfl | exact fun h => nomatch h)


end Sys2Proof.Machine
end

