-- ==== Sys2Proof/Laws/State.lean ====
section
/-! SUPPORT. Reading after writing: tables, then every elementary update of State with what it leaves as it was (fields, registers,
committed copies, bytes, the records of units), so that no later proof unfolds a record update. -/
namespace Sys2Proof.Machine
set_option Elab.async false

/-! ## Tables -/

theorem Tbl.get_above {α : Type} (d : Nat → α) {k j : Nat} (h : k < j) : ∀ t : Tbl α, Tbl.get d (Tbl.above k t) j = Tbl.get d t j
  | [] => rfl
  | (i, v) :: t => by
    unfold Tbl.above
    split
    · rw [Tbl.get_above d h t]
      conv => rhs; unfold Tbl.get
      rw [if_neg (by omega), if_neg (by omega)]
    · rfl

theorem Tbl.get_above_same {α : Type} (d : Nat → α) (k : Nat) : ∀ t : Tbl α, Tbl.get d (Tbl.above k t) k = d k
  | [] => rfl
  | (i, v) :: t => by
    unfold Tbl.above
    split
    · exact Tbl.get_above_same d k t
    · unfold Tbl.get
      rw [if_pos (by omega)]

theorem Tbl.get_set_same {α : Type} [DecidableEq α] (d : Nat → α) (k : Nat) (v : α) : ∀ t : Tbl α, Tbl.get d (Tbl.set d t k v) k = v
  | [] => by
    unfold Tbl.set
    split
    · rename_i h; exact h.symm
    · simp [Tbl.get]
  | (j, w) :: t => by
    unfold Tbl.set
    split
    · split
      · rename_i h; rw [h]; unfold Tbl.get; rw [if_pos (by assumption)]
      · simp [Tbl.get]
    · split
      · split
        · rename_i h; rw [Tbl.get_above_same, h]
        · simp [Tbl.get]
      · unfold Tbl.get
        rw [if_neg (by assumption), if_neg (by assumption)]
        exact Tbl.get_set_same d k v t

theorem Tbl.get_set_ne {α : Type} [DecidableEq α] (d : Nat → α) {k j : Nat} (v : α) (h : j ≠ k) :
    ∀ t : Tbl α, Tbl.get d (Tbl.set d t k v) j = Tbl.get d t j
  | [] => by
    unfold Tbl.set
    split
    · rfl
    · simp [Tbl.get, h]
  | (i, w) :: t => by
    unfold Tbl.set
    split
    · split
      · rfl
      · conv => lhs; unfold Tbl.get
        split
        · unfold Tbl.get; rw [if_pos (by omega)]
        · first | rfl | rw [if_neg h]
    · split
      · subst i
        have e : Tbl.get d (Tbl.above k t) j = Tbl.get d ((k, w) :: t) j := by
          conv => rhs; unfold Tbl.get
          rw [if_neg h]
          split
          · rename_i hlt
            induction t with
            | nil => rfl
            | cons x t ih =>
              unfold Tbl.above
              split
              · exact ih
              · unfold Tbl.get; rw [if_pos (by omega)]
          · exact Tbl.get_above d (by omega) t
        split
        · exact e
        · rw [← e]
          conv => lhs; unfold Tbl.get
          rw [if_neg h]
          split
          · rw [e]; unfold Tbl.get; rw [if_pos (by assumption)]
          · rfl
      · unfold Tbl.get
        split
        · rfl
        · split
          · rfl
          · exact Tbl.get_set_ne d v h t

/-- A table with a key set, read at any key. -/
theorem Tbl.get_set {α : Type} [DecidableEq α] (d : Nat → α) (t : Tbl α) (k j : Nat) (v : α) :
    Tbl.get d (Tbl.set d t k v) j = if j = k then v else Tbl.get d t j := by
  split
  · rename_i h; rw [h]; exact Tbl.get_set_same d k v t
  · rename_i h; exact Tbl.get_set_ne d v h t

/-! ## What was written is read -/

@[simp] theorem State.rd_wr (s : State) (k j : Nat) (v : Word) : (s.wr k v).rd j = if j = k then v else s.rd j := Tbl.get_set _ _ _ _ _

@[simp] theorem State.act_setAct (s : State) (k j : Nat) (v : Word) : (s.setAct k v).act j = if j = k then v else s.act j :=
  Tbl.get_set _ _ _ _ _

@[simp] theorem State.byteAt_setByte (s : State) (die addr d a : Nat) (b : Byte) :
    (s.setByte die addr b).byteAt d a =
      if d * 0x10000000000 + a = die * 0x10000000000 + addr then b else s.byteAt d a := Tbl.get_set _ _ _ _ _

@[simp] theorem State.efS_setEf (s : State) (die : Nat) (v : EfS) : (s.setEf die v).efS die = v := Tbl.get_set_same _ _ _ _

@[simp] theorem State.timeOf_setTime (s : State) (die : Nat) (v : DieTime) : (s.setTime die v).timeOf die = v := Tbl.get_set_same _ _ _ _

@[simp] theorem State.queue_setQueue (s : State) (die q : Nat) (v : QueueS) : (s.setQueue die q v).queue die q = v := Tbl.get_set_same _ _ _ _

@[simp] theorem State.prod_setProd (s : State) (die b : Nat) (v : ProdS) : (s.setProd die b v).prod die b = v := Tbl.get_set_same _ _ _ _

@[simp] theorem State.ckS_setCk (s : State) (die u : Nat) (v : CkS) : (s.setCk die u v).ckS die u = v := Tbl.get_set_same _ _ _ _

@[simp] theorem State.port_setPort (s : State) (p : Nat) (v : PortS) : (s.setPort p v).port p = v := Tbl.get_set_same _ _ _ _

@[simp] theorem State.sch_setSch (s : State) (st : Nat) (v : SchS) : (s.setSch st v).sch st = v := Tbl.get_set_same _ _ _ _

@[simp] theorem State.sis1_setSis (s : State) (st : Nat) (v : SiS) : (s.setSis st v).sis1 st = v := Tbl.get_set_same _ _ _ _

@[simp] theorem State.pipe_setPipe (s : State) (n : Nat) (v : PipeS) : (s.setPipe n v).pipe n = v := Tbl.get_set_same _ _ _ _

@[simp] theorem State.chan_setChan (s : State) (die e c : Nat) (v : ChanS) : (s.setChan die e c v).chan die e c = v := Tbl.get_set_same _ _ _ _

@[simp] theorem State.eng_setEng (s : State) (die e : Nat) (v : EngS) : (s.setEng die e v).eng die e = v := Tbl.get_set_same _ _ _ _

@[simp] theorem State.ep_setEp (s : State) (st : Nat) (v : EpS) : (s.setEp st v).ep st = v := Tbl.get_set_same _ _ _ _

@[simp] theorem State.modS_setMod (s : State) (die m : Nat) (v : ModS) : (s.setMod die m v).modS die m = v := Tbl.get_set_same _ _ _ _

@[simp] theorem State.axS_setAx (s : State) (a : Nat) (v : AxisS) : (s.setAx a v).axS a = v := Tbl.get_set_same _ _ _ _

@[simp] theorem State.jnS_setJn (s : State) (st : Nat) (v : JnS) : (s.setJn st v).jnS st = v := Tbl.get_set_same _ _ _ _

@[simp] theorem State.huS_setHu (s : State) (st : Nat) (v : HuS) : (s.setHu st v).huS st = v := Tbl.get_set_same _ _ _ _

@[simp] theorem State.hb_setHb (s : State) (die m : Nat) (v : HbS) : (s.setHb die m v).hb die m = v := Tbl.get_set_same _ _ _ _

@[simp] theorem State.qspiS_setQspi (s : State) (st : Nat) (v : QspiS) : (s.setQspi st v).qspiS st = v := Tbl.get_set_same _ _ _ _

@[simp] theorem State.alarm_setAlarm (s : State) (die a : Nat) (v : AlarmS) : (s.setAlarm die a v).alarm die a = v := Tbl.get_set_same _ _ _ _

@[simp] theorem State.resp_respond (s : State) (r : Resp) : (s.respond r).resp = r := rfl

@[simp] theorem State.out_emit (s : State) (k : OutKind) (unit : Nat) (data : List Nat) :
    (s.emit k unit data).out = { kind := k, unit := unit, data := data } :: s.out := rfl

@[simp] theorem State.free_skipFree (s : State) (n : Nat) : (s.skipFree n).free = s.free + n := rfl

@[simp] theorem State.tm_setTm (s : State) (t : TimeS) : (s.setTm t).tm = t := rfl

/-! ## What each update leaves as it was -/

@[simp] theorem State.wr_same (s : State) (k : Nat) (v : Word) :
    (s.wr k v).pending = s.pending ∧ (s.wr k v).part = s.part ∧ (s.wr k v).cycle = s.cycle ∧ (s.wr k v).free = s.free ∧
    (s.wr k v).resp = s.resp ∧ (s.wr k v).out = s.out ∧ (s.wr k v).acts = s.acts ∧ (s.wr k v).latches = s.latches ∧
    (s.wr k v).mem = s.mem ∧ (s.wr k v).lead = s.lead ∧ (s.wr k v).times = s.times ∧ (s.wr k v).tm = s.tm ∧
    (s.wr k v).alarms = s.alarms ∧ (s.wr k v).queues = s.queues ∧ (s.wr k v).prods = s.prods ∧ (s.wr k v).healthLost = s.healthLost ∧
    (s.wr k v).cks = s.cks ∧ (s.wr k v).efs = s.efs ∧ (s.wr k v).ports = s.ports ∧ (s.wr k v).sis = s.sis ∧ (s.wr k v).pipes = s.pipes ∧
    (s.wr k v).schs = s.schs ∧ (s.wr k v).sched = s.sched ∧ (s.wr k v).finalC = s.finalC ∧ (s.wr k v).cellPtr = s.cellPtr ∧
    (s.wr k v).cellMem = s.cellMem ∧ (s.wr k v).fences = s.fences ∧ (s.wr k v).chans = s.chans ∧ (s.wr k v).engs = s.engs ∧
    (s.wr k v).eps = s.eps ∧ (s.wr k v).ledgers = s.ledgers ∧ (s.wr k v).epoch = s.epoch ∧ (s.wr k v).weirOn = s.weirOn ∧
    (s.wr k v).lostDies = s.lostDies ∧ (s.wr k v).mods = s.mods ∧ (s.wr k v).axes = s.axes ∧ (s.wr k v).relaySt = s.relaySt ∧
    (s.wr k v).relayJ = s.relayJ ∧ (s.wr k v).jns = s.jns ∧ (s.wr k v).hus = s.hus ∧ (s.wr k v).parked = s.parked ∧
    (s.wr k v).shutNormal = s.shutNormal ∧ (s.wr k v).fcChans = s.fcChans ∧ (s.wr k v).restarts = s.restarts ∧
    (s.wr k v).switchAt = s.switchAt ∧ (s.wr k v).hbs = s.hbs ∧ (s.wr k v).hbOn = s.hbOn ∧ (s.wr k v).plannedAt = s.plannedAt ∧
    (s.wr k v).declared = s.declared ∧ (s.wr k v).modLost = s.modLost ∧ (s.wr k v).peerUpAt = s.peerUpAt ∧
    (s.wr k v).scrubAt = s.scrubAt ∧ (s.wr k v).wdogs = s.wdogs ∧ (s.wr k v).halted = s.halted ∧ (s.wr k v).dictQ = s.dictQ ∧
    (s.wr k v).gws = s.gws ∧ (s.wr k v).objs = s.objs ∧ (s.wr k v).dict = s.dict ∧ (s.wr k v).i2cs = s.i2cs ∧ (s.wr k v).cans = s.cans ∧
    (s.wr k v).qspis = s.qspis ∧ (s.wr k v).dbgs = s.dbgs ∧ (s.wr k v).pccs = s.pccs ∧ (s.wr k v).hotDies = s.hotDies ∧
    (s.wr k v).faultWhy = s.faultWhy ∧ (s.wr k v).jtag = s.jtag ∧ (s.wr k v).irqSent = s.irqSent ∧ (s.wr k v).irqCopy = s.irqCopy ∧
    (s.wr k v).irqClaims = s.irqClaims ∧ (s.wr k v).kpClaims = s.kpClaims ∧ (s.wr k v).swLv = s.swLv ∧ (s.wr k v).readyAt = s.readyAt ∧
    (s.wr k v).fcReset = s.fcReset ∧ (s.wr k v).kpVer = s.kpVer ∧ (s.wr k v).kpReq = s.kpReq ∧ (s.wr k v).rstLow = s.rstLow ∧
    (s.wr k v).ubFirst = s.ubFirst ∧ (∀ j, (s.wr k v).act j = s.act j) ∧ (∀ j k2, (s.wr k v).byteAt j k2 = s.byteAt j k2) ∧
    (∀ j, (s.wr k v).timeOf j = s.timeOf j) ∧ (∀ j, (s.wr k v).i2cS j = s.i2cS j) ∧ (∀ j, (s.wr k v).pcc j = s.pcc j) ∧
    (∀ j, (s.wr k v).efS j = s.efS j) ∧ (∀ j, (s.wr k v).scrub j = s.scrub j) ∧ (∀ j k2, (s.wr k v).queue j k2 = s.queue j k2) ∧
    (∀ j k2, (s.wr k v).prod j k2 = s.prod j k2) ∧ (∀ j k2, (s.wr k v).ckS j k2 = s.ckS j k2) ∧ (∀ j, (s.wr k v).port j = s.port j) ∧
    (∀ j k2, (s.wr k v).alarm j k2 = s.alarm j k2) ∧ (∀ j, (s.wr k v).sch j = s.sch j) ∧ (∀ j, (s.wr k v).sis1 j = s.sis1 j) ∧
    (∀ j, (s.wr k v).pipe j = s.pipe j) ∧ (∀ j k2 k3, (s.wr k v).chan j k2 k3 = s.chan j k2 k3) ∧
    (∀ j k2, (s.wr k v).eng j k2 = s.eng j k2) ∧ (∀ j, (s.wr k v).ep j = s.ep j) ∧ (∀ j k2, (s.wr k v).ledger j k2 = s.ledger j k2) ∧
    (∀ j k2, (s.wr k v).modS j k2 = s.modS j k2) ∧ (∀ j, (s.wr k v).axS j = s.axS j) ∧ (∀ j, (s.wr k v).jnS j = s.jnS j) ∧
    (∀ j, (s.wr k v).huS j = s.huS j) ∧ (∀ j k2, (s.wr k v).hb j k2 = s.hb j k2) ∧ (∀ j, (s.wr k v).canS j = s.canS j) ∧
    (∀ j, (s.wr k v).qspiS j = s.qspiS j) ∧ (∀ j, (s.wr k v).dbg j = s.dbg j) ∧ (∀ j k2, (s.wr k v).swOn j k2 = s.swOn j k2) := by
  and_intros <;> intros <;> rfl

@[simp] theorem State.setAct_same (s : State) (k : Nat) (v : Word) :
    (s.setAct k v).pending = s.pending ∧ (s.setAct k v).part = s.part ∧ (s.setAct k v).cycle = s.cycle ∧ (s.setAct k v).free = s.free ∧
    (s.setAct k v).resp = s.resp ∧ (s.setAct k v).out = s.out ∧ (s.setAct k v).regs = s.regs ∧ (s.setAct k v).latches = s.latches ∧
    (s.setAct k v).mem = s.mem ∧ (s.setAct k v).lead = s.lead ∧ (s.setAct k v).times = s.times ∧ (s.setAct k v).tm = s.tm ∧
    (s.setAct k v).alarms = s.alarms ∧ (s.setAct k v).queues = s.queues ∧ (s.setAct k v).prods = s.prods ∧
    (s.setAct k v).healthLost = s.healthLost ∧ (s.setAct k v).cks = s.cks ∧ (s.setAct k v).efs = s.efs ∧ (s.setAct k v).ports = s.ports ∧
    (s.setAct k v).sis = s.sis ∧ (s.setAct k v).pipes = s.pipes ∧ (s.setAct k v).schs = s.schs ∧ (s.setAct k v).sched = s.sched ∧
    (s.setAct k v).finalC = s.finalC ∧ (s.setAct k v).cellPtr = s.cellPtr ∧ (s.setAct k v).cellMem = s.cellMem ∧
    (s.setAct k v).fences = s.fences ∧ (s.setAct k v).chans = s.chans ∧ (s.setAct k v).engs = s.engs ∧ (s.setAct k v).eps = s.eps ∧
    (s.setAct k v).ledgers = s.ledgers ∧ (s.setAct k v).epoch = s.epoch ∧ (s.setAct k v).weirOn = s.weirOn ∧
    (s.setAct k v).lostDies = s.lostDies ∧ (s.setAct k v).mods = s.mods ∧ (s.setAct k v).axes = s.axes ∧
    (s.setAct k v).relaySt = s.relaySt ∧ (s.setAct k v).relayJ = s.relayJ ∧ (s.setAct k v).jns = s.jns ∧ (s.setAct k v).hus = s.hus ∧
    (s.setAct k v).parked = s.parked ∧ (s.setAct k v).shutNormal = s.shutNormal ∧ (s.setAct k v).fcChans = s.fcChans ∧
    (s.setAct k v).restarts = s.restarts ∧ (s.setAct k v).switchAt = s.switchAt ∧ (s.setAct k v).hbs = s.hbs ∧
    (s.setAct k v).hbOn = s.hbOn ∧ (s.setAct k v).plannedAt = s.plannedAt ∧ (s.setAct k v).declared = s.declared ∧
    (s.setAct k v).modLost = s.modLost ∧ (s.setAct k v).peerUpAt = s.peerUpAt ∧ (s.setAct k v).scrubAt = s.scrubAt ∧
    (s.setAct k v).wdogs = s.wdogs ∧ (s.setAct k v).halted = s.halted ∧ (s.setAct k v).dictQ = s.dictQ ∧ (s.setAct k v).gws = s.gws ∧
    (s.setAct k v).objs = s.objs ∧ (s.setAct k v).dict = s.dict ∧ (s.setAct k v).i2cs = s.i2cs ∧ (s.setAct k v).cans = s.cans ∧
    (s.setAct k v).qspis = s.qspis ∧ (s.setAct k v).dbgs = s.dbgs ∧ (s.setAct k v).pccs = s.pccs ∧ (s.setAct k v).hotDies = s.hotDies ∧
    (s.setAct k v).faultWhy = s.faultWhy ∧ (s.setAct k v).jtag = s.jtag ∧ (s.setAct k v).irqSent = s.irqSent ∧
    (s.setAct k v).irqCopy = s.irqCopy ∧ (s.setAct k v).irqClaims = s.irqClaims ∧ (s.setAct k v).kpClaims = s.kpClaims ∧
    (s.setAct k v).swLv = s.swLv ∧ (s.setAct k v).readyAt = s.readyAt ∧ (s.setAct k v).fcReset = s.fcReset ∧
    (s.setAct k v).kpVer = s.kpVer ∧ (s.setAct k v).kpReq = s.kpReq ∧ (s.setAct k v).rstLow = s.rstLow ∧
    (s.setAct k v).ubFirst = s.ubFirst ∧ (∀ j, (s.setAct k v).rd j = s.rd j) ∧ (∀ j k2, (s.setAct k v).byteAt j k2 = s.byteAt j k2) ∧
    (∀ j, (s.setAct k v).timeOf j = s.timeOf j) ∧ (∀ j, (s.setAct k v).i2cS j = s.i2cS j) ∧ (∀ j, (s.setAct k v).pcc j = s.pcc j) ∧
    (∀ j, (s.setAct k v).efS j = s.efS j) ∧ (∀ j, (s.setAct k v).scrub j = s.scrub j) ∧
    (∀ j k2, (s.setAct k v).queue j k2 = s.queue j k2) ∧ (∀ j k2, (s.setAct k v).prod j k2 = s.prod j k2) ∧
    (∀ j k2, (s.setAct k v).ckS j k2 = s.ckS j k2) ∧ (∀ j, (s.setAct k v).port j = s.port j) ∧
    (∀ j k2, (s.setAct k v).alarm j k2 = s.alarm j k2) ∧ (∀ j, (s.setAct k v).sch j = s.sch j) ∧
    (∀ j, (s.setAct k v).sis1 j = s.sis1 j) ∧ (∀ j, (s.setAct k v).pipe j = s.pipe j) ∧
    (∀ j k2 k3, (s.setAct k v).chan j k2 k3 = s.chan j k2 k3) ∧ (∀ j k2, (s.setAct k v).eng j k2 = s.eng j k2) ∧
    (∀ j, (s.setAct k v).ep j = s.ep j) ∧ (∀ j k2, (s.setAct k v).ledger j k2 = s.ledger j k2) ∧
    (∀ j k2, (s.setAct k v).modS j k2 = s.modS j k2) ∧ (∀ j, (s.setAct k v).axS j = s.axS j) ∧ (∀ j, (s.setAct k v).jnS j = s.jnS j) ∧
    (∀ j, (s.setAct k v).huS j = s.huS j) ∧ (∀ j k2, (s.setAct k v).hb j k2 = s.hb j k2) ∧ (∀ j, (s.setAct k v).canS j = s.canS j) ∧
    (∀ j, (s.setAct k v).qspiS j = s.qspiS j) ∧ (∀ j, (s.setAct k v).dbg j = s.dbg j) ∧ (∀ j k2, (s.setAct k v).swOn j k2 = s.swOn j k2) := by
  and_intros <;> intros <;> rfl

@[simp] theorem State.latch_same (s : State) (req : Nat) (k : Nat) (v : Word) :
    (s.latch req k v).pending = s.pending ∧ (s.latch req k v).part = s.part ∧ (s.latch req k v).cycle = s.cycle ∧
    (s.latch req k v).free = s.free ∧ (s.latch req k v).resp = s.resp ∧ (s.latch req k v).out = s.out ∧ (s.latch req k v).regs = s.regs ∧
    (s.latch req k v).acts = s.acts ∧ (s.latch req k v).mem = s.mem ∧ (s.latch req k v).lead = s.lead ∧
    (s.latch req k v).times = s.times ∧ (s.latch req k v).tm = s.tm ∧ (s.latch req k v).alarms = s.alarms ∧
    (s.latch req k v).queues = s.queues ∧ (s.latch req k v).prods = s.prods ∧ (s.latch req k v).healthLost = s.healthLost ∧
    (s.latch req k v).cks = s.cks ∧ (s.latch req k v).efs = s.efs ∧ (s.latch req k v).ports = s.ports ∧ (s.latch req k v).sis = s.sis ∧
    (s.latch req k v).pipes = s.pipes ∧ (s.latch req k v).schs = s.schs ∧ (s.latch req k v).sched = s.sched ∧
    (s.latch req k v).finalC = s.finalC ∧ (s.latch req k v).cellPtr = s.cellPtr ∧ (s.latch req k v).cellMem = s.cellMem ∧
    (s.latch req k v).fences = s.fences ∧ (s.latch req k v).chans = s.chans ∧ (s.latch req k v).engs = s.engs ∧
    (s.latch req k v).eps = s.eps ∧ (s.latch req k v).ledgers = s.ledgers ∧ (s.latch req k v).epoch = s.epoch ∧
    (s.latch req k v).weirOn = s.weirOn ∧ (s.latch req k v).lostDies = s.lostDies ∧ (s.latch req k v).mods = s.mods ∧
    (s.latch req k v).axes = s.axes ∧ (s.latch req k v).relaySt = s.relaySt ∧ (s.latch req k v).relayJ = s.relayJ ∧
    (s.latch req k v).jns = s.jns ∧ (s.latch req k v).hus = s.hus ∧ (s.latch req k v).parked = s.parked ∧
    (s.latch req k v).shutNormal = s.shutNormal ∧ (s.latch req k v).fcChans = s.fcChans ∧ (s.latch req k v).restarts = s.restarts ∧
    (s.latch req k v).switchAt = s.switchAt ∧ (s.latch req k v).hbs = s.hbs ∧ (s.latch req k v).hbOn = s.hbOn ∧
    (s.latch req k v).plannedAt = s.plannedAt ∧ (s.latch req k v).declared = s.declared ∧ (s.latch req k v).modLost = s.modLost ∧
    (s.latch req k v).peerUpAt = s.peerUpAt ∧ (s.latch req k v).scrubAt = s.scrubAt ∧ (s.latch req k v).wdogs = s.wdogs ∧
    (s.latch req k v).halted = s.halted ∧ (s.latch req k v).dictQ = s.dictQ ∧ (s.latch req k v).gws = s.gws ∧
    (s.latch req k v).objs = s.objs ∧ (s.latch req k v).dict = s.dict ∧ (s.latch req k v).i2cs = s.i2cs ∧
    (s.latch req k v).cans = s.cans ∧ (s.latch req k v).qspis = s.qspis ∧ (s.latch req k v).dbgs = s.dbgs ∧
    (s.latch req k v).pccs = s.pccs ∧ (s.latch req k v).hotDies = s.hotDies ∧ (s.latch req k v).faultWhy = s.faultWhy ∧
    (s.latch req k v).jtag = s.jtag ∧ (s.latch req k v).irqSent = s.irqSent ∧ (s.latch req k v).irqCopy = s.irqCopy ∧
    (s.latch req k v).irqClaims = s.irqClaims ∧ (s.latch req k v).kpClaims = s.kpClaims ∧ (s.latch req k v).swLv = s.swLv ∧
    (s.latch req k v).readyAt = s.readyAt ∧ (s.latch req k v).fcReset = s.fcReset ∧ (s.latch req k v).kpVer = s.kpVer ∧
    (s.latch req k v).kpReq = s.kpReq ∧ (s.latch req k v).rstLow = s.rstLow ∧ (s.latch req k v).ubFirst = s.ubFirst ∧
    (∀ j, (s.latch req k v).rd j = s.rd j) ∧ (∀ j, (s.latch req k v).act j = s.act j) ∧
    (∀ j k2, (s.latch req k v).byteAt j k2 = s.byteAt j k2) ∧ (∀ j, (s.latch req k v).timeOf j = s.timeOf j) ∧
    (∀ j, (s.latch req k v).i2cS j = s.i2cS j) ∧ (∀ j, (s.latch req k v).pcc j = s.pcc j) ∧ (∀ j, (s.latch req k v).efS j = s.efS j) ∧
    (∀ j, (s.latch req k v).scrub j = s.scrub j) ∧ (∀ j k2, (s.latch req k v).queue j k2 = s.queue j k2) ∧
    (∀ j k2, (s.latch req k v).prod j k2 = s.prod j k2) ∧ (∀ j k2, (s.latch req k v).ckS j k2 = s.ckS j k2) ∧
    (∀ j, (s.latch req k v).port j = s.port j) ∧ (∀ j k2, (s.latch req k v).alarm j k2 = s.alarm j k2) ∧
    (∀ j, (s.latch req k v).sch j = s.sch j) ∧ (∀ j, (s.latch req k v).sis1 j = s.sis1 j) ∧ (∀ j, (s.latch req k v).pipe j = s.pipe j) ∧
    (∀ j k2 k3, (s.latch req k v).chan j k2 k3 = s.chan j k2 k3) ∧ (∀ j k2, (s.latch req k v).eng j k2 = s.eng j k2) ∧
    (∀ j, (s.latch req k v).ep j = s.ep j) ∧ (∀ j k2, (s.latch req k v).ledger j k2 = s.ledger j k2) ∧
    (∀ j k2, (s.latch req k v).modS j k2 = s.modS j k2) ∧ (∀ j, (s.latch req k v).axS j = s.axS j) ∧
    (∀ j, (s.latch req k v).jnS j = s.jnS j) ∧ (∀ j, (s.latch req k v).huS j = s.huS j) ∧
    (∀ j k2, (s.latch req k v).hb j k2 = s.hb j k2) ∧ (∀ j, (s.latch req k v).canS j = s.canS j) ∧
    (∀ j, (s.latch req k v).qspiS j = s.qspiS j) ∧ (∀ j, (s.latch req k v).dbg j = s.dbg j) ∧
    (∀ j k2, (s.latch req k v).swOn j k2 = s.swOn j k2) := by
  and_intros <;> intros <;> rfl

@[simp] theorem State.setByte_same (s : State) (die : Nat) (addr : Nat) (b : Byte) :
    (s.setByte die addr b).pending = s.pending ∧ (s.setByte die addr b).part = s.part ∧ (s.setByte die addr b).cycle = s.cycle ∧
    (s.setByte die addr b).free = s.free ∧ (s.setByte die addr b).resp = s.resp ∧ (s.setByte die addr b).out = s.out ∧
    (s.setByte die addr b).regs = s.regs ∧ (s.setByte die addr b).acts = s.acts ∧ (s.setByte die addr b).latches = s.latches ∧
    (s.setByte die addr b).lead = s.lead ∧ (s.setByte die addr b).times = s.times ∧ (s.setByte die addr b).tm = s.tm ∧
    (s.setByte die addr b).alarms = s.alarms ∧ (s.setByte die addr b).queues = s.queues ∧ (s.setByte die addr b).prods = s.prods ∧
    (s.setByte die addr b).healthLost = s.healthLost ∧ (s.setByte die addr b).cks = s.cks ∧ (s.setByte die addr b).efs = s.efs ∧
    (s.setByte die addr b).ports = s.ports ∧ (s.setByte die addr b).sis = s.sis ∧ (s.setByte die addr b).pipes = s.pipes ∧
    (s.setByte die addr b).schs = s.schs ∧ (s.setByte die addr b).sched = s.sched ∧ (s.setByte die addr b).finalC = s.finalC ∧
    (s.setByte die addr b).cellPtr = s.cellPtr ∧ (s.setByte die addr b).cellMem = s.cellMem ∧ (s.setByte die addr b).fences = s.fences ∧
    (s.setByte die addr b).chans = s.chans ∧ (s.setByte die addr b).engs = s.engs ∧ (s.setByte die addr b).eps = s.eps ∧
    (s.setByte die addr b).ledgers = s.ledgers ∧ (s.setByte die addr b).epoch = s.epoch ∧ (s.setByte die addr b).weirOn = s.weirOn ∧
    (s.setByte die addr b).lostDies = s.lostDies ∧ (s.setByte die addr b).mods = s.mods ∧ (s.setByte die addr b).axes = s.axes ∧
    (s.setByte die addr b).relaySt = s.relaySt ∧ (s.setByte die addr b).relayJ = s.relayJ ∧ (s.setByte die addr b).jns = s.jns ∧
    (s.setByte die addr b).hus = s.hus ∧ (s.setByte die addr b).parked = s.parked ∧ (s.setByte die addr b).shutNormal = s.shutNormal ∧
    (s.setByte die addr b).fcChans = s.fcChans ∧ (s.setByte die addr b).restarts = s.restarts ∧
    (s.setByte die addr b).switchAt = s.switchAt ∧ (s.setByte die addr b).hbs = s.hbs ∧ (s.setByte die addr b).hbOn = s.hbOn ∧
    (s.setByte die addr b).plannedAt = s.plannedAt ∧ (s.setByte die addr b).declared = s.declared ∧
    (s.setByte die addr b).modLost = s.modLost ∧ (s.setByte die addr b).peerUpAt = s.peerUpAt ∧
    (s.setByte die addr b).scrubAt = s.scrubAt ∧ (s.setByte die addr b).wdogs = s.wdogs ∧ (s.setByte die addr b).halted = s.halted ∧
    (s.setByte die addr b).dictQ = s.dictQ ∧ (s.setByte die addr b).gws = s.gws ∧ (s.setByte die addr b).objs = s.objs ∧
    (s.setByte die addr b).dict = s.dict ∧ (s.setByte die addr b).i2cs = s.i2cs ∧ (s.setByte die addr b).cans = s.cans ∧
    (s.setByte die addr b).qspis = s.qspis ∧ (s.setByte die addr b).dbgs = s.dbgs ∧ (s.setByte die addr b).pccs = s.pccs ∧
    (s.setByte die addr b).hotDies = s.hotDies ∧ (s.setByte die addr b).faultWhy = s.faultWhy ∧ (s.setByte die addr b).jtag = s.jtag ∧
    (s.setByte die addr b).irqSent = s.irqSent ∧ (s.setByte die addr b).irqCopy = s.irqCopy ∧
    (s.setByte die addr b).irqClaims = s.irqClaims ∧ (s.setByte die addr b).kpClaims = s.kpClaims ∧
    (s.setByte die addr b).swLv = s.swLv ∧ (s.setByte die addr b).readyAt = s.readyAt ∧ (s.setByte die addr b).fcReset = s.fcReset ∧
    (s.setByte die addr b).kpVer = s.kpVer ∧ (s.setByte die addr b).kpReq = s.kpReq ∧ (s.setByte die addr b).rstLow = s.rstLow ∧
    (s.setByte die addr b).ubFirst = s.ubFirst ∧ (∀ j, (s.setByte die addr b).rd j = s.rd j) ∧
    (∀ j, (s.setByte die addr b).act j = s.act j) ∧ (∀ j, (s.setByte die addr b).timeOf j = s.timeOf j) ∧
    (∀ j, (s.setByte die addr b).i2cS j = s.i2cS j) ∧ (∀ j, (s.setByte die addr b).pcc j = s.pcc j) ∧
    (∀ j, (s.setByte die addr b).efS j = s.efS j) ∧ (∀ j, (s.setByte die addr b).scrub j = s.scrub j) ∧
    (∀ j k2, (s.setByte die addr b).queue j k2 = s.queue j k2) ∧ (∀ j k2, (s.setByte die addr b).prod j k2 = s.prod j k2) ∧
    (∀ j k2, (s.setByte die addr b).ckS j k2 = s.ckS j k2) ∧ (∀ j, (s.setByte die addr b).port j = s.port j) ∧
    (∀ j k2, (s.setByte die addr b).alarm j k2 = s.alarm j k2) ∧ (∀ j, (s.setByte die addr b).sch j = s.sch j) ∧
    (∀ j, (s.setByte die addr b).sis1 j = s.sis1 j) ∧ (∀ j, (s.setByte die addr b).pipe j = s.pipe j) ∧
    (∀ j k2 k3, (s.setByte die addr b).chan j k2 k3 = s.chan j k2 k3) ∧ (∀ j k2, (s.setByte die addr b).eng j k2 = s.eng j k2) ∧
    (∀ j, (s.setByte die addr b).ep j = s.ep j) ∧ (∀ j k2, (s.setByte die addr b).ledger j k2 = s.ledger j k2) ∧
    (∀ j k2, (s.setByte die addr b).modS j k2 = s.modS j k2) ∧ (∀ j, (s.setByte die addr b).axS j = s.axS j) ∧
    (∀ j, (s.setByte die addr b).jnS j = s.jnS j) ∧ (∀ j, (s.setByte die addr b).huS j = s.huS j) ∧
    (∀ j k2, (s.setByte die addr b).hb j k2 = s.hb j k2) ∧ (∀ j, (s.setByte die addr b).canS j = s.canS j) ∧
    (∀ j, (s.setByte die addr b).qspiS j = s.qspiS j) ∧ (∀ j, (s.setByte die addr b).dbg j = s.dbg j) ∧
    (∀ j k2, (s.setByte die addr b).swOn j k2 = s.swOn j k2) := by
  and_intros <;> intros <;> rfl

@[simp] theorem State.respond_same (s : State) (r : Resp) :
    (s.respond r).pending = s.pending ∧ (s.respond r).part = s.part ∧ (s.respond r).cycle = s.cycle ∧ (s.respond r).free = s.free ∧
    (s.respond r).out = s.out ∧ (s.respond r).regs = s.regs ∧ (s.respond r).acts = s.acts ∧ (s.respond r).latches = s.latches ∧
    (s.respond r).mem = s.mem ∧ (s.respond r).lead = s.lead ∧ (s.respond r).times = s.times ∧ (s.respond r).tm = s.tm ∧
    (s.respond r).alarms = s.alarms ∧ (s.respond r).queues = s.queues ∧ (s.respond r).prods = s.prods ∧
    (s.respond r).healthLost = s.healthLost ∧ (s.respond r).cks = s.cks ∧ (s.respond r).efs = s.efs ∧ (s.respond r).ports = s.ports ∧
    (s.respond r).sis = s.sis ∧ (s.respond r).pipes = s.pipes ∧ (s.respond r).schs = s.schs ∧ (s.respond r).sched = s.sched ∧
    (s.respond r).finalC = s.finalC ∧ (s.respond r).cellPtr = s.cellPtr ∧ (s.respond r).cellMem = s.cellMem ∧
    (s.respond r).fences = s.fences ∧ (s.respond r).chans = s.chans ∧ (s.respond r).engs = s.engs ∧ (s.respond r).eps = s.eps ∧
    (s.respond r).ledgers = s.ledgers ∧ (s.respond r).epoch = s.epoch ∧ (s.respond r).weirOn = s.weirOn ∧
    (s.respond r).lostDies = s.lostDies ∧ (s.respond r).mods = s.mods ∧ (s.respond r).axes = s.axes ∧ (s.respond r).relaySt = s.relaySt ∧
    (s.respond r).relayJ = s.relayJ ∧ (s.respond r).jns = s.jns ∧ (s.respond r).hus = s.hus ∧ (s.respond r).parked = s.parked ∧
    (s.respond r).shutNormal = s.shutNormal ∧ (s.respond r).fcChans = s.fcChans ∧ (s.respond r).restarts = s.restarts ∧
    (s.respond r).switchAt = s.switchAt ∧ (s.respond r).hbs = s.hbs ∧ (s.respond r).hbOn = s.hbOn ∧
    (s.respond r).plannedAt = s.plannedAt ∧ (s.respond r).declared = s.declared ∧ (s.respond r).modLost = s.modLost ∧
    (s.respond r).peerUpAt = s.peerUpAt ∧ (s.respond r).scrubAt = s.scrubAt ∧ (s.respond r).wdogs = s.wdogs ∧
    (s.respond r).halted = s.halted ∧ (s.respond r).dictQ = s.dictQ ∧ (s.respond r).gws = s.gws ∧ (s.respond r).objs = s.objs ∧
    (s.respond r).dict = s.dict ∧ (s.respond r).i2cs = s.i2cs ∧ (s.respond r).cans = s.cans ∧ (s.respond r).qspis = s.qspis ∧
    (s.respond r).dbgs = s.dbgs ∧ (s.respond r).pccs = s.pccs ∧ (s.respond r).hotDies = s.hotDies ∧ (s.respond r).faultWhy = s.faultWhy ∧
    (s.respond r).jtag = s.jtag ∧ (s.respond r).irqSent = s.irqSent ∧ (s.respond r).irqCopy = s.irqCopy ∧
    (s.respond r).irqClaims = s.irqClaims ∧ (s.respond r).kpClaims = s.kpClaims ∧ (s.respond r).swLv = s.swLv ∧
    (s.respond r).readyAt = s.readyAt ∧ (s.respond r).fcReset = s.fcReset ∧ (s.respond r).kpVer = s.kpVer ∧
    (s.respond r).kpReq = s.kpReq ∧ (s.respond r).rstLow = s.rstLow ∧ (s.respond r).ubFirst = s.ubFirst ∧
    (∀ j, (s.respond r).rd j = s.rd j) ∧ (∀ j, (s.respond r).act j = s.act j) ∧ (∀ j k2, (s.respond r).byteAt j k2 = s.byteAt j k2) ∧
    (∀ j, (s.respond r).timeOf j = s.timeOf j) ∧ (∀ j, (s.respond r).i2cS j = s.i2cS j) ∧ (∀ j, (s.respond r).pcc j = s.pcc j) ∧
    (∀ j, (s.respond r).efS j = s.efS j) ∧ (∀ j, (s.respond r).scrub j = s.scrub j) ∧ (∀ j k2, (s.respond r).queue j k2 = s.queue j k2) ∧
    (∀ j k2, (s.respond r).prod j k2 = s.prod j k2) ∧ (∀ j k2, (s.respond r).ckS j k2 = s.ckS j k2) ∧
    (∀ j, (s.respond r).port j = s.port j) ∧ (∀ j k2, (s.respond r).alarm j k2 = s.alarm j k2) ∧ (∀ j, (s.respond r).sch j = s.sch j) ∧
    (∀ j, (s.respond r).sis1 j = s.sis1 j) ∧ (∀ j, (s.respond r).pipe j = s.pipe j) ∧
    (∀ j k2 k3, (s.respond r).chan j k2 k3 = s.chan j k2 k3) ∧ (∀ j k2, (s.respond r).eng j k2 = s.eng j k2) ∧
    (∀ j, (s.respond r).ep j = s.ep j) ∧ (∀ j k2, (s.respond r).ledger j k2 = s.ledger j k2) ∧
    (∀ j k2, (s.respond r).modS j k2 = s.modS j k2) ∧ (∀ j, (s.respond r).axS j = s.axS j) ∧ (∀ j, (s.respond r).jnS j = s.jnS j) ∧
    (∀ j, (s.respond r).huS j = s.huS j) ∧ (∀ j k2, (s.respond r).hb j k2 = s.hb j k2) ∧ (∀ j, (s.respond r).canS j = s.canS j) ∧
    (∀ j, (s.respond r).qspiS j = s.qspiS j) ∧ (∀ j, (s.respond r).dbg j = s.dbg j) ∧ (∀ j k2, (s.respond r).swOn j k2 = s.swOn j k2) := by
  and_intros <;> intros <;> rfl

@[simp] theorem State.emit_same (s : State) (k : OutKind) (unit : Nat) (data : List Nat) :
    (s.emit k unit data).pending = s.pending ∧ (s.emit k unit data).part = s.part ∧ (s.emit k unit data).cycle = s.cycle ∧
    (s.emit k unit data).free = s.free ∧ (s.emit k unit data).resp = s.resp ∧ (s.emit k unit data).regs = s.regs ∧
    (s.emit k unit data).acts = s.acts ∧ (s.emit k unit data).latches = s.latches ∧ (s.emit k unit data).mem = s.mem ∧
    (s.emit k unit data).lead = s.lead ∧ (s.emit k unit data).times = s.times ∧ (s.emit k unit data).tm = s.tm ∧
    (s.emit k unit data).alarms = s.alarms ∧ (s.emit k unit data).queues = s.queues ∧ (s.emit k unit data).prods = s.prods ∧
    (s.emit k unit data).healthLost = s.healthLost ∧ (s.emit k unit data).cks = s.cks ∧ (s.emit k unit data).efs = s.efs ∧
    (s.emit k unit data).ports = s.ports ∧ (s.emit k unit data).sis = s.sis ∧ (s.emit k unit data).pipes = s.pipes ∧
    (s.emit k unit data).schs = s.schs ∧ (s.emit k unit data).sched = s.sched ∧ (s.emit k unit data).finalC = s.finalC ∧
    (s.emit k unit data).cellPtr = s.cellPtr ∧ (s.emit k unit data).cellMem = s.cellMem ∧ (s.emit k unit data).fences = s.fences ∧
    (s.emit k unit data).chans = s.chans ∧ (s.emit k unit data).engs = s.engs ∧ (s.emit k unit data).eps = s.eps ∧
    (s.emit k unit data).ledgers = s.ledgers ∧ (s.emit k unit data).epoch = s.epoch ∧ (s.emit k unit data).weirOn = s.weirOn ∧
    (s.emit k unit data).lostDies = s.lostDies ∧ (s.emit k unit data).mods = s.mods ∧ (s.emit k unit data).axes = s.axes ∧
    (s.emit k unit data).relaySt = s.relaySt ∧ (s.emit k unit data).relayJ = s.relayJ ∧ (s.emit k unit data).jns = s.jns ∧
    (s.emit k unit data).hus = s.hus ∧ (s.emit k unit data).parked = s.parked ∧ (s.emit k unit data).shutNormal = s.shutNormal ∧
    (s.emit k unit data).fcChans = s.fcChans ∧ (s.emit k unit data).restarts = s.restarts ∧ (s.emit k unit data).switchAt = s.switchAt ∧
    (s.emit k unit data).hbs = s.hbs ∧ (s.emit k unit data).hbOn = s.hbOn ∧ (s.emit k unit data).plannedAt = s.plannedAt ∧
    (s.emit k unit data).declared = s.declared ∧ (s.emit k unit data).modLost = s.modLost ∧ (s.emit k unit data).peerUpAt = s.peerUpAt ∧
    (s.emit k unit data).scrubAt = s.scrubAt ∧ (s.emit k unit data).wdogs = s.wdogs ∧ (s.emit k unit data).halted = s.halted ∧
    (s.emit k unit data).dictQ = s.dictQ ∧ (s.emit k unit data).gws = s.gws ∧ (s.emit k unit data).objs = s.objs ∧
    (s.emit k unit data).dict = s.dict ∧ (s.emit k unit data).i2cs = s.i2cs ∧ (s.emit k unit data).cans = s.cans ∧
    (s.emit k unit data).qspis = s.qspis ∧ (s.emit k unit data).dbgs = s.dbgs ∧ (s.emit k unit data).pccs = s.pccs ∧
    (s.emit k unit data).hotDies = s.hotDies ∧ (s.emit k unit data).faultWhy = s.faultWhy ∧ (s.emit k unit data).jtag = s.jtag ∧
    (s.emit k unit data).irqSent = s.irqSent ∧ (s.emit k unit data).irqCopy = s.irqCopy ∧ (s.emit k unit data).irqClaims = s.irqClaims ∧
    (s.emit k unit data).kpClaims = s.kpClaims ∧ (s.emit k unit data).swLv = s.swLv ∧ (s.emit k unit data).readyAt = s.readyAt ∧
    (s.emit k unit data).fcReset = s.fcReset ∧ (s.emit k unit data).kpVer = s.kpVer ∧ (s.emit k unit data).kpReq = s.kpReq ∧
    (s.emit k unit data).rstLow = s.rstLow ∧ (s.emit k unit data).ubFirst = s.ubFirst ∧ (∀ j, (s.emit k unit data).rd j = s.rd j) ∧
    (∀ j, (s.emit k unit data).act j = s.act j) ∧ (∀ j k2, (s.emit k unit data).byteAt j k2 = s.byteAt j k2) ∧
    (∀ j, (s.emit k unit data).timeOf j = s.timeOf j) ∧ (∀ j, (s.emit k unit data).i2cS j = s.i2cS j) ∧
    (∀ j, (s.emit k unit data).pcc j = s.pcc j) ∧ (∀ j, (s.emit k unit data).efS j = s.efS j) ∧
    (∀ j, (s.emit k unit data).scrub j = s.scrub j) ∧ (∀ j k2, (s.emit k unit data).queue j k2 = s.queue j k2) ∧
    (∀ j k2, (s.emit k unit data).prod j k2 = s.prod j k2) ∧ (∀ j k2, (s.emit k unit data).ckS j k2 = s.ckS j k2) ∧
    (∀ j, (s.emit k unit data).port j = s.port j) ∧ (∀ j k2, (s.emit k unit data).alarm j k2 = s.alarm j k2) ∧
    (∀ j, (s.emit k unit data).sch j = s.sch j) ∧ (∀ j, (s.emit k unit data).sis1 j = s.sis1 j) ∧
    (∀ j, (s.emit k unit data).pipe j = s.pipe j) ∧ (∀ j k2 k3, (s.emit k unit data).chan j k2 k3 = s.chan j k2 k3) ∧
    (∀ j k2, (s.emit k unit data).eng j k2 = s.eng j k2) ∧ (∀ j, (s.emit k unit data).ep j = s.ep j) ∧
    (∀ j k2, (s.emit k unit data).ledger j k2 = s.ledger j k2) ∧ (∀ j k2, (s.emit k unit data).modS j k2 = s.modS j k2) ∧
    (∀ j, (s.emit k unit data).axS j = s.axS j) ∧ (∀ j, (s.emit k unit data).jnS j = s.jnS j) ∧
    (∀ j, (s.emit k unit data).huS j = s.huS j) ∧ (∀ j k2, (s.emit k unit data).hb j k2 = s.hb j k2) ∧
    (∀ j, (s.emit k unit data).canS j = s.canS j) ∧ (∀ j, (s.emit k unit data).qspiS j = s.qspiS j) ∧
    (∀ j, (s.emit k unit data).dbg j = s.dbg j) ∧ (∀ j k2, (s.emit k unit data).swOn j k2 = s.swOn j k2) := by
  and_intros <;> intros <;> rfl

@[simp] theorem State.skipFree_same (s : State) (n : Nat) :
    (s.skipFree n).pending = s.pending ∧ (s.skipFree n).part = s.part ∧ (s.skipFree n).cycle = s.cycle ∧ (s.skipFree n).resp = s.resp ∧
    (s.skipFree n).out = s.out ∧ (s.skipFree n).regs = s.regs ∧ (s.skipFree n).acts = s.acts ∧ (s.skipFree n).latches = s.latches ∧
    (s.skipFree n).mem = s.mem ∧ (s.skipFree n).lead = s.lead ∧ (s.skipFree n).times = s.times ∧ (s.skipFree n).tm = s.tm ∧
    (s.skipFree n).alarms = s.alarms ∧ (s.skipFree n).queues = s.queues ∧ (s.skipFree n).prods = s.prods ∧
    (s.skipFree n).healthLost = s.healthLost ∧ (s.skipFree n).cks = s.cks ∧ (s.skipFree n).efs = s.efs ∧ (s.skipFree n).ports = s.ports ∧
    (s.skipFree n).sis = s.sis ∧ (s.skipFree n).pipes = s.pipes ∧ (s.skipFree n).schs = s.schs ∧ (s.skipFree n).sched = s.sched ∧
    (s.skipFree n).finalC = s.finalC ∧ (s.skipFree n).cellPtr = s.cellPtr ∧ (s.skipFree n).cellMem = s.cellMem ∧
    (s.skipFree n).fences = s.fences ∧ (s.skipFree n).chans = s.chans ∧ (s.skipFree n).engs = s.engs ∧ (s.skipFree n).eps = s.eps ∧
    (s.skipFree n).ledgers = s.ledgers ∧ (s.skipFree n).epoch = s.epoch ∧ (s.skipFree n).weirOn = s.weirOn ∧
    (s.skipFree n).lostDies = s.lostDies ∧ (s.skipFree n).mods = s.mods ∧ (s.skipFree n).axes = s.axes ∧
    (s.skipFree n).relaySt = s.relaySt ∧ (s.skipFree n).relayJ = s.relayJ ∧ (s.skipFree n).jns = s.jns ∧ (s.skipFree n).hus = s.hus ∧
    (s.skipFree n).parked = s.parked ∧ (s.skipFree n).shutNormal = s.shutNormal ∧ (s.skipFree n).fcChans = s.fcChans ∧
    (s.skipFree n).restarts = s.restarts ∧ (s.skipFree n).switchAt = s.switchAt ∧ (s.skipFree n).hbs = s.hbs ∧
    (s.skipFree n).hbOn = s.hbOn ∧ (s.skipFree n).plannedAt = s.plannedAt ∧ (s.skipFree n).declared = s.declared ∧
    (s.skipFree n).modLost = s.modLost ∧ (s.skipFree n).peerUpAt = s.peerUpAt ∧ (s.skipFree n).scrubAt = s.scrubAt ∧
    (s.skipFree n).wdogs = s.wdogs ∧ (s.skipFree n).halted = s.halted ∧ (s.skipFree n).dictQ = s.dictQ ∧ (s.skipFree n).gws = s.gws ∧
    (s.skipFree n).objs = s.objs ∧ (s.skipFree n).dict = s.dict ∧ (s.skipFree n).i2cs = s.i2cs ∧ (s.skipFree n).cans = s.cans ∧
    (s.skipFree n).qspis = s.qspis ∧ (s.skipFree n).dbgs = s.dbgs ∧ (s.skipFree n).pccs = s.pccs ∧ (s.skipFree n).hotDies = s.hotDies ∧
    (s.skipFree n).faultWhy = s.faultWhy ∧ (s.skipFree n).jtag = s.jtag ∧ (s.skipFree n).irqSent = s.irqSent ∧
    (s.skipFree n).irqCopy = s.irqCopy ∧ (s.skipFree n).irqClaims = s.irqClaims ∧ (s.skipFree n).kpClaims = s.kpClaims ∧
    (s.skipFree n).swLv = s.swLv ∧ (s.skipFree n).readyAt = s.readyAt ∧ (s.skipFree n).fcReset = s.fcReset ∧
    (s.skipFree n).kpVer = s.kpVer ∧ (s.skipFree n).kpReq = s.kpReq ∧ (s.skipFree n).rstLow = s.rstLow ∧
    (s.skipFree n).ubFirst = s.ubFirst ∧ (∀ j, (s.skipFree n).rd j = s.rd j) ∧ (∀ j, (s.skipFree n).act j = s.act j) ∧
    (∀ j k2, (s.skipFree n).byteAt j k2 = s.byteAt j k2) ∧ (∀ j, (s.skipFree n).timeOf j = s.timeOf j) ∧
    (∀ j, (s.skipFree n).i2cS j = s.i2cS j) ∧ (∀ j, (s.skipFree n).pcc j = s.pcc j) ∧ (∀ j, (s.skipFree n).efS j = s.efS j) ∧
    (∀ j, (s.skipFree n).scrub j = s.scrub j) ∧ (∀ j k2, (s.skipFree n).queue j k2 = s.queue j k2) ∧
    (∀ j k2, (s.skipFree n).prod j k2 = s.prod j k2) ∧ (∀ j k2, (s.skipFree n).ckS j k2 = s.ckS j k2) ∧
    (∀ j, (s.skipFree n).port j = s.port j) ∧ (∀ j k2, (s.skipFree n).alarm j k2 = s.alarm j k2) ∧
    (∀ j, (s.skipFree n).sch j = s.sch j) ∧ (∀ j, (s.skipFree n).sis1 j = s.sis1 j) ∧ (∀ j, (s.skipFree n).pipe j = s.pipe j) ∧
    (∀ j k2 k3, (s.skipFree n).chan j k2 k3 = s.chan j k2 k3) ∧ (∀ j k2, (s.skipFree n).eng j k2 = s.eng j k2) ∧
    (∀ j, (s.skipFree n).ep j = s.ep j) ∧ (∀ j k2, (s.skipFree n).ledger j k2 = s.ledger j k2) ∧
    (∀ j k2, (s.skipFree n).modS j k2 = s.modS j k2) ∧ (∀ j, (s.skipFree n).axS j = s.axS j) ∧ (∀ j, (s.skipFree n).jnS j = s.jnS j) ∧
    (∀ j, (s.skipFree n).huS j = s.huS j) ∧ (∀ j k2, (s.skipFree n).hb j k2 = s.hb j k2) ∧ (∀ j, (s.skipFree n).canS j = s.canS j) ∧
    (∀ j, (s.skipFree n).qspiS j = s.qspiS j) ∧ (∀ j, (s.skipFree n).dbg j = s.dbg j) ∧ (∀ j k2, (s.skipFree n).swOn j k2 = s.swOn j k2) := by
  and_intros <;> intros <;> rfl

@[simp] theorem State.setTime_same (s : State) (die : Nat) (t : DieTime) :
    (s.setTime die t).pending = s.pending ∧ (s.setTime die t).part = s.part ∧ (s.setTime die t).cycle = s.cycle ∧
    (s.setTime die t).free = s.free ∧ (s.setTime die t).resp = s.resp ∧ (s.setTime die t).out = s.out ∧ (s.setTime die t).regs = s.regs ∧
    (s.setTime die t).acts = s.acts ∧ (s.setTime die t).latches = s.latches ∧ (s.setTime die t).mem = s.mem ∧
    (s.setTime die t).lead = s.lead ∧ (s.setTime die t).tm = s.tm ∧ (s.setTime die t).alarms = s.alarms ∧
    (s.setTime die t).queues = s.queues ∧ (s.setTime die t).prods = s.prods ∧ (s.setTime die t).healthLost = s.healthLost ∧
    (s.setTime die t).cks = s.cks ∧ (s.setTime die t).efs = s.efs ∧ (s.setTime die t).ports = s.ports ∧ (s.setTime die t).sis = s.sis ∧
    (s.setTime die t).pipes = s.pipes ∧ (s.setTime die t).schs = s.schs ∧ (s.setTime die t).sched = s.sched ∧
    (s.setTime die t).finalC = s.finalC ∧ (s.setTime die t).cellPtr = s.cellPtr ∧ (s.setTime die t).cellMem = s.cellMem ∧
    (s.setTime die t).fences = s.fences ∧ (s.setTime die t).chans = s.chans ∧ (s.setTime die t).engs = s.engs ∧
    (s.setTime die t).eps = s.eps ∧ (s.setTime die t).ledgers = s.ledgers ∧ (s.setTime die t).epoch = s.epoch ∧
    (s.setTime die t).weirOn = s.weirOn ∧ (s.setTime die t).lostDies = s.lostDies ∧ (s.setTime die t).mods = s.mods ∧
    (s.setTime die t).axes = s.axes ∧ (s.setTime die t).relaySt = s.relaySt ∧ (s.setTime die t).relayJ = s.relayJ ∧
    (s.setTime die t).jns = s.jns ∧ (s.setTime die t).hus = s.hus ∧ (s.setTime die t).parked = s.parked ∧
    (s.setTime die t).shutNormal = s.shutNormal ∧ (s.setTime die t).fcChans = s.fcChans ∧ (s.setTime die t).restarts = s.restarts ∧
    (s.setTime die t).switchAt = s.switchAt ∧ (s.setTime die t).hbs = s.hbs ∧ (s.setTime die t).hbOn = s.hbOn ∧
    (s.setTime die t).plannedAt = s.plannedAt ∧ (s.setTime die t).declared = s.declared ∧ (s.setTime die t).modLost = s.modLost ∧
    (s.setTime die t).peerUpAt = s.peerUpAt ∧ (s.setTime die t).scrubAt = s.scrubAt ∧ (s.setTime die t).wdogs = s.wdogs ∧
    (s.setTime die t).halted = s.halted ∧ (s.setTime die t).dictQ = s.dictQ ∧ (s.setTime die t).gws = s.gws ∧
    (s.setTime die t).objs = s.objs ∧ (s.setTime die t).dict = s.dict ∧ (s.setTime die t).i2cs = s.i2cs ∧
    (s.setTime die t).cans = s.cans ∧ (s.setTime die t).qspis = s.qspis ∧ (s.setTime die t).dbgs = s.dbgs ∧
    (s.setTime die t).pccs = s.pccs ∧ (s.setTime die t).hotDies = s.hotDies ∧ (s.setTime die t).faultWhy = s.faultWhy ∧
    (s.setTime die t).jtag = s.jtag ∧ (s.setTime die t).irqSent = s.irqSent ∧ (s.setTime die t).irqCopy = s.irqCopy ∧
    (s.setTime die t).irqClaims = s.irqClaims ∧ (s.setTime die t).kpClaims = s.kpClaims ∧ (s.setTime die t).swLv = s.swLv ∧
    (s.setTime die t).readyAt = s.readyAt ∧ (s.setTime die t).fcReset = s.fcReset ∧ (s.setTime die t).kpVer = s.kpVer ∧
    (s.setTime die t).kpReq = s.kpReq ∧ (s.setTime die t).rstLow = s.rstLow ∧ (s.setTime die t).ubFirst = s.ubFirst ∧
    (∀ j, (s.setTime die t).rd j = s.rd j) ∧ (∀ j, (s.setTime die t).act j = s.act j) ∧
    (∀ j k2, (s.setTime die t).byteAt j k2 = s.byteAt j k2) ∧ (∀ j, (s.setTime die t).i2cS j = s.i2cS j) ∧
    (∀ j, (s.setTime die t).pcc j = s.pcc j) ∧ (∀ j, (s.setTime die t).efS j = s.efS j) ∧ (∀ j, (s.setTime die t).scrub j = s.scrub j) ∧
    (∀ j k2, (s.setTime die t).queue j k2 = s.queue j k2) ∧ (∀ j k2, (s.setTime die t).prod j k2 = s.prod j k2) ∧
    (∀ j k2, (s.setTime die t).ckS j k2 = s.ckS j k2) ∧ (∀ j, (s.setTime die t).port j = s.port j) ∧
    (∀ j k2, (s.setTime die t).alarm j k2 = s.alarm j k2) ∧ (∀ j, (s.setTime die t).sch j = s.sch j) ∧
    (∀ j, (s.setTime die t).sis1 j = s.sis1 j) ∧ (∀ j, (s.setTime die t).pipe j = s.pipe j) ∧
    (∀ j k2 k3, (s.setTime die t).chan j k2 k3 = s.chan j k2 k3) ∧ (∀ j k2, (s.setTime die t).eng j k2 = s.eng j k2) ∧
    (∀ j, (s.setTime die t).ep j = s.ep j) ∧ (∀ j k2, (s.setTime die t).ledger j k2 = s.ledger j k2) ∧
    (∀ j k2, (s.setTime die t).modS j k2 = s.modS j k2) ∧ (∀ j, (s.setTime die t).axS j = s.axS j) ∧
    (∀ j, (s.setTime die t).jnS j = s.jnS j) ∧ (∀ j, (s.setTime die t).huS j = s.huS j) ∧
    (∀ j k2, (s.setTime die t).hb j k2 = s.hb j k2) ∧ (∀ j, (s.setTime die t).canS j = s.canS j) ∧
    (∀ j, (s.setTime die t).qspiS j = s.qspiS j) ∧ (∀ j, (s.setTime die t).dbg j = s.dbg j) ∧
    (∀ j k2, (s.setTime die t).swOn j k2 = s.swOn j k2) := by
  and_intros <;> intros <;> rfl

@[simp] theorem State.setTm_same (s : State) (t : TimeS) :
    (s.setTm t).pending = s.pending ∧ (s.setTm t).part = s.part ∧ (s.setTm t).cycle = s.cycle ∧ (s.setTm t).free = s.free ∧
    (s.setTm t).resp = s.resp ∧ (s.setTm t).out = s.out ∧ (s.setTm t).regs = s.regs ∧ (s.setTm t).acts = s.acts ∧
    (s.setTm t).latches = s.latches ∧ (s.setTm t).mem = s.mem ∧ (s.setTm t).lead = s.lead ∧ (s.setTm t).times = s.times ∧
    (s.setTm t).alarms = s.alarms ∧ (s.setTm t).queues = s.queues ∧ (s.setTm t).prods = s.prods ∧ (s.setTm t).healthLost = s.healthLost ∧
    (s.setTm t).cks = s.cks ∧ (s.setTm t).efs = s.efs ∧ (s.setTm t).ports = s.ports ∧ (s.setTm t).sis = s.sis ∧
    (s.setTm t).pipes = s.pipes ∧ (s.setTm t).schs = s.schs ∧ (s.setTm t).sched = s.sched ∧ (s.setTm t).finalC = s.finalC ∧
    (s.setTm t).cellPtr = s.cellPtr ∧ (s.setTm t).cellMem = s.cellMem ∧ (s.setTm t).fences = s.fences ∧ (s.setTm t).chans = s.chans ∧
    (s.setTm t).engs = s.engs ∧ (s.setTm t).eps = s.eps ∧ (s.setTm t).ledgers = s.ledgers ∧ (s.setTm t).epoch = s.epoch ∧
    (s.setTm t).weirOn = s.weirOn ∧ (s.setTm t).lostDies = s.lostDies ∧ (s.setTm t).mods = s.mods ∧ (s.setTm t).axes = s.axes ∧
    (s.setTm t).relaySt = s.relaySt ∧ (s.setTm t).relayJ = s.relayJ ∧ (s.setTm t).jns = s.jns ∧ (s.setTm t).hus = s.hus ∧
    (s.setTm t).parked = s.parked ∧ (s.setTm t).shutNormal = s.shutNormal ∧ (s.setTm t).fcChans = s.fcChans ∧
    (s.setTm t).restarts = s.restarts ∧ (s.setTm t).switchAt = s.switchAt ∧ (s.setTm t).hbs = s.hbs ∧ (s.setTm t).hbOn = s.hbOn ∧
    (s.setTm t).plannedAt = s.plannedAt ∧ (s.setTm t).declared = s.declared ∧ (s.setTm t).modLost = s.modLost ∧
    (s.setTm t).peerUpAt = s.peerUpAt ∧ (s.setTm t).scrubAt = s.scrubAt ∧ (s.setTm t).wdogs = s.wdogs ∧ (s.setTm t).halted = s.halted ∧
    (s.setTm t).dictQ = s.dictQ ∧ (s.setTm t).gws = s.gws ∧ (s.setTm t).objs = s.objs ∧ (s.setTm t).dict = s.dict ∧
    (s.setTm t).i2cs = s.i2cs ∧ (s.setTm t).cans = s.cans ∧ (s.setTm t).qspis = s.qspis ∧ (s.setTm t).dbgs = s.dbgs ∧
    (s.setTm t).pccs = s.pccs ∧ (s.setTm t).hotDies = s.hotDies ∧ (s.setTm t).faultWhy = s.faultWhy ∧ (s.setTm t).jtag = s.jtag ∧
    (s.setTm t).irqSent = s.irqSent ∧ (s.setTm t).irqCopy = s.irqCopy ∧ (s.setTm t).irqClaims = s.irqClaims ∧
    (s.setTm t).kpClaims = s.kpClaims ∧ (s.setTm t).swLv = s.swLv ∧ (s.setTm t).readyAt = s.readyAt ∧ (s.setTm t).fcReset = s.fcReset ∧
    (s.setTm t).kpVer = s.kpVer ∧ (s.setTm t).kpReq = s.kpReq ∧ (s.setTm t).rstLow = s.rstLow ∧ (s.setTm t).ubFirst = s.ubFirst ∧
    (∀ j, (s.setTm t).rd j = s.rd j) ∧ (∀ j, (s.setTm t).act j = s.act j) ∧ (∀ j k2, (s.setTm t).byteAt j k2 = s.byteAt j k2) ∧
    (∀ j, (s.setTm t).timeOf j = s.timeOf j) ∧ (∀ j, (s.setTm t).i2cS j = s.i2cS j) ∧ (∀ j, (s.setTm t).pcc j = s.pcc j) ∧
    (∀ j, (s.setTm t).efS j = s.efS j) ∧ (∀ j, (s.setTm t).scrub j = s.scrub j) ∧ (∀ j k2, (s.setTm t).queue j k2 = s.queue j k2) ∧
    (∀ j k2, (s.setTm t).prod j k2 = s.prod j k2) ∧ (∀ j k2, (s.setTm t).ckS j k2 = s.ckS j k2) ∧ (∀ j, (s.setTm t).port j = s.port j) ∧
    (∀ j k2, (s.setTm t).alarm j k2 = s.alarm j k2) ∧ (∀ j, (s.setTm t).sch j = s.sch j) ∧ (∀ j, (s.setTm t).sis1 j = s.sis1 j) ∧
    (∀ j, (s.setTm t).pipe j = s.pipe j) ∧ (∀ j k2 k3, (s.setTm t).chan j k2 k3 = s.chan j k2 k3) ∧
    (∀ j k2, (s.setTm t).eng j k2 = s.eng j k2) ∧ (∀ j, (s.setTm t).ep j = s.ep j) ∧ (∀ j k2, (s.setTm t).ledger j k2 = s.ledger j k2) ∧
    (∀ j k2, (s.setTm t).modS j k2 = s.modS j k2) ∧ (∀ j, (s.setTm t).axS j = s.axS j) ∧ (∀ j, (s.setTm t).jnS j = s.jnS j) ∧
    (∀ j, (s.setTm t).huS j = s.huS j) ∧ (∀ j k2, (s.setTm t).hb j k2 = s.hb j k2) ∧ (∀ j, (s.setTm t).canS j = s.canS j) ∧
    (∀ j, (s.setTm t).qspiS j = s.qspiS j) ∧ (∀ j, (s.setTm t).dbg j = s.dbg j) ∧ (∀ j k2, (s.setTm t).swOn j k2 = s.swOn j k2) := by
  and_intros <;> intros <;> rfl

@[simp] theorem State.updI2c_same (s : State) (st : Nat) (f : I2cS → I2cS) :
    (s.updI2c st f).pending = s.pending ∧ (s.updI2c st f).part = s.part ∧ (s.updI2c st f).cycle = s.cycle ∧
    (s.updI2c st f).free = s.free ∧ (s.updI2c st f).resp = s.resp ∧ (s.updI2c st f).out = s.out ∧ (s.updI2c st f).regs = s.regs ∧
    (s.updI2c st f).acts = s.acts ∧ (s.updI2c st f).latches = s.latches ∧ (s.updI2c st f).mem = s.mem ∧ (s.updI2c st f).lead = s.lead ∧
    (s.updI2c st f).times = s.times ∧ (s.updI2c st f).tm = s.tm ∧ (s.updI2c st f).alarms = s.alarms ∧ (s.updI2c st f).queues = s.queues ∧
    (s.updI2c st f).prods = s.prods ∧ (s.updI2c st f).healthLost = s.healthLost ∧ (s.updI2c st f).cks = s.cks ∧
    (s.updI2c st f).efs = s.efs ∧ (s.updI2c st f).ports = s.ports ∧ (s.updI2c st f).sis = s.sis ∧ (s.updI2c st f).pipes = s.pipes ∧
    (s.updI2c st f).schs = s.schs ∧ (s.updI2c st f).sched = s.sched ∧ (s.updI2c st f).finalC = s.finalC ∧
    (s.updI2c st f).cellPtr = s.cellPtr ∧ (s.updI2c st f).cellMem = s.cellMem ∧ (s.updI2c st f).fences = s.fences ∧
    (s.updI2c st f).chans = s.chans ∧ (s.updI2c st f).engs = s.engs ∧ (s.updI2c st f).eps = s.eps ∧ (s.updI2c st f).ledgers = s.ledgers ∧
    (s.updI2c st f).epoch = s.epoch ∧ (s.updI2c st f).weirOn = s.weirOn ∧ (s.updI2c st f).lostDies = s.lostDies ∧
    (s.updI2c st f).mods = s.mods ∧ (s.updI2c st f).axes = s.axes ∧ (s.updI2c st f).relaySt = s.relaySt ∧
    (s.updI2c st f).relayJ = s.relayJ ∧ (s.updI2c st f).jns = s.jns ∧ (s.updI2c st f).hus = s.hus ∧ (s.updI2c st f).parked = s.parked ∧
    (s.updI2c st f).shutNormal = s.shutNormal ∧ (s.updI2c st f).fcChans = s.fcChans ∧ (s.updI2c st f).restarts = s.restarts ∧
    (s.updI2c st f).switchAt = s.switchAt ∧ (s.updI2c st f).hbs = s.hbs ∧ (s.updI2c st f).hbOn = s.hbOn ∧
    (s.updI2c st f).plannedAt = s.plannedAt ∧ (s.updI2c st f).declared = s.declared ∧ (s.updI2c st f).modLost = s.modLost ∧
    (s.updI2c st f).peerUpAt = s.peerUpAt ∧ (s.updI2c st f).scrubAt = s.scrubAt ∧ (s.updI2c st f).wdogs = s.wdogs ∧
    (s.updI2c st f).halted = s.halted ∧ (s.updI2c st f).dictQ = s.dictQ ∧ (s.updI2c st f).gws = s.gws ∧ (s.updI2c st f).objs = s.objs ∧
    (s.updI2c st f).dict = s.dict ∧ (s.updI2c st f).cans = s.cans ∧ (s.updI2c st f).qspis = s.qspis ∧ (s.updI2c st f).dbgs = s.dbgs ∧
    (s.updI2c st f).pccs = s.pccs ∧ (s.updI2c st f).hotDies = s.hotDies ∧ (s.updI2c st f).faultWhy = s.faultWhy ∧
    (s.updI2c st f).jtag = s.jtag ∧ (s.updI2c st f).irqSent = s.irqSent ∧ (s.updI2c st f).irqCopy = s.irqCopy ∧
    (s.updI2c st f).irqClaims = s.irqClaims ∧ (s.updI2c st f).kpClaims = s.kpClaims ∧ (s.updI2c st f).swLv = s.swLv ∧
    (s.updI2c st f).readyAt = s.readyAt ∧ (s.updI2c st f).fcReset = s.fcReset ∧ (s.updI2c st f).kpVer = s.kpVer ∧
    (s.updI2c st f).kpReq = s.kpReq ∧ (s.updI2c st f).rstLow = s.rstLow ∧ (s.updI2c st f).ubFirst = s.ubFirst ∧
    (∀ j, (s.updI2c st f).rd j = s.rd j) ∧ (∀ j, (s.updI2c st f).act j = s.act j) ∧
    (∀ j k2, (s.updI2c st f).byteAt j k2 = s.byteAt j k2) ∧ (∀ j, (s.updI2c st f).timeOf j = s.timeOf j) ∧
    (∀ j, (s.updI2c st f).pcc j = s.pcc j) ∧ (∀ j, (s.updI2c st f).efS j = s.efS j) ∧ (∀ j, (s.updI2c st f).scrub j = s.scrub j) ∧
    (∀ j k2, (s.updI2c st f).queue j k2 = s.queue j k2) ∧ (∀ j k2, (s.updI2c st f).prod j k2 = s.prod j k2) ∧
    (∀ j k2, (s.updI2c st f).ckS j k2 = s.ckS j k2) ∧ (∀ j, (s.updI2c st f).port j = s.port j) ∧
    (∀ j k2, (s.updI2c st f).alarm j k2 = s.alarm j k2) ∧ (∀ j, (s.updI2c st f).sch j = s.sch j) ∧
    (∀ j, (s.updI2c st f).sis1 j = s.sis1 j) ∧ (∀ j, (s.updI2c st f).pipe j = s.pipe j) ∧
    (∀ j k2 k3, (s.updI2c st f).chan j k2 k3 = s.chan j k2 k3) ∧ (∀ j k2, (s.updI2c st f).eng j k2 = s.eng j k2) ∧
    (∀ j, (s.updI2c st f).ep j = s.ep j) ∧ (∀ j k2, (s.updI2c st f).ledger j k2 = s.ledger j k2) ∧
    (∀ j k2, (s.updI2c st f).modS j k2 = s.modS j k2) ∧ (∀ j, (s.updI2c st f).axS j = s.axS j) ∧ (∀ j, (s.updI2c st f).jnS j = s.jnS j) ∧
    (∀ j, (s.updI2c st f).huS j = s.huS j) ∧ (∀ j k2, (s.updI2c st f).hb j k2 = s.hb j k2) ∧ (∀ j, (s.updI2c st f).canS j = s.canS j) ∧
    (∀ j, (s.updI2c st f).qspiS j = s.qspiS j) ∧ (∀ j, (s.updI2c st f).dbg j = s.dbg j) ∧
    (∀ j k2, (s.updI2c st f).swOn j k2 = s.swOn j k2) := by
  and_intros <;> intros <;> rfl

@[simp] theorem State.updPcc_same (s : State) (die : Nat) (f : PccS → PccS) :
    (s.updPcc die f).pending = s.pending ∧ (s.updPcc die f).part = s.part ∧ (s.updPcc die f).cycle = s.cycle ∧
    (s.updPcc die f).free = s.free ∧ (s.updPcc die f).resp = s.resp ∧ (s.updPcc die f).out = s.out ∧ (s.updPcc die f).regs = s.regs ∧
    (s.updPcc die f).acts = s.acts ∧ (s.updPcc die f).latches = s.latches ∧ (s.updPcc die f).mem = s.mem ∧
    (s.updPcc die f).lead = s.lead ∧ (s.updPcc die f).times = s.times ∧ (s.updPcc die f).tm = s.tm ∧ (s.updPcc die f).alarms = s.alarms ∧
    (s.updPcc die f).queues = s.queues ∧ (s.updPcc die f).prods = s.prods ∧ (s.updPcc die f).healthLost = s.healthLost ∧
    (s.updPcc die f).cks = s.cks ∧ (s.updPcc die f).efs = s.efs ∧ (s.updPcc die f).ports = s.ports ∧ (s.updPcc die f).sis = s.sis ∧
    (s.updPcc die f).pipes = s.pipes ∧ (s.updPcc die f).schs = s.schs ∧ (s.updPcc die f).sched = s.sched ∧
    (s.updPcc die f).finalC = s.finalC ∧ (s.updPcc die f).cellPtr = s.cellPtr ∧ (s.updPcc die f).cellMem = s.cellMem ∧
    (s.updPcc die f).fences = s.fences ∧ (s.updPcc die f).chans = s.chans ∧ (s.updPcc die f).engs = s.engs ∧
    (s.updPcc die f).eps = s.eps ∧ (s.updPcc die f).ledgers = s.ledgers ∧ (s.updPcc die f).epoch = s.epoch ∧
    (s.updPcc die f).weirOn = s.weirOn ∧ (s.updPcc die f).lostDies = s.lostDies ∧ (s.updPcc die f).mods = s.mods ∧
    (s.updPcc die f).axes = s.axes ∧ (s.updPcc die f).relaySt = s.relaySt ∧ (s.updPcc die f).relayJ = s.relayJ ∧
    (s.updPcc die f).jns = s.jns ∧ (s.updPcc die f).hus = s.hus ∧ (s.updPcc die f).parked = s.parked ∧
    (s.updPcc die f).shutNormal = s.shutNormal ∧ (s.updPcc die f).fcChans = s.fcChans ∧ (s.updPcc die f).restarts = s.restarts ∧
    (s.updPcc die f).switchAt = s.switchAt ∧ (s.updPcc die f).hbs = s.hbs ∧ (s.updPcc die f).hbOn = s.hbOn ∧
    (s.updPcc die f).plannedAt = s.plannedAt ∧ (s.updPcc die f).declared = s.declared ∧ (s.updPcc die f).modLost = s.modLost ∧
    (s.updPcc die f).peerUpAt = s.peerUpAt ∧ (s.updPcc die f).scrubAt = s.scrubAt ∧ (s.updPcc die f).wdogs = s.wdogs ∧
    (s.updPcc die f).halted = s.halted ∧ (s.updPcc die f).dictQ = s.dictQ ∧ (s.updPcc die f).gws = s.gws ∧
    (s.updPcc die f).objs = s.objs ∧ (s.updPcc die f).dict = s.dict ∧ (s.updPcc die f).i2cs = s.i2cs ∧ (s.updPcc die f).cans = s.cans ∧
    (s.updPcc die f).qspis = s.qspis ∧ (s.updPcc die f).dbgs = s.dbgs ∧ (s.updPcc die f).hotDies = s.hotDies ∧
    (s.updPcc die f).faultWhy = s.faultWhy ∧ (s.updPcc die f).jtag = s.jtag ∧ (s.updPcc die f).irqSent = s.irqSent ∧
    (s.updPcc die f).irqCopy = s.irqCopy ∧ (s.updPcc die f).irqClaims = s.irqClaims ∧ (s.updPcc die f).kpClaims = s.kpClaims ∧
    (s.updPcc die f).swLv = s.swLv ∧ (s.updPcc die f).readyAt = s.readyAt ∧ (s.updPcc die f).fcReset = s.fcReset ∧
    (s.updPcc die f).kpVer = s.kpVer ∧ (s.updPcc die f).kpReq = s.kpReq ∧ (s.updPcc die f).rstLow = s.rstLow ∧
    (s.updPcc die f).ubFirst = s.ubFirst ∧ (∀ j, (s.updPcc die f).rd j = s.rd j) ∧ (∀ j, (s.updPcc die f).act j = s.act j) ∧
    (∀ j k2, (s.updPcc die f).byteAt j k2 = s.byteAt j k2) ∧ (∀ j, (s.updPcc die f).timeOf j = s.timeOf j) ∧
    (∀ j, (s.updPcc die f).i2cS j = s.i2cS j) ∧ (∀ j, (s.updPcc die f).efS j = s.efS j) ∧ (∀ j, (s.updPcc die f).scrub j = s.scrub j) ∧
    (∀ j k2, (s.updPcc die f).queue j k2 = s.queue j k2) ∧ (∀ j k2, (s.updPcc die f).prod j k2 = s.prod j k2) ∧
    (∀ j k2, (s.updPcc die f).ckS j k2 = s.ckS j k2) ∧ (∀ j, (s.updPcc die f).port j = s.port j) ∧
    (∀ j k2, (s.updPcc die f).alarm j k2 = s.alarm j k2) ∧ (∀ j, (s.updPcc die f).sch j = s.sch j) ∧
    (∀ j, (s.updPcc die f).sis1 j = s.sis1 j) ∧ (∀ j, (s.updPcc die f).pipe j = s.pipe j) ∧
    (∀ j k2 k3, (s.updPcc die f).chan j k2 k3 = s.chan j k2 k3) ∧ (∀ j k2, (s.updPcc die f).eng j k2 = s.eng j k2) ∧
    (∀ j, (s.updPcc die f).ep j = s.ep j) ∧ (∀ j k2, (s.updPcc die f).ledger j k2 = s.ledger j k2) ∧
    (∀ j k2, (s.updPcc die f).modS j k2 = s.modS j k2) ∧ (∀ j, (s.updPcc die f).axS j = s.axS j) ∧
    (∀ j, (s.updPcc die f).jnS j = s.jnS j) ∧ (∀ j, (s.updPcc die f).huS j = s.huS j) ∧ (∀ j k2, (s.updPcc die f).hb j k2 = s.hb j k2) ∧
    (∀ j, (s.updPcc die f).canS j = s.canS j) ∧ (∀ j, (s.updPcc die f).qspiS j = s.qspiS j) ∧ (∀ j, (s.updPcc die f).dbg j = s.dbg j) ∧
    (∀ j k2, (s.updPcc die f).swOn j k2 = s.swOn j k2) := by
  and_intros <;> intros <;> rfl

@[simp] theorem State.setEf_same (s : State) (die : Nat) (e : EfS) :
    (s.setEf die e).pending = s.pending ∧ (s.setEf die e).part = s.part ∧ (s.setEf die e).cycle = s.cycle ∧
    (s.setEf die e).free = s.free ∧ (s.setEf die e).resp = s.resp ∧ (s.setEf die e).out = s.out ∧ (s.setEf die e).regs = s.regs ∧
    (s.setEf die e).acts = s.acts ∧ (s.setEf die e).latches = s.latches ∧ (s.setEf die e).mem = s.mem ∧ (s.setEf die e).lead = s.lead ∧
    (s.setEf die e).times = s.times ∧ (s.setEf die e).tm = s.tm ∧ (s.setEf die e).alarms = s.alarms ∧ (s.setEf die e).queues = s.queues ∧
    (s.setEf die e).prods = s.prods ∧ (s.setEf die e).healthLost = s.healthLost ∧ (s.setEf die e).cks = s.cks ∧
    (s.setEf die e).ports = s.ports ∧ (s.setEf die e).sis = s.sis ∧ (s.setEf die e).pipes = s.pipes ∧ (s.setEf die e).schs = s.schs ∧
    (s.setEf die e).sched = s.sched ∧ (s.setEf die e).finalC = s.finalC ∧ (s.setEf die e).cellPtr = s.cellPtr ∧
    (s.setEf die e).cellMem = s.cellMem ∧ (s.setEf die e).fences = s.fences ∧ (s.setEf die e).chans = s.chans ∧
    (s.setEf die e).engs = s.engs ∧ (s.setEf die e).eps = s.eps ∧ (s.setEf die e).ledgers = s.ledgers ∧ (s.setEf die e).epoch = s.epoch ∧
    (s.setEf die e).weirOn = s.weirOn ∧ (s.setEf die e).lostDies = s.lostDies ∧ (s.setEf die e).mods = s.mods ∧
    (s.setEf die e).axes = s.axes ∧ (s.setEf die e).relaySt = s.relaySt ∧ (s.setEf die e).relayJ = s.relayJ ∧
    (s.setEf die e).jns = s.jns ∧ (s.setEf die e).hus = s.hus ∧ (s.setEf die e).parked = s.parked ∧
    (s.setEf die e).shutNormal = s.shutNormal ∧ (s.setEf die e).fcChans = s.fcChans ∧ (s.setEf die e).restarts = s.restarts ∧
    (s.setEf die e).switchAt = s.switchAt ∧ (s.setEf die e).hbs = s.hbs ∧ (s.setEf die e).hbOn = s.hbOn ∧
    (s.setEf die e).plannedAt = s.plannedAt ∧ (s.setEf die e).declared = s.declared ∧ (s.setEf die e).modLost = s.modLost ∧
    (s.setEf die e).peerUpAt = s.peerUpAt ∧ (s.setEf die e).scrubAt = s.scrubAt ∧ (s.setEf die e).wdogs = s.wdogs ∧
    (s.setEf die e).halted = s.halted ∧ (s.setEf die e).dictQ = s.dictQ ∧ (s.setEf die e).gws = s.gws ∧ (s.setEf die e).objs = s.objs ∧
    (s.setEf die e).dict = s.dict ∧ (s.setEf die e).i2cs = s.i2cs ∧ (s.setEf die e).cans = s.cans ∧ (s.setEf die e).qspis = s.qspis ∧
    (s.setEf die e).dbgs = s.dbgs ∧ (s.setEf die e).pccs = s.pccs ∧ (s.setEf die e).hotDies = s.hotDies ∧
    (s.setEf die e).faultWhy = s.faultWhy ∧ (s.setEf die e).jtag = s.jtag ∧ (s.setEf die e).irqSent = s.irqSent ∧
    (s.setEf die e).irqCopy = s.irqCopy ∧ (s.setEf die e).irqClaims = s.irqClaims ∧ (s.setEf die e).kpClaims = s.kpClaims ∧
    (s.setEf die e).swLv = s.swLv ∧ (s.setEf die e).readyAt = s.readyAt ∧ (s.setEf die e).fcReset = s.fcReset ∧
    (s.setEf die e).kpVer = s.kpVer ∧ (s.setEf die e).kpReq = s.kpReq ∧ (s.setEf die e).rstLow = s.rstLow ∧
    (s.setEf die e).ubFirst = s.ubFirst ∧ (∀ j, (s.setEf die e).rd j = s.rd j) ∧ (∀ j, (s.setEf die e).act j = s.act j) ∧
    (∀ j k2, (s.setEf die e).byteAt j k2 = s.byteAt j k2) ∧ (∀ j, (s.setEf die e).timeOf j = s.timeOf j) ∧
    (∀ j, (s.setEf die e).i2cS j = s.i2cS j) ∧ (∀ j, (s.setEf die e).pcc j = s.pcc j) ∧ (∀ j, (s.setEf die e).scrub j = s.scrub j) ∧
    (∀ j k2, (s.setEf die e).queue j k2 = s.queue j k2) ∧ (∀ j k2, (s.setEf die e).prod j k2 = s.prod j k2) ∧
    (∀ j k2, (s.setEf die e).ckS j k2 = s.ckS j k2) ∧ (∀ j, (s.setEf die e).port j = s.port j) ∧
    (∀ j k2, (s.setEf die e).alarm j k2 = s.alarm j k2) ∧ (∀ j, (s.setEf die e).sch j = s.sch j) ∧
    (∀ j, (s.setEf die e).sis1 j = s.sis1 j) ∧ (∀ j, (s.setEf die e).pipe j = s.pipe j) ∧
    (∀ j k2 k3, (s.setEf die e).chan j k2 k3 = s.chan j k2 k3) ∧ (∀ j k2, (s.setEf die e).eng j k2 = s.eng j k2) ∧
    (∀ j, (s.setEf die e).ep j = s.ep j) ∧ (∀ j k2, (s.setEf die e).ledger j k2 = s.ledger j k2) ∧
    (∀ j k2, (s.setEf die e).modS j k2 = s.modS j k2) ∧ (∀ j, (s.setEf die e).axS j = s.axS j) ∧ (∀ j, (s.setEf die e).jnS j = s.jnS j) ∧
    (∀ j, (s.setEf die e).huS j = s.huS j) ∧ (∀ j k2, (s.setEf die e).hb j k2 = s.hb j k2) ∧ (∀ j, (s.setEf die e).canS j = s.canS j) ∧
    (∀ j, (s.setEf die e).qspiS j = s.qspiS j) ∧ (∀ j, (s.setEf die e).dbg j = s.dbg j) ∧
    (∀ j k2, (s.setEf die e).swOn j k2 = s.swOn j k2) := by
  and_intros <;> intros <;> rfl

@[simp] theorem State.undirty_same (s : State) (kind : Nat) (inst : Nat) :
    (s.undirty kind inst).pending = s.pending ∧ (s.undirty kind inst).part = s.part ∧ (s.undirty kind inst).cycle = s.cycle ∧
    (s.undirty kind inst).free = s.free ∧ (s.undirty kind inst).resp = s.resp ∧ (s.undirty kind inst).out = s.out ∧
    (s.undirty kind inst).regs = s.regs ∧ (s.undirty kind inst).acts = s.acts ∧ (s.undirty kind inst).latches = s.latches ∧
    (s.undirty kind inst).mem = s.mem ∧ (s.undirty kind inst).lead = s.lead ∧ (s.undirty kind inst).times = s.times ∧
    (s.undirty kind inst).tm = s.tm ∧ (s.undirty kind inst).alarms = s.alarms ∧ (s.undirty kind inst).queues = s.queues ∧
    (s.undirty kind inst).prods = s.prods ∧ (s.undirty kind inst).healthLost = s.healthLost ∧ (s.undirty kind inst).cks = s.cks ∧
    (s.undirty kind inst).efs = s.efs ∧ (s.undirty kind inst).ports = s.ports ∧ (s.undirty kind inst).sis = s.sis ∧
    (s.undirty kind inst).pipes = s.pipes ∧ (s.undirty kind inst).schs = s.schs ∧ (s.undirty kind inst).sched = s.sched ∧
    (s.undirty kind inst).finalC = s.finalC ∧ (s.undirty kind inst).cellPtr = s.cellPtr ∧ (s.undirty kind inst).cellMem = s.cellMem ∧
    (s.undirty kind inst).fences = s.fences ∧ (s.undirty kind inst).chans = s.chans ∧ (s.undirty kind inst).engs = s.engs ∧
    (s.undirty kind inst).eps = s.eps ∧ (s.undirty kind inst).ledgers = s.ledgers ∧ (s.undirty kind inst).epoch = s.epoch ∧
    (s.undirty kind inst).weirOn = s.weirOn ∧ (s.undirty kind inst).lostDies = s.lostDies ∧ (s.undirty kind inst).mods = s.mods ∧
    (s.undirty kind inst).axes = s.axes ∧ (s.undirty kind inst).relaySt = s.relaySt ∧ (s.undirty kind inst).relayJ = s.relayJ ∧
    (s.undirty kind inst).jns = s.jns ∧ (s.undirty kind inst).hus = s.hus ∧ (s.undirty kind inst).parked = s.parked ∧
    (s.undirty kind inst).shutNormal = s.shutNormal ∧ (s.undirty kind inst).fcChans = s.fcChans ∧
    (s.undirty kind inst).restarts = s.restarts ∧ (s.undirty kind inst).switchAt = s.switchAt ∧ (s.undirty kind inst).hbs = s.hbs ∧
    (s.undirty kind inst).hbOn = s.hbOn ∧ (s.undirty kind inst).plannedAt = s.plannedAt ∧ (s.undirty kind inst).declared = s.declared ∧
    (s.undirty kind inst).modLost = s.modLost ∧ (s.undirty kind inst).peerUpAt = s.peerUpAt ∧ (s.undirty kind inst).scrubAt = s.scrubAt ∧
    (s.undirty kind inst).wdogs = s.wdogs ∧ (s.undirty kind inst).halted = s.halted ∧ (s.undirty kind inst).dictQ = s.dictQ ∧
    (s.undirty kind inst).gws = s.gws ∧ (s.undirty kind inst).objs = s.objs ∧ (s.undirty kind inst).i2cs = s.i2cs ∧
    (s.undirty kind inst).cans = s.cans ∧ (s.undirty kind inst).qspis = s.qspis ∧ (s.undirty kind inst).dbgs = s.dbgs ∧
    (s.undirty kind inst).pccs = s.pccs ∧ (s.undirty kind inst).hotDies = s.hotDies ∧ (s.undirty kind inst).faultWhy = s.faultWhy ∧
    (s.undirty kind inst).jtag = s.jtag ∧ (s.undirty kind inst).irqSent = s.irqSent ∧ (s.undirty kind inst).irqCopy = s.irqCopy ∧
    (s.undirty kind inst).irqClaims = s.irqClaims ∧ (s.undirty kind inst).kpClaims = s.kpClaims ∧ (s.undirty kind inst).swLv = s.swLv ∧
    (s.undirty kind inst).readyAt = s.readyAt ∧ (s.undirty kind inst).fcReset = s.fcReset ∧ (s.undirty kind inst).kpVer = s.kpVer ∧
    (s.undirty kind inst).kpReq = s.kpReq ∧ (s.undirty kind inst).rstLow = s.rstLow ∧ (s.undirty kind inst).ubFirst = s.ubFirst ∧
    (∀ j, (s.undirty kind inst).rd j = s.rd j) ∧ (∀ j, (s.undirty kind inst).act j = s.act j) ∧
    (∀ j k2, (s.undirty kind inst).byteAt j k2 = s.byteAt j k2) ∧ (∀ j, (s.undirty kind inst).timeOf j = s.timeOf j) ∧
    (∀ j, (s.undirty kind inst).i2cS j = s.i2cS j) ∧ (∀ j, (s.undirty kind inst).pcc j = s.pcc j) ∧
    (∀ j, (s.undirty kind inst).efS j = s.efS j) ∧ (∀ j, (s.undirty kind inst).scrub j = s.scrub j) ∧
    (∀ j k2, (s.undirty kind inst).queue j k2 = s.queue j k2) ∧ (∀ j k2, (s.undirty kind inst).prod j k2 = s.prod j k2) ∧
    (∀ j k2, (s.undirty kind inst).ckS j k2 = s.ckS j k2) ∧ (∀ j, (s.undirty kind inst).port j = s.port j) ∧
    (∀ j k2, (s.undirty kind inst).alarm j k2 = s.alarm j k2) ∧ (∀ j, (s.undirty kind inst).sch j = s.sch j) ∧
    (∀ j, (s.undirty kind inst).sis1 j = s.sis1 j) ∧ (∀ j, (s.undirty kind inst).pipe j = s.pipe j) ∧
    (∀ j k2 k3, (s.undirty kind inst).chan j k2 k3 = s.chan j k2 k3) ∧ (∀ j k2, (s.undirty kind inst).eng j k2 = s.eng j k2) ∧
    (∀ j, (s.undirty kind inst).ep j = s.ep j) ∧ (∀ j k2, (s.undirty kind inst).ledger j k2 = s.ledger j k2) ∧
    (∀ j k2, (s.undirty kind inst).modS j k2 = s.modS j k2) ∧ (∀ j, (s.undirty kind inst).axS j = s.axS j) ∧
    (∀ j, (s.undirty kind inst).jnS j = s.jnS j) ∧ (∀ j, (s.undirty kind inst).huS j = s.huS j) ∧
    (∀ j k2, (s.undirty kind inst).hb j k2 = s.hb j k2) ∧ (∀ j, (s.undirty kind inst).canS j = s.canS j) ∧
    (∀ j, (s.undirty kind inst).qspiS j = s.qspiS j) ∧ (∀ j, (s.undirty kind inst).dbg j = s.dbg j) ∧
    (∀ j k2, (s.undirty kind inst).swOn j k2 = s.swOn j k2) := by
  and_intros <;> intros <;> rfl

@[simp] theorem State.setScrub_same (s : State) (die : Nat) (v : ScrubS) :
    (s.setScrub die v).pending = s.pending ∧ (s.setScrub die v).part = s.part ∧ (s.setScrub die v).cycle = s.cycle ∧
    (s.setScrub die v).free = s.free ∧ (s.setScrub die v).resp = s.resp ∧ (s.setScrub die v).out = s.out ∧
    (s.setScrub die v).regs = s.regs ∧ (s.setScrub die v).acts = s.acts ∧ (s.setScrub die v).latches = s.latches ∧
    (s.setScrub die v).mem = s.mem ∧ (s.setScrub die v).lead = s.lead ∧ (s.setScrub die v).times = s.times ∧
    (s.setScrub die v).tm = s.tm ∧ (s.setScrub die v).alarms = s.alarms ∧ (s.setScrub die v).queues = s.queues ∧
    (s.setScrub die v).prods = s.prods ∧ (s.setScrub die v).healthLost = s.healthLost ∧ (s.setScrub die v).cks = s.cks ∧
    (s.setScrub die v).efs = s.efs ∧ (s.setScrub die v).ports = s.ports ∧ (s.setScrub die v).sis = s.sis ∧
    (s.setScrub die v).pipes = s.pipes ∧ (s.setScrub die v).schs = s.schs ∧ (s.setScrub die v).sched = s.sched ∧
    (s.setScrub die v).finalC = s.finalC ∧ (s.setScrub die v).cellPtr = s.cellPtr ∧ (s.setScrub die v).cellMem = s.cellMem ∧
    (s.setScrub die v).fences = s.fences ∧ (s.setScrub die v).chans = s.chans ∧ (s.setScrub die v).engs = s.engs ∧
    (s.setScrub die v).eps = s.eps ∧ (s.setScrub die v).ledgers = s.ledgers ∧ (s.setScrub die v).epoch = s.epoch ∧
    (s.setScrub die v).weirOn = s.weirOn ∧ (s.setScrub die v).lostDies = s.lostDies ∧ (s.setScrub die v).mods = s.mods ∧
    (s.setScrub die v).axes = s.axes ∧ (s.setScrub die v).relaySt = s.relaySt ∧ (s.setScrub die v).relayJ = s.relayJ ∧
    (s.setScrub die v).jns = s.jns ∧ (s.setScrub die v).hus = s.hus ∧ (s.setScrub die v).parked = s.parked ∧
    (s.setScrub die v).shutNormal = s.shutNormal ∧ (s.setScrub die v).fcChans = s.fcChans ∧ (s.setScrub die v).restarts = s.restarts ∧
    (s.setScrub die v).switchAt = s.switchAt ∧ (s.setScrub die v).hbs = s.hbs ∧ (s.setScrub die v).hbOn = s.hbOn ∧
    (s.setScrub die v).plannedAt = s.plannedAt ∧ (s.setScrub die v).declared = s.declared ∧ (s.setScrub die v).modLost = s.modLost ∧
    (s.setScrub die v).peerUpAt = s.peerUpAt ∧ (s.setScrub die v).wdogs = s.wdogs ∧ (s.setScrub die v).halted = s.halted ∧
    (s.setScrub die v).dictQ = s.dictQ ∧ (s.setScrub die v).gws = s.gws ∧ (s.setScrub die v).objs = s.objs ∧
    (s.setScrub die v).dict = s.dict ∧ (s.setScrub die v).i2cs = s.i2cs ∧ (s.setScrub die v).cans = s.cans ∧
    (s.setScrub die v).qspis = s.qspis ∧ (s.setScrub die v).dbgs = s.dbgs ∧ (s.setScrub die v).pccs = s.pccs ∧
    (s.setScrub die v).hotDies = s.hotDies ∧ (s.setScrub die v).faultWhy = s.faultWhy ∧ (s.setScrub die v).jtag = s.jtag ∧
    (s.setScrub die v).irqSent = s.irqSent ∧ (s.setScrub die v).irqCopy = s.irqCopy ∧ (s.setScrub die v).irqClaims = s.irqClaims ∧
    (s.setScrub die v).kpClaims = s.kpClaims ∧ (s.setScrub die v).swLv = s.swLv ∧ (s.setScrub die v).readyAt = s.readyAt ∧
    (s.setScrub die v).fcReset = s.fcReset ∧ (s.setScrub die v).kpVer = s.kpVer ∧ (s.setScrub die v).kpReq = s.kpReq ∧
    (s.setScrub die v).rstLow = s.rstLow ∧ (s.setScrub die v).ubFirst = s.ubFirst ∧ (∀ j, (s.setScrub die v).rd j = s.rd j) ∧
    (∀ j, (s.setScrub die v).act j = s.act j) ∧ (∀ j k2, (s.setScrub die v).byteAt j k2 = s.byteAt j k2) ∧
    (∀ j, (s.setScrub die v).timeOf j = s.timeOf j) ∧ (∀ j, (s.setScrub die v).i2cS j = s.i2cS j) ∧
    (∀ j, (s.setScrub die v).pcc j = s.pcc j) ∧ (∀ j, (s.setScrub die v).efS j = s.efS j) ∧
    (∀ j k2, (s.setScrub die v).queue j k2 = s.queue j k2) ∧ (∀ j k2, (s.setScrub die v).prod j k2 = s.prod j k2) ∧
    (∀ j k2, (s.setScrub die v).ckS j k2 = s.ckS j k2) ∧ (∀ j, (s.setScrub die v).port j = s.port j) ∧
    (∀ j k2, (s.setScrub die v).alarm j k2 = s.alarm j k2) ∧ (∀ j, (s.setScrub die v).sch j = s.sch j) ∧
    (∀ j, (s.setScrub die v).sis1 j = s.sis1 j) ∧ (∀ j, (s.setScrub die v).pipe j = s.pipe j) ∧
    (∀ j k2 k3, (s.setScrub die v).chan j k2 k3 = s.chan j k2 k3) ∧ (∀ j k2, (s.setScrub die v).eng j k2 = s.eng j k2) ∧
    (∀ j, (s.setScrub die v).ep j = s.ep j) ∧ (∀ j k2, (s.setScrub die v).ledger j k2 = s.ledger j k2) ∧
    (∀ j k2, (s.setScrub die v).modS j k2 = s.modS j k2) ∧ (∀ j, (s.setScrub die v).axS j = s.axS j) ∧
    (∀ j, (s.setScrub die v).jnS j = s.jnS j) ∧ (∀ j, (s.setScrub die v).huS j = s.huS j) ∧
    (∀ j k2, (s.setScrub die v).hb j k2 = s.hb j k2) ∧ (∀ j, (s.setScrub die v).canS j = s.canS j) ∧
    (∀ j, (s.setScrub die v).qspiS j = s.qspiS j) ∧ (∀ j, (s.setScrub die v).dbg j = s.dbg j) ∧
    (∀ j k2, (s.setScrub die v).swOn j k2 = s.swOn j k2) := by
  and_intros <;> intros <;> rfl

@[simp] theorem State.setQueue_same (s : State) (die : Nat) (q : Nat) (v : QueueS) :
    (s.setQueue die q v).pending = s.pending ∧ (s.setQueue die q v).part = s.part ∧ (s.setQueue die q v).cycle = s.cycle ∧
    (s.setQueue die q v).free = s.free ∧ (s.setQueue die q v).resp = s.resp ∧ (s.setQueue die q v).out = s.out ∧
    (s.setQueue die q v).regs = s.regs ∧ (s.setQueue die q v).acts = s.acts ∧ (s.setQueue die q v).latches = s.latches ∧
    (s.setQueue die q v).mem = s.mem ∧ (s.setQueue die q v).lead = s.lead ∧ (s.setQueue die q v).times = s.times ∧
    (s.setQueue die q v).tm = s.tm ∧ (s.setQueue die q v).alarms = s.alarms ∧ (s.setQueue die q v).prods = s.prods ∧
    (s.setQueue die q v).healthLost = s.healthLost ∧ (s.setQueue die q v).cks = s.cks ∧ (s.setQueue die q v).efs = s.efs ∧
    (s.setQueue die q v).ports = s.ports ∧ (s.setQueue die q v).sis = s.sis ∧ (s.setQueue die q v).pipes = s.pipes ∧
    (s.setQueue die q v).schs = s.schs ∧ (s.setQueue die q v).sched = s.sched ∧ (s.setQueue die q v).finalC = s.finalC ∧
    (s.setQueue die q v).cellPtr = s.cellPtr ∧ (s.setQueue die q v).cellMem = s.cellMem ∧ (s.setQueue die q v).fences = s.fences ∧
    (s.setQueue die q v).chans = s.chans ∧ (s.setQueue die q v).engs = s.engs ∧ (s.setQueue die q v).eps = s.eps ∧
    (s.setQueue die q v).ledgers = s.ledgers ∧ (s.setQueue die q v).epoch = s.epoch ∧ (s.setQueue die q v).weirOn = s.weirOn ∧
    (s.setQueue die q v).lostDies = s.lostDies ∧ (s.setQueue die q v).mods = s.mods ∧ (s.setQueue die q v).axes = s.axes ∧
    (s.setQueue die q v).relaySt = s.relaySt ∧ (s.setQueue die q v).relayJ = s.relayJ ∧ (s.setQueue die q v).jns = s.jns ∧
    (s.setQueue die q v).hus = s.hus ∧ (s.setQueue die q v).parked = s.parked ∧ (s.setQueue die q v).shutNormal = s.shutNormal ∧
    (s.setQueue die q v).fcChans = s.fcChans ∧ (s.setQueue die q v).restarts = s.restarts ∧ (s.setQueue die q v).switchAt = s.switchAt ∧
    (s.setQueue die q v).hbs = s.hbs ∧ (s.setQueue die q v).hbOn = s.hbOn ∧ (s.setQueue die q v).plannedAt = s.plannedAt ∧
    (s.setQueue die q v).declared = s.declared ∧ (s.setQueue die q v).modLost = s.modLost ∧ (s.setQueue die q v).peerUpAt = s.peerUpAt ∧
    (s.setQueue die q v).scrubAt = s.scrubAt ∧ (s.setQueue die q v).wdogs = s.wdogs ∧ (s.setQueue die q v).halted = s.halted ∧
    (s.setQueue die q v).dictQ = s.dictQ ∧ (s.setQueue die q v).gws = s.gws ∧ (s.setQueue die q v).objs = s.objs ∧
    (s.setQueue die q v).dict = s.dict ∧ (s.setQueue die q v).i2cs = s.i2cs ∧ (s.setQueue die q v).cans = s.cans ∧
    (s.setQueue die q v).qspis = s.qspis ∧ (s.setQueue die q v).dbgs = s.dbgs ∧ (s.setQueue die q v).pccs = s.pccs ∧
    (s.setQueue die q v).hotDies = s.hotDies ∧ (s.setQueue die q v).faultWhy = s.faultWhy ∧ (s.setQueue die q v).jtag = s.jtag ∧
    (s.setQueue die q v).irqSent = s.irqSent ∧ (s.setQueue die q v).irqCopy = s.irqCopy ∧ (s.setQueue die q v).irqClaims = s.irqClaims ∧
    (s.setQueue die q v).kpClaims = s.kpClaims ∧ (s.setQueue die q v).swLv = s.swLv ∧ (s.setQueue die q v).readyAt = s.readyAt ∧
    (s.setQueue die q v).fcReset = s.fcReset ∧ (s.setQueue die q v).kpVer = s.kpVer ∧ (s.setQueue die q v).kpReq = s.kpReq ∧
    (s.setQueue die q v).rstLow = s.rstLow ∧ (s.setQueue die q v).ubFirst = s.ubFirst ∧ (∀ j, (s.setQueue die q v).rd j = s.rd j) ∧
    (∀ j, (s.setQueue die q v).act j = s.act j) ∧ (∀ j k2, (s.setQueue die q v).byteAt j k2 = s.byteAt j k2) ∧
    (∀ j, (s.setQueue die q v).timeOf j = s.timeOf j) ∧ (∀ j, (s.setQueue die q v).i2cS j = s.i2cS j) ∧
    (∀ j, (s.setQueue die q v).pcc j = s.pcc j) ∧ (∀ j, (s.setQueue die q v).efS j = s.efS j) ∧
    (∀ j, (s.setQueue die q v).scrub j = s.scrub j) ∧ (∀ j k2, (s.setQueue die q v).prod j k2 = s.prod j k2) ∧
    (∀ j k2, (s.setQueue die q v).ckS j k2 = s.ckS j k2) ∧ (∀ j, (s.setQueue die q v).port j = s.port j) ∧
    (∀ j k2, (s.setQueue die q v).alarm j k2 = s.alarm j k2) ∧ (∀ j, (s.setQueue die q v).sch j = s.sch j) ∧
    (∀ j, (s.setQueue die q v).sis1 j = s.sis1 j) ∧ (∀ j, (s.setQueue die q v).pipe j = s.pipe j) ∧
    (∀ j k2 k3, (s.setQueue die q v).chan j k2 k3 = s.chan j k2 k3) ∧ (∀ j k2, (s.setQueue die q v).eng j k2 = s.eng j k2) ∧
    (∀ j, (s.setQueue die q v).ep j = s.ep j) ∧ (∀ j k2, (s.setQueue die q v).ledger j k2 = s.ledger j k2) ∧
    (∀ j k2, (s.setQueue die q v).modS j k2 = s.modS j k2) ∧ (∀ j, (s.setQueue die q v).axS j = s.axS j) ∧
    (∀ j, (s.setQueue die q v).jnS j = s.jnS j) ∧ (∀ j, (s.setQueue die q v).huS j = s.huS j) ∧
    (∀ j k2, (s.setQueue die q v).hb j k2 = s.hb j k2) ∧ (∀ j, (s.setQueue die q v).canS j = s.canS j) ∧
    (∀ j, (s.setQueue die q v).qspiS j = s.qspiS j) ∧ (∀ j, (s.setQueue die q v).dbg j = s.dbg j) ∧
    (∀ j k2, (s.setQueue die q v).swOn j k2 = s.swOn j k2) := by
  and_intros <;> intros <;> rfl

@[simp] theorem State.setProd_same (s : State) (die : Nat) (b : Nat) (v : ProdS) :
    (s.setProd die b v).pending = s.pending ∧ (s.setProd die b v).part = s.part ∧ (s.setProd die b v).cycle = s.cycle ∧
    (s.setProd die b v).free = s.free ∧ (s.setProd die b v).resp = s.resp ∧ (s.setProd die b v).out = s.out ∧
    (s.setProd die b v).regs = s.regs ∧ (s.setProd die b v).acts = s.acts ∧ (s.setProd die b v).latches = s.latches ∧
    (s.setProd die b v).mem = s.mem ∧ (s.setProd die b v).lead = s.lead ∧ (s.setProd die b v).times = s.times ∧
    (s.setProd die b v).tm = s.tm ∧ (s.setProd die b v).alarms = s.alarms ∧ (s.setProd die b v).queues = s.queues ∧
    (s.setProd die b v).healthLost = s.healthLost ∧ (s.setProd die b v).cks = s.cks ∧ (s.setProd die b v).efs = s.efs ∧
    (s.setProd die b v).ports = s.ports ∧ (s.setProd die b v).sis = s.sis ∧ (s.setProd die b v).pipes = s.pipes ∧
    (s.setProd die b v).schs = s.schs ∧ (s.setProd die b v).sched = s.sched ∧ (s.setProd die b v).finalC = s.finalC ∧
    (s.setProd die b v).cellPtr = s.cellPtr ∧ (s.setProd die b v).cellMem = s.cellMem ∧ (s.setProd die b v).fences = s.fences ∧
    (s.setProd die b v).chans = s.chans ∧ (s.setProd die b v).engs = s.engs ∧ (s.setProd die b v).eps = s.eps ∧
    (s.setProd die b v).ledgers = s.ledgers ∧ (s.setProd die b v).epoch = s.epoch ∧ (s.setProd die b v).weirOn = s.weirOn ∧
    (s.setProd die b v).lostDies = s.lostDies ∧ (s.setProd die b v).mods = s.mods ∧ (s.setProd die b v).axes = s.axes ∧
    (s.setProd die b v).relaySt = s.relaySt ∧ (s.setProd die b v).relayJ = s.relayJ ∧ (s.setProd die b v).jns = s.jns ∧
    (s.setProd die b v).hus = s.hus ∧ (s.setProd die b v).parked = s.parked ∧ (s.setProd die b v).shutNormal = s.shutNormal ∧
    (s.setProd die b v).fcChans = s.fcChans ∧ (s.setProd die b v).restarts = s.restarts ∧ (s.setProd die b v).switchAt = s.switchAt ∧
    (s.setProd die b v).hbs = s.hbs ∧ (s.setProd die b v).hbOn = s.hbOn ∧ (s.setProd die b v).plannedAt = s.plannedAt ∧
    (s.setProd die b v).declared = s.declared ∧ (s.setProd die b v).modLost = s.modLost ∧ (s.setProd die b v).peerUpAt = s.peerUpAt ∧
    (s.setProd die b v).scrubAt = s.scrubAt ∧ (s.setProd die b v).wdogs = s.wdogs ∧ (s.setProd die b v).halted = s.halted ∧
    (s.setProd die b v).dictQ = s.dictQ ∧ (s.setProd die b v).gws = s.gws ∧ (s.setProd die b v).objs = s.objs ∧
    (s.setProd die b v).dict = s.dict ∧ (s.setProd die b v).i2cs = s.i2cs ∧ (s.setProd die b v).cans = s.cans ∧
    (s.setProd die b v).qspis = s.qspis ∧ (s.setProd die b v).dbgs = s.dbgs ∧ (s.setProd die b v).pccs = s.pccs ∧
    (s.setProd die b v).hotDies = s.hotDies ∧ (s.setProd die b v).faultWhy = s.faultWhy ∧ (s.setProd die b v).jtag = s.jtag ∧
    (s.setProd die b v).irqSent = s.irqSent ∧ (s.setProd die b v).irqCopy = s.irqCopy ∧ (s.setProd die b v).irqClaims = s.irqClaims ∧
    (s.setProd die b v).kpClaims = s.kpClaims ∧ (s.setProd die b v).swLv = s.swLv ∧ (s.setProd die b v).readyAt = s.readyAt ∧
    (s.setProd die b v).fcReset = s.fcReset ∧ (s.setProd die b v).kpVer = s.kpVer ∧ (s.setProd die b v).kpReq = s.kpReq ∧
    (s.setProd die b v).rstLow = s.rstLow ∧ (s.setProd die b v).ubFirst = s.ubFirst ∧ (∀ j, (s.setProd die b v).rd j = s.rd j) ∧
    (∀ j, (s.setProd die b v).act j = s.act j) ∧ (∀ j k2, (s.setProd die b v).byteAt j k2 = s.byteAt j k2) ∧
    (∀ j, (s.setProd die b v).timeOf j = s.timeOf j) ∧ (∀ j, (s.setProd die b v).i2cS j = s.i2cS j) ∧
    (∀ j, (s.setProd die b v).pcc j = s.pcc j) ∧ (∀ j, (s.setProd die b v).efS j = s.efS j) ∧
    (∀ j, (s.setProd die b v).scrub j = s.scrub j) ∧ (∀ j k2, (s.setProd die b v).queue j k2 = s.queue j k2) ∧
    (∀ j k2, (s.setProd die b v).ckS j k2 = s.ckS j k2) ∧ (∀ j, (s.setProd die b v).port j = s.port j) ∧
    (∀ j k2, (s.setProd die b v).alarm j k2 = s.alarm j k2) ∧ (∀ j, (s.setProd die b v).sch j = s.sch j) ∧
    (∀ j, (s.setProd die b v).sis1 j = s.sis1 j) ∧ (∀ j, (s.setProd die b v).pipe j = s.pipe j) ∧
    (∀ j k2 k3, (s.setProd die b v).chan j k2 k3 = s.chan j k2 k3) ∧ (∀ j k2, (s.setProd die b v).eng j k2 = s.eng j k2) ∧
    (∀ j, (s.setProd die b v).ep j = s.ep j) ∧ (∀ j k2, (s.setProd die b v).ledger j k2 = s.ledger j k2) ∧
    (∀ j k2, (s.setProd die b v).modS j k2 = s.modS j k2) ∧ (∀ j, (s.setProd die b v).axS j = s.axS j) ∧
    (∀ j, (s.setProd die b v).jnS j = s.jnS j) ∧ (∀ j, (s.setProd die b v).huS j = s.huS j) ∧
    (∀ j k2, (s.setProd die b v).hb j k2 = s.hb j k2) ∧ (∀ j, (s.setProd die b v).canS j = s.canS j) ∧
    (∀ j, (s.setProd die b v).qspiS j = s.qspiS j) ∧ (∀ j, (s.setProd die b v).dbg j = s.dbg j) ∧
    (∀ j k2, (s.setProd die b v).swOn j k2 = s.swOn j k2) := by
  and_intros <;> intros <;> rfl

@[simp] theorem State.setCk_same (s : State) (die : Nat) (u : Nat) (v : CkS) :
    (s.setCk die u v).pending = s.pending ∧ (s.setCk die u v).part = s.part ∧ (s.setCk die u v).cycle = s.cycle ∧
    (s.setCk die u v).free = s.free ∧ (s.setCk die u v).resp = s.resp ∧ (s.setCk die u v).out = s.out ∧ (s.setCk die u v).regs = s.regs ∧
    (s.setCk die u v).acts = s.acts ∧ (s.setCk die u v).latches = s.latches ∧ (s.setCk die u v).mem = s.mem ∧
    (s.setCk die u v).lead = s.lead ∧ (s.setCk die u v).times = s.times ∧ (s.setCk die u v).tm = s.tm ∧
    (s.setCk die u v).alarms = s.alarms ∧ (s.setCk die u v).queues = s.queues ∧ (s.setCk die u v).prods = s.prods ∧
    (s.setCk die u v).healthLost = s.healthLost ∧ (s.setCk die u v).efs = s.efs ∧ (s.setCk die u v).ports = s.ports ∧
    (s.setCk die u v).sis = s.sis ∧ (s.setCk die u v).pipes = s.pipes ∧ (s.setCk die u v).schs = s.schs ∧
    (s.setCk die u v).sched = s.sched ∧ (s.setCk die u v).finalC = s.finalC ∧ (s.setCk die u v).cellPtr = s.cellPtr ∧
    (s.setCk die u v).cellMem = s.cellMem ∧ (s.setCk die u v).fences = s.fences ∧ (s.setCk die u v).chans = s.chans ∧
    (s.setCk die u v).engs = s.engs ∧ (s.setCk die u v).eps = s.eps ∧ (s.setCk die u v).ledgers = s.ledgers ∧
    (s.setCk die u v).epoch = s.epoch ∧ (s.setCk die u v).weirOn = s.weirOn ∧ (s.setCk die u v).lostDies = s.lostDies ∧
    (s.setCk die u v).mods = s.mods ∧ (s.setCk die u v).axes = s.axes ∧ (s.setCk die u v).relaySt = s.relaySt ∧
    (s.setCk die u v).relayJ = s.relayJ ∧ (s.setCk die u v).jns = s.jns ∧ (s.setCk die u v).hus = s.hus ∧
    (s.setCk die u v).parked = s.parked ∧ (s.setCk die u v).shutNormal = s.shutNormal ∧ (s.setCk die u v).fcChans = s.fcChans ∧
    (s.setCk die u v).restarts = s.restarts ∧ (s.setCk die u v).switchAt = s.switchAt ∧ (s.setCk die u v).hbs = s.hbs ∧
    (s.setCk die u v).hbOn = s.hbOn ∧ (s.setCk die u v).plannedAt = s.plannedAt ∧ (s.setCk die u v).declared = s.declared ∧
    (s.setCk die u v).modLost = s.modLost ∧ (s.setCk die u v).peerUpAt = s.peerUpAt ∧ (s.setCk die u v).scrubAt = s.scrubAt ∧
    (s.setCk die u v).wdogs = s.wdogs ∧ (s.setCk die u v).halted = s.halted ∧ (s.setCk die u v).dictQ = s.dictQ ∧
    (s.setCk die u v).gws = s.gws ∧ (s.setCk die u v).objs = s.objs ∧ (s.setCk die u v).dict = s.dict ∧ (s.setCk die u v).i2cs = s.i2cs ∧
    (s.setCk die u v).cans = s.cans ∧ (s.setCk die u v).qspis = s.qspis ∧ (s.setCk die u v).dbgs = s.dbgs ∧
    (s.setCk die u v).pccs = s.pccs ∧ (s.setCk die u v).hotDies = s.hotDies ∧ (s.setCk die u v).faultWhy = s.faultWhy ∧
    (s.setCk die u v).jtag = s.jtag ∧ (s.setCk die u v).irqSent = s.irqSent ∧ (s.setCk die u v).irqCopy = s.irqCopy ∧
    (s.setCk die u v).irqClaims = s.irqClaims ∧ (s.setCk die u v).kpClaims = s.kpClaims ∧ (s.setCk die u v).swLv = s.swLv ∧
    (s.setCk die u v).readyAt = s.readyAt ∧ (s.setCk die u v).fcReset = s.fcReset ∧ (s.setCk die u v).kpVer = s.kpVer ∧
    (s.setCk die u v).kpReq = s.kpReq ∧ (s.setCk die u v).rstLow = s.rstLow ∧ (s.setCk die u v).ubFirst = s.ubFirst ∧
    (∀ j, (s.setCk die u v).rd j = s.rd j) ∧ (∀ j, (s.setCk die u v).act j = s.act j) ∧
    (∀ j k2, (s.setCk die u v).byteAt j k2 = s.byteAt j k2) ∧ (∀ j, (s.setCk die u v).timeOf j = s.timeOf j) ∧
    (∀ j, (s.setCk die u v).i2cS j = s.i2cS j) ∧ (∀ j, (s.setCk die u v).pcc j = s.pcc j) ∧ (∀ j, (s.setCk die u v).efS j = s.efS j) ∧
    (∀ j, (s.setCk die u v).scrub j = s.scrub j) ∧ (∀ j k2, (s.setCk die u v).queue j k2 = s.queue j k2) ∧
    (∀ j k2, (s.setCk die u v).prod j k2 = s.prod j k2) ∧ (∀ j, (s.setCk die u v).port j = s.port j) ∧
    (∀ j k2, (s.setCk die u v).alarm j k2 = s.alarm j k2) ∧ (∀ j, (s.setCk die u v).sch j = s.sch j) ∧
    (∀ j, (s.setCk die u v).sis1 j = s.sis1 j) ∧ (∀ j, (s.setCk die u v).pipe j = s.pipe j) ∧
    (∀ j k2 k3, (s.setCk die u v).chan j k2 k3 = s.chan j k2 k3) ∧ (∀ j k2, (s.setCk die u v).eng j k2 = s.eng j k2) ∧
    (∀ j, (s.setCk die u v).ep j = s.ep j) ∧ (∀ j k2, (s.setCk die u v).ledger j k2 = s.ledger j k2) ∧
    (∀ j k2, (s.setCk die u v).modS j k2 = s.modS j k2) ∧ (∀ j, (s.setCk die u v).axS j = s.axS j) ∧
    (∀ j, (s.setCk die u v).jnS j = s.jnS j) ∧ (∀ j, (s.setCk die u v).huS j = s.huS j) ∧
    (∀ j k2, (s.setCk die u v).hb j k2 = s.hb j k2) ∧ (∀ j, (s.setCk die u v).canS j = s.canS j) ∧
    (∀ j, (s.setCk die u v).qspiS j = s.qspiS j) ∧ (∀ j, (s.setCk die u v).dbg j = s.dbg j) ∧
    (∀ j k2, (s.setCk die u v).swOn j k2 = s.swOn j k2) := by
  and_intros <;> intros <;> rfl

@[simp] theorem State.setHealthLost_same (s : State) (die : Nat) (n : Nat) :
    (s.setHealthLost die n).pending = s.pending ∧ (s.setHealthLost die n).part = s.part ∧ (s.setHealthLost die n).cycle = s.cycle ∧
    (s.setHealthLost die n).free = s.free ∧ (s.setHealthLost die n).resp = s.resp ∧ (s.setHealthLost die n).out = s.out ∧
    (s.setHealthLost die n).regs = s.regs ∧ (s.setHealthLost die n).acts = s.acts ∧ (s.setHealthLost die n).latches = s.latches ∧
    (s.setHealthLost die n).mem = s.mem ∧ (s.setHealthLost die n).lead = s.lead ∧ (s.setHealthLost die n).times = s.times ∧
    (s.setHealthLost die n).tm = s.tm ∧ (s.setHealthLost die n).alarms = s.alarms ∧ (s.setHealthLost die n).queues = s.queues ∧
    (s.setHealthLost die n).prods = s.prods ∧ (s.setHealthLost die n).cks = s.cks ∧ (s.setHealthLost die n).efs = s.efs ∧
    (s.setHealthLost die n).ports = s.ports ∧ (s.setHealthLost die n).sis = s.sis ∧ (s.setHealthLost die n).pipes = s.pipes ∧
    (s.setHealthLost die n).schs = s.schs ∧ (s.setHealthLost die n).sched = s.sched ∧ (s.setHealthLost die n).finalC = s.finalC ∧
    (s.setHealthLost die n).cellPtr = s.cellPtr ∧ (s.setHealthLost die n).cellMem = s.cellMem ∧
    (s.setHealthLost die n).fences = s.fences ∧ (s.setHealthLost die n).chans = s.chans ∧ (s.setHealthLost die n).engs = s.engs ∧
    (s.setHealthLost die n).eps = s.eps ∧ (s.setHealthLost die n).ledgers = s.ledgers ∧ (s.setHealthLost die n).epoch = s.epoch ∧
    (s.setHealthLost die n).weirOn = s.weirOn ∧ (s.setHealthLost die n).lostDies = s.lostDies ∧ (s.setHealthLost die n).mods = s.mods ∧
    (s.setHealthLost die n).axes = s.axes ∧ (s.setHealthLost die n).relaySt = s.relaySt ∧ (s.setHealthLost die n).relayJ = s.relayJ ∧
    (s.setHealthLost die n).jns = s.jns ∧ (s.setHealthLost die n).hus = s.hus ∧ (s.setHealthLost die n).parked = s.parked ∧
    (s.setHealthLost die n).shutNormal = s.shutNormal ∧ (s.setHealthLost die n).fcChans = s.fcChans ∧
    (s.setHealthLost die n).restarts = s.restarts ∧ (s.setHealthLost die n).switchAt = s.switchAt ∧ (s.setHealthLost die n).hbs = s.hbs ∧
    (s.setHealthLost die n).hbOn = s.hbOn ∧ (s.setHealthLost die n).plannedAt = s.plannedAt ∧
    (s.setHealthLost die n).declared = s.declared ∧ (s.setHealthLost die n).modLost = s.modLost ∧
    (s.setHealthLost die n).peerUpAt = s.peerUpAt ∧ (s.setHealthLost die n).scrubAt = s.scrubAt ∧
    (s.setHealthLost die n).wdogs = s.wdogs ∧ (s.setHealthLost die n).halted = s.halted ∧ (s.setHealthLost die n).dictQ = s.dictQ ∧
    (s.setHealthLost die n).gws = s.gws ∧ (s.setHealthLost die n).objs = s.objs ∧ (s.setHealthLost die n).dict = s.dict ∧
    (s.setHealthLost die n).i2cs = s.i2cs ∧ (s.setHealthLost die n).cans = s.cans ∧ (s.setHealthLost die n).qspis = s.qspis ∧
    (s.setHealthLost die n).dbgs = s.dbgs ∧ (s.setHealthLost die n).pccs = s.pccs ∧ (s.setHealthLost die n).hotDies = s.hotDies ∧
    (s.setHealthLost die n).faultWhy = s.faultWhy ∧ (s.setHealthLost die n).jtag = s.jtag ∧ (s.setHealthLost die n).irqSent = s.irqSent ∧
    (s.setHealthLost die n).irqCopy = s.irqCopy ∧ (s.setHealthLost die n).irqClaims = s.irqClaims ∧
    (s.setHealthLost die n).kpClaims = s.kpClaims ∧ (s.setHealthLost die n).swLv = s.swLv ∧ (s.setHealthLost die n).readyAt = s.readyAt ∧
    (s.setHealthLost die n).fcReset = s.fcReset ∧ (s.setHealthLost die n).kpVer = s.kpVer ∧ (s.setHealthLost die n).kpReq = s.kpReq ∧
    (s.setHealthLost die n).rstLow = s.rstLow ∧ (s.setHealthLost die n).ubFirst = s.ubFirst ∧
    (∀ j, (s.setHealthLost die n).rd j = s.rd j) ∧ (∀ j, (s.setHealthLost die n).act j = s.act j) ∧
    (∀ j k2, (s.setHealthLost die n).byteAt j k2 = s.byteAt j k2) ∧ (∀ j, (s.setHealthLost die n).timeOf j = s.timeOf j) ∧
    (∀ j, (s.setHealthLost die n).i2cS j = s.i2cS j) ∧ (∀ j, (s.setHealthLost die n).pcc j = s.pcc j) ∧
    (∀ j, (s.setHealthLost die n).efS j = s.efS j) ∧ (∀ j, (s.setHealthLost die n).scrub j = s.scrub j) ∧
    (∀ j k2, (s.setHealthLost die n).queue j k2 = s.queue j k2) ∧ (∀ j k2, (s.setHealthLost die n).prod j k2 = s.prod j k2) ∧
    (∀ j k2, (s.setHealthLost die n).ckS j k2 = s.ckS j k2) ∧ (∀ j, (s.setHealthLost die n).port j = s.port j) ∧
    (∀ j k2, (s.setHealthLost die n).alarm j k2 = s.alarm j k2) ∧ (∀ j, (s.setHealthLost die n).sch j = s.sch j) ∧
    (∀ j, (s.setHealthLost die n).sis1 j = s.sis1 j) ∧ (∀ j, (s.setHealthLost die n).pipe j = s.pipe j) ∧
    (∀ j k2 k3, (s.setHealthLost die n).chan j k2 k3 = s.chan j k2 k3) ∧ (∀ j k2, (s.setHealthLost die n).eng j k2 = s.eng j k2) ∧
    (∀ j, (s.setHealthLost die n).ep j = s.ep j) ∧ (∀ j k2, (s.setHealthLost die n).ledger j k2 = s.ledger j k2) ∧
    (∀ j k2, (s.setHealthLost die n).modS j k2 = s.modS j k2) ∧ (∀ j, (s.setHealthLost die n).axS j = s.axS j) ∧
    (∀ j, (s.setHealthLost die n).jnS j = s.jnS j) ∧ (∀ j, (s.setHealthLost die n).huS j = s.huS j) ∧
    (∀ j k2, (s.setHealthLost die n).hb j k2 = s.hb j k2) ∧ (∀ j, (s.setHealthLost die n).canS j = s.canS j) ∧
    (∀ j, (s.setHealthLost die n).qspiS j = s.qspiS j) ∧ (∀ j, (s.setHealthLost die n).dbg j = s.dbg j) ∧
    (∀ j k2, (s.setHealthLost die n).swOn j k2 = s.swOn j k2) := by
  and_intros <;> intros <;> rfl

@[simp] theorem State.setPort_same (s : State) (p : Nat) (v : PortS) :
    (s.setPort p v).pending = s.pending ∧ (s.setPort p v).part = s.part ∧ (s.setPort p v).cycle = s.cycle ∧
    (s.setPort p v).free = s.free ∧ (s.setPort p v).resp = s.resp ∧ (s.setPort p v).out = s.out ∧ (s.setPort p v).regs = s.regs ∧
    (s.setPort p v).acts = s.acts ∧ (s.setPort p v).latches = s.latches ∧ (s.setPort p v).mem = s.mem ∧ (s.setPort p v).lead = s.lead ∧
    (s.setPort p v).times = s.times ∧ (s.setPort p v).tm = s.tm ∧ (s.setPort p v).alarms = s.alarms ∧ (s.setPort p v).queues = s.queues ∧
    (s.setPort p v).prods = s.prods ∧ (s.setPort p v).healthLost = s.healthLost ∧ (s.setPort p v).cks = s.cks ∧
    (s.setPort p v).efs = s.efs ∧ (s.setPort p v).sis = s.sis ∧ (s.setPort p v).pipes = s.pipes ∧ (s.setPort p v).schs = s.schs ∧
    (s.setPort p v).sched = s.sched ∧ (s.setPort p v).finalC = s.finalC ∧ (s.setPort p v).cellPtr = s.cellPtr ∧
    (s.setPort p v).cellMem = s.cellMem ∧ (s.setPort p v).fences = s.fences ∧ (s.setPort p v).chans = s.chans ∧
    (s.setPort p v).engs = s.engs ∧ (s.setPort p v).eps = s.eps ∧ (s.setPort p v).ledgers = s.ledgers ∧ (s.setPort p v).epoch = s.epoch ∧
    (s.setPort p v).weirOn = s.weirOn ∧ (s.setPort p v).lostDies = s.lostDies ∧ (s.setPort p v).mods = s.mods ∧
    (s.setPort p v).axes = s.axes ∧ (s.setPort p v).relaySt = s.relaySt ∧ (s.setPort p v).relayJ = s.relayJ ∧
    (s.setPort p v).jns = s.jns ∧ (s.setPort p v).hus = s.hus ∧ (s.setPort p v).parked = s.parked ∧
    (s.setPort p v).shutNormal = s.shutNormal ∧ (s.setPort p v).fcChans = s.fcChans ∧ (s.setPort p v).restarts = s.restarts ∧
    (s.setPort p v).switchAt = s.switchAt ∧ (s.setPort p v).hbs = s.hbs ∧ (s.setPort p v).hbOn = s.hbOn ∧
    (s.setPort p v).plannedAt = s.plannedAt ∧ (s.setPort p v).declared = s.declared ∧ (s.setPort p v).modLost = s.modLost ∧
    (s.setPort p v).peerUpAt = s.peerUpAt ∧ (s.setPort p v).scrubAt = s.scrubAt ∧ (s.setPort p v).wdogs = s.wdogs ∧
    (s.setPort p v).halted = s.halted ∧ (s.setPort p v).dictQ = s.dictQ ∧ (s.setPort p v).gws = s.gws ∧ (s.setPort p v).objs = s.objs ∧
    (s.setPort p v).dict = s.dict ∧ (s.setPort p v).i2cs = s.i2cs ∧ (s.setPort p v).cans = s.cans ∧ (s.setPort p v).qspis = s.qspis ∧
    (s.setPort p v).dbgs = s.dbgs ∧ (s.setPort p v).pccs = s.pccs ∧ (s.setPort p v).hotDies = s.hotDies ∧
    (s.setPort p v).faultWhy = s.faultWhy ∧ (s.setPort p v).jtag = s.jtag ∧ (s.setPort p v).irqSent = s.irqSent ∧
    (s.setPort p v).irqCopy = s.irqCopy ∧ (s.setPort p v).irqClaims = s.irqClaims ∧ (s.setPort p v).kpClaims = s.kpClaims ∧
    (s.setPort p v).swLv = s.swLv ∧ (s.setPort p v).readyAt = s.readyAt ∧ (s.setPort p v).fcReset = s.fcReset ∧
    (s.setPort p v).kpVer = s.kpVer ∧ (s.setPort p v).kpReq = s.kpReq ∧ (s.setPort p v).rstLow = s.rstLow ∧
    (s.setPort p v).ubFirst = s.ubFirst ∧ (∀ j, (s.setPort p v).rd j = s.rd j) ∧ (∀ j, (s.setPort p v).act j = s.act j) ∧
    (∀ j k2, (s.setPort p v).byteAt j k2 = s.byteAt j k2) ∧ (∀ j, (s.setPort p v).timeOf j = s.timeOf j) ∧
    (∀ j, (s.setPort p v).i2cS j = s.i2cS j) ∧ (∀ j, (s.setPort p v).pcc j = s.pcc j) ∧ (∀ j, (s.setPort p v).efS j = s.efS j) ∧
    (∀ j, (s.setPort p v).scrub j = s.scrub j) ∧ (∀ j k2, (s.setPort p v).queue j k2 = s.queue j k2) ∧
    (∀ j k2, (s.setPort p v).prod j k2 = s.prod j k2) ∧ (∀ j k2, (s.setPort p v).ckS j k2 = s.ckS j k2) ∧
    (∀ j k2, (s.setPort p v).alarm j k2 = s.alarm j k2) ∧ (∀ j, (s.setPort p v).sch j = s.sch j) ∧
    (∀ j, (s.setPort p v).sis1 j = s.sis1 j) ∧ (∀ j, (s.setPort p v).pipe j = s.pipe j) ∧
    (∀ j k2 k3, (s.setPort p v).chan j k2 k3 = s.chan j k2 k3) ∧ (∀ j k2, (s.setPort p v).eng j k2 = s.eng j k2) ∧
    (∀ j, (s.setPort p v).ep j = s.ep j) ∧ (∀ j k2, (s.setPort p v).ledger j k2 = s.ledger j k2) ∧
    (∀ j k2, (s.setPort p v).modS j k2 = s.modS j k2) ∧ (∀ j, (s.setPort p v).axS j = s.axS j) ∧ (∀ j, (s.setPort p v).jnS j = s.jnS j) ∧
    (∀ j, (s.setPort p v).huS j = s.huS j) ∧ (∀ j k2, (s.setPort p v).hb j k2 = s.hb j k2) ∧ (∀ j, (s.setPort p v).canS j = s.canS j) ∧
    (∀ j, (s.setPort p v).qspiS j = s.qspiS j) ∧ (∀ j, (s.setPort p v).dbg j = s.dbg j) ∧
    (∀ j k2, (s.setPort p v).swOn j k2 = s.swOn j k2) := by
  and_intros <;> intros <;> rfl

@[simp] theorem State.setAlarm_same (s : State) (die : Nat) (a : Nat) (v : AlarmS) :
    (s.setAlarm die a v).pending = s.pending ∧ (s.setAlarm die a v).part = s.part ∧ (s.setAlarm die a v).cycle = s.cycle ∧
    (s.setAlarm die a v).free = s.free ∧ (s.setAlarm die a v).resp = s.resp ∧ (s.setAlarm die a v).out = s.out ∧
    (s.setAlarm die a v).regs = s.regs ∧ (s.setAlarm die a v).acts = s.acts ∧ (s.setAlarm die a v).latches = s.latches ∧
    (s.setAlarm die a v).mem = s.mem ∧ (s.setAlarm die a v).lead = s.lead ∧ (s.setAlarm die a v).times = s.times ∧
    (s.setAlarm die a v).tm = s.tm ∧ (s.setAlarm die a v).queues = s.queues ∧ (s.setAlarm die a v).prods = s.prods ∧
    (s.setAlarm die a v).healthLost = s.healthLost ∧ (s.setAlarm die a v).cks = s.cks ∧ (s.setAlarm die a v).efs = s.efs ∧
    (s.setAlarm die a v).ports = s.ports ∧ (s.setAlarm die a v).sis = s.sis ∧ (s.setAlarm die a v).pipes = s.pipes ∧
    (s.setAlarm die a v).schs = s.schs ∧ (s.setAlarm die a v).sched = s.sched ∧ (s.setAlarm die a v).finalC = s.finalC ∧
    (s.setAlarm die a v).cellPtr = s.cellPtr ∧ (s.setAlarm die a v).cellMem = s.cellMem ∧ (s.setAlarm die a v).fences = s.fences ∧
    (s.setAlarm die a v).chans = s.chans ∧ (s.setAlarm die a v).engs = s.engs ∧ (s.setAlarm die a v).eps = s.eps ∧
    (s.setAlarm die a v).ledgers = s.ledgers ∧ (s.setAlarm die a v).epoch = s.epoch ∧ (s.setAlarm die a v).weirOn = s.weirOn ∧
    (s.setAlarm die a v).lostDies = s.lostDies ∧ (s.setAlarm die a v).mods = s.mods ∧ (s.setAlarm die a v).axes = s.axes ∧
    (s.setAlarm die a v).relaySt = s.relaySt ∧ (s.setAlarm die a v).relayJ = s.relayJ ∧ (s.setAlarm die a v).jns = s.jns ∧
    (s.setAlarm die a v).hus = s.hus ∧ (s.setAlarm die a v).parked = s.parked ∧ (s.setAlarm die a v).shutNormal = s.shutNormal ∧
    (s.setAlarm die a v).fcChans = s.fcChans ∧ (s.setAlarm die a v).restarts = s.restarts ∧ (s.setAlarm die a v).switchAt = s.switchAt ∧
    (s.setAlarm die a v).hbs = s.hbs ∧ (s.setAlarm die a v).hbOn = s.hbOn ∧ (s.setAlarm die a v).plannedAt = s.plannedAt ∧
    (s.setAlarm die a v).declared = s.declared ∧ (s.setAlarm die a v).modLost = s.modLost ∧ (s.setAlarm die a v).peerUpAt = s.peerUpAt ∧
    (s.setAlarm die a v).scrubAt = s.scrubAt ∧ (s.setAlarm die a v).wdogs = s.wdogs ∧ (s.setAlarm die a v).halted = s.halted ∧
    (s.setAlarm die a v).dictQ = s.dictQ ∧ (s.setAlarm die a v).gws = s.gws ∧ (s.setAlarm die a v).objs = s.objs ∧
    (s.setAlarm die a v).dict = s.dict ∧ (s.setAlarm die a v).i2cs = s.i2cs ∧ (s.setAlarm die a v).cans = s.cans ∧
    (s.setAlarm die a v).qspis = s.qspis ∧ (s.setAlarm die a v).dbgs = s.dbgs ∧ (s.setAlarm die a v).pccs = s.pccs ∧
    (s.setAlarm die a v).hotDies = s.hotDies ∧ (s.setAlarm die a v).faultWhy = s.faultWhy ∧ (s.setAlarm die a v).jtag = s.jtag ∧
    (s.setAlarm die a v).irqSent = s.irqSent ∧ (s.setAlarm die a v).irqCopy = s.irqCopy ∧ (s.setAlarm die a v).irqClaims = s.irqClaims ∧
    (s.setAlarm die a v).kpClaims = s.kpClaims ∧ (s.setAlarm die a v).swLv = s.swLv ∧ (s.setAlarm die a v).readyAt = s.readyAt ∧
    (s.setAlarm die a v).fcReset = s.fcReset ∧ (s.setAlarm die a v).kpVer = s.kpVer ∧ (s.setAlarm die a v).kpReq = s.kpReq ∧
    (s.setAlarm die a v).rstLow = s.rstLow ∧ (s.setAlarm die a v).ubFirst = s.ubFirst ∧ (∀ j, (s.setAlarm die a v).rd j = s.rd j) ∧
    (∀ j, (s.setAlarm die a v).act j = s.act j) ∧ (∀ j k2, (s.setAlarm die a v).byteAt j k2 = s.byteAt j k2) ∧
    (∀ j, (s.setAlarm die a v).timeOf j = s.timeOf j) ∧ (∀ j, (s.setAlarm die a v).i2cS j = s.i2cS j) ∧
    (∀ j, (s.setAlarm die a v).pcc j = s.pcc j) ∧ (∀ j, (s.setAlarm die a v).efS j = s.efS j) ∧
    (∀ j, (s.setAlarm die a v).scrub j = s.scrub j) ∧ (∀ j k2, (s.setAlarm die a v).queue j k2 = s.queue j k2) ∧
    (∀ j k2, (s.setAlarm die a v).prod j k2 = s.prod j k2) ∧ (∀ j k2, (s.setAlarm die a v).ckS j k2 = s.ckS j k2) ∧
    (∀ j, (s.setAlarm die a v).port j = s.port j) ∧ (∀ j, (s.setAlarm die a v).sch j = s.sch j) ∧
    (∀ j, (s.setAlarm die a v).sis1 j = s.sis1 j) ∧ (∀ j, (s.setAlarm die a v).pipe j = s.pipe j) ∧
    (∀ j k2 k3, (s.setAlarm die a v).chan j k2 k3 = s.chan j k2 k3) ∧ (∀ j k2, (s.setAlarm die a v).eng j k2 = s.eng j k2) ∧
    (∀ j, (s.setAlarm die a v).ep j = s.ep j) ∧ (∀ j k2, (s.setAlarm die a v).ledger j k2 = s.ledger j k2) ∧
    (∀ j k2, (s.setAlarm die a v).modS j k2 = s.modS j k2) ∧ (∀ j, (s.setAlarm die a v).axS j = s.axS j) ∧
    (∀ j, (s.setAlarm die a v).jnS j = s.jnS j) ∧ (∀ j, (s.setAlarm die a v).huS j = s.huS j) ∧
    (∀ j k2, (s.setAlarm die a v).hb j k2 = s.hb j k2) ∧ (∀ j, (s.setAlarm die a v).canS j = s.canS j) ∧
    (∀ j, (s.setAlarm die a v).qspiS j = s.qspiS j) ∧ (∀ j, (s.setAlarm die a v).dbg j = s.dbg j) ∧
    (∀ j k2, (s.setAlarm die a v).swOn j k2 = s.swOn j k2) := by
  and_intros <;> intros <;> rfl

@[simp] theorem State.setSch_same (s : State) (st : Nat) (v : SchS) :
    (s.setSch st v).pending = s.pending ∧ (s.setSch st v).part = s.part ∧ (s.setSch st v).cycle = s.cycle ∧
    (s.setSch st v).free = s.free ∧ (s.setSch st v).resp = s.resp ∧ (s.setSch st v).out = s.out ∧ (s.setSch st v).regs = s.regs ∧
    (s.setSch st v).acts = s.acts ∧ (s.setSch st v).latches = s.latches ∧ (s.setSch st v).mem = s.mem ∧ (s.setSch st v).lead = s.lead ∧
    (s.setSch st v).times = s.times ∧ (s.setSch st v).tm = s.tm ∧ (s.setSch st v).alarms = s.alarms ∧ (s.setSch st v).queues = s.queues ∧
    (s.setSch st v).prods = s.prods ∧ (s.setSch st v).healthLost = s.healthLost ∧ (s.setSch st v).cks = s.cks ∧
    (s.setSch st v).efs = s.efs ∧ (s.setSch st v).ports = s.ports ∧ (s.setSch st v).sis = s.sis ∧ (s.setSch st v).pipes = s.pipes ∧
    (s.setSch st v).sched = s.sched ∧ (s.setSch st v).finalC = s.finalC ∧ (s.setSch st v).cellPtr = s.cellPtr ∧
    (s.setSch st v).cellMem = s.cellMem ∧ (s.setSch st v).fences = s.fences ∧ (s.setSch st v).chans = s.chans ∧
    (s.setSch st v).engs = s.engs ∧ (s.setSch st v).eps = s.eps ∧ (s.setSch st v).ledgers = s.ledgers ∧ (s.setSch st v).epoch = s.epoch ∧
    (s.setSch st v).weirOn = s.weirOn ∧ (s.setSch st v).lostDies = s.lostDies ∧ (s.setSch st v).mods = s.mods ∧
    (s.setSch st v).axes = s.axes ∧ (s.setSch st v).relaySt = s.relaySt ∧ (s.setSch st v).relayJ = s.relayJ ∧
    (s.setSch st v).jns = s.jns ∧ (s.setSch st v).hus = s.hus ∧ (s.setSch st v).parked = s.parked ∧
    (s.setSch st v).shutNormal = s.shutNormal ∧ (s.setSch st v).fcChans = s.fcChans ∧ (s.setSch st v).restarts = s.restarts ∧
    (s.setSch st v).switchAt = s.switchAt ∧ (s.setSch st v).hbs = s.hbs ∧ (s.setSch st v).hbOn = s.hbOn ∧
    (s.setSch st v).plannedAt = s.plannedAt ∧ (s.setSch st v).declared = s.declared ∧ (s.setSch st v).modLost = s.modLost ∧
    (s.setSch st v).peerUpAt = s.peerUpAt ∧ (s.setSch st v).scrubAt = s.scrubAt ∧ (s.setSch st v).wdogs = s.wdogs ∧
    (s.setSch st v).halted = s.halted ∧ (s.setSch st v).dictQ = s.dictQ ∧ (s.setSch st v).gws = s.gws ∧ (s.setSch st v).objs = s.objs ∧
    (s.setSch st v).dict = s.dict ∧ (s.setSch st v).i2cs = s.i2cs ∧ (s.setSch st v).cans = s.cans ∧ (s.setSch st v).qspis = s.qspis ∧
    (s.setSch st v).dbgs = s.dbgs ∧ (s.setSch st v).pccs = s.pccs ∧ (s.setSch st v).hotDies = s.hotDies ∧
    (s.setSch st v).faultWhy = s.faultWhy ∧ (s.setSch st v).jtag = s.jtag ∧ (s.setSch st v).irqSent = s.irqSent ∧
    (s.setSch st v).irqCopy = s.irqCopy ∧ (s.setSch st v).irqClaims = s.irqClaims ∧ (s.setSch st v).kpClaims = s.kpClaims ∧
    (s.setSch st v).swLv = s.swLv ∧ (s.setSch st v).readyAt = s.readyAt ∧ (s.setSch st v).fcReset = s.fcReset ∧
    (s.setSch st v).kpVer = s.kpVer ∧ (s.setSch st v).kpReq = s.kpReq ∧ (s.setSch st v).rstLow = s.rstLow ∧
    (s.setSch st v).ubFirst = s.ubFirst ∧ (∀ j, (s.setSch st v).rd j = s.rd j) ∧ (∀ j, (s.setSch st v).act j = s.act j) ∧
    (∀ j k2, (s.setSch st v).byteAt j k2 = s.byteAt j k2) ∧ (∀ j, (s.setSch st v).timeOf j = s.timeOf j) ∧
    (∀ j, (s.setSch st v).i2cS j = s.i2cS j) ∧ (∀ j, (s.setSch st v).pcc j = s.pcc j) ∧ (∀ j, (s.setSch st v).efS j = s.efS j) ∧
    (∀ j, (s.setSch st v).scrub j = s.scrub j) ∧ (∀ j k2, (s.setSch st v).queue j k2 = s.queue j k2) ∧
    (∀ j k2, (s.setSch st v).prod j k2 = s.prod j k2) ∧ (∀ j k2, (s.setSch st v).ckS j k2 = s.ckS j k2) ∧
    (∀ j, (s.setSch st v).port j = s.port j) ∧ (∀ j k2, (s.setSch st v).alarm j k2 = s.alarm j k2) ∧
    (∀ j, (s.setSch st v).sis1 j = s.sis1 j) ∧ (∀ j, (s.setSch st v).pipe j = s.pipe j) ∧
    (∀ j k2 k3, (s.setSch st v).chan j k2 k3 = s.chan j k2 k3) ∧ (∀ j k2, (s.setSch st v).eng j k2 = s.eng j k2) ∧
    (∀ j, (s.setSch st v).ep j = s.ep j) ∧ (∀ j k2, (s.setSch st v).ledger j k2 = s.ledger j k2) ∧
    (∀ j k2, (s.setSch st v).modS j k2 = s.modS j k2) ∧ (∀ j, (s.setSch st v).axS j = s.axS j) ∧ (∀ j, (s.setSch st v).jnS j = s.jnS j) ∧
    (∀ j, (s.setSch st v).huS j = s.huS j) ∧ (∀ j k2, (s.setSch st v).hb j k2 = s.hb j k2) ∧ (∀ j, (s.setSch st v).canS j = s.canS j) ∧
    (∀ j, (s.setSch st v).qspiS j = s.qspiS j) ∧ (∀ j, (s.setSch st v).dbg j = s.dbg j) ∧
    (∀ j k2, (s.setSch st v).swOn j k2 = s.swOn j k2) := by
  and_intros <;> intros <;> rfl

@[simp] theorem State.setSis_same (s : State) (st : Nat) (v : SiS) :
    (s.setSis st v).pending = s.pending ∧ (s.setSis st v).part = s.part ∧ (s.setSis st v).cycle = s.cycle ∧
    (s.setSis st v).free = s.free ∧ (s.setSis st v).resp = s.resp ∧ (s.setSis st v).out = s.out ∧ (s.setSis st v).regs = s.regs ∧
    (s.setSis st v).acts = s.acts ∧ (s.setSis st v).latches = s.latches ∧ (s.setSis st v).mem = s.mem ∧ (s.setSis st v).lead = s.lead ∧
    (s.setSis st v).times = s.times ∧ (s.setSis st v).tm = s.tm ∧ (s.setSis st v).alarms = s.alarms ∧ (s.setSis st v).queues = s.queues ∧
    (s.setSis st v).prods = s.prods ∧ (s.setSis st v).healthLost = s.healthLost ∧ (s.setSis st v).cks = s.cks ∧
    (s.setSis st v).efs = s.efs ∧ (s.setSis st v).ports = s.ports ∧ (s.setSis st v).pipes = s.pipes ∧ (s.setSis st v).schs = s.schs ∧
    (s.setSis st v).sched = s.sched ∧ (s.setSis st v).finalC = s.finalC ∧ (s.setSis st v).cellPtr = s.cellPtr ∧
    (s.setSis st v).cellMem = s.cellMem ∧ (s.setSis st v).fences = s.fences ∧ (s.setSis st v).chans = s.chans ∧
    (s.setSis st v).engs = s.engs ∧ (s.setSis st v).eps = s.eps ∧ (s.setSis st v).ledgers = s.ledgers ∧ (s.setSis st v).epoch = s.epoch ∧
    (s.setSis st v).weirOn = s.weirOn ∧ (s.setSis st v).lostDies = s.lostDies ∧ (s.setSis st v).mods = s.mods ∧
    (s.setSis st v).axes = s.axes ∧ (s.setSis st v).relaySt = s.relaySt ∧ (s.setSis st v).relayJ = s.relayJ ∧
    (s.setSis st v).jns = s.jns ∧ (s.setSis st v).hus = s.hus ∧ (s.setSis st v).parked = s.parked ∧
    (s.setSis st v).shutNormal = s.shutNormal ∧ (s.setSis st v).fcChans = s.fcChans ∧ (s.setSis st v).restarts = s.restarts ∧
    (s.setSis st v).switchAt = s.switchAt ∧ (s.setSis st v).hbs = s.hbs ∧ (s.setSis st v).hbOn = s.hbOn ∧
    (s.setSis st v).plannedAt = s.plannedAt ∧ (s.setSis st v).declared = s.declared ∧ (s.setSis st v).modLost = s.modLost ∧
    (s.setSis st v).peerUpAt = s.peerUpAt ∧ (s.setSis st v).scrubAt = s.scrubAt ∧ (s.setSis st v).wdogs = s.wdogs ∧
    (s.setSis st v).halted = s.halted ∧ (s.setSis st v).dictQ = s.dictQ ∧ (s.setSis st v).gws = s.gws ∧ (s.setSis st v).objs = s.objs ∧
    (s.setSis st v).dict = s.dict ∧ (s.setSis st v).i2cs = s.i2cs ∧ (s.setSis st v).cans = s.cans ∧ (s.setSis st v).qspis = s.qspis ∧
    (s.setSis st v).dbgs = s.dbgs ∧ (s.setSis st v).pccs = s.pccs ∧ (s.setSis st v).hotDies = s.hotDies ∧
    (s.setSis st v).faultWhy = s.faultWhy ∧ (s.setSis st v).jtag = s.jtag ∧ (s.setSis st v).irqSent = s.irqSent ∧
    (s.setSis st v).irqCopy = s.irqCopy ∧ (s.setSis st v).irqClaims = s.irqClaims ∧ (s.setSis st v).kpClaims = s.kpClaims ∧
    (s.setSis st v).swLv = s.swLv ∧ (s.setSis st v).readyAt = s.readyAt ∧ (s.setSis st v).fcReset = s.fcReset ∧
    (s.setSis st v).kpVer = s.kpVer ∧ (s.setSis st v).kpReq = s.kpReq ∧ (s.setSis st v).rstLow = s.rstLow ∧
    (s.setSis st v).ubFirst = s.ubFirst ∧ (∀ j, (s.setSis st v).rd j = s.rd j) ∧ (∀ j, (s.setSis st v).act j = s.act j) ∧
    (∀ j k2, (s.setSis st v).byteAt j k2 = s.byteAt j k2) ∧ (∀ j, (s.setSis st v).timeOf j = s.timeOf j) ∧
    (∀ j, (s.setSis st v).i2cS j = s.i2cS j) ∧ (∀ j, (s.setSis st v).pcc j = s.pcc j) ∧ (∀ j, (s.setSis st v).efS j = s.efS j) ∧
    (∀ j, (s.setSis st v).scrub j = s.scrub j) ∧ (∀ j k2, (s.setSis st v).queue j k2 = s.queue j k2) ∧
    (∀ j k2, (s.setSis st v).prod j k2 = s.prod j k2) ∧ (∀ j k2, (s.setSis st v).ckS j k2 = s.ckS j k2) ∧
    (∀ j, (s.setSis st v).port j = s.port j) ∧ (∀ j k2, (s.setSis st v).alarm j k2 = s.alarm j k2) ∧
    (∀ j, (s.setSis st v).sch j = s.sch j) ∧ (∀ j, (s.setSis st v).pipe j = s.pipe j) ∧
    (∀ j k2 k3, (s.setSis st v).chan j k2 k3 = s.chan j k2 k3) ∧ (∀ j k2, (s.setSis st v).eng j k2 = s.eng j k2) ∧
    (∀ j, (s.setSis st v).ep j = s.ep j) ∧ (∀ j k2, (s.setSis st v).ledger j k2 = s.ledger j k2) ∧
    (∀ j k2, (s.setSis st v).modS j k2 = s.modS j k2) ∧ (∀ j, (s.setSis st v).axS j = s.axS j) ∧ (∀ j, (s.setSis st v).jnS j = s.jnS j) ∧
    (∀ j, (s.setSis st v).huS j = s.huS j) ∧ (∀ j k2, (s.setSis st v).hb j k2 = s.hb j k2) ∧ (∀ j, (s.setSis st v).canS j = s.canS j) ∧
    (∀ j, (s.setSis st v).qspiS j = s.qspiS j) ∧ (∀ j, (s.setSis st v).dbg j = s.dbg j) ∧
    (∀ j k2, (s.setSis st v).swOn j k2 = s.swOn j k2) := by
  and_intros <;> intros <;> rfl

@[simp] theorem State.setPipe_same (s : State) (n : Nat) (v : PipeS) :
    (s.setPipe n v).pending = s.pending ∧ (s.setPipe n v).part = s.part ∧ (s.setPipe n v).cycle = s.cycle ∧
    (s.setPipe n v).free = s.free ∧ (s.setPipe n v).resp = s.resp ∧ (s.setPipe n v).out = s.out ∧ (s.setPipe n v).regs = s.regs ∧
    (s.setPipe n v).acts = s.acts ∧ (s.setPipe n v).latches = s.latches ∧ (s.setPipe n v).mem = s.mem ∧ (s.setPipe n v).lead = s.lead ∧
    (s.setPipe n v).times = s.times ∧ (s.setPipe n v).tm = s.tm ∧ (s.setPipe n v).alarms = s.alarms ∧ (s.setPipe n v).queues = s.queues ∧
    (s.setPipe n v).prods = s.prods ∧ (s.setPipe n v).healthLost = s.healthLost ∧ (s.setPipe n v).cks = s.cks ∧
    (s.setPipe n v).efs = s.efs ∧ (s.setPipe n v).ports = s.ports ∧ (s.setPipe n v).sis = s.sis ∧ (s.setPipe n v).schs = s.schs ∧
    (s.setPipe n v).sched = s.sched ∧ (s.setPipe n v).finalC = s.finalC ∧ (s.setPipe n v).cellPtr = s.cellPtr ∧
    (s.setPipe n v).cellMem = s.cellMem ∧ (s.setPipe n v).fences = s.fences ∧ (s.setPipe n v).chans = s.chans ∧
    (s.setPipe n v).engs = s.engs ∧ (s.setPipe n v).eps = s.eps ∧ (s.setPipe n v).ledgers = s.ledgers ∧ (s.setPipe n v).epoch = s.epoch ∧
    (s.setPipe n v).weirOn = s.weirOn ∧ (s.setPipe n v).lostDies = s.lostDies ∧ (s.setPipe n v).mods = s.mods ∧
    (s.setPipe n v).axes = s.axes ∧ (s.setPipe n v).relaySt = s.relaySt ∧ (s.setPipe n v).relayJ = s.relayJ ∧
    (s.setPipe n v).jns = s.jns ∧ (s.setPipe n v).hus = s.hus ∧ (s.setPipe n v).parked = s.parked ∧
    (s.setPipe n v).shutNormal = s.shutNormal ∧ (s.setPipe n v).fcChans = s.fcChans ∧ (s.setPipe n v).restarts = s.restarts ∧
    (s.setPipe n v).switchAt = s.switchAt ∧ (s.setPipe n v).hbs = s.hbs ∧ (s.setPipe n v).hbOn = s.hbOn ∧
    (s.setPipe n v).plannedAt = s.plannedAt ∧ (s.setPipe n v).declared = s.declared ∧ (s.setPipe n v).modLost = s.modLost ∧
    (s.setPipe n v).peerUpAt = s.peerUpAt ∧ (s.setPipe n v).scrubAt = s.scrubAt ∧ (s.setPipe n v).wdogs = s.wdogs ∧
    (s.setPipe n v).halted = s.halted ∧ (s.setPipe n v).dictQ = s.dictQ ∧ (s.setPipe n v).gws = s.gws ∧ (s.setPipe n v).objs = s.objs ∧
    (s.setPipe n v).dict = s.dict ∧ (s.setPipe n v).i2cs = s.i2cs ∧ (s.setPipe n v).cans = s.cans ∧ (s.setPipe n v).qspis = s.qspis ∧
    (s.setPipe n v).dbgs = s.dbgs ∧ (s.setPipe n v).pccs = s.pccs ∧ (s.setPipe n v).hotDies = s.hotDies ∧
    (s.setPipe n v).faultWhy = s.faultWhy ∧ (s.setPipe n v).jtag = s.jtag ∧ (s.setPipe n v).irqSent = s.irqSent ∧
    (s.setPipe n v).irqCopy = s.irqCopy ∧ (s.setPipe n v).irqClaims = s.irqClaims ∧ (s.setPipe n v).kpClaims = s.kpClaims ∧
    (s.setPipe n v).swLv = s.swLv ∧ (s.setPipe n v).readyAt = s.readyAt ∧ (s.setPipe n v).fcReset = s.fcReset ∧
    (s.setPipe n v).kpVer = s.kpVer ∧ (s.setPipe n v).kpReq = s.kpReq ∧ (s.setPipe n v).rstLow = s.rstLow ∧
    (s.setPipe n v).ubFirst = s.ubFirst ∧ (∀ j, (s.setPipe n v).rd j = s.rd j) ∧ (∀ j, (s.setPipe n v).act j = s.act j) ∧
    (∀ j k2, (s.setPipe n v).byteAt j k2 = s.byteAt j k2) ∧ (∀ j, (s.setPipe n v).timeOf j = s.timeOf j) ∧
    (∀ j, (s.setPipe n v).i2cS j = s.i2cS j) ∧ (∀ j, (s.setPipe n v).pcc j = s.pcc j) ∧ (∀ j, (s.setPipe n v).efS j = s.efS j) ∧
    (∀ j, (s.setPipe n v).scrub j = s.scrub j) ∧ (∀ j k2, (s.setPipe n v).queue j k2 = s.queue j k2) ∧
    (∀ j k2, (s.setPipe n v).prod j k2 = s.prod j k2) ∧ (∀ j k2, (s.setPipe n v).ckS j k2 = s.ckS j k2) ∧
    (∀ j, (s.setPipe n v).port j = s.port j) ∧ (∀ j k2, (s.setPipe n v).alarm j k2 = s.alarm j k2) ∧
    (∀ j, (s.setPipe n v).sch j = s.sch j) ∧ (∀ j, (s.setPipe n v).sis1 j = s.sis1 j) ∧
    (∀ j k2 k3, (s.setPipe n v).chan j k2 k3 = s.chan j k2 k3) ∧ (∀ j k2, (s.setPipe n v).eng j k2 = s.eng j k2) ∧
    (∀ j, (s.setPipe n v).ep j = s.ep j) ∧ (∀ j k2, (s.setPipe n v).ledger j k2 = s.ledger j k2) ∧
    (∀ j k2, (s.setPipe n v).modS j k2 = s.modS j k2) ∧ (∀ j, (s.setPipe n v).axS j = s.axS j) ∧ (∀ j, (s.setPipe n v).jnS j = s.jnS j) ∧
    (∀ j, (s.setPipe n v).huS j = s.huS j) ∧ (∀ j k2, (s.setPipe n v).hb j k2 = s.hb j k2) ∧ (∀ j, (s.setPipe n v).canS j = s.canS j) ∧
    (∀ j, (s.setPipe n v).qspiS j = s.qspiS j) ∧ (∀ j, (s.setPipe n v).dbg j = s.dbg j) ∧
    (∀ j k2, (s.setPipe n v).swOn j k2 = s.swOn j k2) := by
  and_intros <;> intros <;> rfl

@[simp] theorem State.setChan_same (s : State) (die : Nat) (e : Nat) (c : Nat) (v : ChanS) :
    (s.setChan die e c v).pending = s.pending ∧ (s.setChan die e c v).part = s.part ∧ (s.setChan die e c v).cycle = s.cycle ∧
    (s.setChan die e c v).free = s.free ∧ (s.setChan die e c v).resp = s.resp ∧ (s.setChan die e c v).out = s.out ∧
    (s.setChan die e c v).regs = s.regs ∧ (s.setChan die e c v).acts = s.acts ∧ (s.setChan die e c v).latches = s.latches ∧
    (s.setChan die e c v).mem = s.mem ∧ (s.setChan die e c v).lead = s.lead ∧ (s.setChan die e c v).times = s.times ∧
    (s.setChan die e c v).tm = s.tm ∧ (s.setChan die e c v).alarms = s.alarms ∧ (s.setChan die e c v).queues = s.queues ∧
    (s.setChan die e c v).prods = s.prods ∧ (s.setChan die e c v).healthLost = s.healthLost ∧ (s.setChan die e c v).cks = s.cks ∧
    (s.setChan die e c v).efs = s.efs ∧ (s.setChan die e c v).ports = s.ports ∧ (s.setChan die e c v).sis = s.sis ∧
    (s.setChan die e c v).pipes = s.pipes ∧ (s.setChan die e c v).schs = s.schs ∧ (s.setChan die e c v).sched = s.sched ∧
    (s.setChan die e c v).finalC = s.finalC ∧ (s.setChan die e c v).cellPtr = s.cellPtr ∧ (s.setChan die e c v).cellMem = s.cellMem ∧
    (s.setChan die e c v).fences = s.fences ∧ (s.setChan die e c v).engs = s.engs ∧ (s.setChan die e c v).eps = s.eps ∧
    (s.setChan die e c v).ledgers = s.ledgers ∧ (s.setChan die e c v).epoch = s.epoch ∧ (s.setChan die e c v).weirOn = s.weirOn ∧
    (s.setChan die e c v).lostDies = s.lostDies ∧ (s.setChan die e c v).mods = s.mods ∧ (s.setChan die e c v).axes = s.axes ∧
    (s.setChan die e c v).relaySt = s.relaySt ∧ (s.setChan die e c v).relayJ = s.relayJ ∧ (s.setChan die e c v).jns = s.jns ∧
    (s.setChan die e c v).hus = s.hus ∧ (s.setChan die e c v).parked = s.parked ∧ (s.setChan die e c v).shutNormal = s.shutNormal ∧
    (s.setChan die e c v).fcChans = s.fcChans ∧ (s.setChan die e c v).restarts = s.restarts ∧
    (s.setChan die e c v).switchAt = s.switchAt ∧ (s.setChan die e c v).hbs = s.hbs ∧ (s.setChan die e c v).hbOn = s.hbOn ∧
    (s.setChan die e c v).plannedAt = s.plannedAt ∧ (s.setChan die e c v).declared = s.declared ∧
    (s.setChan die e c v).modLost = s.modLost ∧ (s.setChan die e c v).peerUpAt = s.peerUpAt ∧ (s.setChan die e c v).scrubAt = s.scrubAt ∧
    (s.setChan die e c v).wdogs = s.wdogs ∧ (s.setChan die e c v).halted = s.halted ∧ (s.setChan die e c v).dictQ = s.dictQ ∧
    (s.setChan die e c v).gws = s.gws ∧ (s.setChan die e c v).objs = s.objs ∧ (s.setChan die e c v).dict = s.dict ∧
    (s.setChan die e c v).i2cs = s.i2cs ∧ (s.setChan die e c v).cans = s.cans ∧ (s.setChan die e c v).qspis = s.qspis ∧
    (s.setChan die e c v).dbgs = s.dbgs ∧ (s.setChan die e c v).pccs = s.pccs ∧ (s.setChan die e c v).hotDies = s.hotDies ∧
    (s.setChan die e c v).faultWhy = s.faultWhy ∧ (s.setChan die e c v).jtag = s.jtag ∧ (s.setChan die e c v).irqSent = s.irqSent ∧
    (s.setChan die e c v).irqCopy = s.irqCopy ∧ (s.setChan die e c v).irqClaims = s.irqClaims ∧
    (s.setChan die e c v).kpClaims = s.kpClaims ∧ (s.setChan die e c v).swLv = s.swLv ∧ (s.setChan die e c v).readyAt = s.readyAt ∧
    (s.setChan die e c v).fcReset = s.fcReset ∧ (s.setChan die e c v).kpVer = s.kpVer ∧ (s.setChan die e c v).kpReq = s.kpReq ∧
    (s.setChan die e c v).rstLow = s.rstLow ∧ (s.setChan die e c v).ubFirst = s.ubFirst ∧ (∀ j, (s.setChan die e c v).rd j = s.rd j) ∧
    (∀ j, (s.setChan die e c v).act j = s.act j) ∧ (∀ j k2, (s.setChan die e c v).byteAt j k2 = s.byteAt j k2) ∧
    (∀ j, (s.setChan die e c v).timeOf j = s.timeOf j) ∧ (∀ j, (s.setChan die e c v).i2cS j = s.i2cS j) ∧
    (∀ j, (s.setChan die e c v).pcc j = s.pcc j) ∧ (∀ j, (s.setChan die e c v).efS j = s.efS j) ∧
    (∀ j, (s.setChan die e c v).scrub j = s.scrub j) ∧ (∀ j k2, (s.setChan die e c v).queue j k2 = s.queue j k2) ∧
    (∀ j k2, (s.setChan die e c v).prod j k2 = s.prod j k2) ∧ (∀ j k2, (s.setChan die e c v).ckS j k2 = s.ckS j k2) ∧
    (∀ j, (s.setChan die e c v).port j = s.port j) ∧ (∀ j k2, (s.setChan die e c v).alarm j k2 = s.alarm j k2) ∧
    (∀ j, (s.setChan die e c v).sch j = s.sch j) ∧ (∀ j, (s.setChan die e c v).sis1 j = s.sis1 j) ∧
    (∀ j, (s.setChan die e c v).pipe j = s.pipe j) ∧ (∀ j k2, (s.setChan die e c v).eng j k2 = s.eng j k2) ∧
    (∀ j, (s.setChan die e c v).ep j = s.ep j) ∧ (∀ j k2, (s.setChan die e c v).ledger j k2 = s.ledger j k2) ∧
    (∀ j k2, (s.setChan die e c v).modS j k2 = s.modS j k2) ∧ (∀ j, (s.setChan die e c v).axS j = s.axS j) ∧
    (∀ j, (s.setChan die e c v).jnS j = s.jnS j) ∧ (∀ j, (s.setChan die e c v).huS j = s.huS j) ∧
    (∀ j k2, (s.setChan die e c v).hb j k2 = s.hb j k2) ∧ (∀ j, (s.setChan die e c v).canS j = s.canS j) ∧
    (∀ j, (s.setChan die e c v).qspiS j = s.qspiS j) ∧ (∀ j, (s.setChan die e c v).dbg j = s.dbg j) ∧
    (∀ j k2, (s.setChan die e c v).swOn j k2 = s.swOn j k2) := by
  and_intros <;> intros <;> rfl

@[simp] theorem State.setEng_same (s : State) (die : Nat) (e : Nat) (v : EngS) :
    (s.setEng die e v).pending = s.pending ∧ (s.setEng die e v).part = s.part ∧ (s.setEng die e v).cycle = s.cycle ∧
    (s.setEng die e v).free = s.free ∧ (s.setEng die e v).resp = s.resp ∧ (s.setEng die e v).out = s.out ∧
    (s.setEng die e v).regs = s.regs ∧ (s.setEng die e v).acts = s.acts ∧ (s.setEng die e v).latches = s.latches ∧
    (s.setEng die e v).mem = s.mem ∧ (s.setEng die e v).lead = s.lead ∧ (s.setEng die e v).times = s.times ∧
    (s.setEng die e v).tm = s.tm ∧ (s.setEng die e v).alarms = s.alarms ∧ (s.setEng die e v).queues = s.queues ∧
    (s.setEng die e v).prods = s.prods ∧ (s.setEng die e v).healthLost = s.healthLost ∧ (s.setEng die e v).cks = s.cks ∧
    (s.setEng die e v).efs = s.efs ∧ (s.setEng die e v).ports = s.ports ∧ (s.setEng die e v).sis = s.sis ∧
    (s.setEng die e v).pipes = s.pipes ∧ (s.setEng die e v).schs = s.schs ∧ (s.setEng die e v).sched = s.sched ∧
    (s.setEng die e v).finalC = s.finalC ∧ (s.setEng die e v).cellPtr = s.cellPtr ∧ (s.setEng die e v).cellMem = s.cellMem ∧
    (s.setEng die e v).fences = s.fences ∧ (s.setEng die e v).chans = s.chans ∧ (s.setEng die e v).eps = s.eps ∧
    (s.setEng die e v).ledgers = s.ledgers ∧ (s.setEng die e v).epoch = s.epoch ∧ (s.setEng die e v).weirOn = s.weirOn ∧
    (s.setEng die e v).lostDies = s.lostDies ∧ (s.setEng die e v).mods = s.mods ∧ (s.setEng die e v).axes = s.axes ∧
    (s.setEng die e v).relaySt = s.relaySt ∧ (s.setEng die e v).relayJ = s.relayJ ∧ (s.setEng die e v).jns = s.jns ∧
    (s.setEng die e v).hus = s.hus ∧ (s.setEng die e v).parked = s.parked ∧ (s.setEng die e v).shutNormal = s.shutNormal ∧
    (s.setEng die e v).fcChans = s.fcChans ∧ (s.setEng die e v).restarts = s.restarts ∧ (s.setEng die e v).switchAt = s.switchAt ∧
    (s.setEng die e v).hbs = s.hbs ∧ (s.setEng die e v).hbOn = s.hbOn ∧ (s.setEng die e v).plannedAt = s.plannedAt ∧
    (s.setEng die e v).declared = s.declared ∧ (s.setEng die e v).modLost = s.modLost ∧ (s.setEng die e v).peerUpAt = s.peerUpAt ∧
    (s.setEng die e v).scrubAt = s.scrubAt ∧ (s.setEng die e v).wdogs = s.wdogs ∧ (s.setEng die e v).halted = s.halted ∧
    (s.setEng die e v).dictQ = s.dictQ ∧ (s.setEng die e v).gws = s.gws ∧ (s.setEng die e v).objs = s.objs ∧
    (s.setEng die e v).dict = s.dict ∧ (s.setEng die e v).i2cs = s.i2cs ∧ (s.setEng die e v).cans = s.cans ∧
    (s.setEng die e v).qspis = s.qspis ∧ (s.setEng die e v).dbgs = s.dbgs ∧ (s.setEng die e v).pccs = s.pccs ∧
    (s.setEng die e v).hotDies = s.hotDies ∧ (s.setEng die e v).faultWhy = s.faultWhy ∧ (s.setEng die e v).jtag = s.jtag ∧
    (s.setEng die e v).irqSent = s.irqSent ∧ (s.setEng die e v).irqCopy = s.irqCopy ∧ (s.setEng die e v).irqClaims = s.irqClaims ∧
    (s.setEng die e v).kpClaims = s.kpClaims ∧ (s.setEng die e v).swLv = s.swLv ∧ (s.setEng die e v).readyAt = s.readyAt ∧
    (s.setEng die e v).fcReset = s.fcReset ∧ (s.setEng die e v).kpVer = s.kpVer ∧ (s.setEng die e v).kpReq = s.kpReq ∧
    (s.setEng die e v).rstLow = s.rstLow ∧ (s.setEng die e v).ubFirst = s.ubFirst ∧ (∀ j, (s.setEng die e v).rd j = s.rd j) ∧
    (∀ j, (s.setEng die e v).act j = s.act j) ∧ (∀ j k2, (s.setEng die e v).byteAt j k2 = s.byteAt j k2) ∧
    (∀ j, (s.setEng die e v).timeOf j = s.timeOf j) ∧ (∀ j, (s.setEng die e v).i2cS j = s.i2cS j) ∧
    (∀ j, (s.setEng die e v).pcc j = s.pcc j) ∧ (∀ j, (s.setEng die e v).efS j = s.efS j) ∧
    (∀ j, (s.setEng die e v).scrub j = s.scrub j) ∧ (∀ j k2, (s.setEng die e v).queue j k2 = s.queue j k2) ∧
    (∀ j k2, (s.setEng die e v).prod j k2 = s.prod j k2) ∧ (∀ j k2, (s.setEng die e v).ckS j k2 = s.ckS j k2) ∧
    (∀ j, (s.setEng die e v).port j = s.port j) ∧ (∀ j k2, (s.setEng die e v).alarm j k2 = s.alarm j k2) ∧
    (∀ j, (s.setEng die e v).sch j = s.sch j) ∧ (∀ j, (s.setEng die e v).sis1 j = s.sis1 j) ∧
    (∀ j, (s.setEng die e v).pipe j = s.pipe j) ∧ (∀ j k2 k3, (s.setEng die e v).chan j k2 k3 = s.chan j k2 k3) ∧
    (∀ j, (s.setEng die e v).ep j = s.ep j) ∧ (∀ j k2, (s.setEng die e v).ledger j k2 = s.ledger j k2) ∧
    (∀ j k2, (s.setEng die e v).modS j k2 = s.modS j k2) ∧ (∀ j, (s.setEng die e v).axS j = s.axS j) ∧
    (∀ j, (s.setEng die e v).jnS j = s.jnS j) ∧ (∀ j, (s.setEng die e v).huS j = s.huS j) ∧
    (∀ j k2, (s.setEng die e v).hb j k2 = s.hb j k2) ∧ (∀ j, (s.setEng die e v).canS j = s.canS j) ∧
    (∀ j, (s.setEng die e v).qspiS j = s.qspiS j) ∧ (∀ j, (s.setEng die e v).dbg j = s.dbg j) ∧
    (∀ j k2, (s.setEng die e v).swOn j k2 = s.swOn j k2) := by
  and_intros <;> intros <;> rfl

@[simp] theorem State.setEp_same (s : State) (st : Nat) (v : EpS) :
    (s.setEp st v).pending = s.pending ∧ (s.setEp st v).part = s.part ∧ (s.setEp st v).cycle = s.cycle ∧ (s.setEp st v).free = s.free ∧
    (s.setEp st v).resp = s.resp ∧ (s.setEp st v).out = s.out ∧ (s.setEp st v).regs = s.regs ∧ (s.setEp st v).acts = s.acts ∧
    (s.setEp st v).latches = s.latches ∧ (s.setEp st v).mem = s.mem ∧ (s.setEp st v).lead = s.lead ∧ (s.setEp st v).times = s.times ∧
    (s.setEp st v).tm = s.tm ∧ (s.setEp st v).alarms = s.alarms ∧ (s.setEp st v).queues = s.queues ∧ (s.setEp st v).prods = s.prods ∧
    (s.setEp st v).healthLost = s.healthLost ∧ (s.setEp st v).cks = s.cks ∧ (s.setEp st v).efs = s.efs ∧ (s.setEp st v).ports = s.ports ∧
    (s.setEp st v).sis = s.sis ∧ (s.setEp st v).pipes = s.pipes ∧ (s.setEp st v).schs = s.schs ∧ (s.setEp st v).sched = s.sched ∧
    (s.setEp st v).finalC = s.finalC ∧ (s.setEp st v).cellPtr = s.cellPtr ∧ (s.setEp st v).cellMem = s.cellMem ∧
    (s.setEp st v).fences = s.fences ∧ (s.setEp st v).chans = s.chans ∧ (s.setEp st v).engs = s.engs ∧
    (s.setEp st v).ledgers = s.ledgers ∧ (s.setEp st v).epoch = s.epoch ∧ (s.setEp st v).weirOn = s.weirOn ∧
    (s.setEp st v).lostDies = s.lostDies ∧ (s.setEp st v).mods = s.mods ∧ (s.setEp st v).axes = s.axes ∧
    (s.setEp st v).relaySt = s.relaySt ∧ (s.setEp st v).relayJ = s.relayJ ∧ (s.setEp st v).jns = s.jns ∧ (s.setEp st v).hus = s.hus ∧
    (s.setEp st v).parked = s.parked ∧ (s.setEp st v).shutNormal = s.shutNormal ∧ (s.setEp st v).fcChans = s.fcChans ∧
    (s.setEp st v).restarts = s.restarts ∧ (s.setEp st v).switchAt = s.switchAt ∧ (s.setEp st v).hbs = s.hbs ∧
    (s.setEp st v).hbOn = s.hbOn ∧ (s.setEp st v).plannedAt = s.plannedAt ∧ (s.setEp st v).declared = s.declared ∧
    (s.setEp st v).modLost = s.modLost ∧ (s.setEp st v).peerUpAt = s.peerUpAt ∧ (s.setEp st v).scrubAt = s.scrubAt ∧
    (s.setEp st v).wdogs = s.wdogs ∧ (s.setEp st v).halted = s.halted ∧ (s.setEp st v).dictQ = s.dictQ ∧ (s.setEp st v).gws = s.gws ∧
    (s.setEp st v).objs = s.objs ∧ (s.setEp st v).dict = s.dict ∧ (s.setEp st v).i2cs = s.i2cs ∧ (s.setEp st v).cans = s.cans ∧
    (s.setEp st v).qspis = s.qspis ∧ (s.setEp st v).dbgs = s.dbgs ∧ (s.setEp st v).pccs = s.pccs ∧ (s.setEp st v).hotDies = s.hotDies ∧
    (s.setEp st v).faultWhy = s.faultWhy ∧ (s.setEp st v).jtag = s.jtag ∧ (s.setEp st v).irqSent = s.irqSent ∧
    (s.setEp st v).irqCopy = s.irqCopy ∧ (s.setEp st v).irqClaims = s.irqClaims ∧ (s.setEp st v).kpClaims = s.kpClaims ∧
    (s.setEp st v).swLv = s.swLv ∧ (s.setEp st v).readyAt = s.readyAt ∧ (s.setEp st v).fcReset = s.fcReset ∧
    (s.setEp st v).kpVer = s.kpVer ∧ (s.setEp st v).kpReq = s.kpReq ∧ (s.setEp st v).rstLow = s.rstLow ∧
    (s.setEp st v).ubFirst = s.ubFirst ∧ (∀ j, (s.setEp st v).rd j = s.rd j) ∧ (∀ j, (s.setEp st v).act j = s.act j) ∧
    (∀ j k2, (s.setEp st v).byteAt j k2 = s.byteAt j k2) ∧ (∀ j, (s.setEp st v).timeOf j = s.timeOf j) ∧
    (∀ j, (s.setEp st v).i2cS j = s.i2cS j) ∧ (∀ j, (s.setEp st v).pcc j = s.pcc j) ∧ (∀ j, (s.setEp st v).efS j = s.efS j) ∧
    (∀ j, (s.setEp st v).scrub j = s.scrub j) ∧ (∀ j k2, (s.setEp st v).queue j k2 = s.queue j k2) ∧
    (∀ j k2, (s.setEp st v).prod j k2 = s.prod j k2) ∧ (∀ j k2, (s.setEp st v).ckS j k2 = s.ckS j k2) ∧
    (∀ j, (s.setEp st v).port j = s.port j) ∧ (∀ j k2, (s.setEp st v).alarm j k2 = s.alarm j k2) ∧
    (∀ j, (s.setEp st v).sch j = s.sch j) ∧ (∀ j, (s.setEp st v).sis1 j = s.sis1 j) ∧ (∀ j, (s.setEp st v).pipe j = s.pipe j) ∧
    (∀ j k2 k3, (s.setEp st v).chan j k2 k3 = s.chan j k2 k3) ∧ (∀ j k2, (s.setEp st v).eng j k2 = s.eng j k2) ∧
    (∀ j k2, (s.setEp st v).ledger j k2 = s.ledger j k2) ∧ (∀ j k2, (s.setEp st v).modS j k2 = s.modS j k2) ∧
    (∀ j, (s.setEp st v).axS j = s.axS j) ∧ (∀ j, (s.setEp st v).jnS j = s.jnS j) ∧ (∀ j, (s.setEp st v).huS j = s.huS j) ∧
    (∀ j k2, (s.setEp st v).hb j k2 = s.hb j k2) ∧ (∀ j, (s.setEp st v).canS j = s.canS j) ∧ (∀ j, (s.setEp st v).qspiS j = s.qspiS j) ∧
    (∀ j, (s.setEp st v).dbg j = s.dbg j) ∧ (∀ j k2, (s.setEp st v).swOn j k2 = s.swOn j k2) := by
  and_intros <;> intros <;> rfl

@[simp] theorem State.setMod_same (s : State) (die : Nat) (m : Nat) (v : ModS) :
    (s.setMod die m v).pending = s.pending ∧ (s.setMod die m v).part = s.part ∧ (s.setMod die m v).cycle = s.cycle ∧
    (s.setMod die m v).free = s.free ∧ (s.setMod die m v).resp = s.resp ∧ (s.setMod die m v).out = s.out ∧
    (s.setMod die m v).regs = s.regs ∧ (s.setMod die m v).acts = s.acts ∧ (s.setMod die m v).latches = s.latches ∧
    (s.setMod die m v).mem = s.mem ∧ (s.setMod die m v).lead = s.lead ∧ (s.setMod die m v).times = s.times ∧
    (s.setMod die m v).tm = s.tm ∧ (s.setMod die m v).alarms = s.alarms ∧ (s.setMod die m v).queues = s.queues ∧
    (s.setMod die m v).prods = s.prods ∧ (s.setMod die m v).healthLost = s.healthLost ∧ (s.setMod die m v).cks = s.cks ∧
    (s.setMod die m v).efs = s.efs ∧ (s.setMod die m v).ports = s.ports ∧ (s.setMod die m v).sis = s.sis ∧
    (s.setMod die m v).pipes = s.pipes ∧ (s.setMod die m v).schs = s.schs ∧ (s.setMod die m v).sched = s.sched ∧
    (s.setMod die m v).finalC = s.finalC ∧ (s.setMod die m v).cellPtr = s.cellPtr ∧ (s.setMod die m v).cellMem = s.cellMem ∧
    (s.setMod die m v).fences = s.fences ∧ (s.setMod die m v).chans = s.chans ∧ (s.setMod die m v).engs = s.engs ∧
    (s.setMod die m v).eps = s.eps ∧ (s.setMod die m v).ledgers = s.ledgers ∧ (s.setMod die m v).epoch = s.epoch ∧
    (s.setMod die m v).weirOn = s.weirOn ∧ (s.setMod die m v).lostDies = s.lostDies ∧ (s.setMod die m v).axes = s.axes ∧
    (s.setMod die m v).relaySt = s.relaySt ∧ (s.setMod die m v).relayJ = s.relayJ ∧ (s.setMod die m v).jns = s.jns ∧
    (s.setMod die m v).hus = s.hus ∧ (s.setMod die m v).parked = s.parked ∧ (s.setMod die m v).shutNormal = s.shutNormal ∧
    (s.setMod die m v).fcChans = s.fcChans ∧ (s.setMod die m v).restarts = s.restarts ∧ (s.setMod die m v).switchAt = s.switchAt ∧
    (s.setMod die m v).hbs = s.hbs ∧ (s.setMod die m v).hbOn = s.hbOn ∧ (s.setMod die m v).plannedAt = s.plannedAt ∧
    (s.setMod die m v).declared = s.declared ∧ (s.setMod die m v).modLost = s.modLost ∧ (s.setMod die m v).peerUpAt = s.peerUpAt ∧
    (s.setMod die m v).scrubAt = s.scrubAt ∧ (s.setMod die m v).wdogs = s.wdogs ∧ (s.setMod die m v).halted = s.halted ∧
    (s.setMod die m v).dictQ = s.dictQ ∧ (s.setMod die m v).gws = s.gws ∧ (s.setMod die m v).objs = s.objs ∧
    (s.setMod die m v).dict = s.dict ∧ (s.setMod die m v).i2cs = s.i2cs ∧ (s.setMod die m v).cans = s.cans ∧
    (s.setMod die m v).qspis = s.qspis ∧ (s.setMod die m v).dbgs = s.dbgs ∧ (s.setMod die m v).pccs = s.pccs ∧
    (s.setMod die m v).hotDies = s.hotDies ∧ (s.setMod die m v).faultWhy = s.faultWhy ∧ (s.setMod die m v).jtag = s.jtag ∧
    (s.setMod die m v).irqSent = s.irqSent ∧ (s.setMod die m v).irqCopy = s.irqCopy ∧ (s.setMod die m v).irqClaims = s.irqClaims ∧
    (s.setMod die m v).kpClaims = s.kpClaims ∧ (s.setMod die m v).swLv = s.swLv ∧ (s.setMod die m v).readyAt = s.readyAt ∧
    (s.setMod die m v).fcReset = s.fcReset ∧ (s.setMod die m v).kpVer = s.kpVer ∧ (s.setMod die m v).kpReq = s.kpReq ∧
    (s.setMod die m v).rstLow = s.rstLow ∧ (s.setMod die m v).ubFirst = s.ubFirst ∧ (∀ j, (s.setMod die m v).rd j = s.rd j) ∧
    (∀ j, (s.setMod die m v).act j = s.act j) ∧ (∀ j k2, (s.setMod die m v).byteAt j k2 = s.byteAt j k2) ∧
    (∀ j, (s.setMod die m v).timeOf j = s.timeOf j) ∧ (∀ j, (s.setMod die m v).i2cS j = s.i2cS j) ∧
    (∀ j, (s.setMod die m v).pcc j = s.pcc j) ∧ (∀ j, (s.setMod die m v).efS j = s.efS j) ∧
    (∀ j, (s.setMod die m v).scrub j = s.scrub j) ∧ (∀ j k2, (s.setMod die m v).queue j k2 = s.queue j k2) ∧
    (∀ j k2, (s.setMod die m v).prod j k2 = s.prod j k2) ∧ (∀ j k2, (s.setMod die m v).ckS j k2 = s.ckS j k2) ∧
    (∀ j, (s.setMod die m v).port j = s.port j) ∧ (∀ j k2, (s.setMod die m v).alarm j k2 = s.alarm j k2) ∧
    (∀ j, (s.setMod die m v).sch j = s.sch j) ∧ (∀ j, (s.setMod die m v).sis1 j = s.sis1 j) ∧
    (∀ j, (s.setMod die m v).pipe j = s.pipe j) ∧ (∀ j k2 k3, (s.setMod die m v).chan j k2 k3 = s.chan j k2 k3) ∧
    (∀ j k2, (s.setMod die m v).eng j k2 = s.eng j k2) ∧ (∀ j, (s.setMod die m v).ep j = s.ep j) ∧
    (∀ j k2, (s.setMod die m v).ledger j k2 = s.ledger j k2) ∧ (∀ j, (s.setMod die m v).axS j = s.axS j) ∧
    (∀ j, (s.setMod die m v).jnS j = s.jnS j) ∧ (∀ j, (s.setMod die m v).huS j = s.huS j) ∧
    (∀ j k2, (s.setMod die m v).hb j k2 = s.hb j k2) ∧ (∀ j, (s.setMod die m v).canS j = s.canS j) ∧
    (∀ j, (s.setMod die m v).qspiS j = s.qspiS j) ∧ (∀ j, (s.setMod die m v).dbg j = s.dbg j) ∧
    (∀ j k2, (s.setMod die m v).swOn j k2 = s.swOn j k2) := by
  and_intros <;> intros <;> rfl

@[simp] theorem State.setAx_same (s : State) (a : Nat) (v : AxisS) :
    (s.setAx a v).pending = s.pending ∧ (s.setAx a v).part = s.part ∧ (s.setAx a v).cycle = s.cycle ∧ (s.setAx a v).free = s.free ∧
    (s.setAx a v).resp = s.resp ∧ (s.setAx a v).out = s.out ∧ (s.setAx a v).regs = s.regs ∧ (s.setAx a v).acts = s.acts ∧
    (s.setAx a v).latches = s.latches ∧ (s.setAx a v).mem = s.mem ∧ (s.setAx a v).lead = s.lead ∧ (s.setAx a v).times = s.times ∧
    (s.setAx a v).tm = s.tm ∧ (s.setAx a v).alarms = s.alarms ∧ (s.setAx a v).queues = s.queues ∧ (s.setAx a v).prods = s.prods ∧
    (s.setAx a v).healthLost = s.healthLost ∧ (s.setAx a v).cks = s.cks ∧ (s.setAx a v).efs = s.efs ∧ (s.setAx a v).ports = s.ports ∧
    (s.setAx a v).sis = s.sis ∧ (s.setAx a v).pipes = s.pipes ∧ (s.setAx a v).schs = s.schs ∧ (s.setAx a v).sched = s.sched ∧
    (s.setAx a v).finalC = s.finalC ∧ (s.setAx a v).cellPtr = s.cellPtr ∧ (s.setAx a v).cellMem = s.cellMem ∧
    (s.setAx a v).fences = s.fences ∧ (s.setAx a v).chans = s.chans ∧ (s.setAx a v).engs = s.engs ∧ (s.setAx a v).eps = s.eps ∧
    (s.setAx a v).ledgers = s.ledgers ∧ (s.setAx a v).epoch = s.epoch ∧ (s.setAx a v).weirOn = s.weirOn ∧
    (s.setAx a v).lostDies = s.lostDies ∧ (s.setAx a v).mods = s.mods ∧ (s.setAx a v).relaySt = s.relaySt ∧
    (s.setAx a v).relayJ = s.relayJ ∧ (s.setAx a v).jns = s.jns ∧ (s.setAx a v).hus = s.hus ∧ (s.setAx a v).parked = s.parked ∧
    (s.setAx a v).shutNormal = s.shutNormal ∧ (s.setAx a v).fcChans = s.fcChans ∧ (s.setAx a v).restarts = s.restarts ∧
    (s.setAx a v).switchAt = s.switchAt ∧ (s.setAx a v).hbs = s.hbs ∧ (s.setAx a v).hbOn = s.hbOn ∧
    (s.setAx a v).plannedAt = s.plannedAt ∧ (s.setAx a v).declared = s.declared ∧ (s.setAx a v).modLost = s.modLost ∧
    (s.setAx a v).peerUpAt = s.peerUpAt ∧ (s.setAx a v).scrubAt = s.scrubAt ∧ (s.setAx a v).wdogs = s.wdogs ∧
    (s.setAx a v).halted = s.halted ∧ (s.setAx a v).dictQ = s.dictQ ∧ (s.setAx a v).gws = s.gws ∧ (s.setAx a v).objs = s.objs ∧
    (s.setAx a v).dict = s.dict ∧ (s.setAx a v).i2cs = s.i2cs ∧ (s.setAx a v).cans = s.cans ∧ (s.setAx a v).qspis = s.qspis ∧
    (s.setAx a v).dbgs = s.dbgs ∧ (s.setAx a v).pccs = s.pccs ∧ (s.setAx a v).hotDies = s.hotDies ∧ (s.setAx a v).faultWhy = s.faultWhy ∧
    (s.setAx a v).jtag = s.jtag ∧ (s.setAx a v).irqSent = s.irqSent ∧ (s.setAx a v).irqCopy = s.irqCopy ∧
    (s.setAx a v).irqClaims = s.irqClaims ∧ (s.setAx a v).kpClaims = s.kpClaims ∧ (s.setAx a v).swLv = s.swLv ∧
    (s.setAx a v).readyAt = s.readyAt ∧ (s.setAx a v).fcReset = s.fcReset ∧ (s.setAx a v).kpVer = s.kpVer ∧
    (s.setAx a v).kpReq = s.kpReq ∧ (s.setAx a v).rstLow = s.rstLow ∧ (s.setAx a v).ubFirst = s.ubFirst ∧
    (∀ j, (s.setAx a v).rd j = s.rd j) ∧ (∀ j, (s.setAx a v).act j = s.act j) ∧ (∀ j k2, (s.setAx a v).byteAt j k2 = s.byteAt j k2) ∧
    (∀ j, (s.setAx a v).timeOf j = s.timeOf j) ∧ (∀ j, (s.setAx a v).i2cS j = s.i2cS j) ∧ (∀ j, (s.setAx a v).pcc j = s.pcc j) ∧
    (∀ j, (s.setAx a v).efS j = s.efS j) ∧ (∀ j, (s.setAx a v).scrub j = s.scrub j) ∧ (∀ j k2, (s.setAx a v).queue j k2 = s.queue j k2) ∧
    (∀ j k2, (s.setAx a v).prod j k2 = s.prod j k2) ∧ (∀ j k2, (s.setAx a v).ckS j k2 = s.ckS j k2) ∧
    (∀ j, (s.setAx a v).port j = s.port j) ∧ (∀ j k2, (s.setAx a v).alarm j k2 = s.alarm j k2) ∧ (∀ j, (s.setAx a v).sch j = s.sch j) ∧
    (∀ j, (s.setAx a v).sis1 j = s.sis1 j) ∧ (∀ j, (s.setAx a v).pipe j = s.pipe j) ∧
    (∀ j k2 k3, (s.setAx a v).chan j k2 k3 = s.chan j k2 k3) ∧ (∀ j k2, (s.setAx a v).eng j k2 = s.eng j k2) ∧
    (∀ j, (s.setAx a v).ep j = s.ep j) ∧ (∀ j k2, (s.setAx a v).ledger j k2 = s.ledger j k2) ∧
    (∀ j k2, (s.setAx a v).modS j k2 = s.modS j k2) ∧ (∀ j, (s.setAx a v).jnS j = s.jnS j) ∧ (∀ j, (s.setAx a v).huS j = s.huS j) ∧
    (∀ j k2, (s.setAx a v).hb j k2 = s.hb j k2) ∧ (∀ j, (s.setAx a v).canS j = s.canS j) ∧ (∀ j, (s.setAx a v).qspiS j = s.qspiS j) ∧
    (∀ j, (s.setAx a v).dbg j = s.dbg j) ∧ (∀ j k2, (s.setAx a v).swOn j k2 = s.swOn j k2) := by
  and_intros <;> intros <;> rfl

@[simp] theorem State.setJn_same (s : State) (st : Nat) (v : JnS) :
    (s.setJn st v).pending = s.pending ∧ (s.setJn st v).part = s.part ∧ (s.setJn st v).cycle = s.cycle ∧ (s.setJn st v).free = s.free ∧
    (s.setJn st v).resp = s.resp ∧ (s.setJn st v).out = s.out ∧ (s.setJn st v).regs = s.regs ∧ (s.setJn st v).acts = s.acts ∧
    (s.setJn st v).latches = s.latches ∧ (s.setJn st v).mem = s.mem ∧ (s.setJn st v).lead = s.lead ∧ (s.setJn st v).times = s.times ∧
    (s.setJn st v).tm = s.tm ∧ (s.setJn st v).alarms = s.alarms ∧ (s.setJn st v).queues = s.queues ∧ (s.setJn st v).prods = s.prods ∧
    (s.setJn st v).healthLost = s.healthLost ∧ (s.setJn st v).cks = s.cks ∧ (s.setJn st v).efs = s.efs ∧ (s.setJn st v).ports = s.ports ∧
    (s.setJn st v).sis = s.sis ∧ (s.setJn st v).pipes = s.pipes ∧ (s.setJn st v).schs = s.schs ∧ (s.setJn st v).sched = s.sched ∧
    (s.setJn st v).finalC = s.finalC ∧ (s.setJn st v).cellPtr = s.cellPtr ∧ (s.setJn st v).cellMem = s.cellMem ∧
    (s.setJn st v).fences = s.fences ∧ (s.setJn st v).chans = s.chans ∧ (s.setJn st v).engs = s.engs ∧ (s.setJn st v).eps = s.eps ∧
    (s.setJn st v).ledgers = s.ledgers ∧ (s.setJn st v).epoch = s.epoch ∧ (s.setJn st v).weirOn = s.weirOn ∧
    (s.setJn st v).lostDies = s.lostDies ∧ (s.setJn st v).mods = s.mods ∧ (s.setJn st v).axes = s.axes ∧
    (s.setJn st v).relaySt = s.relaySt ∧ (s.setJn st v).relayJ = s.relayJ ∧ (s.setJn st v).hus = s.hus ∧
    (s.setJn st v).parked = s.parked ∧ (s.setJn st v).shutNormal = s.shutNormal ∧ (s.setJn st v).fcChans = s.fcChans ∧
    (s.setJn st v).restarts = s.restarts ∧ (s.setJn st v).switchAt = s.switchAt ∧ (s.setJn st v).hbs = s.hbs ∧
    (s.setJn st v).hbOn = s.hbOn ∧ (s.setJn st v).plannedAt = s.plannedAt ∧ (s.setJn st v).declared = s.declared ∧
    (s.setJn st v).modLost = s.modLost ∧ (s.setJn st v).peerUpAt = s.peerUpAt ∧ (s.setJn st v).scrubAt = s.scrubAt ∧
    (s.setJn st v).wdogs = s.wdogs ∧ (s.setJn st v).halted = s.halted ∧ (s.setJn st v).dictQ = s.dictQ ∧ (s.setJn st v).gws = s.gws ∧
    (s.setJn st v).objs = s.objs ∧ (s.setJn st v).dict = s.dict ∧ (s.setJn st v).i2cs = s.i2cs ∧ (s.setJn st v).cans = s.cans ∧
    (s.setJn st v).qspis = s.qspis ∧ (s.setJn st v).dbgs = s.dbgs ∧ (s.setJn st v).pccs = s.pccs ∧ (s.setJn st v).hotDies = s.hotDies ∧
    (s.setJn st v).faultWhy = s.faultWhy ∧ (s.setJn st v).jtag = s.jtag ∧ (s.setJn st v).irqSent = s.irqSent ∧
    (s.setJn st v).irqCopy = s.irqCopy ∧ (s.setJn st v).irqClaims = s.irqClaims ∧ (s.setJn st v).kpClaims = s.kpClaims ∧
    (s.setJn st v).swLv = s.swLv ∧ (s.setJn st v).readyAt = s.readyAt ∧ (s.setJn st v).fcReset = s.fcReset ∧
    (s.setJn st v).kpVer = s.kpVer ∧ (s.setJn st v).kpReq = s.kpReq ∧ (s.setJn st v).rstLow = s.rstLow ∧
    (s.setJn st v).ubFirst = s.ubFirst ∧ (∀ j, (s.setJn st v).rd j = s.rd j) ∧ (∀ j, (s.setJn st v).act j = s.act j) ∧
    (∀ j k2, (s.setJn st v).byteAt j k2 = s.byteAt j k2) ∧ (∀ j, (s.setJn st v).timeOf j = s.timeOf j) ∧
    (∀ j, (s.setJn st v).i2cS j = s.i2cS j) ∧ (∀ j, (s.setJn st v).pcc j = s.pcc j) ∧ (∀ j, (s.setJn st v).efS j = s.efS j) ∧
    (∀ j, (s.setJn st v).scrub j = s.scrub j) ∧ (∀ j k2, (s.setJn st v).queue j k2 = s.queue j k2) ∧
    (∀ j k2, (s.setJn st v).prod j k2 = s.prod j k2) ∧ (∀ j k2, (s.setJn st v).ckS j k2 = s.ckS j k2) ∧
    (∀ j, (s.setJn st v).port j = s.port j) ∧ (∀ j k2, (s.setJn st v).alarm j k2 = s.alarm j k2) ∧
    (∀ j, (s.setJn st v).sch j = s.sch j) ∧ (∀ j, (s.setJn st v).sis1 j = s.sis1 j) ∧ (∀ j, (s.setJn st v).pipe j = s.pipe j) ∧
    (∀ j k2 k3, (s.setJn st v).chan j k2 k3 = s.chan j k2 k3) ∧ (∀ j k2, (s.setJn st v).eng j k2 = s.eng j k2) ∧
    (∀ j, (s.setJn st v).ep j = s.ep j) ∧ (∀ j k2, (s.setJn st v).ledger j k2 = s.ledger j k2) ∧
    (∀ j k2, (s.setJn st v).modS j k2 = s.modS j k2) ∧ (∀ j, (s.setJn st v).axS j = s.axS j) ∧ (∀ j, (s.setJn st v).huS j = s.huS j) ∧
    (∀ j k2, (s.setJn st v).hb j k2 = s.hb j k2) ∧ (∀ j, (s.setJn st v).canS j = s.canS j) ∧ (∀ j, (s.setJn st v).qspiS j = s.qspiS j) ∧
    (∀ j, (s.setJn st v).dbg j = s.dbg j) ∧ (∀ j k2, (s.setJn st v).swOn j k2 = s.swOn j k2) := by
  and_intros <;> intros <;> rfl

@[simp] theorem State.setHu_same (s : State) (st : Nat) (v : HuS) :
    (s.setHu st v).pending = s.pending ∧ (s.setHu st v).part = s.part ∧ (s.setHu st v).cycle = s.cycle ∧ (s.setHu st v).free = s.free ∧
    (s.setHu st v).resp = s.resp ∧ (s.setHu st v).out = s.out ∧ (s.setHu st v).regs = s.regs ∧ (s.setHu st v).acts = s.acts ∧
    (s.setHu st v).latches = s.latches ∧ (s.setHu st v).mem = s.mem ∧ (s.setHu st v).lead = s.lead ∧ (s.setHu st v).times = s.times ∧
    (s.setHu st v).tm = s.tm ∧ (s.setHu st v).alarms = s.alarms ∧ (s.setHu st v).queues = s.queues ∧ (s.setHu st v).prods = s.prods ∧
    (s.setHu st v).healthLost = s.healthLost ∧ (s.setHu st v).cks = s.cks ∧ (s.setHu st v).efs = s.efs ∧ (s.setHu st v).ports = s.ports ∧
    (s.setHu st v).sis = s.sis ∧ (s.setHu st v).pipes = s.pipes ∧ (s.setHu st v).schs = s.schs ∧ (s.setHu st v).sched = s.sched ∧
    (s.setHu st v).finalC = s.finalC ∧ (s.setHu st v).cellPtr = s.cellPtr ∧ (s.setHu st v).cellMem = s.cellMem ∧
    (s.setHu st v).fences = s.fences ∧ (s.setHu st v).chans = s.chans ∧ (s.setHu st v).engs = s.engs ∧ (s.setHu st v).eps = s.eps ∧
    (s.setHu st v).ledgers = s.ledgers ∧ (s.setHu st v).epoch = s.epoch ∧ (s.setHu st v).weirOn = s.weirOn ∧
    (s.setHu st v).lostDies = s.lostDies ∧ (s.setHu st v).mods = s.mods ∧ (s.setHu st v).axes = s.axes ∧
    (s.setHu st v).relaySt = s.relaySt ∧ (s.setHu st v).relayJ = s.relayJ ∧ (s.setHu st v).jns = s.jns ∧
    (s.setHu st v).parked = s.parked ∧ (s.setHu st v).shutNormal = s.shutNormal ∧ (s.setHu st v).fcChans = s.fcChans ∧
    (s.setHu st v).restarts = s.restarts ∧ (s.setHu st v).switchAt = s.switchAt ∧ (s.setHu st v).hbs = s.hbs ∧
    (s.setHu st v).hbOn = s.hbOn ∧ (s.setHu st v).plannedAt = s.plannedAt ∧ (s.setHu st v).declared = s.declared ∧
    (s.setHu st v).modLost = s.modLost ∧ (s.setHu st v).peerUpAt = s.peerUpAt ∧ (s.setHu st v).scrubAt = s.scrubAt ∧
    (s.setHu st v).wdogs = s.wdogs ∧ (s.setHu st v).halted = s.halted ∧ (s.setHu st v).dictQ = s.dictQ ∧ (s.setHu st v).gws = s.gws ∧
    (s.setHu st v).objs = s.objs ∧ (s.setHu st v).dict = s.dict ∧ (s.setHu st v).i2cs = s.i2cs ∧ (s.setHu st v).cans = s.cans ∧
    (s.setHu st v).qspis = s.qspis ∧ (s.setHu st v).dbgs = s.dbgs ∧ (s.setHu st v).pccs = s.pccs ∧ (s.setHu st v).hotDies = s.hotDies ∧
    (s.setHu st v).faultWhy = s.faultWhy ∧ (s.setHu st v).jtag = s.jtag ∧ (s.setHu st v).irqSent = s.irqSent ∧
    (s.setHu st v).irqCopy = s.irqCopy ∧ (s.setHu st v).irqClaims = s.irqClaims ∧ (s.setHu st v).kpClaims = s.kpClaims ∧
    (s.setHu st v).swLv = s.swLv ∧ (s.setHu st v).readyAt = s.readyAt ∧ (s.setHu st v).fcReset = s.fcReset ∧
    (s.setHu st v).kpVer = s.kpVer ∧ (s.setHu st v).kpReq = s.kpReq ∧ (s.setHu st v).rstLow = s.rstLow ∧
    (s.setHu st v).ubFirst = s.ubFirst ∧ (∀ j, (s.setHu st v).rd j = s.rd j) ∧ (∀ j, (s.setHu st v).act j = s.act j) ∧
    (∀ j k2, (s.setHu st v).byteAt j k2 = s.byteAt j k2) ∧ (∀ j, (s.setHu st v).timeOf j = s.timeOf j) ∧
    (∀ j, (s.setHu st v).i2cS j = s.i2cS j) ∧ (∀ j, (s.setHu st v).pcc j = s.pcc j) ∧ (∀ j, (s.setHu st v).efS j = s.efS j) ∧
    (∀ j, (s.setHu st v).scrub j = s.scrub j) ∧ (∀ j k2, (s.setHu st v).queue j k2 = s.queue j k2) ∧
    (∀ j k2, (s.setHu st v).prod j k2 = s.prod j k2) ∧ (∀ j k2, (s.setHu st v).ckS j k2 = s.ckS j k2) ∧
    (∀ j, (s.setHu st v).port j = s.port j) ∧ (∀ j k2, (s.setHu st v).alarm j k2 = s.alarm j k2) ∧
    (∀ j, (s.setHu st v).sch j = s.sch j) ∧ (∀ j, (s.setHu st v).sis1 j = s.sis1 j) ∧ (∀ j, (s.setHu st v).pipe j = s.pipe j) ∧
    (∀ j k2 k3, (s.setHu st v).chan j k2 k3 = s.chan j k2 k3) ∧ (∀ j k2, (s.setHu st v).eng j k2 = s.eng j k2) ∧
    (∀ j, (s.setHu st v).ep j = s.ep j) ∧ (∀ j k2, (s.setHu st v).ledger j k2 = s.ledger j k2) ∧
    (∀ j k2, (s.setHu st v).modS j k2 = s.modS j k2) ∧ (∀ j, (s.setHu st v).axS j = s.axS j) ∧ (∀ j, (s.setHu st v).jnS j = s.jnS j) ∧
    (∀ j k2, (s.setHu st v).hb j k2 = s.hb j k2) ∧ (∀ j, (s.setHu st v).canS j = s.canS j) ∧ (∀ j, (s.setHu st v).qspiS j = s.qspiS j) ∧
    (∀ j, (s.setHu st v).dbg j = s.dbg j) ∧ (∀ j k2, (s.setHu st v).swOn j k2 = s.swOn j k2) := by
  and_intros <;> intros <;> rfl

@[simp] theorem State.setHb_same (s : State) (die : Nat) (m : Nat) (v : HbS) :
    (s.setHb die m v).pending = s.pending ∧ (s.setHb die m v).part = s.part ∧ (s.setHb die m v).cycle = s.cycle ∧
    (s.setHb die m v).free = s.free ∧ (s.setHb die m v).resp = s.resp ∧ (s.setHb die m v).out = s.out ∧ (s.setHb die m v).regs = s.regs ∧
    (s.setHb die m v).acts = s.acts ∧ (s.setHb die m v).latches = s.latches ∧ (s.setHb die m v).mem = s.mem ∧
    (s.setHb die m v).lead = s.lead ∧ (s.setHb die m v).times = s.times ∧ (s.setHb die m v).tm = s.tm ∧
    (s.setHb die m v).alarms = s.alarms ∧ (s.setHb die m v).queues = s.queues ∧ (s.setHb die m v).prods = s.prods ∧
    (s.setHb die m v).healthLost = s.healthLost ∧ (s.setHb die m v).cks = s.cks ∧ (s.setHb die m v).efs = s.efs ∧
    (s.setHb die m v).ports = s.ports ∧ (s.setHb die m v).sis = s.sis ∧ (s.setHb die m v).pipes = s.pipes ∧
    (s.setHb die m v).schs = s.schs ∧ (s.setHb die m v).sched = s.sched ∧ (s.setHb die m v).finalC = s.finalC ∧
    (s.setHb die m v).cellPtr = s.cellPtr ∧ (s.setHb die m v).cellMem = s.cellMem ∧ (s.setHb die m v).fences = s.fences ∧
    (s.setHb die m v).chans = s.chans ∧ (s.setHb die m v).engs = s.engs ∧ (s.setHb die m v).eps = s.eps ∧
    (s.setHb die m v).ledgers = s.ledgers ∧ (s.setHb die m v).epoch = s.epoch ∧ (s.setHb die m v).weirOn = s.weirOn ∧
    (s.setHb die m v).lostDies = s.lostDies ∧ (s.setHb die m v).mods = s.mods ∧ (s.setHb die m v).axes = s.axes ∧
    (s.setHb die m v).relaySt = s.relaySt ∧ (s.setHb die m v).relayJ = s.relayJ ∧ (s.setHb die m v).jns = s.jns ∧
    (s.setHb die m v).hus = s.hus ∧ (s.setHb die m v).parked = s.parked ∧ (s.setHb die m v).shutNormal = s.shutNormal ∧
    (s.setHb die m v).fcChans = s.fcChans ∧ (s.setHb die m v).restarts = s.restarts ∧ (s.setHb die m v).switchAt = s.switchAt ∧
    (s.setHb die m v).hbOn = s.hbOn ∧ (s.setHb die m v).plannedAt = s.plannedAt ∧ (s.setHb die m v).declared = s.declared ∧
    (s.setHb die m v).modLost = s.modLost ∧ (s.setHb die m v).peerUpAt = s.peerUpAt ∧ (s.setHb die m v).scrubAt = s.scrubAt ∧
    (s.setHb die m v).wdogs = s.wdogs ∧ (s.setHb die m v).halted = s.halted ∧ (s.setHb die m v).dictQ = s.dictQ ∧
    (s.setHb die m v).gws = s.gws ∧ (s.setHb die m v).objs = s.objs ∧ (s.setHb die m v).dict = s.dict ∧ (s.setHb die m v).i2cs = s.i2cs ∧
    (s.setHb die m v).cans = s.cans ∧ (s.setHb die m v).qspis = s.qspis ∧ (s.setHb die m v).dbgs = s.dbgs ∧
    (s.setHb die m v).pccs = s.pccs ∧ (s.setHb die m v).hotDies = s.hotDies ∧ (s.setHb die m v).faultWhy = s.faultWhy ∧
    (s.setHb die m v).jtag = s.jtag ∧ (s.setHb die m v).irqSent = s.irqSent ∧ (s.setHb die m v).irqCopy = s.irqCopy ∧
    (s.setHb die m v).irqClaims = s.irqClaims ∧ (s.setHb die m v).kpClaims = s.kpClaims ∧ (s.setHb die m v).swLv = s.swLv ∧
    (s.setHb die m v).readyAt = s.readyAt ∧ (s.setHb die m v).fcReset = s.fcReset ∧ (s.setHb die m v).kpVer = s.kpVer ∧
    (s.setHb die m v).kpReq = s.kpReq ∧ (s.setHb die m v).rstLow = s.rstLow ∧ (s.setHb die m v).ubFirst = s.ubFirst ∧
    (∀ j, (s.setHb die m v).rd j = s.rd j) ∧ (∀ j, (s.setHb die m v).act j = s.act j) ∧
    (∀ j k2, (s.setHb die m v).byteAt j k2 = s.byteAt j k2) ∧ (∀ j, (s.setHb die m v).timeOf j = s.timeOf j) ∧
    (∀ j, (s.setHb die m v).i2cS j = s.i2cS j) ∧ (∀ j, (s.setHb die m v).pcc j = s.pcc j) ∧ (∀ j, (s.setHb die m v).efS j = s.efS j) ∧
    (∀ j, (s.setHb die m v).scrub j = s.scrub j) ∧ (∀ j k2, (s.setHb die m v).queue j k2 = s.queue j k2) ∧
    (∀ j k2, (s.setHb die m v).prod j k2 = s.prod j k2) ∧ (∀ j k2, (s.setHb die m v).ckS j k2 = s.ckS j k2) ∧
    (∀ j, (s.setHb die m v).port j = s.port j) ∧ (∀ j k2, (s.setHb die m v).alarm j k2 = s.alarm j k2) ∧
    (∀ j, (s.setHb die m v).sch j = s.sch j) ∧ (∀ j, (s.setHb die m v).sis1 j = s.sis1 j) ∧ (∀ j, (s.setHb die m v).pipe j = s.pipe j) ∧
    (∀ j k2 k3, (s.setHb die m v).chan j k2 k3 = s.chan j k2 k3) ∧ (∀ j k2, (s.setHb die m v).eng j k2 = s.eng j k2) ∧
    (∀ j, (s.setHb die m v).ep j = s.ep j) ∧ (∀ j k2, (s.setHb die m v).ledger j k2 = s.ledger j k2) ∧
    (∀ j k2, (s.setHb die m v).modS j k2 = s.modS j k2) ∧ (∀ j, (s.setHb die m v).axS j = s.axS j) ∧
    (∀ j, (s.setHb die m v).jnS j = s.jnS j) ∧ (∀ j, (s.setHb die m v).huS j = s.huS j) ∧ (∀ j, (s.setHb die m v).canS j = s.canS j) ∧
    (∀ j, (s.setHb die m v).qspiS j = s.qspiS j) ∧ (∀ j, (s.setHb die m v).dbg j = s.dbg j) ∧
    (∀ j k2, (s.setHb die m v).swOn j k2 = s.swOn j k2) := by
  and_intros <;> intros <;> rfl

@[simp] theorem State.updCan_same (s : State) (st : Nat) (f : CanS → CanS) :
    (s.updCan st f).pending = s.pending ∧ (s.updCan st f).part = s.part ∧ (s.updCan st f).cycle = s.cycle ∧
    (s.updCan st f).free = s.free ∧ (s.updCan st f).resp = s.resp ∧ (s.updCan st f).out = s.out ∧ (s.updCan st f).regs = s.regs ∧
    (s.updCan st f).acts = s.acts ∧ (s.updCan st f).latches = s.latches ∧ (s.updCan st f).mem = s.mem ∧ (s.updCan st f).lead = s.lead ∧
    (s.updCan st f).times = s.times ∧ (s.updCan st f).tm = s.tm ∧ (s.updCan st f).alarms = s.alarms ∧ (s.updCan st f).queues = s.queues ∧
    (s.updCan st f).prods = s.prods ∧ (s.updCan st f).healthLost = s.healthLost ∧ (s.updCan st f).cks = s.cks ∧
    (s.updCan st f).efs = s.efs ∧ (s.updCan st f).ports = s.ports ∧ (s.updCan st f).sis = s.sis ∧ (s.updCan st f).pipes = s.pipes ∧
    (s.updCan st f).schs = s.schs ∧ (s.updCan st f).sched = s.sched ∧ (s.updCan st f).finalC = s.finalC ∧
    (s.updCan st f).cellPtr = s.cellPtr ∧ (s.updCan st f).cellMem = s.cellMem ∧ (s.updCan st f).fences = s.fences ∧
    (s.updCan st f).chans = s.chans ∧ (s.updCan st f).engs = s.engs ∧ (s.updCan st f).eps = s.eps ∧ (s.updCan st f).ledgers = s.ledgers ∧
    (s.updCan st f).epoch = s.epoch ∧ (s.updCan st f).weirOn = s.weirOn ∧ (s.updCan st f).lostDies = s.lostDies ∧
    (s.updCan st f).mods = s.mods ∧ (s.updCan st f).axes = s.axes ∧ (s.updCan st f).relaySt = s.relaySt ∧
    (s.updCan st f).relayJ = s.relayJ ∧ (s.updCan st f).jns = s.jns ∧ (s.updCan st f).hus = s.hus ∧ (s.updCan st f).parked = s.parked ∧
    (s.updCan st f).shutNormal = s.shutNormal ∧ (s.updCan st f).fcChans = s.fcChans ∧ (s.updCan st f).restarts = s.restarts ∧
    (s.updCan st f).switchAt = s.switchAt ∧ (s.updCan st f).hbs = s.hbs ∧ (s.updCan st f).hbOn = s.hbOn ∧
    (s.updCan st f).plannedAt = s.plannedAt ∧ (s.updCan st f).declared = s.declared ∧ (s.updCan st f).modLost = s.modLost ∧
    (s.updCan st f).peerUpAt = s.peerUpAt ∧ (s.updCan st f).scrubAt = s.scrubAt ∧ (s.updCan st f).wdogs = s.wdogs ∧
    (s.updCan st f).halted = s.halted ∧ (s.updCan st f).dictQ = s.dictQ ∧ (s.updCan st f).gws = s.gws ∧ (s.updCan st f).objs = s.objs ∧
    (s.updCan st f).dict = s.dict ∧ (s.updCan st f).i2cs = s.i2cs ∧ (s.updCan st f).qspis = s.qspis ∧ (s.updCan st f).dbgs = s.dbgs ∧
    (s.updCan st f).pccs = s.pccs ∧ (s.updCan st f).hotDies = s.hotDies ∧ (s.updCan st f).faultWhy = s.faultWhy ∧
    (s.updCan st f).jtag = s.jtag ∧ (s.updCan st f).irqSent = s.irqSent ∧ (s.updCan st f).irqCopy = s.irqCopy ∧
    (s.updCan st f).irqClaims = s.irqClaims ∧ (s.updCan st f).kpClaims = s.kpClaims ∧ (s.updCan st f).swLv = s.swLv ∧
    (s.updCan st f).readyAt = s.readyAt ∧ (s.updCan st f).fcReset = s.fcReset ∧ (s.updCan st f).kpVer = s.kpVer ∧
    (s.updCan st f).kpReq = s.kpReq ∧ (s.updCan st f).rstLow = s.rstLow ∧ (s.updCan st f).ubFirst = s.ubFirst ∧
    (∀ j, (s.updCan st f).rd j = s.rd j) ∧ (∀ j, (s.updCan st f).act j = s.act j) ∧
    (∀ j k2, (s.updCan st f).byteAt j k2 = s.byteAt j k2) ∧ (∀ j, (s.updCan st f).timeOf j = s.timeOf j) ∧
    (∀ j, (s.updCan st f).i2cS j = s.i2cS j) ∧ (∀ j, (s.updCan st f).pcc j = s.pcc j) ∧ (∀ j, (s.updCan st f).efS j = s.efS j) ∧
    (∀ j, (s.updCan st f).scrub j = s.scrub j) ∧ (∀ j k2, (s.updCan st f).queue j k2 = s.queue j k2) ∧
    (∀ j k2, (s.updCan st f).prod j k2 = s.prod j k2) ∧ (∀ j k2, (s.updCan st f).ckS j k2 = s.ckS j k2) ∧
    (∀ j, (s.updCan st f).port j = s.port j) ∧ (∀ j k2, (s.updCan st f).alarm j k2 = s.alarm j k2) ∧
    (∀ j, (s.updCan st f).sch j = s.sch j) ∧ (∀ j, (s.updCan st f).sis1 j = s.sis1 j) ∧ (∀ j, (s.updCan st f).pipe j = s.pipe j) ∧
    (∀ j k2 k3, (s.updCan st f).chan j k2 k3 = s.chan j k2 k3) ∧ (∀ j k2, (s.updCan st f).eng j k2 = s.eng j k2) ∧
    (∀ j, (s.updCan st f).ep j = s.ep j) ∧ (∀ j k2, (s.updCan st f).ledger j k2 = s.ledger j k2) ∧
    (∀ j k2, (s.updCan st f).modS j k2 = s.modS j k2) ∧ (∀ j, (s.updCan st f).axS j = s.axS j) ∧ (∀ j, (s.updCan st f).jnS j = s.jnS j) ∧
    (∀ j, (s.updCan st f).huS j = s.huS j) ∧ (∀ j k2, (s.updCan st f).hb j k2 = s.hb j k2) ∧ (∀ j, (s.updCan st f).qspiS j = s.qspiS j) ∧
    (∀ j, (s.updCan st f).dbg j = s.dbg j) ∧ (∀ j k2, (s.updCan st f).swOn j k2 = s.swOn j k2) := by
  and_intros <;> intros <;> rfl

@[simp] theorem State.setObj_same (s : State) (port : Nat) (idx : Nat) (sub : Nat) (v : List Byte) :
    (s.setObj port idx sub v).pending = s.pending ∧ (s.setObj port idx sub v).part = s.part ∧ (s.setObj port idx sub v).cycle = s.cycle ∧
    (s.setObj port idx sub v).free = s.free ∧ (s.setObj port idx sub v).resp = s.resp ∧ (s.setObj port idx sub v).out = s.out ∧
    (s.setObj port idx sub v).regs = s.regs ∧ (s.setObj port idx sub v).acts = s.acts ∧ (s.setObj port idx sub v).latches = s.latches ∧
    (s.setObj port idx sub v).mem = s.mem ∧ (s.setObj port idx sub v).lead = s.lead ∧ (s.setObj port idx sub v).times = s.times ∧
    (s.setObj port idx sub v).tm = s.tm ∧ (s.setObj port idx sub v).alarms = s.alarms ∧ (s.setObj port idx sub v).queues = s.queues ∧
    (s.setObj port idx sub v).prods = s.prods ∧ (s.setObj port idx sub v).healthLost = s.healthLost ∧
    (s.setObj port idx sub v).cks = s.cks ∧ (s.setObj port idx sub v).efs = s.efs ∧ (s.setObj port idx sub v).ports = s.ports ∧
    (s.setObj port idx sub v).sis = s.sis ∧ (s.setObj port idx sub v).pipes = s.pipes ∧ (s.setObj port idx sub v).schs = s.schs ∧
    (s.setObj port idx sub v).sched = s.sched ∧ (s.setObj port idx sub v).finalC = s.finalC ∧
    (s.setObj port idx sub v).cellPtr = s.cellPtr ∧ (s.setObj port idx sub v).cellMem = s.cellMem ∧
    (s.setObj port idx sub v).fences = s.fences ∧ (s.setObj port idx sub v).chans = s.chans ∧ (s.setObj port idx sub v).engs = s.engs ∧
    (s.setObj port idx sub v).eps = s.eps ∧ (s.setObj port idx sub v).ledgers = s.ledgers ∧ (s.setObj port idx sub v).epoch = s.epoch ∧
    (s.setObj port idx sub v).weirOn = s.weirOn ∧ (s.setObj port idx sub v).lostDies = s.lostDies ∧
    (s.setObj port idx sub v).mods = s.mods ∧ (s.setObj port idx sub v).axes = s.axes ∧ (s.setObj port idx sub v).relaySt = s.relaySt ∧
    (s.setObj port idx sub v).relayJ = s.relayJ ∧ (s.setObj port idx sub v).jns = s.jns ∧ (s.setObj port idx sub v).hus = s.hus ∧
    (s.setObj port idx sub v).parked = s.parked ∧ (s.setObj port idx sub v).shutNormal = s.shutNormal ∧
    (s.setObj port idx sub v).fcChans = s.fcChans ∧ (s.setObj port idx sub v).restarts = s.restarts ∧
    (s.setObj port idx sub v).switchAt = s.switchAt ∧ (s.setObj port idx sub v).hbs = s.hbs ∧ (s.setObj port idx sub v).hbOn = s.hbOn ∧
    (s.setObj port idx sub v).plannedAt = s.plannedAt ∧ (s.setObj port idx sub v).declared = s.declared ∧
    (s.setObj port idx sub v).modLost = s.modLost ∧ (s.setObj port idx sub v).peerUpAt = s.peerUpAt ∧
    (s.setObj port idx sub v).scrubAt = s.scrubAt ∧ (s.setObj port idx sub v).wdogs = s.wdogs ∧
    (s.setObj port idx sub v).halted = s.halted ∧ (s.setObj port idx sub v).dictQ = s.dictQ ∧ (s.setObj port idx sub v).gws = s.gws ∧
    (s.setObj port idx sub v).dict = s.dict ∧ (s.setObj port idx sub v).i2cs = s.i2cs ∧ (s.setObj port idx sub v).cans = s.cans ∧
    (s.setObj port idx sub v).qspis = s.qspis ∧ (s.setObj port idx sub v).dbgs = s.dbgs ∧ (s.setObj port idx sub v).pccs = s.pccs ∧
    (s.setObj port idx sub v).hotDies = s.hotDies ∧ (s.setObj port idx sub v).faultWhy = s.faultWhy ∧
    (s.setObj port idx sub v).jtag = s.jtag ∧ (s.setObj port idx sub v).irqSent = s.irqSent ∧
    (s.setObj port idx sub v).irqCopy = s.irqCopy ∧ (s.setObj port idx sub v).irqClaims = s.irqClaims ∧
    (s.setObj port idx sub v).kpClaims = s.kpClaims ∧ (s.setObj port idx sub v).swLv = s.swLv ∧
    (s.setObj port idx sub v).readyAt = s.readyAt ∧ (s.setObj port idx sub v).fcReset = s.fcReset ∧
    (s.setObj port idx sub v).kpVer = s.kpVer ∧ (s.setObj port idx sub v).kpReq = s.kpReq ∧ (s.setObj port idx sub v).rstLow = s.rstLow ∧
    (s.setObj port idx sub v).ubFirst = s.ubFirst ∧ (∀ j, (s.setObj port idx sub v).rd j = s.rd j) ∧
    (∀ j, (s.setObj port idx sub v).act j = s.act j) ∧ (∀ j k2, (s.setObj port idx sub v).byteAt j k2 = s.byteAt j k2) ∧
    (∀ j, (s.setObj port idx sub v).timeOf j = s.timeOf j) ∧ (∀ j, (s.setObj port idx sub v).i2cS j = s.i2cS j) ∧
    (∀ j, (s.setObj port idx sub v).pcc j = s.pcc j) ∧ (∀ j, (s.setObj port idx sub v).efS j = s.efS j) ∧
    (∀ j, (s.setObj port idx sub v).scrub j = s.scrub j) ∧ (∀ j k2, (s.setObj port idx sub v).queue j k2 = s.queue j k2) ∧
    (∀ j k2, (s.setObj port idx sub v).prod j k2 = s.prod j k2) ∧ (∀ j k2, (s.setObj port idx sub v).ckS j k2 = s.ckS j k2) ∧
    (∀ j, (s.setObj port idx sub v).port j = s.port j) ∧ (∀ j k2, (s.setObj port idx sub v).alarm j k2 = s.alarm j k2) ∧
    (∀ j, (s.setObj port idx sub v).sch j = s.sch j) ∧ (∀ j, (s.setObj port idx sub v).sis1 j = s.sis1 j) ∧
    (∀ j, (s.setObj port idx sub v).pipe j = s.pipe j) ∧ (∀ j k2 k3, (s.setObj port idx sub v).chan j k2 k3 = s.chan j k2 k3) ∧
    (∀ j k2, (s.setObj port idx sub v).eng j k2 = s.eng j k2) ∧ (∀ j, (s.setObj port idx sub v).ep j = s.ep j) ∧
    (∀ j k2, (s.setObj port idx sub v).ledger j k2 = s.ledger j k2) ∧ (∀ j k2, (s.setObj port idx sub v).modS j k2 = s.modS j k2) ∧
    (∀ j, (s.setObj port idx sub v).axS j = s.axS j) ∧ (∀ j, (s.setObj port idx sub v).jnS j = s.jnS j) ∧
    (∀ j, (s.setObj port idx sub v).huS j = s.huS j) ∧ (∀ j k2, (s.setObj port idx sub v).hb j k2 = s.hb j k2) ∧
    (∀ j, (s.setObj port idx sub v).canS j = s.canS j) ∧ (∀ j, (s.setObj port idx sub v).qspiS j = s.qspiS j) ∧
    (∀ j, (s.setObj port idx sub v).dbg j = s.dbg j) ∧ (∀ j k2, (s.setObj port idx sub v).swOn j k2 = s.swOn j k2) := by
  and_intros <;> intros <;> rfl

@[simp] theorem State.setQspi_same (s : State) (st : Nat) (v : QspiS) :
    (s.setQspi st v).pending = s.pending ∧ (s.setQspi st v).part = s.part ∧ (s.setQspi st v).cycle = s.cycle ∧
    (s.setQspi st v).free = s.free ∧ (s.setQspi st v).resp = s.resp ∧ (s.setQspi st v).out = s.out ∧ (s.setQspi st v).regs = s.regs ∧
    (s.setQspi st v).acts = s.acts ∧ (s.setQspi st v).latches = s.latches ∧ (s.setQspi st v).mem = s.mem ∧
    (s.setQspi st v).lead = s.lead ∧ (s.setQspi st v).times = s.times ∧ (s.setQspi st v).tm = s.tm ∧ (s.setQspi st v).alarms = s.alarms ∧
    (s.setQspi st v).queues = s.queues ∧ (s.setQspi st v).prods = s.prods ∧ (s.setQspi st v).healthLost = s.healthLost ∧
    (s.setQspi st v).cks = s.cks ∧ (s.setQspi st v).efs = s.efs ∧ (s.setQspi st v).ports = s.ports ∧ (s.setQspi st v).sis = s.sis ∧
    (s.setQspi st v).pipes = s.pipes ∧ (s.setQspi st v).schs = s.schs ∧ (s.setQspi st v).sched = s.sched ∧
    (s.setQspi st v).finalC = s.finalC ∧ (s.setQspi st v).cellPtr = s.cellPtr ∧ (s.setQspi st v).cellMem = s.cellMem ∧
    (s.setQspi st v).fences = s.fences ∧ (s.setQspi st v).chans = s.chans ∧ (s.setQspi st v).engs = s.engs ∧
    (s.setQspi st v).eps = s.eps ∧ (s.setQspi st v).ledgers = s.ledgers ∧ (s.setQspi st v).epoch = s.epoch ∧
    (s.setQspi st v).weirOn = s.weirOn ∧ (s.setQspi st v).lostDies = s.lostDies ∧ (s.setQspi st v).mods = s.mods ∧
    (s.setQspi st v).axes = s.axes ∧ (s.setQspi st v).relaySt = s.relaySt ∧ (s.setQspi st v).relayJ = s.relayJ ∧
    (s.setQspi st v).jns = s.jns ∧ (s.setQspi st v).hus = s.hus ∧ (s.setQspi st v).parked = s.parked ∧
    (s.setQspi st v).shutNormal = s.shutNormal ∧ (s.setQspi st v).fcChans = s.fcChans ∧ (s.setQspi st v).restarts = s.restarts ∧
    (s.setQspi st v).switchAt = s.switchAt ∧ (s.setQspi st v).hbs = s.hbs ∧ (s.setQspi st v).hbOn = s.hbOn ∧
    (s.setQspi st v).plannedAt = s.plannedAt ∧ (s.setQspi st v).declared = s.declared ∧ (s.setQspi st v).modLost = s.modLost ∧
    (s.setQspi st v).peerUpAt = s.peerUpAt ∧ (s.setQspi st v).scrubAt = s.scrubAt ∧ (s.setQspi st v).wdogs = s.wdogs ∧
    (s.setQspi st v).halted = s.halted ∧ (s.setQspi st v).dictQ = s.dictQ ∧ (s.setQspi st v).gws = s.gws ∧
    (s.setQspi st v).objs = s.objs ∧ (s.setQspi st v).dict = s.dict ∧ (s.setQspi st v).i2cs = s.i2cs ∧ (s.setQspi st v).cans = s.cans ∧
    (s.setQspi st v).dbgs = s.dbgs ∧ (s.setQspi st v).pccs = s.pccs ∧ (s.setQspi st v).hotDies = s.hotDies ∧
    (s.setQspi st v).faultWhy = s.faultWhy ∧ (s.setQspi st v).jtag = s.jtag ∧ (s.setQspi st v).irqSent = s.irqSent ∧
    (s.setQspi st v).irqCopy = s.irqCopy ∧ (s.setQspi st v).irqClaims = s.irqClaims ∧ (s.setQspi st v).kpClaims = s.kpClaims ∧
    (s.setQspi st v).swLv = s.swLv ∧ (s.setQspi st v).readyAt = s.readyAt ∧ (s.setQspi st v).fcReset = s.fcReset ∧
    (s.setQspi st v).kpVer = s.kpVer ∧ (s.setQspi st v).kpReq = s.kpReq ∧ (s.setQspi st v).rstLow = s.rstLow ∧
    (s.setQspi st v).ubFirst = s.ubFirst ∧ (∀ j, (s.setQspi st v).rd j = s.rd j) ∧ (∀ j, (s.setQspi st v).act j = s.act j) ∧
    (∀ j k2, (s.setQspi st v).byteAt j k2 = s.byteAt j k2) ∧ (∀ j, (s.setQspi st v).timeOf j = s.timeOf j) ∧
    (∀ j, (s.setQspi st v).i2cS j = s.i2cS j) ∧ (∀ j, (s.setQspi st v).pcc j = s.pcc j) ∧ (∀ j, (s.setQspi st v).efS j = s.efS j) ∧
    (∀ j, (s.setQspi st v).scrub j = s.scrub j) ∧ (∀ j k2, (s.setQspi st v).queue j k2 = s.queue j k2) ∧
    (∀ j k2, (s.setQspi st v).prod j k2 = s.prod j k2) ∧ (∀ j k2, (s.setQspi st v).ckS j k2 = s.ckS j k2) ∧
    (∀ j, (s.setQspi st v).port j = s.port j) ∧ (∀ j k2, (s.setQspi st v).alarm j k2 = s.alarm j k2) ∧
    (∀ j, (s.setQspi st v).sch j = s.sch j) ∧ (∀ j, (s.setQspi st v).sis1 j = s.sis1 j) ∧ (∀ j, (s.setQspi st v).pipe j = s.pipe j) ∧
    (∀ j k2 k3, (s.setQspi st v).chan j k2 k3 = s.chan j k2 k3) ∧ (∀ j k2, (s.setQspi st v).eng j k2 = s.eng j k2) ∧
    (∀ j, (s.setQspi st v).ep j = s.ep j) ∧ (∀ j k2, (s.setQspi st v).ledger j k2 = s.ledger j k2) ∧
    (∀ j k2, (s.setQspi st v).modS j k2 = s.modS j k2) ∧ (∀ j, (s.setQspi st v).axS j = s.axS j) ∧
    (∀ j, (s.setQspi st v).jnS j = s.jnS j) ∧ (∀ j, (s.setQspi st v).huS j = s.huS j) ∧ (∀ j k2, (s.setQspi st v).hb j k2 = s.hb j k2) ∧
    (∀ j, (s.setQspi st v).canS j = s.canS j) ∧ (∀ j, (s.setQspi st v).dbg j = s.dbg j) ∧
    (∀ j k2, (s.setQspi st v).swOn j k2 = s.swOn j k2) := by
  and_intros <;> intros <;> rfl

@[simp] theorem State.setIr_same (s : State) (n : Nat) :
    (s.setIr n).pending = s.pending ∧ (s.setIr n).part = s.part ∧ (s.setIr n).cycle = s.cycle ∧ (s.setIr n).free = s.free ∧
    (s.setIr n).resp = s.resp ∧ (s.setIr n).out = s.out ∧ (s.setIr n).regs = s.regs ∧ (s.setIr n).acts = s.acts ∧
    (s.setIr n).latches = s.latches ∧ (s.setIr n).mem = s.mem ∧ (s.setIr n).lead = s.lead ∧ (s.setIr n).times = s.times ∧
    (s.setIr n).tm = s.tm ∧ (s.setIr n).alarms = s.alarms ∧ (s.setIr n).queues = s.queues ∧ (s.setIr n).prods = s.prods ∧
    (s.setIr n).healthLost = s.healthLost ∧ (s.setIr n).cks = s.cks ∧ (s.setIr n).efs = s.efs ∧ (s.setIr n).ports = s.ports ∧
    (s.setIr n).sis = s.sis ∧ (s.setIr n).pipes = s.pipes ∧ (s.setIr n).schs = s.schs ∧ (s.setIr n).sched = s.sched ∧
    (s.setIr n).finalC = s.finalC ∧ (s.setIr n).cellPtr = s.cellPtr ∧ (s.setIr n).cellMem = s.cellMem ∧ (s.setIr n).fences = s.fences ∧
    (s.setIr n).chans = s.chans ∧ (s.setIr n).engs = s.engs ∧ (s.setIr n).eps = s.eps ∧ (s.setIr n).ledgers = s.ledgers ∧
    (s.setIr n).epoch = s.epoch ∧ (s.setIr n).weirOn = s.weirOn ∧ (s.setIr n).lostDies = s.lostDies ∧ (s.setIr n).mods = s.mods ∧
    (s.setIr n).axes = s.axes ∧ (s.setIr n).relaySt = s.relaySt ∧ (s.setIr n).relayJ = s.relayJ ∧ (s.setIr n).jns = s.jns ∧
    (s.setIr n).hus = s.hus ∧ (s.setIr n).parked = s.parked ∧ (s.setIr n).shutNormal = s.shutNormal ∧ (s.setIr n).fcChans = s.fcChans ∧
    (s.setIr n).restarts = s.restarts ∧ (s.setIr n).switchAt = s.switchAt ∧ (s.setIr n).hbs = s.hbs ∧ (s.setIr n).hbOn = s.hbOn ∧
    (s.setIr n).plannedAt = s.plannedAt ∧ (s.setIr n).declared = s.declared ∧ (s.setIr n).modLost = s.modLost ∧
    (s.setIr n).peerUpAt = s.peerUpAt ∧ (s.setIr n).scrubAt = s.scrubAt ∧ (s.setIr n).wdogs = s.wdogs ∧ (s.setIr n).halted = s.halted ∧
    (s.setIr n).dictQ = s.dictQ ∧ (s.setIr n).gws = s.gws ∧ (s.setIr n).objs = s.objs ∧ (s.setIr n).dict = s.dict ∧
    (s.setIr n).i2cs = s.i2cs ∧ (s.setIr n).cans = s.cans ∧ (s.setIr n).qspis = s.qspis ∧ (s.setIr n).dbgs = s.dbgs ∧
    (s.setIr n).pccs = s.pccs ∧ (s.setIr n).hotDies = s.hotDies ∧ (s.setIr n).faultWhy = s.faultWhy ∧ (s.setIr n).irqSent = s.irqSent ∧
    (s.setIr n).irqCopy = s.irqCopy ∧ (s.setIr n).irqClaims = s.irqClaims ∧ (s.setIr n).kpClaims = s.kpClaims ∧
    (s.setIr n).swLv = s.swLv ∧ (s.setIr n).readyAt = s.readyAt ∧ (s.setIr n).fcReset = s.fcReset ∧ (s.setIr n).kpVer = s.kpVer ∧
    (s.setIr n).kpReq = s.kpReq ∧ (s.setIr n).rstLow = s.rstLow ∧ (s.setIr n).ubFirst = s.ubFirst ∧ (∀ j, (s.setIr n).rd j = s.rd j) ∧
    (∀ j, (s.setIr n).act j = s.act j) ∧ (∀ j k2, (s.setIr n).byteAt j k2 = s.byteAt j k2) ∧ (∀ j, (s.setIr n).timeOf j = s.timeOf j) ∧
    (∀ j, (s.setIr n).i2cS j = s.i2cS j) ∧ (∀ j, (s.setIr n).pcc j = s.pcc j) ∧ (∀ j, (s.setIr n).efS j = s.efS j) ∧
    (∀ j, (s.setIr n).scrub j = s.scrub j) ∧ (∀ j k2, (s.setIr n).queue j k2 = s.queue j k2) ∧
    (∀ j k2, (s.setIr n).prod j k2 = s.prod j k2) ∧ (∀ j k2, (s.setIr n).ckS j k2 = s.ckS j k2) ∧ (∀ j, (s.setIr n).port j = s.port j) ∧
    (∀ j k2, (s.setIr n).alarm j k2 = s.alarm j k2) ∧ (∀ j, (s.setIr n).sch j = s.sch j) ∧ (∀ j, (s.setIr n).sis1 j = s.sis1 j) ∧
    (∀ j, (s.setIr n).pipe j = s.pipe j) ∧ (∀ j k2 k3, (s.setIr n).chan j k2 k3 = s.chan j k2 k3) ∧
    (∀ j k2, (s.setIr n).eng j k2 = s.eng j k2) ∧ (∀ j, (s.setIr n).ep j = s.ep j) ∧ (∀ j k2, (s.setIr n).ledger j k2 = s.ledger j k2) ∧
    (∀ j k2, (s.setIr n).modS j k2 = s.modS j k2) ∧ (∀ j, (s.setIr n).axS j = s.axS j) ∧ (∀ j, (s.setIr n).jnS j = s.jnS j) ∧
    (∀ j, (s.setIr n).huS j = s.huS j) ∧ (∀ j k2, (s.setIr n).hb j k2 = s.hb j k2) ∧ (∀ j, (s.setIr n).canS j = s.canS j) ∧
    (∀ j, (s.setIr n).qspiS j = s.qspiS j) ∧ (∀ j, (s.setIr n).dbg j = s.dbg j) ∧ (∀ j k2, (s.setIr n).swOn j k2 = s.swOn j k2) := by
  and_intros <;> intros <;> rfl

@[simp] theorem State.updDbg_same (s : State) (die : Nat) (f : DbgS → DbgS) :
    (s.updDbg die f).pending = s.pending ∧ (s.updDbg die f).part = s.part ∧ (s.updDbg die f).cycle = s.cycle ∧
    (s.updDbg die f).free = s.free ∧ (s.updDbg die f).resp = s.resp ∧ (s.updDbg die f).out = s.out ∧ (s.updDbg die f).regs = s.regs ∧
    (s.updDbg die f).acts = s.acts ∧ (s.updDbg die f).latches = s.latches ∧ (s.updDbg die f).mem = s.mem ∧
    (s.updDbg die f).lead = s.lead ∧ (s.updDbg die f).times = s.times ∧ (s.updDbg die f).tm = s.tm ∧ (s.updDbg die f).alarms = s.alarms ∧
    (s.updDbg die f).queues = s.queues ∧ (s.updDbg die f).prods = s.prods ∧ (s.updDbg die f).healthLost = s.healthLost ∧
    (s.updDbg die f).cks = s.cks ∧ (s.updDbg die f).efs = s.efs ∧ (s.updDbg die f).ports = s.ports ∧ (s.updDbg die f).sis = s.sis ∧
    (s.updDbg die f).pipes = s.pipes ∧ (s.updDbg die f).schs = s.schs ∧ (s.updDbg die f).sched = s.sched ∧
    (s.updDbg die f).finalC = s.finalC ∧ (s.updDbg die f).cellPtr = s.cellPtr ∧ (s.updDbg die f).cellMem = s.cellMem ∧
    (s.updDbg die f).fences = s.fences ∧ (s.updDbg die f).chans = s.chans ∧ (s.updDbg die f).engs = s.engs ∧
    (s.updDbg die f).eps = s.eps ∧ (s.updDbg die f).ledgers = s.ledgers ∧ (s.updDbg die f).epoch = s.epoch ∧
    (s.updDbg die f).weirOn = s.weirOn ∧ (s.updDbg die f).lostDies = s.lostDies ∧ (s.updDbg die f).mods = s.mods ∧
    (s.updDbg die f).axes = s.axes ∧ (s.updDbg die f).relaySt = s.relaySt ∧ (s.updDbg die f).relayJ = s.relayJ ∧
    (s.updDbg die f).jns = s.jns ∧ (s.updDbg die f).hus = s.hus ∧ (s.updDbg die f).parked = s.parked ∧
    (s.updDbg die f).shutNormal = s.shutNormal ∧ (s.updDbg die f).fcChans = s.fcChans ∧ (s.updDbg die f).restarts = s.restarts ∧
    (s.updDbg die f).switchAt = s.switchAt ∧ (s.updDbg die f).hbs = s.hbs ∧ (s.updDbg die f).hbOn = s.hbOn ∧
    (s.updDbg die f).plannedAt = s.plannedAt ∧ (s.updDbg die f).declared = s.declared ∧ (s.updDbg die f).modLost = s.modLost ∧
    (s.updDbg die f).peerUpAt = s.peerUpAt ∧ (s.updDbg die f).scrubAt = s.scrubAt ∧ (s.updDbg die f).wdogs = s.wdogs ∧
    (s.updDbg die f).halted = s.halted ∧ (s.updDbg die f).dictQ = s.dictQ ∧ (s.updDbg die f).gws = s.gws ∧
    (s.updDbg die f).objs = s.objs ∧ (s.updDbg die f).dict = s.dict ∧ (s.updDbg die f).i2cs = s.i2cs ∧ (s.updDbg die f).cans = s.cans ∧
    (s.updDbg die f).qspis = s.qspis ∧ (s.updDbg die f).pccs = s.pccs ∧ (s.updDbg die f).hotDies = s.hotDies ∧
    (s.updDbg die f).faultWhy = s.faultWhy ∧ (s.updDbg die f).jtag = s.jtag ∧ (s.updDbg die f).irqSent = s.irqSent ∧
    (s.updDbg die f).irqCopy = s.irqCopy ∧ (s.updDbg die f).irqClaims = s.irqClaims ∧ (s.updDbg die f).kpClaims = s.kpClaims ∧
    (s.updDbg die f).swLv = s.swLv ∧ (s.updDbg die f).readyAt = s.readyAt ∧ (s.updDbg die f).fcReset = s.fcReset ∧
    (s.updDbg die f).kpVer = s.kpVer ∧ (s.updDbg die f).kpReq = s.kpReq ∧ (s.updDbg die f).rstLow = s.rstLow ∧
    (s.updDbg die f).ubFirst = s.ubFirst ∧ (∀ j, (s.updDbg die f).rd j = s.rd j) ∧ (∀ j, (s.updDbg die f).act j = s.act j) ∧
    (∀ j k2, (s.updDbg die f).byteAt j k2 = s.byteAt j k2) ∧ (∀ j, (s.updDbg die f).timeOf j = s.timeOf j) ∧
    (∀ j, (s.updDbg die f).i2cS j = s.i2cS j) ∧ (∀ j, (s.updDbg die f).pcc j = s.pcc j) ∧ (∀ j, (s.updDbg die f).efS j = s.efS j) ∧
    (∀ j, (s.updDbg die f).scrub j = s.scrub j) ∧ (∀ j k2, (s.updDbg die f).queue j k2 = s.queue j k2) ∧
    (∀ j k2, (s.updDbg die f).prod j k2 = s.prod j k2) ∧ (∀ j k2, (s.updDbg die f).ckS j k2 = s.ckS j k2) ∧
    (∀ j, (s.updDbg die f).port j = s.port j) ∧ (∀ j k2, (s.updDbg die f).alarm j k2 = s.alarm j k2) ∧
    (∀ j, (s.updDbg die f).sch j = s.sch j) ∧ (∀ j, (s.updDbg die f).sis1 j = s.sis1 j) ∧ (∀ j, (s.updDbg die f).pipe j = s.pipe j) ∧
    (∀ j k2 k3, (s.updDbg die f).chan j k2 k3 = s.chan j k2 k3) ∧ (∀ j k2, (s.updDbg die f).eng j k2 = s.eng j k2) ∧
    (∀ j, (s.updDbg die f).ep j = s.ep j) ∧ (∀ j k2, (s.updDbg die f).ledger j k2 = s.ledger j k2) ∧
    (∀ j k2, (s.updDbg die f).modS j k2 = s.modS j k2) ∧ (∀ j, (s.updDbg die f).axS j = s.axS j) ∧
    (∀ j, (s.updDbg die f).jnS j = s.jnS j) ∧ (∀ j, (s.updDbg die f).huS j = s.huS j) ∧ (∀ j k2, (s.updDbg die f).hb j k2 = s.hb j k2) ∧
    (∀ j, (s.updDbg die f).canS j = s.canS j) ∧ (∀ j, (s.updDbg die f).qspiS j = s.qspiS j) ∧
    (∀ j k2, (s.updDbg die f).swOn j k2 = s.swOn j k2) := by
  and_intros <;> intros <;> rfl

@[simp] theorem State.swPut_same (s : State) (die : Nat) (v : Nat) (b : Bool) :
    (s.swPut die v b).pending = s.pending ∧ (s.swPut die v b).part = s.part ∧ (s.swPut die v b).cycle = s.cycle ∧
    (s.swPut die v b).free = s.free ∧ (s.swPut die v b).resp = s.resp ∧ (s.swPut die v b).out = s.out ∧ (s.swPut die v b).regs = s.regs ∧
    (s.swPut die v b).acts = s.acts ∧ (s.swPut die v b).latches = s.latches ∧ (s.swPut die v b).mem = s.mem ∧
    (s.swPut die v b).lead = s.lead ∧ (s.swPut die v b).times = s.times ∧ (s.swPut die v b).tm = s.tm ∧
    (s.swPut die v b).alarms = s.alarms ∧ (s.swPut die v b).queues = s.queues ∧ (s.swPut die v b).prods = s.prods ∧
    (s.swPut die v b).healthLost = s.healthLost ∧ (s.swPut die v b).cks = s.cks ∧ (s.swPut die v b).efs = s.efs ∧
    (s.swPut die v b).ports = s.ports ∧ (s.swPut die v b).sis = s.sis ∧ (s.swPut die v b).pipes = s.pipes ∧
    (s.swPut die v b).schs = s.schs ∧ (s.swPut die v b).sched = s.sched ∧ (s.swPut die v b).finalC = s.finalC ∧
    (s.swPut die v b).cellPtr = s.cellPtr ∧ (s.swPut die v b).cellMem = s.cellMem ∧ (s.swPut die v b).fences = s.fences ∧
    (s.swPut die v b).chans = s.chans ∧ (s.swPut die v b).engs = s.engs ∧ (s.swPut die v b).eps = s.eps ∧
    (s.swPut die v b).ledgers = s.ledgers ∧ (s.swPut die v b).epoch = s.epoch ∧ (s.swPut die v b).weirOn = s.weirOn ∧
    (s.swPut die v b).lostDies = s.lostDies ∧ (s.swPut die v b).mods = s.mods ∧ (s.swPut die v b).axes = s.axes ∧
    (s.swPut die v b).relaySt = s.relaySt ∧ (s.swPut die v b).relayJ = s.relayJ ∧ (s.swPut die v b).jns = s.jns ∧
    (s.swPut die v b).hus = s.hus ∧ (s.swPut die v b).parked = s.parked ∧ (s.swPut die v b).shutNormal = s.shutNormal ∧
    (s.swPut die v b).fcChans = s.fcChans ∧ (s.swPut die v b).restarts = s.restarts ∧ (s.swPut die v b).switchAt = s.switchAt ∧
    (s.swPut die v b).hbs = s.hbs ∧ (s.swPut die v b).hbOn = s.hbOn ∧ (s.swPut die v b).plannedAt = s.plannedAt ∧
    (s.swPut die v b).declared = s.declared ∧ (s.swPut die v b).modLost = s.modLost ∧ (s.swPut die v b).peerUpAt = s.peerUpAt ∧
    (s.swPut die v b).scrubAt = s.scrubAt ∧ (s.swPut die v b).wdogs = s.wdogs ∧ (s.swPut die v b).halted = s.halted ∧
    (s.swPut die v b).dictQ = s.dictQ ∧ (s.swPut die v b).gws = s.gws ∧ (s.swPut die v b).objs = s.objs ∧
    (s.swPut die v b).dict = s.dict ∧ (s.swPut die v b).i2cs = s.i2cs ∧ (s.swPut die v b).cans = s.cans ∧
    (s.swPut die v b).qspis = s.qspis ∧ (s.swPut die v b).dbgs = s.dbgs ∧ (s.swPut die v b).pccs = s.pccs ∧
    (s.swPut die v b).hotDies = s.hotDies ∧ (s.swPut die v b).faultWhy = s.faultWhy ∧ (s.swPut die v b).jtag = s.jtag ∧
    (s.swPut die v b).irqSent = s.irqSent ∧ (s.swPut die v b).irqCopy = s.irqCopy ∧ (s.swPut die v b).irqClaims = s.irqClaims ∧
    (s.swPut die v b).kpClaims = s.kpClaims ∧ (s.swPut die v b).readyAt = s.readyAt ∧ (s.swPut die v b).fcReset = s.fcReset ∧
    (s.swPut die v b).kpVer = s.kpVer ∧ (s.swPut die v b).kpReq = s.kpReq ∧ (s.swPut die v b).rstLow = s.rstLow ∧
    (s.swPut die v b).ubFirst = s.ubFirst ∧ (∀ j, (s.swPut die v b).rd j = s.rd j) ∧ (∀ j, (s.swPut die v b).act j = s.act j) ∧
    (∀ j k2, (s.swPut die v b).byteAt j k2 = s.byteAt j k2) ∧ (∀ j, (s.swPut die v b).timeOf j = s.timeOf j) ∧
    (∀ j, (s.swPut die v b).i2cS j = s.i2cS j) ∧ (∀ j, (s.swPut die v b).pcc j = s.pcc j) ∧ (∀ j, (s.swPut die v b).efS j = s.efS j) ∧
    (∀ j, (s.swPut die v b).scrub j = s.scrub j) ∧ (∀ j k2, (s.swPut die v b).queue j k2 = s.queue j k2) ∧
    (∀ j k2, (s.swPut die v b).prod j k2 = s.prod j k2) ∧ (∀ j k2, (s.swPut die v b).ckS j k2 = s.ckS j k2) ∧
    (∀ j, (s.swPut die v b).port j = s.port j) ∧ (∀ j k2, (s.swPut die v b).alarm j k2 = s.alarm j k2) ∧
    (∀ j, (s.swPut die v b).sch j = s.sch j) ∧ (∀ j, (s.swPut die v b).sis1 j = s.sis1 j) ∧ (∀ j, (s.swPut die v b).pipe j = s.pipe j) ∧
    (∀ j k2 k3, (s.swPut die v b).chan j k2 k3 = s.chan j k2 k3) ∧ (∀ j k2, (s.swPut die v b).eng j k2 = s.eng j k2) ∧
    (∀ j, (s.swPut die v b).ep j = s.ep j) ∧ (∀ j k2, (s.swPut die v b).ledger j k2 = s.ledger j k2) ∧
    (∀ j k2, (s.swPut die v b).modS j k2 = s.modS j k2) ∧ (∀ j, (s.swPut die v b).axS j = s.axS j) ∧
    (∀ j, (s.swPut die v b).jnS j = s.jnS j) ∧ (∀ j, (s.swPut die v b).huS j = s.huS j) ∧
    (∀ j k2, (s.swPut die v b).hb j k2 = s.hb j k2) ∧ (∀ j, (s.swPut die v b).canS j = s.canS j) ∧
    (∀ j, (s.swPut die v b).qspiS j = s.qspiS j) ∧ (∀ j, (s.swPut die v b).dbg j = s.dbg j) := by
  and_intros <;> intros <;> rfl

@[simp] theorem State.enqueueReq_same (s : State) (r : DictReq) :
    (s.enqueueReq r).pending = s.pending ∧ (s.enqueueReq r).part = s.part ∧ (s.enqueueReq r).cycle = s.cycle ∧
    (s.enqueueReq r).free = s.free ∧ (s.enqueueReq r).resp = s.resp ∧ (s.enqueueReq r).out = s.out ∧ (s.enqueueReq r).regs = s.regs ∧
    (s.enqueueReq r).acts = s.acts ∧ (s.enqueueReq r).latches = s.latches ∧ (s.enqueueReq r).mem = s.mem ∧
    (s.enqueueReq r).lead = s.lead ∧ (s.enqueueReq r).times = s.times ∧ (s.enqueueReq r).tm = s.tm ∧ (s.enqueueReq r).alarms = s.alarms ∧
    (s.enqueueReq r).queues = s.queues ∧ (s.enqueueReq r).prods = s.prods ∧ (s.enqueueReq r).healthLost = s.healthLost ∧
    (s.enqueueReq r).cks = s.cks ∧ (s.enqueueReq r).efs = s.efs ∧ (s.enqueueReq r).ports = s.ports ∧ (s.enqueueReq r).sis = s.sis ∧
    (s.enqueueReq r).pipes = s.pipes ∧ (s.enqueueReq r).schs = s.schs ∧ (s.enqueueReq r).sched = s.sched ∧
    (s.enqueueReq r).finalC = s.finalC ∧ (s.enqueueReq r).cellPtr = s.cellPtr ∧ (s.enqueueReq r).cellMem = s.cellMem ∧
    (s.enqueueReq r).fences = s.fences ∧ (s.enqueueReq r).chans = s.chans ∧ (s.enqueueReq r).engs = s.engs ∧
    (s.enqueueReq r).eps = s.eps ∧ (s.enqueueReq r).ledgers = s.ledgers ∧ (s.enqueueReq r).epoch = s.epoch ∧
    (s.enqueueReq r).weirOn = s.weirOn ∧ (s.enqueueReq r).lostDies = s.lostDies ∧ (s.enqueueReq r).mods = s.mods ∧
    (s.enqueueReq r).axes = s.axes ∧ (s.enqueueReq r).relaySt = s.relaySt ∧ (s.enqueueReq r).relayJ = s.relayJ ∧
    (s.enqueueReq r).jns = s.jns ∧ (s.enqueueReq r).hus = s.hus ∧ (s.enqueueReq r).parked = s.parked ∧
    (s.enqueueReq r).shutNormal = s.shutNormal ∧ (s.enqueueReq r).fcChans = s.fcChans ∧ (s.enqueueReq r).restarts = s.restarts ∧
    (s.enqueueReq r).switchAt = s.switchAt ∧ (s.enqueueReq r).hbs = s.hbs ∧ (s.enqueueReq r).hbOn = s.hbOn ∧
    (s.enqueueReq r).plannedAt = s.plannedAt ∧ (s.enqueueReq r).declared = s.declared ∧ (s.enqueueReq r).modLost = s.modLost ∧
    (s.enqueueReq r).peerUpAt = s.peerUpAt ∧ (s.enqueueReq r).scrubAt = s.scrubAt ∧ (s.enqueueReq r).wdogs = s.wdogs ∧
    (s.enqueueReq r).halted = s.halted ∧ (s.enqueueReq r).gws = s.gws ∧ (s.enqueueReq r).objs = s.objs ∧ (s.enqueueReq r).dict = s.dict ∧
    (s.enqueueReq r).i2cs = s.i2cs ∧ (s.enqueueReq r).cans = s.cans ∧ (s.enqueueReq r).qspis = s.qspis ∧ (s.enqueueReq r).dbgs = s.dbgs ∧
    (s.enqueueReq r).pccs = s.pccs ∧ (s.enqueueReq r).hotDies = s.hotDies ∧ (s.enqueueReq r).faultWhy = s.faultWhy ∧
    (s.enqueueReq r).jtag = s.jtag ∧ (s.enqueueReq r).irqSent = s.irqSent ∧ (s.enqueueReq r).irqCopy = s.irqCopy ∧
    (s.enqueueReq r).irqClaims = s.irqClaims ∧ (s.enqueueReq r).kpClaims = s.kpClaims ∧ (s.enqueueReq r).swLv = s.swLv ∧
    (s.enqueueReq r).readyAt = s.readyAt ∧ (s.enqueueReq r).fcReset = s.fcReset ∧ (s.enqueueReq r).kpVer = s.kpVer ∧
    (s.enqueueReq r).kpReq = s.kpReq ∧ (s.enqueueReq r).rstLow = s.rstLow ∧ (s.enqueueReq r).ubFirst = s.ubFirst ∧
    (∀ j, (s.enqueueReq r).rd j = s.rd j) ∧ (∀ j, (s.enqueueReq r).act j = s.act j) ∧
    (∀ j k2, (s.enqueueReq r).byteAt j k2 = s.byteAt j k2) ∧ (∀ j, (s.enqueueReq r).timeOf j = s.timeOf j) ∧
    (∀ j, (s.enqueueReq r).i2cS j = s.i2cS j) ∧ (∀ j, (s.enqueueReq r).pcc j = s.pcc j) ∧ (∀ j, (s.enqueueReq r).efS j = s.efS j) ∧
    (∀ j, (s.enqueueReq r).scrub j = s.scrub j) ∧ (∀ j k2, (s.enqueueReq r).queue j k2 = s.queue j k2) ∧
    (∀ j k2, (s.enqueueReq r).prod j k2 = s.prod j k2) ∧ (∀ j k2, (s.enqueueReq r).ckS j k2 = s.ckS j k2) ∧
    (∀ j, (s.enqueueReq r).port j = s.port j) ∧ (∀ j k2, (s.enqueueReq r).alarm j k2 = s.alarm j k2) ∧
    (∀ j, (s.enqueueReq r).sch j = s.sch j) ∧ (∀ j, (s.enqueueReq r).sis1 j = s.sis1 j) ∧ (∀ j, (s.enqueueReq r).pipe j = s.pipe j) ∧
    (∀ j k2 k3, (s.enqueueReq r).chan j k2 k3 = s.chan j k2 k3) ∧ (∀ j k2, (s.enqueueReq r).eng j k2 = s.eng j k2) ∧
    (∀ j, (s.enqueueReq r).ep j = s.ep j) ∧ (∀ j k2, (s.enqueueReq r).ledger j k2 = s.ledger j k2) ∧
    (∀ j k2, (s.enqueueReq r).modS j k2 = s.modS j k2) ∧ (∀ j, (s.enqueueReq r).axS j = s.axS j) ∧
    (∀ j, (s.enqueueReq r).jnS j = s.jnS j) ∧ (∀ j, (s.enqueueReq r).huS j = s.huS j) ∧ (∀ j k2, (s.enqueueReq r).hb j k2 = s.hb j k2) ∧
    (∀ j, (s.enqueueReq r).canS j = s.canS j) ∧ (∀ j, (s.enqueueReq r).qspiS j = s.qspiS j) ∧ (∀ j, (s.enqueueReq r).dbg j = s.dbg j) ∧
    (∀ j k2, (s.enqueueReq r).swOn j k2 = s.swOn j k2) := by
  and_intros <;> intros <;> rfl

end Sys2Proof.Machine
end

