-- ==== Sys2Proof/Laws/Fields.lean ====
section
/-! SUPPORT. Bit fields of words: a field written is read back, other bits stay; the same for the register operations of Ops. -/
namespace Sys2Proof.Machine
set_option Elab.async false

theorem testBit_nbits (n hi lo i : Nat) : (nbits n hi lo).testBit i = (decide (i < hi + 1 - lo) && n.testBit (lo + i)) := by
  simp [nbits, Nat.testBit_mod_two_pow, Nat.testBit_shiftRight]

/-- A number with its bits from `lo` on, `l` of them, replaced. -/
theorem testBit_putBits (w n lo l i : Nat) :
    (w - w / 2 ^ lo % 2 ^ l * 2 ^ lo + n % 2 ^ l * 2 ^ lo).testBit i =
      if lo ≤ i ∧ i < lo + l then n.testBit (i - lo) else w.testBit i := by
  have h1 : w = 2 ^ lo * (2 ^ l * (w / 2 ^ lo / 2 ^ l) + w / 2 ^ lo % 2 ^ l) + w % 2 ^ lo := by
    rw [Nat.div_add_mod, Nat.div_add_mod]
  have h2 : w - w / 2 ^ lo % 2 ^ l * 2 ^ lo + n % 2 ^ l * 2 ^ lo =
      2 ^ lo * (2 ^ l * (w / 2 ^ lo / 2 ^ l) + n % 2 ^ l) + w % 2 ^ lo := by
    generalize w / 2 ^ lo / 2 ^ l = a at *
    generalize w / 2 ^ lo % 2 ^ l = b at *
    generalize w % 2 ^ lo = c at *
    rw [h1, Nat.mul_add, Nat.mul_add, Nat.mul_comm b, Nat.mul_comm (n % 2 ^ l)]
    omega
  have hc : w % 2 ^ lo < 2 ^ lo := Nat.mod_lt _ (Nat.two_pow_pos _)
  have hn : n % 2 ^ l < 2 ^ l := Nat.mod_lt _ (Nat.two_pow_pos _)
  have hb : w / 2 ^ lo % 2 ^ l < 2 ^ l := Nat.mod_lt _ (Nat.two_pow_pos _)
  rw [h2, Nat.testBit_two_pow_mul_add _ hc]
  conv => rhs; rw [h1]
  rw [Nat.testBit_two_pow_mul_add _ hc, Nat.testBit_two_pow_mul_add _ hn, Nat.testBit_two_pow_mul_add _ hb]
  by_cases hlo : i < lo
  · rw [if_pos hlo, if_pos hlo, if_neg (by omega)]
  · rw [if_neg hlo, if_neg hlo]
    by_cases hl : i - lo < l
    · rw [if_pos hl, if_pos (by omega), Nat.testBit_mod_two_pow, decide_eq_true hl, Bool.true_and]
    · rw [if_neg hl, if_neg (by omega), if_neg hl]

theorem testBit_wput (w : Word) (hi lo n i : Nat) :
    (wput w hi lo n).toNat.testBit i = (decide (i < 32) && if lo ≤ i ∧ i < lo + (hi + 1 - lo) then n.testBit (i - lo) else w.toNat.testBit i) := by
  simp only [wput, wbits, nbits, BitVec.toNat_ofNat, Nat.testBit_mod_two_pow, Nat.shiftRight_eq_div_pow, testBit_putBits]

/-- A field just written reads as the low bits of what was written. -/
@[simp] theorem wbits_wput_same (w : Word) (hi lo n : Nat) (h : hi < 32) : wbits (wput w hi lo n) hi lo = n % 2 ^ (hi + 1 - lo) := by
  apply Nat.eq_of_testBit_eq
  intro i
  rw [wbits, testBit_nbits, testBit_wput, Nat.testBit_mod_two_pow]
  by_cases hi' : i < hi + 1 - lo
  · rw [decide_eq_true hi', decide_eq_true (show lo + i < 32 by omega), if_pos (by omega)]
    simp
  · rw [decide_eq_false hi']; simp

/-- A field apart from the one written stays. -/
theorem wbits_wput_apart (w : Word) (hi lo n a b : Nat) (h : a < lo ∨ hi < b) (h32 : a < 32) :
    wbits (wput w hi lo n) a b = wbits w a b := by
  apply Nat.eq_of_testBit_eq
  intro i
  rw [wbits, wbits, testBit_nbits, testBit_nbits, testBit_wput]
  by_cases hi' : i < a + 1 - b
  · rw [decide_eq_true hi', decide_eq_true (show b + i < 32 by omega), if_neg (by omega)]
    simp
  · rw [decide_eq_false hi']; simp

theorem testBit_wordOf (n i : Nat) : (wordOf n).toNat.testBit i = (decide (i < 32) && n.testBit i) := by
  rw [wordOf, BitVec.toNat_ofNat, Nat.testBit_mod_two_pow]

/-- Bit `i` of a register with bit `j` set. -/
theorem bit_setBit (s : State) (k j i k' : Nat) (hi : i < 32) :
    (s.setBit k j).bit k' i = if k' = k then (decide (j = i) || s.bit k i) else s.bit k' i := by
  unfold State.setBit State.setBits State.bit
  rw [State.rd_wr]
  split
  · simp only [BitVec.toNat_or, Nat.testBit_or, testBit_wordOf, Nat.testBit_two_pow, decide_eq_true hi, Bool.true_and]
    exact Bool.or_comm _ _
  · rfl

theorem testBit_not_wordOf (n i : Nat) (hi : i < 32) : (~~~ (wordOf n)).toNat.testBit i = !n.testBit i := by
  have e : (~~~ (wordOf n)).toNat.testBit i = (~~~ (wordOf n)).getLsbD i := rfl
  rw [e, BitVec.getLsbD_not, decide_eq_true hi, Bool.true_and]
  show (!(wordOf n).toNat.testBit i) = _
  rw [testBit_wordOf, decide_eq_true hi, Bool.true_and]

/-- Bit `i` of a register with the bits of `m` cleared. -/
theorem bit_clrBits (s : State) (k m i k' : Nat) (hi : i < 32) :
    (s.clrBits k m).bit k' i = if k' = k then (s.bit k i && !m.testBit i) else s.bit k' i := by
  unfold State.clrBits State.bit
  rw [State.rd_wr]
  split
  · simp only [BitVec.toNat_and, Nat.testBit_and, testBit_not_wordOf _ _ hi]
  · rfl

theorem bit_clrBit (s : State) (k j i k' : Nat) (hi : i < 32) :
    (s.clrBit k j).bit k' i = if k' = k then (s.bit k i && !decide (j = i)) else s.bit k' i := by
  unfold State.clrBit
  rw [bit_clrBits _ _ _ _ _ hi, Nat.testBit_two_pow]

/-- A field of a register written by a field write. -/
theorem fld_wrFld_same (s : State) (k hi lo n : Nat) (h : hi < 32) : (s.wrFld k hi lo n).fld k hi lo = n % 2 ^ (hi + 1 - lo) := by
  unfold State.wrFld State.fld
  rw [State.rd_wr, if_pos rfl]
  exact wbits_wput_same _ _ _ _ h

theorem fld_wrFld_apart (s : State) (k hi lo n k' a b : Nat) (h : k' ≠ k ∨ a < lo ∨ hi < b) (h32 : a < 32) :
    (s.wrFld k hi lo n).fld k' a b = s.fld k' a b := by
  unfold State.wrFld State.fld
  rw [State.rd_wr]
  split
  · rename_i e
    rw [wbits_wput_apart _ _ _ _ _ _ (by rcases h with h | h; exact absurd e h; exact h) h32, e]
  · rfl

theorem fld_wr_ne (s : State) (k : Nat) (v : Word) (k' a b : Nat) (h : k' ≠ k) : (s.wr k v).fld k' a b = s.fld k' a b := by
  unfold State.fld; rw [State.rd_wr, if_neg h]

theorem bit_wr_ne (s : State) (k : Nat) (v : Word) (k' i : Nat) (h : k' ≠ k) : (s.wr k v).bit k' i = s.bit k' i := by
  unfold State.bit; rw [State.rd_wr, if_neg h]

/-- A field that holds none of the bits set or cleared stays. -/
theorem fld_clrBits_apart (s : State) (k m k' a b : Nat) (h32 : a < 32) (h : k' ≠ k ∨ ∀ i, b ≤ i → i ≤ a → m.testBit i = false) :
    (s.clrBits k m).fld k' a b = s.fld k' a b := by
  unfold State.clrBits State.fld
  rw [State.rd_wr]
  split
  · rename_i e
    apply Nat.eq_of_testBit_eq
    intro i
    rw [wbits, wbits, testBit_nbits, testBit_nbits, e]
    by_cases hi : i < a + 1 - b
    · rcases h with h | h
      · exact absurd e h
      · rw [BitVec.toNat_and, Nat.testBit_and, testBit_not_wordOf _ _ (by omega), h (b + i) (by omega) (by omega)]
        simp
    · rw [decide_eq_false hi]; rfl
  · rfl

theorem fld_setBits_apart (s : State) (k m k' a b : Nat) (h : k' ≠ k ∨ ∀ i, b ≤ i → i ≤ a → m.testBit i = false) :
    (s.setBits k m).fld k' a b = s.fld k' a b := by
  unfold State.setBits State.fld
  rw [State.rd_wr]
  split
  · rename_i e
    apply Nat.eq_of_testBit_eq
    intro i
    rw [wbits, wbits, testBit_nbits, testBit_nbits, e]
    by_cases hi : i < a + 1 - b
    · rcases h with h | h
      · exact absurd e h
      · rw [BitVec.toNat_or, Nat.testBit_or, testBit_wordOf, h (b + i) (by omega) (by omega)]
        simp
    · rw [decide_eq_false hi]; rfl
  · rfl

end Sys2Proof.Machine
end

