-- ==== Sys2Proof/Laws/KeepsOps.lean ====
section
/-! SUPPORT. What the operations of Machine/Ops.lean keep (`Keeps`), one lemma each. -/
namespace Sys2Proof.Machine
set_option Elab.async false

theorem keeps_setAct {F : Nat} {s0 s : State} (h0 : Keeps F s0 s) (k : Nat) (v : Word) (hF : F &&& 0x80 = 0 := by exact mask_sub (by assumption) rfl) : Keeps F s0 (State.setAct s k v) := by
  unfold State.setAct
  with_reducible repeat' first
    | assumption | apply keeps_mk_acts | exact mask_sub hF rfl

theorem keeps_commitReg {F : Nat} {s0 s : State} (h0 : Keeps F s0 s) (k : Nat) (hF : F &&& 0x80 = 0 := by exact mask_sub (by assumption) rfl) : Keeps F s0 (State.commitReg s k) := by
  unfold State.commitReg
  with_reducible repeat' first
    | assumption | apply keeps_setAct | exact mask_sub hF rfl

theorem keeps_commitRegs {F : Nat} {s0 s : State} (h0 : Keeps F s0 s) (ks : List Nat) (hF : F &&& 0x80 = 0 := by exact mask_sub (by assumption) rfl) : Keeps F s0 (State.commitRegs s ks) := by
  unfold State.commitRegs
  with_reducible repeat' first
    | (intro _) | assumption | apply keeps_forEach | apply keeps_commitReg | exact mask_sub hF rfl

theorem keeps_wrN {F : Nat} {s0 s : State} (h0 : Keeps F s0 s) (k : Nat) (n : Nat) (hF : F &&& 0x40 = 0 := by exact mask_sub (by assumption) rfl) : Keeps F s0 (State.wrN s k n) := by
  unfold State.wrN
  with_reducible repeat' first
    | assumption | apply keeps_wr | exact mask_sub hF rfl

theorem keeps_wrI {F : Nat} {s0 s : State} (h0 : Keeps F s0 s) (k : Nat) (i : Int) (hF : F &&& 0x40 = 0 := by exact mask_sub (by assumption) rfl) : Keeps F s0 (State.wrI s k i) := by
  unfold State.wrI
  with_reducible repeat' first
    | assumption | apply keeps_wr | exact mask_sub hF rfl

theorem keeps_wrFld {F : Nat} {s0 s : State} (h0 : Keeps F s0 s) (k : Nat) (hi : Nat) (lo : Nat) (n : Nat) (hF : F &&& 0x40 = 0 := by exact mask_sub (by assumption) rfl) : Keeps F s0 (State.wrFld s k hi lo n) := by
  unfold State.wrFld
  with_reducible repeat' first
    | assumption | apply keeps_wr | exact mask_sub hF rfl

theorem keeps_setBits {F : Nat} {s0 s : State} (h0 : Keeps F s0 s) (k : Nat) (m : Nat) (hF : F &&& 0x40 = 0 := by exact mask_sub (by assumption) rfl) : Keeps F s0 (State.setBits s k m) := by
  unfold State.setBits
  with_reducible repeat' first
    | assumption | apply keeps_wr | exact mask_sub hF rfl

theorem keeps_clrBits {F : Nat} {s0 s : State} (h0 : Keeps F s0 s) (k : Nat) (m : Nat) (hF : F &&& 0x40 = 0 := by exact mask_sub (by assumption) rfl) : Keeps F s0 (State.clrBits s k m) := by
  unfold State.clrBits
  with_reducible repeat' first
    | assumption | apply keeps_wr | exact mask_sub hF rfl

theorem keeps_setBit {F : Nat} {s0 s : State} (h0 : Keeps F s0 s) (k : Nat) (i : Nat) (hF : F &&& 0x40 = 0 := by exact mask_sub (by assumption) rfl) : Keeps F s0 (State.setBit s k i) := by
  unfold State.setBit
  with_reducible repeat' first
    | assumption | apply keeps_setBits | exact mask_sub hF rfl

theorem keeps_clrBit {F : Nat} {s0 s : State} (h0 : Keeps F s0 s) (k : Nat) (i : Nat) (hF : F &&& 0x40 = 0 := by exact mask_sub (by assumption) rfl) : Keeps F s0 (State.clrBit s k i) := by
  unfold State.clrBit
  with_reducible repeat' first
    | assumption | apply keeps_clrBits | exact mask_sub hF rfl

theorem keeps_putBit {F : Nat} {s0 s : State} (h0 : Keeps F s0 s) (k : Nat) (i : Nat) (b : Bool) (hF : F &&& 0x40 = 0 := by exact mask_sub (by assumption) rfl) : Keeps F s0 (State.putBit s k i b) := by
  unfold State.putBit
  with_reducible repeat' first
    | assumption | apply keeps_setBit | apply keeps_clrBit | split | exact mask_sub hF rfl

theorem keeps_addSat {F : Nat} {s0 s : State} (h0 : Keeps F s0 s) (k : Nat) (n : Nat) (hF : F &&& 0x40 = 0 := by exact mask_sub (by assumption) rfl) : Keeps F s0 (State.addSat s k n) := by
  unfold State.addSat
  with_reducible repeat' first
    | assumption | apply keeps_wrN | exact mask_sub hF rfl

theorem keeps_inc {F : Nat} {s0 s : State} (h0 : Keeps F s0 s) (k : Nat) (hF : F &&& 0x40 = 0 := by exact mask_sub (by assumption) rfl) : Keeps F s0 (State.inc s k) := by
  unfold State.inc
  with_reducible repeat' first
    | assumption | apply keeps_addSat | exact mask_sub hF rfl

theorem keeps_incW {F : Nat} {s0 s : State} (h0 : Keeps F s0 s) (k : Nat) (hF : F &&& 0x40 = 0 := by exact mask_sub (by assumption) rfl) : Keeps F s0 (State.incW s k) := by
  unfold State.incW
  with_reducible repeat' first
    | assumption | apply keeps_wrN | exact mask_sub hF rfl

theorem keeps_wrPair {F : Nat} {s0 s : State} (h0 : Keeps F s0 s) (k : Nat) (k2 : Nat) (n : Nat) (hF : F &&& 0x40 = 0 := by exact mask_sub (by assumption) rfl) : Keeps F s0 (State.wrPair s k k2 n) := by
  unfold State.wrPair
  with_reducible repeat' first
    | assumption | apply keeps_wrN | exact mask_sub hF rfl

theorem keeps_wrDt {F : Nat} {s0 s : State} (h0 : Keeps F s0 s) (k : Nat) (x : Nat) (hF : F &&& 0x40 = 0 := by exact mask_sub (by assumption) rfl) : Keeps F s0 (State.wrDt s k x) := by
  unfold State.wrDt
  with_reducible repeat' first
    | assumption | apply keeps_wr | exact mask_sub hF rfl

theorem keeps_latch {F : Nat} {s0 s : State} (h0 : Keeps F s0 s) (req : Nat) (k : Nat) (v : Word) (hF : F &&& 0x100 = 0 := by exact mask_sub (by assumption) rfl) : Keeps F s0 (State.latch s req k v) := by
  unfold State.latch
  with_reducible repeat' first
    | (intro _) | assumption | apply keeps_mk_latches | exact mask_sub hF rfl

theorem keeps_respond {F : Nat} {s0 s : State} (h0 : Keeps F s0 s) (r : Resp) (hF : F &&& 0x10 = 0 := by exact mask_sub (by assumption) rfl) : Keeps F s0 (State.respond s r) := by
  unfold State.respond
  with_reducible repeat' first
    | assumption | apply keeps_mk_resp | exact mask_sub hF rfl

theorem keeps_emit {F : Nat} {s0 s : State} (h0 : Keeps F s0 s) (k : OutKind) (unit : Nat) (data : List Nat) (hF : F &&& 0x20 = 0 := by exact mask_sub (by assumption) rfl) : Keeps F s0 (State.emit s k unit data) := by
  unfold State.emit
  with_reducible repeat' first
    | assumption | apply keeps_mk_out | exact mask_sub hF rfl

theorem keeps_faultN {F : Nat} {s0 s : State} (h0 : Keeps F s0 s) (why : Nat) (b : Bool) (hF : F &&& 0x20000000000000020 = 0 := by exact mask_sub (by assumption) rfl) : Keeps F s0 (State.faultN s why b) := by
  unfold State.faultN
  with_reducible repeat' first
    | (intro _)
    | (extract_lets +onlyGivenNames x; refine keeps_let (F := F) (s0 := s0) (x := x) (fun _ => ?_) ?_; rotate_left; subst x; rotate_left; clear_value x)
    | (extract_lets +onlyGivenNames x; clear_value x) | assumption | apply keeps_emit | split | apply keeps_mk_faultWhy
    | exact mask_sub hF rfl

theorem keeps_skipFree {F : Nat} {s0 s : State} (h0 : Keeps F s0 s) (n : Nat) (hF : F &&& 0x8 = 0 := by exact mask_sub (by assumption) rfl) : Keeps F s0 (State.skipFree s n) := by
  unfold State.skipFree
  with_reducible repeat' first
    | assumption | apply keeps_mk_free | exact mask_sub hF rfl

theorem keeps_setTime {F : Nat} {s0 s : State} (h0 : Keeps F s0 s) (die : Nat) (t : DieTime) (hF : F &&& 0x800 = 0 := by exact mask_sub (by assumption) rfl) : Keeps F s0 (State.setTime s die t) := by
  unfold State.setTime
  with_reducible repeat' first
    | (intro _) | assumption | apply keeps_mk_times | exact mask_sub hF rfl

theorem keeps_setTm {F : Nat} {s0 s : State} (h0 : Keeps F s0 s) (t : TimeS) (hF : F &&& 0x1000 = 0 := by exact mask_sub (by assumption) rfl) : Keeps F s0 (State.setTm s t) := by
  unfold State.setTm
  with_reducible repeat' first
    | assumption | apply keeps_mk_tm | exact mask_sub hF rfl

theorem keeps_updI2c {F : Nat} {s0 s : State} (h0 : Keeps F s0 s) (st : Nat) (f : I2cS → I2cS) (hF : F &&& 0x800000000000000 = 0 := by exact mask_sub (by assumption) rfl) : Keeps F s0 (State.updI2c s st f) := by
  unfold State.updI2c
  with_reducible repeat' first
    | (intro _) | assumption | apply keeps_mk_i2cs | exact mask_sub hF rfl

theorem keeps_updPcc {F : Nat} {s0 s : State} (h0 : Keeps F s0 s) (die : Nat) (f : PccS → PccS) (hF : F &&& 0x8000000000000000 = 0 := by exact mask_sub (by assumption) rfl) : Keeps F s0 (State.updPcc s die f) := by
  unfold State.updPcc
  with_reducible repeat' first
    | (intro _) | assumption | apply keeps_mk_pccs | exact mask_sub hF rfl

theorem keeps_setEf {F : Nat} {s0 s : State} (h0 : Keeps F s0 s) (die : Nat) (e : EfS) (hF : F &&& 0x40000 = 0 := by exact mask_sub (by assumption) rfl) : Keeps F s0 (State.setEf s die e) := by
  unfold State.setEf
  with_reducible repeat' first
    | (intro _) | assumption | apply keeps_mk_efs | exact mask_sub hF rfl

theorem keeps_pulseAt {F : Nat} {s0 s : State} (h0 : Keeps F s0 s) (die : Nat) (ep : Nat) (t : Nat) (hF : F &&& 0x40000 = 0 := by exact mask_sub (by assumption) rfl) : Keeps F s0 (State.pulseAt s die ep t) := by
  unfold State.pulseAt
  with_reducible repeat' first
    | (extract_lets +onlyGivenNames x; refine keeps_let (F := F) (s0 := s0) (x := x) (fun _ => ?_) ?_; rotate_left; subst x; rotate_left; clear_value x)
    | (extract_lets +onlyGivenNames x; clear_value x) | (intro _) | assumption | apply keeps_setEf | exact mask_sub hF rfl

theorem keeps_pulse {F : Nat} {s0 s : State} (h0 : Keeps F s0 s) (die : Nat) (ep : Nat) (hF : F &&& 0x40000 = 0 := by exact mask_sub (by assumption) rfl) : Keeps F s0 (State.pulse s die ep) := by
  unfold State.pulse
  with_reducible repeat' first
    | assumption | apply keeps_pulseAt | exact mask_sub hF rfl

theorem keeps_logErr {F : Nat} {s0 s : State} (h0 : Keeps F s0 s) (die : Nat) (cls : Nat) (status : Nat) (block : Nat) (req : Nat) (inst : Nat) (addr : Nat) (hF : F &&& 0x40 = 0 := by exact mask_sub (by assumption) rfl) : Keeps F s0 (State.logErr s die cls status block req inst addr) := by
  unfold State.logErr
  with_reducible repeat' first
    | (extract_lets +onlyGivenNames x; refine keeps_let (F := F) (s0 := s0) (x := x) (fun _ => ?_) ?_; rotate_left; subst x; rotate_left; clear_value x)
    | (extract_lets +onlyGivenNames x; clear_value x) | (intro _) | assumption | apply keeps_wrFld | apply keeps_inc | apply keeps_wr
    | apply keeps_wrN | apply keeps_wrDt | split | exact mask_sub hF rfl

theorem keeps_accessFault {F : Nat} {s0 s : State} (h0 : Keeps F s0 s) (req : Nat) (addr : Nat) (status : Nat) (hF : F &&& 0x50 = 0 := by exact mask_sub (by assumption) rfl) : Keeps F s0 (State.accessFault s req addr status) := by
  unfold State.accessFault
  with_reducible repeat' first
    | (extract_lets +onlyGivenNames x; refine keeps_let (F := F) (s0 := s0) (x := x) (fun _ => ?_) ?_; rotate_left; subst x; rotate_left; clear_value x)
    | (extract_lets +onlyGivenNames x; clear_value x) | (intro _) | assumption | apply keeps_respond | apply keeps_logErr | split
    | exact mask_sub hF rfl

theorem keeps_onKey {F : Nat} {s0 s : State} (h0 : Keeps F s0 s) (k : Nat) (req : Nat) (f : State → State) (h_f : ∀ u, Keeps F s0 u → Keeps F s0 (f u)) (hF : F &&& 0x50 = 0 := by exact mask_sub (by assumption) rfl) : Keeps F s0 (State.onKey s k req f) := by
  unfold State.onKey
  with_reducible repeat' first
    | assumption | apply keeps_accessFault | apply h_f | split | exact mask_sub hF rfl

theorem keeps_undirty {F : Nat} {s0 s : State} (h0 : Keeps F s0 s) (kind : Nat) (inst : Nat) (hF : F &&& 0x400000000000000 = 0 := by exact mask_sub (by assumption) rfl) : Keeps F s0 (State.undirty s kind inst) := by
  unfold State.undirty
  with_reducible repeat' first
    | (intro _) | assumption | apply keeps_mk_dict | exact mask_sub hF rfl

theorem keeps_logRefused {F : Nat} {s0 s : State} (h0 : Keeps F s0 s) (die : Nat) (status : Nat) (block : Nat) (req : Nat) (inst : Nat) (hF : F &&& 0x40 = 0 := by exact mask_sub (by assumption) rfl) : Keeps F s0 (State.logRefused s die status block req inst) := by
  unfold State.logRefused
  with_reducible repeat' first
    | assumption | apply keeps_logErr | exact mask_sub hF rfl

end Sys2Proof.Machine
end

