-- ==== Sys2Proof/Laws/KeepsRecords.lean ====
section
/-! SUPPORT. What the operations of Machine/Records.lean keep (`Keeps`), one lemma each. -/
namespace Sys2Proof.Machine
set_option Elab.async false

theorem keeps_setScrub {F : Nat} {s0 s : State} (h0 : Keeps F s0 s) (die : Nat) (v : ScrubS) (hF : F &&& 0x10000000000000 = 0 := by exact mask_sub (by assumption) rfl) : Keeps F s0 (State.setScrub s die v) := by
  unfold State.setScrub
  with_reducible repeat' first
    | (intro _) | assumption | apply keeps_mk_scrubAt | exact mask_sub hF rfl

theorem keeps_scrubStart {F : Nat} {s0 s : State} (h0 : Keeps F s0 s) (die : Nat) (hF : F &&& 0x10000000000000 = 0 := by exact mask_sub (by assumption) rfl) : Keeps F s0 (State.scrubStart s die) := by
  unfold State.scrubStart
  with_reducible repeat' first
    | assumption | apply keeps_setScrub | exact mask_sub hF rfl

theorem keeps_setQueue {F : Nat} {s0 s : State} (h0 : Keeps F s0 s) (die : Nat) (q : Nat) (v : QueueS) (hF : F &&& 0x4000 = 0 := by exact mask_sub (by assumption) rfl) : Keeps F s0 (State.setQueue s die q v) := by
  unfold State.setQueue
  with_reducible repeat' first
    | (intro _) | assumption | apply keeps_mk_queues | exact mask_sub hF rfl

theorem keeps_setProd {F : Nat} {s0 s : State} (h0 : Keeps F s0 s) (die : Nat) (b : Nat) (v : ProdS) (hF : F &&& 0x8000 = 0 := by exact mask_sub (by assumption) rfl) : Keeps F s0 (State.setProd s die b v) := by
  unfold State.setProd
  with_reducible repeat' first
    | (intro _) | assumption | apply keeps_mk_prods | exact mask_sub hF rfl

theorem keeps_setCk {F : Nat} {s0 s : State} (h0 : Keeps F s0 s) (die : Nat) (u : Nat) (v : CkS) (hF : F &&& 0x20000 = 0 := by exact mask_sub (by assumption) rfl) : Keeps F s0 (State.setCk s die u v) := by
  unfold State.setCk
  with_reducible repeat' first
    | (intro _) | assumption | apply keeps_mk_cks | exact mask_sub hF rfl

theorem keeps_freeCells {F : Nat} {s0 s : State} (h0 : Keeps F s0 s) (die : Nat) (n : Nat) (hF : F &&& 0x40 = 0 := by exact mask_sub (by assumption) rfl) : Keeps F s0 (State.freeCells s die n) := by
  unfold State.freeCells
  with_reducible repeat' first
    | assumption | apply keeps_wrN | exact mask_sub hF rfl

theorem keeps_takeCells {F : Nat} {s0 s : State} (h0 : Keeps F s0 s) (die : Nat) (n : Nat) (hF : F &&& 0x40040 = 0 := by exact mask_sub (by assumption) rfl) : Keeps F s0 (State.takeCells s die n) := by
  unfold State.takeCells
  with_reducible repeat' first
    | (extract_lets +onlyGivenNames x; refine keeps_let (F := F) (s0 := s0) (x := x) (fun _ => ?_) ?_; rotate_left; subst x; rotate_left; clear_value x)
    | (extract_lets +onlyGivenNames x; clear_value x) | (intro _) | assumption | apply keeps_wrN | apply keeps_setBit | apply keeps_pulse
    | split | exact mask_sub hF rfl

theorem keeps_poolEmpty {F : Nat} {s0 s : State} (h0 : Keeps F s0 s) (die : Nat) (hF : F &&& 0x40040 = 0 := by exact mask_sub (by assumption) rfl) : Keeps F s0 (State.poolEmpty s die) := by
  unfold State.poolEmpty
  with_reducible repeat' first
    | assumption | apply keeps_inc | apply keeps_setBit | apply keeps_pulse | exact mask_sub hF rfl

theorem keeps_useSeq {F : Nat} {s0 s : State} (h0 : Keeps F s0 s) (die : Nat) (q : Nat) (stream : Nat) (hF : F &&& 0x4040 = 0 := by exact mask_sub (by assumption) rfl) : Keeps F s0 (State.useSeq s die q stream) := by
  unfold State.useSeq
  with_reducible repeat' first
    | (extract_lets +onlyGivenNames x; refine keeps_let (F := F) (s0 := s0) (x := x) (fun _ => ?_) ?_; rotate_left; subst x; rotate_left; clear_value x)
    | (extract_lets +onlyGivenNames x; clear_value x) | (intro _) | assumption | apply keeps_incW | apply keeps_setQueue | split
    | exact mask_sub hF rfl

theorem keeps_countDrop {F : Nat} {s0 s : State} (h0 : Keeps F s0 s) (die : Nat) (q : Nat) (roll : Nat) (tail : Nat) (hF : F &&& 0x40 = 0 := by exact mask_sub (by assumption) rfl) : Keeps F s0 (State.countDrop s die q roll tail) := by
  unfold State.countDrop
  with_reducible repeat' first
    | (extract_lets +onlyGivenNames x; refine keeps_let (F := F) (s0 := s0) (x := x) (fun _ => ?_) ?_; rotate_left; subst x; rotate_left; clear_value x)
    | (extract_lets +onlyGivenNames x; clear_value x) | (intro _) | assumption | apply keeps_wrFld | exact mask_sub hF rfl

theorem keeps_checkReady {F : Nat} {s0 s : State} (h0 : Keeps F s0 s) (die : Nat) (q : Nat) (hF : F &&& 0x44000 = 0 := by exact mask_sub (by assumption) rfl) : Keeps F s0 (State.checkReady s die q) := by
  unfold State.checkReady
  with_reducible repeat' first
    | (extract_lets +onlyGivenNames x; refine keeps_let (F := F) (s0 := s0) (x := x) (fun _ => ?_) ?_; rotate_left; subst x; rotate_left; clear_value x)
    | (extract_lets +onlyGivenNames x; clear_value x) | (intro _) | assumption | apply keeps_setQueue | apply keeps_pulse | split
    | exact mask_sub hF rfl | (refine keeps_of_pair (by assumption) ?_)

theorem keeps_enqueue {F : Nat} {s0 s : State} (h0 : Keeps F s0 s) (die : Nat) (q : Nat) (r : Rec) (fence : Bool) (hF : F &&& 0x44040 = 0 := by exact mask_sub (by assumption) rfl) : Keeps F s0 (State.enqueue s die q r fence) := by
  unfold State.enqueue
  with_reducible repeat' first
    | (intro _)
    | (extract_lets +onlyGivenNames x; refine keeps_let (F := F) (s0 := s0) (x := x) (fun _ => ?_) ?_; rotate_left; subst x; rotate_left; clear_value x)
    | (extract_lets +onlyGivenNames x; clear_value x) | assumption | apply keeps_setQueue | apply keeps_checkReady | apply keeps_freeCells
    | apply keeps_countDrop | split | exact mask_sub hF rfl

theorem keeps_buildCopy {F : Nat} {s0 s : State} (h0 : Keeps F s0 s) (die : Nat) (q : Nat) (res : Bool) (fence : Bool) (held : List Nat) (data : List Byte) (hF : F &&& 0x4044048 = 0 := by exact mask_sub (by assumption) rfl) : Keeps F s0 (State.buildCopy s die q res fence held data).1 := by
  unfold State.buildCopy
  with_reducible repeat' first
    | (intro _)
    | (extract_lets +onlyGivenNames x; refine keeps_let (F := F) (s0 := s0) (x := x) (fun _ => ?_) ?_; rotate_left; subst x; rotate_left; clear_value x)
    | (extract_lets +onlyGivenNames x; clear_value x) | assumption | apply keeps_takeCells | apply keeps_skipFree | apply keeps_enqueue
    | apply keeps_freeCells | apply keeps_poolEmpty | apply keeps_inc | split | apply keeps_mk_cellMem | exact mask_sub hF rfl

theorem keeps_mirrorCopy {F : Nat} {s0 s : State} (h0 : Keeps F s0 s) (die : Nat) (b : Nat) (p : ProdS) (data : List Byte) (hF : F &&& 0x4044048 = 0 := by exact mask_sub (by assumption) rfl) : Keeps F s0 (State.mirrorCopy s die b p data) := by
  unfold State.mirrorCopy
  with_reducible repeat' first
    | assumption | apply keeps_buildCopy | apply keeps_freeCells | split | exact mask_sub hF rfl

theorem keeps_dropOpen {F : Nat} {s0 s : State} (h0 : Keeps F s0 s) (die : Nat) (b : Nat) (stream : Nat) (hF : F &&& 0x4c040 = 0 := by exact mask_sub (by assumption) rfl) : Keeps F s0 (State.dropOpen s die b stream) := by
  unfold State.dropOpen
  with_reducible repeat' first
    | (extract_lets +onlyGivenNames x; refine keeps_let (F := F) (s0 := s0) (x := x) (fun _ => ?_) ?_; rotate_left; subst x; rotate_left; clear_value x)
    | (extract_lets +onlyGivenNames x; clear_value x) | (intro _) | assumption | apply keeps_poolEmpty | apply keeps_freeCells
    | apply keeps_inc | apply keeps_useSeq | apply keeps_setProd | split | exact mask_sub hF rfl

theorem keeps_grantCell {F : Nat} {s0 s : State} (h0 : Keeps F s0 s) (die : Nat) (b : Nat) (hF : F &&& 0x48048 = 0 := by exact mask_sub (by assumption) rfl) : Keeps F s0 (State.grantCell s die b) := by
  unfold State.grantCell
  with_reducible repeat' first
    | (extract_lets +onlyGivenNames x; refine keeps_let (F := F) (s0 := s0) (x := x) (fun _ => ?_) ?_; rotate_left; subst x; rotate_left; clear_value x)
    | (extract_lets +onlyGivenNames x; clear_value x) | (intro _) | assumption | apply keeps_takeCells | apply keeps_skipFree
    | apply keeps_setProd | exact mask_sub hF rfl

theorem keeps_allocCycle {F : Nat} {s0 s : State} (h0 : Keeps F s0 s) (die : Nat) (bs : List Nat) (str : Nat → Nat) (hF : F &&& 0x204c048 = 0 := by exact mask_sub (by assumption) rfl) : Keeps F s0 (State.allocCycle s die bs str) := by
  unfold State.allocCycle
  with_reducible repeat' first
    | (intro _)
    | (extract_lets +onlyGivenNames x; refine keeps_let (F := F) (s0 := s0) (x := x) (fun _ => ?_) ?_; rotate_left; subst x; rotate_left; clear_value x)
    | (extract_lets +onlyGivenNames x; refine keeps_let1 (F := F) (s0 := s0) (x := x) (fun _ => ?_) ?_; rotate_left; subst x; rotate_left; clear_value x)
    | (extract_lets +onlyGivenNames x; clear_value x) | (extract_lets +onlyGivenNames x; subst x) | assumption | apply keeps_forEach
    | apply keeps_grantCell | apply keeps_dropOpen | apply keeps_forEachP | split | apply keeps_mk_cellPtr | exact mask_sub hF rfl
    | (refine keeps_of_pair (by assumption) ?_)

theorem keeps_growCopy {F : Nat} {s0 s : State} (h0 : Keeps F s0 s) (die : Nat) (b : Nat) (hF : F &&& 0x48048 = 0 := by exact mask_sub (by assumption) rfl) : Keeps F s0 (State.growCopy s die b) := by
  unfold State.growCopy
  with_reducible repeat' first
    | (extract_lets +onlyGivenNames x; refine keeps_let (F := F) (s0 := s0) (x := x) (fun _ => ?_) ?_; rotate_left; subst x; rotate_left; clear_value x)
    | (extract_lets +onlyGivenNames x; clear_value x) | (intro _) | assumption | apply keeps_takeCells | apply keeps_skipFree
    | apply keeps_setProd | apply keeps_poolEmpty | apply keeps_freeCells | apply keeps_inc | split | exact mask_sub hF rfl

theorem keeps_growRec {F : Nat} {s0 s : State} (h0 : Keeps F s0 s) (die : Nat) (b : Nat) (stream : Nat) (n : Nat) (hF : F &&& 0x204c048 = 0 := by exact mask_sub (by assumption) rfl) : Keeps F s0 (State.growRec s die b stream n) := by
  unfold State.growRec
  with_reducible repeat' first
    | (intro _)
    | (extract_lets +onlyGivenNames x; refine keeps_let (F := F) (s0 := s0) (x := x) (fun _ => ?_) ?_; rotate_left; subst x; rotate_left; clear_value x)
    | (extract_lets +onlyGivenNames x; refine keeps_let1 (F := F) (s0 := s0) (x := x) (fun _ => ?_) ?_; rotate_left; subst x; rotate_left; clear_value x)
    | (extract_lets +onlyGivenNames x; clear_value x) | (extract_lets +onlyGivenNames x; subst x) | assumption | apply keeps_forEach
    | apply keeps_setProd | apply keeps_allocCycle | apply keeps_growCopy | apply keeps_forEachP | split | exact mask_sub hF rfl
    | (refine keeps_of_pair (by assumption) ?_)

theorem keeps_closeRaw {F : Nat} {s0 s : State} (h0 : Keeps F s0 s) (die : Nat) (b : Nat) (h : RecHdr) (payload : List Byte) (hF : F &&& 0x404c048 = 0 := by exact mask_sub (by assumption) rfl) : Keeps F s0 (State.closeRaw s die b h payload) := by
  unfold State.closeRaw
  with_reducible repeat' first
    | (extract_lets +onlyGivenNames x; refine keeps_let (F := F) (s0 := s0) (x := x) (fun _ => ?_) ?_; rotate_left; subst x; rotate_left; clear_value x)
    | (extract_lets +onlyGivenNames x; clear_value x) | (intro _) | assumption | apply keeps_setProd | apply keeps_mirrorCopy
    | apply keeps_useSeq | apply keeps_buildCopy | split | exact mask_sub hF rfl

theorem keeps_closePush {F : Nat} {s0 s : State} (h0 : Keeps F s0 s) (die : Nat) (q : Nat) (mir : Option (Nat × ProdS)) (res : Bool) (fence : Bool) (held : List Nat) (data : List Byte) (stream : Nat) (hF : F &&& 0x4044048 = 0 := by exact mask_sub (by assumption) rfl) : Keeps F s0 (State.closePush s die q mir res fence held data stream) := by
  unfold State.closePush
  with_reducible repeat' first
    | (extract_lets +onlyGivenNames x; refine keeps_let (F := F) (s0 := s0) (x := x) (fun _ => ?_) ?_; rotate_left; subst x; rotate_left; clear_value x)
    | (extract_lets +onlyGivenNames x; refine keeps_let1 (F := F) (s0 := s0) (x := x) (fun _ => ?_) ?_; rotate_left; subst x; rotate_left; clear_value x)
    | (extract_lets +onlyGivenNames x; clear_value x) | (intro _) | assumption | apply keeps_buildCopy | apply keeps_useSeq
    | apply keeps_mirrorCopy | split | exact mask_sub hF rfl | (refine keeps_of_pair (by assumption) ?_)

theorem keeps_setHealthLost {F : Nat} {s0 s : State} (h0 : Keeps F s0 s) (die : Nat) (n : Nat) (hF : F &&& 0x10000 = 0 := by exact mask_sub (by assumption) rfl) : Keeps F s0 (State.setHealthLost s die n) := by
  unfold State.setHealthLost
  with_reducible repeat' first
    | (intro _) | assumption | apply keeps_mk_healthLost | exact mask_sub hF rfl

theorem keeps_health {F : Nat} {s0 s : State} (h0 : Keeps F s0 s) (die : Nat) (code : Nat) (sev : Nat) (block : Nat) (inst : Nat) (value : Nat) (aux : Nat) (hF : F &&& 0x40000000405c068 = 0 := by exact mask_sub (by assumption) rfl) : Keeps F s0 (State.health s die code sev block inst value aux) := by
  unfold State.health
  with_reducible repeat' first
    | (intro _)
    | (extract_lets +onlyGivenNames x; refine keeps_let (F := F) (s0 := s0) (x := x) (fun _ => ?_) ?_; rotate_left; subst x; rotate_left; clear_value x)
    | (extract_lets +onlyGivenNames x; clear_value x) | assumption | apply keeps_emit | apply keeps_closeRaw | apply keeps_setHealthLost
    | apply keeps_closePush | split | apply keeps_mk_dict | exact mask_sub hF rfl | (refine keeps_of_pair (by assumption) ?_)

theorem keeps_ckFinish {F : Nat} {s0 s : State} (h0 : Keeps F s0 s) (die : Nat) (u : Nat) (crc : Nat) (hF : F &&& 0x40000000407c068 = 0 := by exact mask_sub (by assumption) rfl) : Keeps F s0 (State.ckFinish s die u crc) := by
  unfold State.ckFinish
  with_reducible repeat' first
    | (extract_lets +onlyGivenNames x; refine keeps_let (F := F) (s0 := s0) (x := x) (fun _ => ?_) ?_; rotate_left; subst x; rotate_left; clear_value x)
    | (extract_lets +onlyGivenNames x; clear_value x) | (intro _) | assumption | apply keeps_wrN | apply keeps_setBit | apply keeps_setCk
    | apply keeps_clrBit | apply keeps_incW | apply keeps_pulse | apply keeps_health | split | exact mask_sub hF rfl

theorem keeps_ckSee {F : Nat} {s0 s : State} (h0 : Keeps F s0 s) (die : Nat) (b : Nat) (h : RecHdr) (payload : List Byte) (u : Nat) (hF : F &&& 0x40000000407c068 = 0 := by exact mask_sub (by assumption) rfl) : Keeps F s0 (State.ckSee s die b h payload u) := by
  unfold State.ckSee
  with_reducible repeat' first
    | (extract_lets +onlyGivenNames x; refine keeps_let (F := F) (s0 := s0) (x := x) (fun _ => ?_) ?_; rotate_left; subst x; rotate_left; clear_value x)
    | (extract_lets +onlyGivenNames x; clear_value x) | (intro _) | assumption | apply keeps_setCk | apply keeps_ckFinish | split
    | exact mask_sub hF rfl

theorem keeps_closeRec {F : Nat} {s0 s : State} (h0 : Keeps F s0 s) (die : Nat) (b : Nat) (h : RecHdr) (payload : List Byte) (hF : F &&& 0x40000000407c068 = 0 := by exact mask_sub (by assumption) rfl) : Keeps F s0 (State.closeRec s die b h payload) := by
  unfold State.closeRec
  with_reducible repeat' first
    | (intro _) | assumption | apply keeps_forEach | apply keeps_closeRaw | apply keeps_ckSee | exact mask_sub hF rfl

end Sys2Proof.Machine
end

