-- ==== Sys2Proof/Laws/KeepsLinkPkt.lean ====
section
/-! SUPPORT. What the operations of Machine/LinkPkt.lean keep (`Keeps`), one lemma each. -/
namespace Sys2Proof.Machine
set_option Elab.async false

theorem keeps_setPort {F : Nat} {s0 s : State} (h0 : Keeps F s0 s) (p : Nat) (v : PortS) (hF : F &&& 0x80000 = 0 := by exact mask_sub (by assumption) rfl) : Keeps F s0 (State.setPort s p v) := by
  unfold State.setPort
  with_reducible repeat' first
    | (intro _) | assumption | apply keeps_mk_ports | exact mask_sub hF rfl

theorem keeps_updPort {F : Nat} {s0 s : State} (h0 : Keeps F s0 s) (p : Nat) (f : PortS → PortS) (hF : F &&& 0x80000 = 0 := by exact mask_sub (by assumption) rfl) : Keeps F s0 (State.updPort s p f) := by
  unfold State.updPort
  with_reducible repeat' first
    | assumption | apply keeps_setPort | exact mask_sub hF rfl

theorem keeps_lpEvent {F : Nat} {s0 s : State} (h0 : Keeps F s0 s) (p : Nat) (i : Nat) (hF : F &&& 0x40 = 0 := by exact mask_sub (by assumption) rfl) : Keeps F s0 (State.lpEvent s p i) := by
  unfold State.lpEvent
  with_reducible repeat' first
    | assumption | apply keeps_setBit | exact mask_sub hF rfl

theorem keeps_blkEvent {F : Nat} {s0 s : State} (h0 : Keeps F s0 s) (p : Nat) (i : Nat) (hF : F &&& 0x40 = 0 := by exact mask_sub (by assumption) rfl) : Keeps F s0 (State.blkEvent s p i) := by
  unfold State.blkEvent
  with_reducible repeat' first
    | assumption | apply keeps_setBit | exact mask_sub hF rfl

theorem keeps_fifoStat {F : Nat} {s0 s : State} (h0 : Keeps F s0 s) (p : Nat) (hF : F &&& 0x40 = 0 := by exact mask_sub (by assumption) rfl) : Keeps F s0 (State.fifoStat s p) := by
  unfold State.fifoStat
  with_reducible repeat' first
    | (extract_lets +onlyGivenNames x; refine keeps_let (F := F) (s0 := s0) (x := x) (fun _ => ?_) ?_; rotate_left; subst x; rotate_left; clear_value x)
    | (extract_lets +onlyGivenNames x; clear_value x) | (intro _) | assumption | apply keeps_wrFld | exact mask_sub hF rfl

theorem keeps_fifoFull {F : Nat} {s0 s : State} (h0 : Keeps F s0 s) (p : Nat) (hF : F &&& 0x8 = 0 := by exact mask_sub (by assumption) rfl) : Keeps F s0 (State.fifoFull s p).1 := by
  unfold State.fifoFull
  with_reducible repeat' first
    | (extract_lets +onlyGivenNames x; refine keeps_let (F := F) (s0 := s0) (x := x) (fun _ => ?_) ?_; rotate_left; subst x; rotate_left; clear_value x)
    | (extract_lets +onlyGivenNames x; clear_value x) | (intro _) | assumption | apply keeps_skipFree | split | exact mask_sub hF rfl
    | (refine keeps_of_pair (by assumption) ?_)

theorem keeps_fifoPut {F : Nat} {s0 s : State} (h0 : Keeps F s0 s) (p : Nat) (w : FifoWord) (hF : F &&& 0x80040 = 0 := by exact mask_sub (by assumption) rfl) : Keeps F s0 (State.fifoPut s p w) := by
  unfold State.fifoPut
  with_reducible repeat' first
    | (intro _) | assumption | apply keeps_updPort | apply keeps_fifoStat | exact mask_sub hF rfl

theorem keeps_fifoDrop {F : Nat} {s0 s : State} (h0 : Keeps F s0 s) (p : Nat) (n : Nat) (hF : F &&& 0x80040 = 0 := by exact mask_sub (by assumption) rfl) : Keeps F s0 (State.fifoDrop s p n) := by
  unfold State.fifoDrop
  with_reducible repeat' first
    | (extract_lets +onlyGivenNames x; refine keeps_let (F := F) (s0 := s0) (x := x) (fun _ => ?_) ?_; rotate_left; subst x; rotate_left; clear_value x)
    | (extract_lets +onlyGivenNames x; clear_value x) | (intro _) | assumption | apply keeps_setPort | apply keeps_fifoStat | split
    | exact mask_sub hF rfl

theorem keeps_fifoLine {F : Nat} {s0 s : State} (h0 : Keeps F s0 s) (p : Nat) (hF : F &&& 0x80040 = 0 := by exact mask_sub (by assumption) rfl) : Keeps F s0 (State.fifoLine s p) := by
  unfold State.fifoLine
  with_reducible repeat' first
    | (extract_lets +onlyGivenNames x; refine keeps_let (F := F) (s0 := s0) (x := x) (fun _ => ?_) ?_; rotate_left; subst x; rotate_left; clear_value x)
    | (extract_lets +onlyGivenNames x; clear_value x) | (intro _) | assumption | apply keeps_setPort | apply keeps_fifoDrop | split
    | exact mask_sub hF rfl

theorem keeps_fifoLines {F : Nat} {s0 s : State} (h0 : Keeps F s0 s) (hF : F &&& 0x80040 = 0 := by exact mask_sub (by assumption) rfl) : Keeps F s0 (State.fifoLines s) := by
  unfold State.fifoLines
  with_reducible repeat' first
    | (intro _) | assumption | apply keeps_forEach | apply keeps_fifoLine | exact mask_sub hF rfl

theorem keeps_nextPkt {F : Nat} {s0 s t : State} {p : Nat} {x : Pkt} (e : s.nextPkt p = some (x, t)) (h0 : Keeps F s0 s)
    (hF : F &&& 0x80040 = 0 := by exact mask_sub (by assumption) rfl) :
    Keeps F s0 t := by
  unfold State.nextPkt at e
  extract_lets q at e
  split at e
  · cases e
  · cases e; exact keeps_fifoDrop (keeps_setPort h0 _ _) _ _

theorem keeps_putWord {F : Nat} {s0 s : State} (h0 : Keeps F s0 s) (p : Nat) (c : PktRx) (eop : Bool) (crc : Bool) (trunc : Bool) (hF : F &&& 0x80048 = 0 := by exact mask_sub (by assumption) rfl) : Keeps F s0 (State.putWord s p c eop crc trunc) := by
  unfold State.putWord
  with_reducible repeat' first
    | (intro _)
    | (extract_lets +onlyGivenNames x; refine keeps_let (F := F) (s0 := s0) (x := x) (fun _ => ?_) ?_; rotate_left; subst x; rotate_left; clear_value x)
    | (extract_lets +onlyGivenNames x; refine keeps_let1 (F := F) (s0 := s0) (x := x) (fun _ => ?_) ?_; rotate_left; subst x; rotate_left; clear_value x)
    | (extract_lets +onlyGivenNames x; clear_value x) | (extract_lets +onlyGivenNames x; subst x) | assumption | apply keeps_fifoFull
    | apply keeps_updPort | apply keeps_inc | apply keeps_blkEvent | apply keeps_fifoPut | split | exact mask_sub hF rfl
    | (refine keeps_of_pair (by assumption) ?_)

theorem keeps_endCur {F : Nat} {s0 s : State} (h0 : Keeps F s0 s) (p : Nat) (crc : Bool) (trunc : Bool) (rsf : Bool) (hF : F &&& 0x80048 = 0 := by exact mask_sub (by assumption) rfl) : Keeps F s0 (State.endCur s p crc trunc rsf) := by
  unfold State.endCur
  with_reducible repeat' first
    | (intro _)
    | (extract_lets +onlyGivenNames x; refine keeps_let (F := F) (s0 := s0) (x := x) (fun _ => ?_) ?_; rotate_left; subst x; rotate_left; clear_value x)
    | (extract_lets +onlyGivenNames x; clear_value x) | assumption | apply keeps_putWord | apply keeps_updPort | apply keeps_skipFree
    | apply keeps_fifoPut | split | exact mask_sub hF rfl | (refine keeps_of_pair (by assumption) ?_)

theorem keeps_takeHeader {F : Nat} {s0 s : State} (h0 : Keeps F s0 s) (p : Nat) (h : List StreamByte) (d : Nat) (hF : F &&& 0x80048 = 0 := by exact mask_sub (by assumption) rfl) : Keeps F s0 (State.takeHeader s p h d) := by
  unfold State.takeHeader
  with_reducible repeat' first
    | (intro _)
    | (extract_lets +onlyGivenNames x; refine keeps_let (F := F) (s0 := s0) (x := x) (fun _ => ?_) ?_; rotate_left; subst x; rotate_left; clear_value x)
    | (extract_lets +onlyGivenNames x; clear_value x) | assumption | apply keeps_inc | apply keeps_updPort | apply keeps_endCur | split
    | exact mask_sub hF rfl

theorem keeps_takeByte {F : Nat} {s0 s : State} (h0 : Keeps F s0 s) (p : Nat) (c : PktRx) (b : StreamByte) (hF : F &&& 0x80048 = 0 := by exact mask_sub (by assumption) rfl) : Keeps F s0 (State.takeByte s p c b) := by
  unfold State.takeByte
  with_reducible repeat' first
    | (intro _)
    | (extract_lets +onlyGivenNames x; refine keeps_let (F := F) (s0 := s0) (x := x) (fun _ => ?_) ?_; rotate_left; subst x; rotate_left; clear_value x)
    | (extract_lets +onlyGivenNames x; clear_value x) | assumption | apply keeps_updPort | apply keeps_putWord | apply keeps_inc
    | apply keeps_endCur | split | exact mask_sub hF rfl

theorem keeps_headerStep {F : Nat} {s0 s : State} (h0 : Keeps F s0 s) (p : Nat) (v : PortS) (st : List StreamByte) (r : Option (Nat × Bool)) (hF : F &&& 0x80048 = 0 := by exact mask_sub (by assumption) rfl) : Keeps F s0 (State.headerStep s p v st r) := by
  unfold State.headerStep
  with_reducible repeat' first
    | (extract_lets +onlyGivenNames x; refine keeps_let (F := F) (s0 := s0) (x := x) (fun _ => ?_) ?_; rotate_left; subst x; rotate_left; clear_value x)
    | (extract_lets +onlyGivenNames x; clear_value x) | (intro _) | assumption | apply keeps_setPort | apply keeps_inc
    | apply keeps_takeHeader | split | exact mask_sub hF rfl | (refine keeps_of_pair (by assumption) ?_)

theorem keeps_parseOne {F : Nat} {s0 s : State} (h0 : Keeps F s0 s) (p : Nat) (hF : F &&& 0x80048 = 0 := by exact mask_sub (by assumption) rfl) : Keeps F s0 (s.parseOne p).1 := by
  unfold State.parseOne
  extract_lets v st hdr
  split
  · exact keeps_takeByte (keeps_setPort h0 _ _) _ _ _
  · exact h0
  · split
    · exact keeps_setPort h0 _ _
    · generalize hdrCheck _ = r
      exact keeps_headerStep h0 _ _ _ _

theorem keeps_parseAll {F : Nat} {s0 : State} (hF : F &&& 0x80048 = 0) (p : Nat) : ∀ (n : Nat) {s : State}, Keeps F s0 s → Keeps F s0 (s.parseAll p n)
  | 0, _, h => h
  | n + 1, s, h => by
    unfold State.parseAll
    extract_lets r
    have hr : Keeps F s0 r.1 := keeps_parseOne h _
    split
    · exact keeps_parseAll (mask_sub hF rfl) p n hr
    · exact hr

theorem keeps_endPacket {F : Nat} {s0 s : State} (h0 : Keeps F s0 s) (p : Nat) (rsf : Bool) (hF : F &&& 0x80048 = 0 := by exact mask_sub (by assumption) rfl) : Keeps F s0 (State.endPacket s p rsf) := by
  unfold State.endPacket
  with_reducible repeat' first
    | (intro _) | assumption | apply keeps_parseAll | apply keeps_endCur | apply keeps_updPort | exact mask_sub hF rfl

theorem keeps_breakWrite {F : Nat} {s0 s : State} (h0 : Keeps F s0 s) (p : Nat) (hF : F &&& 0x80048 = 0 := by exact mask_sub (by assumption) rfl) : Keeps F s0 (State.breakWrite s p) := by
  unfold State.breakWrite
  with_reducible repeat' first
    | (intro _) | assumption | apply keeps_forEach | apply keeps_endPacket | apply keeps_fifoPut | split | exact mask_sub hF rfl

theorem keeps_rxPut {F : Nat} {s0 s : State} (h0 : Keeps F s0 s) (p : Nat) (typ : Nat) (payload : List Byte) (synth : Bool) (hF : F &&& 0x80040 = 0 := by exact mask_sub (by assumption) rfl) : Keeps F s0 (State.rxPut s p typ payload synth) := by
  unfold State.rxPut
  with_reducible repeat' first
    | (intro _)
    | (extract_lets +onlyGivenNames x; refine keeps_let (F := F) (s0 := s0) (x := x) (fun _ => ?_) ?_; rotate_left; subst x; rotate_left; clear_value x)
    | (extract_lets +onlyGivenNames x; clear_value x) | assumption | apply keeps_setPort | apply keeps_wrFld | apply keeps_blkEvent
    | apply keeps_setBit | split | exact mask_sub hF rfl

theorem keeps_busOutst {F : Nat} {s0 s : State} (h0 : Keeps F s0 s) (p : Nat) (hF : F &&& 0x40 = 0 := by exact mask_sub (by assumption) rfl) : Keeps F s0 (State.busOutst s p) := by
  unfold State.busOutst
  with_reducible repeat' first
    | (intro _)
    | (extract_lets +onlyGivenNames x; refine keeps_let (F := F) (s0 := s0) (x := x) (fun _ => ?_) ?_; rotate_left; subst x; (try dsimp -zeta only); rotate_left; clear_value x)
    | (extract_lets +onlyGivenNames x; refine keeps_letF (F := F) (s0 := s0) (x := x) (fun hf => ?_) ?_; rotate_left; subst x; (try dsimp -zeta only); rotate_left; clear_value x)
    | (extract_lets +onlyGivenNames x; refine keeps_letF2 (F := F) (s0 := s0) (x := x) (fun hf => ?_) ?_; rotate_left; subst x; (try dsimp -zeta only); rotate_left; clear_value x)
    | (extract_lets +onlyGivenNames x; refine keeps_letN (F := F) (s0 := s0) (x := x) (fun hf => ?_) ?_; rotate_left; subst x; (try dsimp -zeta only); rotate_left; clear_value x)
    | (extract_lets +onlyGivenNames x; clear_value x) | assumption | apply keeps_wrN | apply hf | exact mask_sub hF rfl

theorem keeps_synthResult {F : Nat} {s0 s : State} (h0 : Keeps F s0 s) (p : Nat) (id : Nat) (bus : Nat) (st : Nat) (hF : F &&& 0x80048 = 0 := by exact mask_sub (by assumption) rfl) : Keeps F s0 (State.synthResult s p id bus st) := by
  unfold State.synthResult
  with_reducible repeat' first
    | (intro _)
    | (extract_lets +onlyGivenNames x; refine keeps_let (F := F) (s0 := s0) (x := x) (fun _ => ?_) ?_; rotate_left; subst x; rotate_left; clear_value x)
    | (extract_lets +onlyGivenNames x; clear_value x) | assumption | apply keeps_rxPut | apply keeps_skipFree | exact mask_sub hF rfl

theorem keeps_linkLost {F : Nat} {s0 s : State} (h0 : Keeps F s0 s) (p : Nat) (hF : F &&& 0x80048 = 0 := by exact mask_sub (by assumption) rfl) : Keeps F s0 (State.linkLost s p) := by
  unfold State.linkLost
  with_reducible repeat' first
    | (intro _)
    | (extract_lets +onlyGivenNames x; refine keeps_let (F := F) (s0 := s0) (x := x) (fun _ => ?_) ?_; rotate_left; subst x; rotate_left; clear_value x)
    | (extract_lets +onlyGivenNames x; clear_value x) | assumption | apply keeps_forEach | apply keeps_synthResult | apply keeps_updPort
    | apply keeps_busOutst | exact mask_sub hF rfl

theorem keeps_esClear {F : Nat} {s0 s : State} (h0 : Keeps F s0 s) (p : Nat) (hF : F &&& 0x80040 = 0 := by exact mask_sub (by assumption) rfl) : Keeps F s0 (s.esClear p) :=
  h0.upd hF rfl rfl (fun x => Tbl.wf_filter _ x) id id
    (fun f => by cases f <;> first | exact fun _ => rfl | exact fun h => nomatch h)

theorem keeps_esEnd {F : Nat} {s0 s : State} (h0 : Keeps F s0 s) (p : Nat) (st : Nat) (hF : F &&& 0x40 = 0 := by exact mask_sub (by assumption) rfl) : Keeps F s0 (State.esEnd s p st) := by
  unfold State.esEnd
  with_reducible repeat' first
    | (intro _)
    | (extract_lets +onlyGivenNames x; refine keeps_let (F := F) (s0 := s0) (x := x) (fun _ => ?_) ?_; rotate_left; subst x; rotate_left; clear_value x)
    | (extract_lets +onlyGivenNames x; clear_value x) | assumption | apply keeps_wrN | apply keeps_wrFld | apply keeps_clrBit
    | apply keeps_lpEvent | split | exact mask_sub hF rfl

theorem keeps_esAbort {F : Nat} {s0 s : State} (h0 : Keeps F s0 s) (p : Nat) (hF : F &&& 0x40 = 0 := by exact mask_sub (by assumption) rfl) : Keeps F s0 (State.esAbort s p) := by
  unfold State.esAbort
  with_reducible repeat' first
    | assumption | apply keeps_esEnd | split | exact mask_sub hF rfl

theorem keeps_setPwr {F : Nat} {s0 s : State} (h0 : Keeps F s0 s) (p : Nat) (want : Bool) (hF : F &&& 0x80040 = 0 := by exact mask_sub (by assumption) rfl) : Keeps F s0 (State.setPwr s p want) := by
  unfold State.setPwr
  with_reducible repeat' first
    | (intro _)
    | (extract_lets +onlyGivenNames x; refine keeps_let (F := F) (s0 := s0) (x := x) (fun _ => ?_) ?_; rotate_left; subst x; rotate_left; clear_value x)
    | (extract_lets +onlyGivenNames x; clear_value x) | assumption | apply keeps_updPort | apply keeps_putBit | split
    | exact mask_sub hF rfl

theorem keeps_setTaps {F : Nat} {s0 s : State} (h0 : Keeps F s0 s) (p : Nat) (t : List Int) (hF : F &&& 0x40 = 0 := by exact mask_sub (by assumption) rfl) : Keeps F s0 (State.setTaps s p t) := by
  unfold State.setTaps
  with_reducible repeat' first
    | (intro _)
    | (extract_lets +onlyGivenNames x; refine keeps_let (F := F) (s0 := s0) (x := x) (fun _ => ?_) ?_; rotate_left; subst x; (try dsimp -zeta only); rotate_left; clear_value x)
    | (extract_lets +onlyGivenNames x; refine keeps_letF (F := F) (s0 := s0) (x := x) (fun hf => ?_) ?_; rotate_left; subst x; (try dsimp -zeta only); rotate_left; clear_value x)
    | (extract_lets +onlyGivenNames x; refine keeps_letF2 (F := F) (s0 := s0) (x := x) (fun hf => ?_) ?_; rotate_left; subst x; (try dsimp -zeta only); rotate_left; clear_value x)
    | (extract_lets +onlyGivenNames x; refine keeps_letN (F := F) (s0 := s0) (x := x) (fun hf => ?_) ?_; rotate_left; subst x; (try dsimp -zeta only); rotate_left; clear_value x)
    | (extract_lets +onlyGivenNames x; clear_value x) | assumption | apply keeps_wrFld | apply keeps_wrN | apply hf
    | exact mask_sub hF rfl

theorem keeps_movePhase {F : Nat} {s0 s : State} (h0 : Keeps F s0 s) (p : Nat) (d : Int) (hF : F &&& 0x40 = 0 := by exact mask_sub (by assumption) rfl) : Keeps F s0 (State.movePhase s p d) := by
  unfold State.movePhase
  with_reducible repeat' first
    | (extract_lets +onlyGivenNames x; refine keeps_let (F := F) (s0 := s0) (x := x) (fun _ => ?_) ?_; rotate_left; subst x; rotate_left; clear_value x)
    | (extract_lets +onlyGivenNames x; clear_value x) | (intro _) | assumption | apply keeps_wrN | exact mask_sub hF rfl

theorem keeps_adapt {F : Nat} {s0 s : State} (h0 : Keeps F s0 s) (p : Nat) (a : Adapt) (hF : F &&& 0x40 = 0 := by exact mask_sub (by assumption) rfl) : Keeps F s0 (State.adapt s p a) := by
  unfold State.adapt
  with_reducible repeat' first
    | (intro _)
    | (extract_lets +onlyGivenNames x; refine keeps_let (F := F) (s0 := s0) (x := x) (fun _ => ?_) ?_; rotate_left; subst x; rotate_left; clear_value x)
    | (extract_lets +onlyGivenNames x; clear_value x) | assumption | apply keeps_wrN | apply keeps_movePhase | apply keeps_wrFld
    | apply keeps_setTaps | split | exact mask_sub hF rfl

theorem keeps_sendSet {F : Nat} {s0 s : State} (h0 : Keeps F s0 s) (p : Nat) (hF : F &&& 0x80020 = 0 := by exact mask_sub (by assumption) rfl) : Keeps F s0 (State.sendSet s p) := by
  unfold State.sendSet
  with_reducible repeat' first
    | (intro _)
    | (extract_lets +onlyGivenNames x; refine keeps_let (F := F) (s0 := s0) (x := x) (fun _ => ?_) ?_; rotate_left; subst x; rotate_left; clear_value x)
    | (extract_lets +onlyGivenNames x; clear_value x) | assumption | apply keeps_setPort | apply keeps_emit | split
    | exact mask_sub hF rfl

theorem keeps_nextSet {F : Nat} {s0 s : State} (h0 : Keeps F s0 s) (p : Nat) (hF : F &&& 0x80020 = 0 := by exact mask_sub (by assumption) rfl) : Keeps F s0 (State.nextSet s p) := by
  unfold State.nextSet
  with_reducible repeat' first
    | assumption | apply keeps_sendSet | split | exact mask_sub hF rfl

theorem keeps_leaveRun {F : Nat} {s0 s : State} (h0 : Keeps F s0 s) (p : Nat) (hF : F &&& 0xc0048 = 0 := by exact mask_sub (by assumption) rfl) : Keeps F s0 (State.leaveRun s p) := by
  unfold State.leaveRun
  with_reducible repeat' first
    | (intro _) | assumption | apply keeps_breakWrite | apply keeps_linkLost | apply keeps_esAbort | apply keeps_lpEvent
    | apply keeps_pulse | apply keeps_clrBits | apply keeps_clrBit | apply keeps_updPort | exact mask_sub hF rfl

theorem keeps_upCaps {F : Nat} {s0 s : State} (h0 : Keeps F s0 s) (p : Nat) (hF : F &&& 0x80008 = 0 := by exact mask_sub (by assumption) rfl) : Keeps F s0 (State.upCaps s p) := by
  unfold State.upCaps
  with_reducible repeat' first
    | (intro _)
    | (extract_lets +onlyGivenNames x; refine keeps_let (F := F) (s0 := s0) (x := x) (fun _ => ?_) ?_; rotate_left; subst x; (try dsimp -zeta only); rotate_left; clear_value x)
    | (extract_lets +onlyGivenNames x; refine keeps_letF (F := F) (s0 := s0) (x := x) (fun hf => ?_) ?_; rotate_left; subst x; (try dsimp -zeta only); rotate_left; clear_value x)
    | (extract_lets +onlyGivenNames x; refine keeps_letF2 (F := F) (s0 := s0) (x := x) (fun hf => ?_) ?_; rotate_left; subst x; (try dsimp -zeta only); rotate_left; clear_value x)
    | (extract_lets +onlyGivenNames x; refine keeps_letN (F := F) (s0 := s0) (x := x) (fun hf => ?_) ?_; rotate_left; subst x; (try dsimp -zeta only); rotate_left; clear_value x)
    | (extract_lets +onlyGivenNames x; clear_value x) | assumption | apply keeps_skipFree | apply keeps_updPort | apply hf
    | exact mask_sub hF rfl

theorem keeps_enterRun {F : Nat} {s0 s : State} (h0 : Keeps F s0 s) (p : Nat) (fromWake : Bool) (hF : F &&& 0xc0048 = 0 := by exact mask_sub (by assumption) rfl) : Keeps F s0 (State.enterRun s p fromWake) := by
  unfold State.enterRun
  with_reducible repeat' first
    | (intro _)
    | (extract_lets +onlyGivenNames x; refine keeps_let (F := F) (s0 := s0) (x := x) (fun _ => ?_) ?_; rotate_left; subst x; rotate_left; clear_value x)
    | (extract_lets +onlyGivenNames x; clear_value x) | assumption | apply keeps_lpEvent | apply keeps_pulse | apply keeps_wrFld
    | apply keeps_putBit | apply keeps_updPort | apply keeps_wrN | apply keeps_upCaps | split | exact mask_sub hF rfl

theorem keeps_moveState {F : Nat} {s0 s : State} (h0 : Keeps F s0 s) (p : Nat) (st : Nat) (hF : F &&& 0xc0048 = 0 := by exact mask_sub (by assumption) rfl) : Keeps F s0 (State.moveState s p st) := by
  unfold State.moveState
  with_reducible repeat' first
    | (intro _)
    | (extract_lets +onlyGivenNames x; refine keeps_let (F := F) (s0 := s0) (x := x) (fun _ => ?_) ?_; rotate_left; subst x; rotate_left; clear_value x)
    | (extract_lets +onlyGivenNames x; clear_value x) | assumption | apply keeps_leaveRun | apply keeps_wrFld | apply keeps_lpEvent
    | apply keeps_updPort | split | exact mask_sub hF rfl

theorem keeps_setPState {F : Nat} {s0 s : State} (h0 : Keeps F s0 s) (p : Nat) (st : Nat) (hF : F &&& 0xc0068 = 0 := by exact mask_sub (by assumption) rfl) : Keeps F s0 (State.setPState s p st) := by
  unfold State.setPState
  with_reducible repeat' first
    | assumption | apply keeps_moveState | apply keeps_nextSet | exact mask_sub hF rfl

theorem keeps_setRate {F : Nat} {s0 s : State} (h0 : Keeps F s0 s) (p : Nat) (hF : F &&& 0x80040 = 0 := by exact mask_sub (by assumption) rfl) : Keeps F s0 (State.setRate s p) := by
  unfold State.setRate
  with_reducible repeat' first
    | (intro _)
    | (extract_lets +onlyGivenNames x; refine keeps_let (F := F) (s0 := s0) (x := x) (fun _ => ?_) ?_; rotate_left; subst x; rotate_left; clear_value x)
    | (extract_lets +onlyGivenNames x; clear_value x) | assumption | apply keeps_wrFld | apply keeps_putBit | apply keeps_updPort
    | exact mask_sub hF rfl

theorem keeps_endRate {F : Nat} {s0 s : State} (h0 : Keeps F s0 s) (p : Nat) (hF : F &&& 0x80040 = 0 := by exact mask_sub (by assumption) rfl) : Keeps F s0 (State.endRate s p) := by
  unfold State.endRate
  with_reducible repeat' first
    | assumption | apply keeps_setRate | split | exact mask_sub hF rfl

theorem keeps_goQuiet {F : Nat} {s0 s : State} (h0 : Keeps F s0 s) (p : Nat) (hF : F &&& 0xc0068 = 0 := by exact mask_sub (by assumption) rfl) : Keeps F s0 (State.goQuiet s p) := by
  unfold State.goQuiet
  with_reducible repeat' first
    | (intro _) | assumption | apply keeps_endRate | apply keeps_setPState | apply keeps_clrBits | apply keeps_clrBit
    | apply keeps_updPort | exact mask_sub hF rfl

theorem keeps_goIdle {F : Nat} {s0 s : State} (h0 : Keeps F s0 s) (p : Nat) (hF : F &&& 0xc0068 = 0 := by exact mask_sub (by assumption) rfl) : Keeps F s0 (State.goIdle s p) := by
  unfold State.goIdle
  with_reducible repeat' first
    | assumption | apply keeps_goQuiet | apply keeps_setPwr | exact mask_sub hF rfl

theorem keeps_goDetect {F : Nat} {s0 s : State} (h0 : Keeps F s0 s) (p : Nat) (hF : F &&& 0xc0068 = 0 := by exact mask_sub (by assumption) rfl) : Keeps F s0 (State.goDetect s p) := by
  unfold State.goDetect
  with_reducible repeat' first
    | (intro _) | assumption | apply keeps_endRate | apply keeps_setPState | apply keeps_setPwr | apply keeps_wr | apply keeps_clrBits
    | apply keeps_clrBit | apply keeps_updPort | exact mask_sub hF rfl

theorem keeps_startWake {F : Nat} {s0 s : State} (h0 : Keeps F s0 s) (p : Nat) (hF : F &&& 0xc0068 = 0 := by exact mask_sub (by assumption) rfl) : Keeps F s0 (State.startWake s p) := by
  unfold State.startWake
  with_reducible repeat' first
    | (intro _) | assumption | apply keeps_setPState | apply keeps_inc | apply keeps_clrBits | apply keeps_clrBit | apply keeps_updPort
    | exact mask_sub hF rfl

theorem keeps_goWake {F : Nat} {s0 s : State} (h0 : Keeps F s0 s) (p : Nat) (hF : F &&& 0xc0068 = 0 := by exact mask_sub (by assumption) rfl) : Keeps F s0 (State.goWake s p) := by
  unfold State.goWake
  with_reducible repeat' first
    | assumption | apply keeps_setRate | apply keeps_startWake | exact mask_sub hF rfl

theorem keeps_changeRate {F : Nat} {s0 s : State} (h0 : Keeps F s0 s) (p : Nat) (hF : F &&& 0xc0068 = 0 := by exact mask_sub (by assumption) rfl) : Keeps F s0 (State.changeRate s p) := by
  unfold State.changeRate
  with_reducible repeat' first
    | (intro _) | assumption | apply keeps_updPort | apply keeps_setPState | apply keeps_setPwr | exact mask_sub hF rfl

theorem keeps_goRetrain {F : Nat} {s0 s : State} (h0 : Keeps F s0 s) (p : Nat) (hF : F &&& 0xc0068 = 0 := by exact mask_sub (by assumption) rfl) : Keeps F s0 (State.goRetrain s p) := by
  unfold State.goRetrain
  with_reducible repeat' first
    | (intro _) | assumption | apply keeps_setPState | apply keeps_inc | apply keeps_clrBit | apply keeps_updPort | exact mask_sub hF rfl

theorem keeps_goFault {F : Nat} {s0 s : State} (h0 : Keeps F s0 s) (p : Nat) (hF : F &&& 0xc0068 = 0 := by exact mask_sub (by assumption) rfl) : Keeps F s0 (State.goFault s p) := by
  unfold State.goFault
  with_reducible repeat' first
    | assumption | apply keeps_endRate | apply keeps_setPState | apply keeps_lpEvent | apply keeps_clrBits | exact mask_sub hF rfl

theorem keeps_endFault {F : Nat} {s0 s : State} (h0 : Keeps F s0 s) (p : Nat) (hF : F &&& 0xc0068 = 0 := by exact mask_sub (by assumption) rfl) : Keeps F s0 (State.endFault s p) := by
  unfold State.endFault
  with_reducible repeat' first
    | (intro _) | assumption | apply keeps_updPort | apply keeps_wrFld | apply keeps_goDetect | exact mask_sub hF rfl

theorem keeps_trainFailed {F : Nat} {s0 s : State} (h0 : Keeps F s0 s) (p : Nat) (cause : Nat) (counts : Bool) (hF : F &&& 0xc0068 = 0 := by exact mask_sub (by assumption) rfl) : Keeps F s0 (State.trainFailed s p cause counts) := by
  unfold State.trainFailed
  with_reducible repeat' first
    | (intro _)
    | (extract_lets +onlyGivenNames x; refine keeps_let (F := F) (s0 := s0) (x := x) (fun _ => ?_) ?_; rotate_left; subst x; rotate_left; clear_value x)
    | (extract_lets +onlyGivenNames x; clear_value x) | assumption | apply keeps_inc | apply keeps_wrN | apply keeps_wrFld
    | apply keeps_updPort | apply keeps_goFault | apply keeps_lpEvent | apply keeps_goWake | split | exact mask_sub hF rfl

theorem keeps_follow {F : Nat} {s0 s : State} (h0 : Keeps F s0 s) (p : Nat) (st : Nat) (hF : F &&& 0xc0068 = 0 := by exact mask_sub (by assumption) rfl) : Keeps F s0 (State.follow s p st) := by
  unfold State.follow
  with_reducible repeat' first
    | assumption | apply keeps_startWake | apply keeps_setPState | apply keeps_enterRun | apply keeps_goRetrain | apply keeps_goFault
    | split | exact mask_sub hF rfl

theorem keeps_fwdSend {F : Nat} {s0 s : State} (h0 : Keeps F s0 s) (p : Nat) (ts : List Nat) (hF : F &&& 0x80020 = 0 := by exact mask_sub (by assumption) rfl) : Keeps F s0 (State.fwdSend s p ts) := by
  unfold State.fwdSend
  with_reducible repeat' first
    | (extract_lets +onlyGivenNames x; refine keeps_let (F := F) (s0 := s0) (x := x) (fun _ => ?_) ?_; rotate_left; subst x; rotate_left; clear_value x)
    | (extract_lets +onlyGivenNames x; clear_value x) | (intro _) | assumption | apply keeps_setPort | apply keeps_emit
    | exact mask_sub hF rfl

theorem keeps_bchTake {F : Nat} {s0 s : State} (h0 : Keeps F s0 s) (p : Nat) (typ : Nat) (groups : List Nat) (hF : F &&& 0xc0068 = 0 := by exact mask_sub (by assumption) rfl) : Keeps F s0 (State.bchTake s p typ groups).1 := by
  unfold State.bchTake
  with_reducible repeat' first
    | (extract_lets +onlyGivenNames x; refine keeps_let (F := F) (s0 := s0) (x := x) (fun _ => ?_) ?_; rotate_left; subst x; rotate_left; clear_value x)
    | (extract_lets +onlyGivenNames x; clear_value x) | (intro _) | assumption | apply keeps_inc | apply keeps_follow | split
    | exact mask_sub hF rfl | (refine keeps_of_pair (by assumption) ?_)

end Sys2Proof.Machine
end

