-- ==== Sys2Proof/Laws/KeepsTime.lean ====
section
/-! SUPPORT. What the operations of Machine/Time.lean keep (`Keeps`), one lemma each. -/
namespace Sys2Proof.Machine
set_option Elab.async false

theorem keeps_stAll {F : Nat} {s0 s : State} (h0 : Keeps F s0 s) (i : Nat) (b : Bool) (hF : F &&& 0x40 = 0 := by exact mask_sub (by assumption) rfl) : Keeps F s0 (State.stAll s i b) := by
  unfold State.stAll
  with_reducible repeat' first
    | (intro _) | assumption | apply keeps_forEach | apply keeps_putBit | exact mask_sub hF rfl

theorem keeps_refreshRate {F : Nat} {s0 s : State} (h0 : Keeps F s0 s) (hF : F &&& 0x40 = 0 := by exact mask_sub (by assumption) rfl) : Keeps F s0 (State.refreshRate s) := by
  unfold State.refreshRate
  with_reducible repeat' first
    | (intro _)
    | (extract_lets +onlyGivenNames x; refine keeps_let (F := F) (s0 := s0) (x := x) (fun _ => ?_) ?_; rotate_left; subst x; rotate_left; clear_value x)
    | (extract_lets +onlyGivenNames x; clear_value x) | assumption | apply keeps_forEach | apply keeps_wrI | apply keeps_stAll
    | exact mask_sub hF rfl

theorem keeps_tick {F : Nat} {s0 s : State} (h0 : Keeps F s0 s) (hF : F &&& 0x1804 = 0 := by exact mask_sub (by assumption) rfl) : Keeps F s0 (State.tick s) := by
  unfold State.tick
  with_reducible repeat' first
    | (intro _)
    | (extract_lets +onlyGivenNames x; refine keeps_let (F := F) (s0 := s0) (x := x) (fun _ => ?_) ?_; rotate_left; subst x; rotate_left; clear_value x)
    | (extract_lets +onlyGivenNames x; clear_value x) | assumption | apply keeps_forEach | apply keeps_setTime | split
    | apply keeps_mk_cycle_tm | exact mask_sub hF rfl | (refine keeps_of_pair (by assumption) ?_)

theorem keeps_issueRate {F : Nat} {s0 s : State} (h0 : Keeps F s0 s) (c : RateChange) (hF : F &&& 0x1028 = 0 := by exact mask_sub (by assumption) rfl) : Keeps F s0 (State.issueRate s c) := by
  unfold State.issueRate
  with_reducible repeat' first
    | (extract_lets +onlyGivenNames x; refine keeps_let (F := F) (s0 := s0) (x := x) (fun _ => ?_) ?_; rotate_left; subst x; rotate_left; clear_value x)
    | (extract_lets +onlyGivenNames x; clear_value x) | (intro _) | assumption | apply keeps_setTm | apply keeps_skipFree
    | apply keeps_emit | exact mask_sub hF rfl

theorem keeps_issueStep {F : Nat} {s0 s : State} (h0 : Keeps F s0 s) (by_ : StepBy) (hF : F &&& 0x1028 = 0 := by exact mask_sub (by assumption) rfl) : Keeps F s0 (State.issueStep s by_) := by
  unfold State.issueStep
  with_reducible repeat' first
    | (extract_lets +onlyGivenNames x; refine keeps_let (F := F) (s0 := s0) (x := x) (fun _ => ?_) ?_; rotate_left; subst x; rotate_left; clear_value x)
    | (extract_lets +onlyGivenNames x; clear_value x) | (intro _) | assumption | apply keeps_setTm | apply keeps_skipFree
    | apply keeps_emit | exact mask_sub hF rfl

theorem keeps_slewResid {F : Nat} {s0 s : State} (h0 : Keeps F s0 s) (x : Int) (hF : F &&& 0x40 = 0 := by exact mask_sub (by assumption) rfl) : Keeps F s0 (State.slewResid s x) := by
  unfold State.slewResid
  with_reducible repeat' first
    | assumption | apply keeps_wrI | exact mask_sub hF rfl

theorem keeps_cancelSlew {F : Nat} {s0 s : State} (h0 : Keeps F s0 s) (hF : F &&& 0x1068 = 0 := by exact mask_sub (by assumption) rfl) : Keeps F s0 (State.cancelSlew s) := by
  unfold State.cancelSlew
  with_reducible repeat' first
    | (extract_lets +onlyGivenNames x; refine keeps_let (F := F) (s0 := s0) (x := x) (fun _ => ?_) ?_; rotate_left; subst x; rotate_left; clear_value x)
    | (extract_lets +onlyGivenNames x; clear_value x) | (intro _) | assumption | apply keeps_setTm | apply keeps_issueRate
    | apply keeps_slewResid | split | exact mask_sub hF rfl | (refine keeps_of_pair (by assumption) ?_)

theorem keeps_startSlew {F : Nat} {s0 s : State} (h0 : Keeps F s0 s) (offset : Int) (hF : F &&& 0x1068 = 0 := by exact mask_sub (by assumption) rfl) : Keeps F s0 (State.startSlew s offset) := by
  unfold State.startSlew
  with_reducible repeat' first
    | (extract_lets +onlyGivenNames x; refine keeps_let (F := F) (s0 := s0) (x := x) (fun _ => ?_) ?_; rotate_left; subst x; rotate_left; clear_value x)
    | (extract_lets +onlyGivenNames x; clear_value x) | (intro _) | assumption | apply keeps_cancelSlew | apply keeps_setTm
    | apply keeps_slewResid | apply keeps_issueRate | split | exact mask_sub hF rfl | (refine keeps_of_pair (by assumption) ?_)

theorem keeps_lockTime {F : Nat} {s0 s : State} (h0 : Keeps F s0 s) (hF : F &&& 0x40 = 0 := by exact mask_sub (by assumption) rfl) : Keeps F s0 (State.lockTime s) := by
  unfold State.lockTime
  with_reducible repeat' first
    | (extract_lets +onlyGivenNames x; refine keeps_let (F := F) (s0 := s0) (x := x) (fun _ => ?_) ?_; rotate_left; subst x; rotate_left; clear_value x)
    | (extract_lets +onlyGivenNames x; clear_value x) | (intro _) | assumption | apply keeps_stAll | apply keeps_wrN
    | exact mask_sub hF rfl

theorem keeps_noteSynt {F : Nat} {s0 s : State} (h0 : Keeps F s0 s) (hF : F &&& 0x1000 = 0 := by exact mask_sub (by assumption) rfl) : Keeps F s0 (State.noteSynt s) := by
  unfold State.noteSynt
  with_reducible repeat' first
    | assumption | apply keeps_setTm | exact mask_sub hF rfl

theorem keeps_enterHoldover {F : Nat} {s0 s : State} (h0 : Keeps F s0 s) (hF : F &&& 0x1040 = 0 := by exact mask_sub (by assumption) rfl) : Keeps F s0 (State.enterHoldover s) := by
  unfold State.enterHoldover
  with_reducible repeat' first
    | (extract_lets +onlyGivenNames x; refine keeps_let (F := F) (s0 := s0) (x := x) (fun _ => ?_) ?_; rotate_left; subst x; rotate_left; clear_value x)
    | (extract_lets +onlyGivenNames x; clear_value x) | (intro _) | assumption | apply keeps_stAll | apply keeps_noteSynt
    | apply keeps_setTm | split | exact mask_sub hF rfl | (refine keeps_of_pair (by assumption) ?_)

theorem keeps_leaveHoldover {F : Nat} {s0 s : State} (h0 : Keeps F s0 s) (hF : F &&& 0x1040 = 0 := by exact mask_sub (by assumption) rfl) : Keeps F s0 (State.leaveHoldover s) := by
  unfold State.leaveHoldover
  with_reducible repeat' first
    | assumption | apply keeps_stAll | apply keeps_wrN | apply keeps_setTm | split | exact mask_sub hF rfl
    | (refine keeps_of_pair (by assumption) ?_)

theorem keeps_mooredTime {F : Nat} {s0 s : State} (h0 : Keeps F s0 s) (die : Nat) (hF : F &&& 0x1040 = 0 := by exact mask_sub (by assumption) rfl) : Keeps F s0 (State.mooredTime s die) := by
  unfold State.mooredTime
  with_reducible repeat' first
    | (extract_lets +onlyGivenNames x; refine keeps_let (F := F) (s0 := s0) (x := x) (fun _ => ?_) ?_; rotate_left; subst x; rotate_left; clear_value x)
    | (extract_lets +onlyGivenNames x; clear_value x) | (intro _) | assumption | apply keeps_setBit | apply keeps_clrBit
    | apply keeps_enterHoldover | split | exact mask_sub hF rfl

theorem keeps_rejoinTime {F : Nat} {s0 s : State} (h0 : Keeps F s0 s) (die : Nat) (hF : F &&& 0x40 = 0 := by exact mask_sub (by assumption) rfl) : Keeps F s0 (State.rejoinTime s die) := by
  unfold State.rejoinTime
  with_reducible repeat' first
    | assumption | apply keeps_wrFld | apply keeps_wr | exact mask_sub hF rfl

theorem keeps_tbCommitBit {F : Nat} {s0 s : State} (h0 : Keeps F s0 s) (die : Nat) (req : Nat) (v : Nat) (bit : Nat) (act : State → State) (h_act : ∀ u, Keeps F s0 u → Keeps F s0 (act u)) (hF : F &&& 0x1050 = 0 := by exact mask_sub (by assumption) rfl) : Keeps F s0 (tbCommitBit die req v bit act s) := by
  unfold tbCommitBit
  with_reducible repeat' first
    | (intro _) | assumption | apply keeps_onKey | apply keeps_logRefused | apply keeps_setTm | apply h_act | split
    | exact mask_sub hF rfl | (refine keeps_of_pair (by assumption) ?_)

theorem keeps_tbSetAct {F : Nat} {s0 s : State} (h0 : Keeps F s0 s) (hF : F &&& 0x1068 = 0 := by exact mask_sub (by assumption) rfl) : Keeps F s0 (tbSetAct s) := by
  unfold tbSetAct
  with_reducible repeat' first
    | (extract_lets +onlyGivenNames x; refine keeps_let (F := F) (s0 := s0) (x := x) (fun _ => ?_) ?_; rotate_left; subst x; rotate_left; clear_value x)
    | (extract_lets +onlyGivenNames x; clear_value x) | (intro _) | assumption | apply keeps_setTm | apply keeps_cancelSlew
    | apply keeps_issueStep | split | exact mask_sub hF rfl

theorem keeps_execTbSet {F : Nat} {s0 s : State} (h0 : Keeps F s0 s) (die : Nat) (req : Nat) (v : Nat) (hF : F &&& 0x1078 = 0 := by exact mask_sub (by assumption) rfl) : ResKeeps F s0 (execTbSet die req v s) := by
  unfold execTbSet
  with_reducible repeat' first
    | (intro _)
    | (extract_lets +onlyGivenNames x; refine keeps_let (F := F) (s0 := s0) (x := x) (fun _ => ?_) ?_; rotate_left; subst x; rotate_left; clear_value x)
    | (extract_lets +onlyGivenNames x; refine keeps_let1 (F := F) (s0 := s0) (x := x) (fun _ => ?_) ?_; rotate_left; subst x; rotate_left; clear_value x)
    | (extract_lets +onlyGivenNames x; clear_value x) | (extract_lets +onlyGivenNames x; subst x) | assumption | apply ResKeeps.next
    | apply keeps_tbCommitBit | apply keeps_tbSetAct | split | exact mask_sub hF rfl | (refine keeps_of_pair (by assumption) ?_)

theorem keeps_tbSlewAct {F : Nat} {s0 s : State} (h0 : Keeps F s0 s) (hF : F &&& 0x1068 = 0 := by exact mask_sub (by assumption) rfl) : Keeps F s0 (tbSlewAct s) := by
  unfold tbSlewAct
  with_reducible repeat' first
    | assumption | apply keeps_startSlew | exact mask_sub hF rfl

theorem keeps_execTbSlew {F : Nat} {s0 s : State} (h0 : Keeps F s0 s) (die : Nat) (req : Nat) (v : Nat) (hF : F &&& 0x1078 = 0 := by exact mask_sub (by assumption) rfl) : ResKeeps F s0 (execTbSlew die req v s) := by
  unfold execTbSlew
  with_reducible repeat' first
    | (intro _)
    | (extract_lets +onlyGivenNames x; refine keeps_let (F := F) (s0 := s0) (x := x) (fun _ => ?_) ?_; rotate_left; subst x; rotate_left; clear_value x)
    | (extract_lets +onlyGivenNames x; refine keeps_let1 (F := F) (s0 := s0) (x := x) (fun _ => ?_) ?_; rotate_left; subst x; rotate_left; clear_value x)
    | (extract_lets +onlyGivenNames x; clear_value x) | (extract_lets +onlyGivenNames x; subst x) | assumption | apply ResKeeps.next
    | apply keeps_tbCommitBit | apply keeps_tbSlewAct | split | exact mask_sub hF rfl | (refine keeps_of_pair (by assumption) ?_)

theorem keeps_execTbRate {F : Nat} {s0 s : State} (h0 : Keeps F s0 s) (die : Nat) (req : Nat) (v : Nat) (hF : F &&& 0x1078 = 0 := by exact mask_sub (by assumption) rfl) : ResKeeps F s0 (execTbRate die req v s) := by
  unfold execTbRate
  with_reducible repeat' first
    | (intro _) | assumption | apply ResKeeps.next | apply keeps_tbCommitBit | apply keeps_issueRate | exact mask_sub hF rfl

theorem keeps_execTbCancel {F : Nat} {s0 s : State} (h0 : Keeps F s0 s) (die : Nat) (req : Nat) (v : Nat) (hF : F &&& 0x1078 = 0 := by exact mask_sub (by assumption) rfl) : ResKeeps F s0 (execTbCancel die req v s) := by
  unfold execTbCancel
  with_reducible repeat' first
    | (intro _) | assumption | apply ResKeeps.next | apply keeps_tbCommitBit | apply keeps_cancelSlew | exact mask_sub hF rfl

theorem keeps_applyRate {F : Nat} {s0 s : State} (h0 : Keeps F s0 s) (c : RateChange) (hF : F &&& 0x1040 = 0 := by exact mask_sub (by assumption) rfl) : Keeps F s0 (State.applyRate s c) := by
  unfold State.applyRate
  with_reducible repeat' first
    | assumption | apply keeps_setTm | apply keeps_slewResid | apply keeps_refreshRate | split | exact mask_sub hF rfl
    | (refine keeps_of_pair (by assumption) ?_)

theorem keeps_execRateActivation {F : Nat} {s0 s : State} (h0 : Keeps F s0 s) (hF : F &&& 0x1040 = 0 := by exact mask_sub (by assumption) rfl) : ResKeeps F s0 (execRateActivation s) := by
  unfold execRateActivation
  with_reducible repeat' first
    | (intro _) | assumption | apply ResKeeps.next | apply keeps_setTm | apply keeps_applyRate | split | exact mask_sub hF rfl
    | (refine keeps_of_pair (by assumption) ?_)

theorem keeps_execSlewDone {F : Nat} {s0 s : State} (h0 : Keeps F s0 s) (hF : F &&& 0x1840 = 0 := by exact mask_sub (by assumption) rfl) : ResKeeps F s0 (execSlewDone s) := by
  unfold execSlewDone
  with_reducible repeat' first
    | (intro _)
    | (extract_lets +onlyGivenNames x; refine keeps_let (F := F) (s0 := s0) (x := x) (fun _ => ?_) ?_; rotate_left; subst x; rotate_left; clear_value x)
    | (extract_lets +onlyGivenNames x; clear_value x) | assumption | apply ResKeeps.next | apply keeps_forEach | apply keeps_setTime
    | apply keeps_setTm | apply keeps_refreshRate | split | exact mask_sub hF rfl | (refine keeps_of_pair (by assumption) ?_)

theorem keeps_execNowRead {F : Nat} {s0 s : State} (h0 : Keeps F s0 s) (die : Nat) (req : Nat) (hF : F &&& 0x150 = 0 := by exact mask_sub (by assumption) rfl) : ResKeeps F s0 (execNowRead die req s) := by
  unfold execNowRead
  with_reducible repeat' first
    | (intro _)
    | (extract_lets +onlyGivenNames x; refine keeps_let (F := F) (s0 := s0) (x := x) (fun _ => ?_) ?_; rotate_left; subst x; rotate_left; clear_value x)
    | (extract_lets +onlyGivenNames x; clear_value x) | assumption | apply ResKeeps.next | apply keeps_onKey | apply keeps_latch
    | apply keeps_respond | exact mask_sub hF rfl

theorem keeps_execPpscapRead {F : Nat} {s0 s : State} (h0 : Keeps F s0 s) (die : Nat) (req : Nat) (hF : F &&& 0x150 = 0 := by exact mask_sub (by assumption) rfl) : ResKeeps F s0 (execPpscapRead die req s) := by
  unfold execPpscapRead
  with_reducible repeat' first
    | (intro _) | assumption | apply ResKeeps.next | apply keeps_onKey | apply keeps_latch | apply keeps_respond | exact mask_sub hF rfl

theorem keeps_ppsAccept {F : Nat} {s0 s : State} (h0 : Keeps F s0 s) (t16 : Nat) (err : Int) (hF : F &&& 0x1068 = 0 := by exact mask_sub (by assumption) rfl) : Keeps F s0 (State.ppsAccept s t16 err) := by
  unfold State.ppsAccept
  with_reducible repeat' first
    | (extract_lets +onlyGivenNames x; refine keeps_let (F := F) (s0 := s0) (x := x) (fun _ => ?_) ?_; rotate_left; subst x; rotate_left; clear_value x)
    | (extract_lets +onlyGivenNames x; clear_value x) | (intro _) | assumption | apply keeps_stAll | apply keeps_leaveHoldover
    | apply keeps_setTm | apply keeps_issueStep | apply keeps_startSlew | apply keeps_issueRate | apply keeps_lockTime | split
    | exact mask_sub hF rfl | (refine keeps_of_pair (by assumption) ?_)

theorem keeps_ppsReacquire {F : Nat} {s0 s : State} (h0 : Keeps F s0 s) (err : Int) (hF : F &&& 0x1068 = 0 := by exact mask_sub (by assumption) rfl) : Keeps F s0 (State.ppsReacquire s err) := by
  unfold State.ppsReacquire
  with_reducible repeat' first
    | (extract_lets +onlyGivenNames x; refine keeps_let (F := F) (s0 := s0) (x := x) (fun _ => ?_) ?_; rotate_left; subst x; rotate_left; clear_value x)
    | (extract_lets +onlyGivenNames x; clear_value x) | (intro _) | assumption | apply keeps_stAll | apply keeps_leaveHoldover
    | apply keeps_incW | apply keeps_setTm | apply keeps_issueStep | exact mask_sub hF rfl

theorem keeps_execPpsEdge {F : Nat} {s0 s : State} (h0 : Keeps F s0 s) (frac : Nat) (falling : Bool) (hF : F &&& 0x1068 = 0 := by exact mask_sub (by assumption) rfl) : ResKeeps F s0 (execPpsEdge frac falling s) := by
  unfold execPpsEdge
  with_reducible repeat' first
    | (extract_lets +onlyGivenNames x; refine keeps_let (F := F) (s0 := s0) (x := x) (fun _ => ?_) ?_; rotate_left; subst x; rotate_left; clear_value x)
    | (extract_lets +onlyGivenNames x; clear_value x) | (intro _) | assumption | apply ResKeeps.next | apply keeps_wrDt | apply keeps_inc
    | apply keeps_ppsReacquire | apply keeps_ppsAccept | apply keeps_incW | apply keeps_setTm | split | exact mask_sub hF rfl

theorem keeps_execPpsSourceLost {F : Nat} {s0 s : State} (h0 : Keeps F s0 s) (hF : F &&& 0x1040 = 0 := by exact mask_sub (by assumption) rfl) : ResKeeps F s0 (execPpsSourceLost s) := by
  unfold execPpsSourceLost
  with_reducible repeat' first
    | assumption | apply ResKeeps.next | apply keeps_stAll | apply keeps_enterHoldover | split | exact mask_sub hF rfl

theorem keeps_execHoldLimitExceeded {F : Nat} {s0 s : State} (h0 : Keeps F s0 s) (hF : F &&& 0x1040 = 0 := by exact mask_sub (by assumption) rfl) : ResKeeps F s0 (execHoldLimitExceeded s) := by
  unfold execHoldLimitExceeded
  with_reducible repeat' first
    | assumption | apply ResKeeps.next | apply keeps_enterHoldover | apply keeps_stAll | split | exact mask_sub hF rfl

theorem keeps_execAlignTick {F : Nat} {s0 s : State} (h0 : Keeps F s0 s) (hF : F &&& 0x1020 = 0 := by exact mask_sub (by assumption) rfl) : ResKeeps F s0 (execAlignTick s) := by
  unfold execAlignTick
  with_reducible repeat' first
    | (intro _) | assumption | apply ResKeeps.next | apply keeps_forEach | apply keeps_emit | apply keeps_setTm | split
    | exact mask_sub hF rfl

theorem keeps_execAlignMsgRx {F : Nat} {s0 s : State} (h0 : Keeps F s0 s) (die : Nat) (t1 : Nat) (hF : F &&& 0x20 = 0 := by exact mask_sub (by assumption) rfl) : ResKeeps F s0 (execAlignMsgRx die t1 s) := by
  unfold execAlignMsgRx
  with_reducible repeat' first
    | assumption | apply ResKeeps.next | apply keeps_emit | split | exact mask_sub hF rfl

theorem keeps_execAlignReplyRx {F : Nat} {s0 s : State} (h0 : Keeps F s0 s) (die : Nat) (t1 : Nat) (rxStamp : Nat) (txStamp : Nat) (hF : F &&& 0x1060 = 0 := by exact mask_sub (by assumption) rfl) : ResKeeps F s0 (execAlignReplyRx die t1 rxStamp txStamp s) := by
  unfold execAlignReplyRx
  with_reducible repeat' first
    | (intro _)
    | (extract_lets +onlyGivenNames x; refine keeps_let (F := F) (s0 := s0) (x := x) (fun _ => ?_) ?_; rotate_left; subst x; rotate_left; clear_value x)
    | (extract_lets +onlyGivenNames x; clear_value x) | assumption | apply ResKeeps.next | apply keeps_setTm | apply keeps_wrN
    | apply keeps_putBit | apply keeps_emit | split | exact mask_sub hF rfl

theorem keeps_execAlignCorrectionRx {F : Nat} {s0 s : State} (h0 : Keeps F s0 s) (die : Nat) (corr : Int) (hF : F &&& 0x840 = 0 := by exact mask_sub (by assumption) rfl) : ResKeeps F s0 (execAlignCorrectionRx die corr s) := by
  unfold execAlignCorrectionRx
  with_reducible repeat' first
    | assumption | apply ResKeeps.next | apply keeps_setTime | apply keeps_wrI | split | exact mask_sub hF rfl

theorem keeps_execPpsOutStart {F : Nat} {s0 s : State} (h0 : Keeps F s0 s) (hF : F &&& 0x1020 = 0 := by exact mask_sub (by assumption) rfl) : ResKeeps F s0 (execPpsOutStart s) := by
  unfold execPpsOutStart
  with_reducible repeat' first
    | (extract_lets +onlyGivenNames x; refine keeps_let (F := F) (s0 := s0) (x := x) (fun _ => ?_) ?_; rotate_left; subst x; rotate_left; clear_value x)
    | (extract_lets +onlyGivenNames x; clear_value x) | (intro _) | assumption | apply ResKeeps.next | apply keeps_setTm
    | apply keeps_emit | split | exact mask_sub hF rfl

theorem keeps_execPpsOutEnd {F : Nat} {s0 s : State} (h0 : Keeps F s0 s) (hF : F &&& 0x1020 = 0 := by exact mask_sub (by assumption) rfl) : ResKeeps F s0 (execPpsOutEnd s) := by
  unfold execPpsOutEnd
  with_reducible repeat' first
    | assumption | apply ResKeeps.next | apply keeps_setTm | apply keeps_emit | split | exact mask_sub hF rfl
    | (refine keeps_of_pair (by assumption) ?_)

theorem keeps_setAlarm {F : Nat} {s0 s : State} (h0 : Keeps F s0 s) (die : Nat) (a : Nat) (v : AlarmS) (hF : F &&& 0x2000 = 0 := by exact mask_sub (by assumption) rfl) : Keeps F s0 (State.setAlarm s die a v) := by
  unfold State.setAlarm
  with_reducible repeat' first
    | (intro _) | assumption | apply keeps_mk_alarms | exact mask_sub hF rfl

theorem keeps_fireAlarm {F : Nat} {s0 s : State} (h0 : Keeps F s0 s) (die : Nat) (a : Nat) (stepped : Bool) (hF : F &&& 0x42040 = 0 := by exact mask_sub (by assumption) rfl) : Keeps F s0 (State.fireAlarm s die a stepped) := by
  unfold State.fireAlarm
  with_reducible repeat' first
    | (extract_lets +onlyGivenNames x; refine keeps_let (F := F) (s0 := s0) (x := x) (fun _ => ?_) ?_; rotate_left; subst x; rotate_left; clear_value x)
    | (extract_lets +onlyGivenNames x; clear_value x) | (intro _) | assumption | apply keeps_setBits | apply keeps_pulseAt
    | apply keeps_setAlarm | apply keeps_wrFld | split | exact mask_sub hF rfl

theorem keeps_execAlarmCommit {F : Nat} {s0 s : State} (h0 : Keeps F s0 s) (die : Nat) (alarm : Nat) (req : Nat) (v : Nat) (hF : F &&& 0x2050 = 0 := by exact mask_sub (by assumption) rfl) : ResKeeps F s0 (execAlarmCommit die alarm req v s) := by
  unfold execAlarmCommit
  with_reducible repeat' first
    | (intro _)
    | (extract_lets +onlyGivenNames x; refine keeps_let (F := F) (s0 := s0) (x := x) (fun _ => ?_) ?_; rotate_left; subst x; rotate_left; clear_value x)
    | (extract_lets +onlyGivenNames x; clear_value x) | assumption | apply ResKeeps.next | apply keeps_onKey | apply keeps_setAlarm
    | split | exact mask_sub hF rfl

theorem keeps_execAlarmFire {F : Nat} {s0 s : State} (h0 : Keeps F s0 s) (die : Nat) (alarm : Nat) (hF : F &&& 0x42040 = 0 := by exact mask_sub (by assumption) rfl) : ResKeeps F s0 (execAlarmFire die alarm s) := by
  unfold execAlarmFire
  with_reducible repeat' first
    | assumption | apply ResKeeps.next | apply keeps_fireAlarm | split | exact mask_sub hF rfl

theorem keeps_stepAlarms {F : Nat} {s0 s : State} (h0 : Keeps F s0 s) (old : Nat → Nat) (hF : F &&& 0x42040 = 0 := by exact mask_sub (by assumption) rfl) : Keeps F s0 (State.stepAlarms s old) := by
  unfold State.stepAlarms
  with_reducible repeat' first
    | (intro _)
    | (extract_lets +onlyGivenNames x; refine keeps_let (F := F) (s0 := s0) (x := x) (fun _ => ?_) ?_; rotate_left; subst x; rotate_left; clear_value x)
    | (extract_lets +onlyGivenNames x; clear_value x) | assumption | apply keeps_forEach | apply keeps_fireAlarm | split
    | exact mask_sub hF rfl

theorem keeps_applyStep {F : Nat} {s0 s : State} (h0 : Keeps F s0 s) (delta : Int) (hF : F &&& 0x43840 = 0 := by exact mask_sub (by assumption) rfl) : Keeps F s0 (State.applyStep s delta) := by
  unfold State.applyStep
  with_reducible repeat' first
    | (intro _)
    | (extract_lets +onlyGivenNames x; refine keeps_let (F := F) (s0 := s0) (x := x) (fun _ => ?_) ?_; rotate_left; subst x; (try dsimp -zeta only); rotate_left; clear_value x)
    | (extract_lets +onlyGivenNames x; refine keeps_letF (F := F) (s0 := s0) (x := x) (fun hf => ?_) ?_; rotate_left; subst x; (try dsimp -zeta only); rotate_left; clear_value x)
    | (extract_lets +onlyGivenNames x; refine keeps_letF2 (F := F) (s0 := s0) (x := x) (fun hf => ?_) ?_; rotate_left; subst x; (try dsimp -zeta only); rotate_left; clear_value x)
    | (extract_lets +onlyGivenNames x; refine keeps_letN (F := F) (s0 := s0) (x := x) (fun hf => ?_) ?_; rotate_left; subst x; (try dsimp -zeta only); rotate_left; clear_value x)
    | (extract_lets +onlyGivenNames x; clear_value x) | assumption | apply keeps_forEach | apply keeps_setTime | apply keeps_setTm
    | apply keeps_stAll | apply keeps_stepAlarms | apply hf | split | exact mask_sub hF rfl

theorem keeps_sourceChanged {F : Nat} {s0 s : State} (h0 : Keeps F s0 s) (hF : F &&& 0x1040 = 0 := by exact mask_sub (by assumption) rfl) : Keeps F s0 (State.sourceChanged s) := by
  unfold State.sourceChanged
  with_reducible repeat' first
    | (extract_lets +onlyGivenNames x; refine keeps_let (F := F) (s0 := s0) (x := x) (fun _ => ?_) ?_; rotate_left; subst x; rotate_left; clear_value x)
    | (extract_lets +onlyGivenNames x; clear_value x) | (intro _) | assumption | apply keeps_leaveHoldover | apply keeps_stAll
    | apply keeps_setTm | exact mask_sub hF rfl

theorem keeps_dealServo {F : Nat} {s0 s : State} (h0 : Keeps F s0 s) (ofs : Int) (rateAdj : Int) (hF : F &&& 0x1068 = 0 := by exact mask_sub (by assumption) rfl) : Keeps F s0 (State.dealServo s ofs rateAdj) := by
  unfold State.dealServo
  with_reducible repeat' first
    | (extract_lets +onlyGivenNames x; refine keeps_let (F := F) (s0 := s0) (x := x) (fun _ => ?_) ?_; rotate_left; subst x; rotate_left; clear_value x)
    | (extract_lets +onlyGivenNames x; clear_value x) | (intro _) | assumption | apply keeps_stAll | apply keeps_leaveHoldover
    | apply keeps_setTm | apply keeps_issueStep | apply keeps_startSlew | apply keeps_issueRate | apply keeps_lockTime | split
    | exact mask_sub hF rfl

theorem keeps_takeDeal {F : Nat} {s0 s : State} (h0 : Keeps F s0 s) (port : Nat) (tArr : Nat) (time : Nat) (hopDelay : Nat) (rateAdj : Int) (seq : Nat) (hops : Nat) (domain : Nat) (unsync : Bool) (holdover : Bool) (hF : F &&& 0x1068 = 0 := by exact mask_sub (by assumption) rfl) : Keeps F s0 (State.takeDeal s port tArr time hopDelay rateAdj seq hops domain unsync holdover) := by
  unfold State.takeDeal
  with_reducible repeat' first
    | (extract_lets +onlyGivenNames x; refine keeps_let (F := F) (s0 := s0) (x := x) (fun _ => ?_) ?_; rotate_left; subst x; rotate_left; clear_value x)
    | (extract_lets +onlyGivenNames x; clear_value x) | (intro _) | assumption | apply keeps_incW | apply keeps_putBit | apply keeps_wrN
    | apply keeps_wrI | apply keeps_wrFld | apply keeps_setTm | apply keeps_stAll | apply keeps_dealServo | split | exact mask_sub hF rfl

theorem keeps_execDealTimeout {F : Nat} {s0 s : State} (h0 : Keeps F s0 s) (hF : F &&& 0x1040 = 0 := by exact mask_sub (by assumption) rfl) : ResKeeps F s0 (execDealTimeout s) := by
  unfold execDealTimeout
  with_reducible repeat' first
    | assumption | apply ResKeeps.next | apply keeps_stAll | apply keeps_enterHoldover | split | exact mask_sub hF rfl

theorem keeps_execClockLoss {F : Nat} {s0 s : State} (h0 : Keeps F s0 s) (absent : Nat) (hF : F &&& 0x2040000000405d068 = 0 := by exact mask_sub (by assumption) rfl) : ResKeeps F s0 (execClockLoss absent s) := by
  unfold execClockLoss
  with_reducible repeat' first
    | (intro _)
    | (extract_lets +onlyGivenNames x; refine keeps_let (F := F) (s0 := s0) (x := x) (fun _ => ?_) ?_; rotate_left; subst x; rotate_left; clear_value x)
    | (extract_lets +onlyGivenNames x; clear_value x) | assumption | apply ResKeeps.next | apply keeps_setTm | apply keeps_forEach
    | apply keeps_setBit | apply keeps_faultN | apply keeps_health | split | exact mask_sub hF rfl

theorem keeps_execClockRestore {F : Nat} {s0 s : State} (h0 : Keeps F s0 s) (present : Nat) (hF : F &&& 0x20000000000001020 = 0 := by exact mask_sub (by assumption) rfl) : ResKeeps F s0 (execClockRestore present s) := by
  unfold execClockRestore
  with_reducible repeat' first
    | assumption | apply ResKeeps.next | apply keeps_setTm | apply keeps_faultN | split | exact mask_sub hF rfl

end Sys2Proof.Machine
end

