-- ==== Sys2Proof/Laws/KeepsLinkProto.lean ====
section
/-! SUPPORT. What the operations of Machine/LinkProto.lean keep (`Keeps`), one lemma each. -/
namespace Sys2Proof.Machine
set_option Elab.async false

theorem keeps_takeMarker {F : Nat} {s0 s : State} (h0 : Keeps F s0 s) (p : Nat) (t40 : Nat) (b : List Byte) (corr : Nat) (hF : F &&& 0x80040 = 0 := by exact mask_sub (by assumption) rfl) : Keeps F s0 (State.takeMarker s p t40 b corr) := by
  unfold State.takeMarker
  with_reducible repeat' first
    | (intro _)
    | (extract_lets +onlyGivenNames x; refine keeps_let (F := F) (s0 := s0) (x := x) (fun _ => ?_) ?_; rotate_left; subst x; rotate_left; clear_value x)
    | (extract_lets +onlyGivenNames x; clear_value x) | assumption | apply keeps_addSat | apply keeps_wrFld | apply keeps_putBit
    | apply keeps_updPort | exact mask_sub hF rfl

theorem keeps_loseLock {F : Nat} {s0 s : State} (h0 : Keeps F s0 s) (p : Nat) (hF : F &&& 0xc0068 = 0 := by exact mask_sub (by assumption) rfl) : Keeps F s0 (State.loseLock s p) := by
  unfold State.loseLock
  with_reducible repeat' first
    | assumption | apply keeps_blkEvent | apply keeps_goRetrain | exact mask_sub hF rfl

theorem keeps_markMiss {F : Nat} {s0 s : State} (h0 : Keeps F s0 s) (p : Nat) (bad : Bool) (hF : F &&& 0xc0068 = 0 := by exact mask_sub (by assumption) rfl) : Keeps F s0 (State.markMiss s p bad) := by
  unfold State.markMiss
  with_reducible repeat' first
    | (intro _)
    | (extract_lets +onlyGivenNames x; refine keeps_let (F := F) (s0 := s0) (x := x) (fun _ => ?_) ?_; rotate_left; subst x; rotate_left; clear_value x)
    | (extract_lets +onlyGivenNames x; clear_value x) | assumption | apply keeps_inc | apply keeps_addSat | apply keeps_updPort
    | apply keeps_loseLock | split | exact mask_sub hF rfl

theorem keeps_blockLock {F : Nat} {s0 s : State} (h0 : Keeps F s0 s) (p : Nat) (hF : F &&& 0xc0068 = 0 := by exact mask_sub (by assumption) rfl) : Keeps F s0 (State.blockLock s p) := by
  unfold State.blockLock
  with_reducible repeat' first
    | (intro _) | assumption | apply keeps_clrBit | apply keeps_inc | apply keeps_updPort | apply keeps_setPState | apply keeps_enterRun
    | split | exact mask_sub hF rfl

theorem keeps_rxLoops {F : Nat} {s0 s : State} (h0 : Keeps F s0 s) (p : Nat) (lvls : List Nat) (ad : Adapt) (hF : F &&& 0x80040 = 0 := by exact mask_sub (by assumption) rfl) : Keeps F s0 (State.rxLoops s p lvls ad) := by
  unfold State.rxLoops
  with_reducible repeat' first
    | (intro _) | assumption | apply keeps_adapt | apply keeps_updPort | exact mask_sub hF rfl

theorem keeps_execMarkerRx {F : Nat} {s0 s : State} (h0 : Keeps F s0 s) (port : Nat) (sym : Nat) (frac : Nat) (lvls : List Nat) (ad : Adapt) (hF : F &&& 0xc0068 = 0 := by exact mask_sub (by assumption) rfl) : ResKeeps F s0 (execMarkerRx port sym frac lvls ad s) := by
  unfold execMarkerRx
  with_reducible repeat' first
    | (intro _)
    | (extract_lets +onlyGivenNames x; refine keeps_let (F := F) (s0 := s0) (x := x) (fun _ => ?_) ?_; rotate_left; subst x; rotate_left; clear_value x)
    | (extract_lets +onlyGivenNames x; clear_value x) | assumption | apply ResKeeps.next | apply keeps_rxLoops | apply keeps_blockLock
    | apply keeps_takeMarker | apply keeps_updPort | apply keeps_markMiss | split | exact mask_sub hF rfl
    | (refine keeps_of_pair (by assumption) ?_)

theorem keeps_takeData {F : Nat} {s0 s : State} (h0 : Keeps F s0 s) (p : Nat) (b : List Byte) (bad : Bool) (hF : F &&& 0x80000 = 0 := by exact mask_sub (by assumption) rfl) : Keeps F s0 (State.takeData s p b bad) := by
  unfold State.takeData
  with_reducible repeat' first
    | (intro _)
    | (extract_lets +onlyGivenNames x; refine keeps_let (F := F) (s0 := s0) (x := x) (fun _ => ?_) ?_; rotate_left; subst x; rotate_left; clear_value x)
    | (extract_lets +onlyGivenNames x; clear_value x) | assumption | apply keeps_updPort | exact mask_sub hF rfl

theorem keeps_idleEntry {F : Nat} {s0 s : State} (h0 : Keeps F s0 s) (p : Nat) (hF : F &&& 0x80040 = 0 := by exact mask_sub (by assumption) rfl) : Keeps F s0 (State.idleEntry s p) := by
  unfold State.idleEntry
  with_reducible repeat' first
    | (intro _) | assumption | apply keeps_setBit | apply keeps_clrBit | apply keeps_updPort | exact mask_sub hF rfl

theorem keeps_takeBlock {F : Nat} {s0 s : State} (h0 : Keeps F s0 s) (p : Nat) (b : List Byte) (corr : Nat) (hF : F &&& 0x80040 = 0 := by exact mask_sub (by assumption) rfl) : Keeps F s0 (State.takeBlock s p b corr) := by
  unfold State.takeBlock
  with_reducible repeat' first
    | (intro _)
    | (extract_lets +onlyGivenNames x; refine keeps_let (F := F) (s0 := s0) (x := x) (fun _ => ?_) ?_; rotate_left; subst x; rotate_left; clear_value x)
    | (extract_lets +onlyGivenNames x; clear_value x) | assumption | apply keeps_addSat | apply keeps_takeData | apply keeps_updPort
    | apply keeps_idleEntry | split | exact mask_sub hF rfl

theorem keeps_takeBad {F : Nat} {s0 s : State} (h0 : Keeps F s0 s) (p : Nat) (b : List Byte) (hF : F &&& 0x80048 = 0 := by exact mask_sub (by assumption) rfl) : Keeps F s0 (State.takeBad s p b) := by
  unfold State.takeBad
  with_reducible repeat' first
    | (extract_lets +onlyGivenNames x; refine keeps_let (F := F) (s0 := s0) (x := x) (fun _ => ?_) ?_; rotate_left; subst x; rotate_left; clear_value x)
    | (extract_lets +onlyGivenNames x; clear_value x) | (intro _) | assumption | apply keeps_inc | apply keeps_takeData
    | apply keeps_endPacket | split | exact mask_sub hF rfl

theorem keeps_execForwardBlockRx {F : Nat} {s0 s : State} (h0 : Keeps F s0 s) (port : Nat) (frac : Nat) (lvls : List Nat) (ad : Adapt) (hF : F &&& 0xc0068 = 0 := by exact mask_sub (by assumption) rfl) : ResKeeps F s0 (execForwardBlockRx port frac lvls ad s) := by
  unfold execForwardBlockRx
  with_reducible repeat' first
    | (intro _)
    | (extract_lets +onlyGivenNames x; refine keeps_let (F := F) (s0 := s0) (x := x) (fun _ => ?_) ?_; rotate_left; subst x; rotate_left; clear_value x)
    | (extract_lets +onlyGivenNames x; clear_value x) | assumption | apply ResKeeps.next | apply keeps_rxLoops | apply keeps_takeMarker
    | apply keeps_markMiss | apply keeps_takeBlock | apply keeps_updPort | apply keeps_takeBad | apply keeps_loseLock | split
    | exact mask_sub hF rfl | (refine keeps_of_pair (by assumption) ?_)

theorem keeps_execPacketRx {F : Nat} {s0 s : State} (h0 : Keeps F s0 s) (port : Nat) (hF : F &&& 0x80048 = 0 := by exact mask_sub (by assumption) rfl) : ResKeeps F s0 (execPacketRx port s) := by
  unfold execPacketRx
  with_reducible repeat' first
    | assumption | apply ResKeeps.next | apply keeps_parseAll | split | exact mask_sub hF rfl

theorem keeps_takeMsg {F : Nat} {s0 s t : State} {p : Nat} {f : Nat → Bool} {x : Nat × List Byte} (e : s.takeMsg p f = some (x, t)) (h0 : Keeps F s0 s)
    (hF : F &&& 0x80000 = 0 := by exact mask_sub (by assumption) rfl) :
    Keeps F s0 t := by
  unfold State.takeMsg at e
  extract_lets q at e
  split at e
  · cases e; exact keeps_updPort h0 _ _
  · cases e

theorem keeps_acceptDelay {F : Nat} {s0 s : State} (h0 : Keeps F s0 s) (p : Nat) (d : Int) (hF : F &&& 0x80040 = 0 := by exact mask_sub (by assumption) rfl) : Keeps F s0 (State.acceptDelay s p d) := by
  unfold State.acceptDelay
  with_reducible repeat' first
    | (extract_lets +onlyGivenNames x; refine keeps_let (F := F) (s0 := s0) (x := x) (fun _ => ?_) ?_; rotate_left; subst x; rotate_left; clear_value x)
    | (extract_lets +onlyGivenNames x; clear_value x) | (intro _) | assumption | apply keeps_setPort | apply keeps_wrI | apply keeps_wrFld
    | apply keeps_setBit | apply keeps_blkEvent | split | exact mask_sub hF rfl

theorem keeps_execDlyEchoRx {F : Nat} {s0 s : State} (h0 : Keeps F s0 s) (port : Nat) (hF : F &&& 0x80040 = 0 := by exact mask_sub (by assumption) rfl) : ResKeeps F s0 (execDlyEchoRx port s) := by
  unfold execDlyEchoRx
  with_reducible repeat' first
    | (intro _)
    | (extract_lets +onlyGivenNames x; refine keeps_let (F := F) (s0 := s0) (x := x) (fun _ => ?_) ?_; rotate_left; subst x; (try dsimp -zeta only); rotate_left; clear_value x)
    | (extract_lets +onlyGivenNames x; refine keeps_letF (F := F) (s0 := s0) (x := x) (fun hf => ?_) ?_; rotate_left; subst x; (try dsimp -zeta only); rotate_left; clear_value x)
    | (extract_lets +onlyGivenNames x; refine keeps_letF2 (F := F) (s0 := s0) (x := x) (fun hf => ?_) ?_; rotate_left; subst x; (try dsimp -zeta only); rotate_left; clear_value x)
    | (extract_lets +onlyGivenNames x; refine keeps_letN (F := F) (s0 := s0) (x := x) (fun hf => ?_) ?_; rotate_left; subst x; (try dsimp -zeta only); rotate_left; clear_value x)
    | (extract_lets +onlyGivenNames x; clear_value x) | assumption | apply ResKeeps.next | (refine keeps_takeMsg (by assumption) ?_)
    | apply keeps_inc | apply keeps_updPort | apply keeps_acceptDelay | apply hf | (refine keeps_takeMsg (by assumption) ?_) | split
    | exact mask_sub hF rfl | (refine keeps_of_pair (by assumption) ?_)

theorem keeps_execHeadCapsRx {F : Nat} {s0 s : State} (h0 : Keeps F s0 s) (port : Nat) (hF : F &&& 0x80040 = 0 := by exact mask_sub (by assumption) rfl) : ResKeeps F s0 (execHeadCapsRx port s) := by
  unfold execHeadCapsRx
  with_reducible repeat' first
    | (intro _)
    | (extract_lets +onlyGivenNames x; refine keeps_let (F := F) (s0 := s0) (x := x) (fun _ => ?_) ?_; rotate_left; subst x; rotate_left; clear_value x)
    | (extract_lets +onlyGivenNames x; clear_value x) | assumption | apply ResKeeps.next | (refine keeps_takeMsg (by assumption) ?_)
    | apply keeps_forEach | apply keeps_wrN | apply keeps_rxPut | apply keeps_blkEvent | apply keeps_updPort
    | (refine keeps_takeMsg (by assumption) ?_) | split | exact mask_sub hF rfl | (refine keeps_of_pair (by assumption) ?_)

theorem keeps_lostPulses {F : Nat} {s0 s : State} (h0 : Keeps F s0 s) (p : Nat) (seq : Nat) (got : Nat) (hF : F &&& 0x80040 = 0 := by exact mask_sub (by assumption) rfl) : Keeps F s0 (State.lostPulses s p seq got) := by
  unfold State.lostPulses
  with_reducible repeat' first
    | (intro _)
    | (extract_lets +onlyGivenNames x; refine keeps_let (F := F) (s0 := s0) (x := x) (fun _ => ?_) ?_; rotate_left; subst x; rotate_left; clear_value x)
    | (extract_lets +onlyGivenNames x; clear_value x) | assumption | apply keeps_setPort | apply keeps_addSat | apply keeps_blkEvent
    | split | exact mask_sub hF rfl | (refine keeps_of_pair (by assumption) ?_)

theorem keeps_headDiscards {F : Nat} {s0 s : State} (h0 : Keeps F s0 s) (p : Nat) (n : Nat) (hF : F &&& 0x80040 = 0 := by exact mask_sub (by assumption) rfl) : Keeps F s0 (State.headDiscards s p n) := by
  unfold State.headDiscards
  with_reducible repeat' first
    | (intro _)
    | (extract_lets +onlyGivenNames x; refine keeps_let (F := F) (s0 := s0) (x := x) (fun _ => ?_) ?_; rotate_left; subst x; rotate_left; clear_value x)
    | (extract_lets +onlyGivenNames x; clear_value x) | assumption | apply keeps_addSat | apply keeps_updPort | split
    | exact mask_sub hF rfl | (refine keeps_of_pair (by assumption) ?_)

theorem keeps_execHeadReportRx {F : Nat} {s0 s : State} (h0 : Keeps F s0 s) (port : Nat) (hF : F &&& 0x80040 = 0 := by exact mask_sub (by assumption) rfl) : ResKeeps F s0 (execHeadReportRx port s) := by
  unfold execHeadReportRx
  with_reducible repeat' first
    | (intro _)
    | (extract_lets +onlyGivenNames x; refine keeps_let (F := F) (s0 := s0) (x := x) (fun _ => ?_) ?_; rotate_left; subst x; rotate_left; clear_value x)
    | (extract_lets +onlyGivenNames x; clear_value x) | assumption | apply ResKeeps.next | (refine keeps_takeMsg (by assumption) ?_)
    | apply keeps_forEach | apply keeps_wrN | apply keeps_blkEvent | apply keeps_headDiscards | apply keeps_updPort
    | apply keeps_lostPulses | (refine keeps_takeMsg (by assumption) ?_) | split | exact mask_sub hF rfl
    | (refine keeps_of_pair (by assumption) ?_)

theorem keeps_execBusResultRx {F : Nat} {s0 s : State} (h0 : Keeps F s0 s) (port : Nat) (hF : F &&& 0x80040 = 0 := by exact mask_sub (by assumption) rfl) : ResKeeps F s0 (execBusResultRx port s) := by
  unfold execBusResultRx
  with_reducible repeat' first
    | (intro _)
    | (extract_lets +onlyGivenNames x; refine keeps_let (F := F) (s0 := s0) (x := x) (fun _ => ?_) ?_; rotate_left; subst x; rotate_left; clear_value x)
    | (extract_lets +onlyGivenNames x; clear_value x) | assumption | apply ResKeeps.next | (refine keeps_takeMsg (by assumption) ?_)
    | apply keeps_updPort | apply keeps_busOutst | apply keeps_rxPut | apply keeps_inc | (refine keeps_takeMsg (by assumption) ?_) | split
    | exact mask_sub hF rfl | (refine keeps_of_pair (by assumption) ?_)

theorem keeps_execVendorRx {F : Nat} {s0 s : State} (h0 : Keeps F s0 s) (port : Nat) (hF : F &&& 0x80040 = 0 := by exact mask_sub (by assumption) rfl) : ResKeeps F s0 (execVendorRx port s) := by
  unfold execVendorRx
  with_reducible repeat' first
    | (intro _) | assumption | apply ResKeeps.next | (refine keeps_takeMsg (by assumption) ?_) | apply keeps_rxPut
    | (refine keeps_takeMsg (by assumption) ?_) | split | exact mask_sub hF rfl | (refine keeps_of_pair (by assumption) ?_)

theorem keeps_bchSend {F : Nat} {s0 s : State} (h0 : Keeps F s0 s) (p : Nat) (typ : Nat) (payload : List Byte) (hF : F &&& 0x80020 = 0 := by exact mask_sub (by assumption) rfl) : Keeps F s0 (State.bchSend s p typ payload) := by
  unfold State.bchSend
  with_reducible repeat' first
    | (intro _)
    | (extract_lets +onlyGivenNames x; refine keeps_let (F := F) (s0 := s0) (x := x) (fun _ => ?_) ?_; rotate_left; subst x; rotate_left; clear_value x)
    | (extract_lets +onlyGivenNames x; clear_value x) | assumption | apply keeps_updPort | apply keeps_emit | exact mask_sub hF rfl

theorem keeps_sendBeacon {F : Nat} {s0 s : State} (h0 : Keeps F s0 s) (p : Nat) (hF : F &&& 0x80020 = 0 := by exact mask_sub (by assumption) rfl) : Keeps F s0 (State.sendBeacon s p) := by
  unfold State.sendBeacon
  with_reducible repeat' first
    | (extract_lets +onlyGivenNames x; refine keeps_let (F := F) (s0 := s0) (x := x) (fun _ => ?_) ?_; rotate_left; subst x; rotate_left; clear_value x)
    | (extract_lets +onlyGivenNames x; clear_value x) | (intro _) | assumption | apply keeps_setPort | apply keeps_bchSend
    | exact mask_sub hF rfl

theorem keeps_sendDeal {F : Nat} {s0 s : State} (h0 : Keeps F s0 s) (p : Nat) (hF : F &&& 0x80028 = 0 := by exact mask_sub (by assumption) rfl) : Keeps F s0 (State.sendDeal s p) := by
  unfold State.sendDeal
  with_reducible repeat' first
    | (extract_lets +onlyGivenNames x; refine keeps_let (F := F) (s0 := s0) (x := x) (fun _ => ?_) ?_; rotate_left; subst x; rotate_left; clear_value x)
    | (extract_lets +onlyGivenNames x; clear_value x) | (intro _) | assumption | apply keeps_setPort | apply keeps_skipFree
    | apply keeps_bchSend | exact mask_sub hF rfl

theorem keeps_sendMark {F : Nat} {s0 s : State} (h0 : Keeps F s0 s) (p : Nat) (hF : F &&& 0x80020 = 0 := by exact mask_sub (by assumption) rfl) : Keeps F s0 (State.sendMark s p) := by
  unfold State.sendMark
  with_reducible repeat' first
    | (intro _)
    | (extract_lets +onlyGivenNames x; refine keeps_let (F := F) (s0 := s0) (x := x) (fun _ => ?_) ?_; rotate_left; subst x; rotate_left; clear_value x)
    | (extract_lets +onlyGivenNames x; clear_value x) | assumption | apply keeps_setPort | apply keeps_bchSend | exact mask_sub hF rfl

theorem keeps_sendTx {F : Nat} {s0 s : State} (h0 : Keeps F s0 s) (p : Nat) (m : List Byte) (rest : List (List Byte)) (hF : F &&& 0x80060 = 0 := by exact mask_sub (by assumption) rfl) : Keeps F s0 (State.sendTx s p m rest) := by
  unfold State.sendTx
  with_reducible repeat' first
    | (intro _)
    | (extract_lets +onlyGivenNames x; refine keeps_let (F := F) (s0 := s0) (x := x) (fun _ => ?_) ?_; rotate_left; subst x; rotate_left; clear_value x)
    | (extract_lets +onlyGivenNames x; clear_value x) | assumption | apply keeps_updPort | apply keeps_wrFld | apply keeps_busOutst
    | apply keeps_bchSend | split | exact mask_sub hF rfl

theorem keeps_withdraw {F : Nat} {s0 s : State} (h0 : Keeps F s0 s) (p : Nat) (lim : Nat) (hF : F &&& 0xc0040 = 0 := by exact mask_sub (by assumption) rfl) : Keeps F s0 (State.withdraw s p lim) := by
  unfold State.withdraw
  with_reducible repeat' first
    | (intro _)
    | (extract_lets +onlyGivenNames x; refine keeps_let (F := F) (s0 := s0) (x := x) (fun _ => ?_) ?_; rotate_left; subst x; (try dsimp -zeta only); rotate_left; clear_value x)
    | (extract_lets +onlyGivenNames x; refine keeps_letF (F := F) (s0 := s0) (x := x) (fun hf => ?_) ?_; rotate_left; subst x; (try dsimp -zeta only); rotate_left; clear_value x)
    | (extract_lets +onlyGivenNames x; refine keeps_letF2 (F := F) (s0 := s0) (x := x) (fun hf => ?_) ?_; rotate_left; subst x; (try dsimp -zeta only); rotate_left; clear_value x)
    | (extract_lets +onlyGivenNames x; refine keeps_letN (F := F) (s0 := s0) (x := x) (fun hf => ?_) ?_; rotate_left; subst x; (try dsimp -zeta only); rotate_left; clear_value x)
    | (extract_lets +onlyGivenNames x; clear_value x) | assumption | apply keeps_pulse | apply keeps_forEach | apply keeps_updPort
    | apply keeps_inc | apply keeps_setBit | apply hf | split | exact mask_sub hF rfl

theorem keeps_bchStart {F : Nat} {s0 s : State} (h0 : Keeps F s0 s) (p : Nat) (hF : F &&& 0xc0068 = 0 := by exact mask_sub (by assumption) rfl) : Keeps F s0 (s.bchStart p) := by
  unfold State.bchStart
  extract_lets u v
  have hu : Keeps F s0 u := keeps_withdraw h0 _ _
  clear_value u v
  refine keeps_ite (fun _ => hu) (fun _ => ?_)
  refine keeps_ite (fun _ => keeps_nextSet hu _) (fun _ => ?_)
  refine keeps_ite (fun _ => keeps_bchSend (keeps_setPort hu _ _) _ _ _) (fun _ => ?_)
  refine keeps_ite (fun _ => keeps_sendSet (keeps_setPort hu _ _) _) (fun _ => ?_)
  refine keeps_ite (fun _ => keeps_sendBeacon hu _) (fun _ => ?_)
  refine keeps_ite (fun _ => keeps_sendDeal hu _) (fun _ => ?_)
  refine keeps_ite (fun _ => keeps_sendMark hu _) (fun _ => ?_)
  generalize List.findIdx? _ _ = i
  cases i with
  | some i => exact keeps_bchSend (keeps_setPort hu _ _) _ _ _
  | none =>
    refine keeps_ite (fun _ => keeps_bchSend (keeps_setPort hu _ _) _ _ _) (fun _ => ?_)
    split
    · exact keeps_ite (fun _ => keeps_sendTx hu _ _ _) (fun _ => hu)
    · split
      · exact keeps_bchSend (keeps_setPort hu _ _) _ _ _
      · exact hu

theorem keeps_idlePair {F : Nat} {s0 s : State} (h0 : Keeps F s0 s) (p : Nat) (hF : F &&& 0x80020 = 0 := by exact mask_sub (by assumption) rfl) : Keeps F s0 (State.idlePair s p) := by
  unfold State.idlePair
  with_reducible repeat' first
    | (extract_lets +onlyGivenNames x; refine keeps_let (F := F) (s0 := s0) (x := x) (fun _ => ?_) ?_; rotate_left; subst x; rotate_left; clear_value x)
    | (extract_lets +onlyGivenNames x; clear_value x) | (intro _) | assumption | apply keeps_setPort | apply keeps_emit | split
    | exact mask_sub hF rfl

theorem keeps_sendBlock {F : Nat} {s0 s : State} (h0 : Keeps F s0 s) (p : Nat) (hF : F &&& 0x80068 = 0 := by exact mask_sub (by assumption) rfl) : Keeps F s0 (State.sendBlock s p) := by
  unfold State.sendBlock
  with_reducible repeat' first
    | (intro _)
    | (extract_lets +onlyGivenNames x; refine keeps_let (F := F) (s0 := s0) (x := x) (fun _ => ?_) ?_; rotate_left; subst x; (try dsimp -zeta only); rotate_left; clear_value x)
    | (extract_lets +onlyGivenNames x; refine keeps_letF (F := F) (s0 := s0) (x := x) (fun hf => ?_) ?_; rotate_left; subst x; (try dsimp -zeta only); rotate_left; clear_value x)
    | (extract_lets +onlyGivenNames x; refine keeps_letF2 (F := F) (s0 := s0) (x := x) (fun hf => ?_) ?_; rotate_left; subst x; (try dsimp -zeta only); rotate_left; clear_value x)
    | (extract_lets +onlyGivenNames x; refine keeps_letN (F := F) (s0 := s0) (x := x) (fun hf => ?_) ?_; rotate_left; subst x; (try dsimp -zeta only); rotate_left; clear_value x)
    | (extract_lets +onlyGivenNames x; clear_value x) | assumption | apply keeps_fwdSend | apply keeps_setPort | apply keeps_skipFree
    | apply keeps_wrFld | apply hf | split | exact mask_sub hF rfl

theorem keeps_execBchMsgSend {F : Nat} {s0 s : State} (h0 : Keeps F s0 s) (port : Nat) (hF : F &&& 0xc0068 = 0 := by exact mask_sub (by assumption) rfl) : ResKeeps F s0 (execBchMsgSend port s) := by
  unfold execBchMsgSend
  with_reducible repeat' first
    | (intro _)
    | (extract_lets +onlyGivenNames x; refine keeps_let (F := F) (s0 := s0) (x := x) (fun _ => ?_) ?_; rotate_left; subst x; rotate_left; clear_value x)
    | (extract_lets +onlyGivenNames x; clear_value x) | assumption | apply ResKeeps.next | apply keeps_sendBlock | apply keeps_updPort
    | apply keeps_goWake | apply keeps_bchStart | apply keeps_idlePair | split | exact mask_sub hF rfl

theorem keeps_execBeaconTx {F : Nat} {s0 s : State} (h0 : Keeps F s0 s) (port : Nat) (hF : F &&& 0xc0068 = 0 := by exact mask_sub (by assumption) rfl) : ResKeeps F s0 (execBeaconTx port s) := by
  unfold execBeaconTx
  with_reducible repeat' first
    | (intro _)
    | (extract_lets +onlyGivenNames x; refine keeps_let (F := F) (s0 := s0) (x := x) (fun _ => ?_) ?_; rotate_left; subst x; rotate_left; clear_value x)
    | (extract_lets +onlyGivenNames x; clear_value x) | assumption | apply ResKeeps.next | apply keeps_updPort | apply keeps_bchStart
    | split | exact mask_sub hF rfl

theorem keeps_execDealTx {F : Nat} {s0 s : State} (h0 : Keeps F s0 s) (port : Nat) (hF : F &&& 0xc0068 = 0 := by exact mask_sub (by assumption) rfl) : ResKeeps F s0 (execDealTx port s) := by
  unfold execDealTx
  with_reducible repeat' first
    | (intro _) | assumption | apply ResKeeps.next | apply keeps_updPort | apply keeps_bchStart | split | exact mask_sub hF rfl

theorem keeps_execDlyMarkTx {F : Nat} {s0 s : State} (h0 : Keeps F s0 s) (port : Nat) (hF : F &&& 0xc0068 = 0 := by exact mask_sub (by assumption) rfl) : ResKeeps F s0 (execDlyMarkTx port s) := by
  unfold execDlyMarkTx
  with_reducible repeat' first
    | (intro _)
    | (extract_lets +onlyGivenNames x; refine keeps_let (F := F) (s0 := s0) (x := x) (fun _ => ?_) ?_; rotate_left; subst x; rotate_left; clear_value x)
    | (extract_lets +onlyGivenNames x; clear_value x) | assumption | apply ResKeeps.next | apply keeps_updPort | apply keeps_bchStart
    | split | exact mask_sub hF rfl

theorem keeps_execDlyMarkTimeout {F : Nat} {s0 s : State} (h0 : Keeps F s0 s) (port : Nat) (markId : Nat) (hF : F &&& 0x80040 = 0 := by exact mask_sub (by assumption) rfl) : ResKeeps F s0 (execDlyMarkTimeout port markId s) := by
  unfold execDlyMarkTimeout
  with_reducible repeat' first
    | (intro _) | assumption | apply ResKeeps.next | apply keeps_updPort | apply keeps_inc | split | exact mask_sub hF rfl

theorem keeps_execHeadQueryTx {F : Nat} {s0 s : State} (h0 : Keeps F s0 s) (port : Nat) (hF : F &&& 0xc0068 = 0 := by exact mask_sub (by assumption) rfl) : ResKeeps F s0 (execHeadQueryTx port s) := by
  unfold execHeadQueryTx
  with_reducible repeat' first
    | (intro _) | assumption | apply ResKeeps.next | apply keeps_updPort | apply keeps_bchStart | split | exact mask_sub hF rfl

theorem keeps_execTxGo {F : Nat} {s0 s : State} (h0 : Keeps F s0 s) (port : Nat) (req : Nat) (v : Nat) (hF : F &&& 0xc0078 = 0 := by exact mask_sub (by assumption) rfl) : ResKeeps F s0 (execTxGo port req v s) := by
  unfold execTxGo
  with_reducible repeat' first
    | (intro _)
    | (extract_lets +onlyGivenNames x; refine keeps_let (F := F) (s0 := s0) (x := x) (fun _ => ?_) ?_; rotate_left; subst x; (try dsimp -zeta only); rotate_left; clear_value x)
    | (extract_lets +onlyGivenNames x; refine keeps_letF (F := F) (s0 := s0) (x := x) (fun hf => ?_) ?_; rotate_left; subst x; (try dsimp -zeta only); rotate_left; clear_value x)
    | (extract_lets +onlyGivenNames x; refine keeps_letF2 (F := F) (s0 := s0) (x := x) (fun hf => ?_) ?_; rotate_left; subst x; (try dsimp -zeta only); rotate_left; clear_value x)
    | (extract_lets +onlyGivenNames x; refine keeps_letN (F := F) (s0 := s0) (x := x) (fun hf => ?_) ?_; rotate_left; subst x; (try dsimp -zeta only); rotate_left; clear_value x)
    | (extract_lets +onlyGivenNames x; clear_value x) | assumption | apply ResKeeps.next | apply keeps_onKey | apply keeps_wrFld
    | apply keeps_updPort | apply keeps_bchStart | apply hf | split | exact mask_sub hF rfl | (refine keeps_of_pair (by assumption) ?_)

theorem keeps_execBusTimeout {F : Nat} {s0 s : State} (h0 : Keeps F s0 s) (port : Nat) (id : Nat) (hF : F &&& 0x80048 = 0 := by exact mask_sub (by assumption) rfl) : ResKeeps F s0 (execBusTimeout port id s) := by
  unfold execBusTimeout
  with_reducible repeat' first
    | (intro _) | assumption | apply ResKeeps.next | apply keeps_synthResult | apply keeps_updPort | apply keeps_busOutst | split
    | exact mask_sub hF rfl | (refine keeps_of_pair (by assumption) ?_)

theorem keeps_execDlyMarkRx {F : Nat} {s0 s : State} (h0 : Keeps F s0 s) (port : Nat) (sym : Nat) (groups : List Nat) (hF : F &&& 0xc0068 = 0 := by exact mask_sub (by assumption) rfl) : ResKeeps F s0 (execDlyMarkRx port sym groups s) := by
  unfold execDlyMarkRx
  with_reducible repeat' first
    | (intro _)
    | (extract_lets +onlyGivenNames x; refine keeps_let (F := F) (s0 := s0) (x := x) (fun _ => ?_) ?_; rotate_left; subst x; rotate_left; clear_value x)
    | (extract_lets +onlyGivenNames x; clear_value x) | assumption | apply ResKeeps.next | apply keeps_bchTake | apply keeps_updPort
    | split | exact mask_sub hF rfl | (refine keeps_of_pair (by assumption) ?_)

theorem keeps_execHeadQueryRx {F : Nat} {s0 s : State} (h0 : Keeps F s0 s) (port : Nat) (groups : List Nat) (hF : F &&& 0xc0068 = 0 := by exact mask_sub (by assumption) rfl) : ResKeeps F s0 (execHeadQueryRx port groups s) := by
  unfold execHeadQueryRx
  with_reducible repeat' first
    | assumption | apply ResKeeps.next | apply keeps_bchTake | apply keeps_upCaps | split | exact mask_sub hF rfl
    | (refine keeps_of_pair (by assumption) ?_)

theorem keeps_execDealRx {F : Nat} {s0 s : State} (h0 : Keeps F s0 s) (port : Nat) (tArr : Nat) (groups : List Nat) (hF : F &&& 0xc1068 = 0 := by exact mask_sub (by assumption) rfl) : ResKeeps F s0 (execDealRx port tArr groups s) := by
  unfold execDealRx
  with_reducible repeat' first
    | assumption | apply ResKeeps.next | apply keeps_bchTake | apply keeps_takeDeal | split | exact mask_sub hF rfl
    | (refine keeps_of_pair (by assumption) ?_)

theorem keeps_execRxPop {F : Nat} {s0 s : State} (h0 : Keeps F s0 s) (port : Nat) (req : Nat) (hF : F &&& 0x80050 = 0 := by exact mask_sub (by assumption) rfl) : ResKeeps F s0 (execRxPop port req s) := by
  unfold execRxPop
  with_reducible repeat' first
    | (intro _) | assumption | apply ResKeeps.next | apply keeps_onKey | apply keeps_respond | apply keeps_updPort | apply keeps_wrFld
    | split | exact mask_sub hF rfl | (refine keeps_of_pair (by assumption) ?_)

theorem keeps_execRxStatRead {F : Nat} {s0 s : State} (h0 : Keeps F s0 s) (port : Nat) (req : Nat) (hF : F &&& 0x50 = 0 := by exact mask_sub (by assumption) rfl) : ResKeeps F s0 (execRxStatRead port req s) := by
  unfold execRxStatRead
  with_reducible repeat' first
    | (intro _) | assumption | apply ResKeeps.next | apply keeps_onKey | apply keeps_clrBit | apply keeps_respond | exact mask_sub hF rfl

end Sys2Proof.Machine
end

