-- ==== Sys2Proof/Laws/KeepsSched.lean ====
section
/-! SUPPORT. What the operations of Machine/Sched.lean keep (`Keeps`), one lemma each. -/
namespace Sys2Proof.Machine
set_option Elab.async false

theorem keeps_setSch {F : Nat} {s0 s : State} (h0 : Keeps F s0 s) (st : Nat) (v : SchS) (hF : F &&& 0x400000 = 0 := by exact mask_sub (by assumption) rfl) : Keeps F s0 (State.setSch s st v) := by
  unfold State.setSch
  with_reducible repeat' first
    | (intro _) | assumption | apply keeps_mk_schs | exact mask_sub hF rfl

theorem keeps_decide1 {F : Nat} {s0 s : State} (h0 : Keeps F s0 s) (st : Nat) (o : Occ) (hF : F &&& 0x400040 = 0 := by exact mask_sub (by assumption) rfl) : Keeps F s0 (State.decide1 s st o) := by
  unfold State.decide1
  with_reducible repeat' first
    | (extract_lets +onlyGivenNames x; refine keeps_let (F := F) (s0 := s0) (x := x) (fun _ => ?_) ?_; rotate_left; subst x; rotate_left; clear_value x)
    | (extract_lets +onlyGivenNames x; clear_value x) | (intro _) | assumption | apply keeps_setSch | apply keeps_inc | apply keeps_setBit
    | split | exact mask_sub hF rfl

theorem keeps_execOccurrenceDecide {F : Nat} {s0 s : State} (h0 : Keeps F s0 s) (stream : Nat) (fresh : Bool) (hF : F &&& 0x400040 = 0 := by exact mask_sub (by assumption) rfl) : ResKeeps F s0 (execOccurrenceDecide stream fresh s) := by
  unfold execOccurrenceDecide
  with_reducible repeat' first
    | (intro _)
    | (extract_lets +onlyGivenNames x; refine keeps_let (F := F) (s0 := s0) (x := x) (fun _ => ?_) ?_; rotate_left; subst x; rotate_left; clear_value x)
    | (extract_lets +onlyGivenNames x; clear_value x) | assumption | apply ResKeeps.next | apply keeps_decide1 | apply keeps_setSch
    | split | exact mask_sub hF rfl | (refine keeps_of_pair (by assumption) ?_)

theorem keeps_execPulseIssue {F : Nat} {s0 s : State} (h0 : Keeps F s0 s) (port : Nat) (hF : F &&& 0x4c0068 = 0 := by exact mask_sub (by assumption) rfl) : ResKeeps F s0 (execPulseIssue port s) := by
  unfold execPulseIssue
  with_reducible repeat' first
    | (intro _)
    | (extract_lets +onlyGivenNames x; refine keeps_let (F := F) (s0 := s0) (x := x) (fun _ => ?_) ?_; rotate_left; subst x; rotate_left; clear_value x)
    | (extract_lets +onlyGivenNames x; clear_value x) | assumption | apply ResKeeps.next | apply keeps_setSch | apply keeps_updPort
    | apply keeps_bchStart | split | exact mask_sub hF rfl | (refine keeps_of_pair (by assumption) ?_)

theorem keeps_execPulseWithdraw {F : Nat} {s0 s : State} (h0 : Keeps F s0 s) (port : Nat) (hF : F &&& 0xc0040 = 0 := by exact mask_sub (by assumption) rfl) : ResKeeps F s0 (execPulseWithdraw port s) := by
  unfold execPulseWithdraw
  with_reducible repeat' first
    | assumption | apply ResKeeps.next | apply keeps_withdraw | split | exact mask_sub hF rfl

theorem keeps_attribTrigger {F : Nat} {s0 s : State} (h0 : Keeps F s0 s) (st : Nat) (t : Nat) (hF : F &&& 0x400000 = 0 := by exact mask_sub (by assumption) rfl) : Keeps F s0 (State.attribTrigger s st t).1 := by
  unfold State.attribTrigger
  with_reducible repeat' first
    | (intro _)
    | (extract_lets +onlyGivenNames x; refine keeps_let (F := F) (s0 := s0) (x := x) (fun _ => ?_) ?_; rotate_left; subst x; rotate_left; clear_value x)
    | (extract_lets +onlyGivenNames x; clear_value x) | assumption | apply keeps_setSch | split | exact mask_sub hF rfl
    | (refine keeps_of_pair (by assumption) ?_)

theorem keeps_schLast {F : Nat} {s0 s : State} (h0 : Keeps F s0 s) (n : Nat) (hF : F &&& 0x40 = 0 := by exact mask_sub (by assumption) rfl) : Keeps F s0 (State.schLast s n) := by
  unfold State.schLast
  with_reducible repeat' first
    | assumption | apply keeps_wrFld | exact mask_sub hF rfl

theorem keeps_schPendBits {F : Nat} {s0 s : State} (h0 : Keeps F s0 s) (b : Bool) (hF : F &&& 0x40 = 0 := by exact mask_sub (by assumption) rfl) : Keeps F s0 (State.schPendBits s b) := by
  unfold State.schPendBits
  with_reducible repeat' first
    | (intro _) | assumption | apply keeps_forEach | apply keeps_putBit | exact mask_sub hF rfl

theorem keeps_schTake {F : Nat} {s0 s : State} (h0 : Keeps F s0 s) (act : Nat) (hF : F &&& 0x400000000800040 = 0 := by exact mask_sub (by assumption) rfl) : Keeps F s0 (State.schTake s act) := by
  unfold State.schTake
  with_reducible repeat' first
    | assumption | apply keeps_schLast | apply keeps_undirty | split | apply keeps_mk_sched | exact mask_sub hF rfl
    | (refine keeps_of_pair (by assumption) ?_)

theorem keeps_schDrop {F : Nat} {s0 s : State} (h0 : Keeps F s0 s) (last : Nat) (hF : F &&& 0xc00040 = 0 := by exact mask_sub (by assumption) rfl) : Keeps F s0 (State.schDrop s last) := by
  unfold State.schDrop
  with_reducible repeat' first
    | (intro _)
    | (extract_lets +onlyGivenNames x; refine keeps_let (F := F) (s0 := s0) (x := x) (fun _ => ?_) ?_; rotate_left; subst x; rotate_left; clear_value x)
    | (extract_lets +onlyGivenNames x; clear_value x) | assumption | apply keeps_forEach | apply keeps_schPendBits | apply keeps_setSch
    | apply keeps_schLast | apply keeps_clrBit | split | apply keeps_mk_sched | exact mask_sub hF rfl
    | (refine keeps_of_pair (by assumption) ?_)

theorem keeps_execSchedCommit {F : Nat} {s0 s : State} (h0 : Keeps F s0 s) (die : Nat) (req : Nat) (v : Nat) (hF : F &&& 0x400000000c00050 = 0 := by exact mask_sub (by assumption) rfl) : ResKeeps F s0 (execSchedCommit die req v s) := by
  unfold execSchedCommit
  with_reducible repeat' first
    | (intro _) | assumption | apply ResKeeps.next | apply keeps_onKey | apply keeps_schDrop | apply keeps_schTake | split
    | exact mask_sub hF rfl

theorem keeps_execSchedCancel {F : Nat} {s0 s : State} (h0 : Keeps F s0 s) (die : Nat) (req : Nat) (v : Nat) (hF : F &&& 0xc00050 = 0 := by exact mask_sub (by assumption) rfl) : ResKeeps F s0 (execSchedCancel die req v s) := by
  unfold execSchedCancel
  with_reducible repeat' first
    | (intro _) | assumption | apply ResKeeps.next | apply keeps_onKey | apply keeps_schDrop | split | exact mask_sub hF rfl

theorem keeps_schCopy {F : Nat} {s0 s : State} (h0 : Keeps F s0 s) (set : SchedSet) (hF : F &&& 0x40 = 0 := by exact mask_sub (by assumption) rfl) : Keeps F s0 (State.schCopy s set) := by
  unfold State.schCopy
  with_reducible repeat' first
    | (intro _) | assumption | apply keeps_forEach | apply keeps_wrN | split | exact mask_sub hF rfl

theorem keeps_schAbandon {F : Nat} {s0 s : State} (h0 : Keeps F s0 s) (hF : F &&& 0xc00040 = 0 := by exact mask_sub (by assumption) rfl) : Keeps F s0 (State.schAbandon s) := by
  unfold State.schAbandon
  with_reducible repeat' first
    | (intro _) | assumption | apply keeps_forEach | apply keeps_schDrop | apply keeps_setBit | exact mask_sub hF rfl

theorem keeps_schReport {F : Nat} {s0 s : State} (h0 : Keeps F s0 s) (r : Nat × Nat × Nat × Nat) (hF : F &&& 0x40 = 0 := by exact mask_sub (by assumption) rfl) : Keeps F s0 (State.schReport s r) := by
  unfold State.schReport
  with_reducible repeat' first
    | assumption | apply keeps_schLast | apply keeps_wrFld | apply keeps_wrN | exact mask_sub hF rfl

theorem keeps_execSchedCheckDone {F : Nat} {s0 s : State} (h0 : Keeps F s0 s) (hF : F &&& 0x800040 = 0 := by exact mask_sub (by assumption) rfl) : ResKeeps F s0 (execSchedCheckDone s) := by
  unfold execSchedCheckDone
  with_reducible repeat' first
    | (extract_lets +onlyGivenNames x; refine keeps_let (F := F) (s0 := s0) (x := x) (fun _ => ?_) ?_; rotate_left; subst x; rotate_left; clear_value x)
    | (extract_lets +onlyGivenNames x; clear_value x) | (intro _) | assumption | apply ResKeeps.next | apply keeps_schReport
    | apply keeps_setBit | apply keeps_schPendBits | apply keeps_schCopy | split | apply keeps_mk_sched | exact mask_sub hF rfl
    | (refine keeps_of_pair (by assumption) ?_)

theorem keeps_execSchedDistFail {F : Nat} {s0 s : State} (h0 : Keeps F s0 s) (hF : F &&& 0xc00040 = 0 := by exact mask_sub (by assumption) rfl) : ResKeeps F s0 (execSchedDistFail s) := by
  unfold execSchedDistFail
  with_reducible repeat' first
    | assumption | apply ResKeeps.next | apply keeps_schAbandon | split | exact mask_sub hF rfl
    | (refine keeps_of_pair (by assumption) ?_)

theorem keeps_schSwitch {F : Nat} {s0 s : State} (h0 : Keeps F s0 s) (set : SchedSet) (st : Nat) (hF : F &&& 0x400040 = 0 := by exact mask_sub (by assumption) rfl) : Keeps F s0 (State.schSwitch s set st) := by
  unfold State.schSwitch
  with_reducible repeat' first
    | (extract_lets +onlyGivenNames x; refine keeps_let (F := F) (s0 := s0) (x := x) (fun _ => ?_) ?_; rotate_left; subst x; rotate_left; clear_value x)
    | (extract_lets +onlyGivenNames x; clear_value x) | (intro _) | assumption | apply keeps_setSch | apply keeps_addSat
    | apply keeps_putBit | apply keeps_clrBit | split | exact mask_sub hF rfl

theorem keeps_execSchedActivate {F : Nat} {s0 s : State} (h0 : Keeps F s0 s) (hF : F &&& 0xc400c0 = 0 := by exact mask_sub (by assumption) rfl) : ResKeeps F s0 (execSchedActivate s) := by
  unfold execSchedActivate
  with_reducible repeat' first
    | (intro _)
    | (extract_lets +onlyGivenNames x; refine keeps_let (F := F) (s0 := s0) (x := x) (fun _ => ?_) ?_; rotate_left; subst x; (try dsimp -zeta only); rotate_left; clear_value x)
    | (extract_lets +onlyGivenNames x; refine keeps_letF (F := F) (s0 := s0) (x := x) (fun hf => ?_) ?_; rotate_left; subst x; (try dsimp -zeta only); rotate_left; clear_value x)
    | (extract_lets +onlyGivenNames x; refine keeps_letF2 (F := F) (s0 := s0) (x := x) (fun hf => ?_) ?_; rotate_left; subst x; (try dsimp -zeta only); rotate_left; clear_value x)
    | (extract_lets +onlyGivenNames x; refine keeps_letN (F := F) (s0 := s0) (x := x) (fun hf => ?_) ?_; rotate_left; subst x; (try dsimp -zeta only); rotate_left; clear_value x)
    | (extract_lets +onlyGivenNames x; clear_value x) | assumption | apply ResKeeps.next | apply keeps_schAbandon | apply keeps_forEach
    | apply keeps_schSwitch | apply keeps_setAct | apply keeps_wr | apply keeps_setBit | apply keeps_pulse | apply keeps_clrBit | apply hf
    | split | apply keeps_mk_sched | exact mask_sub hF rfl | (refine keeps_of_pair (by assumption) ?_)

theorem keeps_execStepAnnounce {F : Nat} {s0 s : State} (h0 : Keeps F s0 s) (hF : F &&& 0x800000 = 0 := by exact mask_sub (by assumption) rfl) : ResKeeps F s0 (execStepAnnounce s) := by
  unfold execStepAnnounce
  with_reducible repeat' first
    | assumption | apply ResKeeps.next | split | apply keeps_mk_sched | exact mask_sub hF rfl | (refine keeps_of_pair (by assumption) ?_)

theorem keeps_stepStream {F : Nat} {s0 s : State} (h0 : Keeps F s0 s) (new : Int) (st : Nat) (hF : F &&& 0x400040 = 0 := by exact mask_sub (by assumption) rfl) : Keeps F s0 (State.stepStream s new st) := by
  unfold State.stepStream
  with_reducible repeat' first
    | (extract_lets +onlyGivenNames x; refine keeps_let (F := F) (s0 := s0) (x := x) (fun _ => ?_) ?_; rotate_left; subst x; rotate_left; clear_value x)
    | (extract_lets +onlyGivenNames x; clear_value x) | (intro _) | assumption | apply keeps_setSch | apply keeps_addSat | split
    | exact mask_sub hF rfl | (refine keeps_of_pair (by assumption) ?_)

theorem keeps_stepSched {F : Nat} {s0 s : State} (h0 : Keeps F s0 s) (from_ : Nat) (new : Nat) (hF : F &&& 0xcc0068 = 0 := by exact mask_sub (by assumption) rfl) : Keeps F s0 (State.stepSched s from_ new) := by
  unfold State.stepSched
  with_reducible repeat' first
    | (intro _)
    | (extract_lets +onlyGivenNames x; refine keeps_let (F := F) (s0 := s0) (x := x) (fun _ => ?_) ?_; rotate_left; subst x; rotate_left; clear_value x)
    | (extract_lets +onlyGivenNames x; clear_value x) | assumption | apply keeps_forEach | apply keeps_updPort | apply keeps_pulse
    | apply keeps_bchStart | apply keeps_setBit | apply keeps_stepStream | apply keeps_mk_sched | exact mask_sub hF rfl

theorem keeps_execExpLenWrite {F : Nat} {s0 s : State} (h0 : Keeps F s0 s) (stream : Nat) (req : Nat) (v : Nat) (hF : F &&& 0x50 = 0 := by exact mask_sub (by assumption) rfl) : ResKeeps F s0 (execExpLenWrite stream req v s) := by
  unfold execExpLenWrite
  with_reducible repeat' first
    | (intro _)
    | (extract_lets +onlyGivenNames x; refine keeps_let (F := F) (s0 := s0) (x := x) (fun _ => ?_) ?_; rotate_left; subst x; rotate_left; clear_value x)
    | (extract_lets +onlyGivenNames x; clear_value x) | assumption | apply ResKeeps.next | apply keeps_onKey | apply keeps_wrN
    | apply keeps_putBit | split | exact mask_sub hF rfl

theorem keeps_execLeadWrite {F : Nat} {s0 s : State} (h0 : Keeps F s0 s) (port : Nat) (margin : Bool) (req : Nat) (v : Nat) (hF : F &&& 0x50 = 0 := by exact mask_sub (by assumption) rfl) : ResKeeps F s0 (execLeadWrite port margin req v s) := by
  unfold execLeadWrite
  with_reducible repeat' first
    | (intro _)
    | (extract_lets +onlyGivenNames x; refine keeps_let (F := F) (s0 := s0) (x := x) (fun _ => ?_) ?_; rotate_left; subst x; rotate_left; clear_value x)
    | (extract_lets +onlyGivenNames x; clear_value x) | assumption | apply ResKeeps.next | apply keeps_onKey | apply keeps_setBit
    | apply keeps_wrN | split | exact mask_sub hF rfl

end Sys2Proof.Machine
end

