-- ==== Sys2Proof/Laws/KeepsIngest.lean ====
section
/-! SUPPORT. What the operations of Machine/Ingest.lean keep (`Keeps`), one lemma each. -/
namespace Sys2Proof.Machine
set_option Elab.async false

theorem keeps_setSis {F : Nat} {s0 s : State} (h0 : Keeps F s0 s) (st : Nat) (v : SiS) (hF : F &&& 0x100000 = 0 := by exact mask_sub (by assumption) rfl) : Keeps F s0 (State.setSis s st v) := by
  unfold State.setSis
  with_reducible repeat' first
    | (intro _) | assumption | apply keeps_mk_sis | exact mask_sub hF rfl

theorem keeps_updSis {F : Nat} {s0 s : State} (h0 : Keeps F s0 s) (st : Nat) (f : SiS → SiS) (hF : F &&& 0x100000 = 0 := by exact mask_sub (by assumption) rfl) : Keeps F s0 (State.updSis s st f) := by
  unfold State.updSis
  with_reducible repeat' first
    | assumption | apply keeps_setSis | exact mask_sub hF rfl

theorem keeps_setPipe {F : Nat} {s0 s : State} (h0 : Keeps F s0 s) (n : Nat) (v : PipeS) (hF : F &&& 0x200000 = 0 := by exact mask_sub (by assumption) rfl) : Keeps F s0 (State.setPipe s n v) := by
  unfold State.setPipe
  with_reducible repeat' first
    | (intro _) | assumption | apply keeps_mk_pipes | exact mask_sub hF rfl

theorem keeps_updPipe {F : Nat} {s0 s : State} (h0 : Keeps F s0 s) (n : Nat) (f : PipeS → PipeS) (hF : F &&& 0x200000 = 0 := by exact mask_sub (by assumption) rfl) : Keeps F s0 (State.updPipe s n f) := by
  unfold State.updPipe
  with_reducible repeat' first
    | assumption | apply keeps_setPipe | exact mask_sub hF rfl

theorem keeps_siEvent {F : Nat} {s0 s : State} (h0 : Keeps F s0 s) (st : Nat) (i : Nat) (hF : F &&& 0x40 = 0 := by exact mask_sub (by assumption) rfl) : Keeps F s0 (State.siEvent s st i) := by
  unfold State.siEvent
  with_reducible repeat' first
    | assumption | apply keeps_setBit | exact mask_sub hF rfl

theorem keeps_plApply {F : Nat} {s0 s : State} (h0 : Keeps F s0 s) (n : Nat) (img : Tbl Word) (hF : F &&& 0xc0 = 0 := by exact mask_sub (by assumption) rfl) : Keeps F s0 (State.plApply s n img) := by
  unfold State.plApply
  with_reducible repeat' first
    | (intro _)
    | (extract_lets +onlyGivenNames x; refine keeps_let (F := F) (s0 := s0) (x := x) (fun _ => ?_) ?_; rotate_left; subst x; rotate_left; clear_value x)
    | (extract_lets +onlyGivenNames x; clear_value x) | assumption | apply keeps_forEach | apply keeps_setAct | apply keeps_wrN
    | apply keeps_mk_acts | exact mask_sub hF rfl

theorem keeps_paStat {F : Nat} {s0 s : State} (h0 : Keeps F s0 s) (n : Nat) (hF : F &&& 0x40 = 0 := by exact mask_sub (by assumption) rfl) : Keeps F s0 (State.paStat s n) := by
  unfold State.paStat
  with_reducible repeat' first
    | assumption | apply keeps_wrFld | apply keeps_putBit | exact mask_sub hF rfl

theorem keeps_paDiscard {F : Nat} {s0 s : State} (h0 : Keeps F s0 s) (n : Nat) (snap : Bool) (hF : F &&& 0x200040 = 0 := by exact mask_sub (by assumption) rfl) : Keeps F s0 (State.paDiscard s n snap) := by
  unfold State.paDiscard
  with_reducible repeat' first
    | (extract_lets +onlyGivenNames x; refine keeps_let (F := F) (s0 := s0) (x := x) (fun _ => ?_) ?_; rotate_left; subst x; rotate_left; clear_value x)
    | (extract_lets +onlyGivenNames x; clear_value x) | (intro _) | assumption | apply keeps_setPipe | apply keeps_wrN
    | apply keeps_paStat | split | exact mask_sub hF rfl

theorem keeps_paApply {F : Nat} {s0 s : State} (h0 : Keeps F s0 s) (n : Nat) (sfn : Nat) (frame : Nat) (hF : F &&& 0x2000c0 = 0 := by exact mask_sub (by assumption) rfl) : Keeps F s0 (State.paApply s n sfn frame).1 := by
  unfold State.paApply
  with_reducible repeat' first
    | (intro _)
    | (extract_lets +onlyGivenNames x; refine keeps_let (F := F) (s0 := s0) (x := x) (fun _ => ?_) ?_; rotate_left; subst x; rotate_left; clear_value x)
    | (extract_lets +onlyGivenNames x; clear_value x) | assumption | apply keeps_setPipe | apply keeps_plApply | apply keeps_wrN
    | apply keeps_paStat | split | exact mask_sub hF rfl | (refine keeps_of_pair (by assumption) ?_)

theorem keeps_updJob {F : Nat} {s0 s : State} (h0 : Keeps F s0 s) (n : Nat) (st : Nat) (frame : Nat) (f : Job → Job) (hF : F &&& 0x200000 = 0 := by exact mask_sub (by assumption) rfl) : Keeps F s0 (State.updJob s n st frame f) := by
  unfold State.updJob
  with_reducible repeat' first
    | (intro _) | assumption | apply keeps_updPipe | split | exact mask_sub hF rfl

theorem keeps_markUnsync {F : Nat} {s0 s : State} (h0 : Keeps F s0 s) (st : Nat) (frame : Nat) (hF : F &&& 0x300000 = 0 := by exact mask_sub (by assumption) rfl) : Keeps F s0 (State.markUnsync s st frame) := by
  unfold State.markUnsync
  with_reducible repeat' first
    | (intro _)
    | (extract_lets +onlyGivenNames x; refine keeps_let (F := F) (s0 := s0) (x := x) (fun _ => ?_) ?_; rotate_left; subst x; rotate_left; clear_value x)
    | (extract_lets +onlyGivenNames x; clear_value x) | assumption | apply keeps_updSis | apply keeps_updJob | split
    | exact mask_sub hF rfl | (refine keeps_of_pair (by assumption) ?_)

theorem keeps_frameRec {F : Nat} {s0 s : State} (h0 : Keeps F s0 s) (st : Nat) (h : RecHdr) (payload : List Byte) (hF : F &&& 0x40000000417c068 = 0 := by exact mask_sub (by assumption) rfl) : Keeps F s0 (State.frameRec s st h payload) := by
  unfold State.frameRec
  with_reducible repeat' first
    | (intro _) | assumption | apply keeps_closeRec | apply keeps_updSis | split | exact mask_sub hF rfl
    | (refine keeps_of_pair (by assumption) ?_)

theorem keeps_bindEnd {F : Nat} {s0 s : State} (h0 : Keeps F s0 s) (st : Nat) (hF : F &&& 0x40 = 0 := by exact mask_sub (by assumption) rfl) : Keeps F s0 (State.bindEnd s st) := by
  unfold State.bindEnd
  with_reducible repeat' first
    | assumption | apply keeps_clrBit | apply keeps_putBit | apply keeps_siEvent | exact mask_sub hF rfl

theorem keeps_iselPulse {F : Nat} {s0 s : State} (h0 : Keeps F s0 s) (st : Nat) (what : Nat) (line : Nat) (t : Nat) (hF : F &&& 0x40000 = 0 := by exact mask_sub (by assumption) rfl) : Keeps F s0 (State.iselPulse s st what line t) := by
  unfold State.iselPulse
  with_reducible repeat' first
    | (extract_lets +onlyGivenNames x; refine keeps_let (F := F) (s0 := s0) (x := x) (fun _ => ?_) ?_; rotate_left; subst x; rotate_left; clear_value x)
    | (extract_lets +onlyGivenNames x; clear_value x) | (intro _) | assumption | apply keeps_pulseAt | split | exact mask_sub hF rfl

theorem keeps_closeFrame {F : Nat} {s0 s : State} (h0 : Keeps F s0 s) (st : Nat) (code : Nat) (t0 : Nat) (steps : Nat) (hF : F &&& 0x340040 = 0 := by exact mask_sub (by assumption) rfl) : Keeps F s0 (State.closeFrame s st code t0 steps) := by
  unfold State.closeFrame
  with_reducible repeat' first
    | (extract_lets +onlyGivenNames x; refine keeps_let (F := F) (s0 := s0) (x := x) (fun _ => ?_) ?_; rotate_left; subst x; rotate_left; clear_value x)
    | (extract_lets +onlyGivenNames x; clear_value x) | (intro _) | assumption | apply keeps_markUnsync | apply keeps_setSis
    | apply keeps_inc | apply keeps_siEvent | apply keeps_clrBit | apply keeps_wrFld | apply keeps_iselPulse | apply keeps_bindEnd | split
    | exact mask_sub hF rfl

theorem keeps_sampleShed {F : Nat} {s0 s : State} (h0 : Keeps F s0 s) (n : Nat) (st : Nat) (frame : Nat) (hF : F &&& 0x40 = 0 := by exact mask_sub (by assumption) rfl) : Keeps F s0 (State.sampleShed s n st frame).1 := by
  unfold State.sampleShed
  with_reducible repeat' first
    | (intro _)
    | (extract_lets +onlyGivenNames x; refine keeps_let (F := F) (s0 := s0) (x := x) (fun _ => ?_) ?_; rotate_left; subst x; (try dsimp -zeta only); rotate_left; clear_value x)
    | (extract_lets +onlyGivenNames x; refine keeps_letF (F := F) (s0 := s0) (x := x) (fun hf => ?_) ?_; rotate_left; subst x; (try dsimp -zeta only); rotate_left; clear_value x)
    | (extract_lets +onlyGivenNames x; refine keeps_letF2 (F := F) (s0 := s0) (x := x) (fun hf => ?_) ?_; rotate_left; subst x; (try dsimp -zeta only); rotate_left; clear_value x)
    | (extract_lets +onlyGivenNames x; refine keeps_letN (F := F) (s0 := s0) (x := x) (fun hf => ?_) ?_; rotate_left; subst x; (try dsimp -zeta only); rotate_left; clear_value x)
    | (extract_lets +onlyGivenNames x; clear_value x) | assumption | apply keeps_inc | apply keeps_setBit | apply keeps_forEach
    | apply keeps_putBit | apply keeps_wrFld | apply hf | split | exact mask_sub hF rfl

theorem keeps_openInPipe {F : Nat} {s0 s : State} (h0 : Keeps F s0 s) (st : Nat) (f : FrameIn) (hF : F &&& 0x40000000477c0e8 = 0 := by exact mask_sub (by assumption) rfl) : Keeps F s0 (State.openInPipe s st f) := by
  unfold State.openInPipe
  with_reducible repeat' first
    | (intro _)
    | (extract_lets +onlyGivenNames x; refine keeps_let (F := F) (s0 := s0) (x := x) (fun _ => ?_) ?_; rotate_left; subst x; rotate_left; clear_value x)
    | (extract_lets +onlyGivenNames x; refine keeps_let1 (F := F) (s0 := s0) (x := x) (fun _ => ?_) ?_; rotate_left; subst x; rotate_left; clear_value x)
    | (extract_lets +onlyGivenNames x; clear_value x) | (extract_lets +onlyGivenNames x; subst x) | assumption | apply keeps_paApply
    | apply keeps_addSat | apply keeps_setBit | apply keeps_sampleShed | apply keeps_attribTrigger | apply keeps_updPipe
    | apply keeps_updSis | apply keeps_closeRec | split | exact mask_sub hF rfl | (refine keeps_of_pair (by assumption) ?_)

theorem keeps_drainSide {F : Nat} {s0 : State} (hF : F &&& 0x40000000417c068 = 0) (st : Nat) : ∀ (n : Nat) {s : State}, Keeps F s0 s → Keeps F s0 (s.drainSide st n)
  | 0, _, h => h
  | n + 1, s, h => by
    unfold State.drainSide
    extract_lets v
    split
    · exact keeps_drainSide (mask_sub hF rfl) st n (keeps_closeRec (keeps_setSis h _ _) _ _ _ _)
    · exact h

theorem keeps_startWaiting {F : Nat} {s0 s : State} (h0 : Keeps F s0 s) (st : Nat) (hF : F &&& 0x40000000477c0e8 = 0 := by exact mask_sub (by assumption) rfl) : Keeps F s0 (State.startWaiting s st) := by
  unfold State.startWaiting
  with_reducible repeat' first
    | (extract_lets +onlyGivenNames x; refine keeps_let (F := F) (s0 := s0) (x := x) (fun _ => ?_) ?_; rotate_left; subst x; rotate_left; clear_value x)
    | (extract_lets +onlyGivenNames x; clear_value x) | (intro _) | assumption | apply keeps_setSis | apply keeps_openInPipe
    | (apply keeps_drainSide (by exact mask_sub (by assumption) rfl)) | split | exact mask_sub hF rfl
    | (refine keeps_of_pair (by assumption) ?_)

theorem keeps_bindActivate {F : Nat} {s0 s t : State} {st : Nat} (e : s.bindActivate st = some t) (h0 : Keeps F s0 s) (hF : F &&& 0x200040 = 0 := by exact mask_sub (by assumption) rfl) : Keeps F s0 t := by
  unfold State.bindActivate at e
  extract_lets n others s1 at e
  split at e
  · cases e; exact h0
  · split at e
    · cases e
    · cases e
      have h1 : Keeps F s0 s1 := by
        subst s1; split
        · split
          · exact h0
          · exact keeps_siEvent (keeps_clrBit h0 _ _) _ _
        · exact h0
      clear_value s1
      exact keeps_paDiscard (keeps_siEvent (keeps_clrBit (keeps_setBit (keeps_wrFld h1 _ _ _ _) _ _) _ _) _ _) _ _

theorem keeps_takeStart {F : Nat} {s0 s : State} (h0 : Keeps F s0 s) (st : Nat) (k : Pkt) (hF : F &&& 0x40000000477c0e8 = 0 := by exact mask_sub (by assumption) rfl) : Keeps F s0 (s.takeStart st k) := by
  unfold State.takeStart
  extract_lets a v ro t per gate s1 admitted
  have ha : Keeps F s0 a := by
    subst a; split
    · with_reducible exact keeps_closeFrame h0 _ _ _ _
    · exact h0
  have h1 : Keeps F s0 s1 := by subst s1; with_reducible exact keeps_setSis ha _ _
  clear_value s1 admitted
  split
  · with_reducible exact keeps_siEvent (keeps_inc (keeps_updSis h1 _ _) _) _ _
  · split
    · with_reducible exact keeps_siEvent (keeps_inc (keeps_updSis h1 _ _) _) _ _
    · rename_i s2 e
      have h2 : Keeps F s0 s2 := keeps_bindActivate e h1
      extract_lets bound pipe f s3 s4
      have h3 : Keeps F s0 s3 := by subst s3; with_reducible exact keeps_setSis h2 _ _
      clear_value s3
      have h4 : Keeps F s0 s4 := by
        subst s4
        with_reducible exact
          keeps_pulseAt (keeps_siEvent (keeps_wrDt (keeps_setBit (keeps_wrFld (keeps_wrN (keeps_wrN h3 _ _) _ _) _ _ _ _) _ _) _ _) _ _) _ _ _
      clear_value s4
      exact keeps_startWaiting h4 _

theorem keeps_seePacket {F : Nat} {s0 s : State} (h0 : Keeps F s0 s) (st : Nat) (k : Pkt) (hF : F &&& 0x300000 = 0 := by exact mask_sub (by assumption) rfl) : Keeps F s0 (State.seePacket s st k) := by
  unfold State.seePacket
  with_reducible repeat' first
    | (extract_lets +onlyGivenNames x; refine keeps_let (F := F) (s0 := s0) (x := x) (fun _ => ?_) ?_; rotate_left; subst x; rotate_left; clear_value x)
    | (extract_lets +onlyGivenNames x; clear_value x) | (intro _) | assumption | apply keeps_setSis | apply keeps_markUnsync | split
    | exact mask_sub hF rfl

theorem keeps_skipEntries {F : Nat} {s0 : State} (hF : F &&& 0x380040 = 0) (p : Nat) : ∀ (n : Nat) {s : State}, Keeps F s0 s → Keeps F s0 (s.skipEntries p n)
  | 0, _, h => h
  | n + 1, s, h => by
    unfold State.skipEntries
    split
    · exact h
    · rename_i k s1 e
      have h1 : Keeps F s0 s1 := keeps_nextPkt e h
      split
      · exact h
      · extract_lets st s2
        have h2 : Keeps F s0 s2 := by
          subst s2; split
          · exact keeps_seePacket h1 _ _
          · exact h1
        exact keeps_skipEntries (mask_sub hF rfl) p n h2

theorem keeps_takeEntry {F : Nat} {s0 s : State} (h0 : Keeps F s0 s) (port : Nat) (f : Pkt → Bool) (act : State → Nat → Pkt → State) (h_act : ∀ u a0 a1, Keeps F s0 u → Keeps F s0 (act u a0 a1)) (hF : F &&& 0x380040 = 0 := by exact mask_sub (by assumption) rfl) : Keeps F s0 (State.takeEntry s port f act) := by
  unfold State.takeEntry
  with_reducible repeat' first
    | (extract_lets +onlyGivenNames x; refine keeps_let (F := F) (s0 := s0) (x := x) (fun _ => ?_) ?_; rotate_left; subst x; rotate_left; clear_value x)
    | (extract_lets +onlyGivenNames x; clear_value x) | (intro _) | assumption
    | (apply keeps_skipEntries (by exact mask_sub (by assumption) rfl)) | (refine keeps_nextPkt (by assumption) ?_) | apply h_act | split
    | exact mask_sub hF rfl | (refine keeps_of_pair (by assumption) ?_)

theorem keeps_frameStamp {F : Nat} {s0 s : State} (h0 : Keeps F s0 s) (st : Nat) (k : Pkt) (hF : F &&& 0x300000 = 0 := by exact mask_sub (by assumption) rfl) : Keeps F s0 (State.frameStamp s st k).1 := by
  unfold State.frameStamp
  with_reducible repeat' first
    | (intro _)
    | (extract_lets +onlyGivenNames x; refine keeps_let (F := F) (s0 := s0) (x := x) (fun _ => ?_) ?_; rotate_left; subst x; rotate_left; clear_value x)
    | (extract_lets +onlyGivenNames x; clear_value x) | assumption | apply keeps_seePacket | apply keeps_updSis | exact mask_sub hF rfl

theorem keeps_execFrameStart {F : Nat} {s0 s : State} (h0 : Keeps F s0 s) (port : Nat) (hF : F &&& 0x4000000047fc0e8 = 0 := by exact mask_sub (by assumption) rfl) : ResKeeps F s0 (execFrameStart port s) := by
  unfold execFrameStart
  with_reducible repeat' first
    | (intro _) | assumption | apply ResKeeps.next | apply keeps_takeEntry | apply keeps_takeStart | exact mask_sub hF rfl

theorem keeps_execFrameEnd {F : Nat} {s0 s : State} (h0 : Keeps F s0 s) (port : Nat) (hF : F &&& 0x3c0040 = 0 := by exact mask_sub (by assumption) rfl) : ResKeeps F s0 (execFrameEnd port s) := by
  unfold execFrameEnd
  with_reducible repeat' first
    | (intro _)
    | (extract_lets +onlyGivenNames x; refine keeps_let (F := F) (s0 := s0) (x := x) (fun _ => ?_) ?_; rotate_left; subst x; rotate_left; clear_value x)
    | (extract_lets +onlyGivenNames x; refine keeps_let1 (F := F) (s0 := s0) (x := x) (fun _ => ?_) ?_; rotate_left; subst x; rotate_left; clear_value x)
    | (extract_lets +onlyGivenNames x; clear_value x) | (extract_lets +onlyGivenNames x; subst x) | assumption | apply ResKeeps.next
    | apply keeps_takeEntry | apply keeps_frameStamp | apply keeps_closeFrame | apply keeps_inc | split | exact mask_sub hF rfl
    | (refine keeps_of_pair (by assumption) ?_)

theorem keeps_takeLine {F : Nat} {s0 s : State} (h0 : Keeps F s0 s) (st : Nat) (k : Pkt) (hF : F &&& 0x340040 = 0 := by exact mask_sub (by assumption) rfl) : Keeps F s0 (State.takeLine s st k) := by
  unfold State.takeLine
  with_reducible repeat' first
    | (intro _)
    | (extract_lets +onlyGivenNames x; refine keeps_let (F := F) (s0 := s0) (x := x) (fun _ => ?_) ?_; rotate_left; subst x; rotate_left; clear_value x)
    | (extract_lets +onlyGivenNames x; refine keeps_let1 (F := F) (s0 := s0) (x := x) (fun _ => ?_) ?_; rotate_left; subst x; rotate_left; clear_value x)
    | (extract_lets +onlyGivenNames x; clear_value x) | (extract_lets +onlyGivenNames x; subst x) | assumption | apply keeps_setSis
    | apply keeps_inc | apply keeps_siEvent | apply keeps_frameStamp | apply keeps_addSat | apply keeps_wrFld | apply keeps_iselPulse
    | split | exact mask_sub hF rfl | (refine keeps_of_pair (by assumption) ?_)

theorem keeps_execImageLine {F : Nat} {s0 s : State} (h0 : Keeps F s0 s) (port : Nat) (hF : F &&& 0x3c0040 = 0 := by exact mask_sub (by assumption) rfl) : ResKeeps F s0 (execImageLine port s) := by
  unfold execImageLine
  with_reducible repeat' first
    | (intro _)
    | (extract_lets +onlyGivenNames x; refine keeps_let (F := F) (s0 := s0) (x := x) (fun _ => ?_) ?_; rotate_left; subst x; rotate_left; clear_value x)
    | (extract_lets +onlyGivenNames x; clear_value x) | assumption | apply ResKeeps.next | apply keeps_takeEntry | apply keeps_inc
    | apply keeps_takeLine | split | exact mask_sub hF rfl

theorem keeps_execGenericShortPacket {F : Nat} {s0 s : State} (h0 : Keeps F s0 s) (port : Nat) (hF : F &&& 0x4000000043fc068 = 0 := by exact mask_sub (by assumption) rfl) : ResKeeps F s0 (execGenericShortPacket port s) := by
  unfold execGenericShortPacket
  with_reducible repeat' first
    | (intro _)
    | (extract_lets +onlyGivenNames x; refine keeps_let (F := F) (s0 := s0) (x := x) (fun _ => ?_) ?_; rotate_left; subst x; rotate_left; clear_value x)
    | (extract_lets +onlyGivenNames x; clear_value x) | assumption | apply ResKeeps.next | apply keeps_takeEntry | apply keeps_seePacket
    | apply keeps_frameRec | split | exact mask_sub hF rfl

theorem keeps_execSidePacket {F : Nat} {s0 s : State} (h0 : Keeps F s0 s) (port : Nat) (hF : F &&& 0x4000000043fc068 = 0 := by exact mask_sub (by assumption) rfl) : ResKeeps F s0 (execSidePacket port s) := by
  unfold execSidePacket
  with_reducible repeat' first
    | (intro _)
    | (extract_lets +onlyGivenNames x; refine keeps_let (F := F) (s0 := s0) (x := x) (fun _ => ?_) ?_; rotate_left; subst x; rotate_left; clear_value x)
    | (extract_lets +onlyGivenNames x; refine keeps_let1 (F := F) (s0 := s0) (x := x) (fun _ => ?_) ?_; rotate_left; subst x; rotate_left; clear_value x)
    | (extract_lets +onlyGivenNames x; clear_value x) | (extract_lets +onlyGivenNames x; subst x) | assumption | apply ResKeeps.next
    | apply keeps_takeEntry | apply keeps_frameStamp | apply keeps_frameRec | split | exact mask_sub hF rfl
    | (refine keeps_of_pair (by assumption) ?_)

theorem keeps_execBreakEntry {F : Nat} {s0 s : State} (h0 : Keeps F s0 s) (port : Nat) (hF : F &&& 0x3c0040 = 0 := by exact mask_sub (by assumption) rfl) : ResKeeps F s0 (execBreakEntry port s) := by
  unfold execBreakEntry
  with_reducible repeat' first
    | (intro _)
    | (extract_lets +onlyGivenNames x; refine keeps_let (F := F) (s0 := s0) (x := x) (fun _ => ?_) ?_; rotate_left; subst x; rotate_left; clear_value x)
    | (extract_lets +onlyGivenNames x; clear_value x) | assumption | apply ResKeeps.next | apply keeps_takeEntry | apply keeps_closeFrame
    | apply keeps_inc | apply keeps_siEvent | split | exact mask_sub hF rfl

theorem keeps_execFrameTimeout {F : Nat} {s0 s : State} (h0 : Keeps F s0 s) (stream : Nat) (hF : F &&& 0x340040 = 0 := by exact mask_sub (by assumption) rfl) : ResKeeps F s0 (execFrameTimeout stream s) := by
  unfold execFrameTimeout
  with_reducible repeat' first
    | (extract_lets +onlyGivenNames x; refine keeps_let (F := F) (s0 := s0) (x := x) (fun _ => ?_) ?_; rotate_left; subst x; rotate_left; clear_value x)
    | (extract_lets +onlyGivenNames x; clear_value x) | (intro _) | assumption | apply ResKeeps.next | apply keeps_closeFrame | split
    | exact mask_sub hF rfl

theorem keeps_siApply {F : Nat} {s0 s : State} (h0 : Keeps F s0 s) (st : Nat) (oldCtl : Word) (oldBind : Word) (hF : F &&& 0x340040 = 0 := by exact mask_sub (by assumption) rfl) : Keeps F s0 (State.siApply s st oldCtl oldBind) := by
  unfold State.siApply
  with_reducible repeat' first
    | (intro _)
    | (extract_lets +onlyGivenNames x; refine keeps_let (F := F) (s0 := s0) (x := x) (fun _ => ?_) ?_; rotate_left; subst x; rotate_left; clear_value x)
    | (extract_lets +onlyGivenNames x; clear_value x) | assumption | apply keeps_closeFrame | apply keeps_updSis | apply keeps_wrN
    | apply keeps_clrBit | apply keeps_setBit | apply keeps_bindEnd | apply keeps_putBit | split | exact mask_sub hF rfl

theorem keeps_siCommitAll {F : Nat} {s0 s : State} (h0 : Keeps F s0 s) (sts : List Nat) (hF : F &&& 0x4000000003400c0 = 0 := by exact mask_sub (by assumption) rfl) : Keeps F s0 (State.siCommitAll s sts) := by
  unfold State.siCommitAll
  with_reducible repeat' first
    | (intro _) | assumption | apply keeps_forEach | apply keeps_undirty | apply keeps_commitRegs | apply keeps_wrFld
    | apply keeps_siApply | exact mask_sub hF rfl

theorem keeps_siRefuse {F : Nat} {s0 s : State} (h0 : Keeps F s0 s) (sts : List Nat) (req : Nat) (c : Nat) (hF : F &&& 0x40 = 0 := by exact mask_sub (by assumption) rfl) : Keeps F s0 (State.siRefuse s sts req c) := by
  unfold State.siRefuse
  with_reducible repeat' first
    | (intro _) | assumption | apply keeps_forEach | apply keeps_wrFld | apply keeps_logRefused | exact mask_sub hF rfl

theorem keeps_execSiCommit {F : Nat} {s0 s : State} (h0 : Keeps F s0 s) (stream : Nat) (req : Nat) (v : Nat) (hF : F &&& 0x4000000003400d0 = 0 := by exact mask_sub (by assumption) rfl) : ResKeeps F s0 (execSiCommit stream req v s) := by
  unfold execSiCommit
  with_reducible repeat' first
    | (intro _)
    | (extract_lets +onlyGivenNames x; refine keeps_let (F := F) (s0 := s0) (x := x) (fun _ => ?_) ?_; rotate_left; subst x; rotate_left; clear_value x)
    | (extract_lets +onlyGivenNames x; clear_value x) | assumption | apply ResKeeps.next | apply keeps_onKey | apply keeps_siCommitAll
    | apply keeps_siRefuse | split | exact mask_sub hF rfl

theorem keeps_plSteps {F : Nat} {s0 s : State} (h0 : Keeps F s0 s) (n : Nat) (hF : F &&& 0x40 = 0 := by exact mask_sub (by assumption) rfl) : Keeps F s0 (State.plSteps s n) := by
  unfold State.plSteps
  with_reducible repeat' first
    | (intro _)
    | (extract_lets +onlyGivenNames x; refine keeps_let (F := F) (s0 := s0) (x := x) (fun _ => ?_) ?_; rotate_left; subst x; rotate_left; clear_value x)
    | (extract_lets +onlyGivenNames x; clear_value x) | assumption | apply keeps_forEach | apply keeps_wrN | exact mask_sub hF rfl

theorem keeps_plTake {F : Nat} {s0 s : State} (h0 : Keeps F s0 s) (n : Nat) (hF : F &&& 0x4000000002000c0 = 0 := by exact mask_sub (by assumption) rfl) : Keeps F s0 (State.plTake s n) := by
  unfold State.plTake
  with_reducible repeat' first
    | (intro _)
    | (extract_lets +onlyGivenNames x; refine keeps_let (F := F) (s0 := s0) (x := x) (fun _ => ?_) ?_; rotate_left; subst x; rotate_left; clear_value x)
    | (extract_lets +onlyGivenNames x; clear_value x) | assumption | apply keeps_undirty | apply keeps_wrFld | apply keeps_plSteps
    | apply keeps_plApply | apply keeps_setPipe | apply keeps_paStat | split | exact mask_sub hF rfl
    | (refine keeps_of_pair (by assumption) ?_)

theorem keeps_plRefuse {F : Nat} {s0 s : State} (h0 : Keeps F s0 s) (n : Nat) (req : Nat) (r : Nat × Nat) (hF : F &&& 0x40 = 0 := by exact mask_sub (by assumption) rfl) : Keeps F s0 (State.plRefuse s n req r) := by
  unfold State.plRefuse
  with_reducible repeat' first
    | (extract_lets +onlyGivenNames x; refine keeps_let (F := F) (s0 := s0) (x := x) (fun _ => ?_) ?_; rotate_left; subst x; rotate_left; clear_value x)
    | (extract_lets +onlyGivenNames x; clear_value x) | (intro _) | assumption | apply keeps_wrFld | apply keeps_setBit
    | apply keeps_logRefused | split | exact mask_sub hF rfl

theorem keeps_execPlCommit {F : Nat} {s0 s : State} (h0 : Keeps F s0 s) (pipe : Nat) (req : Nat) (v : Nat) (hF : F &&& 0x4000000002000d0 = 0 := by exact mask_sub (by assumption) rfl) : ResKeeps F s0 (execPlCommit pipe req v s) := by
  unfold execPlCommit
  with_reducible repeat' first
    | (intro _)
    | (extract_lets +onlyGivenNames x; refine keeps_let (F := F) (s0 := s0) (x := x) (fun _ => ?_) ?_; rotate_left; subst x; rotate_left; clear_value x)
    | (extract_lets +onlyGivenNames x; clear_value x) | assumption | apply ResKeeps.next | apply keeps_onKey | apply keeps_plRefuse
    | apply keeps_wrFld | apply keeps_plTake | split | exact mask_sub hF rfl

theorem keeps_execPaFlush {F : Nat} {s0 s : State} (h0 : Keeps F s0 s) (pipe : Nat) (req : Nat) (v : Nat) (hF : F &&& 0x200050 = 0 := by exact mask_sub (by assumption) rfl) : ResKeeps F s0 (execPaFlush pipe req v s) := by
  unfold execPaFlush
  with_reducible repeat' first
    | (intro _) | assumption | apply ResKeeps.next | apply keeps_onKey | apply keeps_paDiscard | split | exact mask_sub hF rfl

theorem keeps_execPaCtlWrite {F : Nat} {s0 s : State} (h0 : Keeps F s0 s) (pipe : Nat) (req : Nat) (v : Nat) (hF : F &&& 0x200050 = 0 := by exact mask_sub (by assumption) rfl) : ResKeeps F s0 (execPaCtlWrite pipe req v s) := by
  unfold execPaCtlWrite
  with_reducible repeat' first
    | (intro _)
    | (extract_lets +onlyGivenNames x; refine keeps_let (F := F) (s0 := s0) (x := x) (fun _ => ?_) ?_; rotate_left; subst x; rotate_left; clear_value x)
    | (extract_lets +onlyGivenNames x; clear_value x) | assumption | apply ResKeeps.next | apply keeps_onKey | apply keeps_wrFld
    | apply keeps_paDiscard | split | exact mask_sub hF rfl

theorem keeps_execFsTimeRead {F : Nat} {s0 s : State} (h0 : Keeps F s0 s) (stream : Nat) (req : Nat) (hF : F &&& 0x150 = 0 := by exact mask_sub (by assumption) rfl) : ResKeeps F s0 (execFsTimeRead stream req s) := by
  unfold execFsTimeRead
  with_reducible repeat' first
    | (intro _)
    | (extract_lets +onlyGivenNames x; refine keeps_let (F := F) (s0 := s0) (x := x) (fun _ => ?_) ?_; rotate_left; subst x; rotate_left; clear_value x)
    | (extract_lets +onlyGivenNames x; clear_value x) | assumption | apply ResKeeps.next | apply keeps_onKey | apply keeps_latch
    | apply keeps_respond | exact mask_sub hF rfl

end Sys2Proof.Machine
end

