-- ==== Sys2Proof/Laws/KeepsPipe.lean ====
section
/-! SUPPORT. What the operations of Machine/Pipe.lean keep (`Keeps`), one lemma each. -/
namespace Sys2Proof.Machine
set_option Elab.async false

theorem keeps_pselPulse {F : Nat} {s0 s : State} (h0 : Keeps F s0 s) (n : Nat) (i : Nat) (hF : F &&& 0x40000 = 0 := by exact mask_sub (by assumption) rfl) : Keeps F s0 (State.pselPulse s n i) := by
  unfold State.pselPulse
  with_reducible repeat' first
    | assumption | apply keeps_pulse | split | exact mask_sub hF rfl

theorem keeps_dropJobs {F : Nat} {s0 s : State} (h0 : Keeps F s0 s) (n : Nat) (hF : F &&& 0x200000 = 0 := by exact mask_sub (by assumption) rfl) : Keeps F s0 (State.dropJobs s n) := by
  unfold State.dropJobs
  with_reducible repeat' first
    | (intro _) | assumption | apply keeps_updPipe | exact mask_sub hF rfl

theorem keeps_tapClose {F : Nat} {s0 s : State} (h0 : Keeps F s0 s) (n : Nat) (st : Nat) (frame : Nat) (k : Nat) (hF : F &&& 0x40000000427c068 = 0 := by exact mask_sub (by assumption) rfl) : Keeps F s0 (State.tapClose s n st frame k) := by
  unfold State.tapClose
  with_reducible repeat' first
    | (intro _)
    | (extract_lets +onlyGivenNames x; refine keeps_let (F := F) (s0 := s0) (x := x) (fun _ => ?_) ?_; rotate_left; subst x; rotate_left; clear_value x)
    | (extract_lets +onlyGivenNames x; clear_value x) | assumption | apply keeps_updJob | apply keeps_closeRec | apply keeps_pselPulse
    | split | exact mask_sub hF rfl | (refine keeps_of_pair (by assumption) ?_)

theorem keeps_tapPut {F : Nat} {s0 s : State} (h0 : Keeps F s0 s) (n : Nat) (st : Nat) (frame : Nat) (k : Nat) (row : Row) (hF : F &&& 0x40000000627c068 = 0 := by exact mask_sub (by assumption) rfl) : Keeps F s0 (State.tapPut s n st frame k row) := by
  unfold State.tapPut
  with_reducible repeat' first
    | (intro _)
    | (extract_lets +onlyGivenNames x; refine keeps_let (F := F) (s0 := s0) (x := x) (fun _ => ?_) ?_; rotate_left; subst x; rotate_left; clear_value x)
    | (extract_lets +onlyGivenNames x; clear_value x) | assumption | apply keeps_tapClose | apply keeps_updJob | apply keeps_growRec
    | split | exact mask_sub hF rfl | (refine keeps_of_pair (by assumption) ?_)

theorem keeps_eccLine {F : Nat} {s0 s : State} (h0 : Keeps F s0 s) (n : Nat) (st : Nat) (frame : Nat) (y : Nat) (hF : F &&& 0x200040 = 0 := by exact mask_sub (by assumption) rfl) : Keeps F s0 (State.eccLine s n st frame y) := by
  unfold State.eccLine
  with_reducible repeat' first
    | (intro _) | assumption | apply keeps_updJob | apply keeps_inc | apply keeps_setBit | split | exact mask_sub hF rfl
    | (refine keeps_of_pair (by assumption) ?_)

theorem keeps_formD {F : Nat} {s0 s : State} (h0 : Keeps F s0 s) (n : Nat) (st : Nat) (frame : Nat) (r : Row) (hF : F &&& 0x40000000627c068 = 0 := by exact mask_sub (by assumption) rfl) : Keeps F s0 (State.formD s n st frame r) := by
  unfold State.formD
  with_reducible repeat' first
    | (intro _)
    | (extract_lets +onlyGivenNames x; refine keeps_let (F := F) (s0 := s0) (x := x) (fun _ => ?_) ?_; rotate_left; subst x; (try dsimp -zeta only); rotate_left; clear_value x)
    | (extract_lets +onlyGivenNames x; refine keeps_letF (F := F) (s0 := s0) (x := x) (fun hf => ?_) ?_; rotate_left; subst x; (try dsimp -zeta only); rotate_left; clear_value x)
    | (extract_lets +onlyGivenNames x; refine keeps_letF2 (F := F) (s0 := s0) (x := x) (fun hf => ?_) ?_; rotate_left; subst x; (try dsimp -zeta only); rotate_left; clear_value x)
    | (extract_lets +onlyGivenNames x; refine keeps_letN (F := F) (s0 := s0) (x := x) (fun hf => ?_) ?_; rotate_left; subst x; (try dsimp -zeta only); rotate_left; clear_value x)
    | (extract_lets +onlyGivenNames x; clear_value x) | assumption | apply keeps_updJob | apply keeps_addSat | apply keeps_eccLine
    | apply keeps_tapPut | apply hf | split | exact mask_sub hF rfl | (refine keeps_of_pair (by assumption) ?_)

theorem keeps_finStat {F : Nat} {s0 s : State} (h0 : Keeps F s0 s) (n : Nat) (hF : F &&& 0x40 = 0 := by exact mask_sub (by assumption) rfl) : Keeps F s0 (State.finStat s n) := by
  unfold State.finStat
  with_reducible repeat' first
    | assumption | apply keeps_wrFld | exact mask_sub hF rfl

theorem keeps_finPut {F : Nat} {s0 s : State} (h0 : Keeps F s0 s) (n : Nat) (st : Nat) (frame : Nat) (y : Nat) (hF : F &&& 0x200040 = 0 := by exact mask_sub (by assumption) rfl) : Keeps F s0 (State.finPut s n st frame y) := by
  unfold State.finPut
  with_reducible repeat' first
    | (intro _) | assumption | apply keeps_updJob | apply keeps_inc | apply keeps_setBit | apply keeps_finStat | split
    | exact mask_sub hF rfl | (refine keeps_of_pair (by assumption) ?_)

theorem keeps_formY {F : Nat} {s0 s : State} (h0 : Keeps F s0 s) (n : Nat) (st : Nat) (frame : Nat) (r : Row) (hF : F &&& 0x40000000627c068 = 0 := by exact mask_sub (by assumption) rfl) : Keeps F s0 (State.formY s n st frame r) := by
  unfold State.formY
  with_reducible repeat' first
    | (intro _)
    | (extract_lets +onlyGivenNames x; refine keeps_let (F := F) (s0 := s0) (x := x) (fun _ => ?_) ?_; rotate_left; subst x; rotate_left; clear_value x)
    | (extract_lets +onlyGivenNames x; clear_value x) | assumption | apply keeps_updJob | apply keeps_addSat | apply keeps_eccLine
    | apply keeps_tapPut | apply keeps_finPut | split | exact mask_sub hF rfl | (refine keeps_of_pair (by assumption) ?_)

theorem keeps_formQ {F : Nat} {s0 s : State} (h0 : Keeps F s0 s) (n : Nat) (st : Nat) (frame : Nat) (jn : Nat) (hF : F &&& 0x40000000627c068 = 0 := by exact mask_sub (by assumption) rfl) : Keeps F s0 (State.formQ s n st frame jn) := by
  unfold State.formQ
  with_reducible repeat' first
    | (intro _)
    | (extract_lets +onlyGivenNames x; refine keeps_let (F := F) (s0 := s0) (x := x) (fun _ => ?_) ?_; rotate_left; subst x; rotate_left; clear_value x)
    | (extract_lets +onlyGivenNames x; clear_value x) | assumption | apply keeps_updJob | apply keeps_eccLine | apply keeps_tapPut | split
    | exact mask_sub hF rfl | (refine keeps_of_pair (by assumption) ?_)

theorem keeps_formDue {F : Nat} {s0 s : State} (h0 : Keeps F s0 s) (n : Nat) (st : Nat) (frame : Nat) (m : Nat) (hF : F &&& 0x40000000627c068 = 0 := by exact mask_sub (by assumption) rfl) : Keeps F s0 (State.formDue s n st frame m) := by
  unfold State.formDue
  with_reducible repeat' first
    | (intro _)
    | (extract_lets +onlyGivenNames x; refine keeps_let (F := F) (s0 := s0) (x := x) (fun _ => ?_) ?_; rotate_left; subst x; rotate_left; clear_value x)
    | (extract_lets +onlyGivenNames x; clear_value x) | assumption | apply keeps_forEach | apply keeps_formD | apply keeps_formY
    | apply keeps_formQ | split | exact mask_sub hF rfl | (refine keeps_of_pair (by assumption) ?_)

theorem keeps_bufRead {F : Nat} {s0 s : State} (h0 : Keeps F s0 s) (n : Nat) (st : Nat) (frame : Nat) (e : Option BufErr) (hF : F &&& 0x200040 = 0 := by exact mask_sub (by assumption) rfl) : Keeps F s0 (State.bufRead s n st frame e) := by
  unfold State.bufRead
  with_reducible repeat' first
    | (intro _)
    | (extract_lets +onlyGivenNames x; refine keeps_let (F := F) (s0 := s0) (x := x) (fun _ => ?_) ?_; rotate_left; subst x; rotate_left; clear_value x)
    | (extract_lets +onlyGivenNames x; clear_value x) | assumption | apply keeps_updJob | apply keeps_eccLine | split
    | exact mask_sub hF rfl | (refine keeps_of_pair (by assumption) ?_)

theorem keeps_execPipelineLine {F : Nat} {s0 s : State} (h0 : Keeps F s0 s) (pipe : Nat) (asRead : Option (List Byte)) (bufErr : Option BufErr) (hF : F &&& 0x40000000637c068 = 0 := by exact mask_sub (by assumption) rfl) : ResKeeps F s0 (execPipelineLine pipe asRead bufErr s) := by
  unfold execPipelineLine
  with_reducible repeat' first
    | (intro _)
    | (extract_lets +onlyGivenNames x; refine keeps_let (F := F) (s0 := s0) (x := x) (fun _ => ?_) ?_; rotate_left; subst x; rotate_left; clear_value x)
    | (extract_lets +onlyGivenNames x; clear_value x) | assumption | apply ResKeeps.next | apply keeps_updSis
    | (apply keeps_drainSide (by exact mask_sub (by assumption) rfl)) | apply keeps_inc | apply keeps_siEvent | apply keeps_eccLine
    | apply keeps_bufRead | apply keeps_updJob | apply keeps_tapPut | apply keeps_formDue | split | exact mask_sub hF rfl
    | (refine keeps_of_pair (by assumption) ?_)

theorem keeps_statsOf {F : Nat} {s0 s : State} (h0 : Keeps F s0 s) (n : Nat) (st : Nat) (frame : Nat) (fe : FrameEnd) (hF : F &&& 0x40000000407c068 = 0 := by exact mask_sub (by assumption) rfl) : Keeps F s0 (State.statsOf s n st frame fe) := by
  unfold State.statsOf
  with_reducible repeat' first
    | (intro _)
    | (extract_lets +onlyGivenNames x; refine keeps_let (F := F) (s0 := s0) (x := x) (fun _ => ?_) ?_; rotate_left; subst x; (try dsimp -zeta only); rotate_left; clear_value x)
    | (extract_lets +onlyGivenNames x; refine keeps_letF (F := F) (s0 := s0) (x := x) (fun hf => ?_) ?_; rotate_left; subst x; (try dsimp -zeta only); rotate_left; clear_value x)
    | (extract_lets +onlyGivenNames x; refine keeps_letF2 (F := F) (s0 := s0) (x := x) (fun hf => ?_) ?_; rotate_left; subst x; (try dsimp -zeta only); rotate_left; clear_value x)
    | (extract_lets +onlyGivenNames x; refine keeps_letN (F := F) (s0 := s0) (x := x) (fun hf => ?_) ?_; rotate_left; subst x; (try dsimp -zeta only); rotate_left; clear_value x)
    | (extract_lets +onlyGivenNames x; clear_value x) | assumption | apply keeps_closeRec | apply keeps_setBit | apply keeps_pselPulse
    | apply hf | split | exact mask_sub hF rfl | (refine keeps_of_pair (by assumption) ?_)

theorem keeps_execPipelineFrameDone {F : Nat} {s0 s : State} (h0 : Keeps F s0 s) (pipe : Nat) (bufErr : Option BufErr) (hF : F &&& 0x40000000677c0e8 = 0 := by exact mask_sub (by assumption) rfl) : ResKeeps F s0 (execPipelineFrameDone pipe bufErr s) := by
  unfold execPipelineFrameDone
  with_reducible repeat' first
    | (intro _)
    | (extract_lets +onlyGivenNames x; refine keeps_let (F := F) (s0 := s0) (x := x) (fun _ => ?_) ?_; rotate_left; subst x; rotate_left; clear_value x)
    | (extract_lets +onlyGivenNames x; clear_value x) | assumption | apply ResKeeps.next | apply keeps_updSis | apply keeps_bufRead
    | apply keeps_formDue | apply keeps_forEach | apply keeps_tapClose | apply keeps_statsOf | apply keeps_closeRec | apply keeps_updJob
    | apply keeps_dropJobs | apply keeps_startWaiting | split | exact mask_sub hF rfl | (refine keeps_of_pair (by assumption) ?_)

theorem keeps_bandClose {F : Nat} {s0 s : State} (h0 : Keeps F s0 s) (n : Nat) (st : Nat) (frame : Nat) (k : Nat) (last : Bool) (cut : Bool) (hF : F &&& 0x40000000427c068 = 0 := by exact mask_sub (by assumption) rfl) : Keeps F s0 (State.bandClose s n st frame k last cut) := by
  unfold State.bandClose
  with_reducible repeat' first
    | (intro _)
    | (extract_lets +onlyGivenNames x; refine keeps_let (F := F) (s0 := s0) (x := x) (fun _ => ?_) ?_; rotate_left; subst x; rotate_left; clear_value x)
    | (extract_lets +onlyGivenNames x; clear_value x) | assumption | apply keeps_updJob | apply keeps_closeRec | split
    | exact mask_sub hF rfl | (refine keeps_of_pair (by assumption) ?_)

theorem keeps_outForm {F : Nat} {s0 s : State} (h0 : Keeps F s0 s) (n : Nat) (st : Nat) (frame : Nat) (k : Nat) (hF : F &&& 0x40000000627c068 = 0 := by exact mask_sub (by assumption) rfl) : Keeps F s0 (State.outForm s n st frame k) := by
  unfold State.outForm
  with_reducible repeat' first
    | (intro _)
    | (extract_lets +onlyGivenNames x; refine keeps_let (F := F) (s0 := s0) (x := x) (fun _ => ?_) ?_; rotate_left; subst x; rotate_left; clear_value x)
    | (extract_lets +onlyGivenNames x; clear_value x) | assumption | apply keeps_bandClose | apply keeps_skipFree | apply keeps_updJob
    | apply keeps_growRec | apply keeps_inc | split | exact mask_sub hF rfl | (refine keeps_of_pair (by assumption) ?_)

theorem keeps_outDue {F : Nat} {s0 : State} (hF : F &&& 0x40000000627c068 = 0) (n st frame k : Nat) (all : Bool) : ∀ (fuel : Nat) {s : State}, Keeps F s0 s →
    Keeps F s0 (State.outDue n st frame k all fuel s)
  | 0, _, h => h
  | fuel + 1, s, h => by
    unfold State.outDue
    split
    · exact h
    · extract_lets g jn ir
      split
      · exact keeps_outDue (mask_sub hF rfl) n st frame k all fuel (keeps_outForm h _ _ _ _)
      · exact h

theorem keeps_execFinLineTake {F : Nat} {s0 s : State} (h0 : Keeps F s0 s) (die : Nat) (bufErr : Option BufErr) (hF : F &&& 0x40000000627c068 = 0 := by exact mask_sub (by assumption) rfl) : ResKeeps F s0 (execFinLineTake die bufErr s) := by
  unfold execFinLineTake
  with_reducible repeat' first
    | (intro _)
    | (extract_lets +onlyGivenNames x; refine keeps_let (F := F) (s0 := s0) (x := x) (fun _ => ?_) ?_; rotate_left; subst x; rotate_left; clear_value x)
    | (extract_lets +onlyGivenNames x; clear_value x) | assumption | apply ResKeeps.next | apply keeps_updJob | apply keeps_finStat
    | apply keeps_forEach | apply keeps_outDue | split | exact mask_sub hF rfl | (refine keeps_of_pair (by assumption) ?_)

theorem keeps_execFinFrameDone {F : Nat} {s0 s : State} (h0 : Keeps F s0 s) (pipe : Nat) (bufErr : Option BufErr) (hF : F &&& 0x40000000627c068 = 0 := by exact mask_sub (by assumption) rfl) : ResKeeps F s0 (execFinFrameDone pipe bufErr s) := by
  unfold execFinFrameDone
  with_reducible repeat' first
    | (intro _)
    | (extract_lets +onlyGivenNames x; refine keeps_let (F := F) (s0 := s0) (x := x) (fun _ => ?_) ?_; rotate_left; subst x; (try dsimp -zeta only); rotate_left; clear_value x)
    | (extract_lets +onlyGivenNames x; refine keeps_letF (F := F) (s0 := s0) (x := x) (fun hf => ?_) ?_; rotate_left; subst x; (try dsimp -zeta only); rotate_left; clear_value x)
    | (extract_lets +onlyGivenNames x; refine keeps_letF2 (F := F) (s0 := s0) (x := x) (fun hf => ?_) ?_; rotate_left; subst x; (try dsimp -zeta only); rotate_left; clear_value x)
    | (extract_lets +onlyGivenNames x; refine keeps_letN (F := F) (s0 := s0) (x := x) (fun hf => ?_) ?_; rotate_left; subst x; (try dsimp -zeta only); rotate_left; clear_value x)
    | (extract_lets +onlyGivenNames x; clear_value x) | assumption | apply ResKeeps.next | apply keeps_updJob | apply keeps_dropJobs
    | apply keeps_forEach | apply keeps_outDue | apply keeps_bandClose | apply keeps_inc | apply keeps_setBit | apply keeps_pselPulse
    | apply keeps_addSat | apply hf | split | exact mask_sub hF rfl | (refine keeps_of_pair (by assumption) ?_)

theorem keeps_cutJob {F : Nat} {s0 s : State} (h0 : Keeps F s0 s) (n : Nat) (j : Job) (hF : F &&& 0x40000000427c068 = 0 := by exact mask_sub (by assumption) rfl) : Keeps F s0 (State.cutJob s n j) := by
  unfold State.cutJob
  with_reducible repeat' first
    | (intro _)
    | (extract_lets +onlyGivenNames x; refine keeps_let (F := F) (s0 := s0) (x := x) (fun _ => ?_) ?_; rotate_left; subst x; rotate_left; clear_value x)
    | (extract_lets +onlyGivenNames x; clear_value x) | assumption | apply keeps_forEach | apply keeps_tapClose | apply keeps_bandClose
    | apply keeps_inc | apply keeps_addSat | apply keeps_updJob | split | exact mask_sub hF rfl

theorem keeps_execPlReset {F : Nat} {s0 s : State} (h0 : Keeps F s0 s) (pipe : Nat) (req : Nat) (v : Nat) (hF : F &&& 0x40000000427c078 = 0 := by exact mask_sub (by assumption) rfl) : ResKeeps F s0 (execPlReset pipe req v s) := by
  unfold execPlReset
  with_reducible repeat' first
    | (intro _) | assumption | apply ResKeeps.next | apply keeps_onKey | apply keeps_forEach | apply keeps_cutJob | apply keeps_dropJobs
    | apply keeps_finStat | apply keeps_inc | apply keeps_setBit | split | exact mask_sub hF rfl

theorem keeps_execMapWrite {F : Nat} {s0 s : State} (h0 : Keeps F s0 s) (pipe : Nat) (bank : Nat) (entry : Nat) (req : Nat) (v : Nat) (hF : F &&& 0x50 = 0 := by exact mask_sub (by assumption) rfl) : ResKeeps F s0 (execMapWrite pipe bank entry req v s) := by
  unfold execMapWrite
  with_reducible repeat' first
    | (intro _)
    | (extract_lets +onlyGivenNames x; refine keeps_let (F := F) (s0 := s0) (x := x) (fun _ => ?_) ?_; rotate_left; subst x; rotate_left; clear_value x)
    | (extract_lets +onlyGivenNames x; clear_value x) | assumption | apply ResKeeps.next | apply keeps_onKey | apply keeps_setBit
    | apply keeps_wr | split | exact mask_sub hF rfl

end Sys2Proof.Machine
end

