-- ==== Sys2Proof/Laws/KeepsBasin.lean ====
section
/-! SUPPORT. What the operations of Machine/Basin.lean keep (`Keeps`), one lemma each. -/
namespace Sys2Proof.Machine
set_option Elab.async false

theorem keeps_onQueue {F : Nat} {s0 s : State} (h0 : Keeps F s0 s) (die : Nat) (q : Nat) (f : State → State) (h_f : ∀ u, Keeps F s0 u → Keeps F s0 (f u)) : Keeps F s0 (State.onQueue s die q f) := by
  unfold State.onQueue
  with_reducible repeat' first
    | assumption | apply h_f | split

theorem keeps_execCellRequest {F : Nat} {s0 s : State} (h0 : Keeps F s0 s) (die : Nat) (producers : List Nat) (hF : F &&& 0x204c048 = 0 := by exact mask_sub (by assumption) rfl) : ResKeeps F s0 (execCellRequest die producers s) := by
  unfold execCellRequest
  with_reducible repeat' first
    | (intro _)
    | (extract_lets +onlyGivenNames x; refine keeps_let (F := F) (s0 := s0) (x := x) (fun _ => ?_) ?_; rotate_left; subst x; rotate_left; clear_value x)
    | (extract_lets +onlyGivenNames x; clear_value x) | assumption | apply ResKeeps.next | apply keeps_onQueue | apply keeps_allocCycle
    | split | exact mask_sub hF rfl

theorem keeps_execRecordClose {F : Nat} {s0 s : State} (h0 : Keeps F s0 s) (die : Nat) (producer : Nat) (h : RecHdr) (payload : List Byte) (hF : F &&& 0x40000000407c068 = 0 := by exact mask_sub (by assumption) rfl) : ResKeeps F s0 (execRecordClose die producer h payload s) := by
  unfold execRecordClose
  with_reducible repeat' first
    | (intro _) | assumption | apply ResKeeps.next | apply keeps_onQueue | apply keeps_closeRec | split | exact mask_sub hF rfl

theorem keeps_execNotifyRepeat {F : Nat} {s0 s : State} (h0 : Keeps F s0 s) (die : Nat) (queue : Nat) (hF : F &&& 0x44000 = 0 := by exact mask_sub (by assumption) rfl) : ResKeeps F s0 (execNotifyRepeat die queue s) := by
  unfold execNotifyRepeat
  with_reducible repeat' first
    | (intro _)
    | (extract_lets +onlyGivenNames x; refine keeps_let (F := F) (s0 := s0) (x := x) (fun _ => ?_) ?_; rotate_left; subst x; rotate_left; clear_value x)
    | (extract_lets +onlyGivenNames x; clear_value x) | assumption | apply ResKeeps.next | apply keeps_onQueue | apply keeps_checkReady
    | apply keeps_setQueue | apply keeps_pulse | split | exact mask_sub hF rfl

theorem keeps_execQueueAgeReady {F : Nat} {s0 s : State} (h0 : Keeps F s0 s) (die : Nat) (queue : Nat) (hF : F &&& 0x44000 = 0 := by exact mask_sub (by assumption) rfl) : ResKeeps F s0 (execQueueAgeReady die queue s) := by
  unfold execQueueAgeReady
  with_reducible repeat' first
    | (intro _) | assumption | apply ResKeeps.next | apply keeps_onQueue | apply keeps_checkReady | exact mask_sub hF rfl

theorem keeps_lessRetained {F : Nat} {s0 s : State} (h0 : Keeps F s0 s) (die : Nat) (n : Nat) (hF : F &&& 0x40 = 0 := by exact mask_sub (by assumption) rfl) : Keeps F s0 (State.lessRetained s die n) := by
  unfold State.lessRetained
  with_reducible repeat' first
    | assumption | apply keeps_wrN | exact mask_sub hF rfl

theorem keeps_retLimit {F : Nat} {s0 : State} (hF : F &&& 0x4040 = 0) (die : Nat) : ∀ (fuel : Nat) {s : State}, Keeps F s0 s → Keeps F s0 (State.retLimit die fuel s)
  | 0, _, h => h
  | fuel + 1, s, h => by
    unfold State.retLimit
    split
    · exact h
    · split
      · exact h
      · extract_lets v c
        exact keeps_retLimit (mask_sub hF rfl) die fuel (keeps_setBit (keeps_inc (keeps_lessRetained (keeps_freeCells (keeps_setQueue h _ _ _) _ _) _ _) _) _ _)

theorem keeps_retireHead {F : Nat} {s0 s : State} (h0 : Keeps F s0 s) (die : Nat) (q : Nat) (hF : F &&& 0x44040 = 0 := by exact mask_sub (by assumption) rfl) : Keeps F s0 (State.retireHead s die q) := by
  unfold State.retireHead
  with_reducible repeat' first
    | (extract_lets +onlyGivenNames x; refine keeps_let (F := F) (s0 := s0) (x := x) (fun _ => ?_) ?_; rotate_left; subst x; rotate_left; clear_value x)
    | (extract_lets +onlyGivenNames x; clear_value x) | (intro _) | assumption | apply keeps_setQueue | apply keeps_freeCells
    | apply keeps_inc | apply keeps_checkReady | apply keeps_wrN | apply keeps_retLimit | split | exact mask_sub hF rfl
    | (refine keeps_of_pair (by assumption) ?_)

theorem keeps_linkFault {F : Nat} {s0 s : State} (h0 : Keeps F s0 s) (die : Nat) (q : Nat) (retained : Bool) (i : Nat) (hF : F &&& 0x4040 = 0 := by exact mask_sub (by assumption) rfl) : Keeps F s0 (State.linkFault s die q retained i) := by
  unfold State.linkFault
  with_reducible repeat' first
    | (intro _)
    | (extract_lets +onlyGivenNames x; refine keeps_let (F := F) (s0 := s0) (x := x) (fun _ => ?_) ?_; rotate_left; subst x; rotate_left; clear_value x)
    | (extract_lets +onlyGivenNames x; clear_value x) | assumption | apply keeps_lessRetained | apply keeps_setQueue | apply keeps_wrN
    | apply keeps_setBit | split | exact mask_sub hF rfl

theorem keeps_headerDrop {F : Nat} {s0 s : State} (h0 : Keeps F s0 s) (die : Nat) (q : Nat) (hF : F &&& 0x44040 = 0 := by exact mask_sub (by assumption) rfl) : Keeps F s0 (State.headerDrop s die q) := by
  unfold State.headerDrop
  with_reducible repeat' first
    | (extract_lets +onlyGivenNames x; refine keeps_let (F := F) (s0 := s0) (x := x) (fun _ => ?_) ?_; rotate_left; subst x; rotate_left; clear_value x)
    | (extract_lets +onlyGivenNames x; clear_value x) | (intro _) | assumption | apply keeps_setQueue | apply keeps_freeCells
    | apply keeps_inc | apply keeps_checkReady | split | exact mask_sub hF rfl | (refine keeps_of_pair (by assumption) ?_)

theorem keeps_popErr {F : Nat} {s0 s : State} (h0 : Keeps F s0 s) (die : Nat) (q : Nat) (err : PopErr) (hF : F &&& 0x44048 = 0 := by exact mask_sub (by assumption) rfl) : Keeps F s0 (State.popErr s die q err) := by
  unfold State.popErr
  with_reducible repeat' first
    | (intro _)
    | (extract_lets +onlyGivenNames x; refine keeps_let (F := F) (s0 := s0) (x := x) (fun _ => ?_) ?_; rotate_left; subst x; rotate_left; clear_value x)
    | (extract_lets +onlyGivenNames x; clear_value x) | assumption | apply keeps_inc | apply keeps_linkFault | apply keeps_headerDrop
    | apply keeps_setQueue | apply keeps_skipFree | apply keeps_setBit | split | exact mask_sub hF rfl
    | (refine keeps_of_pair (by assumption) ?_)

theorem keeps_popBytes {F : Nat} {s0 : State} (hF : F &&& 0x44040 = 0) (die q : Nat) : ∀ (fuel n : Nat) {s : State}, Keeps F s0 s → Keeps F s0 (State.popBytes die q fuel n s).1
  | 0, _, _, h => h
  | fuel + 1, n, s, h => by
    unfold State.popBytes
    extract_lets v
    split
    · exact h
    · split
      · exact h
      · extract_lets got
        split
        · exact keeps_setQueue h _ _ _
        · exact keeps_popBytes (mask_sub hF rfl) die q fuel _ (keeps_retireHead h _ _)

theorem keeps_execPopRead {F : Nat} {s0 s : State} (h0 : Keeps F s0 s) (die : Nat) (queue : Nat) (n : Nat) (err : PopErr) (hF : F &&& 0x44058 = 0 := by exact mask_sub (by assumption) rfl) : ResKeeps F s0 (execPopRead die queue n err s) := by
  unfold execPopRead
  with_reducible repeat' first
    | (intro _)
    | (extract_lets +onlyGivenNames x; refine keeps_let (F := F) (s0 := s0) (x := x) (fun _ => ?_) ?_; rotate_left; subst x; rotate_left; clear_value x)
    | (extract_lets +onlyGivenNames x; refine keeps_let1 (F := F) (s0 := s0) (x := x) (fun _ => ?_) ?_; rotate_left; subst x; rotate_left; clear_value x)
    | (extract_lets +onlyGivenNames x; clear_value x) | (extract_lets +onlyGivenNames x; subst x) | assumption | apply ResKeeps.next
    | apply keeps_onQueue | apply keeps_popErr | apply keeps_popBytes | apply keeps_inc | apply keeps_respond | split
    | exact mask_sub hF rfl | (refine keeps_of_pair (by assumption) ?_)

theorem keeps_ackQueue {F : Nat} {s0 s : State} (h0 : Keeps F s0 s) (die : Nat) (q : Nat) (n : Nat) (hF : F &&& 0x4040 = 0 := by exact mask_sub (by assumption) rfl) : Keeps F s0 (State.ackQueue s die q n) := by
  unfold State.ackQueue
  with_reducible repeat' first
    | (intro _)
    | (extract_lets +onlyGivenNames x; refine keeps_let (F := F) (s0 := s0) (x := x) (fun _ => ?_) ?_; rotate_left; subst x; rotate_left; clear_value x)
    | (extract_lets +onlyGivenNames x; clear_value x) | assumption | apply keeps_setQueue | apply keeps_freeCells
    | apply keeps_lessRetained | apply keeps_inc | split | exact mask_sub hF rfl

theorem keeps_execQAck {F : Nat} {s0 s : State} (h0 : Keeps F s0 s) (die : Nat) (queue : Nat) (n : Nat) (hF : F &&& 0x4040 = 0 := by exact mask_sub (by assumption) rfl) : ResKeeps F s0 (execQAck die queue n s) := by
  unfold execQAck
  with_reducible repeat' first
    | (intro _) | assumption | apply ResKeeps.next | apply keeps_onQueue | apply keeps_ackQueue | exact mask_sub hF rfl

theorem keeps_replayQueue {F : Nat} {s0 s : State} (h0 : Keeps F s0 s) (die : Nat) (q : Nat) (hF : F &&& 0x44040 = 0 := by exact mask_sub (by assumption) rfl) : Keeps F s0 (State.replayQueue s die q).1 := by
  unfold State.replayQueue
  with_reducible repeat' first
    | (intro _)
    | (extract_lets +onlyGivenNames x; refine keeps_let (F := F) (s0 := s0) (x := x) (fun _ => ?_) ?_; rotate_left; subst x; (try dsimp -zeta only); rotate_left; clear_value x)
    | (extract_lets +onlyGivenNames x; refine keeps_letF (F := F) (s0 := s0) (x := x) (fun hf => ?_) ?_; rotate_left; subst x; (try dsimp -zeta only); rotate_left; clear_value x)
    | (extract_lets +onlyGivenNames x; refine keeps_letF2 (F := F) (s0 := s0) (x := x) (fun hf => ?_) ?_; rotate_left; subst x; (try dsimp -zeta only); rotate_left; clear_value x)
    | (extract_lets +onlyGivenNames x; refine keeps_letN (F := F) (s0 := s0) (x := x) (fun hf => ?_) ?_; rotate_left; subst x; (try dsimp -zeta only); rotate_left; clear_value x)
    | (extract_lets +onlyGivenNames x; clear_value x) | assumption | apply keeps_lessRetained | apply keeps_setQueue
    | apply keeps_checkReady | apply hf | split | exact mask_sub hF rfl

theorem keeps_execQReplay {F : Nat} {s0 s : State} (h0 : Keeps F s0 s) (die : Nat) (queue : Nat) (hF : F &&& 0x44040 = 0 := by exact mask_sub (by assumption) rfl) : ResKeeps F s0 (execQReplay die queue s) := by
  unfold execQReplay
  with_reducible repeat' first
    | (intro _) | assumption | apply ResKeeps.next | apply keeps_onQueue | apply keeps_replayQueue | exact mask_sub hF rfl

theorem keeps_flushQueue {F : Nat} {s0 s : State} (h0 : Keeps F s0 s) (die : Nat) (q : Nat) (hF : F &&& 0x44040 = 0 := by exact mask_sub (by assumption) rfl) : Keeps F s0 (State.flushQueue s die q) := by
  unfold State.flushQueue
  with_reducible repeat' first
    | (intro _)
    | (extract_lets +onlyGivenNames x; refine keeps_let (F := F) (s0 := s0) (x := x) (fun _ => ?_) ?_; rotate_left; subst x; rotate_left; clear_value x)
    | (extract_lets +onlyGivenNames x; clear_value x) | assumption | apply keeps_lessRetained | apply keeps_setQueue
    | apply keeps_freeCells | apply keeps_addSat | apply keeps_checkReady | split | exact mask_sub hF rfl

theorem keeps_execQFlush {F : Nat} {s0 s : State} (h0 : Keeps F s0 s) (die : Nat) (queue : Nat) (hF : F &&& 0x44040 = 0 := by exact mask_sub (by assumption) rfl) : ResKeeps F s0 (execQFlush die queue s) := by
  unfold execQFlush
  with_reducible repeat' first
    | (intro _) | assumption | apply ResKeeps.next | apply keeps_onQueue | apply keeps_flushQueue | exact mask_sub hF rfl

theorem keeps_replayTo {F : Nat} {s0 s : State} (h0 : Keeps F s0 s) (die : Nat) (qs : List Nat) (c : Nat) (hF : F &&& 0x44040 = 0 := by exact mask_sub (by assumption) rfl) : Keeps F s0 (State.replayTo s die qs c) := by
  unfold State.replayTo
  with_reducible repeat' first
    | (intro _)
    | (extract_lets +onlyGivenNames x; refine keeps_let (F := F) (s0 := s0) (x := x) (fun _ => ?_) ?_; rotate_left; subst x; rotate_left; clear_value x)
    | (extract_lets +onlyGivenNames x; clear_value x) | assumption | apply keeps_forEach | apply keeps_replayQueue | apply keeps_wrFld
    | split | exact mask_sub hF rfl

theorem keeps_bsReplay {F : Nat} {s0 s : State} (h0 : Keeps F s0 s) (die : Nat) (c : Nat) (both : Bool) (hF : F &&& 0x44040 = 0 := by exact mask_sub (by assumption) rfl) : Keeps F s0 (State.bsReplay s die c both) := by
  unfold State.bsReplay
  with_reducible repeat' first
    | assumption | apply keeps_replayTo | split | exact mask_sub hF rfl

theorem keeps_execReplaySa {F : Nat} {s0 s : State} (h0 : Keeps F s0 s) (die : Nat) (both : Bool) (hF : F &&& 0x44040 = 0 := by exact mask_sub (by assumption) rfl) : ResKeeps F s0 (execReplaySa die both s) := by
  unfold execReplaySa
  with_reducible repeat' first
    | (intro _) | assumption | apply ResKeeps.next | apply keeps_onQueue | apply keeps_bsReplay | exact mask_sub hF rfl

theorem keeps_execReplaySb {F : Nat} {s0 s : State} (h0 : Keeps F s0 s) (die : Nat) (both : Bool) (hF : F &&& 0x44040 = 0 := by exact mask_sub (by assumption) rfl) : ResKeeps F s0 (execReplaySb die both s) := by
  unfold execReplaySb
  with_reducible repeat' first
    | (intro _) | assumption | apply ResKeeps.next | apply keeps_onQueue | apply keeps_bsReplay | exact mask_sub hF rfl

theorem keeps_pushDrop {F : Nat} {s0 s : State} (h0 : Keeps F s0 s) (die : Nat) (b : Nat) (hF : F &&& 0x8040 = 0 := by exact mask_sub (by assumption) rfl) : Keeps F s0 (State.pushDrop s die b) := by
  unfold State.pushDrop
  with_reducible repeat' first
    | (extract_lets +onlyGivenNames x; refine keeps_let (F := F) (s0 := s0) (x := x) (fun _ => ?_) ?_; rotate_left; subst x; rotate_left; clear_value x)
    | (extract_lets +onlyGivenNames x; clear_value x) | (intro _) | assumption | apply keeps_freeCells | apply keeps_setProd
    | apply keeps_inc | apply keeps_setBit | split | exact mask_sub hF rfl

theorem keeps_execPushWrite {F : Nat} {s0 s : State} (h0 : Keeps F s0 s) (die : Nat) (queue : Nat) (path : Nat) (data : List Byte) (hF : F &&& 0x204c048 = 0 := by exact mask_sub (by assumption) rfl) : ResKeeps F s0 (execPushWrite die queue path data s) := by
  unfold execPushWrite
  with_reducible repeat' first
    | (intro _)
    | (extract_lets +onlyGivenNames x; refine keeps_let (F := F) (s0 := s0) (x := x) (fun _ => ?_) ?_; rotate_left; subst x; rotate_left; clear_value x)
    | (extract_lets +onlyGivenNames x; clear_value x) | assumption | apply ResKeeps.next | apply keeps_onQueue | apply keeps_pushDrop
    | apply keeps_setProd | apply keeps_growRec | split | exact mask_sub hF rfl

theorem keeps_execPushEnd {F : Nat} {s0 s : State} (h0 : Keeps F s0 s) (die : Nat) (queue : Nat) (path : Nat) (m : Nat) (hF : F &&& 0x404c048 = 0 := by exact mask_sub (by assumption) rfl) : ResKeeps F s0 (execPushEnd die queue path m s) := by
  unfold execPushEnd
  with_reducible repeat' first
    | (intro _)
    | (extract_lets +onlyGivenNames x; refine keeps_let (F := F) (s0 := s0) (x := x) (fun _ => ?_) ?_; rotate_left; subst x; rotate_left; clear_value x)
    | (extract_lets +onlyGivenNames x; clear_value x) | assumption | apply ResKeeps.next | apply keeps_onQueue | apply keeps_inc
    | apply keeps_pushDrop | apply keeps_setProd | apply keeps_mirrorCopy | apply keeps_closePush | split | exact mask_sub hF rfl

theorem keeps_execBasinBadAccess {F : Nat} {s0 s : State} (h0 : Keeps F s0 s) (die : Nat) (off : Nat) (hF : F &&& 0x40 = 0 := by exact mask_sub (by assumption) rfl) : ResKeeps F s0 (execBasinBadAccess die off s) := by
  unfold execBasinBadAccess
  with_reducible repeat' first
    | (intro _) | assumption | apply ResKeeps.next | apply keeps_onQueue | apply keeps_inc | split | exact mask_sub hF rfl

theorem keeps_pokeCell {F : Nat} {s0 s : State} (h0 : Keeps F s0 s) (die : Nat) (addr : Nat) (b : Byte) (hF : F &&& 0x4004000 = 0 := by exact mask_sub (by assumption) rfl) : Keeps F s0 (State.pokeCell s die addr b) := by
  unfold State.pokeCell
  with_reducible repeat' first
    | (intro _) | assumption | split | apply keeps_mk_queues_cellMem | exact mask_sub hF rfl

theorem keeps_execDirectWrite {F : Nat} {s0 s : State} (h0 : Keeps F s0 s) (die : Nat) (addr : Nat) (data : List Byte) (hF : F &&& 0x4004040 = 0 := by exact mask_sub (by assumption) rfl) : ResKeeps F s0 (execDirectWrite die addr data s) := by
  unfold execDirectWrite
  with_reducible repeat' first
    | (intro _) | assumption | apply ResKeeps.next | apply keeps_onQueue | apply keeps_inc | apply keeps_forEach | apply keeps_pokeCell
    | split | exact mask_sub hF rfl

theorem keeps_pushFence {F : Nat} {s0 s : State} (h0 : Keeps F s0 s) (f : Fence) (hF : F &&& 0xc044048 = 0 := by exact mask_sub (by assumption) rfl) : Keeps F s0 (State.pushFence s f) := by
  unfold State.pushFence
  with_reducible repeat' first
    | (extract_lets +onlyGivenNames x; refine keeps_let (F := F) (s0 := s0) (x := x) (fun _ => ?_) ?_; rotate_left; subst x; rotate_left; clear_value x)
    | (extract_lets +onlyGivenNames x; clear_value x) | (intro _) | assumption | apply keeps_poolEmpty | apply keeps_closePush | split
    | apply keeps_mk_fences | exact mask_sub hF rfl

theorem keeps_execFencePushRetry {F : Nat} {s0 s : State} (h0 : Keeps F s0 s) (die : Nat) (queue : Nat) (hF : F &&& 0xc044048 = 0 := by exact mask_sub (by assumption) rfl) : ResKeeps F s0 (execFencePushRetry die queue s) := by
  unfold execFencePushRetry
  with_reducible repeat' first
    | (intro _) | assumption | apply ResKeeps.next | apply keeps_onQueue | apply keeps_pushFence | split | apply keeps_mk_fences
    | exact mask_sub hF rfl | (refine keeps_of_pair (by assumption) ?_)

end Sys2Proof.Machine
end

