-- ==== Sys2Proof/Laws/KeepsBarge.lean ====
section
/-! SUPPORT. What the operations of Machine/Barge.lean keep (`Keeps`), one lemma each. -/
namespace Sys2Proof.Machine
set_option Elab.async false

theorem keeps_setChan {F : Nat} {s0 s : State} (h0 : Keeps F s0 s) (die : Nat) (e : Nat) (c : Nat) (v : ChanS) (hF : F &&& 0x10000000 = 0 := by exact mask_sub (by assumption) rfl) : Keeps F s0 (State.setChan s die e c v) := by
  unfold State.setChan
  with_reducible repeat' first
    | (intro _) | assumption | apply keeps_mk_chans | exact mask_sub hF rfl

theorem keeps_updChan {F : Nat} {s0 s : State} (h0 : Keeps F s0 s) (die : Nat) (e : Nat) (c : Nat) (f : ChanS → ChanS) (hF : F &&& 0x10000000 = 0 := by exact mask_sub (by assumption) rfl) : Keeps F s0 (State.updChan s die e c f) := by
  unfold State.updChan
  with_reducible repeat' first
    | assumption | apply keeps_setChan | exact mask_sub hF rfl

theorem keeps_setEng {F : Nat} {s0 s : State} (h0 : Keeps F s0 s) (die : Nat) (e : Nat) (v : EngS) (hF : F &&& 0x20000000 = 0 := by exact mask_sub (by assumption) rfl) : Keeps F s0 (State.setEng s die e v) := by
  unfold State.setEng
  with_reducible repeat' first
    | (intro _) | assumption | apply keeps_mk_engs | exact mask_sub hF rfl

theorem keeps_setChState {F : Nat} {s0 s : State} (h0 : Keeps F s0 s) (die : Nat) (e : Nat) (c : Nat) (n : Nat) (hF : F &&& 0x40 = 0 := by exact mask_sub (by assumption) rfl) : Keeps F s0 (State.setChState s die e c n) := by
  unfold State.setChState
  with_reducible repeat' first
    | assumption | apply keeps_wrFld | exact mask_sub hF rfl

theorem keeps_chEvent {F : Nat} {s0 s : State} (h0 : Keeps F s0 s) (die : Nat) (e : Nat) (c : Nat) (i : Nat) (hF : F &&& 0x40 = 0 := by exact mask_sub (by assumption) rfl) : Keeps F s0 (State.chEvent s die e c i) := by
  unfold State.chEvent
  with_reducible repeat' first
    | assumption | apply keeps_setBit | exact mask_sub hF rfl

theorem keeps_freeEng {F : Nat} {s0 s : State} (h0 : Keeps F s0 s) (die : Nat) (e : Nat) (c : Nat) (hF : F &&& 0x20000000 = 0 := by exact mask_sub (by assumption) rfl) : Keeps F s0 (State.freeEng s die e c) := by
  unfold State.freeEng
  with_reducible repeat' first
    | assumption | apply keeps_setEng | split | exact mask_sub hF rfl

theorem keeps_block {F : Nat} {s0 s : State} (h0 : Keeps F s0 s) (die : Nat) (e : Nat) (c : Nat) (why : Nat) (hF : F &&& 0x20000040 = 0 := by exact mask_sub (by assumption) rfl) : Keeps F s0 (State.block s die e c why) := by
  unfold State.block
  with_reducible repeat' first
    | assumption | apply keeps_wrFld | apply keeps_setChState | apply keeps_freeEng | exact mask_sub hF rfl

theorem keeps_unblock {F : Nat} {s0 s : State} (h0 : Keeps F s0 s) (die : Nat) (e : Nat) (c : Nat) (hF : F &&& 0x40 = 0 := by exact mask_sub (by assumption) rfl) : Keeps F s0 (State.unblock s die e c) := by
  unfold State.unblock
  with_reducible repeat' first
    | assumption | apply keeps_wrFld | apply keeps_setChState | split | exact mask_sub hF rfl

theorem keeps_recFree {F : Nat} {s0 s : State} (h0 : Keeps F s0 s) (die : Nat) (hF : F &&& 0x10000040 = 0 := by exact mask_sub (by assumption) rfl) : Keeps F s0 (State.recFree s die) := by
  unfold State.recFree
  with_reducible repeat' first
    | (intro _) | assumption | apply keeps_forEach | apply keeps_updChan | apply keeps_unblock | split | exact mask_sub hF rfl
    | (refine keeps_of_pair (by assumption) ?_)

theorem keeps_settleAcc {F : Nat} {s0 s : State} (h0 : Keeps F s0 s) (die : Nat) (e : Nat) (c : Nat) (hF : F &&& 0x10000000 = 0 := by exact mask_sub (by assumption) rfl) : Keeps F s0 (State.settleAcc s die e c) := by
  unfold State.settleAcc
  with_reducible repeat' first
    | (intro _) | assumption | apply keeps_updChan | exact mask_sub hF rfl

theorem keeps_halt {F : Nat} {s0 s : State} (h0 : Keeps F s0 s) (die : Nat) (e : Nat) (c : Nat) (cause : Nat) (hF : F &&& 0x30000040 = 0 := by exact mask_sub (by assumption) rfl) : Keeps F s0 (State.halt s die e c cause) := by
  unfold State.halt
  with_reducible repeat' first
    | (intro _)
    | (extract_lets +onlyGivenNames x; refine keeps_let (F := F) (s0 := s0) (x := x) (fun _ => ?_) ?_; rotate_left; subst x; rotate_left; clear_value x)
    | (extract_lets +onlyGivenNames x; clear_value x) | assumption | apply keeps_wrFld | apply keeps_setChState | apply keeps_wrN
    | apply keeps_chEvent | apply keeps_freeEng | apply keeps_recFree | exact mask_sub hF rfl

theorem keeps_chStart {F : Nat} {s0 s : State} (h0 : Keeps F s0 s) (die : Nat) (e : Nat) (c : Nat) (hF : F &&& 0x10000040 = 0 := by exact mask_sub (by assumption) rfl) : Keeps F s0 (State.chStart s die e c) := by
  unfold State.chStart
  with_reducible repeat' first
    | (extract_lets +onlyGivenNames x; refine keeps_let (F := F) (s0 := s0) (x := x) (fun _ => ?_) ?_; rotate_left; subst x; rotate_left; clear_value x)
    | (extract_lets +onlyGivenNames x; clear_value x) | (intro _) | assumption | apply keeps_inc | apply keeps_chEvent
    | apply keeps_setChan | apply keeps_wr | split | exact mask_sub hF rfl

theorem keeps_chAbort {F : Nat} {s0 s : State} (h0 : Keeps F s0 s) (die : Nat) (e : Nat) (c : Nat) (quiet : Bool) (hF : F &&& 0x10000000 = 0 := by exact mask_sub (by assumption) rfl) : Keeps F s0 (State.chAbort s die e c quiet) := by
  unfold State.chAbort
  with_reducible repeat' first
    | (intro _) | assumption | apply keeps_updChan | split | exact mask_sub hF rfl

theorem keeps_chResume {F : Nat} {s0 s : State} (h0 : Keeps F s0 s) (die : Nat) (e : Nat) (c : Nat) (hF : F &&& 0x10000040 = 0 := by exact mask_sub (by assumption) rfl) : Keeps F s0 (State.chResume s die e c) := by
  unfold State.chResume
  with_reducible repeat' first
    | (intro _)
    | (extract_lets +onlyGivenNames x; refine keeps_let (F := F) (s0 := s0) (x := x) (fun _ => ?_) ?_; rotate_left; subst x; rotate_left; clear_value x)
    | (extract_lets +onlyGivenNames x; clear_value x) | assumption | apply keeps_chEvent | apply keeps_updChan | apply keeps_wr | split
    | exact mask_sub hF rfl

theorem keeps_chReset {F : Nat} {s0 s : State} (h0 : Keeps F s0 s) (die : Nat) (e : Nat) (c : Nat) (hF : F &&& 0x10000040 = 0 := by exact mask_sub (by assumption) rfl) : Keeps F s0 (State.chReset s die e c) := by
  unfold State.chReset
  with_reducible repeat' first
    | (intro _)
    | (extract_lets +onlyGivenNames x; refine keeps_let (F := F) (s0 := s0) (x := x) (fun _ => ?_) ?_; rotate_left; subst x; rotate_left; clear_value x)
    | (extract_lets +onlyGivenNames x; clear_value x) | assumption | apply keeps_updChan | apply keeps_wr | split | exact mask_sub hF rfl

theorem keeps_chCmd {F : Nat} {s0 s : State} (h0 : Keeps F s0 s) (die : Nat) (e : Nat) (c : Nat) (req : Nat) (v : Nat) (n : Nat) (f : State → State) (h_f : ∀ u, Keeps F s0 u → Keeps F s0 (f u)) (hF : F &&& 0x50 = 0 := by exact mask_sub (by assumption) rfl) : Keeps F s0 (State.chCmd s die e c req v n f) := by
  unfold State.chCmd
  with_reducible repeat' first
    | (intro _) | assumption | apply keeps_onKey | apply h_f | split | exact mask_sub hF rfl

theorem keeps_execChStart {F : Nat} {s0 s : State} (h0 : Keeps F s0 s) (die : Nat) (e : Nat) (c : Nat) (req : Nat) (v : Nat) (hF : F &&& 0x10000050 = 0 := by exact mask_sub (by assumption) rfl) : ResKeeps F s0 (execChStart die e c req v s) := by
  unfold execChStart
  with_reducible repeat' first
    | (intro _) | assumption | apply ResKeeps.next | apply keeps_chCmd | apply keeps_chStart | exact mask_sub hF rfl

theorem keeps_execChAbort {F : Nat} {s0 s : State} (h0 : Keeps F s0 s) (die : Nat) (e : Nat) (c : Nat) (req : Nat) (v : Nat) (hF : F &&& 0x10000050 = 0 := by exact mask_sub (by assumption) rfl) : ResKeeps F s0 (execChAbort die e c req v s) := by
  unfold execChAbort
  with_reducible repeat' first
    | (intro _) | assumption | apply ResKeeps.next | apply keeps_chCmd | apply keeps_chAbort | exact mask_sub hF rfl

theorem keeps_execChAbortQuiet {F : Nat} {s0 s : State} (h0 : Keeps F s0 s) (die : Nat) (e : Nat) (c : Nat) (req : Nat) (v : Nat) (hF : F &&& 0x10000050 = 0 := by exact mask_sub (by assumption) rfl) : ResKeeps F s0 (execChAbortQuiet die e c req v s) := by
  unfold execChAbortQuiet
  with_reducible repeat' first
    | (intro _) | assumption | apply ResKeeps.next | apply keeps_chCmd | apply keeps_chAbort | exact mask_sub hF rfl

theorem keeps_execChResume {F : Nat} {s0 s : State} (h0 : Keeps F s0 s) (die : Nat) (e : Nat) (c : Nat) (req : Nat) (v : Nat) (hF : F &&& 0x10000050 = 0 := by exact mask_sub (by assumption) rfl) : ResKeeps F s0 (execChResume die e c req v s) := by
  unfold execChResume
  with_reducible repeat' first
    | (intro _) | assumption | apply ResKeeps.next | apply keeps_chCmd | apply keeps_chResume | exact mask_sub hF rfl

theorem keeps_execChReset {F : Nat} {s0 s : State} (h0 : Keeps F s0 s) (die : Nat) (e : Nat) (c : Nat) (req : Nat) (v : Nat) (hF : F &&& 0x10000050 = 0 := by exact mask_sub (by assumption) rfl) : ResKeeps F s0 (execChReset die e c req v s) := by
  unfold execChReset
  with_reducible repeat' first
    | (intro _) | assumption | apply ResKeeps.next | apply keeps_chCmd | apply keeps_chReset | exact mask_sub hF rfl

theorem keeps_execAbortAll {F : Nat} {s0 s : State} (h0 : Keeps F s0 s) (die : Nat) (e : Nat) (req : Nat) (v : Nat) (hF : F &&& 0x10000050 = 0 := by exact mask_sub (by assumption) rfl) : ResKeeps F s0 (execAbortAll die e req v s) := by
  unfold execAbortAll
  with_reducible repeat' first
    | (intro _) | assumption | apply ResKeeps.next | apply keeps_onKey | apply keeps_forEach | apply keeps_chAbort | split
    | exact mask_sub hF rfl

theorem keeps_execAbortAllQuiet {F : Nat} {s0 s : State} (h0 : Keeps F s0 s) (die : Nat) (e : Nat) (req : Nat) (v : Nat) (hF : F &&& 0x10000050 = 0 := by exact mask_sub (by assumption) rfl) : ResKeeps F s0 (execAbortAllQuiet die e req v s) := by
  unfold execAbortAllQuiet
  with_reducible repeat' first
    | (intro _) | assumption | apply ResKeeps.next | apply keeps_onKey | apply keeps_forEach | apply keeps_chAbort | split
    | exact mask_sub hF rfl

theorem keeps_execEngineDispatch {F : Nat} {s0 s : State} (h0 : Keeps F s0 s) (die : Nat) (e : Nat) (hF : F &&& 0x20000040 = 0 := by exact mask_sub (by assumption) rfl) : ResKeeps F s0 (execEngineDispatch die e s) := by
  unfold execEngineDispatch
  with_reducible repeat' first
    | (intro _)
    | (extract_lets +onlyGivenNames x; refine keeps_let (F := F) (s0 := s0) (x := x) (fun _ => ?_) ?_; rotate_left; subst x; rotate_left; clear_value x)
    | (extract_lets +onlyGivenNames x; clear_value x) | assumption | apply ResKeeps.next | apply keeps_setEng | apply keeps_setChState
    | split | exact mask_sub hF rfl | (refine keeps_of_pair (by assumption) ?_)

theorem keeps_atInsn {F : Nat} {s0 s : State} (h0 : Keeps F s0 s) (die : Nat) (e : Nat) (op : Nat) (f : State → Nat → Nat → State) (h_f : ∀ u a0 a1, Keeps F s0 u → Keeps F s0 (f u a0 a1)) (hF : F &&& 0x30000040 = 0 := by exact mask_sub (by assumption) rfl) : Keeps F s0 (State.atInsn s die e op f) := by
  unfold State.atInsn
  with_reducible repeat' first
    | (extract_lets +onlyGivenNames x; refine keeps_let (F := F) (s0 := s0) (x := x) (fun _ => ?_) ?_; rotate_left; subst x; rotate_left; clear_value x)
    | (extract_lets +onlyGivenNames x; clear_value x) | (intro _) | assumption | apply keeps_halt | apply h_f | split
    | exact mask_sub hF rfl | (refine keeps_of_pair (by assumption) ?_)

theorem keeps_goPc {F : Nat} {s0 s : State} (h0 : Keeps F s0 s) (die : Nat) (e : Nat) (c : Nat) (pc : Nat) (hF : F &&& 0x10000000 = 0 := by exact mask_sub (by assumption) rfl) : Keeps F s0 (State.goPc s die e c pc) := by
  unfold State.goPc
  with_reducible repeat' first
    | (intro _) | assumption | apply keeps_updChan | exact mask_sub hF rfl

theorem keeps_execLoopInsn {F : Nat} {s0 s : State} (h0 : Keeps F s0 s) (die : Nat) (e : Nat) (hF : F &&& 0x30000040 = 0 := by exact mask_sub (by assumption) rfl) : ResKeeps F s0 (execLoopInsn die e s) := by
  unfold execLoopInsn
  with_reducible repeat' first
    | (intro _)
    | (extract_lets +onlyGivenNames x; refine keeps_let (F := F) (s0 := s0) (x := x) (fun _ => ?_) ?_; rotate_left; subst x; rotate_left; clear_value x)
    | (extract_lets +onlyGivenNames x; clear_value x) | assumption | apply ResKeeps.next | apply keeps_atInsn | apply keeps_halt
    | apply keeps_wrN | apply keeps_goPc | split | exact mask_sub hF rfl

theorem keeps_execWaitInsn {F : Nat} {s0 s : State} (h0 : Keeps F s0 s) (die : Nat) (e : Nat) (hF : F &&& 0x30000040 = 0 := by exact mask_sub (by assumption) rfl) : ResKeeps F s0 (execWaitInsn die e s) := by
  unfold execWaitInsn
  with_reducible repeat' first
    | (intro _)
    | (extract_lets +onlyGivenNames x; refine keeps_let (F := F) (s0 := s0) (x := x) (fun _ => ?_) ?_; rotate_left; subst x; rotate_left; clear_value x)
    | (extract_lets +onlyGivenNames x; clear_value x) | assumption | apply ResKeeps.next | apply keeps_atInsn | apply keeps_halt
    | apply keeps_clrBit | apply keeps_goPc | apply keeps_updChan | apply keeps_block | apply keeps_setChan | apply keeps_chEvent | split
    | exact mask_sub hF rfl | (refine keeps_of_pair (by assumption) ?_)

theorem keeps_execWaitTimeRelExpire {F : Nat} {s0 s : State} (h0 : Keeps F s0 s) (die : Nat) (e : Nat) (c : Nat) (hF : F &&& 0x40 = 0 := by exact mask_sub (by assumption) rfl) : ResKeeps F s0 (execWaitTimeRelExpire die e c s) := by
  unfold execWaitTimeRelExpire
  with_reducible repeat' first
    | assumption | apply ResKeeps.next | apply keeps_unblock | split | exact mask_sub hF rfl | (refine keeps_of_pair (by assumption) ?_)

theorem keeps_execWaitTimeAbsReached {F : Nat} {s0 s : State} (h0 : Keeps F s0 s) (die : Nat) (e : Nat) (c : Nat) (hF : F &&& 0x40 = 0 := by exact mask_sub (by assumption) rfl) : ResKeeps F s0 (execWaitTimeAbsReached die e c s) := by
  unfold execWaitTimeAbsReached
  with_reducible repeat' first
    | assumption | apply ResKeeps.next | apply keeps_unblock | split | exact mask_sub hF rfl | (refine keeps_of_pair (by assumption) ?_)

theorem keeps_execSignalInsn {F : Nat} {s0 s : State} (h0 : Keeps F s0 s) (die : Nat) (e : Nat) (hF : F &&& 0x30000040 = 0 := by exact mask_sub (by assumption) rfl) : ResKeeps F s0 (execSignalInsn die e s) := by
  unfold execSignalInsn
  with_reducible repeat' first
    | (intro _) | assumption | apply ResKeeps.next | apply keeps_atInsn | apply keeps_halt | apply keeps_updChan | apply keeps_goPc
    | split | exact mask_sub hF rfl

theorem keeps_execSignalPulse {F : Nat} {s0 s : State} (h0 : Keeps F s0 s) (die : Nat) (e : Nat) (c : Nat) (hF : F &&& 0x10040000 = 0 := by exact mask_sub (by assumption) rfl) : ResKeeps F s0 (execSignalPulse die e c s) := by
  unfold execSignalPulse
  with_reducible repeat' first
    | (intro _) | assumption | apply ResKeeps.next | apply keeps_updChan | apply keeps_pulse | split | exact mask_sub hF rfl
    | (refine keeps_of_pair (by assumption) ?_)

theorem keeps_execEndInsn {F : Nat} {s0 s : State} (h0 : Keeps F s0 s) (die : Nat) (e : Nat) (hF : F &&& 0x30000040 = 0 := by exact mask_sub (by assumption) rfl) : ResKeeps F s0 (execEndInsn die e s) := by
  unfold execEndInsn
  with_reducible repeat' first
    | (intro _)
    | (extract_lets +onlyGivenNames x; refine keeps_let (F := F) (s0 := s0) (x := x) (fun _ => ?_) ?_; rotate_left; subst x; rotate_left; clear_value x)
    | (extract_lets +onlyGivenNames x; clear_value x) | assumption | apply ResKeeps.next | apply keeps_atInsn | apply keeps_halt
    | apply keeps_wr | apply keeps_goPc | apply keeps_updChan | apply keeps_freeEng | split | exact mask_sub hF rfl

theorem keeps_execEndComplete {F : Nat} {s0 s : State} (h0 : Keeps F s0 s) (die : Nat) (e : Nat) (c : Nat) (hF : F &&& 0x10040040 = 0 := by exact mask_sub (by assumption) rfl) : ResKeeps F s0 (execEndComplete die e c s) := by
  unfold execEndComplete
  with_reducible repeat' first
    | (intro _) | assumption | apply ResKeeps.next | apply keeps_updChan | apply keeps_setChState | apply keeps_pulse | split
    | exact mask_sub hF rfl

theorem keeps_setCredit {F : Nat} {s0 s : State} (h0 : Keeps F s0 s) (die : Nat) (e : Nat) (c : Nat) (n : Nat) (hF : F &&& 0x40 = 0 := by exact mask_sub (by assumption) rfl) : Keeps F s0 (State.setCredit s die e c n) := by
  unfold State.setCredit
  with_reducible repeat' first
    | assumption | apply keeps_wrPair | exact mask_sub hF rfl

theorem keeps_setTotal {F : Nat} {s0 s : State} (h0 : Keeps F s0 s) (die : Nat) (e : Nat) (c : Nat) (n : Nat) (hF : F &&& 0x40 = 0 := by exact mask_sub (by assumption) rfl) : Keeps F s0 (State.setTotal s die e c n) := by
  unfold State.setTotal
  with_reducible repeat' first
    | assumption | apply keeps_wrPair | exact mask_sub hF rfl

theorem keeps_mvStart {F : Nat} {s0 s : State} (h0 : Keeps F s0 s) (die : Nat) (e : Nat) (c : Nat) (ws : List Nat) (hF : F &&& 0x30000040 = 0 := by exact mask_sub (by assumption) rfl) : Keeps F s0 (State.mvStart s die e c ws) := by
  unfold State.mvStart
  with_reducible repeat' first
    | (intro _)
    | (extract_lets +onlyGivenNames x; refine keeps_let (F := F) (s0 := s0) (x := x) (fun _ => ?_) ?_; rotate_left; subst x; rotate_left; clear_value x)
    | (extract_lets +onlyGivenNames x; refine keeps_let1 (F := F) (s0 := s0) (x := x) (fun _ => ?_) ?_; rotate_left; subst x; rotate_left; clear_value x)
    | (extract_lets +onlyGivenNames x; clear_value x) | (extract_lets +onlyGivenNames x; subst x) | assumption | apply keeps_wrN
    | apply keeps_updChan | apply keeps_block | apply keeps_halt | apply keeps_goPc | apply keeps_settleAcc | split
    | exact mask_sub hF rfl | (refine keeps_of_pair (by assumption) ?_)

theorem keeps_execMoveInsn {F : Nat} {s0 s : State} (h0 : Keeps F s0 s) (die : Nat) (e : Nat) (hF : F &&& 0x30000040 = 0 := by exact mask_sub (by assumption) rfl) : ResKeeps F s0 (execMoveInsn die e s) := by
  unfold execMoveInsn
  with_reducible repeat' first
    | (intro _) | assumption | apply ResKeeps.next | apply keeps_atInsn | apply keeps_halt | apply keeps_mvStart | split
    | exact mask_sub hF rfl | (refine keeps_of_pair (by assumption) ?_)

theorem keeps_addCredit {F : Nat} {s0 s : State} (h0 : Keeps F s0 s) (die : Nat) (e : Nat) (c : Nat) (m : Nat) (hF : F &&& 0x40 = 0 := by exact mask_sub (by assumption) rfl) : Keeps F s0 (State.addCredit s die e c m) := by
  unfold State.addCredit
  with_reducible repeat' first
    | (extract_lets +onlyGivenNames x; refine keeps_let (F := F) (s0 := s0) (x := x) (fun _ => ?_) ?_; rotate_left; subst x; rotate_left; clear_value x)
    | (extract_lets +onlyGivenNames x; clear_value x) | (intro _) | assumption | apply keeps_chEvent | apply keeps_setCredit
    | apply keeps_unblock | split | exact mask_sub hF rfl

theorem keeps_execRingAdd {F : Nat} {s0 s : State} (h0 : Keeps F s0 s) (die : Nat) (e : Nat) (c : Nat) (req : Nat) (v : Nat) (hF : F &&& 0x50 = 0 := by exact mask_sub (by assumption) rfl) : ResKeeps F s0 (execRingAdd die e c req v s) := by
  unfold execRingAdd
  with_reducible repeat' first
    | (intro _) | assumption | apply ResKeeps.next | apply keeps_onKey | apply keeps_addCredit | split | exact mask_sub hF rfl

theorem keeps_execRingLogWrite {F : Nat} {s0 s : State} (h0 : Keeps F s0 s) (die : Nat) (e : Nat) (c : Nat) (req : Nat) (v : Nat) (hF : F &&& 0x50 = 0 := by exact mask_sub (by assumption) rfl) : ResKeeps F s0 (execRingLogWrite die e c req v s) := by
  unfold execRingLogWrite
  with_reducible repeat' first
    | (intro _)
    | (extract_lets +onlyGivenNames x; refine keeps_let (F := F) (s0 := s0) (x := x) (fun _ => ?_) ?_; rotate_left; subst x; rotate_left; clear_value x)
    | (extract_lets +onlyGivenNames x; clear_value x) | assumption | apply ResKeeps.next | apply keeps_onKey | apply keeps_chEvent
    | apply keeps_wrFld | apply keeps_setTotal | apply keeps_setCredit | split | exact mask_sub hF rfl

theorem keeps_execRingTotalRead {F : Nat} {s0 s : State} (h0 : Keeps F s0 s) (die : Nat) (e : Nat) (c : Nat) (req : Nat) (hF : F &&& 0x150 = 0 := by exact mask_sub (by assumption) rfl) : ResKeeps F s0 (execRingTotalRead die e c req s) := by
  unfold execRingTotalRead
  with_reducible repeat' first
    | (intro _)
    | (extract_lets +onlyGivenNames x; refine keeps_let (F := F) (s0 := s0) (x := x) (fun _ => ?_) ?_; rotate_left; subst x; rotate_left; clear_value x)
    | (extract_lets +onlyGivenNames x; clear_value x) | assumption | apply ResKeeps.next | apply keeps_onKey | apply keeps_latch
    | apply keeps_respond | exact mask_sub hF rfl

theorem keeps_execChCfgWrite {F : Nat} {s0 s : State} (h0 : Keeps F s0 s) (die : Nat) (e : Nat) (c : Nat) (off : Nat) (req : Nat) (v : Nat) (hF : F &&& 0x50 = 0 := by exact mask_sub (by assumption) rfl) : ResKeeps F s0 (execChCfgWrite die e c off req v s) := by
  unfold execChCfgWrite
  with_reducible repeat' first
    | (intro _)
    | (extract_lets +onlyGivenNames x; refine keeps_let (F := F) (s0 := s0) (x := x) (fun _ => ?_) ?_; rotate_left; subst x; rotate_left; clear_value x)
    | (extract_lets +onlyGivenNames x; clear_value x) | assumption | apply ResKeeps.next | apply keeps_onKey | apply keeps_chEvent
    | apply keeps_wr | split | exact mask_sub hF rfl

theorem keeps_execLateError {F : Nat} {s0 s : State} (h0 : Keeps F s0 s) (die : Nat) (e : Nat) (c : Nat) (addr : Nat) (hF : F &&& 0x40 = 0 := by exact mask_sub (by assumption) rfl) : ResKeeps F s0 (execLateError die e c addr s) := by
  unfold execLateError
  with_reducible repeat' first
    | assumption | apply ResKeeps.next | apply keeps_inc | apply keeps_chEvent | apply keeps_logErr | split | exact mask_sub hF rfl

end Sys2Proof.Machine
end

