-- ==== Sys2Proof/Laws/KeepsUplink.lean ====
section
/-! SUPPORT. What the operations of Machine/Uplink.lean keep (`Keeps`), one lemma each. -/
namespace Sys2Proof.Machine
set_option Elab.async false

theorem keeps_setEp {F : Nat} {s0 s : State} (h0 : Keeps F s0 s) (st : Nat) (v : EpS) (hF : F &&& 0x40000000 = 0 := by exact mask_sub (by assumption) rfl) : Keeps F s0 (State.setEp s st v) := by
  unfold State.setEp
  with_reducible repeat' first
    | (intro _) | assumption | apply keeps_mk_eps | exact mask_sub hF rfl

theorem keeps_updEp {F : Nat} {s0 s : State} (h0 : Keeps F s0 s) (st : Nat) (f : EpS → EpS) (hF : F &&& 0x40000000 = 0 := by exact mask_sub (by assumption) rfl) : Keeps F s0 (State.updEp s st f) := by
  unfold State.updEp
  with_reducible repeat' first
    | assumption | apply keeps_setEp | exact mask_sub hF rfl

theorem keeps_setLedger {F : Nat} {s0 s : State} (h0 : Keeps F s0 s) (st : Nat) (k : Nat) (v : LedgerS) (hF : F &&& 0x80000040 = 0 := by exact mask_sub (by assumption) rfl) : Keeps F s0 (State.setLedger s st k v) := by
  unfold State.setLedger
  with_reducible repeat' first
    | (intro _)
    | (extract_lets +onlyGivenNames x; refine keeps_let (F := F) (s0 := s0) (x := x) (fun _ => ?_) ?_; rotate_left; subst x; rotate_left; clear_value x)
    | (extract_lets +onlyGivenNames x; clear_value x) | assumption | apply keeps_wrPair | apply keeps_wrN | apply keeps_mk_ledgers
    | exact mask_sub hF rfl

theorem keeps_epEvent {F : Nat} {s0 s : State} (h0 : Keeps F s0 s) (st : Nat) (i : Nat) (hF : F &&& 0x40 = 0 := by exact mask_sub (by assumption) rfl) : Keeps F s0 (State.epEvent s st i) := by
  unfold State.epEvent
  with_reducible repeat' first
    | assumption | apply keeps_setBit | exact mask_sub hF rfl

theorem keeps_msix {F : Nat} {s0 s : State} (h0 : Keeps F s0 s) (st : Nat) (v : Nat) (hF : F &&& 0x20 = 0 := by exact mask_sub (by assumption) rfl) : Keeps F s0 (State.msix s st v) := by
  unfold State.msix
  with_reducible repeat' first
    | assumption | apply keeps_emit | split | exact mask_sub hF rfl

theorem keeps_upFresh {F : Nat} {s0 s : State} (h0 : Keeps F s0 s) (st : Nat) (hF : F &&& 0x40000000405c068 = 0 := by exact mask_sub (by assumption) rfl) : Keeps F s0 (State.upFresh s st) := by
  unfold State.upFresh
  with_reducible repeat' first
    | (extract_lets +onlyGivenNames x; refine keeps_let (F := F) (s0 := s0) (x := x) (fun _ => ?_) ?_; rotate_left; subst x; rotate_left; clear_value x)
    | (extract_lets +onlyGivenNames x; clear_value x) | (intro _) | assumption | apply keeps_wrN | apply keeps_msix | apply keeps_health
    | split | exact mask_sub hF rfl

theorem keeps_upAll {F : Nat} {s0 s : State} (h0 : Keeps F s0 s) (hF : F &&& 0x40000000405c068 = 0 := by exact mask_sub (by assumption) rfl) : Keeps F s0 (State.upAll s) := by
  unfold State.upAll
  with_reducible repeat' first
    | assumption | apply keeps_upFresh | exact mask_sub hF rfl

theorem keeps_sendHost {F : Nat} {s0 s : State} (h0 : Keeps F s0 s) (st : Nat) (w : HostWr) (hF : F &&& 0x40000020 = 0 := by exact mask_sub (by assumption) rfl) : Keeps F s0 (State.sendHost s st w) := by
  unfold State.sendHost
  with_reducible repeat' first
    | (intro _)
    | (extract_lets +onlyGivenNames x; refine keeps_let (F := F) (s0 := s0) (x := x) (fun _ => ?_) ?_; rotate_left; subst x; rotate_left; clear_value x)
    | (extract_lets +onlyGivenNames x; clear_value x) | assumption | apply keeps_forEach | apply keeps_emit | apply keeps_updEp | split
    | exact mask_sub hF rfl | (refine keeps_of_pair (by assumption) ?_)

theorem keeps_hostWrite {F : Nat} {s0 s : State} (h0 : Keeps F s0 s) (st : Nat) (w : HostWr) (hF : F &&& 0x40000020 = 0 := by exact mask_sub (by assumption) rfl) : Keeps F s0 (State.hostWrite s st w) := by
  unfold State.hostWrite
  with_reducible repeat' first
    | (intro _)
    | (extract_lets +onlyGivenNames x; refine keeps_let (F := F) (s0 := s0) (x := x) (fun _ => ?_) ?_; rotate_left; subst x; rotate_left; clear_value x)
    | (extract_lets +onlyGivenNames x; clear_value x) | assumption | apply keeps_updEp | apply keeps_sendHost | split
    | exact mask_sub hF rfl

theorem keeps_sendWaiting {F : Nat} {s0 s : State} (h0 : Keeps F s0 s) (st : Nat) (hF : F &&& 0x40000020 = 0 := by exact mask_sub (by assumption) rfl) : Keeps F s0 (State.sendWaiting s st) := by
  unfold State.sendWaiting
  with_reducible repeat' first
    | (intro _) | assumption | apply keeps_forEach | apply keeps_updEp | apply keeps_sendHost | split | exact mask_sub hF rfl

theorem keeps_acceptFresh {F : Nat} {s0 s : State} (h0 : Keeps F s0 s) (st : Nat) (hF : F &&& 0x40000004405c068 = 0 := by exact mask_sub (by assumption) rfl) : Keeps F s0 (State.acceptFresh s st) := by
  unfold State.acceptFresh
  with_reducible repeat' first
    | (intro _)
    | (extract_lets +onlyGivenNames x; refine keeps_let (F := F) (s0 := s0) (x := x) (fun _ => ?_) ?_; rotate_left; subst x; rotate_left; clear_value x)
    | (extract_lets +onlyGivenNames x; clear_value x) | assumption | apply keeps_putBit | apply keeps_epEvent | apply keeps_upFresh
    | apply keeps_updEp | apply keeps_sendWaiting | split | exact mask_sub hF rfl

theorem keeps_execUplinkLinkChange {F : Nat} {s0 s : State} (h0 : Keeps F s0 s) (st : Nat) (width : Nat) (rate : Nat) (up : Bool) (bme : Bool) (d3hot : Bool) (mps : Nat) (hF : F &&& 0x40000004405c068 = 0 := by exact mask_sub (by assumption) rfl) : ResKeeps F s0 (execUplinkLinkChange st width rate up bme d3hot mps s) := by
  unfold execUplinkLinkChange
  with_reducible repeat' first
    | (intro _)
    | (extract_lets +onlyGivenNames x; refine keeps_let (F := F) (s0 := s0) (x := x) (fun _ => ?_) ?_; rotate_left; subst x; rotate_left; clear_value x)
    | (extract_lets +onlyGivenNames x; clear_value x) | assumption | apply ResKeeps.next | apply keeps_wrFld | apply keeps_putBit
    | apply keeps_updEp | apply keeps_acceptFresh | split | exact mask_sub hF rfl

theorem keeps_execAcceptStallExpire {F : Nat} {s0 s : State} (h0 : Keeps F s0 s) (st : Nat) (hF : F &&& 0x40000004405c068 = 0 := by exact mask_sub (by assumption) rfl) : ResKeeps F s0 (execAcceptStallExpire st s) := by
  unfold execAcceptStallExpire
  with_reducible repeat' first
    | (intro _) | assumption | apply ResKeeps.next | apply keeps_updEp | apply keeps_acceptFresh | split | exact mask_sub hF rfl

theorem keeps_clearBar0 {F : Nat} {s0 s : State} (h0 : Keeps F s0 s) (st : Nat) (hF : F &&& 0x200 = 0 := by exact mask_sub (by assumption) rfl) : Keeps F s0 (s.clearBar0 st) :=
  h0.upd hF rfl rfl id (fun x => Tbl.wf_filter _ x) id
    (fun f => by cases f <;> first | exact fun _ => rfl | exact fun h => nomatch h)

theorem keeps_funcReset {F : Nat} {s0 s : State} (h0 : Keeps F s0 s) (st : Nat) (hF : F &&& 0x40000240 = 0 := by exact mask_sub (by assumption) rfl) : Keeps F s0 (State.funcReset s st) := by
  unfold State.funcReset
  with_reducible repeat' first
    | (intro _)
    | (extract_lets +onlyGivenNames x; refine keeps_let (F := F) (s0 := s0) (x := x) (fun _ => ?_) ?_; rotate_left; subst x; rotate_left; clear_value x)
    | (extract_lets +onlyGivenNames x; clear_value x) | assumption | apply keeps_forEach | apply keeps_clearBar0 | apply keeps_wr
    | apply keeps_updEp | exact mask_sub hF rfl

theorem keeps_execFunctionLevelReset {F : Nat} {s0 s : State} (h0 : Keeps F s0 s) (st : Nat) (hF : F &&& 0x40000004405c268 = 0 := by exact mask_sub (by assumption) rfl) : ResKeeps F s0 (execFunctionLevelReset st s) := by
  unfold execFunctionLevelReset
  with_reducible repeat' first
    | (intro _) | assumption | apply ResKeeps.next | apply keeps_funcReset | apply keeps_updEp | apply keeps_acceptFresh | split
    | exact mask_sub hF rfl

theorem keeps_execPostedCreditGrant {F : Nat} {s0 s : State} (h0 : Keeps F s0 s) (st : Nat) (hF : F &&& 0x40000004405c068 = 0 := by exact mask_sub (by assumption) rfl) : ResKeeps F s0 (execPostedCreditGrant st s) := by
  unfold execPostedCreditGrant
  with_reducible repeat' first
    | (intro _) | assumption | apply ResKeeps.next | apply keeps_updEp | apply keeps_acceptFresh | split | exact mask_sub hF rfl

theorem keeps_execFlrComplete {F : Nat} {s0 s : State} (h0 : Keeps F s0 s) (st : Nat) (hF : F &&& 0x40000004405c068 = 0 := by exact mask_sub (by assumption) rfl) : ResKeeps F s0 (execFlrComplete st s) := by
  unfold execFlrComplete
  with_reducible repeat' first
    | (intro _) | assumption | apply ResKeeps.next | apply keeps_updEp | apply keeps_acceptFresh | split | exact mask_sub hF rfl

theorem keeps_execDbShadowWrite {F : Nat} {s0 s : State} (h0 : Keeps F s0 s) (st : Nat) (k : Nat) (req : Nat) (v : Nat) (hF : F &&& 0x50 = 0 := by exact mask_sub (by assumption) rfl) : ResKeeps F s0 (execDbShadowWrite st k req v s) := by
  unfold execDbShadowWrite
  with_reducible repeat' first
    | (intro _)
    | (extract_lets +onlyGivenNames x; refine keeps_let (F := F) (s0 := s0) (x := x) (fun _ => ?_) ?_; rotate_left; subst x; rotate_left; clear_value x)
    | (extract_lets +onlyGivenNames x; clear_value x) | assumption | apply ResKeeps.next | apply keeps_onKey | apply keeps_wrN | split
    | exact mask_sub hF rfl

theorem keeps_ledgerFeed {F : Nat} {s0 s : State} (h0 : Keeps F s0 s) (st : Nat) (k : Nat) (bytes : List Byte) (hF : F &&& 0x80000040 = 0 := by exact mask_sub (by assumption) rfl) : Keeps F s0 (State.ledgerFeed s st k bytes) := by
  unfold State.ledgerFeed
  with_reducible repeat' first
    | (extract_lets +onlyGivenNames x; refine keeps_let (F := F) (s0 := s0) (x := x) (fun _ => ?_) ?_; rotate_left; subst x; rotate_left; clear_value x)
    | (extract_lets +onlyGivenNames x; clear_value x) | (intro _) | assumption | apply keeps_setLedger | apply keeps_inc
    | apply keeps_epEvent | split | exact mask_sub hF rfl

theorem keeps_ackParts {F : Nat} {s0 s : State} (h0 : Keeps F s0 s) (die : Nat) (q : Nat) (n : Nat) (hF : F &&& 0x4040 = 0 := by exact mask_sub (by assumption) rfl) : Keeps F s0 (State.ackParts s die q n) := by
  unfold State.ackParts
  with_reducible repeat' first
    | (intro _) | assumption | apply keeps_forEach | apply keeps_ackQueue | split | exact mask_sub hF rfl

theorem keeps_execTailAck {F : Nat} {s0 s : State} (h0 : Keeps F s0 s) (st : Nat) (k : Nat) (hF : F &&& 0xc0004040 = 0 := by exact mask_sub (by assumption) rfl) : ResKeeps F s0 (execTailAck st k s) := by
  unfold execTailAck
  with_reducible repeat' first
    | (intro _)
    | (extract_lets +onlyGivenNames x; refine keeps_let (F := F) (s0 := s0) (x := x) (fun _ => ?_) ?_; rotate_left; subst x; rotate_left; clear_value x)
    | (extract_lets +onlyGivenNames x; clear_value x) | assumption | apply ResKeeps.next | apply keeps_updEp | apply keeps_setLedger
    | apply keeps_ackParts | split | exact mask_sub hF rfl | (refine keeps_of_pair (by assumption) ?_)

theorem keeps_execRingVector {F : Nat} {s0 s : State} (h0 : Keeps F s0 s) (st : Nat) (k : Nat) (hF : F &&& 0x40000020 = 0 := by exact mask_sub (by assumption) rfl) : ResKeeps F s0 (execRingVector st k s) := by
  unfold execRingVector
  with_reducible repeat' first
    | (intro _)
    | (extract_lets +onlyGivenNames x; refine keeps_let (F := F) (s0 := s0) (x := x) (fun _ => ?_) ?_; rotate_left; subst x; rotate_left; clear_value x)
    | (extract_lets +onlyGivenNames x; clear_value x) | assumption | apply ResKeeps.next | apply keeps_msix | apply keeps_setEp | split
    | exact mask_sub hF rfl | (refine keeps_of_pair (by assumption) ?_)

theorem keeps_setShadow {F : Nat} {s0 s : State} (h0 : Keeps F s0 s) (st : Nat) (k : Nat) (n : Nat) (hF : F &&& 0x40 = 0 := by exact mask_sub (by assumption) rfl) : Keeps F s0 (State.setShadow s st k n) := by
  unfold State.setShadow
  with_reducible repeat' first
    | assumption | apply keeps_wrPair | exact mask_sub hF rfl

theorem keeps_addParts {F : Nat} {s0 s : State} (h0 : Keeps F s0 s) (die : Nat) (e : Nat) (c : Nat) (n : Nat) (hF : F &&& 0x40 = 0 := by exact mask_sub (by assumption) rfl) : Keeps F s0 (State.addParts s die e c n) := by
  unfold State.addParts
  with_reducible repeat' first
    | (intro _) | assumption | apply keeps_forEach | apply keeps_addCredit | split | exact mask_sub hF rfl

theorem keeps_takeHead {F : Nat} {s0 s : State} (h0 : Keeps F s0 s) (st : Nat) (k : Nat) (head : Nat) (hF : F &&& 0x40 = 0 := by exact mask_sub (by assumption) rfl) : Keeps F s0 (State.takeHead s st k head) := by
  unfold State.takeHead
  with_reducible repeat' first
    | (intro _)
    | (extract_lets +onlyGivenNames x; refine keeps_let (F := F) (s0 := s0) (x := x) (fun _ => ?_) ?_; rotate_left; subst x; rotate_left; clear_value x)
    | (extract_lets +onlyGivenNames x; clear_value x) | assumption | apply keeps_forEach | apply keeps_setShadow | apply keeps_addParts
    | split | exact mask_sub hF rfl

theorem keeps_execDoorbell {F : Nat} {s0 s : State} (h0 : Keeps F s0 s) (st : Nat) (k : Nat) (head : Nat) (hF : F &&& 0x40000040 = 0 := by exact mask_sub (by assumption) rfl) : ResKeeps F s0 (execDoorbell st k head s) := by
  unfold execDoorbell
  with_reducible repeat' first
    | (intro _)
    | (extract_lets +onlyGivenNames x; refine keeps_let (F := F) (s0 := s0) (x := x) (fun _ => ?_) ?_; rotate_left; subst x; rotate_left; clear_value x)
    | (extract_lets +onlyGivenNames x; refine keeps_let1 (F := F) (s0 := s0) (x := x) (fun _ => ?_) ?_; rotate_left; subst x; rotate_left; clear_value x)
    | (extract_lets +onlyGivenNames x; clear_value x) | (extract_lets +onlyGivenNames x; subst x) | assumption | apply ResKeeps.next
    | apply keeps_wrPair | apply keeps_inc | apply keeps_epEvent | apply keeps_takeHead | apply keeps_updEp | split
    | exact mask_sub hF rfl | (refine keeps_of_pair (by assumption) ?_)

theorem keeps_execDoorbellConfirm {F : Nat} {s0 s : State} (h0 : Keeps F s0 s) (st : Nat) (k : Nat) (hF : F &&& 0x40000040 = 0 := by exact mask_sub (by assumption) rfl) : ResKeeps F s0 (execDoorbellConfirm st k s) := by
  unfold execDoorbellConfirm
  with_reducible repeat' first
    | (intro _) | assumption | apply ResKeeps.next | apply keeps_updEp | apply keeps_takeHead | split | exact mask_sub hF rfl
    | (refine keeps_of_pair (by assumption) ?_)

theorem keeps_execEpDrain {F : Nat} {s0 s : State} (h0 : Keeps F s0 s) (st : Nat) (req : Nat) (v : Nat) (hF : F &&& 0x40000050 = 0 := by exact mask_sub (by assumption) rfl) : ResKeeps F s0 (execEpDrain st req v s) := by
  unfold execEpDrain
  with_reducible repeat' first
    | (intro _) | assumption | apply ResKeeps.next | apply keeps_onKey | apply keeps_setBits | apply keeps_updEp | exact mask_sub hF rfl

theorem keeps_execEpDrainDone {F : Nat} {s0 s : State} (h0 : Keeps F s0 s) (st : Nat) (m : Nat) (hF : F &&& 0x40 = 0 := by exact mask_sub (by assumption) rfl) : ResKeeps F s0 (execEpDrainDone st m s) := by
  unfold execEpDrainDone
  with_reducible repeat' first
    | assumption | apply ResKeeps.next | apply keeps_clrBit | apply keeps_epEvent | split | exact mask_sub hF rfl

theorem keeps_abortQuiet {F : Nat} {s0 s : State} (h0 : Keeps F s0 s) (die : Nat) (e : Nat) (c : Nat) (hF : F &&& 0x30000040 = 0 := by exact mask_sub (by assumption) rfl) : Keeps F s0 (State.abortQuiet s die e c) := by
  unfold State.abortQuiet
  with_reducible repeat' first
    | (intro _)
    | (extract_lets +onlyGivenNames x; refine keeps_let (F := F) (s0 := s0) (x := x) (fun _ => ?_) ?_; rotate_left; subst x; rotate_left; clear_value x)
    | (extract_lets +onlyGivenNames x; clear_value x) | assumption | apply keeps_wrN | apply keeps_wrFld | apply keeps_setChState
    | apply keeps_chEvent | apply keeps_updChan | apply keeps_freeEng | apply keeps_recFree | split | exact mask_sub hF rfl

theorem keeps_moveQueue {F : Nat} {s0 s : State} (h0 : Keeps F s0 s) (die : Nat) (q : Nat) (st : Nat) (hF : F &&& 0xb0000040 = 0 := by exact mask_sub (by assumption) rfl) : Keeps F s0 (State.moveQueue s die q st).1 := by
  unfold State.moveQueue
  with_reducible repeat' first
    | (intro _)
    | (extract_lets +onlyGivenNames x; refine keeps_let (F := F) (s0 := s0) (x := x) (fun _ => ?_) ?_; rotate_left; subst x; (try dsimp -zeta only); rotate_left; clear_value x)
    | (extract_lets +onlyGivenNames x; refine keeps_letF (F := F) (s0 := s0) (x := x) (fun hf => ?_) ?_; rotate_left; subst x; (try dsimp -zeta only); rotate_left; clear_value x)
    | (extract_lets +onlyGivenNames x; refine keeps_letF2 (F := F) (s0 := s0) (x := x) (fun hf => ?_) ?_; rotate_left; subst x; (try dsimp -zeta only); rotate_left; clear_value x)
    | (extract_lets +onlyGivenNames x; refine keeps_letN (F := F) (s0 := s0) (x := x) (fun hf => ?_) ?_; rotate_left; subst x; (try dsimp -zeta only); rotate_left; clear_value x)
    | (extract_lets +onlyGivenNames x; clear_value x) | assumption | apply keeps_wrFld | apply keeps_abortQuiet | apply keeps_setLedger
    | apply keeps_setShadow | apply keeps_chResume | apply hf | split | exact mask_sub hF rfl | (refine keeps_of_pair (by assumption) ?_)

theorem keeps_upFlag {F : Nat} {s0 s : State} (h0 : Keeps F s0 s) (st : Nat) (bitn : Nat) (ev : Nat) (b : Bool) (hF : F &&& 0x60 = 0 := by exact mask_sub (by assumption) rfl) : Keeps F s0 (State.upFlag s st bitn ev b) := by
  unfold State.upFlag
  with_reducible repeat' first
    | (extract_lets +onlyGivenNames x; refine keeps_let (F := F) (s0 := s0) (x := x) (fun _ => ?_) ?_; rotate_left; subst x; rotate_left; clear_value x)
    | (extract_lets +onlyGivenNames x; clear_value x) | (intro _) | assumption | apply keeps_epEvent | apply keeps_putBit
    | apply keeps_msix | split | exact mask_sub hF rfl

theorem keeps_execShedPlan {F : Nat} {s0 s : State} (h0 : Keeps F s0 s) (st : Nat) (hF : F &&& 0x40000060 = 0 := by exact mask_sub (by assumption) rfl) : ResKeeps F s0 (execShedPlan st s) := by
  unfold execShedPlan
  with_reducible repeat' first
    | (intro _)
    | (extract_lets +onlyGivenNames x; refine keeps_let (F := F) (s0 := s0) (x := x) (fun _ => ?_) ?_; rotate_left; subst x; rotate_left; clear_value x)
    | (extract_lets +onlyGivenNames x; clear_value x) | assumption | apply ResKeeps.next | apply keeps_wrN | apply keeps_upFlag
    | apply keeps_forEach | apply keeps_setBit | apply keeps_updEp | apply keeps_setEp | apply keeps_epEvent | split
    | exact mask_sub hF rfl

theorem keeps_execShedHoldExpire {F : Nat} {s0 s : State} (h0 : Keeps F s0 s) (st : Nat) (stream : Nat) (hF : F &&& 0x40000040 = 0 := by exact mask_sub (by assumption) rfl) : ResKeeps F s0 (execShedHoldExpire st stream s) := by
  unfold execShedHoldExpire
  with_reducible repeat' first
    | (intro _) | assumption | apply ResKeeps.next | apply keeps_updEp | apply keeps_clrBit | split | exact mask_sub hF rfl
    | (refine keeps_of_pair (by assumption) ?_)

end Sys2Proof.Machine
end

