-- ==== Sys2Proof/Laws/KeepsFabric.lean ====
section
/-! SUPPORT. What the operations of Machine/Fabric.lean keep (`Keeps`), one lemma each. -/
namespace Sys2Proof.Machine
set_option Elab.async false

theorem keeps_setMod {F : Nat} {s0 s : State} (h0 : Keeps F s0 s) (die : Nat) (m : Nat) (v : ModS) (hF : F &&& 0x800000000 = 0 := by exact mask_sub (by assumption) rfl) : Keeps F s0 (State.setMod s die m v) := by
  unfold State.setMod
  with_reducible repeat' first
    | (intro _) | assumption | apply keeps_mk_mods | exact mask_sub hF rfl

theorem keeps_updMod {F : Nat} {s0 s : State} (h0 : Keeps F s0 s) (die : Nat) (m : Nat) (f : ModS → ModS) (hF : F &&& 0x800000000 = 0 := by exact mask_sub (by assumption) rfl) : Keeps F s0 (State.updMod s die m f) := by
  unfold State.updMod
  with_reducible repeat' first
    | assumption | apply keeps_setMod | exact mask_sub hF rfl

theorem keeps_rdFault {F : Nat} {s0 s : State} (h0 : Keeps F s0 s) (status : Nat) (r : PendRd) (hF : F &&& 0x50 = 0 := by exact mask_sub (by assumption) rfl) : Keeps F s0 (State.rdFault s status r) := by
  unfold State.rdFault
  with_reducible repeat' first
    | assumption | apply keeps_accessFault | exact mask_sub hF rfl

theorem keeps_endReads {F : Nat} {s0 s : State} (h0 : Keeps F s0 s) (die : Nat) (m : Nat) (status : Nat) (hF : F &&& 0x800000050 = 0 := by exact mask_sub (by assumption) rfl) : Keeps F s0 (State.endReads s die m status) := by
  unfold State.endReads
  with_reducible repeat' first
    | (intro _)
    | (extract_lets +onlyGivenNames x; refine keeps_let (F := F) (s0 := s0) (x := x) (fun _ => ?_) ?_; rotate_left; subst x; rotate_left; clear_value x)
    | (extract_lets +onlyGivenNames x; clear_value x) | assumption | apply keeps_forEach | apply keeps_setMod | apply keeps_rdFault
    | apply keeps_addSat | apply keeps_setBit | split | exact mask_sub hF rfl

theorem keeps_irqDrop {F : Nat} {s0 s : State} (h0 : Keeps F s0 s) (st : Nat) (m : Nat) (hF : F &&& 0x100000000000000000 = 0 := by exact mask_sub (by assumption) rfl) : Keeps F s0 (State.irqDrop s st m) := by
  unfold State.irqDrop
  with_reducible repeat' first
    | (intro _) | assumption | split | apply keeps_mk_irqCopy | exact mask_sub hF rfl

theorem keeps_dropWrites {F : Nat} {s0 s : State} (h0 : Keeps F s0 s) (die : Nat) (m : Nat) (hF : F &&& 0x800000040 = 0 := by exact mask_sub (by assumption) rfl) : Keeps F s0 (State.dropWrites s die m) := by
  unfold State.dropWrites
  with_reducible repeat' first
    | (extract_lets +onlyGivenNames x; refine keeps_let (F := F) (s0 := s0) (x := x) (fun _ => ?_) ?_; rotate_left; subst x; rotate_left; clear_value x)
    | (extract_lets +onlyGivenNames x; clear_value x) | (intro _) | assumption | apply keeps_setMod | apply keeps_addSat
    | exact mask_sub hF rfl

theorem keeps_sendTxn {F : Nat} {s0 s : State} (h0 : Keeps F s0 s) (die : Nat) (m : Nat) (h : OdvelHdr) (data : List Byte) (hF : F &&& 0x800000020 = 0 := by exact mask_sub (by assumption) rfl) : Keeps F s0 (State.sendTxn s die m h data) := by
  unfold State.sendTxn
  with_reducible repeat' first
    | (intro _)
    | (extract_lets +onlyGivenNames x; refine keeps_let (F := F) (s0 := s0) (x := x) (fun _ => ?_) ?_; rotate_left; subst x; rotate_left; clear_value x)
    | (extract_lets +onlyGivenNames x; clear_value x) | assumption | apply keeps_setMod | apply keeps_emit | exact mask_sub hF rfl

theorem keeps_modEnter {F : Nat} {s0 s : State} (h0 : Keeps F s0 s) (die : Nat) (m : Nat) (n : Nat) (hF : F &&& 0x100000000800000050 = 0 := by exact mask_sub (by assumption) rfl) : Keeps F s0 (State.modEnter s die m n) := by
  unfold State.modEnter
  with_reducible repeat' first
    | (intro _)
    | (extract_lets +onlyGivenNames x; refine keeps_let (F := F) (s0 := s0) (x := x) (fun _ => ?_) ?_; rotate_left; subst x; rotate_left; clear_value x)
    | (extract_lets +onlyGivenNames x; clear_value x) | assumption | apply keeps_logErr | apply keeps_wrFld | apply keeps_setBit
    | apply keeps_inc | apply keeps_updMod | apply keeps_dropWrites | apply keeps_endReads | apply keeps_irqDrop | split
    | exact mask_sub hF rfl

theorem keeps_retrain {F : Nat} {s0 s : State} (h0 : Keeps F s0 s) (die : Nat) (m : Nat) (hF : F &&& 0x100000000800000050 = 0 := by exact mask_sub (by assumption) rfl) : Keeps F s0 (State.retrain s die m) := by
  unfold State.retrain
  with_reducible repeat' first
    | (extract_lets +onlyGivenNames x; refine keeps_let (F := F) (s0 := s0) (x := x) (fun _ => ?_) ?_; rotate_left; subst x; rotate_left; clear_value x)
    | (extract_lets +onlyGivenNames x; clear_value x) | (intro _) | assumption | apply keeps_modEnter | split | exact mask_sub hF rfl

theorem keeps_execFlitRx {F : Nat} {s0 s : State} (h0 : Keeps F s0 s) (die : Nat) (m : Nat) (crcOk : Bool) (phyErr : Bool) (hF : F &&& 0x100000000800000050 = 0 := by exact mask_sub (by assumption) rfl) : ResKeeps F s0 (execFlitRx die m crcOk phyErr s) := by
  unfold execFlitRx
  with_reducible repeat' first
    | (intro _)
    | (extract_lets +onlyGivenNames x; refine keeps_let (F := F) (s0 := s0) (x := x) (fun _ => ?_) ?_; rotate_left; subst x; rotate_left; clear_value x)
    | (extract_lets +onlyGivenNames x; clear_value x) | assumption | apply ResKeeps.next | apply keeps_retrain | apply keeps_updMod
    | apply keeps_inc | split | exact mask_sub hF rfl

theorem keeps_execModCmdRetrain {F : Nat} {s0 s : State} (h0 : Keeps F s0 s) (die : Nat) (m : Nat) (req : Nat) (v : Nat) (hF : F &&& 0x100000000800000050 = 0 := by exact mask_sub (by assumption) rfl) : ResKeeps F s0 (execModCmdRetrain die m req v s) := by
  unfold execModCmdRetrain
  with_reducible repeat' first
    | (intro _) | assumption | apply ResKeeps.next | apply keeps_onKey | apply keeps_retrain | split | exact mask_sub hF rfl

theorem keeps_execModCmdUp {F : Nat} {s0 s : State} (h0 : Keeps F s0 s) (die : Nat) (m : Nat) (req : Nat) (v : Nat) (hF : F &&& 0x100000000800000050 = 0 := by exact mask_sub (by assumption) rfl) : ResKeeps F s0 (execModCmdUp die m req v s) := by
  unfold execModCmdUp
  with_reducible repeat' first
    | (intro _) | assumption | apply ResKeeps.next | apply keeps_onKey | apply keeps_modEnter | split | exact mask_sub hF rfl

theorem keeps_modDown {F : Nat} {s0 s : State} (h0 : Keeps F s0 s) (die : Nat) (m : Nat) (hF : F &&& 0x100000000800000050 = 0 := by exact mask_sub (by assumption) rfl) : Keeps F s0 (State.modDown s die m) := by
  unfold State.modDown
  with_reducible repeat' first
    | (extract_lets +onlyGivenNames x; refine keeps_let (F := F) (s0 := s0) (x := x) (fun _ => ?_) ?_; rotate_left; subst x; rotate_left; clear_value x)
    | (extract_lets +onlyGivenNames x; clear_value x) | (intro _) | assumption | apply keeps_modEnter | split | exact mask_sub hF rfl

theorem keeps_execModuleTrained {F : Nat} {s0 s : State} (h0 : Keeps F s0 s) (die : Nat) (m : Nat) (width : Nat) (hF : F &&& 0x100000000800000050 = 0 := by exact mask_sub (by assumption) rfl) : ResKeeps F s0 (execModuleTrained die m width s) := by
  unfold execModuleTrained
  with_reducible repeat' first
    | (extract_lets +onlyGivenNames x; refine keeps_let (F := F) (s0 := s0) (x := x) (fun _ => ?_) ?_; rotate_left; subst x; rotate_left; clear_value x)
    | (extract_lets +onlyGivenNames x; clear_value x) | (intro _) | assumption | apply ResKeeps.next | apply keeps_modEnter
    | apply keeps_wrFld | split | exact mask_sub hF rfl

theorem keeps_execNpTimeout {F : Nat} {s0 s : State} (h0 : Keeps F s0 s) (die : Nat) (m : Nat) (tag : Nat) (hF : F &&& 0x800000050 = 0 := by exact mask_sub (by assumption) rfl) : ResKeeps F s0 (execNpTimeout die m tag s) := by
  unfold execNpTimeout
  with_reducible repeat' first
    | (intro _)
    | (extract_lets +onlyGivenNames x; refine keeps_let (F := F) (s0 := s0) (x := x) (fun _ => ?_) ?_; rotate_left; subst x; rotate_left; clear_value x)
    | (extract_lets +onlyGivenNames x; clear_value x) | assumption | apply ResKeeps.next | apply keeps_setMod | apply keeps_inc
    | apply keeps_setBit | apply keeps_rdFault | split | exact mask_sub hF rfl | (refine keeps_of_pair (by assumption) ?_)

theorem keeps_execPfMarkWrite {F : Nat} {s0 s : State} (h0 : Keeps F s0 s) (st : Nat) (m : Nat) (i : Nat) (req : Nat) (limit : Bool) (v : Nat) (hF : F &&& 0x50 = 0 := by exact mask_sub (by assumption) rfl) : ResKeeps F s0 (execPfMarkWrite st m i req limit v s) := by
  unfold execPfMarkWrite
  with_reducible repeat' first
    | (intro _)
    | (extract_lets +onlyGivenNames x; refine keeps_let (F := F) (s0 := s0) (x := x) (fun _ => ?_) ?_; rotate_left; subst x; rotate_left; clear_value x)
    | (extract_lets +onlyGivenNames x; clear_value x) | assumption | apply ResKeeps.next | apply keeps_onKey | apply keeps_wrN
    | apply keeps_setBit | split | exact mask_sub hF rfl

theorem keeps_dropLines {F : Nat} {s0 s : State} (h0 : Keeps F s0 s) (st : Nat) (m : Nat) (p : PfLine → Bool) (hF : F &&& 0x800000040 = 0 := by exact mask_sub (by assumption) rfl) : Keeps F s0 (State.dropLines s st m p) := by
  unfold State.dropLines
  with_reducible repeat' first
    | (intro _)
    | (extract_lets +onlyGivenNames x; refine keeps_let (F := F) (s0 := s0) (x := x) (fun _ => ?_) ?_; rotate_left; subst x; rotate_left; clear_value x)
    | (extract_lets +onlyGivenNames x; clear_value x) | assumption | apply keeps_updMod | apply keeps_addSat | exact mask_sub hF rfl

theorem keeps_execPfFlush {F : Nat} {s0 s : State} (h0 : Keeps F s0 s) (st : Nat) (m : Nat) (req : Nat) (hF : F &&& 0x800000050 = 0 := by exact mask_sub (by assumption) rfl) : ResKeeps F s0 (execPfFlush st m req s) := by
  unfold execPfFlush
  with_reducible repeat' first
    | (intro _) | assumption | apply ResKeeps.next | apply keeps_onKey | apply keeps_dropLines | split | exact mask_sub hF rfl

theorem keeps_execPfLineExpire {F : Nat} {s0 s : State} (h0 : Keeps F s0 s) (st : Nat) (m : Nat) (hF : F &&& 0x800000040 = 0 := by exact mask_sub (by assumption) rfl) : ResKeeps F s0 (execPfLineExpire st m s) := by
  unfold execPfLineExpire
  with_reducible repeat' first
    | (intro _) | assumption | apply ResKeeps.next | apply keeps_dropLines | split | exact mask_sub hF rfl

theorem keeps_semHeld {F : Nat} {s0 s : State} (h0 : Keeps F s0 s) (die : Nat) (n : Nat) (b : Bool) (hF : F &&& 0x40 = 0 := by exact mask_sub (by assumption) rfl) : Keeps F s0 (State.semHeld s die n b) := by
  unfold State.semHeld
  with_reducible repeat' first
    | assumption | apply keeps_putBit | split | exact mask_sub hF rfl

theorem keeps_semTake {F : Nat} {s0 s : State} (h0 : Keeps F s0 s) (die : Nat) (n : Nat) (req : Nat) (hF : F &&& 0x40 = 0 := by exact mask_sub (by assumption) rfl) : Keeps F s0 (State.semTake s die n req) := by
  unfold State.semTake
  with_reducible repeat' first
    | (extract_lets +onlyGivenNames x; refine keeps_let (F := F) (s0 := s0) (x := x) (fun _ => ?_) ?_; rotate_left; subst x; rotate_left; clear_value x)
    | (extract_lets +onlyGivenNames x; clear_value x) | (intro _) | assumption | apply keeps_wrFld | apply keeps_clrBit
    | apply keeps_semHeld | apply keeps_setBit | split | exact mask_sub hF rfl

theorem keeps_execSemAcq {F : Nat} {s0 s : State} (h0 : Keeps F s0 s) (die : Nat) (n : Nat) (req : Nat) (rival : Nat) (hF : F &&& 0x50 = 0 := by exact mask_sub (by assumption) rfl) : ResKeeps F s0 (execSemAcq die n req rival s) := by
  unfold execSemAcq
  with_reducible repeat' first
    | (intro _)
    | (extract_lets +onlyGivenNames x; refine keeps_let (F := F) (s0 := s0) (x := x) (fun _ => ?_) ?_; rotate_left; subst x; (try dsimp -zeta only); rotate_left; clear_value x)
    | (extract_lets +onlyGivenNames x; refine keeps_letF (F := F) (s0 := s0) (x := x) (fun hf => ?_) ?_; rotate_left; subst x; (try dsimp -zeta only); rotate_left; clear_value x)
    | (extract_lets +onlyGivenNames x; refine keeps_letF2 (F := F) (s0 := s0) (x := x) (fun hf => ?_) ?_; rotate_left; subst x; (try dsimp -zeta only); rotate_left; clear_value x)
    | (extract_lets +onlyGivenNames x; refine keeps_letN (F := F) (s0 := s0) (x := x) (fun hf => ?_) ?_; rotate_left; subst x; (try dsimp -zeta only); rotate_left; clear_value x)
    | (extract_lets +onlyGivenNames x; clear_value x) | assumption | apply ResKeeps.next | apply keeps_onKey | apply keeps_semTake
    | apply keeps_wrFld | apply hf | split | exact mask_sub hF rfl

theorem keeps_execSemRel {F : Nat} {s0 s : State} (h0 : Keeps F s0 s) (die : Nat) (n : Nat) (req : Nat) (hF : F &&& 0x50 = 0 := by exact mask_sub (by assumption) rfl) : ResKeeps F s0 (execSemRel die n req s) := by
  unfold execSemRel
  with_reducible repeat' first
    | (intro _) | assumption | apply ResKeeps.next | apply keeps_onKey | apply keeps_wrFld | apply keeps_semHeld | apply keeps_incW
    | apply keeps_setBit | split | exact mask_sub hF rfl

theorem keeps_semRelease {F : Nat} {s0 s : State} (h0 : Keeps F s0 s) (die : Nat) (p : Nat → Bool) (hF : F &&& 0x40 = 0 := by exact mask_sub (by assumption) rfl) : Keeps F s0 (State.semRelease s die p) := by
  unfold State.semRelease
  with_reducible repeat' first
    | (intro _)
    | (extract_lets +onlyGivenNames x; refine keeps_let (F := F) (s0 := s0) (x := x) (fun _ => ?_) ?_; rotate_left; subst x; rotate_left; clear_value x)
    | (extract_lets +onlyGivenNames x; clear_value x) | assumption | apply keeps_forEach | apply keeps_wrFld | apply keeps_semHeld
    | apply keeps_setBit | split | exact mask_sub hF rfl

theorem keeps_execSemForceOwner {F : Nat} {s0 s : State} (h0 : Keeps F s0 s) (die : Nat) (req : Nat) (v : Nat) (hF : F &&& 0x50 = 0 := by exact mask_sub (by assumption) rfl) : ResKeeps F s0 (execSemForceOwner die req v s) := by
  unfold execSemForceOwner
  with_reducible repeat' first
    | (intro _) | assumption | apply ResKeeps.next | apply keeps_onKey | apply keeps_semRelease | split | exact mask_sub hF rfl

theorem keeps_execSemForceAll {F : Nat} {s0 s : State} (h0 : Keeps F s0 s) (die : Nat) (req : Nat) (v : Nat) (hF : F &&& 0x50 = 0 := by exact mask_sub (by assumption) rfl) : ResKeeps F s0 (execSemForceAll die req v s) := by
  unfold execSemForceAll
  with_reducible repeat' first
    | (intro _) | assumption | apply ResKeeps.next | apply keeps_onKey | apply keeps_semRelease | split | exact mask_sub hF rfl

end Sys2Proof.Machine
end

