-- ==== Sys2Proof/Laws/KeepsAxis.lean ====
section
/-! SUPPORT. What the operations of Machine/Axis.lean keep (`Keeps`), one lemma each. -/
namespace Sys2Proof.Machine
set_option Elab.async false

theorem keeps_setAx {F : Nat} {s0 s : State} (h0 : Keeps F s0 s) (a : Nat) (v : AxisS) (hF : F &&& 0x1000000000 = 0 := by exact mask_sub (by assumption) rfl) : Keeps F s0 (State.setAx s a v) := by
  unfold State.setAx
  with_reducible repeat' first
    | (intro _) | assumption | apply keeps_mk_axes | exact mask_sub hF rfl

theorem keeps_updAx {F : Nat} {s0 s : State} (h0 : Keeps F s0 s) (a : Nat) (f : AxisS → AxisS) (hF : F &&& 0x1000000000 = 0 := by exact mask_sub (by assumption) rfl) : Keeps F s0 (State.updAx s a f) := by
  unfold State.updAx
  with_reducible repeat' first
    | assumption | apply keeps_setAx | exact mask_sub hF rfl

theorem keeps_axEvent {F : Nat} {s0 s : State} (h0 : Keeps F s0 s) (a : Nat) (i : Nat) (hF : F &&& 0x40 = 0 := by exact mask_sub (by assumption) rfl) : Keeps F s0 (State.axEvent s a i) := by
  unfold State.axEvent
  with_reducible repeat' first
    | assumption | apply keeps_setBit | exact mask_sub hF rfl

theorem keeps_axTrig {F : Nat} {s0 s : State} (h0 : Keeps F s0 s) (a : Nat) (cause : Nat) (t : Nat) (hF : F &&& 0x1000000040 = 0 := by exact mask_sub (by assumption) rfl) : Keeps F s0 (State.axTrig s a cause t) := by
  unfold State.axTrig
  with_reducible repeat' first
    | (intro _)
    | (extract_lets +onlyGivenNames x; refine keeps_let (F := F) (s0 := s0) (x := x) (fun _ => ?_) ?_; rotate_left; subst x; rotate_left; clear_value x)
    | (extract_lets +onlyGivenNames x; refine keeps_let1 (F := F) (s0 := s0) (x := x) (fun _ => ?_) ?_; rotate_left; subst x; rotate_left; clear_value x)
    | (extract_lets +onlyGivenNames x; clear_value x) | (extract_lets +onlyGivenNames x; subst x) | assumption | apply keeps_setAx
    | apply keeps_inc | apply keeps_axEvent | split | exact mask_sub hF rfl | (refine keeps_of_pair (by assumption) ?_)

theorem keeps_axPulse {F : Nat} {s0 s : State} (h0 : Keeps F s0 s) (a : Nat) (j : Nat) (t : Nat) (hF : F &&& 0x40000 = 0 := by exact mask_sub (by assumption) rfl) : Keeps F s0 (State.axPulse s a j t) := by
  unfold State.axPulse
  with_reducible repeat' first
    | assumption | apply keeps_pulseAt | exact mask_sub hF rfl

theorem keeps_axSample {F : Nat} {s0 s : State} (h0 : Keeps F s0 s) (a : Nat) (t : Nat) (hF : F &&& 0x1000000040 = 0 := by exact mask_sub (by assumption) rfl) : Keeps F s0 (State.axSample s a t) := by
  unfold State.axSample
  with_reducible repeat' first
    | (extract_lets +onlyGivenNames x; refine keeps_let (F := F) (s0 := s0) (x := x) (fun _ => ?_) ?_; rotate_left; subst x; rotate_left; clear_value x)
    | (extract_lets +onlyGivenNames x; clear_value x) | (intro _) | assumption | apply keeps_putBit | apply keeps_setAx | split
    | exact mask_sub hF rfl

theorem keeps_axWindow {F : Nat} {s0 s : State} (h0 : Keeps F s0 s) (a : Nat) (t : Nat) (before : Bool) (reference : Bool) (hF : F &&& 0x1000040040 = 0 := by exact mask_sub (by assumption) rfl) : Keeps F s0 (State.axWindow s a t before reference) := by
  unfold State.axWindow
  with_reducible repeat' first
    | assumption | apply keeps_axPulse | apply keeps_axEvent | apply keeps_axTrig | split | exact mask_sub hF rfl

theorem keeps_axMove {F : Nat} {s0 s : State} (h0 : Keeps F s0 s) (a : Nat) (t : Nat) (d : Int) (hF : F &&& 0x1000040040 = 0 := by exact mask_sub (by assumption) rfl) : Keeps F s0 (State.axMove s a t d) := by
  unfold State.axMove
  with_reducible repeat' first
    | (intro _)
    | (extract_lets +onlyGivenNames x; refine keeps_let (F := F) (s0 := s0) (x := x) (fun _ => ?_) ?_; rotate_left; subst x; rotate_left; clear_value x)
    | (extract_lets +onlyGivenNames x; clear_value x) | assumption | apply keeps_wr | apply keeps_updAx | apply keeps_axWindow | split
    | exact mask_sub hF rfl

theorem keeps_axSetC {F : Nat} {s0 s : State} (h0 : Keeps F s0 s) (a : Nat) (t : Nat) (c : Word) (hF : F &&& 0x1000000040 = 0 := by exact mask_sub (by assumption) rfl) : Keeps F s0 (State.axSetC s a t c) := by
  unfold State.axSetC
  with_reducible repeat' first
    | (intro _)
    | (extract_lets +onlyGivenNames x; refine keeps_let (F := F) (s0 := s0) (x := x) (fun _ => ?_) ?_; rotate_left; subst x; rotate_left; clear_value x)
    | (extract_lets +onlyGivenNames x; clear_value x) | assumption | apply keeps_wr | apply keeps_updAx | split | exact mask_sub hF rfl

theorem keeps_axFault {F : Nat} {s0 s : State} (h0 : Keeps F s0 s) (a : Nat) (t : Nat) (hF : F &&& 0x1000040040 = 0 := by exact mask_sub (by assumption) rfl) : Keeps F s0 (State.axFault s a t) := by
  unfold State.axFault
  with_reducible repeat' first
    | (intro _)
    | (extract_lets +onlyGivenNames x; refine keeps_let (F := F) (s0 := s0) (x := x) (fun _ => ?_) ?_; rotate_left; subst x; rotate_left; clear_value x)
    | (extract_lets +onlyGivenNames x; clear_value x) | assumption | apply keeps_clrBit | apply keeps_setBit | apply keeps_updAx
    | apply keeps_axPulse | apply keeps_axEvent | apply keeps_axTrig | split | exact mask_sub hF rfl

theorem keeps_axIllegal {F : Nat} {s0 s : State} (h0 : Keeps F s0 s) (a : Nat) (t : Nat) (hF : F &&& 0x1000040040 = 0 := by exact mask_sub (by assumption) rfl) : Keeps F s0 (State.axIllegal s a t) := by
  unfold State.axIllegal
  with_reducible repeat' first
    | (extract_lets +onlyGivenNames x; refine keeps_let (F := F) (s0 := s0) (x := x) (fun _ => ?_) ?_; rotate_left; subst x; rotate_left; clear_value x)
    | (extract_lets +onlyGivenNames x; clear_value x) | (intro _) | assumption | apply keeps_setAx | apply keeps_inc | apply keeps_axEvent
    | apply keeps_axFault | split | exact mask_sub hF rfl | (refine keeps_of_pair (by assumption) ?_)

theorem keeps_axReference {F : Nat} {s0 s : State} (h0 : Keeps F s0 s) (a : Nat) (t : Nat) (keepOfs : Bool) (hF : F &&& 0x1000040040 = 0 := by exact mask_sub (by assumption) rfl) : Keeps F s0 (State.axReference s a t keepOfs) := by
  unfold State.axReference
  with_reducible repeat' first
    | (intro _)
    | (extract_lets +onlyGivenNames x; refine keeps_let (F := F) (s0 := s0) (x := x) (fun _ => ?_) ?_; rotate_left; subst x; rotate_left; clear_value x)
    | (extract_lets +onlyGivenNames x; clear_value x) | assumption | apply keeps_updAx | apply keeps_wr | apply keeps_axEvent
    | apply keeps_axTrig | apply keeps_axWindow | split | exact mask_sub hF rfl

theorem keeps_execAxisCount {F : Nat} {s0 s : State} (h0 : Keeps F s0 s) (axis : Nat) (levels : Nat) (stamp : Nat) (held : Nat) (hF : F &&& 0x1000040040 = 0 := by exact mask_sub (by assumption) rfl) : ResKeeps F s0 (execAxisCount axis levels stamp held s) := by
  unfold execAxisCount
  with_reducible repeat' first
    | (intro _)
    | (extract_lets +onlyGivenNames x; refine keeps_let (F := F) (s0 := s0) (x := x) (fun _ => ?_) ?_; rotate_left; subst x; rotate_left; clear_value x)
    | (extract_lets +onlyGivenNames x; clear_value x) | assumption | apply ResKeeps.next | apply keeps_wrFld | apply keeps_updAx
    | apply keeps_axIllegal | apply keeps_axSample | apply keeps_axMove | split | exact mask_sub hF rfl
    | (refine keeps_of_pair (by assumption) ?_)

theorem keeps_axCheckIndex {F : Nat} {s0 s : State} (h0 : Keeps F s0 s) (a : Nat) (t : Nat) (hF : F &&& 0x1000040040 = 0 := by exact mask_sub (by assumption) rfl) : Keeps F s0 (State.axCheckIndex s a t) := by
  unfold State.axCheckIndex
  with_reducible repeat' first
    | (extract_lets +onlyGivenNames x; refine keeps_let (F := F) (s0 := s0) (x := x) (fun _ => ?_) ?_; rotate_left; subst x; rotate_left; clear_value x)
    | (extract_lets +onlyGivenNames x; clear_value x) | (intro _) | assumption | apply keeps_inc | apply keeps_axEvent | apply keeps_wrI
    | apply keeps_wr | apply keeps_axWindow | apply keeps_axFault | split | exact mask_sub hF rfl

theorem keeps_execAxisIndex {F : Nat} {s0 s : State} (h0 : Keeps F s0 s) (axis : Nat) (stamp : Nat) (held : Nat) (hF : F &&& 0x1000040040 = 0 := by exact mask_sub (by assumption) rfl) : ResKeeps F s0 (execAxisIndex axis stamp held s) := by
  unfold execAxisIndex
  with_reducible repeat' first
    | (extract_lets +onlyGivenNames x; refine keeps_let (F := F) (s0 := s0) (x := x) (fun _ => ?_) ?_; rotate_left; subst x; rotate_left; clear_value x)
    | (extract_lets +onlyGivenNames x; clear_value x) | (intro _) | assumption | apply ResKeeps.next | apply keeps_putBit | apply keeps_wr
    | apply keeps_axPulse | apply keeps_axTrig | apply keeps_clrBit | apply keeps_axReference | apply keeps_axCheckIndex
    | apply keeps_axSample | split | exact mask_sub hF rfl

theorem keeps_execSsiPoll {F : Nat} {s0 s : State} (h0 : Keeps F s0 s) (axis : Nat) (hF : F &&& 0x1000000000 = 0 := by exact mask_sub (by assumption) rfl) : ResKeeps F s0 (execSsiPoll axis s) := by
  unfold execSsiPoll
  with_reducible repeat' first
    | (intro _)
    | (extract_lets +onlyGivenNames x; refine keeps_let (F := F) (s0 := s0) (x := x) (fun _ => ?_) ?_; rotate_left; subst x; rotate_left; clear_value x)
    | (extract_lets +onlyGivenNames x; clear_value x) | assumption | apply ResKeeps.next | apply keeps_updAx | split
    | exact mask_sub hF rfl | (refine keeps_of_pair (by assumption) ?_)

theorem keeps_axSsiWord {F : Nat} {s0 s : State} (h0 : Keeps F s0 s) (a : Nat) (t : Nat) (bin : Nat) (bits : Nat) (hF : F &&& 0x1000040040 = 0 := by exact mask_sub (by assumption) rfl) : Keeps F s0 (State.axSsiWord s a t bin bits) := by
  unfold State.axSsiWord
  with_reducible repeat' first
    | (intro _)
    | (extract_lets +onlyGivenNames x; refine keeps_let (F := F) (s0 := s0) (x := x) (fun _ => ?_) ?_; rotate_left; subst x; rotate_left; clear_value x)
    | (extract_lets +onlyGivenNames x; clear_value x) | assumption | apply keeps_updAx | apply keeps_axSetC | apply keeps_wr
    | apply keeps_axEvent | apply keeps_axTrig | apply keeps_axWindow | apply keeps_axIllegal | apply keeps_axMove | split
    | exact mask_sub hF rfl

theorem keeps_execSsiFrameDone {F : Nat} {s0 s : State} (h0 : Keeps F s0 s) (axis : Nat) (word : Nat) (highOk : Bool) (hF : F &&& 0x1000040040 = 0 := by exact mask_sub (by assumption) rfl) : ResKeeps F s0 (execSsiFrameDone axis word highOk s) := by
  unfold execSsiFrameDone
  with_reducible repeat' first
    | (intro _)
    | (extract_lets +onlyGivenNames x; refine keeps_let (F := F) (s0 := s0) (x := x) (fun _ => ?_) ?_; rotate_left; subst x; rotate_left; clear_value x)
    | (extract_lets +onlyGivenNames x; clear_value x) | assumption | apply ResKeeps.next | apply keeps_updAx | apply keeps_wrN
    | apply keeps_axSsiWord | apply keeps_axSample | apply keeps_inc | apply keeps_axEvent | apply keeps_axIllegal | split
    | exact mask_sub hF rfl | (refine keeps_of_pair (by assumption) ?_)

theorem keeps_execObserverUpdate {F : Nat} {s0 s : State} (h0 : Keeps F s0 s) (axis : Nat) (hF : F &&& 0x1000000048 = 0 := by exact mask_sub (by assumption) rfl) : ResKeeps F s0 (execObserverUpdate axis s) := by
  unfold execObserverUpdate
  with_reducible repeat' first
    | (extract_lets +onlyGivenNames x; refine keeps_let (F := F) (s0 := s0) (x := x) (fun _ => ?_) ?_; rotate_left; subst x; rotate_left; clear_value x)
    | (extract_lets +onlyGivenNames x; clear_value x) | (intro _) | assumption | apply ResKeeps.next | apply keeps_setAx
    | apply keeps_skipFree | apply keeps_axSample | split | exact mask_sub hF rfl

theorem keeps_execIllWinExpire {F : Nat} {s0 s : State} (h0 : Keeps F s0 s) (axis : Nat) (hF : F &&& 0x1000000000 = 0 := by exact mask_sub (by assumption) rfl) : ResKeeps F s0 (execIllWinExpire axis s) := by
  unfold execIllWinExpire
  with_reducible repeat' first
    | (intro _) | assumption | apply ResKeeps.next | apply keeps_updAx | split | exact mask_sub hF rfl
    | (refine keeps_of_pair (by assumption) ?_)

theorem keeps_axClear {F : Nat} {s0 s : State} (h0 : Keeps F s0 s) (a : Nat) (hF : F &&& 0x1000000040 = 0 := by exact mask_sub (by assumption) rfl) : Keeps F s0 (State.axClear s a) := by
  unfold State.axClear
  with_reducible repeat' first
    | (intro _) | assumption | apply keeps_axSetC | apply keeps_updAx | apply keeps_clrBit | exact mask_sub hF rfl

theorem keeps_axModeCommit {F : Nat} {s0 s : State} (h0 : Keeps F s0 s) (a : Nat) (hF : F &&& 0x1000000040 = 0 := by exact mask_sub (by assumption) rfl) : Keeps F s0 (State.axModeCommit s a) := by
  unfold State.axModeCommit
  with_reducible repeat' first
    | (intro _) | assumption | apply keeps_axClear | apply keeps_updAx | split | exact mask_sub hF rfl

theorem keeps_execAxCommit {F : Nat} {s0 s : State} (h0 : Keeps F s0 s) (axis : Nat) (req : Nat) (v : Nat) (hF : F &&& 0x4000010000000d0 = 0 := by exact mask_sub (by assumption) rfl) : ResKeeps F s0 (execAxCommit axis req v s) := by
  unfold execAxCommit
  with_reducible repeat' first
    | (intro _)
    | (extract_lets +onlyGivenNames x; refine keeps_let (F := F) (s0 := s0) (x := x) (fun _ => ?_) ?_; rotate_left; subst x; rotate_left; clear_value x)
    | (extract_lets +onlyGivenNames x; clear_value x) | assumption | apply ResKeeps.next | apply keeps_onKey | apply keeps_wrN
    | apply keeps_axEvent | apply keeps_logRefused | apply keeps_undirty | apply keeps_commitRegs | apply keeps_axModeCommit
    | apply keeps_updAx | apply keeps_axSample | split | exact mask_sub hF rfl

theorem keeps_axCmdBit {F : Nat} {s0 s : State} (h0 : Keeps F s0 s) (axis : Nat) (req : Nat) (v : Nat) (bit : Nat) (f : State → State) (h_f : ∀ u, Keeps F s0 u → Keeps F s0 (f u)) (hF : F &&& 0x1000000050 = 0 := by exact mask_sub (by assumption) rfl) : Keeps F s0 (axCmdBit axis req v bit f s) := by
  unfold axCmdBit
  with_reducible repeat' first
    | (intro _) | assumption | apply keeps_onKey | apply keeps_axSample | apply h_f | split | exact mask_sub hF rfl

theorem keeps_execAxRef {F : Nat} {s0 s : State} (h0 : Keeps F s0 s) (axis : Nat) (req : Nat) (v : Nat) (hF : F &&& 0x1000040050 = 0 := by exact mask_sub (by assumption) rfl) : ResKeeps F s0 (execAxRef axis req v s) := by
  unfold execAxRef
  with_reducible repeat' first
    | (intro _) | assumption | apply ResKeeps.next | apply keeps_axCmdBit | apply keeps_axReference | split | exact mask_sub hF rfl

theorem keeps_execArmHome {F : Nat} {s0 s : State} (h0 : Keeps F s0 s) (axis : Nat) (req : Nat) (v : Nat) (hF : F &&& 0x1000000050 = 0 := by exact mask_sub (by assumption) rfl) : ResKeeps F s0 (execArmHome axis req v s) := by
  unfold execArmHome
  with_reducible repeat' first
    | (intro _) | assumption | apply ResKeeps.next | apply keeps_axCmdBit | apply keeps_setBit | exact mask_sub hF rfl

theorem keeps_execClrCount {F : Nat} {s0 s : State} (h0 : Keeps F s0 s) (axis : Nat) (req : Nat) (v : Nat) (hF : F &&& 0x1000000050 = 0 := by exact mask_sub (by assumption) rfl) : ResKeeps F s0 (execClrCount axis req v s) := by
  unfold execClrCount
  with_reducible repeat' first
    | (intro _) | assumption | apply ResKeeps.next | apply keeps_axCmdBit | apply keeps_axClear | exact mask_sub hF rfl

theorem keeps_execAxisRecPeriodic {F : Nat} {s0 s : State} (h0 : Keeps F s0 s) (axis : Nat) (hF : F &&& 0x1000000040 = 0 := by exact mask_sub (by assumption) rfl) : ResKeeps F s0 (execAxisRecPeriodic axis s) := by
  unfold execAxisRecPeriodic
  with_reducible repeat' first
    | (intro _)
    | (extract_lets +onlyGivenNames x; refine keeps_let (F := F) (s0 := s0) (x := x) (fun _ => ?_) ?_; rotate_left; subst x; rotate_left; clear_value x)
    | (extract_lets +onlyGivenNames x; clear_value x) | assumption | apply ResKeeps.next | apply keeps_updAx | apply keeps_axTrig | split
    | exact mask_sub hF rfl

theorem keeps_execAxisRecordWrite {F : Nat} {s0 s : State} (h0 : Keeps F s0 s) (axis : Nat) (hF : F &&& 0x40000100407c068 = 0 := by exact mask_sub (by assumption) rfl) : ResKeeps F s0 (execAxisRecordWrite axis s) := by
  unfold execAxisRecordWrite
  with_reducible repeat' first
    | (intro _)
    | (extract_lets +onlyGivenNames x; refine keeps_let (F := F) (s0 := s0) (x := x) (fun _ => ?_) ?_; rotate_left; subst x; rotate_left; clear_value x)
    | (extract_lets +onlyGivenNames x; clear_value x) | assumption | apply ResKeeps.next | apply keeps_setAx | apply keeps_closeRec
    | split | exact mask_sub hF rfl | (refine keeps_of_pair (by assumption) ?_)

theorem keeps_execAxisCountRead {F : Nat} {s0 s : State} (h0 : Keeps F s0 s) (axis : Nat) (req : Nat) (hF : F &&& 0x150 = 0 := by exact mask_sub (by assumption) rfl) : ResKeeps F s0 (execAxisCountRead axis req s) := by
  unfold execAxisCountRead
  with_reducible repeat' first
    | (intro _)
    | (extract_lets +onlyGivenNames x; refine keeps_let (F := F) (s0 := s0) (x := x) (fun _ => ?_) ?_; rotate_left; subst x; rotate_left; clear_value x)
    | (extract_lets +onlyGivenNames x; clear_value x) | assumption | apply ResKeeps.next | apply keeps_onKey | apply keeps_latch
    | apply keeps_respond | exact mask_sub hF rfl

theorem keeps_axChannel {F : Nat} {s0 s : State} (h0 : Keeps F s0 s) (die : Nat) (ch : Nat) (t : Nat) (hF : F &&& 0x1000000040 = 0 := by exact mask_sub (by assumption) rfl) : Keeps F s0 (State.axChannel s die ch t) := by
  unfold State.axChannel
  with_reducible repeat' first
    | (intro _)
    | (extract_lets +onlyGivenNames x; refine keeps_let (F := F) (s0 := s0) (x := x) (fun _ => ?_) ?_; rotate_left; subst x; rotate_left; clear_value x)
    | (extract_lets +onlyGivenNames x; clear_value x) | assumption | apply keeps_forEach | apply keeps_axTrig | split
    | exact mask_sub hF rfl

end Sys2Proof.Machine
end

