-- ==== Sys2Proof/Laws/KeepsEventFab.lean ====
section
/-! SUPPORT. What the operations of Machine/EventFab.lean keep (`Keeps`), one lemma each. -/
namespace Sys2Proof.Machine
set_option Elab.async false

theorem keeps_efEvent {F : Nat} {s0 s : State} (h0 : Keeps F s0 s) (die : Nat) (i : Nat) (hF : F &&& 0x40 = 0 := by exact mask_sub (by assumption) rfl) : Keeps F s0 (State.efEvent s die i) := by
  unfold State.efEvent
  with_reducible repeat' first
    | assumption | apply keeps_setBit | apply keeps_logErr | split | exact mask_sub hF rfl

theorem keeps_updEf {F : Nat} {s0 s : State} (h0 : Keeps F s0 s) (die : Nat) (f : EfS → EfS) (hF : F &&& 0x40000 = 0 := by exact mask_sub (by assumption) rfl) : Keeps F s0 (State.updEf s die f) := by
  unfold State.updEf
  with_reducible repeat' first
    | assumption | apply keeps_setEf | exact mask_sub hF rfl

theorem keeps_setWin {F : Nat} {s0 s : State} (h0 : Keeps F s0 s) (die : Nat) (w : Nat) (v : WinS) (hF : F &&& 0x40000 = 0 := by exact mask_sub (by assumption) rfl) : Keeps F s0 (State.setWin s die w v) := by
  unfold State.setWin
  with_reducible repeat' first
    | (intro _) | assumption | apply keeps_updEf | exact mask_sub hF rfl

theorem keeps_setCell {F : Nat} {s0 s : State} (h0 : Keeps F s0 s) (die : Nat) (c : Nat) (v : CellS) (hF : F &&& 0x40000 = 0 := by exact mask_sub (by assumption) rfl) : Keeps F s0 (State.setCell s die c v) := by
  unfold State.setCell
  with_reducible repeat' first
    | (intro _) | assumption | apply keeps_updEf | exact mask_sub hF rfl

theorem keeps_cellOut {F : Nat} {s0 s : State} (h0 : Keeps F s0 s) (die : Nat) (c : Nat) (hF : F &&& 0x40040 = 0 := by exact mask_sub (by assumption) rfl) : Keeps F s0 (State.cellOut s die c) := by
  unfold State.cellOut
  with_reducible repeat' first
    | assumption | apply keeps_inc | apply keeps_setCell | split | exact mask_sub hF rfl

theorem keeps_combNote {F : Nat} {s0 s : State} (h0 : Keeps F s0 s) (die : Nat) (c : Nat) (hF : F &&& 0x40040 = 0 := by exact mask_sub (by assumption) rfl) : Keeps F s0 (State.combNote s die c) := by
  unfold State.combNote
  with_reducible repeat' first
    | (extract_lets +onlyGivenNames x; refine keeps_let (F := F) (s0 := s0) (x := x) (fun _ => ?_) ?_; rotate_left; subst x; rotate_left; clear_value x)
    | (extract_lets +onlyGivenNames x; clear_value x) | (intro _) | assumption | apply keeps_wrFld | apply keeps_cellOut | split
    | exact mask_sub hF rfl

theorem keeps_taskIn {F : Nat} {s0 s : State} (h0 : Keeps F s0 s) (die : Nat) (ti : Nat) (n : Nat) (hF : F &&& 0x10000040 = 0 := by exact mask_sub (by assumption) rfl) : Keeps F s0 (State.taskIn s die ti n) := by
  unfold State.taskIn
  with_reducible repeat' first
    | (extract_lets +onlyGivenNames x; refine keeps_let (F := F) (s0 := s0) (x := x) (fun _ => ?_) ?_; rotate_left; subst x; rotate_left; clear_value x)
    | (extract_lets +onlyGivenNames x; clear_value x) | (intro _) | assumption | apply keeps_setBit | apply keeps_inc
    | apply keeps_efEvent | apply keeps_chStart | split | exact mask_sub hF rfl

theorem keeps_latchAll {F : Nat} {s0 s : State} (h0 : Keeps F s0 s) (die : Nat) (n : Nat) (hF : F &&& 0x40 = 0 := by exact mask_sub (by assumption) rfl) : Keeps F s0 (State.latchAll s die n) := by
  unfold State.latchAll
  with_reducible repeat' first
    | (intro _)
    | (extract_lets +onlyGivenNames x; refine keeps_let (F := F) (s0 := s0) (x := x) (fun _ => ?_) ?_; rotate_left; subst x; rotate_left; clear_value x)
    | (extract_lets +onlyGivenNames x; clear_value x) | assumption | apply keeps_forEach | apply keeps_setBit | apply keeps_unblock
    | split | exact mask_sub hF rfl

theorem keeps_drivePin {F : Nat} {s0 s : State} (h0 : Keeps F s0 s) (die : Nat) (i : Nat) (active : Bool) (until_ : Option Nat) (hF : F &&& 0x40060 = 0 := by exact mask_sub (by assumption) rfl) : Keeps F s0 (State.drivePin s die i active until_) := by
  unfold State.drivePin
  with_reducible repeat' first
    | (intro _)
    | (extract_lets +onlyGivenNames x; refine keeps_let (F := F) (s0 := s0) (x := x) (fun _ => ?_) ?_; rotate_left; subst x; rotate_left; clear_value x)
    | (extract_lets +onlyGivenNames x; clear_value x) | assumption | apply keeps_updEf | apply keeps_putBit | apply keeps_emit | split
    | exact mask_sub hF rfl

theorem keeps_releasePin {F : Nat} {s0 s : State} (h0 : Keeps F s0 s) (die : Nat) (i : Nat) (hF : F &&& 0x40060 = 0 := by exact mask_sub (by assumption) rfl) : Keeps F s0 (State.releasePin s die i) := by
  unfold State.releasePin
  with_reducible repeat' first
    | (intro _) | assumption | apply keeps_updEf | apply keeps_clrBit | apply keeps_emit | exact mask_sub hF rfl

theorem keeps_pinEvents {F : Nat} {s0 s : State} (h0 : Keeps F s0 s) (die : Nat) (evs : List ChEv) (i : Nat) (hF : F &&& 0x40060 = 0 := by exact mask_sub (by assumption) rfl) : Keeps F s0 (State.pinEvents s die evs i) := by
  unfold State.pinEvents
  with_reducible repeat' first
    | (intro _)
    | (extract_lets +onlyGivenNames x; refine keeps_let (F := F) (s0 := s0) (x := x) (fun _ => ?_) ?_; rotate_left; subst x; rotate_left; clear_value x)
    | (extract_lets +onlyGivenNames x; clear_value x) | assumption | apply keeps_inc | apply keeps_drivePin | split
    | exact mask_sub hF rfl

theorem keeps_capture {F : Nat} {s0 s : State} (h0 : Keeps F s0 s) (die : Nat) (q : Nat) (wins : Nat) (pins : Nat) (e : ChEv) (hF : F &&& 0x40040 = 0 := by exact mask_sub (by assumption) rfl) : Keeps F s0 (State.capture s die q wins pins e) := by
  unfold State.capture
  with_reducible repeat' first
    | (extract_lets +onlyGivenNames x; refine keeps_let (F := F) (s0 := s0) (x := x) (fun _ => ?_) ?_; rotate_left; subst x; rotate_left; clear_value x)
    | (extract_lets +onlyGivenNames x; clear_value x) | (intro _) | assumption | apply keeps_setEf | apply keeps_inc | apply keeps_efEvent
    | split | exact mask_sub hF rfl

theorem keeps_relayExport {F : Nat} {s0 s : State} (h0 : Keeps F s0 s) (die : Nat) (e : ChEv) (hF : F &&& 0x2000040040 = 0 := by exact mask_sub (by assumption) rfl) : Keeps F s0 (State.relayExport s die e) := by
  unfold State.relayExport
  with_reducible repeat' first
    | (intro _)
    | (extract_lets +onlyGivenNames x; refine keeps_let (F := F) (s0 := s0) (x := x) (fun _ => ?_) ?_; rotate_left; subst x; rotate_left; clear_value x)
    | (extract_lets +onlyGivenNames x; clear_value x) | assumption | apply keeps_inc | apply keeps_efEvent | apply keeps_setEf
    | apply keeps_forEach | split | apply keeps_mk_relaySt | exact mask_sub hF rfl | (refine keeps_of_pair (by assumption) ?_)

theorem keeps_deliver {F : Nat} {s0 s : State} (h0 : Keeps F s0 s) (die : Nat) (evs : List ChEv) (hF : F &&& 0x3010040060 = 0 := by exact mask_sub (by assumption) rfl) : Keeps F s0 (State.deliver s die evs) := by
  unfold State.deliver
  with_reducible repeat' first
    | (intro _)
    | (extract_lets +onlyGivenNames x; refine keeps_let (F := F) (s0 := s0) (x := x) (fun _ => ?_) ?_; rotate_left; subst x; rotate_left; clear_value x)
    | (extract_lets +onlyGivenNames x; clear_value x) | assumption | apply keeps_forEach | apply keeps_latchAll | apply keeps_taskIn
    | apply keeps_setBit | apply keeps_pinEvents | apply keeps_capture | apply keeps_relayExport | apply keeps_axChannel | split
    | exact mask_sub hF rfl

theorem keeps_cellEnd {F : Nat} {s0 s : State} (h0 : Keeps F s0 s) (die : Nat) (c : Nat) (f : Bool) (hF : F &&& 0x40040 = 0 := by exact mask_sub (by assumption) rfl) : Keeps F s0 (State.cellEnd s die c f) := by
  unfold State.cellEnd
  with_reducible repeat' first
    | (intro _)
    | (extract_lets +onlyGivenNames x; refine keeps_let (F := F) (s0 := s0) (x := x) (fun _ => ?_) ?_; rotate_left; subst x; rotate_left; clear_value x)
    | (extract_lets +onlyGivenNames x; clear_value x) | assumption | apply keeps_putBit | apply keeps_setCell | apply keeps_updEf | split
    | exact mask_sub hF rfl

theorem keeps_efBegin {F : Nat} {s0 s : State} (h0 : Keeps F s0 s) (die : Nat) (hF : F &&& 0x40000 = 0 := by exact mask_sub (by assumption) rfl) : Keeps F s0 (State.efBegin s die) := by
  unfold State.efBegin
  with_reducible repeat' first
    | (intro _) | assumption | apply keeps_updEf | split | exact mask_sub hF rfl

theorem keeps_efCycle {F : Nat} {s0 s : State} (h0 : Keeps F s0 s) (die : Nat) (held : List ChEv) (ps : List (Nat × Nat)) (hF : F &&& 0x3010040060 = 0 := by exact mask_sub (by assumption) rfl) : Keeps F s0 (State.efCycle s die held ps) := by
  unfold State.efCycle
  with_reducible repeat' first
    | (intro _)
    | (extract_lets +onlyGivenNames x; refine keeps_let (F := F) (s0 := s0) (x := x) (fun _ => ?_) ?_; rotate_left; subst x; rotate_left; clear_value x)
    | (extract_lets +onlyGivenNames x; clear_value x) | assumption | apply keeps_efBegin | apply keeps_forEach | apply keeps_combNote
    | apply keeps_addSat | apply keeps_updEf | apply keeps_deliver | apply keeps_cellEnd | split | exact mask_sub hF rfl

theorem keeps_efIdle {F : Nat} {s0 s : State} (h0 : Keeps F s0 s) (die : Nat) (hF : F &&& 0x40040 = 0 := by exact mask_sub (by assumption) rfl) : Keeps F s0 (State.efIdle s die) := by
  unfold State.efIdle
  with_reducible repeat' first
    | (intro _)
    | (extract_lets +onlyGivenNames x; refine keeps_let (F := F) (s0 := s0) (x := x) (fun _ => ?_) ?_; rotate_left; subst x; rotate_left; clear_value x)
    | (extract_lets +onlyGivenNames x; clear_value x) | assumption | apply keeps_efBegin | apply keeps_forEach | apply keeps_combNote
    | apply keeps_pulseAt | apply keeps_cellEnd | split | exact mask_sub hF rfl

theorem keeps_efTake {F : Nat} {s0 s : State} (h0 : Keeps F s0 s) (die : Nat) (c : Nat) (hF : F &&& 0x3010040060 = 0 := by exact mask_sub (by assumption) rfl) : Keeps F s0 (State.efTake s die c) := by
  unfold State.efTake
  with_reducible repeat' first
    | (intro _)
    | (extract_lets +onlyGivenNames x; refine keeps_let (F := F) (s0 := s0) (x := x) (fun _ => ?_) ?_; rotate_left; subst x; rotate_left; clear_value x)
    | (extract_lets +onlyGivenNames x; clear_value x) | assumption | apply keeps_setEf | apply keeps_efCycle | exact mask_sub hF rfl

theorem keeps_execChannelEvent {F : Nat} {s0 s : State} (h0 : Keeps F s0 s) (die : Nat) (hF : F &&& 0x3010040060 = 0 := by exact mask_sub (by assumption) rfl) : ResKeeps F s0 (execChannelEvent die s) := by
  unfold execChannelEvent
  with_reducible repeat' first
    | (intro _) | assumption | apply ResKeeps.next | apply keeps_efTake | split | exact mask_sub hF rfl
    | (refine keeps_of_pair (by assumption) ?_)

theorem keeps_execClockedDelivery {F : Nat} {s0 s : State} (h0 : Keeps F s0 s) (die : Nat) (hF : F &&& 0x3010040060 = 0 := by exact mask_sub (by assumption) rfl) : ResKeeps F s0 (execClockedDelivery die s) := by
  unfold execClockedDelivery
  with_reducible repeat' first
    | (intro _) | assumption | apply ResKeeps.next | apply keeps_efTake | split | exact mask_sub hF rfl
    | (refine keeps_of_pair (by assumption) ?_)

theorem keeps_execCellRegPulse {F : Nat} {s0 s : State} (h0 : Keeps F s0 s) (die : Nat) (cell : Nat) (hF : F &&& 0x40040 = 0 := by exact mask_sub (by assumption) rfl) : ResKeeps F s0 (execCellRegPulse die cell s) := by
  unfold execCellRegPulse
  with_reducible repeat' first
    | (intro _)
    | (extract_lets +onlyGivenNames x; refine keeps_let (F := F) (s0 := s0) (x := x) (fun _ => ?_) ?_; rotate_left; subst x; rotate_left; clear_value x)
    | (extract_lets +onlyGivenNames x; clear_value x) | assumption | apply ResKeeps.next | apply keeps_updEf | apply keeps_cellOut
    | apply keeps_pulse | split | exact mask_sub hF rfl | (refine keeps_of_pair (by assumption) ?_)

theorem keeps_execCellStableExpire {F : Nat} {s0 s : State} (h0 : Keeps F s0 s) (die : Nat) (cell : Nat) (hF : F &&& 0x40040 = 0 := by exact mask_sub (by assumption) rfl) : ResKeeps F s0 (execCellStableExpire die cell s) := by
  unfold execCellStableExpire
  with_reducible repeat' first
    | (intro _)
    | (extract_lets +onlyGivenNames x; refine keeps_let (F := F) (s0 := s0) (x := x) (fun _ => ?_) ?_; rotate_left; subst x; rotate_left; clear_value x)
    | (extract_lets +onlyGivenNames x; clear_value x) | assumption | apply ResKeeps.next | apply keeps_putBit | apply keeps_setCell
    | apply keeps_updEf | split | exact mask_sub hF rfl | (refine keeps_of_pair (by assumption) ?_)

theorem keeps_execHoldoffExpire {F : Nat} {s0 s : State} (h0 : Keeps F s0 s) (die : Nat) (cell : Nat) (hF : F &&& 0x40000 = 0 := by exact mask_sub (by assumption) rfl) : ResKeeps F s0 (execHoldoffExpire die cell s) := by
  unfold execHoldoffExpire
  with_reducible repeat' first
    | assumption | apply ResKeeps.next | apply keeps_setCell | split | exact mask_sub hF rfl | (refine keeps_of_pair (by assumption) ?_)

theorem keeps_execWindowOpen {F : Nat} {s0 s : State} (h0 : Keeps F s0 s) (die : Nat) (w : Nat) (hF : F &&& 0x40000 = 0 := by exact mask_sub (by assumption) rfl) : ResKeeps F s0 (execWindowOpen die w s) := by
  unfold execWindowOpen
  with_reducible repeat' first
    | (extract_lets +onlyGivenNames x; refine keeps_let (F := F) (s0 := s0) (x := x) (fun _ => ?_) ?_; rotate_left; subst x; rotate_left; clear_value x)
    | (extract_lets +onlyGivenNames x; clear_value x) | (intro _) | assumption | apply ResKeeps.next | apply keeps_setWin
    | apply keeps_pulse | split | exact mask_sub hF rfl

theorem keeps_execWindowClose {F : Nat} {s0 s : State} (h0 : Keeps F s0 s) (die : Nat) (w : Nat) (hF : F &&& 0x40000 = 0 := by exact mask_sub (by assumption) rfl) : ResKeeps F s0 (execWindowClose die w s) := by
  unfold execWindowClose
  with_reducible repeat' first
    | (extract_lets +onlyGivenNames x; refine keeps_let (F := F) (s0 := s0) (x := x) (fun _ => ?_) ?_; rotate_left; subst x; rotate_left; clear_value x)
    | (extract_lets +onlyGivenNames x; clear_value x) | (intro _) | assumption | apply ResKeeps.next | apply keeps_setWin
    | apply keeps_pulse | split | exact mask_sub hF rfl

theorem keeps_stepWindow {F : Nat} {s0 s : State} (h0 : Keeps F s0 s) (die : Nat) (w : Nat) (old : Nat) (new : Nat) (hF : F &&& 0x40000 = 0 := by exact mask_sub (by assumption) rfl) : Keeps F s0 (State.stepWindow s die w old new) := by
  unfold State.stepWindow
  with_reducible repeat' first
    | (extract_lets +onlyGivenNames x; refine keeps_let (F := F) (s0 := s0) (x := x) (fun _ => ?_) ?_; rotate_left; subst x; rotate_left; clear_value x)
    | (extract_lets +onlyGivenNames x; clear_value x) | (intro _) | assumption | apply keeps_pulse | apply keeps_setWin | split
    | exact mask_sub hF rfl

theorem keeps_stepWindows {F : Nat} {s0 s : State} (h0 : Keeps F s0 s) (old : Nat → Nat) (hF : F &&& 0x40000 = 0 := by exact mask_sub (by assumption) rfl) : Keeps F s0 (State.stepWindows s old) := by
  unfold State.stepWindows
  with_reducible repeat' first
    | (intro _) | assumption | apply keeps_forEach | apply keeps_stepWindow | exact mask_sub hF rfl

theorem keeps_execPinFilterAccept {F : Nat} {s0 s : State} (h0 : Keeps F s0 s) (die : Nat) (pin : Nat) (stamp : Nat) (held : Nat) (level : Bool) (hF : F &&& 0x40040 = 0 := by exact mask_sub (by assumption) rfl) : ResKeeps F s0 (execPinFilterAccept die pin stamp held level s) := by
  unfold execPinFilterAccept
  with_reducible repeat' first
    | (intro _)
    | (extract_lets +onlyGivenNames x; refine keeps_let (F := F) (s0 := s0) (x := x) (fun _ => ?_) ?_; rotate_left; subst x; rotate_left; clear_value x)
    | (extract_lets +onlyGivenNames x; clear_value x) | assumption | apply ResKeeps.next | apply keeps_putBit | apply keeps_updEf | split
    | exact mask_sub hF rfl

theorem keeps_execPinPulseEnd {F : Nat} {s0 s : State} (h0 : Keeps F s0 s) (die : Nat) (pin : Nat) (hF : F &&& 0x40060 = 0 := by exact mask_sub (by assumption) rfl) : ResKeeps F s0 (execPinPulseEnd die pin s) := by
  unfold execPinPulseEnd
  with_reducible repeat' first
    | (intro _) | assumption | apply ResKeeps.next | apply keeps_drivePin | split | exact mask_sub hF rfl
    | (refine keeps_of_pair (by assumption) ?_)

theorem keeps_execEventRecordWrite {F : Nat} {s0 s : State} (h0 : Keeps F s0 s) (die : Nat) (hF : F &&& 0x40000000407c068 = 0 := by exact mask_sub (by assumption) rfl) : ResKeeps F s0 (execEventRecordWrite die s) := by
  unfold execEventRecordWrite
  with_reducible repeat' first
    | (extract_lets +onlyGivenNames x; refine keeps_let (F := F) (s0 := s0) (x := x) (fun _ => ?_) ?_; rotate_left; subst x; rotate_left; clear_value x)
    | (extract_lets +onlyGivenNames x; clear_value x) | (intro _) | assumption | apply ResKeeps.next | apply keeps_setEf
    | apply keeps_closeRec | split | exact mask_sub hF rfl | (refine keeps_of_pair (by assumption) ?_)

theorem keeps_execRelayForward {F : Nat} {s0 s : State} (h0 : Keeps F s0 s) (st : Nat) (hF : F &&& 0x6000040000 = 0 := by exact mask_sub (by assumption) rfl) : ResKeeps F s0 (execRelayForward st s) := by
  unfold execRelayForward
  with_reducible repeat' first
    | (intro _)
    | (extract_lets +onlyGivenNames x; refine keeps_let (F := F) (s0 := s0) (x := x) (fun _ => ?_) ?_; rotate_left; subst x; rotate_left; clear_value x)
    | (extract_lets +onlyGivenNames x; clear_value x) | assumption | apply ResKeeps.next | apply keeps_forEach | apply keeps_updEf | split
    | apply keeps_mk_relaySt_relayJ | exact mask_sub hF rfl | (refine keeps_of_pair (by assumption) ?_)

theorem keeps_execRelayMsgRx {F : Nat} {s0 s : State} (h0 : Keeps F s0 s) (die : Nat) (hF : F &&& 0x40040 = 0 := by exact mask_sub (by assumption) rfl) : ResKeeps F s0 (execRelayMsgRx die s) := by
  unfold execRelayMsgRx
  with_reducible repeat' first
    | (intro _)
    | (extract_lets +onlyGivenNames x; refine keeps_let (F := F) (s0 := s0) (x := x) (fun _ => ?_) ?_; rotate_left; subst x; rotate_left; clear_value x)
    | (extract_lets +onlyGivenNames x; clear_value x) | assumption | apply ResKeeps.next | apply keeps_setEf | apply keeps_updEf
    | apply keeps_inc | apply keeps_efEvent | apply keeps_pulseAt | split | exact mask_sub hF rfl
    | (refine keeps_of_pair (by assumption) ?_)

theorem keeps_execRelayEmit {F : Nat} {s0 s : State} (h0 : Keeps F s0 s) (die : Nat) (hF : F &&& 0x40000 = 0 := by exact mask_sub (by assumption) rfl) : ResKeeps F s0 (execRelayEmit die s) := by
  unfold execRelayEmit
  with_reducible repeat' first
    | (intro _) | assumption | apply ResKeeps.next | apply keeps_updEf | apply keeps_pulseAt | split | exact mask_sub hF rfl
    | (refine keeps_of_pair (by assumption) ?_)

theorem keeps_efStat {F : Nat} {s0 s : State} (h0 : Keeps F s0 s) (die : Nat) (last : Nat) (unit : Nat) (ch : Nat) (hF : F &&& 0x40 = 0 := by exact mask_sub (by assumption) rfl) : Keeps F s0 (State.efStat s die last unit ch) := by
  unfold State.efStat
  with_reducible repeat' first
    | assumption | apply keeps_wrN | exact mask_sub hF rfl

theorem keeps_execEfCommit {F : Nat} {s0 s : State} (h0 : Keeps F s0 s) (die : Nat) (req : Nat) (v : Nat) (hF : F &&& 0x40050 = 0 := by exact mask_sub (by assumption) rfl) : ResKeeps F s0 (execEfCommit die req v s) := by
  unfold execEfCommit
  with_reducible repeat' first
    | (intro _) | assumption | apply ResKeeps.next | apply keeps_onKey | apply keeps_wrFld | apply keeps_updEf | apply keeps_setBit
    | split | exact mask_sub hF rfl | (refine keeps_of_pair (by assumption) ?_)

theorem keeps_loadWin {F : Nat} {s0 s : State} (h0 : Keeps F s0 s) (die : Nat) (w : Nat) (hF : F &&& 0x40000 = 0 := by exact mask_sub (by assumption) rfl) : Keeps F s0 (State.loadWin s die w) := by
  unfold State.loadWin
  with_reducible repeat' first
    | (intro _)
    | (extract_lets +onlyGivenNames x; refine keeps_let (F := F) (s0 := s0) (x := x) (fun _ => ?_) ?_; rotate_left; subst x; (try dsimp -zeta only); rotate_left; clear_value x)
    | (extract_lets +onlyGivenNames x; refine keeps_letF (F := F) (s0 := s0) (x := x) (fun hf => ?_) ?_; rotate_left; subst x; (try dsimp -zeta only); rotate_left; clear_value x)
    | (extract_lets +onlyGivenNames x; refine keeps_letF2 (F := F) (s0 := s0) (x := x) (fun hf => ?_) ?_; rotate_left; subst x; (try dsimp -zeta only); rotate_left; clear_value x)
    | (extract_lets +onlyGivenNames x; refine keeps_letN (F := F) (s0 := s0) (x := x) (fun hf => ?_) ?_; rotate_left; subst x; (try dsimp -zeta only); rotate_left; clear_value x)
    | (extract_lets +onlyGivenNames x; clear_value x) | assumption | apply keeps_setWin | apply hf | exact mask_sub hF rfl

theorem keeps_efActivate {F : Nat} {s0 s : State} (h0 : Keeps F s0 s) (die : Nat) (snap : Tbl Word) (hF : F &&& 0x4000000000400e0 = 0 := by exact mask_sub (by assumption) rfl) : Keeps F s0 (State.efActivate s die snap) := by
  unfold State.efActivate
  with_reducible repeat' first
    | (intro _)
    | (extract_lets +onlyGivenNames x; refine keeps_let (F := F) (s0 := s0) (x := x) (fun _ => ?_) ?_; rotate_left; subst x; rotate_left; clear_value x)
    | (extract_lets +onlyGivenNames x; clear_value x) | assumption | apply keeps_forEach | apply keeps_wr | apply keeps_setCell
    | apply keeps_loadWin | apply keeps_drivePin | apply keeps_releasePin | apply keeps_undirty | apply keeps_updEf | split
    | apply keeps_mk_acts | exact mask_sub hF rfl

theorem keeps_efFlush {F : Nat} {s0 : State} (hF : F &&& 0x3010040060 = 0) (die : Nat) : ∀ (n : Nat) {s : State}, Keeps F s0 s → Keeps F s0 (State.efFlush die n s)
  | 0, _, h => h
  | n + 1, s, h => by
    unfold State.efFlush
    split
    · exact keeps_efFlush (mask_sub hF rfl) die n (keeps_efTake h _ _)
    · exact h

theorem keeps_execEfCheckDone {F : Nat} {s0 s : State} (h0 : Keeps F s0 s) (die : Nat) (hF : F &&& 0x4000030100400e8 = 0 := by exact mask_sub (by assumption) rfl) : ResKeeps F s0 (execEfCheckDone die s) := by
  unfold execEfCheckDone
  with_reducible repeat' first
    | (intro _)
    | (extract_lets +onlyGivenNames x; refine keeps_let (F := F) (s0 := s0) (x := x) (fun _ => ?_) ?_; rotate_left; subst x; (try dsimp -zeta only); rotate_left; clear_value x)
    | (extract_lets +onlyGivenNames x; refine keeps_letF (F := F) (s0 := s0) (x := x) (fun hf => ?_) ?_; rotate_left; subst x; (try dsimp -zeta only); rotate_left; clear_value x)
    | (extract_lets +onlyGivenNames x; refine keeps_letF2 (F := F) (s0 := s0) (x := x) (fun hf => ?_) ?_; rotate_left; subst x; (try dsimp -zeta only); rotate_left; clear_value x)
    | (extract_lets +onlyGivenNames x; refine keeps_letN (F := F) (s0 := s0) (x := x) (fun hf => ?_) ?_; rotate_left; subst x; (try dsimp -zeta only); rotate_left; clear_value x)
    | (extract_lets +onlyGivenNames x; clear_value x) | assumption | apply ResKeeps.next | apply keeps_updEf | apply keeps_efStat
    | apply keeps_efEvent | apply keeps_skipFree | (apply keeps_efFlush (by exact mask_sub (by assumption) rfl)) | apply keeps_efActivate
    | apply hf | split | exact mask_sub hF rfl | (refine keeps_of_pair (by assumption) ?_)

theorem keeps_execEfShadowWrite {F : Nat} {s0 s : State} (h0 : Keeps F s0 s) (die off req v : Nat) (hF : F &&& 0x50 = 0 := by exact mask_sub (by assumption) rfl) : ResKeeps F s0 (execEfShadowWrite die off req v s) := by
  unfold execEfShadowWrite
  apply ResKeeps.next
  apply keeps_onKey h0
  intro u hu
  split
  · exact keeps_accessFault hu _ _ _
  · split
    · exact hu
    · extract_lets k m cur fixed want refused ok s1
      have h1 : Keeps F s0 s1 := by
        subst s1
        split
        · exact keeps_efEvent (keeps_inc hu _) _ _
        · exact hu
      exact keeps_wrN h1 _ _

theorem keeps_execCellClr {F : Nat} {s0 s : State} (h0 : Keeps F s0 s) (die : Nat) (cell : Nat) (req : Nat) (v : Nat) (hF : F &&& 0x40050 = 0 := by exact mask_sub (by assumption) rfl) : ResKeeps F s0 (execCellClr die cell req v s) := by
  unfold execCellClr
  with_reducible repeat' first
    | (intro _)
    | (extract_lets +onlyGivenNames x; refine keeps_let (F := F) (s0 := s0) (x := x) (fun _ => ?_) ?_; rotate_left; subst x; rotate_left; clear_value x)
    | (extract_lets +onlyGivenNames x; clear_value x) | assumption | apply ResKeeps.next | apply keeps_onKey | apply keeps_inc
    | apply keeps_efEvent | apply keeps_wr | apply keeps_setCell | split | exact mask_sub hF rfl

theorem keeps_execSwPulse {F : Nat} {s0 s : State} (h0 : Keeps F s0 s) (die : Nat) (req : Nat) (v : Nat) (hF : F &&& 0x40050 = 0 := by exact mask_sub (by assumption) rfl) : ResKeeps F s0 (execSwPulse die req v s) := by
  unfold execSwPulse
  with_reducible repeat' first
    | (intro _) | assumption | apply ResKeeps.next | apply keeps_onKey | apply keeps_forEach | apply keeps_pulse | split
    | exact mask_sub hF rfl

end Sys2Proof.Machine
end

