-- ==== Sys2Proof/Laws/KeepsJournal.lean ====
section
/-! SUPPORT. What the operations of Machine/Journal.lean keep (`Keeps`), one lemma each. -/
namespace Sys2Proof.Machine
set_option Elab.async false

theorem keeps_rewind {F : Nat} {s0 s : State} (h0 : Keeps F s0 s) (die : Nat) (e : Nat) (c : Nat) (q : Nat) (h : Nat) (hF : F &&& 0x4040 = 0 := by exact mask_sub (by assumption) rfl) : Keeps F s0 (State.rewind s die e c q h).1 := by
  unfold State.rewind
  with_reducible repeat' first
    | (intro _)
    | (extract_lets +onlyGivenNames x; refine keeps_let (F := F) (s0 := s0) (x := x) (fun _ => ?_) ?_; rotate_left; subst x; rotate_left; clear_value x)
    | (extract_lets +onlyGivenNames x; clear_value x) | assumption | apply keeps_ackQueue | apply keeps_setTotal | apply keeps_setCredit
    | split | exact mask_sub hF rfl

theorem keeps_setJn {F : Nat} {s0 s : State} (h0 : Keeps F s0 s) (st : Nat) (v : JnS) (hF : F &&& 0x8000000000 = 0 := by exact mask_sub (by assumption) rfl) : Keeps F s0 (State.setJn s st v) := by
  unfold State.setJn
  with_reducible repeat' first
    | (intro _) | assumption | apply keeps_mk_jns | exact mask_sub hF rfl

theorem keeps_updJn {F : Nat} {s0 s : State} (h0 : Keeps F s0 s) (st : Nat) (f : JnS → JnS) (hF : F &&& 0x8000000000 = 0 := by exact mask_sub (by assumption) rfl) : Keeps F s0 (State.updJn s st f) := by
  unfold State.updJn
  with_reducible repeat' first
    | assumption | apply keeps_setJn | exact mask_sub hF rfl

theorem keeps_jnEvent {F : Nat} {s0 s : State} (h0 : Keeps F s0 s) (st : Nat) (i : Nat) (hF : F &&& 0x40 = 0 := by exact mask_sub (by assumption) rfl) : Keeps F s0 (State.jnEvent s st i) := by
  unfold State.jnEvent
  with_reducible repeat' first
    | assumption | apply keeps_setBit | exact mask_sub hF rfl

theorem keeps_setJnState {F : Nat} {s0 s : State} (h0 : Keeps F s0 s) (st : Nat) (n : Nat) (hF : F &&& 0x40 = 0 := by exact mask_sub (by assumption) rfl) : Keeps F s0 (State.setJnState s st n) := by
  unfold State.setJnState
  with_reducible repeat' first
    | assumption | apply keeps_wrFld | exact mask_sub hF rfl

theorem keeps_setJnTotal {F : Nat} {s0 s : State} (h0 : Keeps F s0 s) (st : Nat) (o : Nat) (n : Nat) (hF : F &&& 0x40 = 0 := by exact mask_sub (by assumption) rfl) : Keeps F s0 (State.setJnTotal s st o n) := by
  unfold State.setJnTotal
  with_reducible repeat' first
    | assumption | apply keeps_wrPair | exact mask_sub hF rfl

theorem keeps_addJnTotal {F : Nat} {s0 s : State} (h0 : Keeps F s0 s) (st : Nat) (o : Nat) (n : Nat) (hF : F &&& 0x40 = 0 := by exact mask_sub (by assumption) rfl) : Keeps F s0 (State.addJnTotal s st o n) := by
  unfold State.addJnTotal
  with_reducible repeat' first
    | assumption | apply keeps_setJnTotal | exact mask_sub hF rfl

theorem keeps_jnRatios {F : Nat} {s0 s : State} (h0 : Keeps F s0 s) (st : Nat) (hF : F &&& 0x40 = 0 := by exact mask_sub (by assumption) rfl) : Keeps F s0 (State.jnRatios s st) := by
  unfold State.jnRatios
  with_reducible repeat' first
    | (extract_lets +onlyGivenNames x; refine keeps_let (F := F) (s0 := s0) (x := x) (fun _ => ?_) ?_; rotate_left; subst x; rotate_left; clear_value x)
    | (extract_lets +onlyGivenNames x; clear_value x) | (intro _) | assumption | apply keeps_wrN | split | exact mask_sub hF rfl

theorem keeps_hostWrote {F : Nat} {s0 s : State} (h0 : Keeps F s0 s) (st : Nat) (n : Nat) (hF : F &&& 0x8000000040 = 0 := by exact mask_sub (by assumption) rfl) : Keeps F s0 (State.hostWrote s st n) := by
  unfold State.hostWrote
  with_reducible repeat' first
    | (intro _)
    | (extract_lets +onlyGivenNames x; refine keeps_let (F := F) (s0 := s0) (x := x) (fun _ => ?_) ?_; rotate_left; subst x; rotate_left; clear_value x)
    | (extract_lets +onlyGivenNames x; clear_value x) | assumption | apply keeps_addJnTotal | apply keeps_updJn | apply keeps_jnRatios
    | split | exact mask_sub hF rfl

theorem keeps_setInflight {F : Nat} {s0 s : State} (h0 : Keeps F s0 s) (st : Nat) (n : Nat) (hF : F &&& 0x8000000040 = 0 := by exact mask_sub (by assumption) rfl) : Keeps F s0 (State.setInflight s st n) := by
  unfold State.setInflight
  with_reducible repeat' first
    | (intro _) | assumption | apply keeps_updJn | apply keeps_wrN | exact mask_sub hF rfl

theorem keeps_jseqUse {F : Nat} {s0 s : State} (h0 : Keeps F s0 s) (st : Nat) (hF : F &&& 0x8000000000 = 0 := by exact mask_sub (by assumption) rfl) : Keeps F s0 (State.jseqUse s st) := by
  unfold State.jseqUse
  with_reducible repeat' first
    | (intro _) | assumption | apply keeps_updJn | exact mask_sub hF rfl

theorem keeps_nvme {F : Nat} {s0 s : State} (h0 : Keeps F s0 s) (st : Nat) (op : Nat) (args : List Nat) (data : List Byte) (hF : F &&& 0x20 = 0 := by exact mask_sub (by assumption) rfl) : Keeps F s0 (State.nvme s st op args data) := by
  unfold State.nvme
  with_reducible repeat' first
    | (intro _) | assumption | apply keeps_emit | exact mask_sub hF rfl

theorem keeps_grantLease {F : Nat} {s0 s : State} (h0 : Keeps F s0 s) (st : Nat) (hF : F &&& 0x8000000000 = 0 := by exact mask_sub (by assumption) rfl) : Keeps F s0 (State.grantLease s st) := by
  unfold State.grantLease
  with_reducible repeat' first
    | (intro _)
    | (extract_lets +onlyGivenNames x; refine keeps_let (F := F) (s0 := s0) (x := x) (fun _ => ?_) ?_; rotate_left; subst x; rotate_left; clear_value x)
    | (extract_lets +onlyGivenNames x; clear_value x) | assumption | apply keeps_updJn | split | exact mask_sub hF rfl
    | (refine keeps_of_pair (by assumption) ?_)

theorem keeps_takeJseq {F : Nat} {s0 s : State} (h0 : Keeps F s0 s) (st : Nat) (hF : F &&& 0x8000000000 = 0 := by exact mask_sub (by assumption) rfl) : Keeps F s0 (State.takeJseq s st).1 := by
  unfold State.takeJseq
  with_reducible repeat' first
    | (intro _)
    | (extract_lets +onlyGivenNames x; refine keeps_let (F := F) (s0 := s0) (x := x) (fun _ => ?_) ?_; rotate_left; subst x; rotate_left; clear_value x)
    | (extract_lets +onlyGivenNames x; clear_value x) | assumption | apply keeps_grantLease | apply keeps_updJn | split
    | exact mask_sub hF rfl | (refine keeps_of_pair (by assumption) ?_)

theorem keeps_execJseqLease {F : Nat} {s0 s : State} (h0 : Keeps F s0 s) (st : Nat) (hF : F &&& 0x8000000000 = 0 := by exact mask_sub (by assumption) rfl) : ResKeeps F s0 (execJseqLease st s) := by
  unfold execJseqLease
  with_reducible repeat' first
    | assumption | apply ResKeeps.next | apply keeps_grantLease | split | exact mask_sub hF rfl

theorem keeps_sendPiece {F : Nat} {s0 s : State} (h0 : Keeps F s0 s) (st : Nat) (e : Extent) (hF : F &&& 0x8000000060 = 0 := by exact mask_sub (by assumption) rfl) : Keeps F s0 (State.sendPiece s st e) := by
  unfold State.sendPiece
  with_reducible repeat' first
    | (extract_lets +onlyGivenNames x; refine keeps_let (F := F) (s0 := s0) (x := x) (fun _ => ?_) ?_; rotate_left; subst x; rotate_left; clear_value x)
    | (extract_lets +onlyGivenNames x; clear_value x) | (intro _) | assumption | apply keeps_nvme | apply keeps_hostWrote | split
    | exact mask_sub hF rfl

theorem keeps_kick {F : Nat} {s0 s : State} (h0 : Keeps F s0 s) (st : Nat) (l : Nat) (hF : F &&& 0x8000000060 = 0 := by exact mask_sub (by assumption) rfl) : Keeps F s0 (State.kick s st l) := by
  unfold State.kick
  with_reducible repeat' first
    | (intro _)
    | (extract_lets +onlyGivenNames x; refine keeps_let (F := F) (s0 := s0) (x := x) (fun _ => ?_) ?_; rotate_left; subst x; rotate_left; clear_value x)
    | (extract_lets +onlyGivenNames x; clear_value x) | assumption | apply keeps_setJn | apply keeps_sendPiece | split
    | exact mask_sub hF rfl | (refine keeps_of_pair (by assumption) ?_)

theorem keeps_jnFresh {F : Nat} {s0 s : State} (h0 : Keeps F s0 s) (st : Nat) (hF : F &&& 0x40 = 0 := by exact mask_sub (by assumption) rfl) : Keeps F s0 (State.jnFresh s st) := by
  unfold State.jnFresh
  with_reducible repeat' first
    | (intro _)
    | (extract_lets +onlyGivenNames x; refine keeps_let (F := F) (s0 := s0) (x := x) (fun _ => ?_) ?_; rotate_left; subst x; rotate_left; clear_value x)
    | (extract_lets +onlyGivenNames x; clear_value x) | assumption | apply keeps_wrFld | apply keeps_putBit | exact mask_sub hF rfl

theorem keeps_finishZone {F : Nat} {s0 s : State} (h0 : Keeps F s0 s) (st : Nat) (l : Nat) (hF : F &&& 0x8000000060 = 0 := by exact mask_sub (by assumption) rfl) : Keeps F s0 (State.finishZone s st l) := by
  unfold State.finishZone
  with_reducible repeat' first
    | (extract_lets +onlyGivenNames x; refine keeps_let (F := F) (s0 := s0) (x := x) (fun _ => ?_) ?_; rotate_left; subst x; rotate_left; clear_value x)
    | (extract_lets +onlyGivenNames x; clear_value x) | (intro _) | assumption | apply keeps_nvme | apply keeps_setJn
    | apply keeps_jnFresh | split | exact mask_sub hF rfl | (refine keeps_of_pair (by assumption) ?_)

theorem keeps_finishDue {F : Nat} {s0 s : State} (h0 : Keeps F s0 s) (st : Nat) (hF : F &&& 0x8000000020 = 0 := by exact mask_sub (by assumption) rfl) : Keeps F s0 (State.finishDue s st) := by
  unfold State.finishDue
  with_reducible repeat' first
    | (intro _)
    | (extract_lets +onlyGivenNames x; refine keeps_let (F := F) (s0 := s0) (x := x) (fun _ => ?_) ?_; rotate_left; subst x; rotate_left; clear_value x)
    | (extract_lets +onlyGivenNames x; clear_value x) | assumption | apply keeps_forEach | apply keeps_setJn | apply keeps_nvme | split
    | exact mask_sub hF rfl

theorem keeps_leaveZone {F : Nat} {s0 s : State} (h0 : Keeps F s0 s) (st : Nat) (l : Nat) (hF : F &&& 0x8000000060 = 0 := by exact mask_sub (by assumption) rfl) : Keeps F s0 (State.leaveZone s st l) := by
  unfold State.leaveZone
  with_reducible repeat' first
    | (extract_lets +onlyGivenNames x; refine keeps_let (F := F) (s0 := s0) (x := x) (fun _ => ?_) ?_; rotate_left; subst x; rotate_left; clear_value x)
    | (extract_lets +onlyGivenNames x; clear_value x) | (intro _) | assumption | apply keeps_setJn | apply keeps_finishDue
    | apply keeps_jnFresh | split | exact mask_sub hF rfl | (refine keeps_of_pair (by assumption) ?_)

theorem keeps_openZone {F : Nat} {s0 s : State} (h0 : Keeps F s0 s) (st : Nat) (l : Nat) (jseq : Nat) (hF : F &&& 0x8000000060 = 0 := by exact mask_sub (by assumption) rfl) : Keeps F s0 (State.openZone s st l jseq) := by
  unfold State.openZone
  with_reducible repeat' first
    | (intro _)
    | (extract_lets +onlyGivenNames x; refine keeps_let (F := F) (s0 := s0) (x := x) (fun _ => ?_) ?_; rotate_left; subst x; rotate_left; clear_value x)
    | (extract_lets +onlyGivenNames x; clear_value x) | assumption | apply keeps_setJnState | apply keeps_jnEvent | apply keeps_nvme
    | apply keeps_inc | apply keeps_updJn | apply keeps_jseqUse | apply keeps_kick | apply keeps_jnFresh | split | exact mask_sub hF rfl
    | (refine keeps_of_pair (by assumption) ?_)

theorem keeps_closeExtent {F : Nat} {s0 s : State} (h0 : Keeps F s0 s) (st : Nat) (l : Nat) (recs : List (List Byte)) (hF : F &&& 0x8000000060 = 0 := by exact mask_sub (by assumption) rfl) : Keeps F s0 (State.closeExtent s st l recs) := by
  unfold State.closeExtent
  with_reducible repeat' first
    | (intro _)
    | (extract_lets +onlyGivenNames x; refine keeps_let (F := F) (s0 := s0) (x := x) (fun _ => ?_) ?_; rotate_left; subst x; rotate_left; clear_value x)
    | (extract_lets +onlyGivenNames x; refine keeps_let1 (F := F) (s0 := s0) (x := x) (fun _ => ?_) ?_; rotate_left; subst x; rotate_left; clear_value x)
    | (extract_lets +onlyGivenNames x; clear_value x) | assumption | apply keeps_takeJseq | apply keeps_openZone | apply keeps_setJn
    | apply keeps_jseqUse | apply keeps_updJn | apply keeps_addJnTotal | apply keeps_kick | split | exact mask_sub hF rfl
    | (refine keeps_of_pair (by assumption) ?_)

theorem keeps_closeLane {F : Nat} {s0 s : State} (h0 : Keeps F s0 s) (st : Nat) (l : Nat) (hF : F &&& 0x8000000060 = 0 := by exact mask_sub (by assumption) rfl) : Keeps F s0 (State.closeLane s st l) := by
  unfold State.closeLane
  with_reducible repeat' first
    | (extract_lets +onlyGivenNames x; refine keeps_let (F := F) (s0 := s0) (x := x) (fun _ => ?_) ?_; rotate_left; subst x; rotate_left; clear_value x)
    | (extract_lets +onlyGivenNames x; clear_value x) | (intro _) | assumption | apply keeps_setJn | apply keeps_closeExtent | split
    | exact mask_sub hF rfl

theorem keeps_jnAdvance {F : Nat} {s0 s : State} (h0 : Keeps F s0 s) (st : Nat) (hF : F &&& 0x8000000060 = 0 := by exact mask_sub (by assumption) rfl) : Keeps F s0 (State.jnAdvance s st) := by
  unfold State.jnAdvance
  with_reducible repeat' first
    | (intro _)
    | (extract_lets +onlyGivenNames x; refine keeps_let (F := F) (s0 := s0) (x := x) (fun _ => ?_) ?_; rotate_left; subst x; rotate_left; clear_value x)
    | (extract_lets +onlyGivenNames x; clear_value x) | assumption | apply keeps_jnFresh | apply keeps_setJn | apply keeps_nvme | split
    | exact mask_sub hF rfl | (refine keeps_of_pair (by assumption) ?_)

theorem keeps_beginCommit {F : Nat} {s0 s : State} (h0 : Keeps F s0 s) (st : Nat) (kind : Nat) (hF : F &&& 0x8000000060 = 0 := by exact mask_sub (by assumption) rfl) : Keeps F s0 (State.beginCommit s st kind) := by
  unfold State.beginCommit
  with_reducible repeat' first
    | (intro _)
    | (extract_lets +onlyGivenNames x; refine keeps_let (F := F) (s0 := s0) (x := x) (fun _ => ?_) ?_; rotate_left; subst x; rotate_left; clear_value x)
    | (extract_lets +onlyGivenNames x; clear_value x) | assumption | apply keeps_forEach | apply keeps_closeLane | apply keeps_setJn
    | apply keeps_leaveZone | apply keeps_jnAdvance | split | exact mask_sub hF rfl

theorem keeps_execCommitNow {F : Nat} {s0 s : State} (h0 : Keeps F s0 s) (st : Nat) (req : Nat) (v : Nat) (hF : F &&& 0x8000000070 = 0 := by exact mask_sub (by assumption) rfl) : ResKeeps F s0 (execCommitNow st req v s) := by
  unfold execCommitNow
  with_reducible repeat' first
    | (intro _) | assumption | apply ResKeeps.next | apply keeps_onKey | apply keeps_beginCommit | split | exact mask_sub hF rfl

theorem keeps_execCommitLatMax {F : Nat} {s0 s : State} (h0 : Keeps F s0 s) (st : Nat) (hF : F &&& 0x8000000060 = 0 := by exact mask_sub (by assumption) rfl) : ResKeeps F s0 (execCommitLatMax st s) := by
  unfold execCommitLatMax
  with_reducible repeat' first
    | (extract_lets +onlyGivenNames x; refine keeps_let (F := F) (s0 := s0) (x := x) (fun _ => ?_) ?_; rotate_left; subst x; rotate_left; clear_value x)
    | (extract_lets +onlyGivenNames x; clear_value x) | (intro _) | assumption | apply ResKeeps.next | apply keeps_inc
    | apply keeps_jnEvent | apply keeps_beginCommit | split | exact mask_sub hF rfl | (refine keeps_of_pair (by assumption) ?_)

theorem keeps_execCommitLatMin {F : Nat} {s0 s : State} (h0 : Keeps F s0 s) (st : Nat) (hF : F &&& 0x8000000060 = 0 := by exact mask_sub (by assumption) rfl) : ResKeeps F s0 (execCommitLatMin st s) := by
  unfold execCommitLatMin
  with_reducible repeat' first
    | assumption | apply ResKeeps.next | apply keeps_beginCommit | split | exact mask_sub hF rfl
    | (refine keeps_of_pair (by assumption) ?_)

theorem keeps_measureRate {F : Nat} {s0 s : State} (h0 : Keeps F s0 s) (st : Nat) (n : Nat) (hF : F &&& 0x8000000040 = 0 := by exact mask_sub (by assumption) rfl) : Keeps F s0 (State.measureRate s st n) := by
  unfold State.measureRate
  with_reducible repeat' first
    | (intro _)
    | (extract_lets +onlyGivenNames x; refine keeps_let (F := F) (s0 := s0) (x := x) (fun _ => ?_) ?_; rotate_left; subst x; rotate_left; clear_value x)
    | (extract_lets +onlyGivenNames x; clear_value x) | assumption | apply keeps_setJn | apply keeps_wrN | split | exact mask_sub hF rfl
    | (refine keeps_of_pair (by assumption) ?_)

theorem keeps_rewrite {F : Nat} {s0 s : State} (h0 : Keeps F s0 s) (st : Nat) (e : Extent) (hF : F &&& 0x8000000060 = 0 := by exact mask_sub (by assumption) rfl) : Keeps F s0 (State.rewrite s st e) := by
  unfold State.rewrite
  with_reducible repeat' first
    | (intro _)
    | (extract_lets +onlyGivenNames x; refine keeps_let (F := F) (s0 := s0) (x := x) (fun _ => ?_) ?_; rotate_left; subst x; rotate_left; clear_value x)
    | (extract_lets +onlyGivenNames x; clear_value x) | assumption | apply keeps_setJn | apply keeps_closeExtent | apply keeps_updJn
    | split | exact mask_sub hF rfl | (refine keeps_of_pair (by assumption) ?_)

theorem keeps_laneFault {F : Nat} {s0 s : State} (h0 : Keeps F s0 s) (st : Nat) (l : Nat) (hF : F &&& 0x8000000060 = 0 := by exact mask_sub (by assumption) rfl) : Keeps F s0 (State.laneFault s st l) := by
  unfold State.laneFault
  with_reducible repeat' first
    | (intro _)
    | (extract_lets +onlyGivenNames x; refine keeps_let (F := F) (s0 := s0) (x := x) (fun _ => ?_) ?_; rotate_left; subst x; rotate_left; clear_value x)
    | (extract_lets +onlyGivenNames x; clear_value x) | assumption | apply keeps_inc | apply keeps_jnEvent | apply keeps_finishZone
    | apply keeps_setJn | apply keeps_forEach | apply keeps_rewrite | exact mask_sub hF rfl

theorem keeps_execAppendDone {F : Nat} {s0 s : State} (h0 : Keeps F s0 s) (st : Nat) (lane : Nat) (lba : Nat) (ok : Bool) (hF : F &&& 0x8000000060 = 0 := by exact mask_sub (by assumption) rfl) : ResKeeps F s0 (execAppendDone st lane lba ok s) := by
  unfold execAppendDone
  with_reducible repeat' first
    | (intro _)
    | (extract_lets +onlyGivenNames x; refine keeps_let (F := F) (s0 := s0) (x := x) (fun _ => ?_) ?_; rotate_left; subst x; rotate_left; clear_value x)
    | (extract_lets +onlyGivenNames x; clear_value x) | assumption | apply ResKeeps.next | apply keeps_updJn | apply keeps_measureRate
    | apply keeps_sendPiece | apply keeps_kick | apply keeps_finishDue | apply keeps_jnAdvance | apply keeps_laneFault | split
    | exact mask_sub hF rfl | (refine keeps_of_pair (by assumption) ?_)

theorem keeps_execAppendRetry {F : Nat} {s0 s : State} (h0 : Keeps F s0 s) (st : Nat) (lane : Nat) (hF : F &&& 0x8000000060 = 0 := by exact mask_sub (by assumption) rfl) : ResKeeps F s0 (execAppendRetry st lane s) := by
  unfold execAppendRetry
  with_reducible repeat' first
    | (intro _)
    | (extract_lets +onlyGivenNames x; refine keeps_let (F := F) (s0 := s0) (x := x) (fun _ => ?_) ?_; rotate_left; subst x; rotate_left; clear_value x)
    | (extract_lets +onlyGivenNames x; clear_value x) | assumption | apply ResKeeps.next | apply keeps_updJn | apply keeps_inc
    | apply keeps_jnEvent | apply keeps_sendPiece | split | exact mask_sub hF rfl | (refine keeps_of_pair (by assumption) ?_)

theorem keeps_forwardAll {F : Nat} {s0 s : State} (h0 : Keeps F s0 s) (st : Nat) (hF : F &&& 0x8000000040 = 0 := by exact mask_sub (by assumption) rfl) : Keeps F s0 (State.forwardAll s st) := by
  unfold State.forwardAll
  with_reducible repeat' first
    | (intro _)
    | (extract_lets +onlyGivenNames x; refine keeps_let (F := F) (s0 := s0) (x := x) (fun _ => ?_) ?_; rotate_left; subst x; rotate_left; clear_value x)
    | (extract_lets +onlyGivenNames x; clear_value x) | assumption | apply keeps_setJn | apply keeps_putBit | apply keeps_updJn
    | apply keeps_setInflight | apply keeps_jnFresh | split | exact mask_sub hF rfl

theorem keeps_loseDrive {F : Nat} {s0 s : State} (h0 : Keeps F s0 s) (st : Nat) (hF : F &&& 0x40000800405c068 = 0 := by exact mask_sub (by assumption) rfl) : Keeps F s0 (State.loseDrive s st) := by
  unfold State.loseDrive
  with_reducible repeat' first
    | (intro _)
    | (extract_lets +onlyGivenNames x; refine keeps_let (F := F) (s0 := s0) (x := x) (fun _ => ?_) ?_; rotate_left; subst x; rotate_left; clear_value x)
    | (extract_lets +onlyGivenNames x; clear_value x) | assumption | apply keeps_jnEvent | apply keeps_setJnState | apply keeps_health
    | apply keeps_updJn | apply keeps_forwardAll | split | exact mask_sub hF rfl

theorem keeps_execDriveLost {F : Nat} {s0 s : State} (h0 : Keeps F s0 s) (st : Nat) (hF : F &&& 0x40000800405c068 = 0 := by exact mask_sub (by assumption) rfl) : ResKeeps F s0 (execDriveLost st s) := by
  unfold execDriveLost
  with_reducible repeat' first
    | assumption | apply ResKeeps.next | apply keeps_loseDrive | split | exact mask_sub hF rfl

theorem keeps_execDriveRemoved {F : Nat} {s0 s : State} (h0 : Keeps F s0 s) (st : Nat) (hF : F &&& 0x40000800405c068 = 0 := by exact mask_sub (by assumption) rfl) : ResKeeps F s0 (execDriveRemoved st s) := by
  unfold execDriveRemoved
  with_reducible repeat' first
    | (intro _) | assumption | apply ResKeeps.next | apply keeps_updJn | apply keeps_loseDrive | split | exact mask_sub hF rfl

theorem keeps_execFlushDone {F : Nat} {s0 s : State} (h0 : Keeps F s0 s) (st : Nat) (ok : Bool) (hF : F &&& 0x40000800405c068 = 0 := by exact mask_sub (by assumption) rfl) : ResKeeps F s0 (execFlushDone st ok s) := by
  unfold execFlushDone
  with_reducible repeat' first
    | (intro _)
    | (extract_lets +onlyGivenNames x; refine keeps_let (F := F) (s0 := s0) (x := x) (fun _ => ?_) ?_; rotate_left; subst x; rotate_left; clear_value x)
    | (extract_lets +onlyGivenNames x; clear_value x) | assumption | apply ResKeeps.next | apply keeps_jnEvent | apply keeps_loseDrive
    | apply keeps_setJn | apply keeps_wrN | split | exact mask_sub hF rfl | (refine keeps_of_pair (by assumption) ?_)

theorem keeps_storeAnchor {F : Nat} {s0 s : State} (h0 : Keeps F s0 s) (st : Nat) (d : Nat) (slot : Nat) (b : List Byte) (hF : F &&& 0x240 = 0 := by exact mask_sub (by assumption) rfl) : Keeps F s0 (State.storeAnchor s st d slot b) := by
  unfold State.storeAnchor
  with_reducible repeat' first
    | assumption | apply keeps_setBytes | apply keeps_wrFld | exact mask_sub hF rfl

theorem keeps_writeAnchor {F : Nat} {s0 s : State} (h0 : Keeps F s0 s) (st : Nat) (state : Nat) (jseq : Nat) (peerOk : Bool) (hF : F &&& 0x8000000240 = 0 := by exact mask_sub (by assumption) rfl) : Keeps F s0 (State.writeAnchor s st state jseq peerOk) := by
  unfold State.writeAnchor
  with_reducible repeat' first
    | (intro _)
    | (extract_lets +onlyGivenNames x; refine keeps_let (F := F) (s0 := s0) (x := x) (fun _ => ?_) ?_; rotate_left; subst x; rotate_left; clear_value x)
    | (extract_lets +onlyGivenNames x; clear_value x) | assumption | apply keeps_updJn | apply keeps_storeAnchor | apply keeps_inc
    | apply keeps_jnEvent | split | exact mask_sub hF rfl

theorem keeps_commitEnd {F : Nat} {s0 s : State} (h0 : Keeps F s0 s) (st : Nat) (kind : Nat) (hF : F &&& 0x8000000060 = 0 := by exact mask_sub (by assumption) rfl) : Keeps F s0 (State.commitEnd s st kind) := by
  unfold State.commitEnd
  with_reducible repeat' first
    | (intro _)
    | (extract_lets +onlyGivenNames x; refine keeps_let (F := F) (s0 := s0) (x := x) (fun _ => ?_) ?_; rotate_left; subst x; rotate_left; clear_value x)
    | (extract_lets +onlyGivenNames x; clear_value x) | assumption | apply keeps_forEach | apply keeps_finishZone | apply keeps_setJnState
    | apply keeps_updJn | apply keeps_emit | apply keeps_forwardAll | apply keeps_nvme | split | exact mask_sub hF rfl

theorem keeps_execAnchorWriteDone {F : Nat} {s0 s : State} (h0 : Keeps F s0 s) (st : Nat) (peerOk : Bool) (hF : F &&& 0x8000000260 = 0 := by exact mask_sub (by assumption) rfl) : ResKeeps F s0 (execAnchorWriteDone st peerOk s) := by
  unfold execAnchorWriteDone
  with_reducible repeat' first
    | (intro _)
    | (extract_lets +onlyGivenNames x; refine keeps_let (F := F) (s0 := s0) (x := x) (fun _ => ?_) ?_; rotate_left; subst x; rotate_left; clear_value x)
    | (extract_lets +onlyGivenNames x; clear_value x) | assumption | apply ResKeeps.next | apply keeps_setJn | apply keeps_writeAnchor
    | apply keeps_wrN | apply keeps_setInflight | apply keeps_setJnTotal | apply keeps_inc | apply keeps_jnEvent | apply keeps_commitEnd
    | apply keeps_jnAdvance | split | exact mask_sub hF rfl | (refine keeps_of_pair (by assumption) ?_)

theorem keeps_devDebit {F : Nat} {s0 s : State} (h0 : Keeps F s0 s) (st : Nat) (n : Nat) (hF : F &&& 0x8000000040 = 0 := by exact mask_sub (by assumption) rfl) : Keeps F s0 (State.devDebit s st n) := by
  unfold State.devDebit
  with_reducible repeat' first
    | (intro _)
    | (extract_lets +onlyGivenNames x; refine keeps_let (F := F) (s0 := s0) (x := x) (fun _ => ?_) ?_; rotate_left; subst x; rotate_left; clear_value x)
    | (extract_lets +onlyGivenNames x; clear_value x) | assumption | apply keeps_updJn | apply keeps_jnEvent | split
    | exact mask_sub hF rfl

theorem keeps_setBudget {F : Nat} {s0 s : State} (h0 : Keeps F s0 s) (st : Nat) (hF : F &&& 0x8000000040 = 0 := by exact mask_sub (by assumption) rfl) : Keeps F s0 (State.setBudget s st) := by
  unfold State.setBudget
  with_reducible repeat' first
    | (intro _)
    | (extract_lets +onlyGivenNames x; refine keeps_let (F := F) (s0 := s0) (x := x) (fun _ => ?_) ?_; rotate_left; subst x; rotate_left; clear_value x)
    | (extract_lets +onlyGivenNames x; clear_value x) | assumption | apply keeps_updJn | apply keeps_wrN | exact mask_sub hF rfl

theorem keeps_execBudgetUpdate {F : Nat} {s0 s : State} (h0 : Keeps F s0 s) (st : Nat) (hF : F &&& 0x8000000040 = 0 := by exact mask_sub (by assumption) rfl) : ResKeeps F s0 (execBudgetUpdate st s) := by
  unfold execBudgetUpdate
  with_reducible repeat' first
    | assumption | apply ResKeeps.next | apply keeps_setBudget | split | exact mask_sub hF rfl

theorem keeps_fillBuckets {F : Nat} {s0 s : State} (h0 : Keeps F s0 s) (st : Nat) (hF : F &&& 0x8000000040 = 0 := by exact mask_sub (by assumption) rfl) : Keeps F s0 (State.fillBuckets s st) := by
  unfold State.fillBuckets
  with_reducible repeat' first
    | (intro _)
    | (extract_lets +onlyGivenNames x; refine keeps_let (F := F) (s0 := s0) (x := x) (fun _ => ?_) ?_; rotate_left; subst x; rotate_left; clear_value x)
    | (extract_lets +onlyGivenNames x; clear_value x) | assumption | apply keeps_setBudget | apply keeps_updJn | exact mask_sub hF rfl

theorem keeps_accept {F : Nat} {s0 s : State} (h0 : Keeps F s0 s) (st : Nat) (r : List Byte) (hF : F &&& 0x8000000060 = 0 := by exact mask_sub (by assumption) rfl) : Keeps F s0 (State.accept s st r) := by
  unfold State.accept
  with_reducible repeat' first
    | (intro _)
    | (extract_lets +onlyGivenNames x; refine keeps_let (F := F) (s0 := s0) (x := x) (fun _ => ?_) ?_; rotate_left; subst x; rotate_left; clear_value x)
    | (extract_lets +onlyGivenNames x; clear_value x) | assumption | apply keeps_addJnTotal | apply keeps_updJn | apply keeps_jnRatios
    | apply keeps_setBit | apply keeps_closeLane | apply keeps_leaveZone | apply keeps_setInflight | apply keeps_beginCommit | split
    | exact mask_sub hF rfl

theorem keeps_clipAdmit {F : Nat} {s0 s : State} (h0 : Keeps F s0 s) (st : Nat) (r : List Byte) (hF : F &&& 0x8000000060 = 0 := by exact mask_sub (by assumption) rfl) : Keeps F s0 (State.clipAdmit s st r) := by
  unfold State.clipAdmit
  with_reducible repeat' first
    | assumption | apply keeps_devDebit | apply keeps_accept | apply keeps_inc | apply keeps_jnEvent | split | exact mask_sub hF rfl

theorem keeps_preTrim {F : Nat} {s0 : State} (hF : F &&& 0x8000000040 = 0) (st lim : Nat) : ∀ (n : Nat) {s : State}, Keeps F s0 s → Keeps F s0 (s.preTrim st lim n)
  | 0, _, h => h
  | n + 1, s, h => by
    unfold State.preTrim
    extract_lets v
    split
    · exact h
    · split
      · exact h
      · exact keeps_preTrim (mask_sub hF rfl) st lim n (keeps_jnEvent (keeps_inc (keeps_setJn h _ _) _) _ _)

theorem keeps_preKeep {F : Nat} {s0 s : State} (h0 : Keeps F s0 s) (st : Nat) (r : List Byte) (hF : F &&& 0x8000000040 = 0 := by exact mask_sub (by assumption) rfl) : Keeps F s0 (State.preKeep s st r) := by
  unfold State.preKeep
  with_reducible repeat' first
    | (intro _)
    | (extract_lets +onlyGivenNames x; refine keeps_let (F := F) (s0 := s0) (x := x) (fun _ => ?_) ?_; rotate_left; subst x; rotate_left; clear_value x)
    | (extract_lets +onlyGivenNames x; clear_value x) | assumption | apply keeps_updJn | apply keeps_preTrim | apply keeps_inc | split
    | exact mask_sub hF rfl

theorem keeps_offer {F : Nat} {s0 s : State} (h0 : Keeps F s0 s) (st : Nat) (r : List Byte) (hF : F &&& 0x8000000060 = 0 := by exact mask_sub (by assumption) rfl) : Keeps F s0 (State.offer s st r) := by
  unfold State.offer
  with_reducible repeat' first
    | (intro _)
    | (extract_lets +onlyGivenNames x; refine keeps_let (F := F) (s0 := s0) (x := x) (fun _ => ?_) ?_; rotate_left; subst x; rotate_left; clear_value x)
    | (extract_lets +onlyGivenNames x; clear_value x) | assumption | apply keeps_inc | apply keeps_clipAdmit | apply keeps_updJn
    | apply keeps_devDebit | apply keeps_accept | apply keeps_preKeep | split | exact mask_sub hF rfl

theorem keeps_setJrPos {F : Nat} {s0 s : State} (h0 : Keeps F s0 s) (st : Nat) (k : Nat) (n : Nat) (hF : F &&& 0x40 = 0 := by exact mask_sub (by assumption) rfl) : Keeps F s0 (State.setJrPos s st k n) := by
  unfold State.setJrPos
  with_reducible repeat' first
    | assumption | apply keeps_wrPair | exact mask_sub hF rfl

theorem keeps_execJournalTake {F : Nat} {s0 s : State} (h0 : Keeps F s0 s) (st : Nat) (k : Nat) (poison : Bool) (hF : F &&& 0x40000800405c068 = 0 := by exact mask_sub (by assumption) rfl) : ResKeeps F s0 (execJournalTake st k poison s) := by
  unfold execJournalTake
  with_reducible repeat' first
    | (intro _)
    | (extract_lets +onlyGivenNames x; refine keeps_let (F := F) (s0 := s0) (x := x) (fun _ => ?_) ?_; rotate_left; subst x; rotate_left; clear_value x)
    | (extract_lets +onlyGivenNames x; clear_value x) | assumption | apply ResKeeps.next | apply keeps_updJn | apply keeps_jnEvent
    | apply keeps_setJrPos | apply keeps_ackQueue | apply keeps_addCredit | apply keeps_health | apply keeps_offer | split
    | exact mask_sub hF rfl

theorem keeps_execForwardedRecordRx {F : Nat} {s0 s : State} (h0 : Keeps F s0 s) (st : Nat) (hF : F &&& 0x8000000060 = 0 := by exact mask_sub (by assumption) rfl) : ResKeeps F s0 (execForwardedRecordRx st s) := by
  unfold execForwardedRecordRx
  with_reducible repeat' first
    | (intro _) | assumption | apply ResKeeps.next | apply keeps_jnEvent | apply keeps_updJn | apply keeps_accept | split
    | exact mask_sub hF rfl | (refine keeps_of_pair (by assumption) ?_)

theorem keeps_clipOpen {F : Nat} {s0 s : State} (h0 : Keeps F s0 s) (st : Nat) (k : Nat) (t : Nat) (hF : F &&& 0x8000000060 = 0 := by exact mask_sub (by assumption) rfl) : Keeps F s0 (State.clipOpen s st k t) := by
  unfold State.clipOpen
  with_reducible repeat' first
    | (intro _)
    | (extract_lets +onlyGivenNames x; refine keeps_let (F := F) (s0 := s0) (x := x) (fun _ => ?_) ?_; rotate_left; subst x; rotate_left; clear_value x)
    | (extract_lets +onlyGivenNames x; clear_value x) | assumption | apply keeps_updJn | apply keeps_inc | apply keeps_jnEvent
    | apply keeps_forEach | apply keeps_clipAdmit | split | exact mask_sub hF rfl | (refine keeps_of_pair (by assumption) ?_)

theorem keeps_execClipTrigger {F : Nat} {s0 s : State} (h0 : Keeps F s0 s) (st : Nat) (hF : F &&& 0xc000000060 = 0 := by exact mask_sub (by assumption) rfl) : ResKeeps F s0 (execClipTrigger st s) := by
  unfold execClipTrigger
  with_reducible repeat' first
    | (intro _)
    | (extract_lets +onlyGivenNames x; refine keeps_let (F := F) (s0 := s0) (x := x) (fun _ => ?_) ?_; rotate_left; subst x; rotate_left; clear_value x)
    | (extract_lets +onlyGivenNames x; clear_value x) | assumption | apply ResKeeps.next | apply keeps_forEach | apply keeps_clipOpen
    | split | apply keeps_mk_relayJ | exact mask_sub hF rfl | (refine keeps_of_pair (by assumption) ?_)

theorem keeps_execClipWindowClose {F : Nat} {s0 s : State} (h0 : Keeps F s0 s) (st : Nat) (clip : Nat) (hF : F &&& 0x8000000000 = 0 := by exact mask_sub (by assumption) rfl) : ResKeeps F s0 (execClipWindowClose st clip s) := by
  unfold execClipWindowClose
  with_reducible repeat' first
    | (intro _) | assumption | apply ResKeeps.next | apply keeps_updJn | split | exact mask_sub hF rfl
    | (refine keeps_of_pair (by assumption) ?_)

theorem keeps_execPrerollExpire {F : Nat} {s0 s : State} (h0 : Keeps F s0 s) (st : Nat) (hF : F &&& 0x8000000000 = 0 := by exact mask_sub (by assumption) rfl) : ResKeeps F s0 (execPrerollExpire st s) := by
  unfold execPrerollExpire
  with_reducible repeat' first
    | (intro _)
    | (extract_lets +onlyGivenNames x; refine keeps_let (F := F) (s0 := s0) (x := x) (fun _ => ?_) ?_; rotate_left; subst x; rotate_left; clear_value x)
    | (extract_lets +onlyGivenNames x; clear_value x) | assumption | apply ResKeeps.next | apply keeps_updJn | split
    | exact mask_sub hF rfl

theorem keeps_ledgerAt {F : Nat} {s0 s : State} (h0 : Keeps F s0 s) (st : Nat) (k : Nat) (f : Nat) (hF : F &&& 0x80000040 = 0 := by exact mask_sub (by assumption) rfl) : Keeps F s0 (State.ledgerAt s st k f) := by
  unfold State.ledgerAt
  with_reducible repeat' first
    | assumption | apply keeps_setLedger | exact mask_sub hF rfl

theorem keeps_weirQueue {F : Nat} {s0 s : State} (h0 : Keeps F s0 s) (st : Nat) (die : Nat) (q : Nat) (enter : Bool) (hF : F &&& 0xb0044040 = 0 := by exact mask_sub (by assumption) rfl) : Keeps F s0 (State.weirQueue s st die q enter) := by
  unfold State.weirQueue
  with_reducible repeat' first
    | (intro _)
    | (extract_lets +onlyGivenNames x; refine keeps_let (F := F) (s0 := s0) (x := x) (fun _ => ?_) ?_; rotate_left; subst x; rotate_left; clear_value x)
    | (extract_lets +onlyGivenNames x; refine keeps_let1 (F := F) (s0 := s0) (x := x) (fun _ => ?_) ?_; rotate_left; subst x; rotate_left; clear_value x)
    | (extract_lets +onlyGivenNames x; clear_value x) | (extract_lets +onlyGivenNames x; subst x) | assumption | apply keeps_abortQuiet
    | apply keeps_rewind | apply keeps_ledgerAt | apply keeps_replayQueue | apply keeps_chStart | split | exact mask_sub hF rfl
    | (refine keeps_of_pair (by assumption) ?_)

theorem keeps_weirPipes {F : Nat} {s0 s : State} (h0 : Keeps F s0 s) (b : Bool) (hF : F &&& 0x40 = 0 := by exact mask_sub (by assumption) rfl) : Keeps F s0 (State.weirPipes s b) := by
  unfold State.weirPipes
  with_reducible repeat' first
    | (intro _) | assumption | apply keeps_forEach | apply keeps_putBit | split | exact mask_sub hF rfl

theorem keeps_execWeirEnter {F : Nat} {s0 s : State} (h0 : Keeps F s0 s) (hF : F &&& 0x4000002b405c068 = 0 := by exact mask_sub (by assumption) rfl) : ResKeeps F s0 (execWeirEnter s) := by
  unfold execWeirEnter
  with_reducible repeat' first
    | (intro _)
    | (extract_lets +onlyGivenNames x; refine keeps_let (F := F) (s0 := s0) (x := x) (fun _ => ?_) ?_; rotate_left; subst x; rotate_left; clear_value x)
    | (extract_lets +onlyGivenNames x; clear_value x) | assumption | apply ResKeeps.next | apply keeps_weirPipes | apply keeps_forEach
    | apply keeps_setBit | apply keeps_weirQueue | apply keeps_jnEvent | apply keeps_upAll | split | apply keeps_mk_weirOn
    | exact mask_sub hF rfl

theorem keeps_clipsCut {F : Nat} {s0 s : State} (h0 : Keeps F s0 s) (st : Nat) (hF : F &&& 0x8000000040 = 0 := by exact mask_sub (by assumption) rfl) : Keeps F s0 (State.clipsCut s st) := by
  unfold State.clipsCut
  with_reducible repeat' first
    | (intro _) | assumption | apply keeps_updJn | apply keeps_jnEvent | split | exact mask_sub hF rfl

theorem keeps_execWeirExit {F : Nat} {s0 s : State} (h0 : Keeps F s0 s) (hF : F &&& 0x4000082b405c068 = 0 := by exact mask_sub (by assumption) rfl) : ResKeeps F s0 (execWeirExit s) := by
  unfold execWeirExit
  with_reducible repeat' first
    | (intro _)
    | (extract_lets +onlyGivenNames x; refine keeps_let (F := F) (s0 := s0) (x := x) (fun _ => ?_) ?_; rotate_left; subst x; rotate_left; clear_value x)
    | (extract_lets +onlyGivenNames x; clear_value x) | assumption | apply ResKeeps.next | apply keeps_weirPipes | apply keeps_forEach
    | apply keeps_clrBit | apply keeps_weirQueue | apply keeps_clipsCut | apply keeps_jnEvent | apply keeps_upAll | split
    | apply keeps_mk_weirOn | exact mask_sub hF rfl

theorem keeps_attachDone {F : Nat} {s0 s : State} (h0 : Keeps F s0 s) (st : Nat) (hF : F &&& 0x8000000040 = 0 := by exact mask_sub (by assumption) rfl) : Keeps F s0 (State.attachDone s st) := by
  unfold State.attachDone
  with_reducible repeat' first
    | (intro _)
    | (extract_lets +onlyGivenNames x; refine keeps_let (F := F) (s0 := s0) (x := x) (fun _ => ?_) ?_; rotate_left; subst x; rotate_left; clear_value x)
    | (extract_lets +onlyGivenNames x; clear_value x) | assumption | apply keeps_setJnTotal | apply keeps_setJnState | apply keeps_clrBit
    | apply keeps_jnEvent | apply keeps_updJn | apply keeps_wrN | apply keeps_fillBuckets | apply keeps_jnRatios | apply keeps_jnFresh
    | split | exact mask_sub hF rfl

theorem keeps_setMedium {F : Nat} {s0 s : State} (h0 : Keeps F s0 s) (st : Nat) (m : Nat) (hF : F &&& 0x8000000040 = 0 := by exact mask_sub (by assumption) rfl) : Keeps F s0 (State.setMedium s st m) := by
  unfold State.setMedium
  with_reducible repeat' first
    | (intro _) | assumption | apply keeps_forEach | apply keeps_updJn | apply keeps_wrN | exact mask_sub hF rfl

theorem keeps_setTotals {F : Nat} {s0 s : State} (h0 : Keeps F s0 s) (st : Nat) (t : List Nat) (hF : F &&& 0x8000000040 = 0 := by exact mask_sub (by assumption) rfl) : Keeps F s0 (State.setTotals s st t) := by
  unfold State.setTotals
  with_reducible repeat' first
    | (intro _) | assumption | apply keeps_setJnTotal | apply keeps_updJn | exact mask_sub hF rfl

theorem keeps_clearSlots {F : Nat} {s0 s : State} (h0 : Keeps F s0 s) (st d : Nat) (hF : F &&& 0x200 = 0 := by exact mask_sub (by assumption) rfl) : Keeps F s0 (s.clearSlots st d) :=
  h0.upd hF rfl rfl id (fun x => Tbl.wf_filter _ x) id
    (fun f => by cases f <;> first | exact fun _ => rfl | exact fun h => nomatch h)

theorem keeps_initMedium {F : Nat} {s0 s : State} (h0 : Keeps F s0 s) (st : Nat) (d : DriveInfo) (hF : F &&& 0x8000000268 = 0 := by exact mask_sub (by assumption) rfl) : Keeps F s0 (State.initMedium s st d) := by
  unfold State.initMedium
  with_reducible repeat' first
    | (intro _)
    | (extract_lets +onlyGivenNames x; refine keeps_let (F := F) (s0 := s0) (x := x) (fun _ => ?_) ?_; rotate_left; subst x; rotate_left; clear_value x)
    | (extract_lets +onlyGivenNames x; clear_value x) | assumption | apply keeps_skipFree | apply keeps_setMedium | apply keeps_updJn
    | apply keeps_setTotals | apply keeps_nvme | apply keeps_jseqUse | apply keeps_hostWrote | apply keeps_clearSlots
    | apply keeps_attachDone | split | exact mask_sub hF rfl

theorem keeps_execDriveProbe {F : Nat} {s0 s : State} (h0 : Keeps F s0 s) (st : Nat) (d : DriveInfo) (hF : F &&& 0x8000000268 = 0 := by exact mask_sub (by assumption) rfl) : ResKeeps F s0 (execDriveProbe st d s) := by
  unfold execDriveProbe
  with_reducible repeat' first
    | (intro _)
    | (extract_lets +onlyGivenNames x; refine keeps_let (F := F) (s0 := s0) (x := x) (fun _ => ?_) ?_; rotate_left; subst x; rotate_left; clear_value x)
    | (extract_lets +onlyGivenNames x; clear_value x) | assumption | apply ResKeeps.next | apply keeps_setJnState | apply keeps_wrFld
    | apply keeps_jnEvent | apply keeps_putBit | apply keeps_wrN | apply keeps_updJn | apply keeps_initMedium | apply keeps_setMedium
    | split | exact mask_sub hF rfl | (refine keeps_of_pair (by assumption) ?_)

theorem keeps_execJournalRecovery {F : Nat} {s0 s : State} (h0 : Keeps F s0 s) (st : Nat) (lanes : List LaneScan) (full : List (Nat × Nat)) (badSlots : List Nat) (corrected : Nat) (hF : F &&& 0x8000000240 = 0 := by exact mask_sub (by assumption) rfl) : ResKeeps F s0 (execJournalRecovery st lanes full badSlots corrected s) := by
  unfold execJournalRecovery
  with_reducible repeat' first
    | (intro _)
    | (extract_lets +onlyGivenNames x; refine keeps_let (F := F) (s0 := s0) (x := x) (fun _ => ?_) ?_; rotate_left; subst x; rotate_left; clear_value x)
    | (extract_lets +onlyGivenNames x; clear_value x) | assumption | apply ResKeeps.next | apply keeps_wrN | apply keeps_setBit
    | apply keeps_jnEvent | apply keeps_setTotals | apply keeps_updJn | apply keeps_forEach | apply keeps_addJnTotal
    | apply keeps_setJnTotal | apply keeps_wrFld | apply keeps_writeAnchor | apply keeps_attachDone | split | exact mask_sub hF rfl
    | (refine keeps_of_pair (by assumption) ?_)

theorem keeps_execDetach {F : Nat} {s0 s : State} (h0 : Keeps F s0 s) (st : Nat) (req : Nat) (v : Nat) (hF : F &&& 0x8000000070 = 0 := by exact mask_sub (by assumption) rfl) : ResKeeps F s0 (execDetach st req v s) := by
  unfold execDetach
  with_reducible repeat' first
    | (intro _) | assumption | apply ResKeeps.next | apply keeps_onKey | apply keeps_beginCommit | split | exact mask_sub hF rfl

theorem keeps_execAttach {F : Nat} {s0 s : State} (h0 : Keeps F s0 s) (st : Nat) (req : Nat) (v : Nat) (hF : F &&& 0x50 = 0 := by exact mask_sub (by assumption) rfl) : ResKeeps F s0 (execAttach st req v s) := by
  unfold execAttach
  with_reducible repeat' first
    | (intro _) | assumption | apply ResKeeps.next | apply keeps_onKey | apply keeps_setJnState | split | exact mask_sub hF rfl

theorem keeps_execInitDrive {F : Nat} {s0 s : State} (h0 : Keeps F s0 s) (st : Nat) (req : Nat) (v : Nat) (hF : F &&& 0x8000000278 = 0 := by exact mask_sub (by assumption) rfl) : ResKeeps F s0 (execInitDrive st req v s) := by
  unfold execInitDrive
  with_reducible repeat' first
    | (intro _) | assumption | apply ResKeeps.next | apply keeps_onKey | apply keeps_nvme | apply keeps_initMedium | split
    | exact mask_sub hF rfl | (refine keeps_of_pair (by assumption) ?_)

theorem keeps_execRescan {F : Nat} {s0 s : State} (h0 : Keeps F s0 s) (st : Nat) (req : Nat) (v : Nat) (hF : F &&& 0x8000000050 = 0 := by exact mask_sub (by assumption) rfl) : ResKeeps F s0 (execRescan st req v s) := by
  unfold execRescan
  with_reducible repeat' first
    | (intro _) | assumption | apply ResKeeps.next | apply keeps_onKey | apply keeps_updJn | split | exact mask_sub hF rfl

theorem keeps_execDriveLinkTry {F : Nat} {s0 s : State} (h0 : Keeps F s0 s) (st : Nat) (trains : Bool) (hF : F &&& 0x8000000040 = 0 := by exact mask_sub (by assumption) rfl) : ResKeeps F s0 (execDriveLinkTry st trains s) := by
  unfold execDriveLinkTry
  with_reducible repeat' first
    | (intro _)
    | (extract_lets +onlyGivenNames x; refine keeps_let (F := F) (s0 := s0) (x := x) (fun _ => ?_) ?_; rotate_left; subst x; rotate_left; clear_value x)
    | (extract_lets +onlyGivenNames x; clear_value x) | assumption | apply ResKeeps.next | apply keeps_updJn | apply keeps_setJnState
    | split | exact mask_sub hF rfl

theorem keeps_wearAsk {F : Nat} {s0 s : State} (h0 : Keeps F s0 s) (st : Nat) (hF : F &&& 0x20 = 0 := by exact mask_sub (by assumption) rfl) : Keeps F s0 (State.wearAsk s st) := by
  unfold State.wearAsk
  with_reducible repeat' first
    | assumption | apply keeps_nvme | exact mask_sub hF rfl

theorem keeps_execWearRead {F : Nat} {s0 s : State} (h0 : Keeps F s0 s) (st : Nat) (units : Nat) (pct : Nat) (media : Option Nat) (endurance : Option Nat) (hF : F &&& 0x40000800405c068 = 0 := by exact mask_sub (by assumption) rfl) : ResKeeps F s0 (execWearRead st units pct media endurance s) := by
  unfold execWearRead
  with_reducible repeat' first
    | (intro _)
    | (extract_lets +onlyGivenNames x; refine keeps_let (F := F) (s0 := s0) (x := x) (fun _ => ?_) ?_; rotate_left; subst x; rotate_left; clear_value x)
    | (extract_lets +onlyGivenNames x; clear_value x) | assumption | apply ResKeeps.next | apply keeps_wearAsk | apply keeps_setJn
    | apply keeps_setJnTotal | apply keeps_wrN | apply keeps_jnRatios | apply keeps_jnEvent | apply keeps_health | split
    | exact mask_sub hF rfl | (refine keeps_of_pair (by assumption) ?_)

theorem keeps_execDriveAsyncEvent {F : Nat} {s0 s : State} (h0 : Keeps F s0 s) (st : Nat) (hF : F &&& 0x8000000020 = 0 := by exact mask_sub (by assumption) rfl) : ResKeeps F s0 (execDriveAsyncEvent st s) := by
  unfold execDriveAsyncEvent
  with_reducible repeat' first
    | (intro _) | assumption | apply ResKeeps.next | apply keeps_updJn | apply keeps_wearAsk | apply keeps_nvme | split
    | exact mask_sub hF rfl

end Sys2Proof.Machine
end

