-- ==== Sys2Proof/Laws/KeepsRecover.lean ====
section
/-! SUPPORT. What the operations of Machine/Recover.lean keep (`Keeps`), one lemma each. -/
namespace Sys2Proof.Machine
set_option Elab.async false

theorem keeps_rewindRings {F : Nat} {s0 s : State} (h0 : Keeps F s0 s) (st : Nat) (die : Nat) (chs : List (Nat × Nat)) (hF : F &&& 0x80004040 = 0 := by exact mask_sub (by assumption) rfl) : Keeps F s0 (State.rewindRings s st die chs).1 := by
  unfold State.rewindRings
  with_reducible repeat' first
    | (intro _)
    | (extract_lets +onlyGivenNames x; refine keeps_let (F := F) (s0 := s0) (x := x) (fun _ => ?_) ?_; rotate_left; subst x; rotate_left; clear_value x)
    | (extract_lets +onlyGivenNames x; refine keeps_let1 (F := F) (s0 := s0) (x := x) (fun _ => ?_) ?_; rotate_left; subst x; rotate_left; clear_value x)
    | (extract_lets +onlyGivenNames x; clear_value x) | (extract_lets +onlyGivenNames x; subst x) | assumption | apply keeps_forEach
    | apply keeps_rewind | apply keeps_ledgerAt | apply keeps_forEachP | split | exact mask_sub hF rfl
    | (refine keeps_of_pair (by assumption) ?_)

theorem keeps_nextEpoch {F : Nat} {s0 s : State} (h0 : Keeps F s0 s) (hF : F &&& 0x100000060 = 0 := by exact mask_sub (by assumption) rfl) : Keeps F s0 (State.nextEpoch s) := by
  unfold State.nextEpoch
  with_reducible repeat' first
    | (intro _)
    | (extract_lets +onlyGivenNames x; refine keeps_let (F := F) (s0 := s0) (x := x) (fun _ => ?_) ?_; rotate_left; subst x; rotate_left; clear_value x)
    | (extract_lets +onlyGivenNames x; clear_value x) | assumption | apply keeps_forEach | apply keeps_wrN | apply keeps_msix
    | apply keeps_mk_epoch | exact mask_sub hF rfl

theorem keeps_replayFence {F : Nat} {s0 s : State} (h0 : Keeps F s0 s) (i : FenceInfo) (rews : List (Nat × Nat)) (die : Nat) (q : Nat) (hF : F &&& 0xc044048 = 0 := by exact mask_sub (by assumption) rfl) : Keeps F s0 (State.replayFence s i rews die q) := by
  unfold State.replayFence
  with_reducible repeat' first
    | (intro _)
    | (extract_lets +onlyGivenNames x; refine keeps_let (F := F) (s0 := s0) (x := x) (fun _ => ?_) ?_; rotate_left; subst x; rotate_left; clear_value x)
    | (extract_lets +onlyGivenNames x; refine keeps_let1 (F := F) (s0 := s0) (x := x) (fun _ => ?_) ?_; rotate_left; subst x; rotate_left; clear_value x)
    | (extract_lets +onlyGivenNames x; clear_value x) | (extract_lets +onlyGivenNames x; subst x) | assumption | apply keeps_replayQueue
    | apply keeps_pushFence | apply keeps_rewind | split | exact mask_sub hF rfl | (refine keeps_of_pair (by assumption) ?_)

theorem keeps_recoverDie {F : Nat} {s0 s : State} (h0 : Keeps F s0 s) (st : Nat) (die : Nat) (i : FenceInfo) (chs : List (Nat × Nat)) (qs : List Nat) (due : Nat) (hF : F &&& 0x1000bc044048 = 0 := by exact mask_sub (by assumption) rfl) : Keeps F s0 (State.recoverDie s st die i chs qs due) := by
  unfold State.recoverDie
  with_reducible repeat' first
    | (intro _)
    | (extract_lets +onlyGivenNames x; refine keeps_let (F := F) (s0 := s0) (x := x) (fun _ => ?_) ?_; rotate_left; subst x; rotate_left; clear_value x)
    | (extract_lets +onlyGivenNames x; refine keeps_let1 (F := F) (s0 := s0) (x := x) (fun _ => ?_) ?_; rotate_left; subst x; rotate_left; clear_value x)
    | (extract_lets +onlyGivenNames x; clear_value x) | (extract_lets +onlyGivenNames x; subst x) | assumption | apply keeps_forEach
    | apply keeps_abortQuiet | apply keeps_rewindRings | apply keeps_wrFld | apply keeps_replayFence | apply keeps_forEachP | split
    | apply keeps_mk_restarts | exact mask_sub hF rfl | (refine keeps_of_pair (by assumption) ?_)

theorem keeps_restartGo {F : Nat} {s0 s : State} (h0 : Keeps F s0 s) (st : Nat) (hF : F &&& 0x300010000040 = 0 := by exact mask_sub (by assumption) rfl) : Keeps F s0 (State.restartGo s st) := by
  unfold State.restartGo
  with_reducible repeat' first
    | (intro _)
    | (extract_lets +onlyGivenNames x; refine keeps_let (F := F) (s0 := s0) (x := x) (fun _ => ?_) ?_; rotate_left; subst x; rotate_left; clear_value x)
    | (extract_lets +onlyGivenNames x; clear_value x) | assumption | apply keeps_forEach | apply keeps_chStart | apply keeps_wrN
    | apply keeps_setBit | split | apply keeps_mk_restarts | apply keeps_mk_switchAt | exact mask_sub hF rfl
    | (refine keeps_of_pair (by assumption) ?_)

end Sys2Proof.Machine
end

