-- ==== Sys2Proof/Laws/KeepsLinkPhy.lean ====
section
/-! SUPPORT. What the operations of Machine/LinkPhy.lean keep (`Keeps`), one lemma each. -/
namespace Sys2Proof.Machine
set_option Elab.async false

theorem keeps_lpLeave {F : Nat} {s0 s : State} (h0 : Keeps F s0 s) (p : Nat) (old : Word) (new : Word) (hF : F &&& 0xc0068 = 0 := by exact mask_sub (by assumption) rfl) : Keeps F s0 (State.lpLeave s p old new) := by
  unfold State.lpLeave
  with_reducible repeat' first
    | assumption | apply keeps_goIdle | apply keeps_moveState | split | exact mask_sub hF rfl

theorem keeps_lpApply {F : Nat} {s0 s : State} (h0 : Keeps F s0 s) (p : Nat) (old : Word) (hF : F &&& 0xc0068 = 0 := by exact mask_sub (by assumption) rfl) : Keeps F s0 (State.lpApply s p old) := by
  unfold State.lpApply
  with_reducible repeat' first
    | (intro _)
    | (extract_lets +onlyGivenNames x; refine keeps_let (F := F) (s0 := s0) (x := x) (fun _ => ?_) ?_; rotate_left; subst x; rotate_left; clear_value x)
    | (extract_lets +onlyGivenNames x; clear_value x) | assumption | apply keeps_updPort | apply keeps_setRate | apply keeps_goDetect
    | apply keeps_changeRate | apply keeps_setPwr | split | exact mask_sub hF rfl

theorem keeps_useCtle {F : Nat} {s0 s : State} (h0 : Keeps F s0 s) (p : Nat) (hF : F &&& 0x40 = 0 := by exact mask_sub (by assumption) rfl) : Keeps F s0 (State.useCtle s p) := by
  unfold State.useCtle
  with_reducible repeat' first
    | assumption | apply keeps_wrFld | split | exact mask_sub hF rfl

theorem keeps_execLpCommit {F : Nat} {s0 s : State} (h0 : Keeps F s0 s) (port : Nat) (req : Nat) (v : Nat) (hF : F &&& 0x4000000000c00f8 = 0 := by exact mask_sub (by assumption) rfl) : ResKeeps F s0 (execLpCommit port req v s) := by
  unfold execLpCommit
  with_reducible repeat' first
    | (intro _)
    | (extract_lets +onlyGivenNames x; refine keeps_let (F := F) (s0 := s0) (x := x) (fun _ => ?_) ?_; rotate_left; subst x; rotate_left; clear_value x)
    | (extract_lets +onlyGivenNames x; clear_value x) | assumption | apply ResKeeps.next | apply keeps_onKey | apply keeps_logRefused
    | apply keeps_skipFree | apply keeps_undirty | apply keeps_lpLeave | apply keeps_commitRegs | apply keeps_lpApply
    | apply keeps_useCtle | apply keeps_bchStart | split | exact mask_sub hF rfl

theorem keeps_execLpRetrain {F : Nat} {s0 s : State} (h0 : Keeps F s0 s) (port : Nat) (req : Nat) (v : Nat) (hF : F &&& 0xc0078 = 0 := by exact mask_sub (by assumption) rfl) : ResKeeps F s0 (execLpRetrain port req v s) := by
  unfold execLpRetrain
  with_reducible repeat' first
    | (intro _) | assumption | apply ResKeeps.next | apply keeps_onKey | apply keeps_goRetrain | split | exact mask_sub hF rfl

theorem keeps_execLpFullRetrain {F : Nat} {s0 s : State} (h0 : Keeps F s0 s) (port : Nat) (req : Nat) (v : Nat) (hF : F &&& 0xc0078 = 0 := by exact mask_sub (by assumption) rfl) : ResKeeps F s0 (execLpFullRetrain port req v s) := by
  unfold execLpFullRetrain
  with_reducible repeat' first
    | (intro _) | assumption | apply ResKeeps.next | apply keeps_onKey | apply keeps_goWake | split | exact mask_sub hF rfl

theorem keeps_execLpFaultClear {F : Nat} {s0 s : State} (h0 : Keeps F s0 s) (port : Nat) (req : Nat) (v : Nat) (hF : F &&& 0xc0078 = 0 := by exact mask_sub (by assumption) rfl) : ResKeeps F s0 (execLpFaultClear port req v s) := by
  unfold execLpFaultClear
  with_reducible repeat' first
    | (intro _) | assumption | apply ResKeeps.next | apply keeps_onKey | apply keeps_updPort | apply keeps_setRate | apply keeps_endFault
    | split | exact mask_sub hF rfl

theorem keeps_execLpPortReset {F : Nat} {s0 s : State} (h0 : Keeps F s0 s) (port : Nat) (req : Nat) (v : Nat) (hF : F &&& 0xc0078 = 0 := by exact mask_sub (by assumption) rfl) : ResKeeps F s0 (execLpPortReset port req v s) := by
  unfold execLpPortReset
  with_reducible repeat' first
    | (intro _)
    | (extract_lets +onlyGivenNames x; refine keeps_let (F := F) (s0 := s0) (x := x) (fun _ => ?_) ?_; rotate_left; subst x; rotate_left; clear_value x)
    | (extract_lets +onlyGivenNames x; clear_value x) | assumption | apply ResKeeps.next | apply keeps_onKey | apply keeps_goIdle
    | apply keeps_wrFld | apply keeps_updPort | apply keeps_setRate | apply keeps_goDetect | split | exact mask_sub hF rfl

theorem keeps_execPortResetOffDone {F : Nat} {s0 s : State} (h0 : Keeps F s0 s) (port : Nat) (hF : F &&& 0xc0068 = 0 := by exact mask_sub (by assumption) rfl) : ResKeeps F s0 (execPortResetOffDone port s) := by
  unfold execPortResetOffDone
  with_reducible repeat' first
    | (intro _)
    | (extract_lets +onlyGivenNames x; refine keeps_let (F := F) (s0 := s0) (x := x) (fun _ => ?_) ?_; rotate_left; subst x; rotate_left; clear_value x)
    | (extract_lets +onlyGivenNames x; clear_value x) | assumption | apply ResKeeps.next | apply keeps_updPort | apply keeps_goDetect
    | split | exact mask_sub hF rfl | (refine keeps_of_pair (by assumption) ?_)

theorem keeps_execSigDet {F : Nat} {s0 s : State} (h0 : Keeps F s0 s) (port : Nat) (mv : Nat) (held : Nat) (ad : Adapt) (hF : F &&& 0xc0068 = 0 := by exact mask_sub (by assumption) rfl) : ResKeeps F s0 (execSigDet port mv held ad s) := by
  unfold execSigDet
  with_reducible repeat' first
    | (intro _)
    | (extract_lets +onlyGivenNames x; refine keeps_let (F := F) (s0 := s0) (x := x) (fun _ => ?_) ?_; rotate_left; subst x; rotate_left; clear_value x)
    | (extract_lets +onlyGivenNames x; clear_value x) | assumption | apply ResKeeps.next | apply keeps_adapt | apply keeps_setBit
    | apply keeps_goWake | apply keeps_clrBit | apply keeps_updPort | split | exact mask_sub hF rfl

theorem keeps_execCoarseLock {F : Nat} {s0 s : State} (h0 : Keeps F s0 s) (port : Nat) (ad : Adapt) (hF : F &&& 0xc0068 = 0 := by exact mask_sub (by assumption) rfl) : ResKeeps F s0 (execCoarseLock port ad s) := by
  unfold execCoarseLock
  with_reducible repeat' first
    | assumption | apply ResKeeps.next | apply keeps_adapt | apply keeps_setBit | apply keeps_setPState | split | exact mask_sub hF rfl

theorem keeps_tapRequest {F : Nat} {s0 s : State} (h0 : Keeps F s0 s) (p : Nat) (req : Nat) (hF : F &&& 0x80000 = 0 := by exact mask_sub (by assumption) rfl) : Keeps F s0 (State.tapRequest s p req) := by
  unfold State.tapRequest
  with_reducible repeat' first
    | (intro _) | assumption | apply keeps_updPort | exact mask_sub hF rfl

theorem keeps_endSearch {F : Nat} {s0 s : State} (h0 : Keeps F s0 s) (p : Nat) (st : Nat) (hF : F &&& 0xc0068 = 0 := by exact mask_sub (by assumption) rfl) : Keeps F s0 (State.endSearch s p st) := by
  unfold State.endSearch
  with_reducible repeat' first
    | (intro _)
    | (extract_lets +onlyGivenNames x; refine keeps_let (F := F) (s0 := s0) (x := x) (fun _ => ?_) ?_; rotate_left; subst x; rotate_left; clear_value x)
    | (extract_lets +onlyGivenNames x; clear_value x) | assumption | apply keeps_trainFailed | apply keeps_lpEvent | apply keeps_updPort
    | apply keeps_setPState | split | exact mask_sub hF rfl

theorem keeps_frameCdr {F : Nat} {s0 s : State} (h0 : Keeps F s0 s) (p : Nat) (st : Nat) (hF : F &&& 0xc0068 = 0 := by exact mask_sub (by assumption) rfl) : Keeps F s0 (State.frameCdr s p st) := by
  unfold State.frameCdr
  with_reducible repeat' first
    | (intro _)
    | (extract_lets +onlyGivenNames x; refine keeps_let (F := F) (s0 := s0) (x := x) (fun _ => ?_) ?_; rotate_left; subst x; rotate_left; clear_value x)
    | (extract_lets +onlyGivenNames x; clear_value x) | assumption | apply keeps_updPort | apply keeps_clrBit | apply keeps_lpEvent
    | apply keeps_goWake | apply keeps_trainFailed | apply keeps_setPState | split | exact mask_sub hF rfl

theorem keeps_checkFrame {F : Nat} {s0 s : State} (h0 : Keeps F s0 s) (p : Nat) (lvls : List Nat) (pc : Bool) (hF : F &&& 0x80008 = 0 := by exact mask_sub (by assumption) rfl) : Keeps F s0 (State.checkFrame s p lvls pc) := by
  unfold State.checkFrame
  with_reducible repeat' first
    | (intro _)
    | (extract_lets +onlyGivenNames x; refine keeps_let (F := F) (s0 := s0) (x := x) (fun _ => ?_) ?_; rotate_left; subst x; rotate_left; clear_value x)
    | (extract_lets +onlyGivenNames x; clear_value x) | assumption | apply keeps_setPort | apply keeps_skipFree | split
    | exact mask_sub hF rfl

theorem keeps_execTrainingFrameRx {F : Nat} {s0 s : State} (h0 : Keeps F s0 s) (port : Nat) (lvls : List Nat) (ad : Adapt) (hF : F &&& 0xc0068 = 0 := by exact mask_sub (by assumption) rfl) : ResKeeps F s0 (execTrainingFrameRx port lvls ad s) := by
  unfold execTrainingFrameRx
  with_reducible repeat' first
    | (intro _)
    | (extract_lets +onlyGivenNames x; refine keeps_let (F := F) (s0 := s0) (x := x) (fun _ => ?_) ?_; rotate_left; subst x; rotate_left; clear_value x)
    | (extract_lets +onlyGivenNames x; clear_value x) | assumption | apply ResKeeps.next | apply keeps_adapt | apply keeps_checkFrame
    | apply keeps_updPort | apply keeps_wrN | apply keeps_setBit | apply keeps_frameCdr | apply keeps_skipFree | apply keeps_endSearch
    | apply keeps_tapRequest | apply keeps_putBit | apply keeps_setPState | split | exact mask_sub hF rfl
    | (refine keeps_of_pair (by assumption) ?_)

theorem keeps_execEqConverged {F : Nat} {s0 s : State} (h0 : Keeps F s0 s) (port : Nat) (ctle : Nat) (hF : F &&& 0xc0068 = 0 := by exact mask_sub (by assumption) rfl) : ResKeeps F s0 (execEqConverged port ctle s) := by
  unfold execEqConverged
  with_reducible repeat' first
    | (intro _)
    | (extract_lets +onlyGivenNames x; refine keeps_let (F := F) (s0 := s0) (x := x) (fun _ => ?_) ?_; rotate_left; subst x; rotate_left; clear_value x)
    | (extract_lets +onlyGivenNames x; clear_value x) | assumption | apply ResKeeps.next | apply keeps_setBit | apply keeps_updPort
    | apply keeps_useCtle | apply keeps_tapRequest | apply keeps_setPState | split | exact mask_sub hF rfl

theorem keeps_execTapTimeout {F : Nat} {s0 s : State} (h0 : Keeps F s0 s) (port : Nat) (hF : F &&& 0xc0068 = 0 := by exact mask_sub (by assumption) rfl) : ResKeeps F s0 (execTapTimeout port s) := by
  unfold execTapTimeout
  with_reducible repeat' first
    | assumption | apply ResKeeps.next | apply keeps_inc | apply keeps_lpEvent | apply keeps_trainFailed | split | exact mask_sub hF rfl

theorem keeps_execTrainTimeout {F : Nat} {s0 s : State} (h0 : Keeps F s0 s) (port : Nat) (hF : F &&& 0xc0068 = 0 := by exact mask_sub (by assumption) rfl) : ResKeeps F s0 (execTrainTimeout port s) := by
  unfold execTrainTimeout
  with_reducible repeat' first
    | (extract_lets +onlyGivenNames x; refine keeps_let (F := F) (s0 := s0) (x := x) (fun _ => ?_) ?_; rotate_left; subst x; rotate_left; clear_value x)
    | (extract_lets +onlyGivenNames x; clear_value x) | (intro _) | assumption | apply ResKeeps.next | apply keeps_trainFailed | split
    | exact mask_sub hF rfl

theorem keeps_execHeadLost {F : Nat} {s0 s : State} (h0 : Keeps F s0 s) (port : Nat) (hF : F &&& 0xc0068 = 0 := by exact mask_sub (by assumption) rfl) : ResKeeps F s0 (execHeadLost port s) := by
  unfold execHeadLost
  with_reducible repeat' first
    | (extract_lets +onlyGivenNames x; refine keeps_let (F := F) (s0 := s0) (x := x) (fun _ => ?_) ?_; rotate_left; subst x; rotate_left; clear_value x)
    | (extract_lets +onlyGivenNames x; clear_value x) | (intro _) | assumption | apply ResKeeps.next | apply keeps_goDetect
    | apply keeps_lpEvent | split | exact mask_sub hF rfl

theorem keeps_execFreqErr {F : Nat} {s0 s : State} (h0 : Keeps F s0 s) (port : Nat) (ppm : Int) (held : Nat) (hF : F &&& 0xc0068 = 0 := by exact mask_sub (by assumption) rfl) : ResKeeps F s0 (execFreqErr port ppm held s) := by
  unfold execFreqErr
  with_reducible repeat' first
    | (extract_lets +onlyGivenNames x; refine keeps_let (F := F) (s0 := s0) (x := x) (fun _ => ?_) ?_; rotate_left; subst x; rotate_left; clear_value x)
    | (extract_lets +onlyGivenNames x; clear_value x) | (intro _) | assumption | apply ResKeeps.next | apply keeps_clrBit
    | apply keeps_setBit | apply keeps_lpEvent | apply keeps_goRetrain | split | exact mask_sub hF rfl

theorem keeps_execFaultHoldExpire {F : Nat} {s0 s : State} (h0 : Keeps F s0 s) (port : Nat) (hF : F &&& 0xc0068 = 0 := by exact mask_sub (by assumption) rfl) : ResKeeps F s0 (execFaultHoldExpire port s) := by
  unfold execFaultHoldExpire
  with_reducible repeat' first
    | assumption | apply ResKeeps.next | apply keeps_endFault | split | exact mask_sub hF rfl

theorem keeps_execIdleExit {F : Nat} {s0 s : State} (h0 : Keeps F s0 s) (port : Nat) (hF : F &&& 0x80048 = 0 := by exact mask_sub (by assumption) rfl) : ResKeeps F s0 (execIdleExit port s) := by
  unfold execIdleExit
  with_reducible repeat' first
    | (intro _) | assumption | apply ResKeeps.next | apply keeps_setBit | apply keeps_skipFree | apply keeps_updPort | split
    | exact mask_sub hF rfl

theorem keeps_execRelockFail {F : Nat} {s0 s : State} (h0 : Keeps F s0 s) (port : Nat) (hF : F &&& 0xc0068 = 0 := by exact mask_sub (by assumption) rfl) : ResKeeps F s0 (execRelockFail port s) := by
  unfold execRelockFail
  with_reducible repeat' first
    | assumption | apply ResKeeps.next | apply keeps_inc | apply keeps_lpEvent | apply keeps_goRetrain | split | exact mask_sub hF rfl

theorem keeps_execEsStart {F : Nat} {s0 s : State} (h0 : Keeps F s0 s) (port : Nat) (req : Nat) (v : Nat) (hF : F &&& 0x80050 = 0 := by exact mask_sub (by assumption) rfl) : ResKeeps F s0 (execEsStart port req v s) := by
  unfold execEsStart
  with_reducible repeat' first
    | (intro _)
    | (extract_lets +onlyGivenNames x; refine keeps_let (F := F) (s0 := s0) (x := x) (fun _ => ?_) ?_; rotate_left; subst x; rotate_left; clear_value x)
    | (extract_lets +onlyGivenNames x; clear_value x) | assumption | apply ResKeeps.next | apply keeps_onKey | apply keeps_wrFld
    | apply keeps_lpEvent | apply keeps_esClear | apply keeps_wrN | apply keeps_setBit | apply keeps_esEnd | split | exact mask_sub hF rfl

theorem keeps_execEsStop {F : Nat} {s0 s : State} (h0 : Keeps F s0 s) (port : Nat) (req : Nat) (v : Nat) (hF : F &&& 0x50 = 0 := by exact mask_sub (by assumption) rfl) : ResKeeps F s0 (execEsStop port req v s) := by
  unfold execEsStop
  with_reducible repeat' first
    | (intro _) | assumption | apply ResKeeps.next | apply keeps_onKey | apply keeps_esEnd | split | exact mask_sub hF rfl

theorem keeps_execEsPointDone {F : Nat} {s0 s : State} (h0 : Keeps F s0 s) (port : Nat) (errors : Nat) (hF : F &&& 0x80040 = 0 := by exact mask_sub (by assumption) rfl) : ResKeeps F s0 (execEsPointDone port errors s) := by
  unfold execEsPointDone
  with_reducible repeat' first
    | (intro _)
    | (extract_lets +onlyGivenNames x; refine keeps_let (F := F) (s0 := s0) (x := x) (fun _ => ?_) ?_; rotate_left; subst x; rotate_left; clear_value x)
    | (extract_lets +onlyGivenNames x; clear_value x) | assumption | apply ResKeeps.next | apply keeps_updPort | apply keeps_wrN
    | apply keeps_wrFld | apply keeps_esEnd | split | exact mask_sub hF rfl

theorem keeps_upTaps {F : Nat} {s0 s : State} (h0 : Keeps F s0 s) (p : Nat) (st : Nat) (req : Nat) (seq : Nat) (hF : F &&& 0x80000 = 0 := by exact mask_sub (by assumption) rfl) : Keeps F s0 (State.upTaps s p st req seq) := by
  unfold State.upTaps
  with_reducible repeat' first
    | (extract_lets +onlyGivenNames x; refine keeps_let (F := F) (s0 := s0) (x := x) (fun _ => ?_) ?_; rotate_left; subst x; rotate_left; clear_value x)
    | (extract_lets +onlyGivenNames x; clear_value x) | (intro _) | assumption | apply keeps_setPort | split | exact mask_sub hF rfl

theorem keeps_upSend {F : Nat} {s0 s : State} (h0 : Keeps F s0 s) (p : Nat) (hF : F &&& 0x80020 = 0 := by exact mask_sub (by assumption) rfl) : Keeps F s0 (State.upSend s p) := by
  unfold State.upSend
  with_reducible repeat' first
    | (extract_lets +onlyGivenNames x; refine keeps_let (F := F) (s0 := s0) (x := x) (fun _ => ?_) ?_; rotate_left; subst x; rotate_left; clear_value x)
    | (extract_lets +onlyGivenNames x; clear_value x) | (intro _) | assumption | apply keeps_fwdSend | split | exact mask_sub hF rfl

theorem keeps_execTrainingSetRx {F : Nat} {s0 s : State} (h0 : Keeps F s0 s) (port : Nat) (groups : List Nat) (hF : F &&& 0xc0068 = 0 := by exact mask_sub (by assumption) rfl) : ResKeeps F s0 (execTrainingSetRx port groups s) := by
  unfold execTrainingSetRx
  with_reducible repeat' first
    | (intro _)
    | (extract_lets +onlyGivenNames x; refine keeps_let (F := F) (s0 := s0) (x := x) (fun _ => ?_) ?_; rotate_left; subst x; rotate_left; clear_value x)
    | (extract_lets +onlyGivenNames x; clear_value x) | assumption | apply ResKeeps.next | apply keeps_setBit | apply keeps_wrFld
    | apply keeps_follow | apply keeps_putBit | apply keeps_upTaps | apply keeps_updPort | apply keeps_upSend | split
    | exact mask_sub hF rfl | (refine keeps_of_pair (by assumption) ?_)

end Sys2Proof.Machine
end

