-- ==== Sys2Proof/Laws/KeepsPower.lean ====
section
/-! SUPPORT. What the operations of Machine/Power.lean keep (`Keeps`), one lemma each. -/
namespace Sys2Proof.Machine
set_option Elab.async false

theorem keeps_setHu {F : Nat} {s0 s : State} (h0 : Keeps F s0 s) (st : Nat) (v : HuS) (hF : F &&& 0x10000000000 = 0 := by exact mask_sub (by assumption) rfl) : Keeps F s0 (State.setHu s st v) := by
  unfold State.setHu
  with_reducible repeat' first
    | (intro _) | assumption | apply keeps_mk_hus | exact mask_sub hF rfl

theorem keeps_updHu {F : Nat} {s0 s : State} (h0 : Keeps F s0 s) (st : Nat) (f : HuS → HuS) (hF : F &&& 0x10000000000 = 0 := by exact mask_sub (by assumption) rfl) : Keeps F s0 (State.updHu s st f) := by
  unfold State.updHu
  with_reducible repeat' first
    | assumption | apply keeps_setHu | exact mask_sub hF rfl

theorem keeps_huEvent {F : Nat} {s0 s : State} (h0 : Keeps F s0 s) (st : Nat) (i : Nat) (hF : F &&& 0x40 = 0 := by exact mask_sub (by assumption) rfl) : Keeps F s0 (State.huEvent s st i) := by
  unfold State.huEvent
  with_reducible repeat' first
    | assumption | apply keeps_setBit | exact mask_sub hF rfl

theorem keeps_huFresh {F : Nat} {s0 s : State} (h0 : Keeps F s0 s) (st : Nat) (hF : F &&& 0x40 = 0 := by exact mask_sub (by assumption) rfl) : Keeps F s0 (State.huFresh s st) := by
  unfold State.huFresh
  with_reducible repeat' first
    | (extract_lets +onlyGivenNames x; refine keeps_let (F := F) (s0 := s0) (x := x) (fun _ => ?_) ?_; rotate_left; subst x; rotate_left; clear_value x)
    | (extract_lets +onlyGivenNames x; clear_value x) | (intro _) | assumption | apply keeps_wrFld | apply keeps_putBit | split
    | exact mask_sub hF rfl

theorem keeps_windowUpdate {F : Nat} {s0 s : State} (h0 : Keeps F s0 s) (st : Nat) (hF : F &&& 0x40001800405c068 = 0 := by exact mask_sub (by assumption) rfl) : Keeps F s0 (State.windowUpdate s st) := by
  unfold State.windowUpdate
  with_reducible repeat' first
    | (intro _)
    | (extract_lets +onlyGivenNames x; refine keeps_let (F := F) (s0 := s0) (x := x) (fun _ => ?_) ?_; rotate_left; subst x; rotate_left; clear_value x)
    | (extract_lets +onlyGivenNames x; clear_value x) | assumption | apply keeps_wrN | apply keeps_wrI | apply keeps_updHu
    | apply keeps_huEvent | apply keeps_health | apply keeps_beginCommit | apply keeps_huFresh | split | exact mask_sub hF rfl

theorem keeps_execWindowUpdate {F : Nat} {s0 s : State} (h0 : Keeps F s0 s) (st : Nat) (hF : F &&& 0x40001800405c068 = 0 := by exact mask_sub (by assumption) rfl) : ResKeeps F s0 (execWindowUpdate st s) := by
  unfold execWindowUpdate
  with_reducible repeat' first
    | (intro _) | assumption | apply ResKeeps.next | apply keeps_updHu | apply keeps_windowUpdate | split | exact mask_sub hF rfl

theorem keeps_huPin {F : Nat} {s0 s : State} (h0 : Keeps F s0 s) (level : Bool) (hF : F &&& 0x20 = 0 := by exact mask_sub (by assumption) rfl) : Keeps F s0 (State.huPin s level) := by
  unfold State.huPin
  with_reducible repeat' first
    | assumption | apply keeps_emit | exact mask_sub hF rfl

theorem keeps_huFail {F : Nat} {s0 s : State} (h0 : Keeps F s0 s) (cause : Nat) (hF : F &&& 0x10000000060 = 0 := by exact mask_sub (by assumption) rfl) : Keeps F s0 (State.huFail s cause) := by
  unfold State.huFail
  with_reducible repeat' first
    | (intro _)
    | (extract_lets +onlyGivenNames x; refine keeps_let (F := F) (s0 := s0) (x := x) (fun _ => ?_) ?_; rotate_left; subst x; rotate_left; clear_value x)
    | (extract_lets +onlyGivenNames x; clear_value x) | assumption | apply keeps_huPin | apply keeps_updHu | apply keeps_wrFld
    | apply keeps_huEvent | apply keeps_incW | apply keeps_huFresh | split | exact mask_sub hF rfl

theorem keeps_huAbort {F : Nat} {s0 s : State} (h0 : Keeps F s0 s) (hF : F &&& 0x10000000060 = 0 := by exact mask_sub (by assumption) rfl) : Keeps F s0 (State.huAbort s) := by
  unfold State.huAbort
  with_reducible repeat' first
    | assumption | apply keeps_huFail | split | exact mask_sub hF rfl

theorem keeps_huStart {F : Nat} {s0 s : State} (h0 : Keeps F s0 s) (hF : F &&& 0x10000000060 = 0 := by exact mask_sub (by assumption) rfl) : Keeps F s0 (State.huStart s) := by
  unfold State.huStart
  with_reducible repeat' first
    | (intro _)
    | (extract_lets +onlyGivenNames x; refine keeps_let (F := F) (s0 := s0) (x := x) (fun _ => ?_) ?_; rotate_left; subst x; rotate_left; clear_value x)
    | (extract_lets +onlyGivenNames x; clear_value x) | assumption | apply keeps_updHu | apply keeps_huFail | apply keeps_huPin
    | apply keeps_huFresh | split | exact mask_sub hF rfl

theorem keeps_execHuTestStart {F : Nat} {s0 s : State} (h0 : Keeps F s0 s) (st : Nat) (hF : F &&& 0x10000000060 = 0 := by exact mask_sub (by assumption) rfl) : ResKeeps F s0 (execHuTestStart st s) := by
  unfold execHuTestStart
  with_reducible repeat' first
    | assumption | apply ResKeeps.next | apply keeps_huStart | split | exact mask_sub hF rfl

theorem keeps_execTestNow {F : Nat} {s0 s : State} (h0 : Keeps F s0 s) (st : Nat) (req : Nat) (v : Nat) (hF : F &&& 0x10000000070 = 0 := by exact mask_sub (by assumption) rfl) : ResKeeps F s0 (execTestNow st req v s) := by
  unfold execTestNow
  with_reducible repeat' first
    | (intro _) | assumption | apply ResKeeps.next | apply keeps_onKey | apply keeps_huStart | split | exact mask_sub hF rfl

theorem keeps_execHuTestRetry {F : Nat} {s0 s : State} (h0 : Keeps F s0 s) (st : Nat) (hF : F &&& 0x10000000060 = 0 := by exact mask_sub (by assumption) rfl) : ResKeeps F s0 (execHuTestRetry st s) := by
  unfold execHuTestRetry
  with_reducible repeat' first
    | assumption | apply ResKeeps.next | apply keeps_huStart | split | exact mask_sub hF rfl | (refine keeps_of_pair (by assumption) ?_)

theorem keeps_huTake {F : Nat} {s0 s : State} (h0 : Keeps F s0 s) (st : Nat) (t : Nat) (cap : Nat) (hF : F &&& 0x10000000040 = 0 := by exact mask_sub (by assumption) rfl) : Keeps F s0 (State.huTake s st t cap) := by
  unfold State.huTake
  with_reducible repeat' first
    | (intro _)
    | (extract_lets +onlyGivenNames x; refine keeps_let (F := F) (s0 := s0) (x := x) (fun _ => ?_) ?_; rotate_left; subst x; rotate_left; clear_value x)
    | (extract_lets +onlyGivenNames x; clear_value x) | assumption | apply keeps_wrN | apply keeps_updHu | apply keeps_huEvent
    | apply keeps_huFresh | exact mask_sub hF rfl

theorem keeps_huEnd {F : Nat} {s0 s : State} (h0 : Keeps F s0 s) (ts : Nat) (hF : F &&& 0x10000000060 = 0 := by exact mask_sub (by assumption) rfl) : Keeps F s0 (State.huEnd s ts) := by
  unfold State.huEnd
  with_reducible repeat' first
    | (intro _)
    | (extract_lets +onlyGivenNames x; refine keeps_let (F := F) (s0 := s0) (x := x) (fun _ => ?_) ?_; rotate_left; subst x; rotate_left; clear_value x)
    | (extract_lets +onlyGivenNames x; clear_value x) | assumption | apply keeps_huFail | apply keeps_updHu | apply keeps_huPin
    | apply keeps_huTake | split | exact mask_sub hF rfl

theorem keeps_execHuSample {F : Nat} {s0 s : State} (h0 : Keeps F s0 s) (st : Nat) (code : Nat) (hF : F &&& 0x10000000060 = 0 := by exact mask_sub (by assumption) rfl) : ResKeeps F s0 (execHuSample st code s) := by
  unfold execHuSample
  with_reducible repeat' first
    | (intro _)
    | (extract_lets +onlyGivenNames x; refine keeps_let (F := F) (s0 := s0) (x := x) (fun _ => ?_) ?_; rotate_left; subst x; rotate_left; clear_value x)
    | (extract_lets +onlyGivenNames x; clear_value x) | assumption | apply ResKeeps.next | apply keeps_updHu | apply keeps_wrN
    | apply keeps_huEvent | apply keeps_huStart | apply keeps_huEnd | split | exact mask_sub hF rfl
    | (refine keeps_of_pair (by assumption) ?_)

theorem keeps_execHuTestTimeout {F : Nat} {s0 s : State} (h0 : Keeps F s0 s) (st : Nat) (hF : F &&& 0x10000000060 = 0 := by exact mask_sub (by assumption) rfl) : ResKeeps F s0 (execHuTestTimeout st s) := by
  unfold execHuTestTimeout
  with_reducible repeat' first
    | assumption | apply ResKeeps.next | apply keeps_huFail | split | exact mask_sub hF rfl | (refine keeps_of_pair (by assumption) ?_)

theorem keeps_execHuResultRx {F : Nat} {s0 s : State} (h0 : Keeps F s0 s) (st : Nat) (hF : F &&& 0x10000000040 = 0 := by exact mask_sub (by assumption) rfl) : ResKeeps F s0 (execHuResultRx st s) := by
  unfold execHuResultRx
  with_reducible repeat' first
    | (intro _) | assumption | apply ResKeeps.next | apply keeps_updHu | apply keeps_huTake | split | exact mask_sub hF rfl
    | (refine keeps_of_pair (by assumption) ?_)

theorem keeps_execHuResultExpire {F : Nat} {s0 s : State} (h0 : Keeps F s0 s) (st : Nat) (hF : F &&& 0x40001800405c068 = 0 := by exact mask_sub (by assumption) rfl) : ResKeeps F s0 (execHuResultExpire st s) := by
  unfold execHuResultExpire
  with_reducible repeat' first
    | (intro _) | assumption | apply ResKeeps.next | apply keeps_updHu | apply keeps_wrN | apply keeps_windowUpdate | split
    | exact mask_sub hF rfl

theorem keeps_huCommit {F : Nat} {s0 s : State} (h0 : Keeps F s0 s) (st : Nat) (hF : F &&& 0x4000000000000c0 = 0 := by exact mask_sub (by assumption) rfl) : Keeps F s0 (State.huCommit s st) := by
  unfold State.huCommit
  with_reducible repeat' first
    | (intro _)
    | (extract_lets +onlyGivenNames x; refine keeps_let (F := F) (s0 := s0) (x := x) (fun _ => ?_) ?_; rotate_left; subst x; rotate_left; clear_value x)
    | (extract_lets +onlyGivenNames x; clear_value x) | assumption | apply keeps_huEvent | apply keeps_undirty | apply keeps_commitRegs
    | apply keeps_forEach | apply keeps_wr | apply keeps_setAct | split | exact mask_sub hF rfl

theorem keeps_execHuCommit {F : Nat} {s0 s : State} (h0 : Keeps F s0 s) (st : Nat) (req : Nat) (v : Nat) (hF : F &&& 0x4000000000000d0 = 0 := by exact mask_sub (by assumption) rfl) : ResKeeps F s0 (execHuCommit st req v s) := by
  unfold execHuCommit
  with_reducible repeat' first
    | (intro _) | assumption | apply ResKeeps.next | apply keeps_onKey | apply keeps_huCommit | split | exact mask_sub hF rfl

theorem keeps_fcConc {F : Nat} {s0 s : State} (h0 : Keeps F s0 s) (die : Nat) (hF : F &&& 0x80000810100c0068 = 0 := by exact mask_sub (by assumption) rfl) : Keeps F s0 (State.fcConc s die) := by
  unfold State.fcConc
  with_reducible repeat' first
    | (intro _)
    | (extract_lets +onlyGivenNames x; refine keeps_let (F := F) (s0 := s0) (x := x) (fun _ => ?_) ?_; rotate_left; subst x; rotate_left; clear_value x)
    | (extract_lets +onlyGivenNames x; clear_value x) | assumption | apply keeps_forEach | apply keeps_goQuiet | apply keeps_updPort
    | apply keeps_setPwr | apply keeps_chAbort | apply keeps_updAx | apply keeps_updPcc | split | apply keeps_mk_fcChans
    | exact mask_sub hF rfl

theorem keeps_fcSteward {F : Nat} {s0 s : State} (h0 : Keeps F s0 s) (st : Nat) (hF : F &&& 0x800018000000060 = 0 := by exact mask_sub (by assumption) rfl) : Keeps F s0 (State.fcSteward s st) := by
  unfold State.fcSteward
  with_reducible repeat' first
    | (intro _)
    | (extract_lets +onlyGivenNames x; refine keeps_let (F := F) (s0 := s0) (x := x) (fun _ => ?_) ?_; rotate_left; subst x; rotate_left; clear_value x)
    | (extract_lets +onlyGivenNames x; clear_value x) | assumption | apply keeps_updHu | apply keeps_wrN | apply keeps_huEvent
    | apply keeps_huFresh | apply keeps_updJn | apply keeps_updI2c | apply keeps_clrBit | apply keeps_beginCommit | split
    | exact mask_sub hF rfl

theorem keeps_finalEnter {F : Nat} {s0 s : State} (h0 : Keeps F s0 s) (hF : F &&& 0x8c000990150dc068 = 0 := by exact mask_sub (by assumption) rfl) : Keeps F s0 (State.finalEnter s) := by
  unfold State.finalEnter
  with_reducible repeat' first
    | (intro _)
    | (extract_lets +onlyGivenNames x; refine keeps_let (F := F) (s0 := s0) (x := x) (fun _ => ?_) ?_; rotate_left; subst x; rotate_left; clear_value x)
    | (extract_lets +onlyGivenNames x; clear_value x) | assumption | apply keeps_huAbort | apply keeps_forEach | apply keeps_fcConc
    | apply keeps_fcSteward | apply keeps_upAll | split | apply keeps_mk_finalC_fcChans | exact mask_sub hF rfl

theorem keeps_execPwrFail {F : Nat} {s0 s : State} (h0 : Keeps F s0 s) (low : Nat) (hF : F &&& 0x8c000990150dc068 = 0 := by exact mask_sub (by assumption) rfl) : ResKeeps F s0 (execPwrFail low s) := by
  unfold execPwrFail
  with_reducible repeat' first
    | (intro _)
    | (extract_lets +onlyGivenNames x; refine keeps_let (F := F) (s0 := s0) (x := x) (fun _ => ?_) ?_; rotate_left; subst x; rotate_left; clear_value x)
    | (extract_lets +onlyGivenNames x; clear_value x) | assumption | apply ResKeeps.next | apply keeps_forEach | apply keeps_setBit
    | apply keeps_updHu | apply keeps_finalEnter | split | exact mask_sub hF rfl

theorem keeps_railTrip {F : Nat} {s0 s : State} (h0 : Keeps F s0 s) (sts : List Nat) (rail : Nat) (hF : F &&& 0x8c000990150dc068 = 0 := by exact mask_sub (by assumption) rfl) : Keeps F s0 (State.railTrip s sts rail) := by
  unfold State.railTrip
  with_reducible repeat' first
    | (intro _)
    | (extract_lets +onlyGivenNames x; refine keeps_let (F := F) (s0 := s0) (x := x) (fun _ => ?_) ?_; rotate_left; subst x; rotate_left; clear_value x)
    | (extract_lets +onlyGivenNames x; clear_value x) | assumption | apply keeps_forEach | apply keeps_wrFld | apply keeps_setBit
    | apply keeps_huEvent | apply keeps_finalEnter | split | exact mask_sub hF rfl

theorem keeps_execRailUndervolt {F : Nat} {s0 s : State} (h0 : Keeps F s0 s) (die : Nat) (rail : Nat) (mv : Nat) (ns : Nat) (hF : F &&& 0x8c000990150dc068 = 0 := by exact mask_sub (by assumption) rfl) : ResKeeps F s0 (execRailUndervolt die rail mv ns s) := by
  unfold execRailUndervolt
  with_reducible repeat' first
    | assumption | apply ResKeeps.next | apply keeps_railTrip | split | exact mask_sub hF rfl

theorem keeps_execFinalDone {F : Nat} {s0 s : State} (h0 : Keeps F s0 s) (st : Nat) (shst : Bool) (hF : F &&& 0x20000030000000060 = 0 := by exact mask_sub (by assumption) rfl) :
    ResKeeps F s0 (execFinalDone st shst s) := by
  unfold execFinalDone
  apply ResKeeps.next
  split
  · exact h0
  · extract_lets h s1 src s2
    have h1 : Keeps F s0 s1 := keeps_huEvent (keeps_wrN (keeps_wrN h0 _ _) _ _) _ _
    have h2 : Keeps F s0 s2 := keeps_wrFld (keeps_mk_parked (keeps_updHu h1 _ _) _) _ _ _ _
    clear_value s2
    split
    · refine keeps_faultN ?_ _ _
      apply keeps_forEach _ _ _ h2
      intro t a ht
      exact keeps_wrFld ht _ _ _ _
    · exact h2

theorem keeps_resumeRings {F : Nat} {s0 s : State} (h0 : Keeps F s0 s) (prev : Nat) (st : Nat) (hF : F &&& 0x3000bc044048 = 0 := by exact mask_sub (by assumption) rfl) : Keeps F s0 (State.resumeRings s prev st) := by
  unfold State.resumeRings
  with_reducible repeat' first
    | (intro _)
    | (extract_lets +onlyGivenNames x; refine keeps_let (F := F) (s0 := s0) (x := x) (fun _ => ?_) ?_; rotate_left; subst x; rotate_left; clear_value x)
    | (extract_lets +onlyGivenNames x; clear_value x) | assumption | apply keeps_forEach | apply keeps_recoverDie | apply keeps_restartGo
    | exact mask_sub hF rfl

theorem keeps_execPowerResume {F : Nat} {s0 s : State} (h0 : Keeps F s0 s) (high : Nat) (hF : F &&& 0x4003b81fd0dc068 = 0 := by exact mask_sub (by assumption) rfl) : ResKeeps F s0 (execPowerResume high s) := by
  unfold execPowerResume
  with_reducible repeat' first
    | (intro _)
    | (extract_lets +onlyGivenNames x; refine keeps_let (F := F) (s0 := s0) (x := x) (fun _ => ?_) ?_; rotate_left; subst x; rotate_left; clear_value x)
    | (extract_lets +onlyGivenNames x; clear_value x) | assumption | apply ResKeeps.next | apply keeps_forEach | apply keeps_clrBit
    | apply keeps_updJn | apply keeps_updHu | apply keeps_huFresh | apply keeps_goDetect | apply keeps_windowUpdate
    | apply keeps_sendWaiting | apply keeps_nextEpoch | apply keeps_resumeRings | apply keeps_huEvent | apply keeps_upAll | split
    | apply keeps_mk_finalC_parked | apply keeps_mk_fcChans | exact mask_sub hF rfl

end Sys2Proof.Machine
end

