-- ==== Sys2Proof/Laws/KeepsDictQ.lean ====
section
/-! SUPPORT. What the operations of Machine/DictQ.lean keep (`Keeps`), one lemma each. -/
namespace Sys2Proof.Machine
set_option Elab.async false

theorem keeps_answer {F : Nat} {s0 s : State} (h0 : Keeps F s0 s) (r : DictReq) (rsp : List Byte) (hF : F &&& 0x8000000400c0078 = 0 := by exact mask_sub (by assumption) rfl) : Keeps F s0 (State.answer s r rsp) := by
  unfold State.answer
  with_reducible repeat' first
    | (intro _)
    | (extract_lets +onlyGivenNames x; refine keeps_let (F := F) (s0 := s0) (x := x) (fun _ => ?_) ?_; rotate_left; subst x; rotate_left; clear_value x)
    | (extract_lets +onlyGivenNames x; clear_value x) | assumption | apply keeps_respond | apply keeps_updEp | apply keeps_updI2c
    | apply keeps_wrFld | apply keeps_updPort | apply keeps_bchStart | split | exact mask_sub hF rfl

theorem keeps_leadLost {F : Nat} {s0 s : State} (h0 : Keeps F s0 s) (hF : F &&& 0x9800000400c0078 = 0 := by exact mask_sub (by assumption) rfl) : Keeps F s0 (State.leadLost s) := by
  unfold State.leadLost
  with_reducible repeat' first
    | (intro _)
    | (extract_lets +onlyGivenNames x; refine keeps_let (F := F) (s0 := s0) (x := x) (fun _ => ?_) ?_; rotate_left; subst x; rotate_left; clear_value x)
    | (extract_lets +onlyGivenNames x; clear_value x) | assumption | apply keeps_forEach | apply keeps_answer | apply keeps_mk_dictQ_gws
    | exact mask_sub hF rfl

end Sys2Proof.Machine
end

