-- ==== Sys2Proof/Laws/KeepsAvail.lean ====
section
/-! SUPPORT. What the operations of Machine/Avail.lean keep (`Keeps`), one lemma each. -/
namespace Sys2Proof.Machine
set_option Elab.async false

theorem keeps_setHb {F : Nat} {s0 s : State} (h0 : Keeps F s0 s) (die : Nat) (m : Nat) (v : HbS) (hF : F &&& 0x400000000000 = 0 := by exact mask_sub (by assumption) rfl) : Keeps F s0 (State.setHb s die m v) := by
  unfold State.setHb
  with_reducible repeat' first
    | (intro _) | assumption | apply keeps_mk_hbs | exact mask_sub hF rfl

theorem keeps_updHb {F : Nat} {s0 s : State} (h0 : Keeps F s0 s) (die : Nat) (m : Nat) (f : HbS → HbS) (hF : F &&& 0x400000000000 = 0 := by exact mask_sub (by assumption) rfl) : Keeps F s0 (State.updHb s die m f) := by
  unfold State.updHb
  with_reducible repeat' first
    | assumption | apply keeps_setHb | exact mask_sub hF rfl

theorem keeps_execHeartbeatTx {F : Nat} {s0 s : State} (h0 : Keeps F s0 s) (die : Nat) (m : Nat) (hF : F &&& 0x400000000000 = 0 := by exact mask_sub (by assumption) rfl) : ResKeeps F s0 (execHeartbeatTx die m s) := by
  unfold execHeartbeatTx
  with_reducible repeat' first
    | (intro _)
    | (extract_lets +onlyGivenNames x; refine keeps_let (F := F) (s0 := s0) (x := x) (fun _ => ?_) ?_; rotate_left; subst x; rotate_left; clear_value x)
    | (extract_lets +onlyGivenNames x; clear_value x) | assumption | apply ResKeeps.next | apply keeps_updHb | split
    | exact mask_sub hF rfl | (refine keeps_of_pair (by assumption) ?_)

theorem keeps_mooredCheck {F : Nat} {s0 s : State} (h0 : Keeps F s0 s) (die : Nat) (hF : F &&& 0x40000003405d068 = 0 := by exact mask_sub (by assumption) rfl) : Keeps F s0 (State.mooredCheck s die) := by
  unfold State.mooredCheck
  with_reducible repeat' first
    | (intro _)
    | (extract_lets +onlyGivenNames x; refine keeps_let (F := F) (s0 := s0) (x := x) (fun _ => ?_) ?_; rotate_left; subst x; rotate_left; clear_value x)
    | (extract_lets +onlyGivenNames x; clear_value x) | assumption | apply keeps_setBit | apply keeps_logErr | apply keeps_health
    | apply keeps_forEach | apply keeps_halt | apply keeps_mooredTime | split | exact mask_sub hF rfl

theorem keeps_dieLostCheck {F : Nat} {s0 s : State} (h0 : Keeps F s0 s) (die : Nat) (hF : F &&& 0x40000040405c068 = 0 := by exact mask_sub (by assumption) rfl) : Keeps F s0 (State.dieLostCheck s die) := by
  unfold State.dieLostCheck
  with_reducible repeat' first
    | (intro _)
    | (extract_lets +onlyGivenNames x; refine keeps_let (F := F) (s0 := s0) (x := x) (fun _ => ?_) ?_; rotate_left; subst x; rotate_left; clear_value x)
    | (extract_lets +onlyGivenNames x; clear_value x) | assumption | apply keeps_forEach | apply keeps_setBit | apply keeps_health | split
    | apply keeps_mk_lostDies | exact mask_sub hF rfl

theorem keeps_foTime {F : Nat} {s0 s : State} (h0 : Keeps F s0 s) (st : Nat) (hF : F &&& 0x40 = 0 := by exact mask_sub (by assumption) rfl) : Keeps F s0 (State.foTime s st) := by
  unfold State.foTime
  with_reducible repeat' first
    | assumption | apply keeps_wrDt | exact mask_sub hF rfl

theorem keeps_setLead {F : Nat} {s0 s : State} (h0 : Keeps F s0 s) (st : Nat) (hF : F &&& 0x18000001460 = 0 := by exact mask_sub (by assumption) rfl) : Keeps F s0 (s.setLead st) := by
  unfold State.setLead
  split
  · exact h0
  · rename_i hs
    split
    · exact keeps_setBit h0 _ _
    · extract_lets s1 src m m2 s2 s3 s4
      have h1 : Keeps F s0 s1 := keeps_huAbort h0
      have hst : s1.stOk st = true := by
        rw [stOk_of_part (keeps_huAbort (F := 0) (Keeps.refl 0 s) (hF := rfl)).part]; simpa using hs
      have hm : Keeps F s0 m := h1.upd (M := 0x1400) (mask_sub hF rfl) rfl rfl id id
        (fun _ => hst) (fun f => by cases f <;> first | exact fun _ => rfl | exact fun h => nomatch h)
      clear_value m
      have hm2 : Keeps F s0 m2 := by
        subst m2
        apply keeps_forEach _ _ _ hm
        intro t a ht
        exact keeps_wr ht _ _
      clear_value m2
      have h2 : Keeps F s0 s2 := by
        refine keeps_setBit ?_ _ _
        split
        · exact hm2
        · exact keeps_sourceChanged hm2
      have h3 : Keeps F s0 s3 := keeps_updJn h2 _ _
      clear_value s3
      have h4 : Keeps F s0 s4 := by
        subst s4
        split
        · exact keeps_huFresh (keeps_clrBit h3 _ _) _
        · exact h3
      exact keeps_huFresh h4 _

theorem keeps_stewardLost {F : Nat} {s0 s : State} (h0 : Keeps F s0 s) (sv : Nat) (hF : F &&& 0xd823181fc0dd478 = 0 := by exact mask_sub (by assumption) rfl) : Keeps F s0 (State.stewardLost s sv) := by
  unfold State.stewardLost
  with_reducible repeat' first
    | (intro _)
    | (extract_lets +onlyGivenNames x; refine keeps_let (F := F) (s0 := s0) (x := x) (fun _ => ?_) ?_; rotate_left; subst x; rotate_left; clear_value x)
    | (extract_lets +onlyGivenNames x; clear_value x) | assumption | apply keeps_leadLost | apply keeps_setLead | apply keeps_setBit
    | apply keeps_foTime | apply keeps_logErr | apply keeps_semRelease | apply keeps_forEach | apply keeps_updEp | apply keeps_takeHead
    | apply keeps_nextEpoch | apply keeps_recoverDie | apply keeps_health | apply keeps_upAll | split | apply keeps_mk_declared
    | apply keeps_mk_dict | apply keeps_mk_switchAt | exact mask_sub hF rfl

theorem keeps_splitHalt {F : Nat} {s0 s : State} (h0 : Keeps F s0 s) (st : Nat) (hF : F &&& 0x40082000405c068 = 0 := by exact mask_sub (by assumption) rfl) : Keeps F s0 (State.splitHalt s st) := by
  unfold State.splitHalt
  with_reducible repeat' first
    | (intro _)
    | (extract_lets +onlyGivenNames x; refine keeps_let (F := F) (s0 := s0) (x := x) (fun _ => ?_) ?_; rotate_left; subst x; rotate_left; clear_value x)
    | (extract_lets +onlyGivenNames x; clear_value x) | assumption | apply keeps_setBit | apply keeps_logErr | apply keeps_health
    | apply keeps_mk_parked_hbOn | exact mask_sub hF rfl

theorem keeps_uxJudge {F : Nat} {s0 s : State} (h0 : Keeps F s0 s) (st : Nat) (hF : F &&& 0xd82b381fc0dd478 = 0 := by exact mask_sub (by assumption) rfl) : Keeps F s0 (State.uxJudge s st) := by
  unfold State.uxJudge
  with_reducible repeat' first
    | assumption | apply keeps_stewardLost | apply keeps_splitHalt | split | exact mask_sub hF rfl

theorem keeps_moduleJudge {F : Nat} {s0 s : State} (h0 : Keeps F s0 s) (die : Nat) (l : Nat) (hF : F &&& 0x4043001bc05c068 = 0 := by exact mask_sub (by assumption) rfl) : Keeps F s0 (State.moduleJudge s die l) := by
  unfold State.moduleJudge
  with_reducible repeat' first
    | (intro _)
    | (extract_lets +onlyGivenNames x; refine keeps_let (F := F) (s0 := s0) (x := x) (fun _ => ?_) ?_; rotate_left; subst x; rotate_left; clear_value x)
    | (extract_lets +onlyGivenNames x; clear_value x) | assumption | apply keeps_setBit | apply keeps_foTime | apply keeps_logErr
    | apply keeps_health | apply keeps_nextEpoch | apply keeps_recoverDie | split | apply keeps_mk_modLost | apply keeps_mk_switchAt
    | exact mask_sub hF rfl | (refine keeps_of_pair (by assumption) ?_)

theorem keeps_dieLoses {F : Nat} {s0 s : State} (h0 : Keeps F s0 s) (die : Nat) (m : Nat) (hF : F &&& 0x4043001bc05d068 = 0 := by exact mask_sub (by assumption) rfl) : Keeps F s0 (State.dieLoses s die m) := by
  unfold State.dieLoses
  with_reducible repeat' first
    | (extract_lets +onlyGivenNames x; refine keeps_let (F := F) (s0 := s0) (x := x) (fun _ => ?_) ?_; rotate_left; subst x; rotate_left; clear_value x)
    | (extract_lets +onlyGivenNames x; clear_value x) | (intro _) | assumption | apply keeps_clrBit | apply keeps_setBit
    | apply keeps_logErr | apply keeps_semRelease | apply keeps_mooredCheck | apply keeps_moduleJudge | split | exact mask_sub hF rfl

theorem keeps_endLost {F : Nat} {s0 s : State} (h0 : Keeps F s0 s) (die : Nat) (m : Nat) (hF : F &&& 0xd86f385fc0dd478 = 0 := by exact mask_sub (by assumption) rfl) : Keeps F s0 (State.endLost s die m) := by
  unfold State.endLost
  with_reducible repeat' first
    | (intro _)
    | (extract_lets +onlyGivenNames x; refine keeps_let (F := F) (s0 := s0) (x := x) (fun _ => ?_) ?_; rotate_left; subst x; rotate_left; clear_value x)
    | (extract_lets +onlyGivenNames x; clear_value x) | assumption | apply keeps_updHb | apply keeps_dieLoses | apply keeps_dieLostCheck
    | apply keeps_moduleJudge | apply keeps_clrBit | apply keeps_uxJudge | apply keeps_upAll | split | exact mask_sub hF rfl

theorem keeps_execHeartbeatMiss {F : Nat} {s0 s : State} (h0 : Keeps F s0 s) (die : Nat) (m : Nat) (hF : F &&& 0xd86f385fc0dd478 = 0 := by exact mask_sub (by assumption) rfl) : ResKeeps F s0 (execHeartbeatMiss die m s) := by
  unfold execHeartbeatMiss
  with_reducible repeat' first
    | (intro _)
    | (extract_lets +onlyGivenNames x; refine keeps_let (F := F) (s0 := s0) (x := x) (fun _ => ?_) ?_; rotate_left; subst x; rotate_left; clear_value x)
    | (extract_lets +onlyGivenNames x; clear_value x) | assumption | apply ResKeeps.next | apply keeps_inc | apply keeps_logErr
    | apply keeps_updHb | apply keeps_endLost | split | exact mask_sub hF rfl | (refine keeps_of_pair (by assumption) ?_)

theorem keeps_execModCmdDown {F : Nat} {s0 s : State} (h0 : Keeps F s0 s) (die : Nat) (m : Nat) (req : Nat) (v : Nat) (hF : F &&& 0x100d86f38dfc0dd478 = 0 := by exact mask_sub (by assumption) rfl) : ResKeeps F s0 (execModCmdDown die m req v s) := by
  unfold execModCmdDown
  with_reducible repeat' first
    | (intro _) | assumption | apply ResKeeps.next | apply keeps_onKey | apply keeps_modDown | apply keeps_endLost | split
    | exact mask_sub hF rfl

theorem keeps_execRetrainLimitExpire {F : Nat} {s0 s : State} (h0 : Keeps F s0 s) (die : Nat) (m : Nat) (hF : F &&& 0x100d86f38dfc0dd478 = 0 := by exact mask_sub (by assumption) rfl) : ResKeeps F s0 (execRetrainLimitExpire die m s) := by
  unfold execRetrainLimitExpire
  with_reducible repeat' first
    | assumption | apply ResKeeps.next | apply keeps_modEnter | apply keeps_endLost | split | exact mask_sub hF rfl

theorem keeps_execFailoverRestart {F : Nat} {s0 s : State} (h0 : Keeps F s0 s) (st : Nat) (hF : F &&& 0x300010000040 = 0 := by exact mask_sub (by assumption) rfl) : ResKeeps F s0 (execFailoverRestart st s) := by
  unfold execFailoverRestart
  with_reducible repeat' first
    | assumption | apply ResKeeps.next | apply keeps_restartGo | split | exact mask_sub hF rfl

theorem keeps_markPlanned {F : Nat} {s0 s : State} (h0 : Keeps F s0 s) (st : Nat) (b : Bool) (hF : F &&& 0x40 = 0 := by exact mask_sub (by assumption) rfl) : Keeps F s0 (State.markPlanned s st b) := by
  unfold State.markPlanned
  with_reducible repeat' first
    | (intro _)
    | (extract_lets +onlyGivenNames x; refine keeps_let (F := F) (s0 := s0) (x := x) (fun _ => ?_) ?_; rotate_left; subst x; rotate_left; clear_value x)
    | (extract_lets +onlyGivenNames x; clear_value x) | assumption | apply keeps_putBit | apply keeps_forEach | apply keeps_setBit | split
    | exact mask_sub hF rfl

theorem keeps_execPlannedStop {F : Nat} {s0 s : State} (h0 : Keeps F s0 s) (st : Nat) (req : Nat) (v : Nat) (hF : F &&& 0x40100000405c078 = 0 := by exact mask_sub (by assumption) rfl) : ResKeeps F s0 (execPlannedStop st req v s) := by
  unfold execPlannedStop
  with_reducible repeat' first
    | (intro _)
    | (extract_lets +onlyGivenNames x; refine keeps_let (F := F) (s0 := s0) (x := x) (fun _ => ?_) ?_; rotate_left; subst x; rotate_left; clear_value x)
    | (extract_lets +onlyGivenNames x; clear_value x) | assumption | apply ResKeeps.next | apply keeps_onKey | apply keeps_setBit
    | apply keeps_markPlanned | apply keeps_upAll | split | apply keeps_mk_plannedAt | exact mask_sub hF rfl

theorem keeps_endPlanned {F : Nat} {s0 s : State} (h0 : Keeps F s0 s) (st : Nat) (hF : F &&& 0x1000000000040 = 0 := by exact mask_sub (by assumption) rfl) : Keeps F s0 (State.endPlanned s st) := by
  unfold State.endPlanned
  with_reducible repeat' first
    | (intro _) | assumption | apply keeps_markPlanned | split | apply keeps_mk_plannedAt | exact mask_sub hF rfl

theorem keeps_plannedOver {F : Nat} {s0 s : State} (h0 : Keeps F s0 s) (st : Nat) (hF : F &&& 0xd87b381fc0dd478 = 0 := by exact mask_sub (by assumption) rfl) : Keeps F s0 (State.plannedOver s st) := by
  unfold State.plannedOver
  with_reducible repeat' first
    | (intro _)
    | (extract_lets +onlyGivenNames x; refine keeps_let (F := F) (s0 := s0) (x := x) (fun _ => ?_) ?_; rotate_left; subst x; rotate_left; clear_value x)
    | (extract_lets +onlyGivenNames x; clear_value x) | assumption | apply keeps_forEach | apply keeps_endPlanned | apply keeps_dieLoses
    | apply keeps_uxJudge | exact mask_sub hF rfl

theorem keeps_execCancelStop {F : Nat} {s0 s : State} (h0 : Keeps F s0 s) (st : Nat) (req : Nat) (v : Nat) (hF : F &&& 0xd87b381fc0dd478 = 0 := by exact mask_sub (by assumption) rfl) : ResKeeps F s0 (execCancelStop st req v s) := by
  unfold execCancelStop
  with_reducible repeat' first
    | (intro _) | assumption | apply ResKeeps.next | apply keeps_onKey | apply keeps_plannedOver | split | exact mask_sub hF rfl

theorem keeps_execPlannedStopExpire {F : Nat} {s0 s : State} (h0 : Keeps F s0 s) (st : Nat) (hF : F &&& 0xd87b381fc0dd478 = 0 := by exact mask_sub (by assumption) rfl) : ResKeeps F s0 (execPlannedStopExpire st s) := by
  unfold execPlannedStopExpire
  with_reducible repeat' first
    | (intro _) | assumption | apply ResKeeps.next | apply keeps_plannedOver | split | exact mask_sub hF rfl
    | (refine keeps_of_pair (by assumption) ?_)

theorem keeps_stopSteward {F : Nat} {s0 s : State} (h0 : Keeps F s0 s) (st : Nat) (hF : F &&& 0x820000000000 = 0 := by exact mask_sub (by assumption) rfl) : Keeps F s0 (State.stopSteward s st) := by
  unfold State.stopSteward
  with_reducible repeat' first
    | (intro _) | assumption | apply keeps_mk_parked_hbOn | exact mask_sub hF rfl

theorem keeps_execStackFailed {F : Nat} {s0 s : State} (h0 : Keeps F s0 s) (st : Nat) (training : Bool) (words : Nat) (hF : F &&& 0x40082000405c068 = 0 := by exact mask_sub (by assumption) rfl) : ResKeeps F s0 (execStackFailed st training words s) := by
  unfold execStackFailed
  with_reducible repeat' first
    | assumption | apply ResKeeps.next | apply keeps_health | apply keeps_stopSteward | split | exact mask_sub hF rfl

theorem keeps_keeperReset {F : Nat} {s0 s : State} (h0 : Keeps F s0 s) (die : Nat) (core : Nat) (hF : F &&& 0x40 = 0 := by exact mask_sub (by assumption) rfl) : Keeps F s0 (State.keeperReset s die core) := by
  unfold State.keeperReset
  with_reducible repeat' first
    | (intro _) | assumption | apply keeps_semRelease | exact mask_sub hF rfl

theorem keeps_execKeeperWatchdog {F : Nat} {s0 s : State} (h0 : Keeps F s0 s) (die : Nat) (core : Nat) (hF : F &&& 0x42000000405c068 = 0 := by exact mask_sub (by assumption) rfl) : ResKeeps F s0 (execKeeperWatchdog die core s) := by
  unfold execKeeperWatchdog
  with_reducible repeat' first
    | (intro _)
    | (extract_lets +onlyGivenNames x; refine keeps_let (F := F) (s0 := s0) (x := x) (fun _ => ?_) ?_; rotate_left; subst x; rotate_left; clear_value x)
    | (extract_lets +onlyGivenNames x; clear_value x) | assumption | apply ResKeeps.next | apply keeps_keeperReset | apply keeps_health
    | split | apply keeps_mk_wdogs | exact mask_sub hF rfl

theorem keeps_scrubWord {F : Nat} {s0 s : State} (h0 : Keeps F s0 s) (die : Nat) (addr : Nat) (data : Nat) (check : Nat) (hF : F &&& 0x40000000405c068 = 0 := by exact mask_sub (by assumption) rfl) : Keeps F s0 (State.scrubWord s die addr data check) := by
  unfold State.scrubWord
  with_reducible repeat' first
    | (extract_lets +onlyGivenNames x; refine keeps_let (F := F) (s0 := s0) (x := x) (fun _ => ?_) ?_; rotate_left; subst x; rotate_left; clear_value x)
    | (extract_lets +onlyGivenNames x; clear_value x) | (intro _) | assumption | apply keeps_incW | apply keeps_setBit
    | apply keeps_logErr | apply keeps_health | apply keeps_skipFree | split | exact mask_sub hF rfl
    | (refine keeps_of_pair (by assumption) ?_)

theorem keeps_execScrubRead {F : Nat} {s0 s : State} (h0 : Keeps F s0 s) (die : Nat) (addr : Nat) (data : Nat) (check : Nat) (meets : Bool) (last : Bool) (hF : F &&& 0x41000000405c068 = 0 := by exact mask_sub (by assumption) rfl) : ResKeeps F s0 (execScrubRead die addr data check meets last s) := by
  unfold execScrubRead
  with_reducible repeat' first
    | (extract_lets +onlyGivenNames x; refine keeps_let (F := F) (s0 := s0) (x := x) (fun _ => ?_) ?_; rotate_left; subst x; rotate_left; clear_value x)
    | (extract_lets +onlyGivenNames x; clear_value x) | (intro _) | assumption | apply ResKeeps.next | apply keeps_setScrub
    | apply keeps_scrubWord | apply keeps_incW | split | exact mask_sub hF rfl

theorem keeps_execPassLate {F : Nat} {s0 s : State} (h0 : Keeps F s0 s) (die : Nat) (hF : F &&& 0x40 = 0 := by exact mask_sub (by assumption) rfl) : ResKeeps F s0 (execPassLate die s) := by
  unfold execPassLate
  with_reducible repeat' first
    | (extract_lets +onlyGivenNames x; refine keeps_let (F := F) (s0 := s0) (x := x) (fun _ => ?_) ?_; rotate_left; subst x; rotate_left; clear_value x)
    | (extract_lets +onlyGivenNames x; clear_value x) | (intro _) | assumption | apply ResKeeps.next | apply keeps_setBit | split
    | exact mask_sub hF rfl

theorem keeps_execCkStart {F : Nat} {s0 s : State} (h0 : Keeps F s0 s) (die : Nat) (u : Nat) (req : Nat) (v : Nat) (hF : F &&& 0x20050 = 0 := by exact mask_sub (by assumption) rfl) : ResKeeps F s0 (execCkStart die u req v s) := by
  unfold execCkStart
  with_reducible repeat' first
    | (intro _)
    | (extract_lets +onlyGivenNames x; refine keeps_let (F := F) (s0 := s0) (x := x) (fun _ => ?_) ?_; rotate_left; subst x; rotate_left; clear_value x)
    | (extract_lets +onlyGivenNames x; clear_value x) | assumption | apply ResKeeps.next | apply keeps_onKey | apply keeps_setBit
    | apply keeps_setCk | apply keeps_wrFld | split | exact mask_sub hF rfl

theorem keeps_execCkStop {F : Nat} {s0 s : State} (h0 : Keeps F s0 s) (die : Nat) (u : Nat) (req : Nat) (v : Nat) (hF : F &&& 0x20050 = 0 := by exact mask_sub (by assumption) rfl) : ResKeeps F s0 (execCkStop die u req v s) := by
  unfold execCkStop
  with_reducible repeat' first
    | (intro _)
    | (extract_lets +onlyGivenNames x; refine keeps_let (F := F) (s0 := s0) (x := x) (fun _ => ?_) ?_; rotate_left; subst x; rotate_left; clear_value x)
    | (extract_lets +onlyGivenNames x; clear_value x) | assumption | apply ResKeeps.next | apply keeps_onKey | apply keeps_setCk
    | apply keeps_clrBit | split | exact mask_sub hF rfl

end Sys2Proof.Machine
end

