-- ==== Sys2Proof/Laws/KeepsElec.lean ====
section
/-! SUPPORT. What the operations of Machine/Elec.lean keep (`Keeps`), one lemma each. -/
namespace Sys2Proof.Machine
set_option Elab.async false

theorem keeps_execUpPerst {F : Nat} {s0 s : State} (h0 : Keeps F s0 s) (st : Nat) (hF : F &&& 0x40000004405c268 = 0 := by exact mask_sub (by assumption) rfl) : ResKeeps F s0 (execUpPerst st s) := by
  unfold execUpPerst
  with_reducible repeat' first
    | (intro _)
    | (extract_lets +onlyGivenNames x; refine keeps_let (F := F) (s0 := s0) (x := x) (fun _ => ?_) ?_; rotate_left; subst x; rotate_left; clear_value x)
    | (extract_lets +onlyGivenNames x; clear_value x) | assumption | apply ResKeeps.next | apply keeps_funcReset | apply keeps_wrFld
    | apply keeps_clrBit | apply keeps_updEp | apply keeps_acceptFresh | split | exact mask_sub hF rfl

theorem keeps_execDrPerstRelease {F : Nat} {s0 s : State} (h0 : Keeps F s0 s) (st : Nat) (hF : F &&& 0x8000000020 = 0 := by exact mask_sub (by assumption) rfl) : ResKeeps F s0 (execDrPerstRelease st s) := by
  unfold execDrPerstRelease
  with_reducible repeat' first
    | (intro _)
    | (extract_lets +onlyGivenNames x; refine keeps_let (F := F) (s0 := s0) (x := x) (fun _ => ?_) ?_; rotate_left; subst x; rotate_left; clear_value x)
    | (extract_lets +onlyGivenNames x; clear_value x) | assumption | apply ResKeeps.next | apply keeps_updJn | apply keeps_emit | split
    | exact mask_sub hF rfl

theorem keeps_execSequenceFault {F : Nat} {s0 s : State} (h0 : Keeps F s0 s) (hF : F &&& 0x20000000000000020 = 0 := by exact mask_sub (by assumption) rfl) : ResKeeps F s0 (execSequenceFault s) := by
  unfold execSequenceFault
  with_reducible repeat' first
    | assumption | apply ResKeeps.next | apply keeps_faultN | exact mask_sub hF rfl

theorem keeps_pwrFault {F : Nat} {s0 s : State} (h0 : Keeps F s0 s) (p : Nat) (i : Nat) (hF : F &&& 0xc0068 = 0 := by exact mask_sub (by assumption) rfl) : Keeps F s0 (State.pwrFault s p i) := by
  unfold State.pwrFault
  with_reducible repeat' first
    | (extract_lets +onlyGivenNames x; refine keeps_let (F := F) (s0 := s0) (x := x) (fun _ => ?_) ?_; rotate_left; subst x; rotate_left; clear_value x)
    | (extract_lets +onlyGivenNames x; clear_value x) | (intro _) | assumption | apply keeps_wrN | apply keeps_goFault
    | apply keeps_lpEvent | apply keeps_setPwr | apply keeps_setBit | split | exact mask_sub hF rfl

theorem keeps_pccPort {F : Nat} {s0 s : State} (h0 : Keeps F s0 s) (die : Nat) (fault : Nat) (pgood : Nat) (on : Nat) (l : Nat) (hF : F &&& 0xc0068 = 0 := by exact mask_sub (by assumption) rfl) : Keeps F s0 (State.pccPort s die fault pgood on l) := by
  unfold State.pccPort
  with_reducible repeat' first
    | (intro _)
    | (extract_lets +onlyGivenNames x; refine keeps_let (F := F) (s0 := s0) (x := x) (fun _ => ?_) ?_; rotate_left; subst x; rotate_left; clear_value x)
    | (extract_lets +onlyGivenNames x; clear_value x) | assumption | apply keeps_pwrFault | apply keeps_setBit | apply keeps_incW | split
    | exact mask_sub hF rfl

theorem keeps_pccFrame {F : Nat} {s0 s : State} (h0 : Keeps F s0 s) (die : Nat) (fault : Nat) (pgood : Nat) (low : Bool) (hF : F &&& 0x80000000000c0068 = 0 := by exact mask_sub (by assumption) rfl) : Keeps F s0 (State.pccFrame s die fault pgood low) := by
  unfold State.pccFrame
  with_reducible repeat' first
    | (intro _)
    | (extract_lets +onlyGivenNames x; refine keeps_let (F := F) (s0 := s0) (x := x) (fun _ => ?_) ?_; rotate_left; subst x; rotate_left; clear_value x)
    | (extract_lets +onlyGivenNames x; clear_value x) | assumption | apply keeps_wrN | apply keeps_forEach | apply keeps_pccPort
    | apply keeps_incW | apply keeps_setBit | apply keeps_updPcc | apply keeps_clrBit | split | exact mask_sub hF rfl

theorem keeps_pccSend {F : Nat} {s0 s : State} (h0 : Keeps F s0 s) (die : Nat) (status : Nat) (low : Bool) (hF : F &&& 0x80000000000c0068 = 0 := by exact mask_sub (by assumption) rfl) : Keeps F s0 (State.pccSend s die status low) := by
  unfold State.pccSend
  with_reducible repeat' first
    | (intro _)
    | (extract_lets +onlyGivenNames x; refine keeps_let (F := F) (s0 := s0) (x := x) (fun _ => ?_) ?_; rotate_left; subst x; rotate_left; clear_value x)
    | (extract_lets +onlyGivenNames x; clear_value x) | assumption | apply keeps_pccFrame | apply keeps_updPcc | apply keeps_emit
    | exact mask_sub hF rfl

theorem keeps_execPccFrame {F : Nat} {s0 s : State} (h0 : Keeps F s0 s) (die : Nat) (status : Nat) (low : Bool) (hF : F &&& 0x80000000000c0068 = 0 := by exact mask_sub (by assumption) rfl) : ResKeeps F s0 (execPccFrame die status low s) := by
  unfold execPccFrame
  with_reducible repeat' first
    | assumption | apply ResKeeps.next | apply keeps_pccSend | split | exact mask_sub hF rfl

theorem keeps_execPccFltFall {F : Nat} {s0 s : State} (h0 : Keeps F s0 s) (die : Nat) (status : Nat) (hF : F &&& 0x80000000000c0068 = 0 := by exact mask_sub (by assumption) rfl) : ResKeeps F s0 (execPccFltFall die status s) := by
  unfold execPccFltFall
  with_reducible repeat' first
    | assumption | apply ResKeeps.next | apply keeps_pccSend | split | exact mask_sub hF rfl

theorem keeps_execPgTimeout {F : Nat} {s0 s : State} (h0 : Keeps F s0 s) (port : Nat) (hF : F &&& 0xc0068 = 0 := by exact mask_sub (by assumption) rfl) : ResKeeps F s0 (execPgTimeout port s) := by
  unfold execPgTimeout
  with_reducible repeat' first
    | (intro _)
    | (extract_lets +onlyGivenNames x; refine keeps_let (F := F) (s0 := s0) (x := x) (fun _ => ?_) ?_; rotate_left; subst x; rotate_left; clear_value x)
    | (extract_lets +onlyGivenNames x; clear_value x) | assumption | apply ResKeeps.next | apply keeps_pwrFault | split
    | exact mask_sub hF rfl | (refine keeps_of_pair (by assumption) ?_)

theorem keeps_execOvertemp {F : Nat} {s0 s : State} (h0 : Keeps F s0 s) (die : Nat) (temp : Int) (hF : F &&& 0x1040000000405c068 = 0 := by exact mask_sub (by assumption) rfl) : ResKeeps F s0 (execOvertemp die temp s) := by
  unfold execOvertemp
  with_reducible repeat' first
    | (intro _)
    | (extract_lets +onlyGivenNames x; refine keeps_let (F := F) (s0 := s0) (x := x) (fun _ => ?_) ?_; rotate_left; subst x; rotate_left; clear_value x)
    | (extract_lets +onlyGivenNames x; clear_value x) | assumption | apply ResKeeps.next | apply keeps_wrFld | apply keeps_health | split
    | apply keeps_mk_hotDies | exact mask_sub hF rfl

theorem keeps_execOvertempCritical {F : Nat} {s0 s : State} (h0 : Keeps F s0 s) (die : Nat) (temp : Int) (ns : Nat) (hF : F &&& 0x28c000990150dc068 = 0 := by exact mask_sub (by assumption) rfl) : ResKeeps F s0 (execOvertempCritical die temp ns s) := by
  unfold execOvertempCritical
  with_reducible repeat' first
    | assumption | apply ResKeeps.next | apply keeps_wrFld | apply keeps_faultN | apply keeps_finalEnter | split | exact mask_sub hF rfl

end Sys2Proof.Machine
end

