-- ==== Sys2Proof/Laws/KeepsMgmt.lean ====
section
/-! SUPPORT. What the operations of Machine/Mgmt.lean keep (`Keeps`), one lemma each. -/
namespace Sys2Proof.Machine
set_option Elab.async false

theorem keeps_updCan {F : Nat} {s0 s : State} (h0 : Keeps F s0 s) (st : Nat) (f : CanS → CanS) (hF : F &&& 0x1000000000000000 = 0 := by exact mask_sub (by assumption) rfl) : Keeps F s0 (State.updCan s st f) := by
  unfold State.updCan
  with_reducible repeat' first
    | (intro _) | assumption | apply keeps_mk_cans | exact mask_sub hF rfl

theorem keeps_canEvent {F : Nat} {s0 s : State} (h0 : Keeps F s0 s) (st : Nat) (i : Nat) (hF : F &&& 0x40 = 0 := by exact mask_sub (by assumption) rfl) : Keeps F s0 (State.canEvent s st i) := by
  unfold State.canEvent
  with_reducible repeat' first
    | assumption | apply keeps_setBit | exact mask_sub hF rfl

theorem keeps_canPhase {F : Nat} {s0 s : State} (h0 : Keeps F s0 s) (st : Nat) (hF : F &&& 0x1000000000000048 = 0 := by exact mask_sub (by assumption) rfl) : Keeps F s0 (State.canPhase s st) := by
  unfold State.canPhase
  with_reducible repeat' first
    | (intro _)
    | (extract_lets +onlyGivenNames x; refine keeps_let (F := F) (s0 := s0) (x := x) (fun _ => ?_) ?_; rotate_left; subst x; rotate_left; clear_value x)
    | (extract_lets +onlyGivenNames x; clear_value x) | assumption | apply keeps_skipFree | apply keeps_updCan | apply keeps_wrFld | split
    | exact mask_sub hF rfl

theorem keeps_canSend {F : Nat} {s0 s : State} (h0 : Keeps F s0 s) (st : Nat) (cob : Nat) (d : List Byte) (hF : F &&& 0x1000000000000068 = 0 := by exact mask_sub (by assumption) rfl) : Keeps F s0 (State.canSend s st cob d) := by
  unfold State.canSend
  with_reducible repeat' first
    | (intro _) | assumption | apply keeps_canPhase | apply keeps_inc | apply keeps_emit | split | exact mask_sub hF rfl

theorem keeps_canRecv {F : Nat} {s0 s : State} (h0 : Keeps F s0 s) (st : Nat) (hF : F &&& 0x40 = 0 := by exact mask_sub (by assumption) rfl) : Keeps F s0 (State.canRecv s st) := by
  unfold State.canRecv
  with_reducible repeat' first
    | assumption | apply keeps_inc | exact mask_sub hF rfl

theorem keeps_setObj {F : Nat} {s0 s : State} (h0 : Keeps F s0 s) (port : Nat) (idx : Nat) (sub : Nat) (v : List Byte) (hF : F &&& 0x200000000000000 = 0 := by exact mask_sub (by assumption) rfl) : Keeps F s0 (State.setObj s port idx sub v) := by
  unfold State.setObj
  with_reducible repeat' first
    | (intro _) | assumption | apply keeps_mk_objs | exact mask_sub hF rfl

theorem keeps_canStart {F : Nat} {s0 s : State} (h0 : Keeps F s0 s) (st : Nat) (hF : F &&& 0x1000000000000068 = 0 := by exact mask_sub (by assumption) rfl) : Keeps F s0 (State.canStart s st) := by
  unfold State.canStart
  with_reducible repeat' first
    | (intro _)
    | (extract_lets +onlyGivenNames x; refine keeps_let (F := F) (s0 := s0) (x := x) (fun _ => ?_) ?_; rotate_left; subst x; rotate_left; clear_value x)
    | (extract_lets +onlyGivenNames x; clear_value x) | assumption | apply keeps_updCan | apply keeps_wrFld | apply keeps_canSend | split
    | exact mask_sub hF rfl

theorem keeps_execNmtCommand {F : Nat} {s0 s : State} (h0 : Keeps F s0 s) (st : Nat) (cmd : Nat) (node : Nat) (hF : F &&& 0x1000000000000068 = 0 := by exact mask_sub (by assumption) rfl) : ResKeeps F s0 (execNmtCommand st cmd node s) := by
  unfold execNmtCommand
  with_reducible repeat' first
    | (intro _)
    | (extract_lets +onlyGivenNames x; refine keeps_let (F := F) (s0 := s0) (x := x) (fun _ => ?_) ?_; rotate_left; subst x; rotate_left; clear_value x)
    | (extract_lets +onlyGivenNames x; clear_value x) | assumption | apply ResKeeps.next | apply keeps_canRecv | apply keeps_updCan
    | apply keeps_canStart | split | exact mask_sub hF rfl

theorem keeps_execCanHeartbeatTx {F : Nat} {s0 s : State} (h0 : Keeps F s0 s) (st : Nat) (hF : F &&& 0x1000000000000068 = 0 := by exact mask_sub (by assumption) rfl) : ResKeeps F s0 (execCanHeartbeatTx st s) := by
  unfold execCanHeartbeatTx
  with_reducible repeat' first
    | (intro _)
    | (extract_lets +onlyGivenNames x; refine keeps_let (F := F) (s0 := s0) (x := x) (fun _ => ?_) ?_; rotate_left; subst x; rotate_left; clear_value x)
    | (extract_lets +onlyGivenNames x; clear_value x) | assumption | apply ResKeeps.next | apply keeps_updCan | apply keeps_canSend
    | split | exact mask_sub hF rfl

theorem keeps_execBusOff {F : Nat} {s0 s : State} (h0 : Keeps F s0 s) (st : Nat) (errs : Nat) (hF : F &&& 0x48 = 0 := by exact mask_sub (by assumption) rfl) : ResKeeps F s0 (execBusOff st errs s) := by
  unfold execBusOff
  with_reducible repeat' first
    | (extract_lets +onlyGivenNames x; refine keeps_let (F := F) (s0 := s0) (x := x) (fun _ => ?_) ?_; rotate_left; subst x; rotate_left; clear_value x)
    | (extract_lets +onlyGivenNames x; clear_value x) | (intro _) | assumption | apply ResKeeps.next | apply keeps_skipFree
    | apply keeps_wrFld | apply keeps_canEvent | apply keeps_addSat | apply keeps_inc | split | exact mask_sub hF rfl

theorem keeps_canRejoin {F : Nat} {s0 s : State} (h0 : Keeps F s0 s) (st : Nat) (hF : F &&& 0x40 = 0 := by exact mask_sub (by assumption) rfl) : Keeps F s0 (State.canRejoin s st) := by
  unfold State.canRejoin
  with_reducible repeat' first
    | assumption | apply keeps_wrFld | apply keeps_canEvent | split | exact mask_sub hF rfl

theorem keeps_execBusOffRecover {F : Nat} {s0 s : State} (h0 : Keeps F s0 s) (st : Nat) (hF : F &&& 0x40 = 0 := by exact mask_sub (by assumption) rfl) : ResKeeps F s0 (execBusOffRecover st s) := by
  unfold execBusOffRecover
  with_reducible repeat' first
    | assumption | apply ResKeeps.next | apply keeps_canRejoin | split | exact mask_sub hF rfl

theorem keeps_execRecover {F : Nat} {s0 s : State} (h0 : Keeps F s0 s) (st : Nat) (req : Nat) (v : Nat) (hF : F &&& 0x50 = 0 := by exact mask_sub (by assumption) rfl) : ResKeeps F s0 (execRecover st req v s) := by
  unfold execRecover
  with_reducible repeat' first
    | (intro _) | assumption | apply ResKeeps.next | apply keeps_onKey | apply keeps_canRejoin | split | exact mask_sub hF rfl

theorem keeps_i2cEvent {F : Nat} {s0 s : State} (h0 : Keeps F s0 s) (st : Nat) (i : Nat) (hF : F &&& 0x40 = 0 := by exact mask_sub (by assumption) rfl) : Keeps F s0 (State.i2cEvent s st i) := by
  unfold State.i2cEvent
  with_reducible repeat' first
    | assumption | apply keeps_setBit | exact mask_sub hF rfl

theorem keeps_execI2cPointerWrite {F : Nat} {s0 s : State} (h0 : Keeps F s0 s) (st : Nat) (addr : Nat) (ptr : Nat) (hF : F &&& 0x800000000000040 = 0 := by exact mask_sub (by assumption) rfl) : ResKeeps F s0 (execI2cPointerWrite st addr ptr s) := by
  unfold execI2cPointerWrite
  with_reducible repeat' first
    | (intro _) | assumption | apply ResKeeps.next | apply keeps_updI2c | apply keeps_setBit | split | exact mask_sub hF rfl

theorem keeps_i2cStop {F : Nat} {s0 s : State} (h0 : Keeps F s0 s) (st : Nat) (hF : F &&& 0x800000000000040 = 0 := by exact mask_sub (by assumption) rfl) : Keeps F s0 (State.i2cStop s st) := by
  unfold State.i2cStop
  with_reducible repeat' first
    | (intro _) | assumption | apply keeps_updI2c | apply keeps_clrBit | exact mask_sub hF rfl

theorem keeps_i2cFrameErr {F : Nat} {s0 s : State} (h0 : Keeps F s0 s) (st : Nat) (hF : F &&& 0x40 = 0 := by exact mask_sub (by assumption) rfl) : Keeps F s0 (State.i2cFrameErr s st) := by
  unfold State.i2cFrameErr
  with_reducible repeat' first
    | assumption | apply keeps_inc | apply keeps_i2cEvent | apply keeps_wrFld | exact mask_sub hF rfl

theorem keeps_i2cAbandon {F : Nat} {s0 s : State} (h0 : Keeps F s0 s) (st : Nat) (hF : F &&& 0x800000000000040 = 0 := by exact mask_sub (by assumption) rfl) : Keeps F s0 (State.i2cAbandon s st) := by
  unfold State.i2cAbandon
  with_reducible repeat' first
    | (extract_lets +onlyGivenNames x; refine keeps_let (F := F) (s0 := s0) (x := x) (fun _ => ?_) ?_; rotate_left; subst x; rotate_left; clear_value x)
    | (extract_lets +onlyGivenNames x; clear_value x) | (intro _) | assumption | apply keeps_i2cFrameErr | apply keeps_i2cStop | split
    | exact mask_sub hF rfl

theorem keeps_execI2cRequest {F : Nat} {s0 s : State} (h0 : Keeps F s0 s) (st : Nat) (data : List Byte) (hF : F &&& 0x880000000000040 = 0 := by exact mask_sub (by assumption) rfl) : ResKeeps F s0 (execI2cRequest st data s) := by
  unfold execI2cRequest
  with_reducible repeat' first
    | (intro _)
    | (extract_lets +onlyGivenNames x; refine keeps_let (F := F) (s0 := s0) (x := x) (fun _ => ?_) ?_; rotate_left; subst x; rotate_left; clear_value x)
    | (extract_lets +onlyGivenNames x; clear_value x) | assumption | apply ResKeeps.next | apply keeps_i2cStop | apply keeps_inc
    | apply keeps_i2cEvent | apply keeps_wrFld | apply keeps_updI2c | apply keeps_i2cFrameErr | split | apply keeps_mk_dictQ
    | exact mask_sub hF rfl

theorem keeps_execI2cRead {F : Nat} {s0 s : State} (h0 : Keeps F s0 s) (st : Nat) (addr : Nat) (n : Nat) (late : List Nat) (cut : Bool) (hF : F &&& 0x800000000000050 = 0 := by exact mask_sub (by assumption) rfl) : ResKeeps F s0 (execI2cRead st addr n late cut s) := by
  unfold execI2cRead
  with_reducible repeat' first
    | (intro _)
    | (extract_lets +onlyGivenNames x; refine keeps_let (F := F) (s0 := s0) (x := x) (fun _ => ?_) ?_; rotate_left; subst x; rotate_left; clear_value x)
    | (extract_lets +onlyGivenNames x; clear_value x) | assumption | apply ResKeeps.next | apply keeps_updI2c | apply keeps_setBit
    | apply keeps_i2cStop | apply keeps_clrBit | apply keeps_respond | split | exact mask_sub hF rfl

theorem keeps_execStuckRelease {F : Nat} {s0 s : State} (h0 : Keeps F s0 s) (st : Nat) (held : Nat) (hF : F &&& 0x800000000000040 = 0 := by exact mask_sub (by assumption) rfl) : ResKeeps F s0 (execStuckRelease st held s) := by
  unfold execStuckRelease
  with_reducible repeat' first
    | assumption | apply ResKeeps.next | apply keeps_i2cAbandon | apply keeps_wrFld | apply keeps_inc | apply keeps_i2cEvent | split
    | exact mask_sub hF rfl

theorem keeps_execSclTimeout {F : Nat} {s0 s : State} (h0 : Keeps F s0 s) (st : Nat) (low : Nat) (hF : F &&& 0x800000000000040 = 0 := by exact mask_sub (by assumption) rfl) : ResKeeps F s0 (execSclTimeout st low s) := by
  unfold execSclTimeout
  with_reducible repeat' first
    | assumption | apply ResKeeps.next | apply keeps_i2cAbandon | apply keeps_wrFld | apply keeps_inc | apply keeps_i2cEvent | split
    | exact mask_sub hF rfl

theorem keeps_execRsAbandon {F : Nat} {s0 s : State} (h0 : Keeps F s0 s) (st : Nat) (restart : Bool) (hF : F &&& 0x800000000000040 = 0 := by exact mask_sub (by assumption) rfl) : ResKeeps F s0 (execRsAbandon st restart s) := by
  unfold execRsAbandon
  with_reducible repeat' first
    | (extract_lets +onlyGivenNames x; refine keeps_let (F := F) (s0 := s0) (x := x) (fun _ => ?_) ?_; rotate_left; subst x; rotate_left; clear_value x)
    | (extract_lets +onlyGivenNames x; clear_value x) | (intro _) | assumption | apply ResKeeps.next | apply keeps_i2cAbandon
    | apply keeps_inc | apply keeps_i2cEvent | apply keeps_setBit | split | exact mask_sub hF rfl

theorem keeps_execI2cReset {F : Nat} {s0 s : State} (h0 : Keeps F s0 s) (st : Nat) (req : Nat) (v : Nat) (hF : F &&& 0x800000000000050 = 0 := by exact mask_sub (by assumption) rfl) : ResKeeps F s0 (execI2cReset st req v s) := by
  unfold execI2cReset
  with_reducible repeat' first
    | (intro _) | assumption | apply ResKeeps.next | apply keeps_onKey | apply keeps_i2cStop | apply keeps_wrFld | split
    | exact mask_sub hF rfl

theorem keeps_setQspi {F : Nat} {s0 s : State} (h0 : Keeps F s0 s) (st : Nat) (v : QspiS) (hF : F &&& 0x2000000000000000 = 0 := by exact mask_sub (by assumption) rfl) : Keeps F s0 (State.setQspi s st v) := by
  unfold State.setQspi
  with_reducible repeat' first
    | (intro _) | assumption | apply keeps_mk_qspis | exact mask_sub hF rfl

theorem keeps_eraseFlash {F : Nat} {s0 s : State} (h0 : Keeps F s0 s) (st addr n : Nat) (hF : F &&& 0x200 = 0 := by exact mask_sub (by assumption) rfl) : Keeps F s0 (s.eraseFlash st addr n) :=
  h0.upd hF rfl rfl id (fun x => Tbl.wf_filter _ x) id
    (fun f => by cases f <;> first | exact fun _ => rfl | exact fun h => nomatch h)

theorem keeps_slotWrite {F : Nat} {s0 s : State} (h0 : Keeps F s0 s) (st : Nat) (n : Nat) (b : List Byte × List Byte) (hF : F &&& 0x200 = 0 := by exact mask_sub (by assumption) rfl) : Keeps F s0 (State.slotWrite s st n b) := by
  unfold State.slotWrite
  with_reducible repeat' first
    | assumption | apply keeps_eraseFlash | apply keeps_setBytes | exact mask_sub hF rfl

theorem keeps_storeGo {F : Nat} {s0 s : State} (h0 : Keeps F s0 s) (st : Nat) (hF : F &&& 0x400000000000200 = 0 := by exact mask_sub (by assumption) rfl) : Keeps F s0 (State.storeGo s st) := by
  unfold State.storeGo
  with_reducible repeat' first
    | assumption | apply keeps_slotWrite | split | apply keeps_mk_dict | exact mask_sub hF rfl | (refine keeps_of_pair (by assumption) ?_)

theorem keeps_qspiGo {F : Nat} {s0 s : State} (h0 : Keeps F s0 s) (st : Nat) (kind : Nat) (addr : Nat) (n : Nat) (odd : Bool) (data : List Byte) (hF : F &&& 0x2000000000000040 = 0 := by exact mask_sub (by assumption) rfl) : Keeps F s0 (State.qspiGo s st kind addr n odd data) := by
  unfold State.qspiGo
  with_reducible repeat' first
    | (intro _)
    | (extract_lets +onlyGivenNames x; refine keeps_let (F := F) (s0 := s0) (x := x) (fun _ => ?_) ?_; rotate_left; subst x; (try dsimp -zeta only); rotate_left; clear_value x)
    | (extract_lets +onlyGivenNames x; refine keeps_letF (F := F) (s0 := s0) (x := x) (fun hf => ?_) ?_; rotate_left; subst x; (try dsimp -zeta only); rotate_left; clear_value x)
    | (extract_lets +onlyGivenNames x; refine keeps_letF2 (F := F) (s0 := s0) (x := x) (fun hf => ?_) ?_; rotate_left; subst x; (try dsimp -zeta only); rotate_left; clear_value x)
    | (extract_lets +onlyGivenNames x; refine keeps_letN (F := F) (s0 := s0) (x := x) (fun hf => ?_) ?_; rotate_left; subst x; (try dsimp -zeta only); rotate_left; clear_value x)
    | (extract_lets +onlyGivenNames x; clear_value x) | assumption | apply keeps_wrFld | apply keeps_setBit | apply keeps_setQspi
    | apply hf | split | exact mask_sub hF rfl

theorem keeps_qspiCmd {F : Nat} {s0 s : State} (h0 : Keeps F s0 s) (st : Nat) (req : Nat) (v : Nat) (c : Nat) (f : State → State) (h_f : ∀ u, Keeps F s0 u → Keeps F s0 (f u)) (hF : F &&& 0x50 = 0 := by exact mask_sub (by assumption) rfl) : Keeps F s0 (State.qspiCmd s st req v c f) := by
  unfold State.qspiCmd
  with_reducible repeat' first
    | (intro _) | assumption | apply keeps_onKey | apply h_f | split | exact mask_sub hF rfl

theorem keeps_execFlashProgram {F : Nat} {s0 s : State} (h0 : Keeps F s0 s) (st : Nat) (req : Nat) (v : Nat) (hF : F &&& 0x2000000000000050 = 0 := by exact mask_sub (by assumption) rfl) : ResKeeps F s0 (execFlashProgram st req v s) := by
  unfold execFlashProgram
  with_reducible repeat' first
    | (intro _)
    | (extract_lets +onlyGivenNames x; refine keeps_let (F := F) (s0 := s0) (x := x) (fun _ => ?_) ?_; rotate_left; subst x; rotate_left; clear_value x)
    | (extract_lets +onlyGivenNames x; clear_value x) | assumption | apply ResKeeps.next | apply keeps_qspiCmd | apply keeps_qspiGo
    | exact mask_sub hF rfl

theorem keeps_execErase4k {F : Nat} {s0 s : State} (h0 : Keeps F s0 s) (st : Nat) (req : Nat) (v : Nat) (hF : F &&& 0x2000000000000050 = 0 := by exact mask_sub (by assumption) rfl) : ResKeeps F s0 (execErase4k st req v s) := by
  unfold execErase4k
  with_reducible repeat' first
    | (intro _)
    | (extract_lets +onlyGivenNames x; refine keeps_let (F := F) (s0 := s0) (x := x) (fun _ => ?_) ?_; rotate_left; subst x; rotate_left; clear_value x)
    | (extract_lets +onlyGivenNames x; clear_value x) | assumption | apply ResKeeps.next | apply keeps_qspiCmd | apply keeps_qspiGo
    | exact mask_sub hF rfl

theorem keeps_execErase64k {F : Nat} {s0 s : State} (h0 : Keeps F s0 s) (st : Nat) (req : Nat) (v : Nat) (hF : F &&& 0x2000000000000050 = 0 := by exact mask_sub (by assumption) rfl) : ResKeeps F s0 (execErase64k st req v s) := by
  unfold execErase64k
  with_reducible repeat' first
    | (intro _)
    | (extract_lets +onlyGivenNames x; refine keeps_let (F := F) (s0 := s0) (x := x) (fun _ => ?_) ?_; rotate_left; subst x; rotate_left; clear_value x)
    | (extract_lets +onlyGivenNames x; clear_value x) | assumption | apply ResKeeps.next | apply keeps_qspiCmd | apply keeps_qspiGo
    | exact mask_sub hF rfl

theorem keeps_execQspiDone {F : Nat} {s0 s : State} (h0 : Keeps F s0 s) (st : Nat) (ok : Bool) (hF : F &&& 0x2400000000000248 = 0 := by exact mask_sub (by assumption) rfl) : ResKeeps F s0 (execQspiDone st ok s) := by
  unfold execQspiDone
  with_reducible repeat' first
    | (intro _)
    | (extract_lets +onlyGivenNames x; refine keeps_let (F := F) (s0 := s0) (x := x) (fun _ => ?_) ?_; rotate_left; subst x; rotate_left; clear_value x)
    | (extract_lets +onlyGivenNames x; clear_value x) | assumption | apply ResKeeps.next | apply keeps_setQspi | apply keeps_setBytes
    | apply keeps_clrBit | apply keeps_skipFree | apply keeps_wrFld | apply keeps_setBit | apply keeps_storeGo | split
    | exact mask_sub hF rfl | (refine keeps_of_pair (by assumption) ?_)

theorem keeps_setIr {F : Nat} {s0 s : State} (h0 : Keeps F s0 s) (n : Nat) (hF : F &&& 0x40000000000000000 = 0 := by exact mask_sub (by assumption) rfl) : Keeps F s0 (State.setIr s n) := by
  unfold State.setIr
  with_reducible repeat' first
    | assumption | apply keeps_mk_jtag | exact mask_sub hF rfl

theorem keeps_execIdcode {F : Nat} {s0 s : State} (h0 : Keeps F s0 s) (hF : F &&& 0x40000000000000010 = 0 := by exact mask_sub (by assumption) rfl) : ResKeeps F s0 (execIdcode s) := by
  unfold execIdcode
  with_reducible repeat' first
    | assumption | apply ResKeeps.next | apply keeps_setIr | apply keeps_respond | exact mask_sub hF rfl

theorem keeps_execBypass {F : Nat} {s0 s : State} (h0 : Keeps F s0 s) (hF : F &&& 0x40000000000000010 = 0 := by exact mask_sub (by assumption) rfl) : ResKeeps F s0 (execBypass s) := by
  unfold execBypass
  with_reducible repeat' first
    | assumption | apply ResKeeps.next | apply keeps_setIr | apply keeps_respond | exact mask_sub hF rfl

theorem keeps_execSamplePreload {F : Nat} {s0 s : State} (h0 : Keeps F s0 s) (hF : F &&& 0x40000000000000018 = 0 := by exact mask_sub (by assumption) rfl) : ResKeeps F s0 (execSamplePreload s) := by
  unfold execSamplePreload
  with_reducible repeat' first
    | assumption | apply ResKeeps.next | apply keeps_setIr | apply keeps_respond | apply keeps_skipFree | exact mask_sub hF rfl

theorem keeps_updDbg {F : Nat} {s0 s : State} (h0 : Keeps F s0 s) (die : Nat) (f : DbgS → DbgS) (hF : F &&& 0x4000000000000000 = 0 := by exact mask_sub (by assumption) rfl) : Keeps F s0 (State.updDbg s die f) := by
  unfold State.updDbg
  with_reducible repeat' first
    | (intro _) | assumption | apply keeps_mk_dbgs | exact mask_sub hF rfl

theorem keeps_boundary {F : Nat} {s0 s : State} (h0 : Keeps F s0 s) (ir : Nat) (hF : F &&& 0x48c000990150dc068 = 0 := by exact mask_sub (by assumption) rfl) : Keeps F s0 (State.boundary s ir) := by
  unfold State.boundary
  with_reducible repeat' first
    | assumption | apply keeps_finalEnter | apply keeps_setIr | split | apply keeps_mk_jtag | exact mask_sub hF rfl

theorem keeps_execExtest {F : Nat} {s0 s : State} (h0 : Keeps F s0 s) (hF : F &&& 0x48c000990150dc068 = 0 := by exact mask_sub (by assumption) rfl) : ResKeeps F s0 (execExtest s) := by
  unfold execExtest
  with_reducible repeat' first
    | assumption | apply ResKeeps.next | apply keeps_boundary | exact mask_sub hF rfl

theorem keeps_execClampBalls {F : Nat} {s0 s : State} (h0 : Keeps F s0 s) (hF : F &&& 0x48c000990150dc068 = 0 := by exact mask_sub (by assumption) rfl) : ResKeeps F s0 (execClampBalls s) := by
  unfold execClampBalls
  with_reducible repeat' first
    | assumption | apply ResKeeps.next | apply keeps_boundary | exact mask_sub hF rfl

theorem keeps_execHighZ {F : Nat} {s0 s : State} (h0 : Keeps F s0 s) (hF : F &&& 0x48c000990150dc068 = 0 := by exact mask_sub (by assumption) rfl) : ResKeeps F s0 (execHighZ s) := by
  unfold execHighZ
  with_reducible repeat' first
    | assumption | apply ResKeeps.next | apply keeps_boundary | exact mask_sub hF rfl

theorem keeps_execDtmcs {F : Nat} {s0 s : State} (h0 : Keeps F s0 s) (hF : F &&& 0x40000000000000018 = 0 := by exact mask_sub (by assumption) rfl) : ResKeeps F s0 (execDtmcs s) := by
  unfold execDtmcs
  with_reducible repeat' first
    | assumption | apply ResKeeps.next | apply keeps_setIr | apply keeps_respond | apply keeps_skipFree | exact mask_sub hF rfl

theorem keeps_dbgStat {F : Nat} {s0 s : State} (h0 : Keeps F s0 s) (die : Nat) (hF : F &&& 0x40 = 0 := by exact mask_sub (by assumption) rfl) : Keeps F s0 (State.dbgStat s die) := by
  unfold State.dbgStat
  with_reducible repeat' first
    | (intro _)
    | (extract_lets +onlyGivenNames x; refine keeps_let (F := F) (s0 := s0) (x := x) (fun _ => ?_) ?_; rotate_left; subst x; rotate_left; clear_value x)
    | (extract_lets +onlyGivenNames x; clear_value x) | assumption | apply keeps_wrFld | apply keeps_putBit | split
    | exact mask_sub hF rfl

theorem keeps_dbgClose {F : Nat} {s0 s : State} (h0 : Keeps F s0 s) (die : Nat) (hF : F &&& 0x4000000000000040 = 0 := by exact mask_sub (by assumption) rfl) : Keeps F s0 (State.dbgClose s die) := by
  unfold State.dbgClose
  with_reducible repeat' first
    | (intro _) | assumption | apply keeps_updDbg | apply keeps_dbgStat | exact mask_sub hF rfl

theorem keeps_authRead {F : Nat} {s0 s : State} (h0 : Keeps F s0 s) (die : Nat) (hF : F &&& 0x4000000000000018 = 0 := by exact mask_sub (by assumption) rfl) : Keeps F s0 (State.authRead s die) := by
  unfold State.authRead
  with_reducible repeat' first
    | (intro _)
    | (extract_lets +onlyGivenNames x; refine keeps_let (F := F) (s0 := s0) (x := x) (fun _ => ?_) ?_; rotate_left; subst x; rotate_left; clear_value x)
    | (extract_lets +onlyGivenNames x; clear_value x) | assumption | apply keeps_respond | apply keeps_skipFree | apply keeps_updDbg
    | split | exact mask_sub hF rfl

theorem keeps_authWrite {F : Nat} {s0 s : State} (h0 : Keeps F s0 s) (die : Nat) (data : Nat) (hF : F &&& 0x4000000000000000 = 0 := by exact mask_sub (by assumption) rfl) : Keeps F s0 (State.authWrite s die data) := by
  unfold State.authWrite
  with_reducible repeat' first
    | (intro _)
    | (extract_lets +onlyGivenNames x; refine keeps_let (F := F) (s0 := s0) (x := x) (fun _ => ?_) ?_; rotate_left; subst x; rotate_left; clear_value x)
    | (extract_lets +onlyGivenNames x; clear_value x) | assumption | apply keeps_updDbg | split | exact mask_sub hF rfl

theorem keeps_execDmi {F : Nat} {s0 s : State} (h0 : Keeps F s0 s) (op : Nat) (addr : Nat) (data : Nat) (hF : F &&& 0x44000000000000058 = 0 := by exact mask_sub (by assumption) rfl) : ResKeeps F s0 (execDmi op addr data s) := by
  unfold execDmi
  with_reducible repeat' first
    | (extract_lets +onlyGivenNames x; refine keeps_let (F := F) (s0 := s0) (x := x) (fun _ => ?_) ?_; rotate_left; subst x; rotate_left; clear_value x)
    | (extract_lets +onlyGivenNames x; clear_value x) | (intro _) | assumption | apply ResKeeps.next | apply keeps_setIr
    | apply keeps_respond | apply keeps_authRead | apply keeps_authWrite | apply keeps_skipFree | apply keeps_dbgClose | split
    | exact mask_sub hF rfl | (refine keeps_of_pair (by assumption) ?_)

theorem keeps_execDieSel {F : Nat} {s0 s : State} (h0 : Keeps F s0 s) (v : Nat) (hF : F &&& 0x40000000000000000 = 0 := by exact mask_sub (by assumption) rfl) : ResKeeps F s0 (execDieSel v s) := by
  unfold execDieSel
  with_reducible repeat' first
    | assumption | apply ResKeeps.next | apply keeps_mk_jtag | exact mask_sub hF rfl

theorem keeps_authFail {F : Nat} {s0 s : State} (h0 : Keeps F s0 s) (die : Nat) (hF : F &&& 0x4000000000000040 = 0 := by exact mask_sub (by assumption) rfl) : Keeps F s0 (State.authFail s die) := by
  unfold State.authFail
  with_reducible repeat' first
    | (intro _)
    | (extract_lets +onlyGivenNames x; refine keeps_let (F := F) (s0 := s0) (x := x) (fun _ => ?_) ?_; rotate_left; subst x; rotate_left; clear_value x)
    | (extract_lets +onlyGivenNames x; clear_value x) | assumption | apply keeps_updDbg | apply keeps_wrFld | apply keeps_dbgStat | split
    | exact mask_sub hF rfl

theorem keeps_execDebugAuth {F : Nat} {s0 s : State} (h0 : Keeps F s0 s) (die : Nat) (level : Nat) (hF : F &&& 0x4000000000000040 = 0 := by exact mask_sub (by assumption) rfl) : ResKeeps F s0 (execDebugAuth die level s) := by
  unfold execDebugAuth
  with_reducible repeat' first
    | (intro _)
    | (extract_lets +onlyGivenNames x; refine keeps_let (F := F) (s0 := s0) (x := x) (fun _ => ?_) ?_; rotate_left; subst x; rotate_left; clear_value x)
    | (extract_lets +onlyGivenNames x; clear_value x) | assumption | apply ResKeeps.next | apply keeps_updDbg | apply keeps_dbgStat
    | apply keeps_authFail | split | exact mask_sub hF rfl | (refine keeps_of_pair (by assumption) ?_)

theorem keeps_execAuthLockoutExpire {F : Nat} {s0 s : State} (h0 : Keeps F s0 s) (die : Nat) (hF : F &&& 0x4000000000000040 = 0 := by exact mask_sub (by assumption) rfl) : ResKeeps F s0 (execAuthLockoutExpire die s) := by
  unfold execAuthLockoutExpire
  with_reducible repeat' first
    | (intro _) | assumption | apply ResKeeps.next | apply keeps_updDbg | apply keeps_dbgStat | split | exact mask_sub hF rfl
    | (refine keeps_of_pair (by assumption) ?_)

theorem keeps_execJtagTrst {F : Nat} {s0 s : State} (h0 : Keeps F s0 s) (hF : F &&& 0x44000000000000040 = 0 := by exact mask_sub (by assumption) rfl) : ResKeeps F s0 (execJtagTrst s) := by
  unfold execJtagTrst
  with_reducible repeat' first
    | (intro _) | assumption | apply ResKeeps.next | apply keeps_forEach | apply keeps_setIr | apply keeps_dbgClose
    | exact mask_sub hF rfl

theorem keeps_execDebugHalt {F : Nat} {s0 s : State} (h0 : Keeps F s0 s) (die : Nat) (hart : Nat) (hF : F &&& 0x4040000000000040 = 0 := by exact mask_sub (by assumption) rfl) : ResKeeps F s0 (execDebugHalt die hart s) := by
  unfold execDebugHalt
  with_reducible repeat' first
    | (intro _)
    | (extract_lets +onlyGivenNames x; refine keeps_let (F := F) (s0 := s0) (x := x) (fun _ => ?_) ?_; rotate_left; subst x; rotate_left; clear_value x)
    | (extract_lets +onlyGivenNames x; clear_value x) | assumption | apply ResKeeps.next | apply keeps_updDbg | apply keeps_dbgStat
    | split | apply keeps_mk_halted | exact mask_sub hF rfl

theorem keeps_execDebugResume {F : Nat} {s0 s : State} (h0 : Keeps F s0 s) (die : Nat) (hart : Nat) (hF : F &&& 0x4040000000000040 = 0 := by exact mask_sub (by assumption) rfl) : ResKeeps F s0 (execDebugResume die hart s) := by
  unfold execDebugResume
  with_reducible repeat' first
    | (intro _)
    | (extract_lets +onlyGivenNames x; refine keeps_let (F := F) (s0 := s0) (x := x) (fun _ => ?_) ?_; rotate_left; subst x; rotate_left; clear_value x)
    | (extract_lets +onlyGivenNames x; clear_value x) | assumption | apply ResKeeps.next | apply keeps_updDbg | apply keeps_dbgStat
    | split | apply keeps_mk_halted | exact mask_sub hF rfl

theorem keeps_execDebugStep {F : Nat} {s0 s : State} (h0 : Keeps F s0 s) (die : Nat) (hart : Nat) (hF : F &&& 0x40 = 0 := by exact mask_sub (by assumption) rfl) : ResKeeps F s0 (execDebugStep die hart s) := by
  unfold execDebugStep
  with_reducible repeat' first
    | assumption | apply ResKeeps.next | apply keeps_dbgStat | split | exact mask_sub hF rfl

theorem keeps_execDbgHaltLimit {F : Nat} {s0 s : State} (h0 : Keeps F s0 s) (st : Nat) (hF : F &&& 0x800000000000 = 0 := by exact mask_sub (by assumption) rfl) : ResKeeps F s0 (execDbgHaltLimit st s) := by
  unfold execDbgHaltLimit
  with_reducible repeat' first
    | (intro _)
    | (extract_lets +onlyGivenNames x; refine keeps_let (F := F) (s0 := s0) (x := x) (fun _ => ?_) ?_; rotate_left; subst x; rotate_left; clear_value x)
    | (extract_lets +onlyGivenNames x; clear_value x) | assumption | apply ResKeeps.next | split | apply keeps_mk_hbOn
    | exact mask_sub hF rfl | (refine keeps_of_pair (by assumption) ?_)

end Sys2Proof.Machine
end

