-- ==== Sys2Proof/Laws/KeepsIrq.lean ====
section
/-! SUPPORT. What the operations of Machine/Irq.lean keep (`Keeps`), one lemma each. -/
namespace Sys2Proof.Machine
set_option Elab.async false

theorem keeps_irqTake {F : Nat} {s0 s : State} (h0 : Keeps F s0 s) (st : Nat) (die : Nat) (n : Nat) (b : Bool) (hF : F &&& 0x100000000000000000 = 0 := by exact mask_sub (by assumption) rfl) : Keeps F s0 (State.irqTake s st die n b) := by
  unfold State.irqTake
  with_reducible repeat' first
    | (intro _)
    | (extract_lets +onlyGivenNames x; refine keeps_let (F := F) (s0 := s0) (x := x) (fun _ => ?_) ?_; rotate_left; subst x; rotate_left; clear_value x)
    | (extract_lets +onlyGivenNames x; clear_value x) | assumption | split | apply keeps_mk_irqCopy | exact mask_sub hF rfl

theorem keeps_irqSnap {F : Nat} {s0 s : State} (h0 : Keeps F s0 s) (die : Nat) (st : Nat) (hF : F &&& 0x100000000000000000 = 0 := by exact mask_sub (by assumption) rfl) : Keeps F s0 (State.irqSnap s die st) := by
  unfold State.irqSnap
  with_reducible repeat' first
    | (intro _) | assumption | apply keeps_forEach | apply keeps_irqTake | split | exact mask_sub hF rfl

theorem keeps_execIrqLevelChange {F : Nat} {s0 s : State} (h0 : Keeps F s0 s) (die : Nat) (n : Nat) (hF : F &&& 0x180000000000000000 = 0 := by exact mask_sub (by assumption) rfl) : ResKeeps F s0 (execIrqLevelChange die n s) := by
  unfold execIrqLevelChange
  with_reducible repeat' first
    | (intro _)
    | (extract_lets +onlyGivenNames x; refine keeps_let (F := F) (s0 := s0) (x := x) (fun _ => ?_) ?_; rotate_left; subst x; rotate_left; clear_value x)
    | (extract_lets +onlyGivenNames x; clear_value x) | assumption | apply ResKeeps.next | apply keeps_forEach | apply keeps_irqTake
    | split | apply keeps_mk_irqSent | exact mask_sub hF rfl

theorem keeps_execSidebandUp {F : Nat} {s0 s : State} (h0 : Keeps F s0 s) (die : Nat) (m : Nat) (hF : F &&& 0x100000000000000040 = 0 := by exact mask_sub (by assumption) rfl) : ResKeeps F s0 (execSidebandUp die m s) := by
  unfold execSidebandUp
  with_reducible repeat' first
    | (extract_lets +onlyGivenNames x; refine keeps_let (F := F) (s0 := s0) (x := x) (fun _ => ?_) ?_; rotate_left; subst x; rotate_left; clear_value x)
    | (extract_lets +onlyGivenNames x; clear_value x) | (intro _) | assumption | apply ResKeeps.next | apply keeps_setBit
    | apply keeps_irqSnap | split | exact mask_sub hF rfl

theorem keeps_execSnapSa {F : Nat} {s0 s : State} (h0 : Keeps F s0 s) (die : Nat) (req : Nat) (v : Nat) (hF : F &&& 0x100000000000000050 = 0 := by exact mask_sub (by assumption) rfl) : ResKeeps F s0 (execSnapSa die req v s) := by
  unfold execSnapSa
  with_reducible repeat' first
    | (intro _) | assumption | apply ResKeeps.next | apply keeps_onKey | apply keeps_irqSnap | split | exact mask_sub hF rfl

theorem keeps_execSnapSb {F : Nat} {s0 s : State} (h0 : Keeps F s0 s) (die : Nat) (req : Nat) (v : Nat) (hF : F &&& 0x100000000000000050 = 0 := by exact mask_sub (by assumption) rfl) : ResKeeps F s0 (execSnapSb die req v s) := by
  unfold execSnapSb
  with_reducible repeat' first
    | (intro _) | assumption | apply ResKeeps.next | apply keeps_onKey | apply keeps_irqSnap | split | exact mask_sub hF rfl

theorem keeps_swPut {F : Nat} {s0 s : State} (h0 : Keeps F s0 s) (die : Nat) (v : Nat) (b : Bool) (hF : F &&& 0x800000000000000000 = 0 := by exact mask_sub (by assumption) rfl) : Keeps F s0 (State.swPut s die v b) := by
  unfold State.swPut
  with_reducible repeat' first
    | (intro _) | assumption | apply keeps_forEach | apply keeps_mk_swLv | exact mask_sub hF rfl

theorem keeps_execSwSet {F : Nat} {s0 s : State} (h0 : Keeps F s0 s) (die : Nat) (req : Nat) (v : Nat) (hF : F &&& 0x800000000000000050 = 0 := by exact mask_sub (by assumption) rfl) : ResKeeps F s0 (execSwSet die req v s) := by
  unfold execSwSet
  with_reducible repeat' first
    | (intro _) | assumption | apply ResKeeps.next | apply keeps_onKey | apply keeps_swPut | exact mask_sub hF rfl

theorem keeps_execSwClr {F : Nat} {s0 s : State} (h0 : Keeps F s0 s) (die : Nat) (req : Nat) (v : Nat) (hF : F &&& 0x800000000000000050 = 0 := by exact mask_sub (by assumption) rfl) : ResKeeps F s0 (execSwClr die req v s) := by
  unfold execSwClr
  with_reducible repeat' first
    | (intro _) | assumption | apply ResKeeps.next | apply keeps_onKey | apply keeps_swPut | exact mask_sub hF rfl

theorem keeps_wdogServed {F : Nat} {s0 s : State} (h0 : Keeps F s0 s) (die : Nat) (n : Nat) (hF : F &&& 0x20000000000000 = 0 := by exact mask_sub (by assumption) rfl) : Keeps F s0 (State.wdogServed s die n) := by
  unfold State.wdogServed
  with_reducible repeat' first
    | (intro _) | assumption | split | apply keeps_mk_wdogs | exact mask_sub hF rfl

theorem keeps_execCtxClaim {F : Nat} {s0 s : State} (h0 : Keeps F s0 s) (st : Nat) (k : Nat) (req : Nat) (hF : F &&& 0x200000000000000050 = 0 := by exact mask_sub (by assumption) rfl) : ResKeeps F s0 (execCtxClaim st k req s) := by
  unfold execCtxClaim
  with_reducible repeat' first
    | (intro _) | assumption | apply ResKeeps.next | apply keeps_onKey | apply keeps_respond | split | apply keeps_mk_resp_irqClaims
    | exact mask_sub hF rfl | (refine keeps_of_pair (by assumption) ?_)

theorem keeps_execCtxComplete {F : Nat} {s0 s : State} (h0 : Keeps F s0 s) (st : Nat) (k : Nat) (req : Nat) (v : Nat) (hF : F &&& 0x200020000000000050 = 0 := by exact mask_sub (by assumption) rfl) : ResKeeps F s0 (execCtxComplete st k req v s) := by
  unfold execCtxComplete
  with_reducible repeat' first
    | (intro _)
    | (extract_lets +onlyGivenNames x; refine keeps_let (F := F) (s0 := s0) (x := x) (fun _ => ?_) ?_; rotate_left; subst x; rotate_left; clear_value x)
    | (extract_lets +onlyGivenNames x; clear_value x) | assumption | apply ResKeeps.next | apply keeps_onKey | apply keeps_wdogServed
    | split | apply keeps_mk_irqClaims | exact mask_sub hF rfl

theorem keeps_execKpClaim {F : Nat} {s0 s : State} (h0 : Keeps F s0 s) (die : Nat) (core : Nat) (req : Nat) (hF : F &&& 0x400000000000000050 = 0 := by exact mask_sub (by assumption) rfl) : ResKeeps F s0 (execKpClaim die core req s) := by
  unfold execKpClaim
  with_reducible repeat' first
    | (intro _) | assumption | apply ResKeeps.next | apply keeps_onKey | apply keeps_respond | split | apply keeps_mk_resp_kpClaims
    | exact mask_sub hF rfl | (refine keeps_of_pair (by assumption) ?_)

theorem keeps_execKpComplete {F : Nat} {s0 s : State} (h0 : Keeps F s0 s) (die : Nat) (core : Nat) (req : Nat) (v : Nat) (hF : F &&& 0x400020000000000050 = 0 := by exact mask_sub (by assumption) rfl) : ResKeeps F s0 (execKpComplete die core req v s) := by
  unfold execKpComplete
  with_reducible repeat' first
    | (intro _)
    | (extract_lets +onlyGivenNames x; refine keeps_let (F := F) (s0 := s0) (x := x) (fun _ => ?_) ?_; rotate_left; subst x; rotate_left; clear_value x)
    | (extract_lets +onlyGivenNames x; clear_value x) | assumption | apply ResKeeps.next | apply keeps_onKey | apply keeps_wdogServed
    | split | apply keeps_mk_kpClaims | exact mask_sub hF rfl

end Sys2Proof.Machine
end

