-- ==== Sys2Proof/Laws/KeepsAccess.lean ====
section
/-! SUPPORT. What the operations of Machine/Access.lean keep (`Keeps`), one lemma each. -/
namespace Sys2Proof.Machine
set_option Elab.async false

theorem keeps_run {F : Nat} {s0 s : State} (h0 : Keeps F s0 s) (f : State → Res) (hf : ∀ u, Keeps F s0 u → ResKeeps F s0 (f u)) : Keeps F s0 (s.run f) := by
  have h := hf s h0
  unfold State.run
  split
  · rename_i e; rw [e] at h; exact h
  · exact h0

theorem keeps_runs {F : Nat} {s0 : State} : ∀ (l : List (State → Res)) {s : State}, Keeps F s0 s → (∀ f ∈ l, ∀ u, Keeps F s0 u → ResKeeps F s0 (f u)) →
    Keeps F s0 (s.runs l)
  | [], _, h, _ => h
  | f :: l, s, h, hl => keeps_runs l (keeps_run h f (hl f (List.mem_cons_self ..))) (fun g hg => hl g (List.mem_cons_of_mem _ hg))

theorem keeps_runs_cons {F : Nat} {s0 s : State} {f : State → Res} {l : List (State → Res)} (h : Keeps F s0 ((s.run f).runs l)) :
    Keeps F s0 (s.runs (f :: l)) := h

theorem keeps_runs_nil {F : Nat} {s0 s : State} (h : Keeps F s0 s) : Keeps F s0 (s.runs []) := h

theorem ite_some {α : Type} {c : Prop} [Decidable c] {a b : Option α} {l : α} (e : (if c then a else b) = some l) :
    a = some l ∨ b = some l := by
  by_cases h : c
  · exact .inl (by rwa [if_pos h] at e)
  · exact .inr (by rwa [if_neg h] at e)

theorem keeps_readCmd {F : Nat} {s0 : State} {key req : Nat} {f : State → Res} (e : readCmd key req = some f) (hF : F &&& 0x600000000000080150 = 0 := by exact mask_sub (by assumption) rfl) : ∀ u, Keeps F s0 u → ResKeeps F s0 (f u) := by
  unfold readCmd at e
  dsimp only at e
  repeat' (with_reducible refine Or.elim (ite_some e) ?_ ?_ <;> clear e <;> intro e)
  all_goals first
    | (cases e; done)
    | (cases e; intro u hu
       first
       | with_reducible exact keeps_execRxPop hu _ _
       | with_reducible exact keeps_execRxStatRead hu _ _
       | with_reducible exact keeps_execFsTimeRead hu _ _
       | with_reducible exact keeps_execRingTotalRead hu _ _ _ _
       | with_reducible exact keeps_execAxisCountRead hu _ _
       | with_reducible exact keeps_execNowRead hu _ _
       | with_reducible exact keeps_execKpClaim hu _ _ _
       | with_reducible exact keeps_execPpscapRead hu _ _
       | with_reducible exact keeps_execCtxClaim hu _ _ _)

theorem keeps_readClear {F : Nat} {s0 s : State} (h0 : Keeps F s0 s) (key : Nat) (rc : Nat) (hF : F &&& 0x1040 = 0 := by exact mask_sub (by assumption) rfl) : Keeps F s0 (State.readClear s key rc) := by
  unfold State.readClear
  with_reducible repeat' first
    | (extract_lets +onlyGivenNames x; refine keeps_let (F := F) (s0 := s0) (x := x) (fun _ => ?_) ?_; rotate_left; subst x; rotate_left; clear_value x)
    | (extract_lets +onlyGivenNames x; clear_value x) | (intro _) | assumption | apply keeps_wr | apply keeps_wrFld | apply keeps_noteSynt
    | split | exact mask_sub hF rfl

theorem keeps_readReg {F : Nat} {s0 s : State} (h0 : Keeps F s0 s) (key : Nat) (req : Nat) (hF : F &&& 0x600000000000081150 = 0 := by exact mask_sub (by assumption) rfl) : Keeps F s0 (State.readReg s key req).1 := by
  unfold State.readReg
  with_reducible repeat' first
    | (extract_lets +onlyGivenNames x; refine keeps_let (F := F) (s0 := s0) (x := x) (fun _ => ?_) ?_; rotate_left; subst x; rotate_left; clear_value x)
    | (extract_lets +onlyGivenNames x; clear_value x) | (intro _) | assumption
    | (refine keeps_readCmd (by assumption) (mask_sub hF rfl) _ ?_) | apply keeps_run | apply keeps_latch | apply keeps_readClear | split
    | apply keeps_mk_resp | exact mask_sub hF rfl | (refine keeps_of_pair (by assumption) ?_)

theorem keeps_storeReg {F : Nat} {s0 s : State} (h0 : Keeps F s0 s) (key : Nat) (r : RegRow) (locked : Bool) (v : Nat) (hF : F &&& 0x40 = 0 := by exact mask_sub (by assumption) rfl) : Keeps F s0 (State.storeReg s key r locked v) := by
  unfold State.storeReg
  with_reducible repeat' first
    | (extract_lets +onlyGivenNames x; refine keeps_let (F := F) (s0 := s0) (x := x) (fun _ => ?_) ?_; rotate_left; subst x; rotate_left; clear_value x)
    | (extract_lets +onlyGivenNames x; clear_value x) | (intro _) | assumption | apply keeps_wr | split | exact mask_sub hF rfl

theorem keeps_rangeStop {F : Nat} {s0 s t : State} {key req v : Nat} (e : s.rangeStop key req v = some t) (h0 : Keeps F s0 s) (hF : F &&& 0x40 = 0 := by exact mask_sub (by assumption) rfl) : Keeps F s0 t := by
  unfold State.rangeStop at e
  dsimp only at e
  repeat' split at e
  all_goals first
    | (cases e; done)
    | (cases e
       first
       | exact keeps_logErr h0 _ _ _ _ _ _ _
       | exact keeps_setBit h0 _ _
       | exact keeps_chEvent h0 _ _ _ _)

theorem keeps_writeRing {F : Nat} {s0 s : State} (h0 : Keeps F s0 s) (st : Nat) (k : Nat) (r : Nat) (row : RegRow) (v : Nat) (hF : F &&& 0xc0000040 = 0 := by exact mask_sub (by assumption) rfl) : Keeps F s0 (State.writeRing s st k r row v) := by
  unfold State.writeRing
  with_reducible repeat' first
    | (intro _)
    | (extract_lets +onlyGivenNames x; refine keeps_let (F := F) (s0 := s0) (x := x) (fun _ => ?_) ?_; rotate_left; subst x; rotate_left; clear_value x)
    | (extract_lets +onlyGivenNames x; clear_value x) | assumption | apply keeps_updEp | apply keeps_storeReg | apply keeps_epEvent
    | apply keeps_setLedger | split | exact mask_sub hF rfl

theorem keeps_writePlain {F : Nat} {s0 s : State} (h0 : Keeps F s0 s) (key : Nat) (req : Nat) (row : RegRow) (v : Nat) (hF : F &&& 0x100080d0081040 = 0 := by exact mask_sub (by assumption) rfl) : Keeps F s0 (State.writePlain s key req row v) := by
  unfold State.writePlain
  with_reducible repeat' first
    | (intro _)
    | (extract_lets +onlyGivenNames x; refine keeps_let (F := F) (s0 := s0) (x := x) (fun _ => ?_) ?_; rotate_left; subst x; rotate_left; clear_value x)
    | (extract_lets +onlyGivenNames x; clear_value x) | assumption | (refine keeps_rangeStop (by assumption) ?_) | apply keeps_storeReg
    | apply keeps_setTm | apply keeps_sourceChanged | apply keeps_wrFld | apply keeps_writeRing | apply keeps_forEach | apply keeps_setPwr
    | apply keeps_scrubStart | apply keeps_setBits | apply keeps_jnEvent | apply keeps_setJn | apply keeps_clrBit | apply keeps_settleAcc
    | split | exact mask_sub hF rfl | (refine keeps_of_pair (by assumption) ?_)

theorem keeps_cmdLp {F : Nat} {s0 : State} {p r req v : Nat} {l : List (State → Res)} (e : cmdLp p r req v = some l) (hF : F &&& 0x4000000000c00f8 = 0 := by exact mask_sub (by assumption) rfl) : ∀ f ∈ l, ∀ u, Keeps F s0 u → ResKeeps F s0 (f u) := by
  unfold cmdLp at e
  try dsimp only at e
  repeat' (with_reducible refine Or.elim (ite_some e) ?_ ?_ <;> clear e <;> intro e)
  all_goals first
    | (cases e; done)
    | (cases e
       intro f hf u hu
       repeat' first
        | with_reducible exact keeps_cmdMod (mask_sub hF rfl) f hf u hu
        | subst hf
        | (cases hf; done)
        | simp only [List.mem_append, List.mem_cons, List.not_mem_nil, or_false] at hf
        | (rcases hf with hf | hf)
        | split at hf
        | with_reducible assumption
        | with_reducible apply ResKeeps.next
        | with_reducible apply keeps_execLpCommit
        | with_reducible apply keeps_execLpPortReset
        | with_reducible apply keeps_execLpFaultClear
        | with_reducible apply keeps_execLpFullRetrain
        | with_reducible apply keeps_execLpRetrain
        | with_reducible apply keeps_execEsStop
        | with_reducible apply keeps_execEsStart
        | with_reducible apply keeps_execTxGo
        | exact mask_sub hF rfl
        | split
        | dsimp -zeta only)

theorem keeps_cmdPl {F : Nat} {s0 : State} {n r req v : Nat} {l : List (State → Res)} (e : cmdPl n r req v = some l) (hF : F &&& 0x40000000427c0f8 = 0 := by exact mask_sub (by assumption) rfl) : ∀ f ∈ l, ∀ u, Keeps F s0 u → ResKeeps F s0 (f u) := by
  unfold cmdPl at e
  try dsimp only at e
  repeat' (with_reducible refine Or.elim (ite_some e) ?_ ?_ <;> clear e <;> intro e)
  all_goals first
    | (cases e; done)
    | (cases e
       intro f hf u hu
       repeat' first
        | with_reducible exact keeps_cmdMod (mask_sub hF rfl) f hf u hu
        | subst hf
        | (cases hf; done)
        | simp only [List.mem_append, List.mem_cons, List.not_mem_nil, or_false] at hf
        | (rcases hf with hf | hf)
        | split at hf
        | with_reducible assumption
        | with_reducible apply ResKeeps.next
        | with_reducible apply keeps_execPlCommit
        | with_reducible apply keeps_execPaFlush
        | with_reducible apply keeps_execPaCtlWrite
        | with_reducible apply keeps_execPlReset
        | with_reducible apply keeps_execMapWrite
        | exact mask_sub hF rfl
        | split
        | dsimp -zeta only)

theorem keeps_cmdBg {F : Nat} {s0 : State} {die e r req v : Nat} {l : List (State → Res)} (e : cmdBg die e r req v = some l) (hF : F &&& 0x10000050 = 0 := by exact mask_sub (by assumption) rfl) : ∀ f ∈ l, ∀ u, Keeps F s0 u → ResKeeps F s0 (f u) := by
  unfold cmdBg at e
  try dsimp only at e
  repeat' (with_reducible refine Or.elim (ite_some e) ?_ ?_ <;> clear e <;> intro e)
  all_goals first
    | (cases e; done)
    | (cases e
       intro f hf u hu
       repeat' first
        | with_reducible exact keeps_cmdMod (mask_sub hF rfl) f hf u hu
        | subst hf
        | (cases hf; done)
        | simp only [List.mem_append, List.mem_cons, List.not_mem_nil, or_false] at hf
        | (rcases hf with hf | hf)
        | split at hf
        | with_reducible assumption
        | with_reducible apply ResKeeps.next
        | with_reducible apply keeps_execAbortAllQuiet
        | with_reducible apply keeps_execAbortAll
        | with_reducible apply keeps_execChAbortQuiet
        | with_reducible apply keeps_execChAbort
        | with_reducible apply keeps_execChResume
        | with_reducible apply keeps_execChStart
        | with_reducible apply keeps_execChReset
        | with_reducible apply keeps_execChCfgWrite
        | with_reducible apply keeps_execRingAdd
        | with_reducible apply keeps_execRingLogWrite
        | exact mask_sub hF rfl
        | split
        | dsimp -zeta only)

theorem keeps_cmdTb {F : Nat} {s0 : State} {die x req v : Nat} {l : List (State → Res)} (e : cmdTb die x req v = some l) (hF : F &&& 0x400000000c03078 = 0 := by exact mask_sub (by assumption) rfl) : ∀ f ∈ l, ∀ u, Keeps F s0 u → ResKeeps F s0 (f u) := by
  unfold cmdTb at e
  try dsimp only at e
  repeat' (with_reducible refine Or.elim (ite_some e) ?_ ?_ <;> clear e <;> intro e)
  all_goals first
    | (cases e; done)
    | (cases e
       intro f hf u hu
       repeat' first
        | with_reducible exact keeps_cmdMod (mask_sub hF rfl) f hf u hu
        | subst hf
        | (cases hf; done)
        | simp only [List.mem_append, List.mem_cons, List.not_mem_nil, or_false] at hf
        | (rcases hf with hf | hf)
        | split at hf
        | with_reducible assumption
        | with_reducible apply ResKeeps.next
        | with_reducible apply keeps_execTbSet
        | with_reducible apply keeps_execTbSlew
        | with_reducible apply keeps_execTbRate
        | with_reducible apply keeps_execTbCancel
        | with_reducible apply keeps_execAlarmCommit
        | with_reducible apply keeps_execSchedCommit
        | with_reducible apply keeps_execSchedCancel
        | with_reducible apply keeps_execExpLenWrite
        | with_reducible apply keeps_execLeadWrite
        | exact mask_sub hF rfl
        | split
        | dsimp -zeta only)

theorem keeps_cmdBs {F : Nat} {s0 : State} {die o v : Nat} {l : List (State → Res)} (e : cmdBs die o v = some l) (hF : F &&& 0x44040 = 0 := by exact mask_sub (by assumption) rfl) : ∀ f ∈ l, ∀ u, Keeps F s0 u → ResKeeps F s0 (f u) := by
  unfold cmdBs at e
  try dsimp only at e
  repeat' (with_reducible refine Or.elim (ite_some e) ?_ ?_ <;> clear e <;> intro e)
  all_goals first
    | (cases e; done)
    | (cases e
       intro f hf u hu
       repeat' first
        | with_reducible exact keeps_cmdMod (mask_sub hF rfl) f hf u hu
        | subst hf
        | (cases hf; done)
        | simp only [List.mem_append, List.mem_cons, List.not_mem_nil, or_false] at hf
        | (rcases hf with hf | hf)
        | split at hf
        | with_reducible assumption
        | with_reducible apply ResKeeps.next
        | with_reducible apply keeps_execReplaySa
        | with_reducible apply keeps_execReplaySb
        | with_reducible apply keeps_execQAck
        | with_reducible apply keeps_execQReplay
        | with_reducible apply keeps_execQFlush
        | exact mask_sub hF rfl
        | split
        | dsimp -zeta only)

theorem keeps_cmdEf {F : Nat} {s0 : State} {die x req v : Nat} {l : List (State → Res)} (e : cmdEf die x req v = some l) (hF : F &&& 0x40050 = 0 := by exact mask_sub (by assumption) rfl) : ∀ f ∈ l, ∀ u, Keeps F s0 u → ResKeeps F s0 (f u) := by
  unfold cmdEf at e
  try dsimp only at e
  repeat' (with_reducible refine Or.elim (ite_some e) ?_ ?_ <;> clear e <;> intro e)
  all_goals first
    | (cases e; done)
    | (cases e
       intro f hf u hu
       repeat' first
        | with_reducible exact keeps_cmdMod (mask_sub hF rfl) f hf u hu
        | subst hf
        | (cases hf; done)
        | simp only [List.mem_append, List.mem_cons, List.not_mem_nil, or_false] at hf
        | (rcases hf with hf | hf)
        | split at hf
        | with_reducible assumption
        | with_reducible apply ResKeeps.next
        | with_reducible apply keeps_execEfCommit
        | with_reducible apply keeps_execSwPulse
        | with_reducible apply keeps_execCellClr
        | with_reducible apply keeps_execEfShadowWrite
        | exact mask_sub hF rfl
        | split
        | dsimp -zeta only)

theorem keeps_cmdAx {F : Nat} {s0 : State} {a r req v : Nat} {l : List (State → Res)} (e : cmdAx a r req v = some l) (hF : F &&& 0x4000010000400d0 = 0 := by exact mask_sub (by assumption) rfl) : ∀ f ∈ l, ∀ u, Keeps F s0 u → ResKeeps F s0 (f u) := by
  unfold cmdAx at e
  try dsimp only at e
  repeat' (with_reducible refine Or.elim (ite_some e) ?_ ?_ <;> clear e <;> intro e)
  all_goals first
    | (cases e; done)
    | (cases e
       intro f hf u hu
       repeat' first
        | with_reducible exact keeps_cmdMod (mask_sub hF rfl) f hf u hu
        | subst hf
        | (cases hf; done)
        | simp only [List.mem_append, List.mem_cons, List.not_mem_nil, or_false] at hf
        | (rcases hf with hf | hf)
        | split at hf
        | with_reducible assumption
        | with_reducible apply ResKeeps.next
        | with_reducible apply keeps_execAxCommit
        | with_reducible apply keeps_execClrCount
        | with_reducible apply keeps_execAxRef
        | with_reducible apply keeps_execArmHome
        | exact mask_sub hF rfl
        | split
        | dsimp -zeta only)

theorem keeps_cmdSm {F : Nat} {s0 : State} {die x req v : Nat} {l : List (State → Res)} (e : cmdSm die x req v = some l) (hF : F &&& 0x50 = 0 := by exact mask_sub (by assumption) rfl) : ∀ f ∈ l, ∀ u, Keeps F s0 u → ResKeeps F s0 (f u) := by
  unfold cmdSm at e
  try dsimp only at e
  repeat' (with_reducible refine Or.elim (ite_some e) ?_ ?_ <;> clear e <;> intro e)
  all_goals first
    | (cases e; done)
    | (cases e
       intro f hf u hu
       repeat' first
        | with_reducible exact keeps_cmdMod (mask_sub hF rfl) f hf u hu
        | subst hf
        | (cases hf; done)
        | simp only [List.mem_append, List.mem_cons, List.not_mem_nil, or_false] at hf
        | (rcases hf with hf | hf)
        | split at hf
        | with_reducible assumption
        | with_reducible apply ResKeeps.next
        | with_reducible apply keeps_execSemRel
        | with_reducible apply keeps_execSemAcq
        | with_reducible apply keeps_execSemForceAll
        | with_reducible apply keeps_execSemForceOwner
        | exact mask_sub hF rfl
        | split
        | dsimp -zeta only)

theorem keeps_cmdMod {F : Nat} {s0 : State} {die m req v : Nat} (hF : F &&& 0x100d86f38dfc0dd478 = 0) : ∀ f ∈ cmdMod die m req v, ∀ u, Keeps F s0 u → ResKeeps F s0 (f u) := by
  intro f hf u hu
  simp only [cmdMod, List.mem_singleton] at hf
  subst hf
  dsimp -zeta only
  split
  · exact keeps_execModCmdDown hu _ _ _ _
  · exact keeps_execModCmdUp hu _ _ _ _
  · exact keeps_execModCmdRetrain hu _ _ _ _
  · exact hu

theorem keeps_cmdConc {F : Nat} {s0 : State} {die o req v : Nat} {l : List (State → Res)} (e : cmdConc die o req v = some l) (hF : F &&& 0xd00da6f39dfcfff4f8 = 0 := by exact mask_sub (by assumption) rfl) : ∀ f ∈ l, ∀ u, Keeps F s0 u → ResKeeps F s0 (f u) := by
  unfold cmdConc at e
  try dsimp only at e
  repeat' (with_reducible refine Or.elim (ite_some e) ?_ ?_ <;> clear e <;> intro e)
  all_goals first
    | with_reducible exact keeps_cmdBs e
    | with_reducible exact keeps_cmdLp e
    | with_reducible exact keeps_cmdPl e
    | with_reducible exact keeps_cmdBg e
    | with_reducible exact keeps_cmdEf e
    | with_reducible exact keeps_cmdAx e
    | with_reducible exact keeps_cmdTb e
    | with_reducible exact keeps_cmdSm e
    | (cases e; done)
    | (cases e
       intro f hf u hu
       repeat' first
        | with_reducible exact keeps_cmdMod (mask_sub hF rfl) f hf u hu
        | subst hf
        | (cases hf; done)
        | simp only [List.mem_append, List.mem_cons, List.not_mem_nil, or_false] at hf
        | (rcases hf with hf | hf)
        | split at hf
        | with_reducible assumption
        | with_reducible apply ResKeeps.next
        | with_reducible apply keeps_execSiCommit
        | with_reducible apply keeps_execCkStart
        | with_reducible apply keeps_execCkStop
        | with_reducible apply keeps_execSwSet
        | with_reducible apply keeps_execSwClr
        | with_reducible apply keeps_execSnapSa
        | with_reducible apply keeps_execSnapSb
        | with_reducible apply keeps_execKpComplete
        | exact mask_sub hF rfl
        | split
        | dsimp -zeta only)

theorem keeps_cmdSt {F : Nat} {s0 : State} {st o req v : Nat} {l : List (State → Res)} (e : cmdSt st o req v = some l) (hF : F &&& 0xb02da6f38dfccff6f8 = 0 := by exact mask_sub (by assumption) rfl) : ∀ f ∈ l, ∀ u, Keeps F s0 u → ResKeeps F s0 (f u) := by
  unfold cmdSt at e
  try dsimp only at e
  repeat' (with_reducible refine Or.elim (ite_some e) ?_ ?_ <;> clear e <;> intro e)
  all_goals first
    | with_reducible exact keeps_cmdSm e
    | with_reducible exact keeps_cmdTb e
    | (cases e; done)
    | (cases e
       intro f hf u hu
       repeat' first
        | with_reducible exact keeps_cmdMod (mask_sub hF rfl) f hf u hu
        | subst hf
        | (cases hf; done)
        | simp only [List.mem_append, List.mem_cons, List.not_mem_nil, or_false] at hf
        | (rcases hf with hf | hf)
        | split at hf
        | with_reducible assumption
        | with_reducible apply ResKeeps.next
        | with_reducible apply keeps_execSwSet
        | with_reducible apply keeps_execSwClr
        | with_reducible apply keeps_execCtxComplete
        | with_reducible apply keeps_execCkStart
        | with_reducible apply keeps_execCkStop
        | with_reducible apply keeps_execPfMarkWrite
        | with_reducible apply keeps_execPfFlush
        | with_reducible apply keeps_execCommitNow
        | with_reducible apply keeps_execDetach
        | with_reducible apply keeps_execAttach
        | with_reducible apply keeps_execInitDrive
        | with_reducible apply keeps_execRescan
        | with_reducible apply keeps_execTestNow
        | with_reducible apply keeps_execHuCommit
        | with_reducible apply keeps_execEpDrain
        | with_reducible apply keeps_execDbShadowWrite
        | with_reducible apply keeps_execRecover
        | with_reducible apply keeps_execI2cReset
        | with_reducible apply keeps_execFlashProgram
        | with_reducible apply keeps_execErase4k
        | with_reducible apply keeps_execErase64k
        | exact mask_sub hF rfl
        | split
        | dsimp -zeta only)

theorem keeps_writeReg {F : Nat} {s0 s : State} (h0 : Keeps F s0 s) (key req v : Nat) (hF : F &&& 0xf02db6f39dfcfff6f8 = 0 := by exact mask_sub (by assumption) rfl) : Keeps F s0 (s.writeReg key req v) := by
  unfold State.writeReg
  extract_lets die o
  split
  · rename_i l e
    refine keeps_runs l h0 ?_
    split at e
    · exact keeps_cmdConc e
    · exact keeps_cmdSt e
  · split
    · split
      · exact h0
      · exact keeps_writePlain h0 _ _ _ _
    · exact h0

end Sys2Proof.Machine
end

