-- ==== Sys2Proof/Laws/KeepsDict.lean ====
section
/-! SUPPORT. What the operations of Machine/Dict.lean keep (`Keeps`), one lemma each. -/
namespace Sys2Proof.Machine
set_option Elab.async false

theorem keeps_markDirty {F : Nat} {s0 s : State} (h0 : Keeps F s0 s) (e : Nat × Nat) (die : Nat) (hF : F &&& 0x400000000000050 = 0 := by exact mask_sub (by assumption) rfl) : Keeps F s0 (State.markDirty s e die) := by
  unfold State.markDirty
  with_reducible repeat' first
    | (extract_lets +onlyGivenNames x; refine keeps_let (F := F) (s0 := s0) (x := x) (fun _ => ?_) ?_; rotate_left; subst x; rotate_left; clear_value x)
    | (extract_lets +onlyGivenNames x; clear_value x) | (intro _) | assumption | apply keeps_run | apply keeps_execSemAcq | split
    | apply keeps_mk_dict | exact mask_sub hF rfl

theorem keeps_putPart {F : Nat} {s0 s : State} (h0 : Keeps F s0 s) (p : RegPart) (v : Nat) (hF : F &&& 0xf02db6f39dfcfff6f8 = 0 := by exact mask_sub (by assumption) rfl) : Keeps F s0 (State.putPart s p v) := by
  unfold State.putPart
  with_reducible repeat' first
    | (extract_lets +onlyGivenNames x; refine keeps_let (F := F) (s0 := s0) (x := x) (fun _ => ?_) ?_; rotate_left; subst x; rotate_left; clear_value x)
    | (extract_lets +onlyGivenNames x; clear_value x) | (intro _) | assumption | apply keeps_markDirty | apply keeps_writeReg | split
    | exact mask_sub hF rfl | (refine keeps_of_pair (by assumption) ?_)

theorem keeps_putFields {F : Nat} {s0 : State} (hF : F &&& 0xf02db6f39dfcfff6f8 = 0) (off len : Nat) : ∀ (l : List (RegPart × Nat)) (n : Nat) {s : State}, Keeps F s0 s →
    Keeps F s0 (s.putFields off len n l)
  | [], _, _, h => h
  | (p, v) :: l, n, s, h => by
    unfold State.putFields
    apply keeps_putFields (mask_sub hF rfl) off len l
    split
    · exact keeps_putPart h _ _
    · exact h

theorem keeps_readFields {F : Nat} {s0 : State} (hF : F &&& 0x600000000000081150 = 0) : ∀ (l : List RegPart) {s : State}, Keeps F s0 s → Keeps F s0 (s.readFields l).1
  | [], _, h => h
  | p :: l, _, h => keeps_readFields (mask_sub hF rfl) l (keeps_readReg h _ _)

theorem keeps_readObj {F : Nat} {s0 s : State} (h0 : Keeps F s0 s) (port : Nat) (idx : Nat) (sub : Nat) (o : Obj) (hF : F &&& 0x600000000000081150 = 0 := by exact mask_sub (by assumption) rfl) : Keeps F s0 (State.readObj s port idx sub o).1 := by
  unfold State.readObj
  with_reducible repeat' first
    | (extract_lets +onlyGivenNames x; refine keeps_let (F := F) (s0 := s0) (x := x) (fun _ => ?_) ?_; rotate_left; subst x; rotate_left; clear_value x)
    | (extract_lets +onlyGivenNames x; clear_value x) | (intro _) | assumption | apply keeps_readReg | apply keeps_readFields | split
    | exact mask_sub hF rfl | (refine keeps_of_pair (by assumption) ?_)

theorem keeps_dictRead {F : Nat} {s0 s : State} (h0 : Keeps F s0 s) (port : Nat) (idx : Nat) (sub : Nat) (len : Nat) (off : Nat) (hF : F &&& 0x600000000000081150 = 0 := by exact mask_sub (by assumption) rfl) : Keeps F s0 (State.dictRead s port idx sub len off).1 := by
  unfold State.dictRead
  with_reducible repeat' first
    | (extract_lets +onlyGivenNames x; refine keeps_let (F := F) (s0 := s0) (x := x) (fun _ => ?_) ?_; rotate_left; subst x; rotate_left; clear_value x)
    | (extract_lets +onlyGivenNames x; refine keeps_let1 (F := F) (s0 := s0) (x := x) (fun _ => ?_) ?_; rotate_left; subst x; rotate_left; clear_value x)
    | (extract_lets +onlyGivenNames x; clear_value x) | (intro _) | assumption | apply keeps_readObj | split | exact mask_sub hF rfl
    | (refine keeps_of_pair (by assumption) ?_)

theorem keeps_noteBreach {F : Nat} {s0 s : State} (h0 : Keeps F s0 s) (act : Nat) (l : List (Nat × Nat)) (e : Nat × Nat) (hF : F &&& 0x40 = 0 := by exact mask_sub (by assumption) rfl) : Keeps F s0 (State.noteBreach s act l e) := by
  unfold State.noteBreach
  with_reducible repeat' first
    | (intro _)
    | (extract_lets +onlyGivenNames x; refine keeps_let (F := F) (s0 := s0) (x := x) (fun _ => ?_) ?_; rotate_left; subst x; (try dsimp -zeta only); rotate_left; clear_value x)
    | (extract_lets +onlyGivenNames x; refine keeps_letF (F := F) (s0 := s0) (x := x) (fun hf => ?_) ?_; rotate_left; subst x; (try dsimp -zeta only); rotate_left; clear_value x)
    | (extract_lets +onlyGivenNames x; refine keeps_letF2 (F := F) (s0 := s0) (x := x) (fun hf => ?_) ?_; rotate_left; subst x; (try dsimp -zeta only); rotate_left; clear_value x)
    | (extract_lets +onlyGivenNames x; refine keeps_letN (F := F) (s0 := s0) (x := x) (fun hf => ?_) ?_; rotate_left; subst x; (try dsimp -zeta only); rotate_left; clear_value x)
    | (extract_lets +onlyGivenNames x; clear_value x) | assumption | apply keeps_siRefuse | apply keeps_plRefuse | apply keeps_schLast
    | apply keeps_schReport | apply hf | split | exact mask_sub hF rfl | (refine keeps_of_pair (by assumption) ?_)

theorem keeps_reducedJudge {F : Nat} {s0 s : State} (h0 : Keeps F s0 s) (hF : F &&& 0x40000000405c068 = 0 := by exact mask_sub (by assumption) rfl) : Keeps F s0 (State.reducedJudge s) := by
  unfold State.reducedJudge
  with_reducible repeat' first
    | (intro _)
    | (extract_lets +onlyGivenNames x; refine keeps_let (F := F) (s0 := s0) (x := x) (fun _ => ?_) ?_; rotate_left; subst x; rotate_left; clear_value x)
    | (extract_lets +onlyGivenNames x; clear_value x) | assumption | apply keeps_clrBit | apply keeps_upAll | apply keeps_setBit | split
    | exact mask_sub hF rfl

theorem keeps_execCarrierMove {F : Nat} {s0 s : State} (h0 : Keeps F s0 s) (stream : Nat) (st : Nat) (hF : F &&& 0x4000000b405c068 = 0 := by exact mask_sub (by assumption) rfl) : ResKeeps F s0 (execCarrierMove stream st s) := by
  unfold execCarrierMove
  with_reducible repeat' first
    | assumption | apply ResKeeps.next | apply keeps_moveQueue | apply keeps_reducedJudge | split | exact mask_sub hF rfl

theorem keeps_commitBlock {F : Nat} {s0 s : State} (h0 : Keeps F s0 s) (act : Nat) (e : Nat × Nat) (hF : F &&& 0x4000030b4bdd0f8 = 0 := by exact mask_sub (by assumption) rfl) : Keeps F s0 (State.commitBlock s act e).1 := by
  unfold State.commitBlock
  with_reducible repeat' first
    | (intro _)
    | (extract_lets +onlyGivenNames x; refine keeps_let (F := F) (s0 := s0) (x := x) (fun _ => ?_) ?_; rotate_left; subst x; rotate_left; clear_value x)
    | (extract_lets +onlyGivenNames x; clear_value x) | assumption | apply keeps_run | apply keeps_execTbSet | apply keeps_execTbSlew
    | apply keeps_execTbRate | apply keeps_undirty | apply keeps_execLpCommit | apply keeps_siCommitAll | apply keeps_wrFld
    | apply keeps_plTake | apply keeps_execAxCommit | apply keeps_execEfCommit | apply keeps_execEfCheckDone | apply keeps_forEach
    | apply keeps_moveQueue | apply keeps_reducedJudge | apply keeps_huCommit | apply keeps_schTake | apply keeps_execSchedCheckDone
    | split | exact mask_sub hF rfl | (refine keeps_of_pair (by assumption) ?_)

theorem keeps_commitBlocks {F : Nat} {s0 : State} (hF : F &&& 0x4000030b4bdd0f8 = 0) (act : Nat) : ∀ (l : List (Nat × Nat)) {s : State}, Keeps F s0 s → Keeps F s0 (s.commitBlocks act l).1
  | [], _, h => h
  | e :: l, s, h => by
    have hb := keeps_commitBlock h act e
    unfold State.commitBlocks
    split
    · rename_i q; rw [q] at hb; exact keeps_commitBlocks (mask_sub hF rfl) act l hb
    · rename_i q; rw [q] at hb; exact hb

theorem keeps_dictStat {F : Nat} {s0 s : State} (h0 : Keeps F s0 s) (sub : Nat) (st : Nat) (prof : Nat) (detail : Nat) (hF : F &&& 0x200000000000000 = 0 := by exact mask_sub (by assumption) rfl) : Keeps F s0 (State.dictStat s sub st prof detail) := by
  unfold State.dictStat
  with_reducible repeat' first
    | assumption | apply keeps_setObj | exact mask_sub hF rfl

theorem keeps_dropSems {F : Nat} {s0 s : State} (h0 : Keeps F s0 s) (hF : F &&& 0x50 = 0 := by exact mask_sub (by assumption) rfl) : Keeps F s0 (State.dropSems s) := by
  unfold State.dropSems
  with_reducible repeat' first
    | (intro _) | assumption | apply keeps_forEach | apply keeps_run | apply keeps_execSemRel | split | exact mask_sub hF rfl

theorem keeps_applySet {F : Nat} {s0 s : State} (h0 : Keeps F s0 s) (act : Nat) (prof : Nat) (note : Nat) (p : Nat × Nat → Bool) (hF : F &&& 0x6000030b4bdd0f8 = 0 := by exact mask_sub (by assumption) rfl) : Keeps F s0 (State.applySet s act prof note p).1 := by
  unfold State.applySet
  with_reducible repeat' first
    | (extract_lets +onlyGivenNames x; refine keeps_let (F := F) (s0 := s0) (x := x) (fun _ => ?_) ?_; rotate_left; subst x; rotate_left; clear_value x)
    | (extract_lets +onlyGivenNames x; clear_value x) | (intro _) | assumption | apply keeps_noteBreach | apply keeps_dictStat
    | apply keeps_skipFree | apply keeps_dropSems | apply keeps_commitBlocks | apply keeps_logErr | split | exact mask_sub hF rfl
    | (refine keeps_of_pair (by assumption) ?_)

theorem keeps_apply {F : Nat} {s0 s : State} (h0 : Keeps F s0 s) (hF : F &&& 0x6000030b4bdd0f8 = 0 := by exact mask_sub (by assumption) rfl) : Keeps F s0 (State.apply s).1 := by
  unfold State.apply
  with_reducible repeat' first
    | (intro _) | assumption | apply keeps_applySet | exact mask_sub hF rfl

theorem keeps_storeObj {F : Nat} {s0 s : State} (h0 : Keeps F s0 s) (port : Nat) (idx : Nat) (sub : Nat) (o : Obj) (off : Nat) (data : List Byte) (hF : F &&& 0xf02fb6f39dfcfff6f8 = 0 := by exact mask_sub (by assumption) rfl) : Keeps F s0 (State.storeObj s port idx sub o off data) := by
  unfold State.storeObj
  with_reducible repeat' first
    | (intro _)
    | (extract_lets +onlyGivenNames x; refine keeps_let (F := F) (s0 := s0) (x := x) (fun _ => ?_) ?_; rotate_left; subst x; rotate_left; clear_value x)
    | (extract_lets +onlyGivenNames x; clear_value x) | assumption | apply keeps_setObj | apply keeps_putFields | apply keeps_markDirty
    | apply keeps_wrFld | apply keeps_forEach | split | apply keeps_mk_dict | exact mask_sub hF rfl
    | (refine keeps_of_pair (by assumption) ?_)

theorem keeps_loadProfile {F : Nat} {s0 s : State} (h0 : Keeps F s0 s) (n : Nat) (hF : F &&& 0xf02fb6f39dfcfff6f8 = 0 := by exact mask_sub (by assumption) rfl) : Keeps F s0 (State.loadProfile s n).1 := by
  unfold State.loadProfile
  with_reducible repeat' first
    | (intro _)
    | (extract_lets +onlyGivenNames x; refine keeps_let (F := F) (s0 := s0) (x := x) (fun _ => ?_) ?_; rotate_left; subst x; rotate_left; clear_value x)
    | (extract_lets +onlyGivenNames x; refine keeps_let1 (F := F) (s0 := s0) (x := x) (fun _ => ?_) ?_; rotate_left; subst x; rotate_left; clear_value x)
    | (extract_lets +onlyGivenNames x; clear_value x) | (extract_lets +onlyGivenNames x; subst x) | assumption | apply keeps_forEach
    | apply keeps_storeObj | apply keeps_forEachP | split | exact mask_sub hF rfl | (refine keeps_of_pair (by assumption) ?_)

theorem keeps_tagPipes {F : Nat} {s0 s : State} (h0 : Keeps F s0 s) (flush : Bool) (hF : F &&& 0x200050 = 0 := by exact mask_sub (by assumption) rfl) : Keeps F s0 (State.tagPipes s flush) := by
  unfold State.tagPipes
  with_reducible repeat' first
    | (intro _)
    | (extract_lets +onlyGivenNames x; refine keeps_let (F := F) (s0 := s0) (x := x) (fun _ => ?_) ?_; rotate_left; subst x; rotate_left; clear_value x)
    | (extract_lets +onlyGivenNames x; clear_value x) | assumption | apply keeps_forEach | apply keeps_run | apply keeps_execPaFlush
    | apply keeps_wrN | split | exact mask_sub hF rfl | (refine keeps_of_pair (by assumption) ?_)

theorem keeps_switchEnd {F : Nat} {s0 s : State} (h0 : Keeps F s0 s) (n : Nat) (r : OpRes) (note : Nat) (hF : F &&& 0x200000020000040 = 0 := by exact mask_sub (by assumption) rfl) : Keeps F s0 (State.switchEnd s n r note) := by
  unfold State.switchEnd
  with_reducible repeat' first
    | assumption | apply keeps_setObj | apply keeps_dictStat | apply keeps_block | split | exact mask_sub hF rfl

theorem keeps_switchNow {F : Nat} {s0 s : State} (h0 : Keeps F s0 s) (n : Nat) (flush : Bool) (note : Nat) (hF : F &&& 0xf02fb6f3bdfcfff6f8 = 0 := by exact mask_sub (by assumption) rfl) : Keeps F s0 (State.switchNow s n flush note) := by
  unfold State.switchNow
  with_reducible repeat' first
    | (intro _)
    | (extract_lets +onlyGivenNames x; refine keeps_let (F := F) (s0 := s0) (x := x) (fun _ => ?_) ?_; rotate_left; subst x; rotate_left; clear_value x)
    | (extract_lets +onlyGivenNames x; refine keeps_let1 (F := F) (s0 := s0) (x := x) (fun _ => ?_) ?_; rotate_left; subst x; rotate_left; clear_value x)
    | (extract_lets +onlyGivenNames x; clear_value x) | assumption | apply keeps_loadProfile | apply keeps_tagPipes | apply keeps_applySet
    | apply keeps_switchEnd | split | exact mask_sub hF rfl | (refine keeps_of_pair (by assumption) ?_)

theorem keeps_cancelAt {F : Nat} {s0 s : State} (h0 : Keeps F s0 s) (hF : F &&& 0x600000000c00050 = 0 := by exact mask_sub (by assumption) rfl) : Keeps F s0 (State.cancelAt s) := by
  unfold State.cancelAt
  with_reducible repeat' first
    | assumption | apply keeps_schDrop | apply keeps_dropSems | apply keeps_dictStat | split | apply keeps_mk_dict | exact mask_sub hF rfl
    | (refine keeps_of_pair (by assumption) ?_)

theorem keeps_selectProfile {F : Nat} {s0 s : State} (h0 : Keeps F s0 s) (n : Nat)
    (hF : F &&& 0xf02fb6f3bdfcfff6f8 = 0 := by exact mask_sub (by assumption) rfl) : Keeps F s0 (s.selectProfile n).1 := by
  unfold State.selectProfile
  extract_lets w at_
  clear_value w at_
  split
  · with_reducible exact keeps_cancelAt h0
  · split
    · exact h0
    · split
      · with_reducible exact keeps_dictStat h0 _ _ _ _
      · split
        · split
          · with_reducible exact keeps_dictStat h0 _ _ _ _
          · have hp := keeps_loadProfile h0 n
            generalize s.loadProfile n = p at hp ⊢
            obtain ⟨s1, _⟩ := p
            dsimp -zeta only at hp ⊢
            split
            · with_reducible exact keeps_dropSems (keeps_dictStat (keeps_dictStat (keeps_noteBreach hp _ _ _) _ _ _ _) _ _ _ _)
            · extract_lets s2
              have h2 : Keeps F s0 s2 := by
                subst s2; split
                · with_reducible exact keeps_commitBlock hp _ _
                · exact hp
              clear_value s2
              exact keeps_dictStat (keeps_mk_dict h2 _) _ _ _ _
        · with_reducible exact keeps_switchNow h0 _ _ _

theorem keeps_execAtTime {F : Nat} {s0 s : State} (h0 : Keeps F s0 s) (hF : F &&& 0x6000030b4bdd0f8 = 0 := by exact mask_sub (by assumption) rfl) : ResKeeps F s0 (execAtTime s) := by
  unfold execAtTime
  with_reducible repeat' first
    | (intro _)
    | (extract_lets +onlyGivenNames x; refine keeps_let (F := F) (s0 := s0) (x := x) (fun _ => ?_) ?_; rotate_left; subst x; rotate_left; clear_value x)
    | (extract_lets +onlyGivenNames x; refine keeps_let1 (F := F) (s0 := s0) (x := x) (fun _ => ?_) ?_; rotate_left; subst x; rotate_left; clear_value x)
    | (extract_lets +onlyGivenNames x; clear_value x) | assumption | apply ResKeeps.next | apply keeps_tagPipes | apply keeps_applySet
    | apply keeps_switchEnd | split | apply keeps_mk_dict | exact mask_sub hF rfl | (refine keeps_of_pair (by assumption) ?_)

theorem keeps_storeProfile {F : Nat} {s0 s : State} (h0 : Keeps F s0 s) (n : Nat) (hF : F &&& 0x600000000000200 = 0 := by exact mask_sub (by assumption) rfl) : Keeps F s0 (State.storeProfile s n).1 := by
  unfold State.storeProfile
  with_reducible repeat' first
    | (intro _)
    | (extract_lets +onlyGivenNames x; refine keeps_let (F := F) (s0 := s0) (x := x) (fun _ => ?_) ?_; rotate_left; subst x; rotate_left; clear_value x)
    | (extract_lets +onlyGivenNames x; clear_value x) | assumption | apply keeps_slotWrite | apply keeps_dictStat | split
    | apply keeps_mk_dict | exact mask_sub hF rfl

theorem keeps_copySlot {F : Nat} {s0 s : State} (h0 : Keeps F s0 s) (a : Nat) (b : Nat) (n : Nat) (hF : F &&& 0x200 = 0 := by exact mask_sub (by assumption) rfl) : Keeps F s0 (State.copySlot s a b n) := by
  unfold State.copySlot
  with_reducible repeat' first
    | (extract_lets +onlyGivenNames x; refine keeps_let (F := F) (s0 := s0) (x := x) (fun _ => ?_) ?_; rotate_left; subst x; rotate_left; clear_value x)
    | (extract_lets +onlyGivenNames x; clear_value x) | (intro _) | assumption | apply keeps_eraseFlash | apply keeps_setBytes
    | exact mask_sub hF rfl

theorem keeps_execStoreDone {F : Nat} {s0 s : State} (h0 : Keeps F s0 s) (hF : F &&& 0x600000000000200 = 0 := by exact mask_sub (by assumption) rfl) : ResKeeps F s0 (execStoreDone s) := by
  unfold execStoreDone
  with_reducible repeat' first
    | (extract_lets +onlyGivenNames x; refine keeps_let (F := F) (s0 := s0) (x := x) (fun _ => ?_) ?_; rotate_left; subst x; rotate_left; clear_value x)
    | (extract_lets +onlyGivenNames x; clear_value x) | (intro _) | assumption | apply ResKeeps.next | apply keeps_setBytes
    | apply keeps_copySlot | apply keeps_dictStat | split | apply keeps_mk_dict | exact mask_sub hF rfl
    | (refine keeps_of_pair (by assumption) ?_)

theorem keeps_dictWrite {F : Nat} {s0 s : State} (h0 : Keeps F s0 s) (src : Nat) (port : Nat) (idx : Nat) (sub : Nat) (off : Nat) (data : List Byte) (hF : F &&& 0xf02fb6f3bdfcfff6f8 = 0 := by exact mask_sub (by assumption) rfl) : Keeps F s0 (State.dictWrite s src port idx sub off data).1 := by
  unfold State.dictWrite
  with_reducible repeat' first
    | (intro _)
    | (extract_lets +onlyGivenNames x; refine keeps_let (F := F) (s0 := s0) (x := x) (fun _ => ?_) ?_; rotate_left; subst x; rotate_left; clear_value x)
    | (extract_lets +onlyGivenNames x; clear_value x) | assumption | apply keeps_selectProfile | apply keeps_storeProfile
    | apply keeps_apply | apply keeps_storeObj | split | exact mask_sub hF rfl | (refine keeps_of_pair (by assumption) ?_)

theorem keeps_runOps {F : Nat} {s0 : State} (hF : F &&& 0xf02fb6f3bdfcfff7f8 = 0) (src port limit : Nat) : ∀ (l : List DOp) (used : Nat) {s : State}, Keeps F s0 s →
    Keeps F s0 (s.runOps src port limit used l).1
  | [], _, _, h => h
  | o :: l, used, s, h => by
    unfold State.runOps
    extract_lets r size r'
    have hr : Keeps F s0 r.1 := by
      subst r; split
      · exact h
      · split
        · exact keeps_dictRead h _ _ _ _ _
        · exact keeps_dictWrite h _ _ _ _ _ _
    have hr' : Keeps F s0 r'.1 := by subst r'; split <;> exact hr
    exact keeps_runOps (mask_sub hF rfl) src port limit l _ hr'

theorem keeps_perform {F : Nat} {s0 s : State} (h0 : Keeps F s0 s) (r : DictReq) (hF : F &&& 0xf02fb6f3bdfcfff7f8 = 0 := by exact mask_sub (by assumption) rfl) : Keeps F s0 (State.perform s r).1 := by
  unfold State.perform
  with_reducible repeat' first
    | (intro _)
    | (extract_lets +onlyGivenNames x; refine keeps_let (F := F) (s0 := s0) (x := x) (fun _ => ?_) ?_; rotate_left; subst x; rotate_left; clear_value x)
    | (extract_lets +onlyGivenNames x; refine keeps_let1 (F := F) (s0 := s0) (x := x) (fun _ => ?_) ?_; rotate_left; subst x; rotate_left; clear_value x)
    | (extract_lets +onlyGivenNames x; clear_value x) | assumption | apply keeps_runOps | apply keeps_apply | split
    | exact mask_sub hF rfl | (refine keeps_of_pair (by assumption) ?_)

theorem keeps_gwStart {F : Nat} {s0 s : State} (h0 : Keeps F s0 s) (p : Nat) (hF : F &&& 0x1000000000c0068 = 0 := by exact mask_sub (by assumption) rfl) : Keeps F s0 (State.gwStart s p) := by
  unfold State.gwStart
  with_reducible repeat' first
    | (intro _)
    | (extract_lets +onlyGivenNames x; refine keeps_let (F := F) (s0 := s0) (x := x) (fun _ => ?_) ?_; rotate_left; subst x; rotate_left; clear_value x)
    | (extract_lets +onlyGivenNames x; clear_value x) | assumption | apply keeps_updPort | apply keeps_bchStart | split
    | apply keeps_mk_gws | exact mask_sub hF rfl | (refine keeps_of_pair (by assumption) ?_)

theorem keeps_forward {F : Nat} {s0 s : State} (h0 : Keeps F s0 s) (r : DictReq) (hF : F &&& 0x9000000400c0078 = 0 := by exact mask_sub (by assumption) rfl) : Keeps F s0 (State.forward s r) := by
  unfold State.forward
  with_reducible repeat' first
    | (extract_lets +onlyGivenNames x; refine keeps_let (F := F) (s0 := s0) (x := x) (fun _ => ?_) ?_; rotate_left; subst x; rotate_left; clear_value x)
    | (extract_lets +onlyGivenNames x; clear_value x) | (intro _) | assumption | apply keeps_answer | apply keeps_gwStart | split
    | apply keeps_mk_gws | exact mask_sub hF rfl

theorem keeps_canAnswer {F : Nat} {s0 s : State} (h0 : Keeps F s0 s) (r : DictReq) (rsp : List Byte) (hF : F &&& 0x1000000000000068 = 0 := by exact mask_sub (by assumption) rfl) : Keeps F s0 (State.canAnswer s r rsp) := by
  unfold State.canAnswer
  with_reducible repeat' first
    | assumption | apply keeps_canSend | split | exact mask_sub hF rfl

theorem keeps_serveOne {F : Nat} {s0 s : State} (h0 : Keeps F s0 s) (hF : F &&& 0xf03fb6f3bdfcfff7f8 = 0 := by exact mask_sub (by assumption) rfl) :
    Keeps F s0 s.serveOne := by
  unfold State.serveOne
  split
  · exact h0
  · rename_i r _
    split
    · exact h0
    · extract_lets s1
      have h1 : Keeps F s0 s1 := keeps_mk_dictQ h0 _
      clear_value s1
      split
      · with_reducible exact keeps_forward h1 _
      · have hp := keeps_perform h1 r
        generalize s1.perform r = p at hp ⊢
        split
        split
        · with_reducible exact keeps_canAnswer hp _ _
        · with_reducible exact keeps_answer hp _ _

theorem keeps_serve {F : Nat} {s0 : State} (hF : F &&& 0xf03fb6f3bdfcfff7f8 = 0) : ∀ (n : Nat) {s : State}, Keeps F s0 s → Keeps F s0 (s.serve n)
  | 0, _, h => h
  | n + 1, _, h => keeps_serve (mask_sub hF rfl) n (keeps_serveOne h)

theorem keeps_enqueueReq {F : Nat} {s0 s : State} (h0 : Keeps F s0 s) (r : DictReq) (hF : F &&& 0x80000000000000 = 0 := by exact mask_sub (by assumption) rfl) : Keeps F s0 (State.enqueueReq s r) := by
  unfold State.enqueueReq
  with_reducible repeat' first
    | assumption | apply keeps_mk_dictQ | exact mask_sub hF rfl

theorem keeps_execDictRequest {F : Nat} {s0 s : State} (h0 : Keeps F s0 s) (call : Option (Nat × List Byte)) (hF : F &&& 0xf03fb6f3bdfcfff7f8 = 0 := by exact mask_sub (by assumption) rfl) : ResKeeps F s0 (execDictRequest call s) := by
  unfold execDictRequest
  with_reducible repeat' first
    | assumption | apply ResKeeps.next | apply keeps_enqueueReq | apply keeps_serveOne | split | exact mask_sub hF rfl
    | (refine keeps_of_pair (by assumption) ?_)

end Sys2Proof.Machine
end

