-- ==== Sys2Proof/Laws/KeepsRoutes.lean ====
section
/-! SUPPORT. What the operations of Machine/Routes.lean keep (`Keeps`), one lemma each. -/
namespace Sys2Proof.Machine
set_option Elab.async false

theorem keeps_execMbRequest {F : Nat} {s0 s : State} (h0 : Keeps F s0 s) (st : Nat) (req : Nat) (v : Nat) (hF : F &&& 0x80000000000050 = 0 := by exact mask_sub (by assumption) rfl) : ResKeeps F s0 (execMbRequest st req v s) := by
  unfold execMbRequest
  with_reducible repeat' first
    | (intro _)
    | (extract_lets +onlyGivenNames x; refine keeps_let (F := F) (s0 := s0) (x := x) (fun _ => ?_) ?_; rotate_left; subst x; rotate_left; clear_value x)
    | (extract_lets +onlyGivenNames x; clear_value x) | assumption | apply ResKeeps.next | apply keeps_onKey | apply keeps_setBit
    | apply keeps_wrFld | apply keeps_incW | apply keeps_epEvent | apply keeps_enqueueReq | split | exact mask_sub hF rfl

theorem keeps_execMbDone {F : Nat} {s0 s : State} (h0 : Keeps F s0 s) (st : Nat) (hF : F &&& 0x40000260 = 0 := by exact mask_sub (by assumption) rfl) : ResKeeps F s0 (execMbDone st s) := by
  unfold execMbDone
  with_reducible repeat' first
    | (intro _)
    | (extract_lets +onlyGivenNames x; refine keeps_let (F := F) (s0 := s0) (x := x) (fun _ => ?_) ?_; rotate_left; subst x; rotate_left; clear_value x)
    | (extract_lets +onlyGivenNames x; clear_value x) | assumption | apply ResKeeps.next | apply keeps_updEp | apply keeps_setBytes
    | apply keeps_wrN | apply keeps_wrFld | apply keeps_msix | split | exact mask_sub hF rfl | (refine keeps_of_pair (by assumption) ?_)

theorem keeps_execMbRelease {F : Nat} {s0 s : State} (h0 : Keeps F s0 s) (st : Nat) (req : Nat) (v : Nat) (hF : F &&& 0x50 = 0 := by exact mask_sub (by assumption) rfl) : ResKeeps F s0 (execMbRelease st req v s) := by
  unfold execMbRelease
  with_reducible repeat' first
    | (intro _)
    | (extract_lets +onlyGivenNames x; refine keeps_let (F := F) (s0 := s0) (x := x) (fun _ => ?_) ?_; rotate_left; subst x; rotate_left; clear_value x)
    | (extract_lets +onlyGivenNames x; clear_value x) | assumption | apply ResKeeps.next | apply keeps_onKey | apply keeps_wrFld
    | apply keeps_clrBit | split | exact mask_sub hF rfl

theorem keeps_gwSegment {F : Nat} {s0 s : State} (h0 : Keeps F s0 s) (port : Nat) (m : List Byte) (hF : F &&& 0x80040 = 0 := by exact mask_sub (by assumption) rfl) : Keeps F s0 (State.gwSegment s port m).1 := by
  unfold State.gwSegment
  with_reducible repeat' first
    | (intro _)
    | (extract_lets +onlyGivenNames x; refine keeps_let (F := F) (s0 := s0) (x := x) (fun _ => ?_) ?_; rotate_left; subst x; rotate_left; clear_value x)
    | (extract_lets +onlyGivenNames x; clear_value x) | assumption | apply keeps_setPort | apply keeps_inc | split | exact mask_sub hF rfl

theorem keeps_gwEnd {F : Nat} {s0 s : State} (h0 : Keeps F s0 s) (g : GwTx) (rsp : List Byte) (hF : F &&& 0x9000000400c0078 = 0 := by exact mask_sub (by assumption) rfl) : Keeps F s0 (State.gwEnd s g rsp) := by
  unfold State.gwEnd
  with_reducible repeat' first
    | assumption | apply keeps_answer | apply keeps_gwStart | apply keeps_mk_gws | exact mask_sub hF rfl

theorem keeps_execGwRspRx {F : Nat} {s0 s : State} (h0 : Keeps F s0 s) (port : Nat) (hF : F &&& 0x9000000400c0078 = 0 := by exact mask_sub (by assumption) rfl) : ResKeeps F s0 (execGwRspRx port s) := by
  unfold execGwRspRx
  with_reducible repeat' first
    | (intro _) | assumption | apply ResKeeps.next | (refine keeps_takeMsg (by assumption) ?_) | apply keeps_gwSegment | apply keeps_gwEnd
    | (refine keeps_takeMsg (by assumption) ?_) | split | exact mask_sub hF rfl | (refine keeps_of_pair (by assumption) ?_)

theorem keeps_execGwReqRx {F : Nat} {s0 s : State} (h0 : Keeps F s0 s) (port : Nat) (groups : List Nat) (hF : F &&& 0x800000000c0068 = 0 := by exact mask_sub (by assumption) rfl) : ResKeeps F s0 (execGwReqRx port groups s) := by
  unfold execGwReqRx
  with_reducible repeat' first
    | assumption | apply ResKeeps.next | apply keeps_bchTake | apply keeps_gwSegment | apply keeps_enqueueReq | split
    | exact mask_sub hF rfl | (refine keeps_of_pair (by assumption) ?_)

theorem keeps_execGwTimeout {F : Nat} {s0 s : State} (h0 : Keeps F s0 s) (port : Nat) (trans : Nat) (hF : F &&& 0x9000000400c0078 = 0 := by exact mask_sub (by assumption) rfl) : ResKeeps F s0 (execGwTimeout port trans s) := by
  unfold execGwTimeout
  with_reducible repeat' first
    | (intro _) | assumption | apply ResKeeps.next | apply keeps_gwEnd | split | exact mask_sub hF rfl
    | (refine keeps_of_pair (by assumption) ?_)

theorem keeps_serveAll {F : Nat} {s0 s : State} (h0 : Keeps F s0 s) (hF : F &&& 0xf03fb6f3bdfcfff7f8 = 0 := by exact mask_sub (by assumption) rfl) : Keeps F s0 (State.serveAll s) := by
  unfold State.serveAll
  with_reducible repeat' first
    | assumption | apply keeps_serve | exact mask_sub hF rfl

theorem keeps_execUsdoTransfer {F : Nat} {s0 s : State} (h0 : Keeps F s0 s) (st : Nat) (write : Bool) (idx : Nat) (sub : Nat) (off : Nat) (len : Nat) (data : List Byte) (hF : F &&& 0xf03fb6f3bdfcfff7f8 = 0 := by exact mask_sub (by assumption) rfl) : ResKeeps F s0 (execUsdoTransfer st write idx sub off len data s) := by
  unfold execUsdoTransfer
  with_reducible repeat' first
    | assumption | apply ResKeeps.next | apply keeps_canRecv | apply keeps_enqueueReq | apply keeps_serveAll | split
    | exact mask_sub hF rfl

theorem keeps_execRpdoRx {F : Nat} {s0 s : State} (h0 : Keeps F s0 s) (st : Nat) (n : Nat) (data : List Byte) (hF : F &&& 0xf03fb6f3bdfcfff7f8 = 0 := by exact mask_sub (by assumption) rfl) : ResKeeps F s0 (execRpdoRx st n data s) := by
  unfold execRpdoRx
  with_reducible repeat' first
    | (extract_lets +onlyGivenNames x; refine keeps_let (F := F) (s0 := s0) (x := x) (fun _ => ?_) ?_; rotate_left; subst x; rotate_left; clear_value x)
    | (extract_lets +onlyGivenNames x; clear_value x) | (intro _) | assumption | apply ResKeeps.next | apply keeps_canRecv
    | apply keeps_enqueueReq | apply keeps_serveAll | split | exact mask_sub hF rfl | (refine keeps_of_pair (by assumption) ?_)

theorem keeps_tpdoRead {F : Nat} {s0 : State} (hF : F &&& 0x600000000000081150 = 0) : ∀ (l : List (Nat × Nat × Nat)) {s : State}, Keeps F s0 s → Keeps F s0 (s.tpdoRead l).1
  | [], _, h => h
  | _ :: l, _, h => keeps_tpdoRead (mask_sub hF rfl) l (keeps_dictRead h _ _ _ _ _)

theorem keeps_tpdoDrop {F : Nat} {s0 s : State} (h0 : Keeps F s0 s) (st : Nat) (n : Nat) (hF : F &&& 0x1000000000000040 = 0 := by exact mask_sub (by assumption) rfl) : Keeps F s0 (State.tpdoDrop s st n) := by
  unfold State.tpdoDrop
  with_reducible repeat' first
    | (intro _) | assumption | apply keeps_updCan | apply keeps_inc | apply keeps_canEvent | exact mask_sub hF rfl

theorem keeps_tpdoSend {F : Nat} {s0 s : State} (h0 : Keeps F s0 s) (st : Nat) (n : Nat) (onChange : Bool) (hF : F &&& 0x601000000000081178 = 0 := by exact mask_sub (by assumption) rfl) : Keeps F s0 (State.tpdoSend s st n onChange) := by
  unfold State.tpdoSend
  with_reducible repeat' first
    | (intro _)
    | (extract_lets +onlyGivenNames x; refine keeps_let (F := F) (s0 := s0) (x := x) (fun _ => ?_) ?_; rotate_left; subst x; rotate_left; clear_value x)
    | (extract_lets +onlyGivenNames x; refine keeps_let1 (F := F) (s0 := s0) (x := x) (fun _ => ?_) ?_; rotate_left; subst x; rotate_left; clear_value x)
    | (extract_lets +onlyGivenNames x; clear_value x) | assumption | apply keeps_tpdoRead | apply keeps_tpdoDrop | apply keeps_updCan
    | apply keeps_canSend | split | exact mask_sub hF rfl | (refine keeps_of_pair (by assumption) ?_)

theorem keeps_execSyncRx {F : Nat} {s0 s : State} (h0 : Keeps F s0 s) (st : Nat) (hF : F &&& 0x601000000000081178 = 0 := by exact mask_sub (by assumption) rfl) : ResKeeps F s0 (execSyncRx st s) := by
  unfold execSyncRx
  with_reducible repeat' first
    | (intro _)
    | (extract_lets +onlyGivenNames x; refine keeps_let (F := F) (s0 := s0) (x := x) (fun _ => ?_) ?_; rotate_left; subst x; rotate_left; clear_value x)
    | (extract_lets +onlyGivenNames x; clear_value x) | assumption | apply ResKeeps.next | apply keeps_forEach | apply keeps_canRecv
    | apply keeps_tpdoSend | apply keeps_updCan | split | exact mask_sub hF rfl

theorem keeps_execTpdoEventTimer {F : Nat} {s0 s : State} (h0 : Keeps F s0 s) (st : Nat) (n : Nat) (hF : F &&& 0x601000000000081178 = 0 := by exact mask_sub (by assumption) rfl) : ResKeeps F s0 (execTpdoEventTimer st n s) := by
  unfold execTpdoEventTimer
  with_reducible repeat' first
    | (extract_lets +onlyGivenNames x; refine keeps_let (F := F) (s0 := s0) (x := x) (fun _ => ?_) ?_; rotate_left; subst x; rotate_left; clear_value x)
    | (extract_lets +onlyGivenNames x; clear_value x) | (intro _) | assumption | apply ResKeeps.next | apply keeps_tpdoDrop
    | apply keeps_tpdoSend | split | exact mask_sub hF rfl

theorem keeps_execTpdoChangeCheck {F : Nat} {s0 s : State} (h0 : Keeps F s0 s) (st : Nat) (hF : F &&& 0x601000000000081178 = 0 := by exact mask_sub (by assumption) rfl) : ResKeeps F s0 (execTpdoChangeCheck st s) := by
  unfold execTpdoChangeCheck
  with_reducible repeat' first
    | (intro _) | assumption | apply ResKeeps.next | apply keeps_forEach | apply keeps_updCan | apply keeps_tpdoSend | split
    | exact mask_sub hF rfl

theorem keeps_execRoleMove {F : Nat} {s0 s : State} (h0 : Keeps F s0 s) (hF : F &&& 0x60001b0b4bdd4f8 = 0 := by exact mask_sub (by assumption) rfl) : ResKeeps F s0 (execRoleMove s) := by
  unfold execRoleMove
  with_reducible repeat' first
    | (extract_lets +onlyGivenNames x; refine keeps_let (F := F) (s0 := s0) (x := x) (fun _ => ?_) ?_; rotate_left; subst x; rotate_left; clear_value x)
    | (extract_lets +onlyGivenNames x; clear_value x) | (intro _) | assumption | apply ResKeeps.next | apply keeps_apply
    | apply keeps_setLead | split | exact mask_sub hF rfl

theorem keeps_execTimeStep {F : Nat} {s0 s : State} (h0 : Keeps F s0 s) (hF : F &&& 0xcc3868 = 0 := by exact mask_sub (by assumption) rfl) : ResKeeps F s0 (execTimeStep s) := by
  unfold execTimeStep
  with_reducible repeat' first
    | (intro _)
    | (extract_lets +onlyGivenNames x; refine keeps_let (F := F) (s0 := s0) (x := x) (fun _ => ?_) ?_; rotate_left; subst x; (try dsimp -zeta only); rotate_left; clear_value x)
    | (extract_lets +onlyGivenNames x; refine keeps_letF (F := F) (s0 := s0) (x := x) (fun hf => ?_) ?_; rotate_left; subst x; (try dsimp -zeta only); rotate_left; clear_value x)
    | (extract_lets +onlyGivenNames x; refine keeps_letF2 (F := F) (s0 := s0) (x := x) (fun hf => ?_) ?_; rotate_left; subst x; (try dsimp -zeta only); rotate_left; clear_value x)
    | (extract_lets +onlyGivenNames x; refine keeps_letN (F := F) (s0 := s0) (x := x) (fun hf => ?_) ?_; rotate_left; subst x; (try dsimp -zeta only); rotate_left; clear_value x)
    | (extract_lets +onlyGivenNames x; clear_value x) | assumption | apply ResKeeps.next | apply keeps_setTm | apply keeps_applyStep
    | apply keeps_stepSched | apply keeps_stepWindows | apply hf | split | exact mask_sub hF rfl
    | (refine keeps_of_pair (by assumption) ?_)

end Sys2Proof.Machine
end

