-- ==== Sys2Proof/Laws/KeepsStartup.lean ====
section
/-! SUPPORT. What the operations of Machine/Startup.lean keep (`Keeps`), one lemma each. -/
namespace Sys2Proof.Machine
set_option Elab.async false

theorem keeps_resetRegs {F : Nat} {s0 s : State} (h0 : Keeps F s0 s) (die : Nat) (warm : Bool) (hF : F &&& 0xc94050400800032bc0 = 0 := by exact mask_sub (by assumption) rfl) : Keeps F s0 (s.resetRegs die warm) :=
  h0.upd hF rfl rfl (fun x => Tbl.wf_filter _ x) (fun x => Tbl.wf_filter _ x) id
    (fun f => by cases f <;> first | exact fun _ => rfl | exact fun h => nomatch h)

theorem keeps_resetConc {F : Nat} {s0 s : State} (h0 : Keeps F s0 s) (die : Nat) (hF : F &&& 0x2c00802018103e7cc000 = 0 := by exact mask_sub (by assumption) rfl) : Keeps F s0 (State.resetConc s die) := by
  unfold State.resetConc
  with_reducible repeat' first
    | (intro _) | assumption
    | apply keeps_mk_queues_prods_efs_ports_sis_pipes_schs_cellPtr_cellMem_fences_chans_engs_axes_fcChans_restarts_wdogs_pccs_kpVer_kpReq_ubFirst
    | exact mask_sub hF rfl

theorem keeps_resetSteward {F : Nat} {s0 s : State} (h0 : Keeps F s0 s) (st : Nat) (hF : F &&& 0x1323c08b3e2c0000020 = 0 := by exact mask_sub (by assumption) rfl) : Keeps F s0 (State.resetSteward s st) := by
  unfold State.resetSteward
  with_reducible repeat' first
    | (intro _)
    | (extract_lets +onlyGivenNames x; refine keeps_let (F := F) (s0 := s0) (x := x) (fun _ => ?_) ?_; rotate_left; subst x; rotate_left; clear_value x)
    | (extract_lets +onlyGivenNames x; clear_value x) | assumption | apply keeps_faultN | split
    | apply keeps_mk_eps_ledgers_weirOn_relaySt_relayJ_jns_hus_parked_restarts_switchAt_hbOn_peerUpAt_dict_i2cs_cans_qspis_irqCopy_irqClaims_readyAt
    | exact mask_sub hF rfl

theorem keeps_farReset {F : Nat} {s0 s : State} (h0 : Keeps F s0 s) (die : Nat) (hF : F &&& 0x100000000800000050 = 0 := by exact mask_sub (by assumption) rfl) : Keeps F s0 (State.farReset s die) := by
  unfold State.farReset
  with_reducible repeat' first
    | (intro _)
    | (extract_lets +onlyGivenNames x; refine keeps_let (F := F) (s0 := s0) (x := x) (fun _ => ?_) ?_; rotate_left; subst x; rotate_left; clear_value x)
    | (extract_lets +onlyGivenNames x; clear_value x) | assumption | apply keeps_forEach | apply keeps_modEnter | apply keeps_clrBit
    | split | exact mask_sub hF rfl

theorem keeps_dieReset {F : Nat} {s0 s : State} (h0 : Keeps F s0 s) (die : Nat) (warm : Bool) (hF : F &&& 0x2ffbfc78fffaff7ffbf0 = 0 := by exact mask_sub (by assumption) rfl) : Keeps F s0 (State.dieReset s die warm) := by
  unfold State.dieReset
  with_reducible repeat' first
    | (intro _)
    | (extract_lets +onlyGivenNames x; refine keeps_let (F := F) (s0 := s0) (x := x) (fun _ => ?_) ?_; rotate_left; subst x; rotate_left; clear_value x)
    | (extract_lets +onlyGivenNames x; clear_value x) | assumption | apply keeps_farReset | apply keeps_resetRegs | apply keeps_setTm
    | apply keeps_refreshRate | apply keeps_resetConc | apply keeps_resetSteward | split | apply keeps_mk_finalC_shutNormal_fcReset
    | apply keeps_mk_fcReset | exact mask_sub hF rfl

theorem keeps_resetWith {F : Nat} {s0 s : State} (h0 : Keeps F s0 s) (die : Nat) (cause : Nat) (warm : Bool) (hF : F &&& 0x2ffbfc78fffaff7ffbf8 = 0 := by exact mask_sub (by assumption) rfl) : Keeps F s0 (State.resetWith s die cause warm) := by
  unfold State.resetWith
  with_reducible repeat' first
    | (extract_lets +onlyGivenNames x; refine keeps_let (F := F) (s0 := s0) (x := x) (fun _ => ?_) ?_; rotate_left; subst x; rotate_left; clear_value x)
    | (extract_lets +onlyGivenNames x; clear_value x) | (intro _) | assumption | apply keeps_dieReset | apply keeps_upAll
    | apply keeps_wrN | apply keeps_putBit | apply keeps_wrFld | split | exact mask_sub hF rfl

theorem keeps_execRailReset {F : Nat} {s0 s : State} (h0 : Keeps F s0 s) (die : Nat) (rail : Nat) (mv : Nat) (ns : Nat) (hF : F &&& 0x2ffbfc78fffaff7ffbf8 = 0 := by exact mask_sub (by assumption) rfl) : ResKeeps F s0 (execRailReset die rail mv ns s) := by
  unfold execRailReset
  with_reducible repeat' first
    | assumption | apply ResKeeps.next | apply keeps_resetWith | split | exact mask_sub hF rfl

theorem keeps_execNdmreset {F : Nat} {s0 s : State} (h0 : Keeps F s0 s) (die : Nat) (hF : F &&& 0x2ffbfc78fffaff7ffbf8 = 0 := by exact mask_sub (by assumption) rfl) : ResKeeps F s0 (execNdmreset die s) := by
  unfold execNdmreset
  with_reducible repeat' first
    | assumption | apply ResKeeps.next | apply keeps_resetWith | split | exact mask_sub hF rfl

theorem keeps_execPeerReset {F : Nat} {s0 s : State} (h0 : Keeps F s0 s) (st : Nat) (req : Nat) (v : Nat) (hF : F &&& 0x2ffbfc78fffaff7ffbf8 = 0 := by exact mask_sub (by assumption) rfl) : ResKeeps F s0 (execPeerReset st req v s) := by
  unfold execPeerReset
  with_reducible repeat' first
    | (intro _) | assumption | apply ResKeeps.next | apply keeps_onKey | apply keeps_resetWith | split | exact mask_sub hF rfl

theorem keeps_execResetAssert {F : Nat} {s0 s : State} (h0 : Keeps F s0 s) (hF : F &&& 0x3fffffffffffffffffe0 = 0 := by exact mask_sub (by assumption) rfl) : ResKeeps F s0 (execResetAssert s) := by
  unfold execResetAssert
  extract_lets src src2 s1
  have h1 : Keeps F s0 s1 := by
    refine h0.upd hF rfl rfl (fun x => Tbl.wf_filter _ x) (fun x => Tbl.wf_filter _ x) (fun _ => ?_)
      (fun f => by cases f <;> first | exact fun _ => rfl | exact fun h => nomatch h)
    show State.stOk _ 4 = true
    simp only [State.stOk, State.present]; cases s.part <;> rfl
  clear_value s1
  apply ResKeeps.next
  split
  · exact keeps_emit h1 _ _ _
  · exact h1

theorem keeps_execResetRelease {F : Nat} {s0 s : State} (h0 : Keeps F s0 s) (profSel : Nat) (hF : F &&& 0x10000200000000000000 = 0 := by exact mask_sub (by assumption) rfl) : ResKeeps F s0 (execResetRelease profSel s) := by
  unfold execResetRelease
  with_reducible repeat' first
    | assumption | apply ResKeeps.next | apply keeps_setObj | split | apply keeps_mk_rstLow | exact mask_sub hF rfl

theorem keeps_bootFail {F : Nat} {s0 s : State} (h0 : Keeps F s0 s) (st : Nat) (code : Nat) (hF : F &&& 0x20000000000000060 = 0 := by exact mask_sub (by assumption) rfl) : Keeps F s0 (State.bootFail s st code) := by
  unfold State.bootFail
  with_reducible repeat' first
    | assumption | apply keeps_wrFld | apply keeps_faultN | exact mask_sub hF rfl

theorem keeps_bootHeader {F : Nat} {s0 s : State} (h0 : Keeps F s0 s) (st : Nat) (c : Nat) (r : BootResult) (hF : F &&& 0x40 = 0 := by exact mask_sub (by assumption) rfl) : Keeps F s0 (State.bootHeader s st c r) := by
  unfold State.bootHeader
  with_reducible repeat' first
    | (extract_lets +onlyGivenNames x; refine keeps_let (F := F) (s0 := s0) (x := x) (fun _ => ?_) ?_; rotate_left; subst x; rotate_left; clear_value x)
    | (extract_lets +onlyGivenNames x; clear_value x) | (intro _) | assumption | apply keeps_wrFld | apply keeps_clrBit | split
    | exact mask_sub hF rfl

theorem keeps_loadImage {F : Nat} {s0 s : State} (h0 : Keeps F s0 s) (st : Nat) (slot : Nat) (hF : F &&& 0x200 = 0 := by exact mask_sub (by assumption) rfl) : Keeps F s0 (State.loadImage s st slot) := by
  unfold State.loadImage
  with_reducible repeat' first
    | assumption | apply keeps_setBytes | exact mask_sub hF rfl

theorem keeps_bootCold {F : Nat} {s0 s : State} (h0 : Keeps F s0 s) (st : Nat) (r : BootResult) (hF : F &&& 0x20000000000000260 = 0 := by exact mask_sub (by assumption) rfl) : Keeps F s0 (State.bootCold s st r) := by
  unfold State.bootCold
  with_reducible repeat' first
    | (extract_lets +onlyGivenNames x; refine keeps_let (F := F) (s0 := s0) (x := x) (fun _ => ?_) ?_; rotate_left; subst x; rotate_left; clear_value x)
    | (extract_lets +onlyGivenNames x; clear_value x) | (intro _) | assumption | apply keeps_bootFail | apply keeps_bootHeader
    | apply keeps_loadImage | apply keeps_wrFld | apply keeps_setBit | split | exact mask_sub hF rfl
    | (refine keeps_of_pair (by assumption) ?_)

theorem keeps_execBootRom {F : Nat} {s0 s : State} (h0 : Keeps F s0 s) (st : Nat) (r : BootResult) (hF : F &&& 0x20000000000000260 = 0 := by exact mask_sub (by assumption) rfl) : ResKeeps F s0 (execBootRom st r s) := by
  unfold execBootRom
  with_reducible repeat' first
    | (extract_lets +onlyGivenNames x; refine keeps_let (F := F) (s0 := s0) (x := x) (fun _ => ?_) ?_; rotate_left; subst x; rotate_left; clear_value x)
    | (extract_lets +onlyGivenNames x; clear_value x) | (intro _) | assumption | apply ResKeeps.next | apply keeps_bootHeader
    | apply keeps_wrFld | apply keeps_clrBit | apply keeps_bootCold | split | exact mask_sub hF rfl

theorem keeps_bootCmd {F : Nat} {s0 s : State} (h0 : Keeps F s0 s) (st : Nat) (req : Nat) (v : Nat) (bit : Nat) (f : State → State) (h_f : ∀ u, Keeps F s0 u → Keeps F s0 (f u)) (hF : F &&& 0x50 = 0 := by exact mask_sub (by assumption) rfl) : Keeps F s0 (bootCmd st req v bit f s) := by
  unfold bootCmd
  with_reducible repeat' first
    | (intro _) | assumption | apply keeps_onKey | apply h_f | split | exact mask_sub hF rfl

theorem keeps_execBootRetry {F : Nat} {s0 s : State} (h0 : Keeps F s0 s) (st : Nat) (req : Nat) (v : Nat) (hF : F &&& 0x20000000000000070 = 0 := by exact mask_sub (by assumption) rfl) : ResKeeps F s0 (execBootRetry st req v s) := by
  unfold execBootRetry
  with_reducible repeat' first
    | (intro _)
    | (extract_lets +onlyGivenNames x; refine keeps_let (F := F) (s0 := s0) (x := x) (fun _ => ?_) ?_; rotate_left; subst x; rotate_left; clear_value x)
    | (extract_lets +onlyGivenNames x; clear_value x) | assumption | apply ResKeeps.next | apply keeps_bootCmd | apply keeps_wrFld
    | apply keeps_wrN | apply keeps_faultN | split | exact mask_sub hF rfl

theorem keeps_copyToPartner {F : Nat} {s0 s : State} (h0 : Keeps F s0 s) (hF : F &&& 0x2c0 = 0 := by exact mask_sub (by assumption) rfl) : Keeps F s0 (State.copyToPartner s) := by
  unfold State.copyToPartner
  with_reducible repeat' first
    | (intro _)
    | (extract_lets +onlyGivenNames x; refine keeps_let (F := F) (s0 := s0) (x := x) (fun _ => ?_) ?_; rotate_left; subst x; (try dsimp -zeta only); rotate_left; clear_value x)
    | (extract_lets +onlyGivenNames x; refine keeps_letF (F := F) (s0 := s0) (x := x) (fun hf => ?_) ?_; rotate_left; subst x; (try dsimp -zeta only); rotate_left; clear_value x)
    | (extract_lets +onlyGivenNames x; refine keeps_letF2 (F := F) (s0 := s0) (x := x) (fun hf => ?_) ?_; rotate_left; subst x; (try dsimp -zeta only); rotate_left; clear_value x)
    | (extract_lets +onlyGivenNames x; refine keeps_letN (F := F) (s0 := s0) (x := x) (fun hf => ?_) ?_; rotate_left; subst x; (try dsimp -zeta only); rotate_left; clear_value x)
    | (extract_lets +onlyGivenNames x; clear_value x) | assumption | apply keeps_forEach | apply keeps_wr | apply keeps_setAct
    | apply keeps_copySlot | apply hf | split | exact mask_sub hF rfl

theorem keeps_adopt {F : Nat} {s0 s : State} (h0 : Keeps F s0 s) (hF : F &&& 0x40 = 0 := by exact mask_sub (by assumption) rfl) : Keeps F s0 (State.adopt s) := by
  unfold State.adopt
  with_reducible repeat' first
    | (intro _) | assumption | apply keeps_forEach | apply keeps_setBit | exact mask_sub hF rfl

theorem keeps_canGo {F : Nat} {s0 s : State} (h0 : Keeps F s0 s) (hF : F &&& 0x1000000000000068 = 0 := by exact mask_sub (by assumption) rfl) : Keeps F s0 (State.canGo s) := by
  unfold State.canGo
  with_reducible repeat' first
    | (intro _) | assumption | apply keeps_forEach | apply keeps_canStart | exact mask_sub hF rfl

theorem keeps_leadGo {F : Nat} {s0 s : State} (h0 : Keeps F s0 s) (hF : F &&& 0xf03fb6f3bdfcfff6f8 = 0 := by exact mask_sub (by assumption) rfl) : Keeps F s0 (State.leadGo s) := by
  unfold State.leadGo
  with_reducible repeat' first
    | (intro _)
    | (extract_lets +onlyGivenNames x; refine keeps_let (F := F) (s0 := s0) (x := x) (fun _ => ?_) ?_; rotate_left; subst x; rotate_left; clear_value x)
    | (extract_lets +onlyGivenNames x; clear_value x) | assumption | apply keeps_switchNow | apply keeps_adopt | apply keeps_updHu
    | apply keeps_canGo | apply keeps_wrFld | apply keeps_copyToPartner | split | apply keeps_mk_dict | exact mask_sub hF rfl

theorem keeps_leadClaim {F : Nat} {s0 s : State} (h0 : Keeps F s0 s) (st : Nat) (hF : F &&& 0xf03fb6f3bdfcfff6f8 = 0 := by exact mask_sub (by assumption) rfl) : Keeps F s0 (State.leadClaim s st) := by
  unfold State.leadClaim
  with_reducible repeat' first
    | (extract_lets +onlyGivenNames x; refine keeps_let (F := F) (s0 := s0) (x := x) (fun _ => ?_) ?_; rotate_left; subst x; rotate_left; clear_value x)
    | (extract_lets +onlyGivenNames x; clear_value x) | (intro _) | assumption | apply keeps_run | apply keeps_execSemAcq
    | apply keeps_setBit | apply keeps_setLead | apply keeps_leadGo | split | exact mask_sub hF rfl
    | (refine keeps_of_pair (by assumption) ?_)

theorem keeps_readyGo {F : Nat} {s0 s : State} (h0 : Keeps F s0 s) (st : Nat) (hF : F &&& 0x1f23fb6f3bdfcfff6f8 = 0 := by exact mask_sub (by assumption) rfl) : Keeps F s0 (State.readyGo s st) := by
  unfold State.readyGo
  with_reducible repeat' first
    | (intro _)
    | (extract_lets +onlyGivenNames x; refine keeps_let (F := F) (s0 := s0) (x := x) (fun _ => ?_) ?_; rotate_left; subst x; rotate_left; clear_value x)
    | (extract_lets +onlyGivenNames x; clear_value x) | assumption | apply keeps_faultN | apply keeps_updJn | apply keeps_wrFld
    | apply keeps_setLead | apply keeps_copyToPartner | apply keeps_canGo | apply keeps_leadClaim | apply keeps_forEach | apply keeps_run
    | apply keeps_execHeartbeatTx | apply keeps_upAll | split | apply keeps_mk_hbOn_readyAt | exact mask_sub hF rfl

theorem keeps_execBootReady {F : Nat} {s0 s : State} (h0 : Keeps F s0 s) (st : Nat) (req : Nat) (v : Nat) (hF : F &&& 0x1f23fb6f3bdfcfff6f8 = 0 := by exact mask_sub (by assumption) rfl) : ResKeeps F s0 (execBootReady st req v s) := by
  unfold execBootReady
  with_reducible repeat' first
    | (intro _) | assumption | apply ResKeeps.next | apply keeps_bootCmd | apply keeps_wrFld | apply keeps_readyGo | split
    | exact mask_sub hF rfl

theorem keeps_execPfWaitEnd {F : Nat} {s0 s : State} (h0 : Keeps F s0 s) (st : Nat) (high : Nat) (hF : F &&& 0x1f23fb6f3bdfcfff6f8 = 0 := by exact mask_sub (by assumption) rfl) : ResKeeps F s0 (execPfWaitEnd st high s) := by
  unfold execPfWaitEnd
  with_reducible repeat' first
    | assumption | apply ResKeeps.next | apply keeps_clrBit | apply keeps_readyGo | split | exact mask_sub hF rfl

theorem keeps_execLeadWaitExpire {F : Nat} {s0 s : State} (h0 : Keeps F s0 s) (st : Nat) (hF : F &&& 0xf03fb6f3bdfcfff6f8 = 0 := by exact mask_sub (by assumption) rfl) : ResKeeps F s0 (execLeadWaitExpire st s) := by
  unfold execLeadWaitExpire
  with_reducible repeat' first
    | (intro _) | assumption | apply ResKeeps.next | apply keeps_leadClaim | apply keeps_upAll | split | exact mask_sub hF rfl
    | (refine keeps_of_pair (by assumption) ?_)

theorem keeps_execBootWarm {F : Nat} {s0 s : State} (h0 : Keeps F s0 s) (st : Nat) (req : Nat) (v : Nat) (hF : F &&& 0x2ffbfc78fffaff7ffbf8 = 0 := by exact mask_sub (by assumption) rfl) : ResKeeps F s0 (execBootWarm st req v s) := by
  unfold execBootWarm
  with_reducible repeat' first
    | (intro _) | assumption | apply ResKeeps.next | apply keeps_bootCmd | apply keeps_resetWith | exact mask_sub hF rfl

theorem keeps_execBootShutdown {F : Nat} {s0 s : State} (h0 : Keeps F s0 s) (st : Nat) (req : Nat) (v : Nat) (hF : F &&& 0x8c000d90150dc078 = 0 := by exact mask_sub (by assumption) rfl) : ResKeeps F s0 (execBootShutdown st req v s) := by
  unfold execBootShutdown
  with_reducible repeat' first
    | (intro _) | assumption | apply ResKeeps.next | apply keeps_bootCmd | apply keeps_finalEnter | split | apply keeps_mk_shutNormal
    | exact mask_sub hF rfl

theorem keeps_execRootCommit {F : Nat} {s0 s : State} (h0 : Keeps F s0 s) (st : Nat) (req : Nat) (v : Nat) (hF : F &&& 0x50 = 0 := by exact mask_sub (by assumption) rfl) : ResKeeps F s0 (execRootCommit st req v s) := by
  unfold execRootCommit
  with_reducible repeat' first
    | (intro _) | assumption | apply ResKeeps.next | apply keeps_onKey | apply keeps_forEach | apply keeps_wr | split
    | exact mask_sub hF rfl

theorem keeps_kpWrite {F : Nat} {s0 s : State} (h0 : Keeps F s0 s) (die : Nat) (off : Nat) (req : Nat) (f : State → State) (h_f : ∀ u, Keeps F s0 u → Keeps F s0 (f u)) (hF : F &&& 0x50 = 0 := by exact mask_sub (by assumption) rfl) : Keeps F s0 (kpWrite die off req f s) := by
  unfold kpWrite
  with_reducible repeat' first
    | (intro _) | assumption | apply keeps_onKey | apply h_f | split | exact mask_sub hF rfl

theorem keeps_execKpLoadData {F : Nat} {s0 s : State} (h0 : Keeps F s0 s) (die : Nat) (req : Nat) (v : Nat) (hF : F &&& 0x250 = 0 := by exact mask_sub (by assumption) rfl) : ResKeeps F s0 (execKpLoadData die req v s) := by
  unfold execKpLoadData
  with_reducible repeat' first
    | (intro _)
    | (extract_lets +onlyGivenNames x; refine keeps_let (F := F) (s0 := s0) (x := x) (fun _ => ?_) ?_; rotate_left; subst x; rotate_left; clear_value x)
    | (extract_lets +onlyGivenNames x; clear_value x) | assumption | apply ResKeeps.next | apply keeps_kpWrite | apply keeps_setBytes
    | apply keeps_wrFld | apply keeps_clrBit | split | exact mask_sub hF rfl

theorem keeps_execKpVerify {F : Nat} {s0 s : State} (h0 : Keeps F s0 s) (die : Nat) (req : Nat) (v : Nat) (hF : F &&& 0x4000000000000000050 = 0 := by exact mask_sub (by assumption) rfl) : ResKeeps F s0 (execKpVerify die req v s) := by
  unfold execKpVerify
  with_reducible repeat' first
    | (intro _) | assumption | apply ResKeeps.next | apply keeps_kpWrite | split | apply keeps_mk_kpVer | exact mask_sub hF rfl

theorem keeps_execVerifyDone {F : Nat} {s0 s : State} (h0 : Keeps F s0 s) (die : Nat) (hF : F &&& 0x4000000000000000040 = 0 := by exact mask_sub (by assumption) rfl) : ResKeeps F s0 (execVerifyDone die s) := by
  unfold execVerifyDone
  with_reducible repeat' first
    | (intro _)
    | (extract_lets +onlyGivenNames x; refine keeps_let (F := F) (s0 := s0) (x := x) (fun _ => ?_) ?_; rotate_left; subst x; rotate_left; clear_value x)
    | (extract_lets +onlyGivenNames x; clear_value x) | assumption | apply ResKeeps.next | apply keeps_wrFld | apply keeps_putBit | split
    | apply keeps_mk_kpVer | exact mask_sub hF rfl | (refine keeps_of_pair (by assumption) ?_)

theorem keeps_execReqIdle {F : Nat} {s0 s : State} (h0 : Keeps F s0 s) (die : Nat) (req : Nat) (v : Nat) (hF : F &&& 0x8000000000000000050 = 0 := by exact mask_sub (by assumption) rfl) : ResKeeps F s0 (execReqIdle die req v s) := by
  unfold execReqIdle
  with_reducible repeat' first
    | (intro _) | assumption | apply ResKeeps.next | apply keeps_kpWrite | apply keeps_forEach | split | apply keeps_mk_kpReq
    | exact mask_sub hF rfl

theorem keeps_kpHold {F : Nat} {s0 s : State} (h0 : Keeps F s0 s) (die : Nat) (core : Nat) (hF : F &&& 0x40 = 0 := by exact mask_sub (by assumption) rfl) : Keeps F s0 (State.kpHold s die core) := by
  unfold State.kpHold
  with_reducible repeat' first
    | assumption | apply keeps_setBit | apply keeps_keeperReset | exact mask_sub hF rfl

theorem keeps_execKpIdle {F : Nat} {s0 s : State} (h0 : Keeps F s0 s) (die : Nat) (req : Nat) (v : Nat) (hF : F &&& 0x8000000000000000050 = 0 := by exact mask_sub (by assumption) rfl) : ResKeeps F s0 (execKpIdle die req v s) := by
  unfold execKpIdle
  with_reducible repeat' first
    | (intro _)
    | (extract_lets +onlyGivenNames x; refine keeps_let (F := F) (s0 := s0) (x := x) (fun _ => ?_) ?_; rotate_left; subst x; rotate_left; clear_value x)
    | (extract_lets +onlyGivenNames x; clear_value x) | assumption | apply ResKeeps.next | apply keeps_kpWrite | apply keeps_setBit
    | apply keeps_kpHold | split | apply keeps_mk_kpReq | exact mask_sub hF rfl

theorem keeps_execKpHoldWrite {F : Nat} {s0 s : State} (h0 : Keeps F s0 s) (die : Nat) (req : Nat) (v : Nat) (hF : F &&& 0x50 = 0 := by exact mask_sub (by assumption) rfl) : ResKeeps F s0 (execKpHoldWrite die req v s) := by
  unfold execKpHoldWrite
  with_reducible repeat' first
    | (intro _) | assumption | apply ResKeeps.next | apply keeps_kpWrite | apply keeps_forEach | apply keeps_kpHold | apply keeps_clrBit
    | split | exact mask_sub hF rfl

end Sys2Proof.Machine
end

