-- ==== Sys2Proof/Laws/KeepsReturn.lean ====
section
/-! SUPPORT. What the operations of Machine/Return.lean keep (`Keeps`), one lemma each. -/
namespace Sys2Proof.Machine
set_option Elab.async false

theorem keeps_mooredReturn {F : Nat} {s0 s : State} (h0 : Keeps F s0 s) (die : Nat) (st : Nat) (hF : F &&& 0x4003181bc05d468 = 0 := by exact mask_sub (by assumption) rfl) : Keeps F s0 (State.mooredReturn s die st) := by
  unfold State.mooredReturn
  with_reducible repeat' first
    | (intro _)
    | (extract_lets +onlyGivenNames x; refine keeps_let (F := F) (s0 := s0) (x := x) (fun _ => ?_) ?_; rotate_left; subst x; rotate_left; clear_value x)
    | (extract_lets +onlyGivenNames x; clear_value x) | assumption | apply keeps_clrBit | apply keeps_setBit | apply keeps_rejoinTime
    | apply keeps_setLead | apply keeps_replayQueue | apply keeps_nextEpoch | apply keeps_recoverDie | apply keeps_restartGo
    | apply keeps_health | split | exact mask_sub hF rfl

theorem keeps_adoptDie {F : Nat} {s0 s : State} (h0 : Keeps F s0 s) (die : Nat) (hF : F &&& 0xf02fb6f3bdfcfff6f8 = 0 := by exact mask_sub (by assumption) rfl) : Keeps F s0 (State.adoptDie s die) := by
  unfold State.adoptDie
  with_reducible repeat' first
    | (intro _)
    | (extract_lets +onlyGivenNames x; refine keeps_let (F := F) (s0 := s0) (x := x) (fun _ => ?_) ?_; rotate_left; subst x; rotate_left; clear_value x)
    | (extract_lets +onlyGivenNames x; clear_value x) | assumption | apply keeps_forEach | apply keeps_storeObj | apply keeps_applySet
    | apply keeps_setBit | split | exact mask_sub hF rfl | (refine keeps_of_pair (by assumption) ?_)

theorem keeps_restartFences {F : Nat} {s0 s : State} (h0 : Keeps F s0 s) (die : Nat) (hF : F &&& 0x10c044068 = 0 := by exact mask_sub (by assumption) rfl) : Keeps F s0 (State.restartFences s die) := by
  unfold State.restartFences
  with_reducible repeat' first
    | (intro _)
    | (extract_lets +onlyGivenNames x; refine keeps_let (F := F) (s0 := s0) (x := x) (fun _ => ?_) ?_; rotate_left; subst x; rotate_left; clear_value x)
    | (extract_lets +onlyGivenNames x; clear_value x) | assumption | apply keeps_forEach | apply keeps_nextEpoch | apply keeps_pushFence
    | exact mask_sub hF rfl

theorem keeps_dieBack {F : Nat} {s0 s : State} (h0 : Keeps F s0 s) (die : Nat) (hF : F &&& 0xf02fb6f3bdfcfff6f8 = 0 := by exact mask_sub (by assumption) rfl) : Keeps F s0 (State.dieBack s die) := by
  unfold State.dieBack
  with_reducible repeat' first
    | (intro _)
    | (extract_lets +onlyGivenNames x; refine keeps_let (F := F) (s0 := s0) (x := x) (fun _ => ?_) ?_; rotate_left; subst x; rotate_left; clear_value x)
    | (extract_lets +onlyGivenNames x; clear_value x) | assumption | apply keeps_health | apply keeps_adoptDie | apply keeps_restartFences
    | split | apply keeps_mk_lostDies | exact mask_sub hF rfl

theorem keeps_peerBack {F : Nat} {s0 s : State} (h0 : Keeps F s0 s) (st : Nat) (hF : F &&& 0x40b00000405c2e8 = 0 := by exact mask_sub (by assumption) rfl) : Keeps F s0 (State.peerBack s st) := by
  unfold State.peerBack
  with_reducible repeat' first
    | (intro _)
    | (extract_lets +onlyGivenNames x; refine keeps_let (F := F) (s0 := s0) (x := x) (fun _ => ?_) ?_; rotate_left; subst x; rotate_left; clear_value x)
    | (extract_lets +onlyGivenNames x; clear_value x) | assumption | apply keeps_endPlanned | apply keeps_setBit | apply keeps_health
    | apply keeps_copyToPartner | apply keeps_upAll | split | apply keeps_mk_declared_peerUpAt | exact mask_sub hF rfl

theorem keeps_execHeartbeatRx {F : Nat} {s0 s : State} (h0 : Keeps F s0 s) (die : Nat) (m : Nat) (hF : F &&& 0xf02fbff3bdfcfff6f8 = 0 := by exact mask_sub (by assumption) rfl) : ResKeeps F s0 (execHeartbeatRx die m s) := by
  unfold execHeartbeatRx
  with_reducible repeat' first
    | (intro _)
    | (extract_lets +onlyGivenNames x; refine keeps_let (F := F) (s0 := s0) (x := x) (fun _ => ?_) ?_; rotate_left; subst x; rotate_left; clear_value x)
    | (extract_lets +onlyGivenNames x; clear_value x) | assumption | apply ResKeeps.next | apply keeps_updHb | apply keeps_setBit
    | apply keeps_endPlanned | apply keeps_mooredReturn | apply keeps_putBit | apply keeps_dieBack | apply keeps_uxJudge
    | apply keeps_moduleJudge | apply keeps_peerBack | apply keeps_forEach | split | apply keeps_mk_modLost | exact mask_sub hF rfl
    | (refine keeps_of_pair (by assumption) ?_)

theorem keeps_execReturnHoldExpire {F : Nat} {s0 s : State} (h0 : Keeps F s0 s) (st : Nat) (hF : F &&& 0x4000000b405c068 = 0 := by exact mask_sub (by assumption) rfl) : ResKeeps F s0 (execReturnHoldExpire st s) := by
  unfold execReturnHoldExpire
  with_reducible repeat' first
    | (intro _)
    | (extract_lets +onlyGivenNames x; refine keeps_let (F := F) (s0 := s0) (x := x) (fun _ => ?_) ?_; rotate_left; subst x; rotate_left; clear_value x)
    | (extract_lets +onlyGivenNames x; clear_value x) | assumption | apply ResKeeps.next | apply keeps_forEach | apply keeps_moveQueue
    | apply keeps_reducedJudge | split | exact mask_sub hF rfl

end Sys2Proof.Machine
end

