-- ==== Sys2Proof/Laws/KeepsBus.lean ====
section
/-! SUPPORT. What the operations of Machine/Bus.lean keep (`Keeps`), one lemma each. -/
namespace Sys2Proof.Machine
set_option Elab.async false

theorem keeps_writeKp {F : Nat} {s0 s : State} (h0 : Keeps F s0 s) (die : Nat) (x : Nat) (req : Nat) (v : Nat) (hF : F &&& 0xcf02db6f39dfcfff6f8 = 0 := by exact mask_sub (by assumption) rfl) : Keeps F s0 (State.writeKp s die x req v) := by
  unfold State.writeKp
  with_reducible repeat' first
    | (intro _)
    | (extract_lets +onlyGivenNames x; refine keeps_let (F := F) (s0 := s0) (x := x) (fun _ => ?_) ?_; rotate_left; subst x; rotate_left; clear_value x)
    | (extract_lets +onlyGivenNames x; refine keeps_let1 (F := F) (s0 := s0) (x := x) (fun _ => ?_) ?_; rotate_left; subst x; rotate_left; clear_value x)
    | (extract_lets +onlyGivenNames x; clear_value x) | (extract_lets +onlyGivenNames x; subst x) | assumption | apply keeps_runs_cons
    | apply keeps_runs_nil | apply keeps_run | apply keeps_execKpHoldWrite | apply keeps_execKpLoadData | apply keeps_runs
    | apply keeps_execKpVerify | apply keeps_execReqIdle | apply keeps_execKpIdle | apply keeps_writeReg | split | exact mask_sub hF rfl
    | (refine keeps_of_pair (by assumption) ?_)

theorem keeps_writeWord {F : Nat} {s0 s : State} (h0 : Keeps F s0 s) (key : Nat) (req : Nat) (v : Nat) (hF : F &&& 0x2ffbfffffffffffffff8 = 0 := by exact mask_sub (by assumption) rfl) : Keeps F s0 (State.writeWord s key req v) := by
  unfold State.writeWord
  with_reducible repeat' first
    | (extract_lets +onlyGivenNames x; refine keeps_let (F := F) (s0 := s0) (x := x) (fun _ => ?_) ?_; rotate_left; subst x; rotate_left; clear_value x)
    | (extract_lets +onlyGivenNames x; clear_value x) | (intro _) | assumption | apply keeps_runs_cons | apply keeps_runs_nil
    | apply keeps_writeKp | apply keeps_writeReg | apply keeps_runs | apply keeps_execBootReady | apply keeps_execBootWarm
    | apply keeps_execBootShutdown | apply keeps_execBootRetry | apply keeps_run | apply keeps_execRootCommit
    | apply keeps_execPlannedStop | apply keeps_execPeerReset | apply keeps_execCancelStop | apply keeps_execMbRelease
    | apply keeps_execMbRequest | apply keeps_wrN | apply keeps_execDoorbell | split | exact mask_sub hF rfl

theorem keeps_popRead {F : Nat} {s0 s : State} (h0 : Keeps F s0 s) (die : Nat) (q : Nat) (n : Nat) (err : PopErr) (hF : F &&& 0x44048 = 0 := by exact mask_sub (by assumption) rfl) : Keeps F s0 (State.popRead s die q n err).1 := by
  unfold State.popRead
  with_reducible repeat' first
    | (intro _)
    | (extract_lets +onlyGivenNames x; refine keeps_let (F := F) (s0 := s0) (x := x) (fun _ => ?_) ?_; rotate_left; subst x; rotate_left; clear_value x)
    | (extract_lets +onlyGivenNames x; refine keeps_let1 (F := F) (s0 := s0) (x := x) (fun _ => ?_) ?_; rotate_left; subst x; rotate_left; clear_value x)
    | (extract_lets +onlyGivenNames x; clear_value x) | (extract_lets +onlyGivenNames x; subst x) | assumption | apply keeps_popErr
    | apply keeps_popBytes | apply keeps_inc | split | exact mask_sub hF rfl | (refine keeps_of_pair (by assumption) ?_)

theorem keeps_readAt {F : Nat} {s0 : State} (hF : F &&& 0x6000000000000c5158 = 0) (f : State → Nat → Place) (req : Nat) : ∀ (fuel : Nat) (err : PopErr) (a n : Nat) {s : State}, Keeps F s0 s →
    Keeps F s0 (State.readAt f req err fuel a n s).1
  | 0, _, _, _, _, h => h
  | fuel + 1, err, a, n, s, h => by
    unfold State.readAt
    split
    · exact h
    · extract_lets k4 step
      have hs : Keeps F s0 step.1 := by
        subst step
        split
        · exact h
        · exact keeps_readReg h _ _
        · split
          · exact keeps_popRead h _ _ _ _
          · exact h
        · exact keeps_skipFree h _
      clear_value step
      split
      · exact hs
      · exact keeps_readAt (mask_sub hF rfl) f req fuel _ _ _ hs

theorem keeps_writeAt {F : Nat} {s0 : State} (hF : F &&& 0x2ffbfffffffffffffff8 = 0) (f : State → Nat → Place) (w : Writer) : ∀ (fuel a : Nat) (bs : List Byte) {s : State}, Keeps F s0 s →
    Keeps F s0 (State.writeAt f w fuel a bs s).1
  | 0, _, _, _, h => h
  | fuel + 1, a, bs, s, h => by
    unfold State.writeAt
    split
    · exact h
    · extract_lets k4 step
      have hs : Keeps F s0 step.1 := by
        subst step
        split
        · exact h
        · split
          · exact keeps_writeWord h _ _ _
          · exact h
        · exact h
        · split
          · exact h
          · exact keeps_setBytes (mask_sub hF rfl) _ _ _ h
        · exact h
        · exact h
        · split
          · exact h
          · split
            · exact keeps_run h _ (fun u hu => keeps_execPushWrite hu _ _ _ _)
            · split
              · exact keeps_run h _ (fun u hu => keeps_execPushEnd hu _ _ _ _)
              · exact keeps_run h _ (fun u hu => keeps_execBasinBadAccess hu _ _)
        · exact keeps_run h _ (fun u hu => keeps_execDirectWrite hu _ _ _)
        · exact keeps_emit h _ _ _
        · exact keeps_hostWrite h _ _
      clear_value step
      split
      · exact hs
      · exact keeps_writeAt (mask_sub hF rfl) f w fuel _ _ hs

theorem keeps_readSized {F : Nat} {s0 s : State} (h0 : Keeps F s0 s) (f : State → Nat → Place) (req : Nat) (a : Nat) (size : AccSize) (hF : F &&& 0x6000000000000c5158 = 0 := by exact mask_sub (by assumption) rfl) : Keeps F s0 (State.readSized s f req a size).1 := by
  unfold State.readSized
  with_reducible repeat' first
    | (intro _)
    | (extract_lets +onlyGivenNames x; refine keeps_let (F := F) (s0 := s0) (x := x) (fun _ => ?_) ?_; rotate_left; subst x; rotate_left; clear_value x)
    | (extract_lets +onlyGivenNames x; refine keeps_let1 (F := F) (s0 := s0) (x := x) (fun _ => ?_) ?_; rotate_left; subst x; rotate_left; clear_value x)
    | (extract_lets +onlyGivenNames x; clear_value x) | (extract_lets +onlyGivenNames x; subst x) | assumption | apply keeps_readAt
    | apply h_f | split | exact mask_sub hF rfl | (refine keeps_of_pair (by assumption) ?_)

theorem keeps_writeSized {F : Nat} {s0 s : State} (h0 : Keeps F s0 s) (f : State → Nat → Place) (w : Writer) (a : Nat) (size : AccSize) (v : Nat) (hF : F &&& 0x2ffbfffffffffffffff8 = 0 := by exact mask_sub (by assumption) rfl) : Keeps F s0 (State.writeSized s f w a size v).1 := by
  unfold State.writeSized
  with_reducible repeat' first
    | (intro _)
    | (extract_lets +onlyGivenNames x; refine keeps_let (F := F) (s0 := s0) (x := x) (fun _ => ?_) ?_; rotate_left; subst x; rotate_left; clear_value x)
    | (extract_lets +onlyGivenNames x; refine keeps_let1 (F := F) (s0 := s0) (x := x) (fun _ => ?_) ?_; rotate_left; subst x; rotate_left; clear_value x)
    | (extract_lets +onlyGivenNames x; clear_value x) | (extract_lets +onlyGivenNames x; subst x) | assumption | apply keeps_writeAt
    | apply h_f | split | exact mask_sub hF rfl | (refine keeps_of_pair (by assumption) ?_)

theorem keeps_endAccess {F : Nat} {s0 s : State} (h0 : Keeps F s0 s) (req : Nat) (addr : Nat) (status : Nat) (r : Resp) (hF : F &&& 0x50 = 0 := by exact mask_sub (by assumption) rfl) : Keeps F s0 (State.endAccess s req addr status r) := by
  unfold State.endAccess
  with_reducible repeat' first
    | assumption | apply keeps_respond | apply keeps_accessFault | split | exact mask_sub hF rfl

theorem keeps_cutLines {F : Nat} {s0 s : State} (h0 : Keeps F s0 s) (st : Nat) (m : Nat) (a : Nat) (n : Nat) (hF : F &&& 0x800000040 = 0 := by exact mask_sub (by assumption) rfl) : Keeps F s0 (State.cutLines s st m a n) := by
  unfold State.cutLines
  with_reducible repeat' first
    | (intro _) | assumption | apply keeps_dropLines | split | exact mask_sub hF rfl

theorem keeps_lineHit {F : Nat} {s0 s t : State} {st m a n : Nat} (e : s.lineHit st m a n = some t) (h0 : Keeps F s0 s) (hF : F &&& 0x800000050 = 0 := by exact mask_sub (by assumption) rfl) : Keeps F s0 t := by
  unfold State.lineHit at e
  split at e
  · cases e; exact keeps_respond (keeps_inc (keeps_updMod h0 _ _ _) _) _
  · cases e

theorem keeps_lineHit_if {F : Nat} {s0 s t : State} {st m a n : Nat} {b : Bool} (e : (if b = true then s.lineHit st m a n else none) = some t)
    (h0 : Keeps F s0 s) (hF : F &&& 0x800000050 = 0 := by exact mask_sub (by assumption) rfl) : Keeps F s0 t := by
  rcases ite_some e with e | e
  · exact keeps_lineHit e h0
  · cases e

theorem keeps_keepLine {F : Nat} {s0 s : State} (h0 : Keeps F s0 s) (st : Nat) (m : Nat) (l : PfLine) (hF : F &&& 0x800000040 = 0 := by exact mask_sub (by assumption) rfl) : Keeps F s0 (State.keepLine s st m l) := by
  unfold State.keepLine
  with_reducible repeat' first
    | (intro _)
    | (extract_lets +onlyGivenNames x; refine keeps_let (F := F) (s0 := s0) (x := x) (fun _ => ?_) ?_; rotate_left; subst x; rotate_left; clear_value x)
    | (extract_lets +onlyGivenNames x; clear_value x) | assumption | apply keeps_dropLines | apply keeps_updMod | split
    | exact mask_sub hF rfl

theorem keeps_regWriteOne {F : Nat} {s0 s : State} (h0 : Keeps F s0 s) (die : Nat) (off : Nat) (req : Nat) (size : AccSize) (v : Nat) (hF : F &&& 0x2ffbfffffffffffffff8 = 0 := by exact mask_sub (by assumption) rfl) : Keeps F s0 (State.regWriteOne s die off req size v) := by
  unfold State.regWriteOne
  with_reducible repeat' first
    | (intro _)
    | (extract_lets +onlyGivenNames x; refine keeps_let (F := F) (s0 := s0) (x := x) (fun _ => ?_) ?_; rotate_left; subst x; rotate_left; clear_value x)
    | (extract_lets +onlyGivenNames x; refine keeps_let1 (F := F) (s0 := s0) (x := x) (fun _ => ?_) ?_; rotate_left; subst x; rotate_left; clear_value x)
    | (extract_lets +onlyGivenNames x; clear_value x) | (extract_lets +onlyGivenNames x; subst x) | assumption | apply keeps_cutLines
    | apply keeps_writeSized | apply keeps_endAccess | split | exact mask_sub hF rfl | (refine keeps_of_pair (by assumption) ?_)

theorem keeps_regReadPlain {F : Nat} {s0 s : State} (h0 : Keeps F s0 s) (die : Nat) (off : Nat) (req : Nat) (size : AccSize) (hF : F &&& 0x6000000000000c5158 = 0 := by exact mask_sub (by assumption) rfl) : Keeps F s0 (State.regReadPlain s die off req size) := by
  unfold State.regReadPlain
  with_reducible repeat' first
    | (intro _)
    | (extract_lets +onlyGivenNames x; refine keeps_let (F := F) (s0 := s0) (x := x) (fun _ => ?_) ?_; rotate_left; subst x; rotate_left; clear_value x)
    | (extract_lets +onlyGivenNames x; refine keeps_let1 (F := F) (s0 := s0) (x := x) (fun _ => ?_) ?_; rotate_left; subst x; rotate_left; clear_value x)
    | (extract_lets +onlyGivenNames x; clear_value x) | (extract_lets +onlyGivenNames x; subst x) | assumption | apply keeps_readSized
    | apply keeps_endAccess | split | exact mask_sub hF rfl | (refine keeps_of_pair (by assumption) ?_)

theorem keeps_regReadOne {F : Nat} {s0 s : State} (h0 : Keeps F s0 s) (die : Nat) (off : Nat) (req : Nat) (size : AccSize) (hF : F &&& 0x6000000008000c5158 = 0 := by exact mask_sub (by assumption) rfl) : Keeps F s0 (State.regReadOne s die off req size) := by
  unfold State.regReadOne
  with_reducible repeat' first
    | (intro _)
    | (extract_lets +onlyGivenNames x; refine keeps_let (F := F) (s0 := s0) (x := x) (fun _ => ?_) ?_; rotate_left; subst x; rotate_left; clear_value x)
    | (extract_lets +onlyGivenNames x; refine keeps_let1 (F := F) (s0 := s0) (x := x) (fun _ => ?_) ?_; rotate_left; subst x; rotate_left; clear_value x)
    | (extract_lets +onlyGivenNames x; clear_value x) | (extract_lets +onlyGivenNames x; subst x) | assumption
    | (refine keeps_lineHit_if (by assumption) ?_) | apply keeps_regReadPlain | (refine keeps_lineHit (by assumption) ?_)
    | apply keeps_readAt | apply keeps_endAccess | apply keeps_keepLine | apply keeps_respond | split | exact mask_sub hF rfl
    | (refine keeps_of_pair (by assumption) ?_)

theorem keeps_rivalAccess {F : Nat} {s0 s : State} (h0 : Keeps F s0 s) (die : Nat) (r : Rival) (hF : F &&& 0x2ffbfffffffffffffff8 = 0 := by exact mask_sub (by assumption) rfl) : Keeps F s0 (State.rivalAccess s die r) := by
  unfold State.rivalAccess
  with_reducible repeat' first
    | assumption | apply keeps_regWriteOne | apply keeps_regReadOne | split | exact mask_sub hF rfl
    | (refine keeps_of_pair (by assumption) ?_)

theorem keeps_withRival {F : Nat} {s0 s : State} (h0 : Keeps F s0 s) (die : Nat) (off : Nat) (req : Nat) (rival : Option Rival) (own : State → State) (h_own : ∀ u, Keeps F s0 u → Keeps F s0 (own u)) (hF : F &&& 0x2ffbfffffffffffffff8 = 0 := by exact mask_sub (by assumption) rfl) : Keeps F s0 (State.withRival s die off req rival own) := by
  unfold State.withRival
  with_reducible repeat' first
    | (intro _)
    | (extract_lets +onlyGivenNames x; refine keeps_let (F := F) (s0 := s0) (x := x) (fun _ => ?_) ?_; rotate_left; subst x; rotate_left; clear_value x)
    | (extract_lets +onlyGivenNames x; clear_value x) | assumption | apply keeps_rivalAccess | apply keeps_respond | apply h_own | split
    | apply keeps_mk_ubFirst | exact mask_sub hF rfl | (refine keeps_of_pair (by assumption) ?_)

theorem keeps_semBoth {F : Nat} {s0 s : State} (h0 : Keeps F s0 s) (die n req v req2 v2 : Nat)
    (hF : F &&& 0x50 = 0 := by exact mask_sub (by assumption) rfl) : Keeps F s0 (s.semBoth die n req v req2 v2) := by
  unfold State.semBoth
  extract_lets rel s1
  have hr : ∀ (u : State) (r w : Nat), Keeps F s0 u → Keeps F s0 (rel u r w) := by
    intro u r w hu
    subst rel; dsimp only
    split
    · exact keeps_run hu _ (fun u hu => keeps_execSemRel hu _ _ _)
    · exact hu
  have h1 : Keeps F s0 s1 := hr _ _ _ (hr _ _ _ h0)
  clear_value s1
  repeat' split
  all_goals first | exact h1 | exact keeps_run h1 _ (fun u hu => keeps_execSemAcq hu _ _ _ _)

theorem keeps_execRegWrite {F : Nat} {s0 s : State} (h0 : Keeps F s0 s) (die : Nat) (off : Nat) (req : Nat) (size : AccSize) (v : Nat) (rival : Option Rival) (hF : F &&& 0x2ffbfffffffffffffff8 = 0 := by exact mask_sub (by assumption) rfl) : ResKeeps F s0 (execRegWrite die off req size v rival s) := by
  unfold execRegWrite
  with_reducible repeat' first
    | (intro _) | assumption | apply ResKeeps.next | apply keeps_semBoth | apply keeps_respond | apply keeps_withRival
    | apply keeps_regWriteOne | split | exact mask_sub hF rfl | (refine keeps_of_pair (by assumption) ?_)

theorem keeps_execRcRead {F : Nat} {s0 s : State} (h0 : Keeps F s0 s) (die : Nat) (off : Nat) (req : Nat) (size : AccSize) (rival : Option Rival) (hF : F &&& 0x2ffbfffffffffffffff8 = 0 := by exact mask_sub (by assumption) rfl) : ResKeeps F s0 (execRcRead die off req size rival s) := by
  unfold execRcRead
  with_reducible repeat' first
    | (intro _) | assumption | apply ResKeeps.next | apply keeps_withRival | apply keeps_regReadOne | exact mask_sub hF rfl

theorem keeps_execCounterPairRead {F : Nat} {s0 s : State} (h0 : Keeps F s0 s) (die : Nat) (off : Nat) (req : Nat) (hF : F &&& 0x6000000000000c5158 = 0 := by exact mask_sub (by assumption) rfl) : ResKeeps F s0 (execCounterPairRead die off req s) := by
  unfold execCounterPairRead
  with_reducible repeat' first
    | (intro _)
    | (extract_lets +onlyGivenNames x; refine keeps_let (F := F) (s0 := s0) (x := x) (fun _ => ?_) ?_; rotate_left; subst x; rotate_left; clear_value x)
    | (extract_lets +onlyGivenNames x; refine keeps_let1 (F := F) (s0 := s0) (x := x) (fun _ => ?_) ?_; rotate_left; subst x; rotate_left; clear_value x)
    | (extract_lets +onlyGivenNames x; clear_value x) | (extract_lets +onlyGivenNames x; subst x) | assumption | apply ResKeeps.next
    | apply keeps_readSized | apply keeps_endAccess | split | exact mask_sub hF rfl | (refine keeps_of_pair (by assumption) ?_)

theorem keeps_takeWr {F : Nat} {s0 s : State} (h0 : Keeps F s0 s) (die : Nat) (m : Nat) (w : PendWr) (hF : F &&& 0x2ffbfffffffffffffff8 = 0 := by exact mask_sub (by assumption) rfl) : Keeps F s0 (State.takeWr s die m w) := by
  unfold State.takeWr
  with_reducible repeat' first
    | (intro _)
    | (extract_lets +onlyGivenNames x; refine keeps_let (F := F) (s0 := s0) (x := x) (fun _ => ?_) ?_; rotate_left; subst x; rotate_left; clear_value x)
    | (extract_lets +onlyGivenNames x; refine keeps_let1 (F := F) (s0 := s0) (x := x) (fun _ => ?_) ?_; rotate_left; subst x; rotate_left; clear_value x)
    | (extract_lets +onlyGivenNames x; clear_value x) | (extract_lets +onlyGivenNames x; subst x) | assumption | apply keeps_sendTxn
    | apply keeps_updMod | apply keeps_writeAt | apply keeps_cutLines | apply keeps_endAccess | split | exact mask_sub hF rfl
    | (refine keeps_of_pair (by assumption) ?_)

theorem keeps_execOdvelWrRx {F : Nat} {s0 s : State} (h0 : Keeps F s0 s) (die : Nat) (m : Nat) (req : Nat) (addr : Nat) (data : List Byte) (hF : F &&& 0x2ffbfffffffffffffff8 = 0 := by exact mask_sub (by assumption) rfl) : ResKeeps F s0 (execOdvelWrRx die m req addr data s) := by
  unfold execOdvelWrRx
  with_reducible repeat' first
    | (intro _)
    | (extract_lets +onlyGivenNames x; refine keeps_let (F := F) (s0 := s0) (x := x) (fun _ => ?_) ?_; rotate_left; subst x; rotate_left; clear_value x)
    | (extract_lets +onlyGivenNames x; clear_value x) | assumption | apply ResKeeps.next | apply keeps_accessFault | apply keeps_updMod
    | apply keeps_takeWr | split | exact mask_sub hF rfl

theorem keeps_resend {F : Nat} {s0 s : State} (h0 : Keeps F s0 s) (die : Nat) (m : Nat) (hF : F &&& 0x2ffbfffffffffffffff8 = 0 := by exact mask_sub (by assumption) rfl) : Keeps F s0 (State.resend s die m) := by
  unfold State.resend
  with_reducible repeat' first
    | (intro _)
    | (extract_lets +onlyGivenNames x; refine keeps_let (F := F) (s0 := s0) (x := x) (fun _ => ?_) ?_; rotate_left; subst x; rotate_left; clear_value x)
    | (extract_lets +onlyGivenNames x; clear_value x) | assumption | apply keeps_forEach | apply keeps_updMod | apply keeps_takeWr
    | exact mask_sub hF rfl

theorem keeps_execModuleRetrainDone {F : Nat} {s0 s : State} (h0 : Keeps F s0 s) (die : Nat) (m : Nat) (width : Nat) (hF : F &&& 0x2ffbfffffffffffffff8 = 0 := by exact mask_sub (by assumption) rfl) : ResKeeps F s0 (execModuleRetrainDone die m width s) := by
  unfold execModuleRetrainDone
  with_reducible repeat' first
    | (extract_lets +onlyGivenNames x; refine keeps_let (F := F) (s0 := s0) (x := x) (fun _ => ?_) ?_; rotate_left; subst x; rotate_left; clear_value x)
    | (extract_lets +onlyGivenNames x; clear_value x) | (intro _) | assumption | apply ResKeeps.next | apply keeps_modEnter
    | apply keeps_wrFld | apply keeps_resend | apply keeps_endReads | split | exact mask_sub hF rfl

theorem keeps_execOdvelRdRx {F : Nat} {s0 s : State} (h0 : Keeps F s0 s) (die : Nat) (m : Nat) (req : Nat) (tag : Nat) (addr : Nat) (len : Nat) (hF : F &&& 0x6000000008000c5178 = 0 := by exact mask_sub (by assumption) rfl) : ResKeeps F s0 (execOdvelRdRx die m req tag addr len s) := by
  unfold execOdvelRdRx
  with_reducible repeat' first
    | (intro _)
    | (extract_lets +onlyGivenNames x; refine keeps_let (F := F) (s0 := s0) (x := x) (fun _ => ?_) ?_; rotate_left; subst x; rotate_left; clear_value x)
    | (extract_lets +onlyGivenNames x; refine keeps_let1 (F := F) (s0 := s0) (x := x) (fun _ => ?_) ?_; rotate_left; subst x; rotate_left; clear_value x)
    | (extract_lets +onlyGivenNames x; clear_value x) | (extract_lets +onlyGivenNames x; subst x) | assumption | apply ResKeeps.next
    | (refine keeps_lineHit_if (by assumption) ?_) | apply keeps_accessFault | (refine keeps_lineHit (by assumption) ?_)
    | apply keeps_sendTxn | apply keeps_updMod | apply keeps_readAt | split | exact mask_sub hF rfl
    | (refine keeps_of_pair (by assumption) ?_)

theorem keeps_execOdvelCplRx {F : Nat} {s0 s : State} (h0 : Keeps F s0 s) (die : Nat) (m : Nat) (tag : Nat) (hF : F &&& 0x800000070 = 0 := by exact mask_sub (by assumption) rfl) : ResKeeps F s0 (execOdvelCplRx die m tag s) := by
  unfold execOdvelCplRx
  with_reducible repeat' first
    | (intro _)
    | (extract_lets +onlyGivenNames x; refine keeps_let (F := F) (s0 := s0) (x := x) (fun _ => ?_) ?_; rotate_left; subst x; rotate_left; clear_value x)
    | (extract_lets +onlyGivenNames x; clear_value x) | assumption | apply ResKeeps.next | apply keeps_updMod | apply keeps_sendTxn
    | apply keeps_rdFault | apply keeps_respond | apply keeps_keepLine | split | exact mask_sub hF rfl
    | (refine keeps_of_pair (by assumption) ?_)

theorem keeps_writeRuns {F : Nat} {s0 : State} (hF : F &&& 0x2ffbfffffffffffffff8 = 0) (f : State → Nat → Place) (w : Writer) : ∀ (l : List (Nat × List Byte)) {s : State}, Keeps F s0 s →
    Keeps F s0 (State.writeRuns f w l s).1
  | [], _, h => h
  | (a, bs) :: t, s, h => by
    have hr := keeps_writeAt (mask_sub hF rfl) f w bs.length a bs h
    unfold State.writeRuns
    extract_lets r
    split
    · exact hr
    · exact keeps_writeRuns (mask_sub hF rfl) f w t hr

theorem keeps_readRuns {F : Nat} {s0 : State} (hF : F &&& 0x6000000000000c5158 = 0) (f : State → Nat → Place) : ∀ (l : List (Nat × List Byte)) (err : PopErr) {s : State}, Keeps F s0 s →
    Keeps F s0 (State.readRuns f err l s).1
  | [], _, _, h => h
  | (a, bs) :: t, err, s, h => by
    have hr := keeps_readAt (mask_sub hF rfl) f 0x10 bs.length err a bs.length h
    unfold State.readRuns
    extract_lets r
    split
    · exact hr
    · exact keeps_readRuns (mask_sub hF rfl) f t .none hr

theorem keeps_stepData {F : Nat} {s0 s : State} (h0 : Keeps F s0 s) (die : Nat) (m : MoveRun) (n : Nat) (err : PopErr) (hF : F &&& 0x6000000000000c5158 = 0 := by exact mask_sub (by assumption) rfl) : Keeps F s0 (State.stepData s die m n err).1 := by
  unfold State.stepData
  with_reducible repeat' first
    | (intro _)
    | (extract_lets +onlyGivenNames x; refine keeps_let (F := F) (s0 := s0) (x := x) (fun _ => ?_) ?_; rotate_left; subst x; rotate_left; clear_value x)
    | (extract_lets +onlyGivenNames x; refine keeps_let1 (F := F) (s0 := s0) (x := x) (fun _ => ?_) ?_; rotate_left; subst x; rotate_left; clear_value x)
    | (extract_lets +onlyGivenNames x; clear_value x) | (extract_lets +onlyGivenNames x; subst x) | assumption | apply keeps_popRead
    | apply keeps_readRuns | split | exact mask_sub hF rfl | (refine keeps_of_pair (by assumption) ?_)

theorem keeps_stepDone {F : Nat} {s0 s : State} (h0 : Keeps F s0 s) (die : Nat) (e : Nat) (c : Nat) (m : MoveRun) (n : Nat) (acc : Nat) (data : List Byte) (hF : F &&& 0x90000040 = 0 := by exact mask_sub (by assumption) rfl) : Keeps F s0 (State.stepDone s die e c m n acc data) := by
  unfold State.stepDone
  with_reducible repeat' first
    | (intro _)
    | (extract_lets +onlyGivenNames x; refine keeps_let (F := F) (s0 := s0) (x := x) (fun _ => ?_) ?_; rotate_left; subst x; rotate_left; clear_value x)
    | (extract_lets +onlyGivenNames x; clear_value x) | assumption | apply keeps_setTotal | apply keeps_setCredit | apply keeps_forEach
    | apply keeps_ledgerFeed | apply keeps_addSat | apply keeps_updChan | apply keeps_goPc | apply keeps_recFree | split
    | exact mask_sub hF rfl

theorem keeps_tryStep {F : Nat} {s0 s : State} (h0 : Keeps F s0 s) (die : Nat) (e : Nat) (c : Nat) (m : MoveRun) (err : PopErr) (hF : F &&& 0x2ffbfffffffffffffff8 = 0 := by exact mask_sub (by assumption) rfl) : Keeps F s0 (State.tryStep s die e c m err).1 := by
  unfold State.tryStep
  with_reducible repeat' first
    | (intro _)
    | (extract_lets +onlyGivenNames x; refine keeps_let (F := F) (s0 := s0) (x := x) (fun _ => ?_) ?_; rotate_left; subst x; (try dsimp -zeta only); rotate_left; clear_value x)
    | (extract_lets +onlyGivenNames x; refine keeps_let1 (F := F) (s0 := s0) (x := x) (fun _ => ?_) ?_; rotate_left; subst x; (try dsimp -zeta only); rotate_left; clear_value x)
    | (extract_lets +onlyGivenNames x; refine keeps_letF (F := F) (s0 := s0) (x := x) (fun hf => ?_) ?_; rotate_left; subst x; (try dsimp -zeta only); rotate_left; clear_value x)
    | (extract_lets +onlyGivenNames x; refine keeps_letF2 (F := F) (s0 := s0) (x := x) (fun hf => ?_) ?_; rotate_left; subst x; (try dsimp -zeta only); rotate_left; clear_value x)
    | (extract_lets +onlyGivenNames x; refine keeps_letN (F := F) (s0 := s0) (x := x) (fun hf => ?_) ?_; rotate_left; subst x; (try dsimp -zeta only); rotate_left; clear_value x)
    | (extract_lets +onlyGivenNames x; clear_value x) | (extract_lets +onlyGivenNames x; subst x) | assumption | apply keeps_writeRuns
    | apply keeps_stepData | apply keeps_stepDone | apply hf | split | exact mask_sub hF rfl | (refine keeps_of_pair (by assumption) ?_)

theorem keeps_stepFailed {F : Nat} {s0 s : State} (h0 : Keeps F s0 s) (die : Nat) (e : Nat) (c : Nat) (m : MoveRun) (status : Nat) (hF : F &&& 0x30000040 = 0 := by exact mask_sub (by assumption) rfl) : Keeps F s0 (State.stepFailed s die e c m status) := by
  unfold State.stepFailed
  with_reducible repeat' first
    | (intro _)
    | (extract_lets +onlyGivenNames x; refine keeps_let (F := F) (s0 := s0) (x := x) (fun _ => ?_) ?_; rotate_left; subst x; rotate_left; clear_value x)
    | (extract_lets +onlyGivenNames x; clear_value x) | assumption | apply keeps_logErr | apply keeps_halt | apply keeps_updChan | split
    | exact mask_sub hF rfl

theorem keeps_execMoveStep {F : Nat} {s0 s : State} (h0 : Keeps F s0 s) (die : Nat) (e : Nat) (err : PopErr) (hF : F &&& 0x2ffbfffffffffffffff8 = 0 := by exact mask_sub (by assumption) rfl) : ResKeeps F s0 (execMoveStep die e err s) := by
  unfold execMoveStep
  with_reducible repeat' first
    | (intro _)
    | (extract_lets +onlyGivenNames x; refine keeps_let (F := F) (s0 := s0) (x := x) (fun _ => ?_) ?_; rotate_left; subst x; rotate_left; clear_value x)
    | (extract_lets +onlyGivenNames x; refine keeps_let1 (F := F) (s0 := s0) (x := x) (fun _ => ?_) ?_; rotate_left; subst x; rotate_left; clear_value x)
    | (extract_lets +onlyGivenNames x; clear_value x) | (extract_lets +onlyGivenNames x; subst x) | assumption | apply ResKeeps.next
    | apply keeps_tryStep | apply keeps_stepFailed | split | exact mask_sub hF rfl | (refine keeps_of_pair (by assumption) ?_)

theorem keeps_execWriteRetry {F : Nat} {s0 s : State} (h0 : Keeps F s0 s) (die : Nat) (e : Nat) (c : Nat) (err : PopErr) (hF : F &&& 0x2ffbfffffffffffffff8 = 0 := by exact mask_sub (by assumption) rfl) : ResKeeps F s0 (execWriteRetry die e c err s) := by
  unfold execWriteRetry
  with_reducible repeat' first
    | (intro _)
    | (extract_lets +onlyGivenNames x; refine keeps_let (F := F) (s0 := s0) (x := x) (fun _ => ?_) ?_; rotate_left; subst x; rotate_left; clear_value x)
    | (extract_lets +onlyGivenNames x; refine keeps_let1 (F := F) (s0 := s0) (x := x) (fun _ => ?_) ?_; rotate_left; subst x; rotate_left; clear_value x)
    | (extract_lets +onlyGivenNames x; clear_value x) | (extract_lets +onlyGivenNames x; subst x) | assumption | apply ResKeeps.next
    | apply keeps_inc | apply keeps_updChan | apply keeps_tryStep | apply keeps_stepFailed | split | exact mask_sub hF rfl
    | (refine keeps_of_pair (by assumption) ?_)

theorem keeps_execAbortComplete {F : Nat} {s0 s : State} (h0 : Keeps F s0 s) (die : Nat) (e : Nat) (c : Nat) (hF : F &&& 0x2ffbfffffffffffffff8 = 0 := by exact mask_sub (by assumption) rfl) : ResKeeps F s0 (execAbortComplete die e c s) := by
  unfold execAbortComplete
  with_reducible repeat' first
    | (intro _)
    | (extract_lets +onlyGivenNames x; refine keeps_let (F := F) (s0 := s0) (x := x) (fun _ => ?_) ?_; rotate_left; subst x; (try dsimp -zeta only); rotate_left; clear_value x)
    | (extract_lets +onlyGivenNames x; refine keeps_let1 (F := F) (s0 := s0) (x := x) (fun _ => ?_) ?_; rotate_left; subst x; (try dsimp -zeta only); rotate_left; clear_value x)
    | (extract_lets +onlyGivenNames x; refine keeps_letF (F := F) (s0 := s0) (x := x) (fun hf => ?_) ?_; rotate_left; subst x; (try dsimp -zeta only); rotate_left; clear_value x)
    | (extract_lets +onlyGivenNames x; refine keeps_letF2 (F := F) (s0 := s0) (x := x) (fun hf => ?_) ?_; rotate_left; subst x; (try dsimp -zeta only); rotate_left; clear_value x)
    | (extract_lets +onlyGivenNames x; refine keeps_letN (F := F) (s0 := s0) (x := x) (fun hf => ?_) ?_; rotate_left; subst x; (try dsimp -zeta only); rotate_left; clear_value x)
    | (extract_lets +onlyGivenNames x; clear_value x) | (extract_lets +onlyGivenNames x; subst x) | assumption | apply ResKeeps.next
    | apply keeps_writeAt | apply keeps_inc | apply keeps_abortQuiet | apply hf | split | exact mask_sub hF rfl
    | (refine keeps_of_pair (by assumption) ?_)

theorem keeps_execCkMemDone {F : Nat} {s0 s : State} (h0 : Keeps F s0 s) (die : Nat) (u : Nat) (hF : F &&& 0x40000000407c068 = 0 := by exact mask_sub (by assumption) rfl) : ResKeeps F s0 (execCkMemDone die u s) := by
  unfold execCkMemDone
  with_reducible repeat' first
    | (intro _)
    | (extract_lets +onlyGivenNames x; refine keeps_let (F := F) (s0 := s0) (x := x) (fun _ => ?_) ?_; rotate_left; subst x; rotate_left; clear_value x)
    | (extract_lets +onlyGivenNames x; clear_value x) | assumption | apply ResKeeps.next | apply keeps_skipFree | apply keeps_putBit
    | apply keeps_ckFinish | split | exact mask_sub hF rfl

theorem keeps_execSysbusAccess {F : Nat} {s0 s : State} (h0 : Keeps F s0 s) (die : Nat) (addr : Nat) (size : Nat) (write : Bool) (data : Nat) (hF : F &&& 0x2ffbfffffffffffffff8 = 0 := by exact mask_sub (by assumption) rfl) : ResKeeps F s0 (execSysbusAccess die addr size write data s) := by
  unfold execSysbusAccess
  with_reducible repeat' first
    | (intro _)
    | (extract_lets +onlyGivenNames x; refine keeps_let (F := F) (s0 := s0) (x := x) (fun _ => ?_) ?_; rotate_left; subst x; (try dsimp -zeta only); rotate_left; clear_value x)
    | (extract_lets +onlyGivenNames x; refine keeps_let1 (F := F) (s0 := s0) (x := x) (fun _ => ?_) ?_; rotate_left; subst x; (try dsimp -zeta only); rotate_left; clear_value x)
    | (extract_lets +onlyGivenNames x; refine keeps_letF (F := F) (s0 := s0) (x := x) (fun hf => ?_) ?_; rotate_left; subst x; (try dsimp -zeta only); rotate_left; clear_value x)
    | (extract_lets +onlyGivenNames x; refine keeps_letF2 (F := F) (s0 := s0) (x := x) (fun hf => ?_) ?_; rotate_left; subst x; (try dsimp -zeta only); rotate_left; clear_value x)
    | (extract_lets +onlyGivenNames x; refine keeps_letN (F := F) (s0 := s0) (x := x) (fun hf => ?_) ?_; rotate_left; subst x; (try dsimp -zeta only); rotate_left; clear_value x)
    | (extract_lets +onlyGivenNames x; clear_value x) | (extract_lets +onlyGivenNames x; subst x) | assumption | apply ResKeeps.next
    | apply keeps_respond | apply keeps_writeSized | apply keeps_readSized | apply hf | split | exact mask_sub hF rfl
    | (refine keeps_of_pair (by assumption) ?_)

end Sys2Proof.Machine
end

