-- ==== Sys2Proof/Laws/KeepsExec.lean ====
section
/-! SUPPORT. Every command keeps the queue, the part, the canonical form of registers and bytes, and a lead that the part has. -/
namespace Sys2Proof.Machine
set_option Elab.async false

theorem keeps_idle {F : Nat} {s0 s : State} (h0 : Keeps F s0 s) (hF : F &&& 0xc1844 = 0 := by exact mask_sub (by assumption) rfl) : Keeps F s0 (State.idle s) := by
  unfold State.idle
  with_reducible repeat' first
    | (intro _) | assumption | apply keeps_forEach | apply keeps_efIdle | apply keeps_fifoLines | apply keeps_tick | exact mask_sub hF rfl

/-- The bits of a list of fields. -/
def fieldMask (l : List Field) : Nat := l.foldr (fun f n => 2 ^ f.ix ||| n) 0

theorem fieldMask_apart (f : Field) (l : List Field) (h : f ∉ l) : 2 ^ f.ix &&& fieldMask l = 0 := by
  induction l with
  | nil => exact Nat.and_zero _
  | cons g l ih =>
    have hne : f.ix ≠ g.ix := fun e => h (by
      have : f = g := Field.ix_inj e
      rw [this]; exact List.mem_cons_self ..)
    apply Nat.eq_of_testBit_eq
    intro i
    have e := congrArg (fun n => n.testBit i) (ih (fun m => h (List.mem_cons_of_mem _ m)))
    simp only [fieldMask, List.foldr_cons, Nat.testBit_and, Nat.testBit_or, Nat.zero_testBit, Nat.testBit_two_pow] at e ⊢
    by_cases h1 : f.ix = i
    · subst h1
      have h2 : decide (g.ix = f.ix) = false := decide_eq_false (fun x => hne x.symm)
      rw [h2, Bool.false_or]
      exact e
    · rw [decide_eq_false h1, Bool.false_and]

/-- No command disturbs what `Keeps` speaks of, nor a field that is not among those it may change. -/
theorem keeps_exec {F : Nat} {s0 s : State} (h0 : Keeps F s0 s) (c : Instr) (hF : F &&& fieldMask c.touches = 0) :
    ResKeeps F s0 (exec c s) := by
  cases c with
  | regWrite die off req size v rival => exact keeps_execRegWrite h0 die off req size v rival hF
  | rcRead die off req size rival => exact keeps_execRcRead h0 die off req size rival hF
  | counterPairRead die off req => exact keeps_execCounterPairRead h0 die off req hF
  | roleMove => exact keeps_execRoleMove h0 hF
  | clockLoss absent => exact keeps_execClockLoss h0 absent hF
  | clockRestore present => exact keeps_execClockRestore h0 present hF
  | rateActivation => exact keeps_execRateActivation h0 hF
  | nowRead die req => exact keeps_execNowRead h0 die req hF
  | ppscapRead die req => exact keeps_execPpscapRead h0 die req hF
  | ppsEdge frac falling => exact keeps_execPpsEdge h0 frac falling hF
  | ppsSourceLost => exact keeps_execPpsSourceLost h0 hF
  | holdLimitExceeded => exact keeps_execHoldLimitExceeded h0 hF
  | alignTick => exact keeps_execAlignTick h0 hF
  | alignReplyRx die t1 rxStamp txStamp => exact keeps_execAlignReplyRx h0 die t1 rxStamp txStamp hF
  | alignCorrectionRx die corr => exact keeps_execAlignCorrectionRx h0 die corr hF
  | tbSet die req v => exact keeps_execTbSet h0 die req v hF
  | tbSlew die req v => exact keeps_execTbSlew h0 die req v hF
  | tbRate die req v => exact keeps_execTbRate h0 die req v hF
  | tbCancel die req v => exact keeps_execTbCancel h0 die req v hF
  | slewDone => exact keeps_execSlewDone h0 hF
  | timeStep => exact keeps_execTimeStep h0 hF
  | ppsOutStart => exact keeps_execPpsOutStart h0 hF
  | ppsOutEnd => exact keeps_execPpsOutEnd h0 hF
  | alarmCommit die alarm req v => exact keeps_execAlarmCommit h0 die alarm req v hF
  | alarmFire die alarm => exact keeps_execAlarmFire h0 die alarm hF
  | dealTx port => exact keeps_execDealTx h0 port hF
  | dealRx port tArr groups => exact keeps_execDealRx h0 port tArr groups hF
  | dealTimeout => exact keeps_execDealTimeout h0 hF
  | alignMsgRx die t1 => exact keeps_execAlignMsgRx h0 die t1 hF
  | lpCommit port req v => exact keeps_execLpCommit h0 port req v hF
  | lpRetrain port req v => exact keeps_execLpRetrain h0 port req v hF
  | lpFullRetrain port req v => exact keeps_execLpFullRetrain h0 port req v hF
  | lpFaultClear port req v => exact keeps_execLpFaultClear h0 port req v hF
  | lpPortReset port req v => exact keeps_execLpPortReset h0 port req v hF
  | portResetOffDone port => exact keeps_execPortResetOffDone h0 port hF
  | sigDet port mv held ad => exact keeps_execSigDet h0 port mv held ad hF
  | coarseLock port ad => exact keeps_execCoarseLock h0 port ad hF
  | trainingFrameRx port lvls ad => exact keeps_execTrainingFrameRx h0 port lvls ad hF
  | eqConverged port ctle => exact keeps_execEqConverged h0 port ctle hF
  | tapTimeout port => exact keeps_execTapTimeout h0 port hF
  | trainTimeout port => exact keeps_execTrainTimeout h0 port hF
  | headLost port => exact keeps_execHeadLost h0 port hF
  | freqErr port ppm held => exact keeps_execFreqErr h0 port ppm held hF
  | faultHoldExpire port => exact keeps_execFaultHoldExpire h0 port hF
  | idleExit port => exact keeps_execIdleExit h0 port hF
  | relockFail port => exact keeps_execRelockFail h0 port hF
  | esStart port req v => exact keeps_execEsStart h0 port req v hF
  | esStop port req v => exact keeps_execEsStop h0 port req v hF
  | esPointDone port errors => exact keeps_execEsPointDone h0 port errors hF
  | trainingSetRx port groups => exact keeps_execTrainingSetRx h0 port groups hF
  | forwardBlockRx port frac lvls ad => exact keeps_execForwardBlockRx h0 port frac lvls ad hF
  | markerRx port sym frac lvls ad => exact keeps_execMarkerRx h0 port sym frac lvls ad hF
  | packetRx port => exact keeps_execPacketRx h0 port hF
  | dlyEchoRx port => exact keeps_execDlyEchoRx h0 port hF
  | headCapsRx port => exact keeps_execHeadCapsRx h0 port hF
  | headReportRx port => exact keeps_execHeadReportRx h0 port hF
  | busResultRx port => exact keeps_execBusResultRx h0 port hF
  | gwRspRx port => exact keeps_execGwRspRx h0 port hF
  | vendorRx port => exact keeps_execVendorRx h0 port hF
  | beaconTx port => exact keeps_execBeaconTx h0 port hF
  | dlyMarkTx port => exact keeps_execDlyMarkTx h0 port hF
  | dlyMarkTimeout port markId => exact keeps_execDlyMarkTimeout h0 port markId hF
  | headQueryTx port => exact keeps_execHeadQueryTx h0 port hF
  | bchMsgSend port => exact keeps_execBchMsgSend h0 port hF
  | txGo port req v => exact keeps_execTxGo h0 port req v hF
  | busTimeout port id => exact keeps_execBusTimeout h0 port id hF
  | dlyMarkRx port sym groups => exact keeps_execDlyMarkRx h0 port sym groups hF
  | headQueryRx port groups => exact keeps_execHeadQueryRx h0 port groups hF
  | gwReqRx port groups => exact keeps_execGwReqRx h0 port groups hF
  | rxPop port req => exact keeps_execRxPop h0 port req hF
  | rxStatRead port req => exact keeps_execRxStatRead h0 port req hF
  | frameStart port => exact keeps_execFrameStart h0 port hF
  | frameEnd port => exact keeps_execFrameEnd h0 port hF
  | imageLine port => exact keeps_execImageLine h0 port hF
  | genericShortPacket port => exact keeps_execGenericShortPacket h0 port hF
  | sidePacket port => exact keeps_execSidePacket h0 port hF
  | breakEntry port => exact keeps_execBreakEntry h0 port hF
  | frameTimeout stream => exact keeps_execFrameTimeout h0 stream hF
  | siCommit stream req v => exact keeps_execSiCommit h0 stream req v hF
  | plCommit pipe req v => exact keeps_execPlCommit h0 pipe req v hF
  | paFlush pipe req v => exact keeps_execPaFlush h0 pipe req v hF
  | paCtlWrite pipe req v => exact keeps_execPaCtlWrite h0 pipe req v hF
  | fsTimeRead stream req => exact keeps_execFsTimeRead h0 stream req hF
  | occurrenceDecide stream fresh => exact keeps_execOccurrenceDecide h0 stream fresh hF
  | pulseIssue port => exact keeps_execPulseIssue h0 port hF
  | pulseWithdraw port => exact keeps_execPulseWithdraw h0 port hF
  | schedCommit die req v => exact keeps_execSchedCommit h0 die req v hF
  | schedCancel die req v => exact keeps_execSchedCancel h0 die req v hF
  | schedCheckDone => exact keeps_execSchedCheckDone h0 hF
  | schedDistFail => exact keeps_execSchedDistFail h0 hF
  | schedActivate => exact keeps_execSchedActivate h0 hF
  | stepAnnounce => exact keeps_execStepAnnounce h0 hF
  | expLenWrite stream req v => exact keeps_execExpLenWrite h0 stream req v hF
  | leadWrite port margin req v => exact keeps_execLeadWrite h0 port margin req v hF
  | pipelineLine pipe asRead bufErr => exact keeps_execPipelineLine h0 pipe asRead bufErr hF
  | pipelineFrameDone pipe bufErr => exact keeps_execPipelineFrameDone h0 pipe bufErr hF
  | plReset pipe req v => exact keeps_execPlReset h0 pipe req v hF
  | mapWrite pipe bank entry req v => exact keeps_execMapWrite h0 pipe bank entry req v hF
  | finLineTake die bufErr => exact keeps_execFinLineTake h0 die bufErr hF
  | finFrameDone pipe bufErr => exact keeps_execFinFrameDone h0 pipe bufErr hF
  | cellRequest die producers => exact keeps_execCellRequest h0 die producers hF
  | recordClose die producer h payload => exact keeps_execRecordClose h0 die producer h payload hF
  | notifyRepeat die queue => exact keeps_execNotifyRepeat h0 die queue hF
  | queueAgeReady die queue => exact keeps_execQueueAgeReady h0 die queue hF
  | popRead die queue n err => exact keeps_execPopRead h0 die queue n err hF
  | qAck die queue n => exact keeps_execQAck h0 die queue n hF
  | qReplay die queue => exact keeps_execQReplay h0 die queue hF
  | qFlush die queue => exact keeps_execQFlush h0 die queue hF
  | replaySa die both => exact keeps_execReplaySa h0 die both hF
  | replaySb die both => exact keeps_execReplaySb h0 die both hF
  | pushWrite die queue path data => exact keeps_execPushWrite h0 die queue path data hF
  | pushEnd die queue path m => exact keeps_execPushEnd h0 die queue path m hF
  | basinBadAccess die off => exact keeps_execBasinBadAccess h0 die off hF
  | directWrite die addr data => exact keeps_execDirectWrite h0 die addr data hF
  | fencePushRetry die queue => exact keeps_execFencePushRetry h0 die queue hF
  | chStart die e c req v => exact keeps_execChStart h0 die e c req v hF
  | chAbort die e c req v => exact keeps_execChAbort h0 die e c req v hF
  | chAbortQuiet die e c req v => exact keeps_execChAbortQuiet h0 die e c req v hF
  | chResume die e c req v => exact keeps_execChResume h0 die e c req v hF
  | chReset die e c req v => exact keeps_execChReset h0 die e c req v hF
  | abortAll die e req v => exact keeps_execAbortAll h0 die e req v hF
  | abortAllQuiet die e req v => exact keeps_execAbortAllQuiet h0 die e req v hF
  | engineDispatch die e => exact keeps_execEngineDispatch h0 die e hF
  | moveInsn die e => exact keeps_execMoveInsn h0 die e hF
  | moveStep die e err => exact keeps_execMoveStep h0 die e err hF
  | loopInsn die e => exact keeps_execLoopInsn h0 die e hF
  | waitInsn die e => exact keeps_execWaitInsn h0 die e hF
  | waitTimeRelExpire die e c => exact keeps_execWaitTimeRelExpire h0 die e c hF
  | waitTimeAbsReached die e c => exact keeps_execWaitTimeAbsReached h0 die e c hF
  | signalInsn die e => exact keeps_execSignalInsn h0 die e hF
  | signalPulse die e c => exact keeps_execSignalPulse h0 die e c hF
  | endInsn die e => exact keeps_execEndInsn h0 die e hF
  | endComplete die e c => exact keeps_execEndComplete h0 die e c hF
  | writeRetry die e c err => exact keeps_execWriteRetry h0 die e c err hF
  | lateError die e c addr => exact keeps_execLateError h0 die e c addr hF
  | abortComplete die e c => exact keeps_execAbortComplete h0 die e c hF
  | ringAdd die e c req v => exact keeps_execRingAdd h0 die e c req v hF
  | ringLogWrite die e c req v => exact keeps_execRingLogWrite h0 die e c req v hF
  | ringTotalRead die e c req => exact keeps_execRingTotalRead h0 die e c req hF
  | chCfgWrite die e c off req v => exact keeps_execChCfgWrite h0 die e c off req v hF
  | functionLevelReset st => exact keeps_execFunctionLevelReset h0 st hF
  | doorbell st k head => exact keeps_execDoorbell h0 st k head hF
  | doorbellConfirm st k => exact keeps_execDoorbellConfirm h0 st k hF
  | tailAck st k => exact keeps_execTailAck h0 st k hF
  | ringVector st k => exact keeps_execRingVector h0 st k hF
  | carrierMove stream st => exact keeps_execCarrierMove h0 stream st hF
  | epDrain st req v => exact keeps_execEpDrain h0 st req v hF
  | epDrainDone st m => exact keeps_execEpDrainDone h0 st m hF
  | shedPlan st => exact keeps_execShedPlan h0 st hF
  | shedHoldExpire st stream => exact keeps_execShedHoldExpire h0 st stream hF
  | acceptStallExpire st => exact keeps_execAcceptStallExpire h0 st hF
  | uplinkLinkChange st width rate up bme d3hot mps => exact keeps_execUplinkLinkChange h0 st width rate up bme d3hot mps hF
  | postedCreditGrant st => exact keeps_execPostedCreditGrant h0 st hF
  | flrComplete st => exact keeps_execFlrComplete h0 st hF
  | dbShadowWrite st k req v => exact keeps_execDbShadowWrite h0 st k req v hF
  | flitRx die m crcOk phyErr => exact keeps_execFlitRx h0 die m crcOk phyErr hF
  | odvelWrRx die m req addr data => exact keeps_execOdvelWrRx h0 die m req addr data hF
  | odvelRdRx die m req tag addr len => exact keeps_execOdvelRdRx h0 die m req tag addr len hF
  | odvelCplRx die m tag => exact keeps_execOdvelCplRx h0 die m tag hF
  | modCmdRetrain die m req v => exact keeps_execModCmdRetrain h0 die m req v hF
  | modCmdDown die m req v => exact keeps_execModCmdDown h0 die m req v hF
  | modCmdUp die m req v => exact keeps_execModCmdUp h0 die m req v hF
  | moduleTrained die m width => exact keeps_execModuleTrained h0 die m width hF
  | moduleRetrainDone die m width => exact keeps_execModuleRetrainDone h0 die m width hF
  | retrainLimitExpire die m => exact keeps_execRetrainLimitExpire h0 die m hF
  | npTimeout die m tag => exact keeps_execNpTimeout h0 die m tag hF
  | pfMarkWrite st m mark req limit v => exact keeps_execPfMarkWrite h0 st m mark req limit v hF
  | pfFlush st m req => exact keeps_execPfFlush h0 st m req hF
  | pfLineExpire st m => exact keeps_execPfLineExpire h0 st m hF
  | semAcq die n req rival => exact keeps_execSemAcq h0 die n req rival hF
  | semRel die n req => exact keeps_execSemRel h0 die n req hF
  | semForceOwner die req v => exact keeps_execSemForceOwner h0 die req v hF
  | semForceAll die req v => exact keeps_execSemForceAll h0 die req v hF
  | irqLevelChange die n => exact keeps_execIrqLevelChange h0 die n hF
  | sidebandUp die m => exact keeps_execSidebandUp h0 die m hF
  | snapSa die req v => exact keeps_execSnapSa h0 die req v hF
  | snapSb die req v => exact keeps_execSnapSb h0 die req v hF
  | swSet die req v => exact keeps_execSwSet h0 die req v hF
  | swClr die req v => exact keeps_execSwClr h0 die req v hF
  | ctxClaim st k req => exact keeps_execCtxClaim h0 st k req hF
  | ctxComplete st k req v => exact keeps_execCtxComplete h0 st k req v hF
  | kpClaim die core req => exact keeps_execKpClaim h0 die core req hF
  | kpComplete die core req v => exact keeps_execKpComplete h0 die core req v hF
  | channelEvent die => exact keeps_execChannelEvent h0 die hF
  | clockedDelivery die => exact keeps_execClockedDelivery h0 die hF
  | cellRegPulse die cell => exact keeps_execCellRegPulse h0 die cell hF
  | cellStableExpire die cell => exact keeps_execCellStableExpire h0 die cell hF
  | holdoffExpire die cell => exact keeps_execHoldoffExpire h0 die cell hF
  | windowOpen die w => exact keeps_execWindowOpen h0 die w hF
  | windowClose die w => exact keeps_execWindowClose h0 die w hF
  | pinFilterAccept die pin stamp held level => exact keeps_execPinFilterAccept h0 die pin stamp held level hF
  | pinPulseEnd die pin => exact keeps_execPinPulseEnd h0 die pin hF
  | eventRecordWrite die => exact keeps_execEventRecordWrite h0 die hF
  | relayForward st => exact keeps_execRelayForward h0 st hF
  | relayMsgRx die => exact keeps_execRelayMsgRx h0 die hF
  | relayEmit die => exact keeps_execRelayEmit h0 die hF
  | efCommit die req v => exact keeps_execEfCommit h0 die req v hF
  | efCheckDone die => exact keeps_execEfCheckDone h0 die hF
  | efShadowWrite die off req v => exact keeps_execEfShadowWrite h0 die off req v hF
  | cellClr die cell req v => exact keeps_execCellClr h0 die cell req v hF
  | swPulse die req v => exact keeps_execSwPulse h0 die req v hF
  | axisCount axis levels stamp held => exact keeps_execAxisCount h0 axis levels stamp held hF
  | axisIndex axis stamp held => exact keeps_execAxisIndex h0 axis stamp held hF
  | ssiPoll axis => exact keeps_execSsiPoll h0 axis hF
  | ssiFrameDone axis word highOk => exact keeps_execSsiFrameDone h0 axis word highOk hF
  | observerUpdate axis => exact keeps_execObserverUpdate h0 axis hF
  | illWinExpire axis => exact keeps_execIllWinExpire h0 axis hF
  | axCommit axis req v => exact keeps_execAxCommit h0 axis req v hF
  | axRef axis req v => exact keeps_execAxRef h0 axis req v hF
  | armHome axis req v => exact keeps_execArmHome h0 axis req v hF
  | clrCount axis req v => exact keeps_execClrCount h0 axis req v hF
  | axisRecPeriodic axis => exact keeps_execAxisRecPeriodic h0 axis hF
  | axisRecordWrite axis => exact keeps_execAxisRecordWrite h0 axis hF
  | axisCountRead axis req => exact keeps_execAxisCountRead h0 axis req hF
  | journalTake st k poison => exact keeps_execJournalTake h0 st k poison hF
  | commitNow st req v => exact keeps_execCommitNow h0 st req v hF
  | commitLatMax st => exact keeps_execCommitLatMax h0 st hF
  | commitLatMin st => exact keeps_execCommitLatMin h0 st hF
  | appendDone st lane lba ok => exact keeps_execAppendDone h0 st lane lba ok hF
  | appendRetry st lane => exact keeps_execAppendRetry h0 st lane hF
  | flushDone st ok => exact keeps_execFlushDone h0 st ok hF
  | anchorWriteDone st peerOk => exact keeps_execAnchorWriteDone h0 st peerOk hF
  | driveLost st => exact keeps_execDriveLost h0 st hF
  | forwardedRecordRx st => exact keeps_execForwardedRecordRx h0 st hF
  | jseqLease st => exact keeps_execJseqLease h0 st hF
  | budgetUpdate st => exact keeps_execBudgetUpdate h0 st hF
  | wearRead st units pct media endurance => exact keeps_execWearRead h0 st units pct media endurance hF
  | driveAsyncEvent st => exact keeps_execDriveAsyncEvent h0 st hF
  | clipTrigger st => exact keeps_execClipTrigger h0 st hF
  | clipWindowClose st clip => exact keeps_execClipWindowClose h0 st clip hF
  | prerollExpire st => exact keeps_execPrerollExpire h0 st hF
  | weirEnter => exact keeps_execWeirEnter h0 hF
  | weirExit => exact keeps_execWeirExit h0 hF
  | journalRecovery st lanes full badSlots corrected => exact keeps_execJournalRecovery h0 st lanes full badSlots corrected hF
  | detach st req v => exact keeps_execDetach h0 st req v hF
  | attach st req v => exact keeps_execAttach h0 st req v hF
  | initDrive st req v => exact keeps_execInitDrive h0 st req v hF
  | rescan st req v => exact keeps_execRescan h0 st req v hF
  | driveProbe st d => exact keeps_execDriveProbe h0 st d hF
  | driveRemoved st => exact keeps_execDriveRemoved h0 st hF
  | driveLinkTry st trains => exact keeps_execDriveLinkTry h0 st trains hF
  | pwrFail low => exact keeps_execPwrFail h0 low hF
  | railUndervolt die rail mv ns => exact keeps_execRailUndervolt h0 die rail mv ns hF
  | huTestStart st => exact keeps_execHuTestStart h0 st hF
  | testNow st req v => exact keeps_execTestNow h0 st req v hF
  | huTestRetry st => exact keeps_execHuTestRetry h0 st hF
  | huSample st code => exact keeps_execHuSample h0 st code hF
  | huTestTimeout st => exact keeps_execHuTestTimeout h0 st hF
  | huResultRx st => exact keeps_execHuResultRx h0 st hF
  | huResultExpire st => exact keeps_execHuResultExpire h0 st hF
  | windowUpdate st => exact keeps_execWindowUpdate h0 st hF
  | finalDone st shst => exact keeps_execFinalDone h0 st shst hF
  | powerResume high => exact keeps_execPowerResume h0 high hF
  | huCommit st req v => exact keeps_execHuCommit h0 st req v hF
  | heartbeatTx die m => exact keeps_execHeartbeatTx h0 die m hF
  | heartbeatRx die m => exact keeps_execHeartbeatRx h0 die m hF
  | heartbeatMiss die m => exact keeps_execHeartbeatMiss h0 die m hF
  | failoverRestart st => exact keeps_execFailoverRestart h0 st hF
  | peerReset st req v => exact keeps_execPeerReset h0 st req v hF
  | plannedStop st req v => exact keeps_execPlannedStop h0 st req v hF
  | cancelStop st req v => exact keeps_execCancelStop h0 st req v hF
  | plannedStopExpire st => exact keeps_execPlannedStopExpire h0 st hF
  | returnHoldExpire st => exact keeps_execReturnHoldExpire h0 st hF
  | stackFailed st training words => exact keeps_execStackFailed h0 st training words hF
  | keeperWatchdog die core => exact keeps_execKeeperWatchdog h0 die core hF
  | scrubRead die addr data check meets last => exact keeps_execScrubRead h0 die addr data check meets last hF
  | passLate die => exact keeps_execPassLate h0 die hF
  | ckStart die u req v => exact keeps_execCkStart h0 die u req v hF
  | ckStop die u req v => exact keeps_execCkStop h0 die u req v hF
  | ckMemDone die u => exact keeps_execCkMemDone h0 die u hF
  | mbRequest st req v => exact keeps_execMbRequest h0 st req v hF
  | mbDone st => exact keeps_execMbDone h0 st hF
  | mbRelease st req v => exact keeps_execMbRelease h0 st req v hF
  | dictRequest call => exact keeps_execDictRequest h0 call hF
  | storeDone => exact keeps_execStoreDone h0 hF
  | atTime => exact keeps_execAtTime h0 hF
  | gwTimeout port tr => exact keeps_execGwTimeout h0 port tr hF
  | usdoTransfer st write idx sub off len data => exact keeps_execUsdoTransfer h0 st write idx sub off len data hF
  | rpdoRx st n data => exact keeps_execRpdoRx h0 st n data hF
  | syncRx st => exact keeps_execSyncRx h0 st hF
  | tpdoEventTimer st n => exact keeps_execTpdoEventTimer h0 st n hF
  | tpdoChangeCheck st => exact keeps_execTpdoChangeCheck h0 st hF
  | nmtCommand st cmd node => exact keeps_execNmtCommand h0 st cmd node hF
  | canHeartbeatTx st => exact keeps_execCanHeartbeatTx h0 st hF
  | busOff st errs => exact keeps_execBusOff h0 st errs hF
  | busOffRecover st => exact keeps_execBusOffRecover h0 st hF
  | recover st req v => exact keeps_execRecover h0 st req v hF
  | i2cPointerWrite st addr ptr => exact keeps_execI2cPointerWrite h0 st addr ptr hF
  | i2cRequest st data => exact keeps_execI2cRequest h0 st data hF
  | i2cRead st addr n late cut => exact keeps_execI2cRead h0 st addr n late cut hF
  | stuckRelease st held => exact keeps_execStuckRelease h0 st held hF
  | sclTimeout st low => exact keeps_execSclTimeout h0 st low hF
  | rsAbandon st restart => exact keeps_execRsAbandon h0 st restart hF
  | i2cReset st req v => exact keeps_execI2cReset h0 st req v hF
  | flashProgram st req v => exact keeps_execFlashProgram h0 st req v hF
  | erase4k st req v => exact keeps_execErase4k h0 st req v hF
  | erase64k st req v => exact keeps_execErase64k h0 st req v hF
  | qspiDone st ok => exact keeps_execQspiDone h0 st ok hF
  | idcode => exact keeps_execIdcode h0 hF
  | bypass => exact keeps_execBypass h0 hF
  | samplePreload => exact keeps_execSamplePreload h0 hF
  | extest => exact keeps_execExtest h0 hF
  | clampBalls => exact keeps_execClampBalls h0 hF
  | highZ => exact keeps_execHighZ h0 hF
  | dtmcs => exact keeps_execDtmcs h0 hF
  | dmi op addr data => exact keeps_execDmi h0 op addr data hF
  | dieSel v => exact keeps_execDieSel h0 v hF
  | debugAuth die level => exact keeps_execDebugAuth h0 die level hF
  | authLockoutExpire die => exact keeps_execAuthLockoutExpire h0 die hF
  | jtagTrst => exact keeps_execJtagTrst h0 hF
  | debugHalt die hart => exact keeps_execDebugHalt h0 die hart hF
  | debugResume die hart => exact keeps_execDebugResume h0 die hart hF
  | debugStep die hart => exact keeps_execDebugStep h0 die hart hF
  | sysbusAccess die addr size write data => exact keeps_execSysbusAccess h0 die addr size write data hF
  | ndmreset die => exact keeps_execNdmreset h0 die hF
  | dbgHaltLimit st => exact keeps_execDbgHaltLimit h0 st hF
  | railReset die rail mv ns => exact keeps_execRailReset h0 die rail mv ns hF
  | resetAssert => exact keeps_execResetAssert h0 hF
  | resetRelease profSel => exact keeps_execResetRelease h0 profSel hF
  | bootRom st r => exact keeps_execBootRom h0 st r hF
  | bootReady st req v => exact keeps_execBootReady h0 st req v hF
  | leadWaitExpire st => exact keeps_execLeadWaitExpire h0 st hF
  | bootWarm st req v => exact keeps_execBootWarm h0 st req v hF
  | bootShutdown st req v => exact keeps_execBootShutdown h0 st req v hF
  | bootRetry st req v => exact keeps_execBootRetry h0 st req v hF
  | pfWaitEnd st high => exact keeps_execPfWaitEnd h0 st high hF
  | kpLoadData die req v => exact keeps_execKpLoadData h0 die req v hF
  | kpVerify die req v => exact keeps_execKpVerify h0 die req v hF
  | verifyDone die => exact keeps_execVerifyDone h0 die hF
  | reqIdle die req v => exact keeps_execReqIdle h0 die req v hF
  | kpIdle die req v => exact keeps_execKpIdle h0 die req v hF
  | kpHoldWrite die req v => exact keeps_execKpHoldWrite h0 die req v hF
  | rootCommit st req v => exact keeps_execRootCommit h0 st req v hF
  | upPerst st => exact keeps_execUpPerst h0 st hF
  | drPerstRelease st => exact keeps_execDrPerstRelease h0 st hF
  | sequenceFault => exact keeps_execSequenceFault h0 hF
  | pccFrame die status low => exact keeps_execPccFrame h0 die status low hF
  | pccFltFall die status => exact keeps_execPccFltFall h0 die status hF
  | pgTimeout port => exact keeps_execPgTimeout h0 port hF
  | overtemp die temp => exact keeps_execOvertemp h0 die temp hF
  | overtempCritical die temp ns => exact keeps_execOvertempCritical h0 die temp ns hF

end Sys2Proof.Machine
end

