-- ==== Sys2Proof/Laws/Memory.lean ====
section
/-! SUPPORT. Bytes of memory read after a store, little-endian numbers, and the width of CRC-32C. -/
namespace Sys2Proof.Machine
set_option Elab.async false

/-- A byte of a die read after a store to that die. -/
theorem State.byteAt_setBytes (die a : Nat) : ∀ (l : List Byte) (s : State) (addr : Nat),
    (s.setBytes die addr l).byteAt die a = if addr ≤ a ∧ a < addr + l.length then l.getD (a - addr) 0 else s.byteAt die a
  | [], s, addr => by
    rw [if_neg (by simp only [List.length_nil]; omega)]; rfl
  | b :: l, s, addr => by
    show ((s.setByte die addr b).setBytes die (addr + 1) l).byteAt die a = _
    rw [State.byteAt_setBytes die a l, State.byteAt_setByte]
    simp only [List.length_cons]
    by_cases h : a = addr
    · subst h
      rw [if_neg (by omega), if_pos rfl, if_pos (by omega)]
      simp
    · rw [if_neg (show ¬ (die * 0x10000000000 + a = die * 0x10000000000 + addr) by omega)]
      by_cases h2 : addr + 1 ≤ a ∧ a < addr + 1 + l.length
      · rw [if_pos h2, if_pos (by omega)]
        obtain ⟨k, hk⟩ : ∃ k, a - addr = k + 1 := ⟨a - addr - 1, by omega⟩
        rw [hk, List.getD_cons_succ, show a - (addr + 1) = k by omega]
      · rw [if_neg h2, if_neg (by omega)]

/-- Bytes of a die that a store to it does not meet are as before. -/
theorem State.bytesAt_setBytes_of_disjoint (die : Nat) (l : List Byte) (s : State) (addr : Nat) : ∀ (n a : Nat),
    (a + n ≤ addr ∨ addr + l.length ≤ a) → (s.setBytes die addr l).bytesAt die a n = s.bytesAt die a n
  | 0, _, _ => rfl
  | n + 1, a, h => by
    show (s.setBytes die addr l).byteAt die a :: (s.setBytes die addr l).bytesAt die (a + 1) n = s.byteAt die a :: s.bytesAt die (a + 1) n
    rw [State.bytesAt_setBytes_of_disjoint die l s addr n (a + 1) (by omega), State.byteAt_setBytes, if_neg (by omega)]

/-- Bytes stored are read back. -/
theorem State.bytesAt_setBytes_same (die : Nat) : ∀ (l : List Byte) (s : State) (addr : Nat),
    (s.setBytes die addr l).bytesAt die addr l.length = l
  | [], _, _ => rfl
  | b :: l, s, addr => by
    have h : (s.setBytes die addr (b :: l)).byteAt die addr = b := by
      rw [State.byteAt_setBytes, if_pos (by simp only [List.length_cons]; omega), Nat.sub_self]; rfl
    show (s.setBytes die addr (b :: l)).byteAt die addr :: ((s.setByte die addr b).setBytes die (addr + 1) l).bytesAt die (addr + 1) l.length = _
    rw [h, State.bytesAt_setBytes_same die l]

/-- A number written in little-endian bytes is read back, but for what does not fit. -/
theorem leNat_leBytes : ∀ (k n : Nat), leNat (leBytes n k) = n % 256 ^ k
  | 0, n => by simp [leBytes, leNat, Nat.mod_one]
  | k + 1, n => by
    show (BitVec.ofNat 8 n).toNat + 256 * leNat (leBytes (n / 256) k) = _
    rw [leNat_leBytes k, BitVec.toNat_ofNat, show 256 ^ (k + 1) = 256 * 256 ^ k from Nat.pow_succ', Nat.mod_mul]

theorem crcBits_lt {p : Nat} (hp : p < 2 ^ 32) : ∀ (n c : Nat), c < 2 ^ 32 → crcBits p n c < 2 ^ 32
  | 0, _, h => h
  | n + 1, c, h => by
    unfold crcBits
    apply crcBits_lt hp n
    split
    · exact Nat.xor_lt_two_pow (by omega) hp
    · omega

theorem crcBytes_lt {p : Nat} (hp : p < 2 ^ 32) : ∀ (l : List Byte) (c : Nat), c < 2 ^ 32 → crcBytes p l c < 2 ^ 32
  | [], _, h => h
  | b :: l, c, h => crcBytes_lt hp l _ (crcBits_lt hp 8 _ (Nat.xor_lt_two_pow h (by have := b.isLt; omega)))

/-- CRC-32C has 32 bits. -/
theorem crc32c_lt (l : List Byte) : crc32c l < 2 ^ 32 := Nat.xor_lt_two_pow (crcBytes_lt (by decide) l _ (by decide)) (by decide)

end Sys2Proof.Machine
end

