-- ==== Sys2Proof/Tests/Slice0.lean ====
section
/-! SUPPORT. Tests: ill-formed commands refused, the worked examples of the spec, single steps, and for every statement with hypotheses
states and operands that meet them. Expected values are the spec's. -/
open Sys2Proof Sys2Proof.Machine

namespace Sys2Proof.Tests

set_option Elab.async false

/-! ## Well-formedness: every check refuses a command that names what no part has -/

theorem test_wf_dies : (Instr.regWrite 6 0 1 .b4 0 none).wellFormed = false ∧ (Instr.finLineTake 4 none).wellFormed = false ∧
    (Instr.functionLevelReset 3).wellFormed = false ∧ (Instr.epDrainDone 4 5).wellFormed = false := by decide

theorem test_wf_units : (Instr.dealTx 128).wellFormed = false ∧ (Instr.frameTimeout 512).wellFormed = false ∧
    (Instr.plCommit 512 1 1).wellFormed = false ∧ (Instr.axisCount 16 0 0 0).wellFormed = false ∧ (Instr.mapWrite 0 2 0 1 0).wellFormed = false ∧
    (Instr.ckStart 4 4 1 1).wellFormed = false := by decide

theorem test_wf_channels : (Instr.chStart 0 16 0 1 1).wellFormed = false ∧ (Instr.chStart 0 0 32 1 1).wellFormed = false ∧
    (Instr.notifyRepeat 0 4096).wellFormed = false ∧ (Instr.recordClose 0 1292 { typ := 0 } []).wellFormed = false ∧
    (Instr.pushWrite 0 0 4 []).wellFormed = false ∧ (Instr.doorbell 4 1024 0).wellFormed = false := by decide

theorem test_wf_events : (Instr.alarmCommit 0 16 1 1).wellFormed = false ∧ (Instr.cellRegPulse 0 16).wellFormed = false ∧
    (Instr.windowOpen 0 8).wellFormed = false ∧ (Instr.semAcq 0 64 1 0).wellFormed = false ∧ (Instr.ctxClaim 4 8 1).wellFormed = false ∧
    (Instr.pfMarkWrite 4 0 8 1 false 0).wellFormed = false := by decide

theorem test_wf_rest : (Instr.journalTake 4 64 false).wellFormed = false ∧ (Instr.appendDone 4 8 0 false).wellFormed = false ∧
    (Instr.railUndervolt 0 0 700 1000).wellFormed = false ∧ (Instr.kpClaim 0 2 9).wellFormed = false ∧ (Instr.debugHalt 4 4).wellFormed = false ∧
    (Instr.resetRelease 4).wellFormed = false ∧ (Instr.nowRead 0 11).wellFormed = false ∧ (Instr.tbSet 0 1 0x100000000).wellFormed = false := by
  decide

theorem test_wf_accepts : (Instr.regWrite 5 0 0x20 .b4 0 none).wellFormed = true ∧ (Instr.chStart 3 15 31 10 1).wellFormed = true := by decide

/-! ## No word spells a command -/

theorem test_decode_none : decodeTableWord 8 0 = none ∧ decodeTableWord 32 0xFFFFFFFF = none := ⟨rfl, rfl⟩

theorem test_withFetchWord : State.reset.withFetchWord 32 7 = State.reset := rfl

/-! ## A step -/

theorem test_step_takes_front : step { State.reset with pending := [.bypass, .idcode] } = exec .bypass { State.reset with pending := [.idcode] } := rfl

/-! ## The worked examples of the spec -/

/-- 00_scope.md: the register block of the port that carries S301 lies at 0x22_100B_0000 of a steward. -/
theorem test_port_address : keyAddr (lp 75) = 0x22100B0000 := by decide

/-- 01_architecture.md: SB reads SA's journal engine at 0x50_0020_0000. -/
theorem test_mirror_address : State.reset.placeOwn 4 (0x5000200000 - 0x4000000000) = .reg (jn 4) := by decide +kernel

/-- 01_architecture.md: byte 0x40 of cell 1,000 of C3 lies at 0x23_0003_E840. -/
theorem test_cell_address : State.reset.placeSt 4 0x230003E840 = .cell 3 256064 := by decide +kernel

/-- R383's example of BITPLANE. -/
theorem test_bitplane : bitPlane 1 [1, 3, 0, 0, 0, 0, 0, 0x80] = [3, 2, 0, 0, 0, 0, 0, 0x80] := by decide

/-- R383's example of PLANE_SPLIT: bytes of element j go to plane j mod 3, planes 64 bytes apart. -/
theorem test_plane_split : mvDst (1 * 2 ^ 57 + 2 * 2 ^ 49 + 1 * 2 ^ 25) 0 0 6 = [0, 64, 128, 1, 65, 129] := by decide

/-- R383's example of INTERLEAVE2: the source halves are read in turn. -/
theorem test_interleave : mvSrc (4 * 2 ^ 57 + 1 * 2 ^ 51) 0 8 0 8 = [0, 1, 4, 5, 2, 3, 6, 7] := by decide

/-- 04_link_protocol.md: the delay of 141.750 ns of the worked marker, in units of 2^-16 ns, within the digits that the example gives. -/
theorem test_cable_delay :
    (rawDelay 2 (1000 * 2 ^ 40 - 570929 * 2 ^ 40 / 1000) (1000 * 2 ^ 40) (12 * 512 + 137) 19200 0 - 9289728).natAbs ≤ 64 := by decide

/-- 07_raw_stage.md: two segments of a companded sensor; 3,000 gives 17,280. -/
theorem test_decompand : decompand (fun o =>
    if o = PL.RS_CTL then 3 * 65536 + 1024 else if o = PL.KNEE_X + 0x10 then 2048 else if o = PL.KNEE_Y + 0x10 then 2048
    else if o = PL.KNEE_M + 0x10 then 4096 else if o = PL.KNEE_X + 0x20 then 3040 else if o = PL.KNEE_Y + 0x20 then 17920
    else if o = PL.KNEE_M + 0x20 then 131072 else if o = PL.KNEE_M then 256 else 0) 3000 = 17280 := by decide

/-- 18_object_dictionary.md: the worked request holds two writes of S301's record. -/
theorem test_request : (parseOps 2 ([2, 2, 0x2D, 0x41, 4, 0, 0, 0, 0, 0, 0, 0, 0, 0x5A, 0x62, 2, 2, 3, 0x2D, 0x41, 4, 0, 0, 0, 0, 0, 0, 0, 0, 0x73,
    0x55, 0] : List Byte)).map (fun o => (o.ok, o.idx, o.sub, leNat o.data)) = [(true, 0x412D, 2, 40000000), (true, 0x412D, 3, 5600000)] := by
  decide

/-- R95: the levels of the bit pairs 00, 01, 11, 10. -/
theorem test_levels : [0, 1, 3, 2].map (fun v => levelOf (grayIdx v)) = [-3, -1, 1, 3] := by decide

/-- R96's example: precoded from 0, and decoded with the third decision in error. -/
theorem test_precode : precode true 0 [0, 1, 2, 3] = [0, 1, 1, 2] ∧ unprecode true 0 [0, 1, 1, 2] = [0, 1, 2, 3] ∧
    unprecode true 0 [0, 1, 2, 2] = [0, 1, 3, 0] := by decide

/-- R108: K28.5 at either running disparity is 0011111010 or its complement (IEEE 802.3, Table 36-2). -/
theorem test_k28_5 : (encode10 false charK28_5).1 = 0b0011111010 ∧ (encode10 true charK28_5).1 = 0b1100000101 ∧
    decode10 0b1100000101 = some charK28_5 := by decide +kernel

/-- R163: what a message's code groups spell is the message, and not with one of them changed. -/
theorem test_message : msgOf (encodeAll false (msgChars 0x02 [9#8])).1 = some (0x02, [9#8]) ∧
    msgOf ((encodeAll false (msgChars 0x02 [9#8])).1.set 3 (encode10 false 8).1) = none := by decide +kernel

/-- R595 and R596: a word reads as it was written, with one bit and with two bits in error. -/
theorem test_check_word : checkRead 5 (checkWord 5) = .clean ∧ checkRead 7 (checkWord 5) = .corrected 5 ∧
    checkRead 6 (checkWord 5) = .corrected 5 := by decide +kernel

/-- R681's SHA-256 on FIPS 180-4's example "abc". -/
theorem test_sha256 : sha256 [0x61, 0x62, 0x63] = 0xba7816bf8f01cfea414140de5dae2223b00361a396177a9cb410ff61f20015ad := by decide +kernel

/-- R681's signature on RFC 6979's example "sample" for P-256 and SHA-256, and not on "samplf". -/
theorem test_p256 :
    let key := beBytes 0x60FED4BA255A9D31C961EB74C6356D68C049B8923B61FA6CE669622E60F29FB6 32 ++
      beBytes 0x7903FE1008B8BC99A41AE9E95628BC64F2F1B20C2D7E9F5177A3C294D4462299 32
    let sig := beBytes 0xEFD48B2AACB6A8FD1140DD9CD45E81D69D2C877B56AAF991C34D0EA84EAF3716 32 ++
      beBytes 0xF7CB1C942D657C41D436C7A1B6E29F65F3E900DBB9AFF4064DC4AB2F843ACDA8 32
    p256Verify key sig [0x73, 0x61, 0x6D, 0x70, 0x6C, 0x65] = true ∧ p256Verify key sig [0x73, 0x61, 0x6D, 0x70, 0x6C, 0x66] = false := by
  decide +kernel

/-- R142: a parity block of zeros belongs to a block of zeros. -/
theorem test_syndromes : (syndromes (List.replicate 128 0)).all (fun x => x == 0) = true := by decide +kernel

/-- R439: the path of each requester. -/
theorem test_paths : [1, 4, 5, 8, 9, 10].map State.reset.pathOf = [0, 0, 1, 1, 2, 3] := by decide

/-! ## Single steps -/

def after (r : Res) : State := match r with | .next t => t | _ => State.reset

/-- R458: a free semaphore goes to its first writer, and the next sees it held. -/
theorem test_semaphore : (after (exec (.semAcq 0 5 9 0) State.reset)).fld (semKey 0 5) 7 0 = 9 ∧
    (after (exec (.semAcq 0 5 10 0) (after (exec (.semAcq 0 5 9 0) State.reset)))).fld (semKey 0 5) 8 0 = 0x109 := by decide +kernel

/-- R450: a register read with 16 bits at an odd address is MISALIGNED. -/
theorem test_misaligned : (after (exec (.rcRead 0 0x11300011 9 .b2 none) State.reset)).resp = .fault 6 := by decide +kernel

/-- R39: a register of an absent die is UNMAPPED. -/
theorem test_absent_die :
    (after (exec (.rcRead 3 0x11300010 9 .b4 none) { State.reset with part := .azl128 })).resp = .fault 1 := by decide +kernel

/-- R14: a register of read-only bits keeps them. -/
theorem test_read_only : (after (exec (.regWrite 0 0x0A000004 1 .b4 0 none) State.reset)).rd (dk 0 + BS.BS_FREE) = 0x40000#32 := by decide +kernel

/-- R670: BYPASS captures 0. -/
theorem test_bypass : (after (exec .bypass State.reset)).resp = .data [0#32] := rfl

/-- R678: RESET_N low leaves FAULT_N low for its first reason. -/
theorem test_reset_n : (after (exec .resetAssert { State.reset with faultWhy := [5] })).faultWhy = [0] := rfl

/-! ## States for the witnesses -/

/-- The 10-bit groups of a back-channel message, from negative running disparity. -/
def msgGroups (typ : Nat) (payload : List Byte) : List Nat := (encodeAll false (msgChars typ payload)).1

/-- A DEAL of SEQ 2 with TIME 0, HOP_DELAY 1, RATE_ADJ 3, HOPS 1 and domain 0. -/
def dealMsg : List Byte := zeros 12 ++ leBytes 1 4 ++ leBytes 3 4 ++ leBytes 2 2 ++ [1#8, 0#8]

/-- A status field of zeros with its CRC. -/
def zeroStatus : Nat := bchCrc (zeros 6) * 2 ^ 48

/-- A marker block of superframe 5 with its parity by R142. -/
def markerBlk : List Byte := markerPattern ++ [5#8, 0#8, 1#8] ++ zeros 101 ++ [0xDE#8, 0x5C#8, 0xFB#8, 0x75#8, 0xBF#8, 0x20#8, 0xF2#8, 0x65#8]

/-- Committed values with every context of die 0 unbound. -/
def contextsOff : Tbl Word :=
  [(0x10200004, 0#32), (0x10204004, 0#32), (0x10208004, 0#32), (0x1020C004, 0#32), (0x10210004, 0#32), (0x10214004, 0#32), (0x10218004, 0#32), (0x1021C004, 0#32), (0x10220004, 0#32), (0x10224004, 0#32), (0x10228004, 0#32), (0x1022C004, 0#32), (0x10230004, 0#32), (0x10234004, 0#32), (0x10238004, 0#32), (0x1023C004, 0#32)] ++
  [(0x10240004, 0#32), (0x10244004, 0#32), (0x10248004, 0#32), (0x1024C004, 0#32), (0x10250004, 0#32), (0x10254004, 0#32), (0x10258004, 0#32), (0x1025C004, 0#32), (0x10260004, 0#32), (0x10264004, 0#32), (0x10268004, 0#32), (0x1026C004, 0#32), (0x10270004, 0#32), (0x10274004, 0#32), (0x10278004, 0#32), (0x1027C004, 0#32)] ++
  [(0x10280004, 0#32), (0x10284004, 0#32), (0x10288004, 0#32), (0x1028C004, 0#32), (0x10290004, 0#32), (0x10294004, 0#32), (0x10298004, 0#32), (0x1029C004, 0#32), (0x102A0004, 0#32), (0x102A4004, 0#32), (0x102A8004, 0#32), (0x102AC004, 0#32), (0x102B0004, 0#32), (0x102B4004, 0#32), (0x102B8004, 0#32), (0x102BC004, 0#32)] ++
  [(0x102C0004, 0#32), (0x102C4004, 0#32), (0x102C8004, 0#32), (0x102CC004, 0#32), (0x102D0004, 0#32), (0x102D4004, 0#32), (0x102D8004, 0#32), (0x102DC004, 0#32), (0x102E0004, 0#32), (0x102E4004, 0#32), (0x102E8004, 0#32), (0x102EC004, 0#32), (0x102F0004, 0#32), (0x102F4004, 0#32), (0x102F8004, 0#32), (0x102FC004, 0#32)] ++
  [(0x10300004, 0#32), (0x10304004, 0#32), (0x10308004, 0#32), (0x1030C004, 0#32), (0x10310004, 0#32), (0x10314004, 0#32), (0x10318004, 0#32), (0x1031C004, 0#32), (0x10320004, 0#32), (0x10324004, 0#32), (0x10328004, 0#32), (0x1032C004, 0#32), (0x10330004, 0#32), (0x10334004, 0#32), (0x10338004, 0#32), (0x1033C004, 0#32)] ++
  [(0x10340004, 0#32), (0x10344004, 0#32), (0x10348004, 0#32), (0x1034C004, 0#32), (0x10350004, 0#32), (0x10354004, 0#32), (0x10358004, 0#32), (0x1035C004, 0#32), (0x10360004, 0#32), (0x10364004, 0#32), (0x10368004, 0#32), (0x1036C004, 0#32), (0x10370004, 0#32), (0x10374004, 0#32), (0x10378004, 0#32), (0x1037C004, 0#32)] ++
  [(0x10380004, 0#32), (0x10384004, 0#32), (0x10388004, 0#32), (0x1038C004, 0#32), (0x10390004, 0#32), (0x10394004, 0#32), (0x10398004, 0#32), (0x1039C004, 0#32), (0x103A0004, 0#32), (0x103A4004, 0#32), (0x103A8004, 0#32), (0x103AC004, 0#32), (0x103B0004, 0#32), (0x103B4004, 0#32), (0x103B8004, 0#32), (0x103BC004, 0#32)] ++
  [(0x103C0004, 0#32), (0x103C4004, 0#32), (0x103C8004, 0#32), (0x103CC004, 0#32), (0x103D0004, 0#32), (0x103D4004, 0#32), (0x103D8004, 0#32), (0x103DC004, 0#32), (0x103E0004, 0#32), (0x103E4004, 0#32), (0x103E8004, 0#32), (0x103EC004, 0#32), (0x103F0004, 0#32), (0x103F4004, 0#32), (0x103F8004, 0#32), (0x103FC004, 0#32)]

/-- An image in range: PERIOD 1,000,000 ns, TRIG_LEN 1,000,000 ns, STROBE_LEN 1 ns of the streams of die 0, every group period 1,000,000 ns. -/
def okKeys : List Nat :=
  (List.range 128).flatMap (fun i => [sk i + TB.PERIOD, sk i + TB.TRIG_LEN, sk i + TB.STROBE_LEN]) ++
    (List.range 64).map (fun g => gk (TB.GRP_PERIOD + 8 * g))

def okVal (k : Nat) : Word := if k % 64 = 28 then 1#32 else 1000000#32

def okSet : SchedSet := { act := 5, img := okKeys.map (fun k => (k, okVal k)) }

def okState : State := { State.reset with part := .azl128, sched := { checking := some okSet } }

theorem lookup_keys (f : Nat → Word) (k : Nat) : ∀ l : List Nat,
    (l.map (fun k => (k, f k))).lookup k = if k ∈ l then some (f k) else none
  | [] => rfl
  | a :: l => by
    by_cases h : k = a
    · subst h; simp only [List.map_cons, List.lookup_cons, beq_self_eq_true, List.mem_cons, true_or, if_true]
    · have : (k == a) = false := by simp [h]
      simp only [List.map_cons, List.lookup_cons, this, lookup_keys f k l, List.mem_cons, h, false_or]

theorem okSet_in {k : Nat} (h : k ∈ okKeys) : okSet.cfg k = (okVal k).toNat := by
  unfold SchedSet.cfg okSet; rw [lookup_keys, if_pos h]; rfl

theorem okSet_out {k : Nat} (h : ¬ k ∈ okKeys) : okSet.cfg k = 0 := by
  unfold SchedSet.cfg okSet; rw [lookup_keys, if_neg h]; rfl

theorem mem_okKeys {k : Nat} : k ∈ okKeys ↔
    (∃ i, i < 128 ∧ (k = sk i + TB.PERIOD ∨ k = sk i + TB.TRIG_LEN ∨ k = sk i + TB.STROBE_LEN)) ∨
      ∃ g, g < 64 ∧ k = gk (TB.GRP_PERIOD + 8 * g) := by
  simp only [okKeys, List.mem_append, List.mem_flatMap, List.mem_map, List.mem_range, List.mem_cons, List.not_mem_nil, or_false,
    @eq_comm _ k]

theorem sk_low {i : Nat} (h : i < 128) : sk i = 0x11400000 + 64 * i := by
  unfold sk tb dk
  rw [Nat.div_eq_of_lt h, Nat.mod_eq_of_lt h]; rfl

theorem okSet_low {i : Nat} (h : i < 128) :
    okSet.cfg (sk i + TB.PERIOD) = 1000000 ∧ okSet.cfg (sk i + TB.TRIG_LEN) = 1000000 ∧ okSet.cfg (sk i + TB.STROBE_LEN) = 1 ∧
    okSet.cfg (sk i + TB.PHASE) = 0 ∧ okSet.cfg (sk i + TB.TRIG_LAT) = 0 ∧ okSet.cfg (sk i + TB.STROBE_OFS) = 0 ∧
    okSet.cfg (sk i + TB.MIN_GAP) = 0 ∧ okSet.cfg (sk i + TB.S_CTL) = 0 := by
  have t (o : Nat) : gk o = 0x400040000 + o := congrArg (· + o) (by decide : tb 4 = 0x400040000)
  have out (o : Nat) (ho : o < 0x20040) (h4 : o % 64 ≠ 4) (h20 : o % 64 ≠ 20) (h28 : o % 64 ≠ 28) : okSet.cfg (sk i + o) = 0 := by
    apply okSet_out
    simp only [mem_okKeys, sk_low h, t]
    rintro (⟨j, hj, e⟩ | ⟨g, hg, e⟩)
    · rw [sk_low hj] at e
      simp only [TB.PERIOD, TB.TRIG_LEN, TB.STROBE_LEN] at e
      omega
    · simp only [TB.GRP_PERIOD] at e
      omega
  refine ⟨?_, ?_, ?_, out _ ?_ ?_ ?_ ?_, out _ ?_ ?_ ?_ ?_, out _ ?_ ?_ ?_ ?_, out _ ?_ ?_ ?_ ?_, out _ ?_ ?_ ?_ ?_⟩
  · rw [okSet_in (mem_okKeys.2 (.inl ⟨i, h, .inl rfl⟩)), okVal, if_neg (by rw [sk_low h, TB.PERIOD]; omega)]; rfl
  · rw [okSet_in (mem_okKeys.2 (.inl ⟨i, h, .inr (.inl rfl)⟩)), okVal, if_neg (by rw [sk_low h, TB.TRIG_LEN]; omega)]; rfl
  · rw [okSet_in (mem_okKeys.2 (.inl ⟨i, h, .inr (.inr rfl)⟩)), okVal, if_pos (by rw [sk_low h, TB.STROBE_LEN]; omega)]; rfl
  all_goals decide

theorem okSet_group {g : Nat} (h : g < 64) :
    okSet.cfg (gk (TB.GRP_PERIOD + 8 * g)) = 1000000 ∧ okSet.cfg (gk (TB.GRP_GUARD + 8 * g)) = 0 := by
  have t (o : Nat) : gk o = 0x400040000 + o := congrArg (· + o) (by decide : tb 4 = 0x400040000)
  constructor
  · rw [okSet_in (mem_okKeys.2 (.inr ⟨g, h, rfl⟩)), okVal, if_neg (by rw [t, TB.GRP_PERIOD]; omega)]; rfl
  · apply okSet_out
    simp only [mem_okKeys, t]
    rintro (⟨j, hj, e⟩ | ⟨j, hj, e⟩)
    · rw [sk_low hj] at e
      simp only [TB.PERIOD, TB.TRIG_LEN, TB.STROBE_LEN, TB.GRP_GUARD] at e
      omega
    · simp only [TB.GRP_PERIOD, TB.GRP_GUARD] at e
      omega

theorem okState_streams : okState.allStreams = List.range 128 := by decide +kernel

theorem verdict_none {s : State} {set : SchedSet} (e : s.schStreams set.cfg = []) (n : ∀ g, strobers set.cfg s.allStreams g = [])
    (r : s.allStreams.find? (schRange set.cfg) = none)
    (q : (List.range 64).any (fun g => decide (set.cfg (gk (TB.GRP_PERIOD + 8 * g)) < 1000000 ∨
      4000000000 < set.cfg (gk (TB.GRP_PERIOD + 8 * g)) ∨ 1000000 < set.cfg (gk (TB.GRP_GUARD + 8 * g)))) = false) :
    (s.schVerdict set).1 = 0 := by
  have z (g : Nat) : groupBreach set.cfg s.allStreams g = none := by
    unfold groupBreach; rw [n g]
  have y (g : Nat) : s.transitionBreach set g = none := by
    unfold State.transitionBreach; rw [e]; rfl
  have x : ∀ (α : Type) (l : List Nat), l.findSome? (fun _ => (none : Option α)) = none := fun α l => by
    induction l with
    | nil => rfl
    | cons _ _ h => exact h
  have w : outputShared set.cfg [] = none := rfl
  unfold State.schVerdict
  simp only [e, r, q, z, y, w, Option.map_none, x, Bool.false_eq_true, if_false]

theorem okState_verdict : (okState.schVerdict okSet).1 = 0 := by
  have ctl {st : Nat} (h : st ∈ okState.allStreams) : okSet.cfg (sk st + TB.S_CTL) = 0 := by
    rw [okState_streams] at h; exact (okSet_low (List.mem_range.1 h)).2.2.2.2.2.2.2
  apply verdict_none
  · unfold State.schStreams
    rw [List.filter_eq_nil_iff]
    intro st hs
    rw [ctl hs]; decide
  · intro g
    unfold strobers
    rw [List.filter_eq_nil_iff]
    intro st hs
    rw [ctl hs]; simp
  · rw [List.find?_eq_none]
    intro st hs
    rw [okState_streams] at hs
    obtain ⟨a, b, c, d, e, f, g, -⟩ := okSet_low (List.mem_range.1 hs)
    unfold schRange
    simp only [a, b, c, d, e, f, g]; decide
  · rw [List.any_eq_false]
    intro g hg
    rw [(okSet_group (List.mem_range.1 hg)).1, (okSet_group (List.mem_range.1 hg)).2]; decide


theorem rate_off (s : State) (h : s.acts = contextsOff) (pv : Nat → Nat → Nat) :
    s.rateRefused 0 (fun st o => s.actN (si st + o)) pv = false := by
  have e : (fun st o => s.actN (si st + o)) = fun st o => (Tbl.get resetWord contextsOff (si st + o)).toNat := by
    funext st o; unfold State.actN State.act; rw [h]
  have f : ((List.range 128).map (fun k => 128 * 0 + k)).filter
      (fun st => ((Tbl.get resetWord contextsOff (si st + SI.BIND)).toNat).testBit 31) = [] := by decide +kernel
  have a : ((List.range 128).map (fun k => 128 * 0 + k)).any (fun st => decide ((Tbl.get resetWord contextsOff (si st + SI.PERIOD)).toNat <
      2 * (nbits (Tbl.get resetWord contextsOff (si st + SI.GEOM)).toNat 13 0 *
        nbits (Tbl.get resetWord contextsOff (si st + SI.GEOM)).toNat 29 16))) = false := by decide +kernel
  rw [e]; unfold State.rateRefused
  simp only [f, a, List.map_nil, Bool.false_or]
  cases s.present 0 <;> rfl

theorem pl_off (s : State) (h : s.acts = contextsOff) (r : rawBreach (fun o => s.rdN (pl 7 + o)) = 0)
    (f : finBreach (fun o => s.rdN (pl 7 + o)) = 0) : s.plVerdict 7 = (0, 0) := by
  simp only [State.plVerdict, r, f, rate_off s h, ne_eq, not_true, if_false, (by decide : 7 / 128 = 0), Bool.false_eq_true]

theorem si_off : ({ State.reset.wrN (si 13 + SI.CTL) 0x2A00 with acts := contextsOff } : State).siVerdict 0 [13] = 0 := by decide +kernel

/-! ## Hypotheses that can be met -/

theorem witness_StepRunsFront : ∃ s : State, s.pending = [] := ⟨State.reset, rfl⟩

theorem witness_StepKeepsInv : ∃ s s' : State, s.Inv ∧ step s = .next s' :=
  ⟨State.reset, State.reset.idle, ⟨by decide +kernel, by decide +kernel, by decide +kernel, by decide +kernel⟩, rfl⟩

theorem witness_DeviceTimeLatch : ∃ (die req : Nat) (s : State), s.present die = true ∧ s.direct req die (tb die + TB.NOW1 - dk die) = true ∧
    s.direct req die (tb die + TB.NOW2 - dk die) = true := ⟨5, 5, State.reset, by decide +kernel⟩

theorem witness_SemaphoreRule : (∃ (die n req : Nat) (s : State), s.present die = true ∧ n < 64 ∧ 1 ≤ req ∧ req < 256 ∧
    s.fld (semKey die n) 7 0 = 0 ∧ s.fld (semKey die n) 7 0 ≠ req ∧ s.direct req die (semKey die n - dk die) = true) ∧
    (∃ (die n req : Nat) (s : State), s.present die = true ∧ n < 64 ∧ 1 ≤ req ∧ req < 256 ∧ s.fld (semKey die n) 7 0 ≠ 0 ∧
      s.fld (semKey die n) 7 0 = req) :=
  ⟨⟨4, 63, 1, State.reset, by decide +kernel⟩, ⟨0, 0, 9, State.reset.wrN (semKey 0 0) 9, by decide +kernel⟩⟩

theorem witness_SupplySequenceFault :
    ∃ (c : Instr) (s t : State), exec c s = .next t ∧ c ≠ .resetAssert ∧ s.faultWhy.contains 5 = true :=
  ⟨.bypass, { State.reset with faultWhy := [5] }, _, rfl, by decide, rfl⟩

theorem witness_TimeCommits :
    (∃ (s : State) (die v : Nat), s.present die = true ∧ 4 ≤ die ∧ v.testBit 0 = true ∧ s.tbRefusal die v = none ∧ s.timeSrc ≠ 1) ∧
    (∃ (s : State) (die v : Nat), s.present die = true ∧ 4 ≤ die ∧ v.testBit 0 = true ∧ s.tbRefusal die v = none ∧ s.timeSrc = 1) ∧
    (∃ (s : State) (die v : Nat), s.present die = true ∧ 4 ≤ die ∧ v.testBit 1 = true ∧ s.tbRefusal die v = none ∧ (s.rdI (tb s.lead +
      TB.SLEW_NS) * 2 ^ 40 + ((s.fld (tb s.lead + TB.SLEW_SUB) 15 0 : Nat) : Int) * 2 ^ 24) ≠ 0) ∧
    (∃ (s : State) (die v : Nat), s.present die = true ∧ 4 ≤ die ∧ v.testBit 1 = true ∧ s.tbRefusal die v = none ∧ s.rdI (tb s.lead +
      TB.SLEW_NS) * 2 ^ 40 + ((s.fld (tb s.lead + TB.SLEW_SUB) 15 0 : Nat) : Int) * 2 ^ 24 = 0) ∧
    (∃ (s : State) (die v : Nat), s.present die = true ∧ 4 ≤ die ∧ v.testBit 2 = true ∧ s.tbRefusal die v = none) ∧
    (∃ (s : State) (die v : Nat), s.present die = true ∧ 4 ≤ die ∧ v.testBit 3 = true ∧ s.tbRefusal die v = none) := by
  refine ⟨⟨State.reset, 4, 1, ?_⟩,
    ⟨State.reset.wrN (tb 4 + TB.CTL) 1, 4, 1, ?_⟩,
    ⟨State.reset.wrN (tb 4 + TB.SLEW_NS) 5, 4, 2, ?_⟩,
    ⟨State.reset, 4, 2, ?_⟩,
    ⟨State.reset, 4, 4, ?_⟩,
    ⟨State.reset, 4, 8, ?_⟩⟩ <;>
  decide +kernel

theorem witness_RateAndSlew :
    (∃ (s : State) (a : Nat) (r : Int) (rest : List (Nat × RateChange)), s.tm.pendRate = (a, .source r) :: rest ∧ a ≤ s.now s.lead ∧
      (s.tm.pendStep.all (fun e => decide (a ≤ e.1)) = true)) ∧
    (∃ (s : State) (a : Nat) (sl : Slew) (left : Option Int) (rest : List (Nat × RateChange)), s.tm.pendRate = (a, .slew sl left) ::
      rest ∧ a ≤ s.now s.lead ∧ (s.tm.pendStep.all (fun e => decide (a ≤ e.1)) = true)) ∧
    (∃ (s : State) (a : Nat) (sl : Slew) (left : Option Int) (rest : List (Nat × RateChange)), s.tm.pendRate = (a, .stop left) :: rest
      ∧ s.tm.slew = some sl ∧ a ≤ s.now s.lead ∧ (s.tm.pendStep.all (fun e => decide (a ≤ e.1)) = true)) ∧
    (∃ (s : State) (sl : Slew), s.tm.slew = some sl ∧ s.slewLast sl = true) := by
  refine ⟨⟨State.reset.setTm { pendRate := [(0, .source 7)] }, 0, 7, [], ?_⟩,
    ⟨State.reset.setTm { pendRate := [(0, .slew { rem := 9, term := 1 } none)] }, 0, { rem := 9, term := 1 }, none, [], ?_⟩,
    ⟨State.reset.setTm { pendRate := [(0, .stop none)], slew := some { rem := 9, term := 1 } }, 0, { rem := 9, term := 1 }, none, [], ?_⟩,
    ⟨State.reset.setTm { slew := some { rem := 0, term := 1 } }, { rem := 0, term := 1 }, ?_⟩⟩ <;>
  decide +kernel

theorem witness_PpsAndHoldover :
    (∃ (s : State) (falling : Bool), falling = s.bit (tb s.lead + TB.CTL) 2 ∧ s.timeSrc ≠ 1) ∧
    (∃ (s : State) (frac : Nat) (falling : Bool), falling = s.bit (tb s.lead + TB.CTL) 2 ∧ s.timeSrc = 1 ∧ s.packageMoored = false ∧
      s.rdN (tb s.lead + TB.PPS_WINDOW) * 65536 < (phaseErr (s.ppsStamp frac)).natAbs ∧ s.tm.outlierRun < 3) ∧
    (∃ (s : State) (falling : Bool), falling = s.bit (tb s.lead + TB.CTL) 2 ∧ s.timeSrc = 1 ∧ s.packageMoored = false ∧ 3 ≤
      s.tm.outlierRun) ∧
    (∃ (s : State) (frac : Nat) (falling : Bool), falling = s.bit (tb s.lead + TB.CTL) 2 ∧ s.timeSrc = 1 ∧ s.packageMoored = false ∧
      s.tm.outlierRun < 3 ∧ (phaseErr (s.ppsStamp frac)).natAbs ≤ s.rdN (tb s.lead + TB.PPS_WINDOW) * 65536 ∧ s.tm.ppsSeconds = none ∧
      s.tm.ppsStarted = true ∧ s.bit (tb s.lead + TB.STATUS) 3 = false) ∧
    (∃ (s : State) (falling : Bool), falling ≠ s.bit (tb s.lead + TB.CTL) 2) ∧
    (∃ (s : State), s.timeSrc = 1 ∧ msec 2000 ≤ s.sinceSource s.tm.lastAccepted) ∧
    (∃ (s : State), s.tm.holdSince.isSome = true ∧ s.rdN (tb s.lead + TB.HOLD_LIMIT) < s.holdEst) ∧
    (∃ (s : State) (die : Nat), s.present die = true) := by
  refine ⟨⟨State.reset, false, ?_⟩,
    ⟨State.reset.wrN (tb 4 + TB.CTL) 1, 20000000000000, false, ?_⟩,
    ⟨(State.reset.wrN (tb 4 + TB.CTL) 1).setTm { outlierRun := 3 }, false, ?_⟩,
    ⟨(State.reset.wrN (tb 4 + TB.CTL) 1).setTm { ppsStarted := true }, 5, false, ?_⟩,
    ⟨State.reset, true, ?_⟩,
    ⟨{ (State.reset.wrN (tb 4 + TB.CTL) 1).setTm { lastAccepted := some 0 } with cycle := msec 2000 }, ?_⟩,
    ⟨{ ((State.reset.setTm { holdSince := some 0 }).wrN (tb 4 + TB.HOLD_LIMIT) 0).wrN (tb 4 + TB.HOLD_DRIFT) 1000 with cycle := msec 2000 }, ?_⟩,
    ⟨State.reset, 4, ?_⟩⟩ <;>
  decide +kernel

theorem witness_Alignment :
    (∃ (s : State), s.passed s.tm.alignAt (msec 1) = true) ∧
    (∃ (s : State) (die : Nat), s.aligned die = true) ∧
    (∃ (s : State) (die : Nat), s.aligned die = true) ∧
    (∃ (s : State) (die : Nat), s.aligned die = true) := by
  refine ⟨⟨State.reset, ?_⟩,
    ⟨State.reset, 0, ?_⟩,
    ⟨State.reset, 0, ?_⟩,
    ⟨State.reset, 0, ?_⟩⟩ <;>
  decide +kernel

theorem witness_AlarmsAndPulse :
    (∃ (s : State) (die alarm v : Nat), s.present die = true ∧ v.testBit 0 = true ∧ alarm < 16 ∧ dtValid (s.rdDt (alarmK die alarm +
      TB.ALARM_T0)) = true) ∧
    (∃ (s : State) (die alarm : Nat), s.present die = true ∧ alarm < 16 ∧ (s.alarm die alarm).armed = true ∧ (s.alarm die alarm).val ≤
      s.stamp die ∧ (s.alarm die alarm).ctl.testBit 1 = false) ∧
    (∃ (s : State) (die alarm : Nat), s.present die = true ∧ alarm < 16 ∧ (s.alarm die alarm).armed = true ∧ (s.alarm die alarm).val ≤
      s.stamp die ∧ (s.alarm die alarm).ctl.testBit 1 = true ∧ (s.alarm die alarm).per ≠ 0) ∧
    (∃ (s : State), s.bit (tb (s.ppsDriver (((((s.stamp s.lead : Int) - s.rdI (tb s.lead + TB.PPSOUT_OFS) * 65536)).toNat) / sec16)) +
      TB.CTL) 3 = true ∧ 0 ≤ ((s.stamp s.lead : Int) - s.rdI (tb s.lead + TB.PPSOUT_OFS) * 65536) ∧ ((((s.stamp s.lead : Int) - s.rdI
      (tb s.lead + TB.PPSOUT_OFS) * 65536)).toNat) % sec16 < 2 * 65536 ∧ s.tm.ppsLastSec ≠ some (((((s.stamp s.lead : Int) - s.rdI (tb
      s.lead + TB.PPSOUT_OFS) * 65536)).toNat) / sec16)) ∧
    (∃ (s : State) (d e : Nat), s.tm.ppsOutEnd = some (d, e) ∧ e ≤ s.cycle) := by
  refine ⟨⟨State.reset, 1, 3, 1, ?_⟩,
    ⟨State.reset.setAlarm 1 3 { armed := true }, 1, 3, ?_⟩,
    ⟨State.reset.setAlarm 1 3 { armed := true, ctl := 2, per := 5 }, 1, 3, ?_⟩,
    ⟨State.reset.wrN (tb 4 + TB.CTL) 8, ?_⟩,
    ⟨State.reset.setTm { ppsOutEnd := some (4, 0) }, 4, 0, ?_⟩⟩ <;>
  decide +kernel

theorem witness_DealsAndClock :
    (∃ (s : State) (port tArr : Nat) (groups : List Nat) (m : List Byte), s.portOk port = true ∧ s.lpRole port = 2 ∧ s.lpState port = 8
      ∧ msgOf groups = some (3, m) ∧ m.length = 24 ∧ s.moored (port / 32) = false ∧ s.bit (tb s.lead + TB.HIER_CTL) 15 = true ∧ port =
      s.fld (tb s.lead + TB.HIER_CTL) 14 8 ∧ leAt m 23 1 = s.fld (tb s.lead + TB.HIER_CTL) 31 24 ∧ leAt m 22 1 % 16 < 3 ∧
      s.tm.dealLastSeq ≠ some (leAt m 20 2) ∧ s.tm.pendStep = [] ∧ s.timeSrc = 3 ∧ s.bit (tb s.lead + TB.STATUS) 3 = false ∧
      s.tm.dealStarted = true ∧ ((((dtUnpack (leAt m 0 12) : Nat) : Int) + leAt m 12 4 - tArr)).natAbs ≤ s.rdN (tb s.lead +
      TB.STEP_THRESH) * 65536) ∧
    (∃ (s : State) (port : Nat) (groups : List Nat) (m : List Byte), s.portOk port = true ∧ s.lpRole port = 2 ∧ s.lpState port = 8 ∧
      msgOf groups = some (3, m) ∧ m.length = 24 ∧ s.moored (port / 32) = false ∧ s.bit (tb s.lead + TB.HIER_CTL) 15 = true ∧ port =
      s.fld (tb s.lead + TB.HIER_CTL) 14 8 ∧ leAt m 23 1 = s.fld (tb s.lead + TB.HIER_CTL) 31 24 ∧ leAt m 22 1 % 16 < 3 ∧
      s.tm.dealLastSeq ≠ some (leAt m 20 2) ∧ s.tm.pendStep = [] ∧ s.timeSrc = 3 ∧ s.tm.dealStarted = false) ∧
    (∃ (s : State) (port : Nat) (groups : List Nat) (m : List Byte), s.portOk port = true ∧ s.lpRole port = 2 ∧ s.lpState port = 8 ∧
      msgOf groups = some (3, m) ∧ m.length = 24 ∧ s.moored (port / 32) = false ∧ s.bit (tb s.lead + TB.HIER_CTL) 15 = true ∧ port =
      s.fld (tb s.lead + TB.HIER_CTL) 14 8 ∧ leAt m 23 1 = s.fld (tb s.lead + TB.HIER_CTL) 31 24 ∧ 3 ≤ leAt m 22 1 % 16) ∧
    (∃ (s : State), s.timeSrc = 3 ∧ usec (8 * s.rdN (tb s.lead + TB.DEAL_INTERVAL)) ≤ s.sinceSource s.tm.lastDeal) ∧
    (∃ (s : State) (absent : Nat), s.tm.clkLost = false ∧ 1000 ≤ absent) ∧
    (∃ (s : State) (absent : Nat), s.tm.clkLost = true ∧ 1000 ≤ absent) ∧
    (∃ (s : State) (present : Nat), s.tm.clkLost = true ∧ msec 10 ≤ present ∧ s.tm.clkLostAt + present ≤ s.cycle) ∧
    (∃ (present : Nat), present < msec 10) := by
  refine ⟨⟨((((State.reset.wrN (tb 4 + TB.HIER_CTL) 0x8000).wrN (tb 4 + TB.CTL) 3).setTm { dealStarted := true }).wrN (lp 0 + LP.STATE) 8).setAct (lp 0 + LP.CTL) 9#32, 0, 5, msgGroups 3 dealMsg, dealMsg, ?_⟩,
    ⟨(((State.reset.wrN (tb 4 + TB.HIER_CTL) 0x8000).wrN (tb 4 + TB.CTL) 3).wrN (lp 0 + LP.STATE) 8).setAct (lp 0 + LP.CTL) 9#32, 0, msgGroups 3 dealMsg, dealMsg, ?_⟩,
    ⟨((State.reset.wrN (tb 4 + TB.HIER_CTL) 0x8000).wrN (lp 0 + LP.STATE) 8).setAct (lp 0 + LP.CTL) 9#32, 0, msgGroups 3 (zeros 22 ++ [3#8, 0#8]), zeros 22 ++ [3#8, 0#8], ?_⟩,
    ⟨{ State.reset.wrN (tb 4 + TB.CTL) 3 with cycle := msec 100 }, ?_⟩,
    ⟨State.reset, 1000, ?_⟩,
    ⟨State.reset.setTm { clkLost := true }, 1000, ?_⟩,
    ⟨{ State.reset.setTm { clkLost := true } with cycle := msec 10, faultWhy := [1] }, msec 10, ?_⟩,
    ⟨5, ?_⟩⟩ <;>
  decide +kernel

theorem witness_PortCommands :
    (∃ (s : State) (port v : Nat), s.portOk port = true ∧ v.testBit 0 = true ∧ s.lpRefused port = false) ∧
    (∃ (s : State) (port v : Nat), s.portOk port = true ∧ v.testBit 0 = true ∧ s.lpRefused port = true) ∧
    (∃ (s : State) (port v : Nat), s.portOk port = true ∧ v % 16 = 1 ∧ s.lpRun port = true) ∧
    (∃ (s : State) (port v : Nat), s.portOk port = true ∧ v % 16 = 3 ∧ s.lpRun port = true) ∧
    (∃ (s : State) (port v : Nat), s.portOk port = true ∧ v.testBit 2 = true ∧ v.testBit 3 = false ∧ s.lpState port = 10) ∧
    (∃ (s : State) (port v : Nat), s.portOk port = true ∧ v.testBit 3 = true ∧ s.abit (lp port + LP.CTL) 5 = true) ∧
    (∃ (s : State) (port e : Nat), s.portOk port = true ∧ (s.port port).offUntil = some e ∧ e ≤ s.cycle ∧ s.abit (lp port + LP.CTL) 4 =
      true) ∧
    (∃ (s : State) (port e : Nat), s.portOk port = true ∧ (s.port port).offUntil = some e ∧ e ≤ s.cycle ∧ s.abit (lp port + LP.CTL) 4 =
      false) := by
  refine ⟨⟨State.reset, 40, 1, ?_⟩,
    ⟨State.reset.wrFld (lp 40 + LP.CTL) 1 0 0, 40, 1, ?_⟩,
    ⟨State.reset.wrFld (lp 3 + LP.STATE) 3 0 8, 3, 1, ?_⟩,
    ⟨State.reset.wrFld (lp 3 + LP.STATE) 3 0 8, 3, 3, ?_⟩,
    ⟨State.reset.wrFld (lp 3 + LP.STATE) 3 0 10, 3, 4, ?_⟩,
    ⟨State.reset.setAct (lp 3 + LP.CTL) 0x20#32, 3, 8, ?_⟩,
    ⟨(State.reset.setPort 3 { offUntil := some 0 }).setAct (lp 3 + LP.CTL) 0x10#32, 3, 0, ?_⟩,
    ⟨(State.reset.setPort 3 { offUntil := some 0 }).setAct (lp 3 + LP.CTL) 0#32, 3, 0, ?_⟩⟩ <;>
  decide +kernel

theorem witness_PortTraining :
    (∃ (s : State) (port mv held : Nat), s.portOk port = true ∧ s.lpState port = 1 ∧ s.lpRole port ≠ 2 ∧ s.bit (lp port + LP.STATUS) 3
      = false ∧ 50 ≤ mv ∧ 2000 ≤ held) ∧
    (∃ (s : State) (port mv held : Nat), s.portOk port = true ∧ s.lpState port ≠ 0 ∧ s.lpRole port ≠ 2 ∧ s.bit (lp port + LP.STATUS) 3
      = false ∧ s.bit (lp port + LP.STATUS) 0 = true ∧ mv ≤ 30 ∧ 100 ≤ held) ∧
    (∃ (s : State) (port : Nat), s.portOk port = true ∧ s.lpRole port ≠ 2 ∧ s.lpState port = 2 ∧ (s.port port).rateSets = none ∧ s.bit
      (lp port + LP.STATUS) 3 = false) ∧
    (∃ (s : State) (port : Nat) (lvls : List Nat) (status : Nat), s.portOk port = true ∧ s.lpRole port ≠ 2 ∧ s.lpState port = 4 ∧
      frameStatus lvls = some status) ∧
    (∃ (s : State) (port : Nat) (lvls : List Nat) (status : Nat), s.portOk port = true ∧ s.lpRole port ≠ 2 ∧ s.lpState port = 3 ∧
      frameStatus lvls = some status ∧ (s.port port).frames < 3) ∧
    (∃ (s : State) (port : Nat) (lvls : List Nat) (ad : Adapt) (status : Nat), s.portOk port = true ∧ s.lpRole port ≠ 2 ∧ s.lpState
      port = 6 ∧ frameStatus lvls = some status ∧ status.testBit 31 = (s.port port).precodeReq ∧ (((s.adapt port ad).checkFrame port
      lvls (status.testBit 31)).port port).prbsClean 16 = true) ∧
    (∃ (s : State) (port : Nat) (lvls : List Nat), s.portOk port = true ∧ s.lpRole port ≠ 2 ∧ s.lpState port = 3 ∧ frameStatus lvls =
      none) ∧
    (∃ (s : State) (port : Nat), s.portOk port = true ∧ s.lpRole port ≠ 2 ∧ s.lpState port = 4 ∧ (s.port port).tapsStill = true ∧
      (s.port port).prbsClean 20 = true) ∧
    (∃ (s : State) (port : Nat), s.portOk port = true ∧ s.lpRole port ≠ 2 ∧ s.lpState port = 5 ∧ (s.port port).tapAt + usec 200 ≤
      s.cycle) ∧
    (∃ (s : State) (port : Nat), s.portOk port = true ∧ s.lpRole port ≠ 2 ∧ stateTimeout (s.lpState port) ≠ 0 ∧ (s.port port).rateSets
      = none ∧ (s.port port).entered + usec (stateTimeout (s.lpState port)) * clsMul (s.lpRate port) ≤ s.cycle) := by
  refine ⟨⟨State.reset.wrFld (lp 3 + LP.STATE) 3 0 1, 3, 50, 2000, ?_⟩,
    ⟨(State.reset.wrFld (lp 3 + LP.STATE) 3 0 4).setBit (lp 3 + LP.STATUS) 0, 3, 30, 100, ?_⟩,
    ⟨State.reset.wrFld (lp 3 + LP.STATE) 3 0 2, 3, ?_⟩,
    ⟨State.reset.wrFld (lp 3 + LP.STATE) 3 0 4, 3, trainFrame false zeroStatus, zeroStatus, ?_⟩,
    ⟨State.reset.wrFld (lp 3 + LP.STATE) 3 0 3, 3, trainFrame false zeroStatus, zeroStatus, ?_⟩,
    ⟨(State.reset.wrFld (lp 3 + LP.STATE) 3 0 6).setPort 3 { prbsN := 65536 }, 3, trainFrame false zeroStatus, {}, zeroStatus, ?_⟩,
    ⟨State.reset.wrFld (lp 3 + LP.STATE) 3 0 3, 3, [], ?_⟩,
    ⟨(State.reset.wrFld (lp 3 + LP.STATE) 3 0 4).setPort 3 { tapHist := List.replicate 9 (List.replicate 8 0), prbsN := 2 ^ 20 }, 3, ?_⟩,
    ⟨{ State.reset.wrFld (lp 3 + LP.STATE) 3 0 5 with cycle := 300000 }, 3, ?_⟩,
    ⟨{ State.reset.wrFld (lp 3 + LP.STATE) 3 0 3 with cycle := 10000000 }, 3, ?_⟩⟩ <;>
  decide +kernel

theorem witness_PortLosses :
    (∃ (s : State) (port : Nat), s.portOk port = true ∧ s.lpRole port ≠ 2 ∧ 2 ≤ s.lpState port ∧ s.lpState port ≤ 9 ∧ s.bit (lp port +
      LP.STATUS) 0 = false ∧ (if s.bit (lp port + LP.STATUS) 3 then (s.port port).idleAt + msec 2 else (s.port port).sigLostAt + msec
      1) ≤ s.cycle) ∧
    (∃ (s : State) (port : Nat) (ppm : Int) (held : Nat), s.portOk port = true ∧ s.lpRole port ≠ 2 ∧ 2 ≤ s.lpState port ∧ s.lpState
      port ≤ 9 ∧ s.lpRun port = false ∧ 100 < ppm.natAbs ∧ msec 1 ≤ held) ∧
    (∃ (s : State) (port : Nat) (ppm : Int) (held : Nat), s.portOk port = true ∧ s.lpRole port ≠ 2 ∧ s.lpRun port = true ∧ 100 <
      ppm.natAbs ∧ msec 1 ≤ held) ∧
    (∃ (s : State) (port : Nat) (ppm : Int), s.portOk port = true ∧ s.lpRole port ≠ 2 ∧ 2 ≤ s.lpState port ∧ s.lpState port ≤ 9 ∧
      ppm.natAbs ≤ 100) ∧
    (∃ (s : State) (port : Nat), s.portOk port = true ∧ s.lpRole port ≠ 2 ∧ s.lpState port = 10 ∧ (s.port port).entered + msec (s.afld
      (lp port + LP.RETRY) 23 8) ≤ s.cycle) ∧
    (∃ (s : State) (port : Nat), s.portOk port = true ∧ s.lpRun port = true ∧ s.bit (lp port + LP.STATUS) 3 = true) ∧
    (∃ (s : State) (port : Nat), s.portOk port = true ∧ s.lpRun port = true ∧ (s.port port).relock = true ∧ (s.port port).relockAt +
      usec 1 * clsMul (s.lpRate port) ≤ s.cycle) ∧
    (∃ (s : State) (port : Nat) (groups : List Nat) (st mode req seq : Nat), s.portOk port = true ∧ s.lpRole port = 2 ∧ s.abit (lp port
      + LP.CTL) 4 = true ∧ setOf groups = some (st, mode, req, seq)) := by
  refine ⟨⟨{ State.reset.wrFld (lp 3 + LP.STATE) 3 0 8 with cycle := msec 1 }, 3, ?_⟩,
    ⟨State.reset.wrFld (lp 3 + LP.STATE) 3 0 4, 3, -101, msec 1, ?_⟩,
    ⟨State.reset.wrFld (lp 3 + LP.STATE) 3 0 8, 3, 101, msec 1, ?_⟩,
    ⟨State.reset.wrFld (lp 3 + LP.STATE) 3 0 4, 3, 100, ?_⟩,
    ⟨{ State.reset.wrFld (lp 3 + LP.STATE) 3 0 10 with cycle := 100000000000 }, 3, ?_⟩,
    ⟨(State.reset.wrFld (lp 3 + LP.STATE) 3 0 8).setBit (lp 3 + LP.STATUS) 3, 3, ?_⟩,
    ⟨{ (State.reset.wrFld (lp 3 + LP.STATE) 3 0 8).setPort 3 { relock := true } with cycle := 10000 }, 3, ?_⟩,
    ⟨State.reset.setAct (lp 3 + LP.CTL) 0x18#32, 3, (encodeAll false (setChars 3 3 0 0)).1, 3, 3, 0, 0, ?_⟩⟩ <;>
  decide +kernel

theorem witness_EyeScan :
    (∃ (s : State) (port v : Nat), s.portOk port = true ∧ v.testBit 0 = true ∧ s.bit (lp port + LP.STATUS) 6 = false ∧ s.esRefused port
      = false) ∧
    (∃ (s : State) (port v : Nat), s.portOk port = true ∧ v.testBit 0 = true ∧ s.bit (lp port + LP.STATUS) 6 = false ∧ s.esRefused port
      = true) ∧
    (∃ (s : State) (port v : Nat), s.portOk port = true ∧ v.testBit 1 = true ∧ s.bit (lp port + LP.STATUS) 6 = true) ∧
    (∃ (s : State) (port : Nat), s.portOk port = true ∧ s.bit (lp port + LP.STATUS) 6 = true ∧ (s.fld (lp port + LP.ES_STATUS) 28 16) +
      1 < s.esPoints port ∧ (s.fld (lp port + LP.ES_STATUS) 28 16) < 4096) ∧
    (∃ (s : State) (port : Nat), s.portOk port = true ∧ s.bit (lp port + LP.STATUS) 6 = true ∧ s.esPoints port ≤ s.fld (lp port +
      LP.ES_STATUS) 28 16 + 1) := by
  refine ⟨⟨(((State.reset.wrFld (lp 3 + LP.STATE) 3 0 8).wrN (lp 3 + LP.ES_PH) 0x00010100).wrN (lp 3 + LP.ES_V) 0x00010100).wrN (lp 3 + LP.ES_CTL) 0x000A0A00, 3, 1, ?_⟩,
    ⟨State.reset, 3, 1, ?_⟩,
    ⟨State.reset.setBit (lp 3 + LP.STATUS) 6, 3, 2, ?_⟩,
    ⟨((State.reset.setBit (lp 3 + LP.STATUS) 6).wrN (lp 3 + LP.ES_PH) 0x00020100).wrN (lp 3 + LP.ES_V) 0x00010100, 3, ?_⟩,
    ⟨((State.reset.setBit (lp 3 + LP.STATUS) 6).wrN (lp 3 + LP.ES_PH) 0x00010100).wrN (lp 3 + LP.ES_V) 0x00010100, 3, ?_⟩⟩ <;>
  decide +kernel

theorem witness_BlocksAndPackets :
    (∃ (s : State) (port : Nat) (lvls : List Nat) (b : List Byte) (n : Nat), s.portOk port = true ∧ s.lpRole port ≠ 2 ∧ s.lpRun port =
      true ∧ s.bit (lp port + LP.STATUS) 3 = false ∧ (s.port port).pos ≠ 256 ∧ rsDecode (s.rxBlock port lvls) = some (b, n)) ∧
    (∃ (s : State) (port : Nat) (lvls : List Nat) (b : List Byte) (n : Nat), s.portOk port = true ∧ s.lpRole port ≠ 2 ∧ s.lpRun port =
      true ∧ s.bit (lp port + LP.STATUS) 3 = false ∧ (s.port port).relock = false ∧ (s.port port).pos = 256 ∧ markerOf (s.rxBlock port
      lvls) = some (b, n)) ∧
    (∃ (s : State) (port : Nat) (lvls : List Nat), s.portOk port = true ∧ s.lpRole port ≠ 2 ∧ s.lpRun port = true ∧ s.bit (lp port +
      LP.STATUS) 3 = false ∧ (s.port port).pos = 256 ∧ markerOf (s.rxBlock port lvls) = none ∧ (s.port port).missRun + 1 < s.afld (lp
      port + LP.LOCK_CFG) 3 0) ∧
    (∃ (s : State) (port : Nat) (b0 b1 b2 b3 : StreamByte) (d : Nat) (corr : Bool) (slot : Nat), s.portOk port = true ∧ (s.port
      port).discard = false ∧ (s.port port).cur = none ∧ (s.port port).stream = [b0, b1, b2, b3] ∧ hdrCheck (leNat [b0.val, b1.val,
      b2.val, b3.val]) = some (d, corr) ∧ dtHandling (d % 64) = 1 ∧ d % 64 < 16 ∧ s.slotOf port (nbits d 25 24 * 4 + nbits d 7 6) =
      some slot ∧ (s.port port).fullEnd = none ∧ (s.port port).fifo.length < 505) := by
  refine ⟨⟨State.reset.wrFld (lp 3 + LP.STATE) 3 0 8, 3, blockSymbols (zeros 128), zeros 128, 0, ?_⟩,
    ⟨(State.reset.wrFld (lp 3 + LP.STATE) 3 0 8).setPort 3 { pos := 256 }, 3, blockSymbols markerBlk, markerBlk, 0, ?_⟩,
    ⟨(State.reset.wrFld (lp 3 + LP.STATE) 3 0 8).setPort 3 { pos := 256 }, 3, blockSymbols (zeros 128), ?_⟩,
    ⟨(State.reset.setAct (lp 3 + LP.SLOT_MAP) 0x80#32).setPort 3 { discard := false, stream := List.replicate 4 { val := 0#8 } }, 3, { val := 0#8 }, { val := 0#8 }, { val := 0#8 }, { val := 0#8 }, 0, false, 0, ?_⟩⟩ <;>
  decide +kernel

theorem witness_ForwardMessages :
    (∃ (s : State) (port : Nat) (m : List Byte), ((s.takeMsg port (· == 0x81)).map (fun r => r.1) = some (0x81, m)) ∧ ((s.port
      port).markers.find? (fun e => e.1 == leAt m 0 1 && decide (s.cycle ≤ e.2.2 + usec 100)) = none)) ∧
    (∃ (s : State) (port : Nat) (m : List Byte) (i t1 c sfc stamp : Nat), s.portOk port = true ∧ s.lpRole port ≠ 1 ∧ ((s.takeMsg port
      (· == 0x81)).map (fun r => r.1) = some (0x81, m)) ∧ ((s.port port).markers.find? (fun e => e.1 == leAt m 0 1 && decide (s.cycle ≤
      e.2.2 + usec 100)) = some (i, t1, c)) ∧ ((s.port port).marks.find? (fun e => e.1 == leAt m 1 2) = some (sfc, stamp)) ∧ s.bit (lp
      port + LP.DLY_STAT) 0 = false) ∧
    (∃ (s : State) (port : Nat) (m : List Byte), ((s.takeMsg port (· == 0x82)).map (fun r => r.1) = some (0x82, m))) ∧
    (∃ (s : State) (port : Nat) (m : List Byte), ((s.takeMsg port (· == 0x83)).map (fun r => r.1) = some (0x83, m))) ∧
    (∃ (s : State) (port : Nat) (m : List Byte), ((s.takeMsg port (· == 0xA0)).map (fun r => r.1) = some (0xA0, m)) ∧ ((s.port
      port).outst.any (fun e => e.1 == leAt m 0 1) = true)) ∧
    (∃ (s : State) (port : Nat) (m : List Byte), ((s.takeMsg port (· == 0xA0)).map (fun r => r.1) = some (0xA0, m)) ∧ ((s.port
      port).outst.any (fun e => e.1 == leAt m 0 1) = false)) ∧
    (∃ (s : State) (port typ : Nat) (m : List Byte), ((s.takeMsg port (fun x => decide (0xE0 ≤ x))).map (fun r => r.1) = some (typ, m))
      ∧ (s.port port).rx.length + ceilDiv m.length 4 + 1 ≤ 256) := by
  refine ⟨⟨State.reset.setPort 3 { ctrlq := [(0x81, [1#8])] }, 3, [1#8], ?_⟩,
    ⟨State.reset.setPort 3 { ctrlq := [(0x81, [1#8, 0#8, 0#8, 0#8, 0#8, 0#8, 0#8])], markers := [(1, 0, 0)], marks := [(0, 0)] }, 3, [1#8, 0#8, 0#8, 0#8, 0#8, 0#8, 0#8], 1, 0, 0, 0, 0, ?_⟩,
    ⟨State.reset.setPort 3 { ctrlq := [(0x82, [1#8])] }, 3, [1#8], ?_⟩,
    ⟨State.reset.setPort 3 { ctrlq := [(0x83, [1#8])] }, 3, [1#8], ?_⟩,
    ⟨State.reset.setPort 3 { ctrlq := [(0xA0, [1#8])], outst := [(1, 0, 0)] }, 3, [1#8], ?_⟩,
    ⟨State.reset.setPort 3 { ctrlq := [(0xA0, [1#8])] }, 3, [1#8], ?_⟩,
    ⟨State.reset.setPort 3 { ctrlq := [(0xE5, [1#8])] }, 3, 0xE5, [1#8], ?_⟩⟩ <;>
  decide +kernel

theorem witness_BackChannel :
    (∃ (s : State) (port : Nat), s.portOk port = true ∧ s.lpRun port = true ∧ s.lpRole port ≠ 2 ∧ (s.port port).rateSets = none ∧
      (s.port port).clearDue = false ∧ (s.port port).setsOwed = 0 ∧ (s.port port).beaconDue = true ∧ (s.port port).pulseq = []) ∧
    (∃ (s : State) (port : Nat), s.portOk port = true ∧ s.lpRun port = true ∧ s.lpRole port ≠ 2 ∧ (s.port port).rateSets = none ∧
      (s.port port).clearDue = false ∧ (s.port port).setsOwed = 0 ∧ (s.port port).beaconDue = false ∧ (s.port port).dealDue = false ∧
      (s.port port).markDue = false ∧ (s.port port).pulseq = [] ∧ (s.port port).queryDue = false ∧ (s.port port).txq = [] ∧ (s.port
      port).gwq = []) ∧
    (∃ (s : State) (port : Nat), s.portOk port = true ∧ s.lpRun port = true ∧ s.lpRole port = 0 ∧ (s.port port).lastBeacon ≠ s.stamp
      (port / 32) / (65536 * 1000000) ∧ (s.port port).bchBusy = true) ∧
    (∃ (s : State) (port : Nat), s.portOk port = true ∧ s.lpRun port = true ∧ s.lpRole port = 1 ∧ s.fld (tb s.lead + TB.HIER_CTL) 7 6 ≠
      3 ∧ (s.port port).lastDeal + usec (s.rdN (tb s.lead + TB.DEAL_INTERVAL)) ≤ s.cycle ∧ (s.port port).bchBusy = true) ∧
    (∃ (s : State) (port : Nat), s.portOk port = true ∧ s.lpRun port = true ∧ s.lpRole port ≠ 2 ∧ s.bit (lp port + LP.STATUS) 3 = false
      ∧ s.bit (lp port + LP.DLY_CTL) 31 = false ∧ (s.port port).capsValid = true ∧ (s.port port).lastMark + usec (Nat.max 1 (s.fld (lp
      port + LP.DLY_CTL) 9 0)) ≤ s.cycle ∧ (s.port port).bchBusy = true) ∧
    (∃ (s : State) (port : Nat), s.portOk port = true ∧ s.lpRun port = true ∧ s.lpRole port ≠ 2 ∧ (s.port port).capsValid = false ∧
      (s.port port).lastQuery ≤ s.cycle ∧ (s.port port).bchBusy = true) ∧
    (∃ (s : State) (port markId : Nat), s.portOk port = true ∧ ((s.port port).markers.any (fun e => e.1 == markId && decide (e.2.2 +
      usec 100 ≤ s.cycle)) = true)) ∧
    (∃ (s : State) (port id i bus c : Nat), s.portOk port = true ∧ ((s.port port).outst.find? (fun e => e.1 == id) = some (i, bus, c))
      ∧ c + msec (s.fld (lp port + LP.BUS_CTL) 7 0) ≤ s.cycle) ∧
    (∃ (s : State) (port : Nat) (groups : List Nat) (m : List Byte), s.portOk port = true ∧ s.lpRole port = 2 ∧ s.lpRun port = true ∧
      msgOf groups = some (0x02, m) ∧ m.length = 1) ∧
    (∃ (s : State) (port : Nat) (groups : List Nat), s.portOk port = true ∧ s.lpRole port = 2 ∧ s.lpRun port = true ∧ msgOf groups =
      some (0x30, [])) ∧
    (∃ (s : State) (port : Nat) (groups : List Nat), s.portOk port = true ∧ s.lpRole port = 2 ∧ s.lpRun port = true ∧ msgOf groups =
      none) := by
  refine ⟨⟨(State.reset.wrFld (lp 3 + LP.STATE) 3 0 8).setPort 3 { beaconDue := true, bchBusy := true }, 3, ?_⟩,
    ⟨State.reset.wrFld (lp 3 + LP.STATE) 3 0 8, 3, ?_⟩,
    ⟨(State.reset.wrFld (lp 3 + LP.STATE) 3 0 8).setPort 3 { lastBeacon := 7, bchBusy := true }, 3, ?_⟩,
    ⟨{ ((State.reset.wrFld (lp 3 + LP.STATE) 3 0 8).setAct (lp 3 + LP.CTL) 4#32).setPort 3 { bchBusy := true } with cycle := 100000000000 }, 3, ?_⟩,
    ⟨{ (State.reset.wrFld (lp 3 + LP.STATE) 3 0 8).setPort 3 { bchBusy := true, capsValid := true } with cycle := 100000000000 }, 3, ?_⟩,
    ⟨(State.reset.wrFld (lp 3 + LP.STATE) 3 0 8).setPort 3 { bchBusy := true }, 3, ?_⟩,
    ⟨{ State.reset.setPort 3 { markers := [(1, 0, 0)] } with cycle := 100000 }, 3, 1, ?_⟩,
    ⟨{ State.reset.setPort 3 { outst := [(1, 0, 0)] } with cycle := 300000000 }, 3, 1, 1, 0, 0, ?_⟩,
    ⟨(State.reset.wrFld (lp 3 + LP.STATE) 3 0 8).setAct (lp 3 + LP.CTL) 8#32, 3, msgGroups 2 [1#8], [1#8], ?_⟩,
    ⟨(State.reset.wrFld (lp 3 + LP.STATE) 3 0 8).setAct (lp 3 + LP.CTL) 8#32, 3, msgGroups 0x30 [], ?_⟩,
    ⟨(State.reset.wrFld (lp 3 + LP.STATE) 3 0 8).setAct (lp 3 + LP.CTL) 8#32, 3, [], ?_⟩⟩ <;>
  decide +kernel

theorem witness_PortQueues :
    (∃ (s : State) (port v : Nat), s.portOk port = true ∧ v.testBit 0 = true ∧ s.lpRun port = true ∧ txLen (s.lpRole port) (leAt
      (s.txBuf port) 0 1) (leAt (s.txBuf port) 17 1) (leAt (s.txBuf port) 1 1) = some (leAt (s.txBuf port) 1 1) ∧ leAt (s.txBuf port) 1
      1 ≤ 60 ∧ leAt (s.txBuf port) 0 1 ≠ 0x20 ∧ (s.port port).txq.length < 8 ∧ (s.port port).bchBusy = true) ∧
    (∃ (s : State) (port v : Nat), s.portOk port = true ∧ v.testBit 0 = true ∧ s.lpRun port = false) ∧
    (∃ (s : State) (port : Nat) (w : Word) (rest : List Word), s.portOk port = true ∧ (s.port port).rx = w :: rest) ∧
    (∃ (s : State) (port : Nat), s.portOk port = true ∧ (s.port port).rx = []) ∧
    (∃ (s : State) (port : Nat), s.portOk port = true) := by
  refine ⟨⟨((State.reset.wrFld (lp 3 + LP.STATE) 3 0 8).setPort 3 { bchBusy := true }).wrN (lp 3 + LP.TX_BUF) 0x30, 3, 1, ?_⟩,
    ⟨State.reset, 3, 1, ?_⟩,
    ⟨State.reset.setPort 3 { rx := [5#32] }, 3, 5#32, [], ?_⟩,
    ⟨State.reset, 3, ?_⟩,
    ⟨State.reset, 3, ?_⟩⟩ <;>
  decide +kernel

theorem witness_FramesAndLines :
    (∃ (s : State) (port : Nat) (ws rest : List FifoWord), s.portOk port = true ∧ splitPkt ((s.port port).line ++ (s.port port).fifo) =
      some (ws, rest) ∧ skippable (pktOf ws) = false ∧ (pktOf ws).brk = false ∧ (pktOf ws).di % 64 = 0 ∧ s.abit (si (streamOf port
      (pktOf ws)) + SI.CTL) 0 = true ∧ (s.sis1 (streamOf port (pktOf ws))).isOpen = false ∧ (s.sis1 (streamOf port (pktOf ws))).lastAdm
      = none ∧ s.bit (si (streamOf port (pktOf ws)) + SI.STATE) 1 = false ∧ s.bit (si (streamOf port (pktOf ws)) + SI.STATE) 2 = false) ∧
    (∃ (s : State) (port : Nat) (ws rest : List FifoWord) (a : Nat), s.portOk port = true ∧ splitPkt ((s.port port).line ++ (s.port
      port).fifo) = some (ws, rest) ∧ skippable (pktOf ws) = false ∧ (pktOf ws).brk = false ∧ (pktOf ws).di % 64 = 0 ∧ s.abit (si
      (streamOf port (pktOf ws)) + SI.CTL) 0 = true ∧ (s.sis1 (streamOf port (pktOf ws))).isOpen = false ∧ (s.sis1 (streamOf port
      (pktOf ws))).lastAdm = some a ∧ s.readout (streamOf port (pktOf ws)) (pktOf ws).time (s.actN (si (streamOf port (pktOf ws)) +
      SI.RO_LAT)) < a + s.actN (si (streamOf port (pktOf ws)) + SI.PERIOD) * (64 - s.afld (si (streamOf port (pktOf ws)) + SI.GATE) 5
      0) * 1024) ∧
    (∃ (s : State) (port : Nat) (ws rest : List FifoWord), s.portOk port = true ∧ splitPkt ((s.port port).line ++ (s.port port).fifo) =
      some (ws, rest) ∧ skippable (pktOf ws) = false ∧ (pktOf ws).brk = false ∧ (pktOf ws).di % 64 = 1 ∧ s.abit (si (streamOf port
      (pktOf ws)) + SI.CTL) 0 = true ∧ (s.sis1 (streamOf port (pktOf ws))).isOpen = true) ∧
    (∃ (s : State) (port : Nat) (ws rest : List FifoWord), s.portOk port = true ∧ splitPkt ((s.port port).line ++ (s.port port).fifo) =
      some (ws, rest) ∧ skippable (pktOf ws) = false ∧ (pktOf ws).brk = false ∧ 0x2A ≤ (pktOf ws).di % 64 ∧ (pktOf ws).di % 64 ≤ 0x2F ∧
      s.abit (si (streamOf port (pktOf ws)) + SI.CTL) 0 = true ∧ (s.sis1 (streamOf port (pktOf ws))).isOpen = true ∧ (s.sis1 (streamOf
      port (pktOf ws))).toPipe = none ∧ (pktOf ws).di % 64 = nbits (s.sis1 (streamOf port (pktOf ws))).ctl 13 8 ∧ (s.sis1 (streamOf
      port (pktOf ws))).lineNo < nbits (s.sis1 (streamOf port (pktOf ws))).geom 29 16) ∧
    (∃ (s : State) (port : Nat) (ws rest : List FifoWord), s.portOk port = true ∧ splitPkt ((s.port port).line ++ (s.port port).fifo) =
      some (ws, rest) ∧ skippable (pktOf ws) = false ∧ (pktOf ws).brk = false ∧ 0x2A ≤ (pktOf ws).di % 64 ∧ (pktOf ws).di % 64 ≤ 0x2F ∧
      s.abit (si (streamOf port (pktOf ws)) + SI.CTL) 0 = true ∧ (s.sis1 (streamOf port (pktOf ws))).isOpen = true ∧ (pktOf ws).di % 64
      ≠ nbits (s.sis1 (streamOf port (pktOf ws))).ctl 13 8) ∧
    (∃ (s : State) (port : Nat) (ws rest : List FifoWord), s.portOk port = true ∧ splitPkt ((s.port port).line ++ (s.port port).fifo) =
      some (ws, rest) ∧ (pktOf ws).brk = true ∧ s.abit (si (streamOf port (pktOf ws)) + SI.CTL) 0 = true) ∧
    (∃ (s : State) (stream : Nat), s.streamOk stream = true ∧ s.finalC = false ∧ (s.sis1 stream).isOpen = true ∧ (s.sis1
      stream).lastPkt + s.actN (si stream + SI.PERIOD) * 65536 ≤ s.stamp (stream / 128)) := by
  refine ⟨⟨((State.reset.setPort 3 { fifo := [{ data := 1280, tag := 77 }] }).setAct (si 13 + SI.CTL) 1#32).clrBit (si 13 + SI.STATE) 1, 3, [{ data := 1280, tag := 77 }], [], ?_⟩,
    ⟨((State.reset.setPort 3 { fifo := [{ data := 1280, tag := 77 }] }).setAct (si 13 + SI.CTL) 1#32).setSis 13 { lastAdm := some 0 }, 3, [{ data := 1280, tag := 77 }], [], 0, ?_⟩,
    ⟨((State.reset.setPort 3 { fifo := [{ data := 1, tag := 77 }] }).setAct (si 13 + SI.CTL) 1#32).setSis 13 { isOpen := true }, 3, [{ data := 1, tag := 77 }], [], ?_⟩,
    ⟨((State.reset.setPort 3 { fifo := [{ data := 42, tag := 77 }] }).setAct (si 13 + SI.CTL) 1#32).setSis 13 { isOpen := true, ctl := 0x2A00, geom := 0x00100010 }, 3, [{ data := 42, tag := 77 }], [], ?_⟩,
    ⟨((State.reset.setPort 3 { fifo := [{ data := 42, tag := 77 }] }).setAct (si 13 + SI.CTL) 1#32).setSis 13 { isOpen := true, ctl := 0x2B00, geom := 0x00100010 }, 3, [{ data := 42, tag := 77 }], [], ?_⟩,
    ⟨(State.reset.setPort 3 { fifo := [{ data := 0, tag := 525 }] }).setAct (si 13 + SI.CTL) 1#32, 3, [{ data := 0, tag := 525 }], [], ?_⟩,
    ⟨(State.reset.setSis 13 { isOpen := true }).setTime 0 { now := 100 * sec40 }, 13, ?_⟩⟩ <;>
  decide +kernel

theorem witness_SidePackets :
    (∃ (s : State) (port : Nat) (ws rest : List FifoWord), s.portOk port = true ∧ splitPkt ((s.port port).line ++ (s.port port).fifo) =
      some (ws, rest) ∧ skippable (pktOf ws) = false ∧ (pktOf ws).brk = false ∧ 8 ≤ (pktOf ws).di % 64 ∧ (pktOf ws).di % 64 ≤ 15 ∧
      s.abit (si (streamOf port (pktOf ws)) + SI.CTL) 0 = true ∧ s.abit (si (streamOf port (pktOf ws)) + SI.CTL) 3 = true ∧ s.bit (si
      (streamOf port (pktOf ws)) + SI.STATE) 1 = true ∧ (s.sis1 (streamOf port (pktOf ws))).dropping = false ∧ (s.prod (streamOf port
      (pktOf ws) / 128) (streamOf port (pktOf ws) % 128)).dropping = false ∧ (s.sis1 (streamOf port (pktOf ws))).store = []) ∧
    (∃ (s : State) (port : Nat) (ws rest : List FifoWord), s.portOk port = true ∧ splitPkt ((s.port port).line ++ (s.port port).fifo) =
      some (ws, rest) ∧ skippable (pktOf ws) = false ∧ (pktOf ws).brk = false ∧ (pktOf ws).di % 64 = 0x12 ∧ s.abit (si (streamOf port
      (pktOf ws)) + SI.CTL) 0 = true ∧ (s.sis1 (streamOf port (pktOf ws))).isOpen = true ∧ s.abit (si (streamOf port (pktOf ws)) +
      SI.CTL) 2 = true ∧ (s.sis1 (streamOf port (pktOf ws))).toPipe ≠ none ∧ (s.prod (streamOf port (pktOf ws) / 128) (streamOf port
      (pktOf ws) % 128)).dropping = false ∧ (s.sis1 (streamOf port (pktOf ws))).store = []) := by
  refine ⟨⟨((State.reset.setPort 3 { fifo := [{ data := 8, tag := 77 }] }).setAct (si 13 + SI.CTL) 9#32).setBit (si 13 + SI.STATE) 1, 3, [{ data := 8, tag := 77 }], [], ?_⟩,
    ⟨((State.reset.setPort 3 { fifo := [{ data := 18, tag := 77 }] }).setAct (si 13 + SI.CTL) 5#32).setSis 13 { isOpen := true, toPipe := some 0 }, 3, [{ data := 18, tag := 77 }], [], ?_⟩⟩ <;>
  decide +kernel

theorem witness_StreamCommits :
    (∃ (s : State) (stream v : Nat), s.streamOk stream = true ∧ v.testBit 0 = true ∧ s.siVerdict (stream / 128) [stream] = 0) ∧
    (∃ (s : State) (stream v : Nat), s.streamOk stream = true ∧ v.testBit 0 = true ∧ s.siVerdict (stream / 128) [stream] ≠ 0) ∧
    (∃ (s : State) (pipe v : Nat), pipe < 512 ∧ s.present (pipe / 128) = true ∧ v.testBit 0 = true ∧ s.plVerdict pipe = (0, 0) ∧
      (s.boundStream pipe).isSome = true ∧ s.bit (pl pipe + PL.PA_CTL) 0 = false) ∧
    (∃ (s : State) (pipe v : Nat), pipe < 512 ∧ s.present (pipe / 128) = true ∧ v.testBit 0 = true ∧ s.plVerdict pipe = (0, 0) ∧
      s.boundStream pipe = none ∧ s.regsOk) ∧
    (∃ (s : State) (pipe v : Nat), pipe < 512 ∧ s.present (pipe / 128) = true ∧ v.testBit 0 = true ∧ s.plVerdict pipe = (0, 0) ∧
      (s.boundStream pipe).isSome = true ∧ s.bit (pl pipe + PL.PA_CTL) 0 = true ∧ 4 ≤ (s.pipe pipe).sets.length) ∧
    (∃ (s : State) (pipe v : Nat), s.present (pipe / 128) = true ∧ v.testBit 0 = true) ∧
    (∃ (s : State) (pipe v : Nat), s.present (pipe / 128) = true ∧ s.fld (pl pipe + PL.PA_CTL) 1 0 ≠ v % 4) ∧
    (∃ (s : State) (stream : Nat), s.streamOk stream = true) := by
  refine ⟨⟨{ State.reset.wrN (si 13 + SI.CTL) 0x2A00 with acts := contextsOff }, 13, 1, ?_, ?_, si_off⟩,
    ⟨State.reset.wrN (si 13 + SI.CTL) 0, 13, 1, ?_⟩,
    ⟨{ (State.reset.setBit (si 13 + SI.STATE) 1).wrFld (si 13 + SI.STATE) 14 8 7 with acts := contextsOff }, 7, 1, ?_, ?_, ?_, pl_off _ (by dsimp only) (by decide +kernel) (by decide +kernel), ?_, ?_⟩,
    ⟨{ State.reset.clrBit (si 7 + SI.STATE) 1 with acts := contextsOff }, 7, 1, ?_, ?_, ?_, pl_off _ (by dsimp only) (by decide +kernel) (by decide +kernel), ?_, ?_⟩,
    ⟨{ (((State.reset.setBit (si 13 + SI.STATE) 1).wrFld (si 13 + SI.STATE) 14 8 7).setBit (pl 7 + PL.PA_CTL) 0).setPipe 7 { sets := List.replicate 4 { tag := 0, img := [] } } with acts := contextsOff }, 7, 1, ?_, ?_, ?_, pl_off _ (by dsimp only) (by decide +kernel) (by decide +kernel), ?_, ?_, ?_⟩,
    ⟨State.reset, 7, 1, ?_⟩,
    ⟨State.reset, 7, 1, ?_⟩,
    ⟨State.reset, 13, ?_⟩⟩ <;>
  decide +kernel

theorem witness_ScheduleSets :
    (∃ (s : State) (die v : Nat), s.present die = true ∧ die = s.lead ∧ v % 4 = 1 ∧ s.schRefusal (s.rdDt (tb s.lead + TB.SCHED_ACT0)) =
      none) ∧
    (∃ (s : State) (die v : Nat), s.present die = true ∧ die = s.lead ∧ v % 4 = 1 ∧ s.sched.pend.isSome = true) ∧
    (∃ (s : State) (die v : Nat), s.present die = true ∧ die = s.lead ∧ v % 4 = 2 ∧ s.sched.pend.isSome = true) ∧
    (∃ (s : State) (set : SchedSet), s.sched.checking = some set ∧ (s.schVerdict set).1 = 0) ∧
    (∃ (s : State) (set : SchedSet), s.sched.checking = some set ∧ (s.schVerdict set).1 ≠ 0) ∧
    (∃ (s : State) (set : SchedSet), s.sched.pend = some set ∧ s.schSpread set = false ∧ set.act ≤ s.stamp s.lead + 1000000 * 65536) ∧
    (∃ (s : State) (set : SchedSet), s.sched.pend = some set ∧ s.schSpread set = true ∧ set.act ≤ s.stamp s.lead) := by
  refine ⟨⟨State.reset, 4, 1, ?_⟩,
    ⟨{ State.reset with sched := { pend := some { act := 5, img := [] } } }, 4, 1, ?_⟩,
    ⟨{ State.reset with sched := { pend := some { act := 5, img := [] } } }, 4, 2, ?_⟩,
    ⟨okState, okSet, rfl, okState_verdict⟩,
    ⟨{ State.reset with part := .azl128, sched := { checking := some { act := 5, img := [(sk 0 + TB.S_CTL, 1#32)] } } }, { act := 5, img := [(sk 0 + TB.S_CTL, 1#32)] }, ?_⟩,
    ⟨{ State.reset with sched := { pend := some { act := 5, img := [] } } }, { act := 5, img := [] }, ?_⟩,
    ⟨{ State.reset with sched := { pend := some { act := 0, img := [], reached := [0, 1, 2, 3] } } }, { act := 0, img := [], reached := [0, 1, 2, 3] }, ?_⟩⟩ <;>
  decide +kernel

theorem witness_PulsesAndSteps :
    (∃ (s : State) (stream : Nat) (fresh : Bool) (o : Occ), fresh = false ∧ stream < 512 ∧ s.present (stream / 128) = true ∧ (s.sch
      stream).owed = [] ∧ s.nextOcc stream = some o ∧ s.occDue stream o = true ∧ s.launchOk stream o.edges = true) ∧
    (∃ (s : State) (stream : Nat) (fresh : Bool) (o : Occ), fresh = false ∧ stream < 512 ∧ s.present (stream / 128) = true ∧ (s.sch
      stream).owed = [] ∧ s.nextOcc stream = some o ∧ s.occDue stream o = true ∧ s.launchOk stream o.edges = false) ∧
    (∃ (s : State) (stream : Nat) (fresh : Bool) (o : Occ), fresh = true ∧ stream < 512 ∧ s.present (stream / 128) = true ∧ s.nextNew
      stream = some o ∧ s.occDue stream o = true ∧ s.launchOk stream o.edges = false) ∧
    (∃ (s : State) (port : Nat) (x : Nat × Edge) (xs : List (Nat × Edge)), s.portOk port = true ∧ s.finalC = false ∧ (s.port
      port).bchBusy = true ∧ (s.port port).pulseq = [] ∧ (((List.range 4).flatMap (fun i => (s.sch (4 * port + i)).edges.map (fun e =>
      (4 * port + i, e)))).filter (fun a => decide (a.2.t - s.leadOf a.1 ≤ (s.stamp (port / 32) : Int)) && !s.held a.2.t) = x :: xs) ∧
      ((x :: xs).all (fun a => decide ((s.stamp (port / 32) : Int) ≤ s.deadline port a.2.t)) = true)) ∧
    (∃ (s : State), s.finalC = true) ∧
    (∃ (s : State) (port : Nat), s.portOk port = true ∧ (((s.port port).pulseq.any (fun m => m.pulse && decide (m.deadline ≤ s.stamp
      (port / 32)))) = true)) ∧
    (∃ (s : State) (a : Nat) (by_ : StepBy) (rest : List (Nat × StepBy)), s.tm.pendStep = (a, by_) :: rest) ∧
    (∃ (s : State) (a : Nat) (by_ : StepBy) (rest : List (Nat × StepBy)), s.tm.pendStep = (a, by_) :: rest ∧ a ≤ s.now s.lead) ∧
    (∃ (s : State) (stream : Nat), stream < 512 ∧ s.present (stream / 128) = true ∧ s.bit (sk stream + TB.S_STAT) 0 = true) ∧
    (∃ (s : State) (port : Nat) (margin : Bool) (v : Nat), s.portOk port = true ∧ margin = false ∧ 20000 ≤ v ∧ v ≤ 1000000 ∧ 5000 ≤
      s.rdN (lk port + TB.MIN_MARGIN) ∧ s.rdN (lk port + TB.MIN_MARGIN) ≤ 100000 ∧ s.rdN (lk port + TB.MIN_MARGIN) + 10000 ≤ v) ∧
    (∃ (s : State) (port : Nat) (margin : Bool) (v : Nat), s.portOk port = true ∧ margin = false ∧ v % 2 ^ 32 < 20000) := by
  refine ⟨⟨((((((State.reset.wrFld (lp 3 + LP.STATE) 3 0 8).setPort 3 { capsValid := true, headTimeOk := true }).setBit (lp 3 + LP.DLY_STAT) 0).wrFld (lp 3 + LP.CAPS) 15 8 2).setSch 13 { next := some 0 }).setBit (sk 13 + TB.S_STAT) 0).setAct (sk 13 + TB.S_CTL) 0x11#32 |>.setAct (sk 13 + TB.PHASE) 1000000#32 |>.setTime 0 { now := 950000 * ns40 }, 13, false, { n := 0, e := 1000000 * ns16, trig := 1000000 * ns16, edges := [{ trig := true, e := 1000000 * ns16, t := 1000000 * ns16, n := 0, ctl := 0x11, len := 10000 }] }, ?_⟩,
    ⟨((State.reset.setSch 13 { next := some 0 }).setBit (sk 13 + TB.S_STAT) 0).setTime 0 { now := 100 * sec40 }, 13, false, { n := 0, e := 0, trig := 0, edges := [] }, ?_⟩,
    ⟨({ State.reset with sched := { pend := some ({ act := 0, img := [(sk 13 + TB.S_CTL, 1#32), (sk 13 + TB.PERIOD, 1000000#32)] }) } }.setSch 13 { newNext := some 0 }).setTime 0 { now := 100 * sec40 }, 13, true, { n := 0, e := 0, trig := 0, edges := [] }, ?_⟩,
    ⟨((State.reset.setPort 3 { bchBusy := true }).setSch 13 { edges := [{ trig := true, e := 1000000 * ns16, t := 1000000 * ns16, n := 0, ctl := 0, len := 5 }] }).setTime 0 { now := 950000 * ns40 }, 3, (13, { trig := true, e := 1000000 * ns16, t := 1000000 * ns16, n := 0, ctl := 0, len := 5 }), [], ?_⟩,
    ⟨{ State.reset with finalC := true }, ?_⟩,
    ⟨State.reset.setPort 3 { pulseq := [{ bytes := [] }] }, 3, ?_⟩,
    ⟨State.reset.setTm { pendStep := [(0, .add 5)] }, 0, .add 5, [], ?_⟩,
    ⟨State.reset.setTm { pendStep := [(0, .add 5)] }, 0, .add 5, [], ?_⟩,
    ⟨State.reset.setBit (sk 13 + TB.S_STAT) 0, 13, ?_⟩,
    ⟨State.reset.wrN (lk 3 + TB.MIN_MARGIN) 6000, 3, false, 30000, ?_⟩,
    ⟨State.reset, 3, false, 300, ?_⟩⟩ <;>
  decide +kernel

theorem witness_PipelinesAtWork :
    (∃ (s : State) (pipe : Nat) (asRead : Option (List Byte)) (bufErr : Option BufErr) (j : Job) (l : SLine), asRead = none ∧ bufErr =
      none ∧ s.rawJob pipe = some j ∧ s.jobOf pipe j.stream j.frame = some j ∧ j.cut = false ∧ (s.sis1 j.stream).store = [.line l]) ∧
    (∃ (s : State) (pipe : Nat) (j : Job) (fe : FrameEnd), s.rawJob pipe = some j ∧ (s.sis1 j.stream).store = [.fin fe]) ∧
    (∃ (s : State) (die n st frame y : Nat) (j : Job), s.oldestLine die = some (n, st, frame, y) ∧ s.jobOf n st frame = some j) ∧
    (∃ (s : State) (pipe : Nat) (j : Job), s.firstFin pipe = some j ∧ j.rawDone = true ∧ j.finq = []) ∧
    (∃ (s : State) (pipe v : Nat), s.present (pipe / 128) = true ∧ v.testBit 0 = true) ∧
    (∃ (s : State) (pipe bank : Nat), s.present (pipe / 128) = true ∧ s.afld (pl pipe + PL.DPC_CTL) 2 2 ≠ bank % 2) ∧
    (∃ (s : State) (pipe bank : Nat), s.present (pipe / 128) = true ∧ s.afld (pl pipe + PL.DPC_CTL) 2 2 = bank % 2) := by
  refine ⟨⟨(State.reset.setPipe 7 { jobs := [({ stream := 13, frame := 1, start := 0, width := 16, height := 16, dt := 0x2A, params := [] })] }).setSis 13 { store := [.line { n := 0, bytes := zeros 16 }] }, 7, none, none, ({ stream := 13, frame := 1, start := 0, width := 16, height := 16, dt := 0x2A, params := [] }), { n := 0, bytes := zeros 16 }, ?_⟩,
    ⟨(State.reset.setPipe 7 { jobs := [({ stream := 13, frame := 1, start := 0, width := 16, height := 16, dt := 0x2A, params := [] })] }).setSis 13 { store := [.fin { hdr := { typ := 3 }, payload := [] }] }, 7, ({ stream := 13, frame := 1, start := 0, width := 16, height := 16, dt := 0x2A, params := [] }), { hdr := { typ := 3 }, payload := [] }, ?_⟩,
    ⟨State.reset.setPipe 7 { jobs := [({ stream := 13, frame := 1, start := 0, width := 16, height := 16, dt := 0x2A, params := [], finq := [(0, 0)] })] }, 0, 7, 13, 1, 0, ({ stream := 13, frame := 1, start := 0, width := 16, height := 16, dt := 0x2A, params := [], finq := [(0, 0)] }), ?_⟩,
    ⟨State.reset.setPipe 7 { jobs := [({ stream := 13, frame := 1, start := 0, width := 16, height := 16, dt := 0x2A, params := [], rawDone := true })] }, 7, ({ stream := 13, frame := 1, start := 0, width := 16, height := 16, dt := 0x2A, params := [], rawDone := true }), ?_⟩,
    ⟨State.reset, 7, 1, ?_⟩,
    ⟨State.reset, 7, 1, ?_⟩,
    ⟨State.reset, 7, 0, ?_⟩⟩ <;>
  decide +kernel

theorem witness_BasinAllocation :
    (∃ (s : State) (die : Nat) (producers : List Nat) (b : Nat), die < 4 ∧ s.present die = true ∧ producers = [b] ∧ b < 1290 ∧ (s.prod
      die b).dropping = false ∧ 0 < s.grantable die (s.reserveOk die b)) ∧
    (∃ (s : State) (die : Nat) (producers : List Nat) (b : Nat), die < 4 ∧ s.present die = true ∧ producers = [b] ∧ b < 1290 ∧ (s.prod
      die b).dropping = false ∧ s.grantable die (s.reserveOk die b) = 0) ∧
    (∃ (s : State) (die producer : Nat) (h : RecHdr), die < 4 ∧ s.present die = true ∧ producer < 1286 ∧ h.stream < 512 ∧ (s.prod die
      producer).dropping = false) ∧
    (∃ (s : State) (die producer : Nat) (h : RecHdr) (payload : List Byte), die < 4 ∧ s.present die = true ∧ producer < 1286 ∧
      s.recTaken die producer h.stream payload.length = true ∧ s.mirrorEn die producer = false ∧ ((List.range 8).all (fun u => (s.ckS
      die u).phase == 0) = true)) ∧
    (∃ (s : State) (die queue : Nat), die < 4 ∧ s.present die = true ∧ queue < 4096 ∧ (s.queue die queue).ready = true ∧ (s.queue die
      queue).fault = false ∧ Nat.max 1 (s.fld (qk die queue + BS.Q_CFG) 11 0) ≤ (s.queue die queue).undeliv ∧ (s.queue die
      queue).nextNotify ≤ s.now die) ∧
    (∃ (s : State) (die queue : Nat) (r : Rec) (rest : List Rec), die < 4 ∧ s.present die = true ∧ queue < 4096 ∧ (s.queue die
      queue).und = r :: rest ∧ (s.queue die queue).ready = false ∧ (s.queue die queue).fault = false ∧ s.fld (qk die queue + BS.Q_CFG)
      31 27 ≤ 16 ∧ r.entered + notifyPeriod (s.fld (qk die queue + BS.Q_CFG) 31 27) ≤ s.now die) ∧
    (∃ (s : State) (die off : Nat), die < 4 ∧ s.present die = true ∧ 0x08000000 ≤ off ∧ off < 0x0A000000 ∧ off % 0x2000 < 0x1000) := by
  refine ⟨⟨State.reset, 1, [5], 5, ?_⟩,
    ⟨State.reset.wrN (dk 1 + BS.BS_FREE) 0, 1, [5], 5, ?_⟩,
    ⟨State.reset, 1, 5, { typ := 2, stream := 130 }, ?_⟩,
    ⟨State.reset, 1, 5, { typ := 2, stream := 130 }, zeros 64, ?_⟩,
    ⟨(State.reset.setQueue 1 7 { ready := true, und := [{ data := zeros 64 }] }).wrFld (qk 1 7 + BS.Q_CFG) 11 0 1, 1, 7, ?_⟩,
    ⟨(State.reset.setQueue 1 7 { und := [{ data := zeros 64 }] }).setTime 1 { now := 100 * sec40 }, 1, 7, { data := zeros 64 }, [], ?_⟩,
    ⟨State.reset, 1, 0x08000000, ?_⟩⟩ <;>
  decide +kernel

theorem witness_QueueDelivery :
    (∃ (s : State) (die queue n : Nat) (err : PopErr) (r : Rec) (rest : List Rec), die < 4 ∧ s.present die = true ∧ queue < 4096 ∧ err
      = .none ∧ (s.queue die queue).fault = false ∧ (s.queue die queue).und = r :: rest ∧ r.dup = false ∧ 0 < n ∧ (s.queue die
      queue).pos + n < r.data.length) ∧
    (∃ (s : State) (die queue n : Nat) (err : PopErr) (r : Rec) (rest : List Rec), die < 4 ∧ s.present die = true ∧ queue < 4096 ∧ err
      = .none ∧ (s.queue die queue).fault = false ∧ (s.queue die queue).flushHead = false ∧ (s.queue die queue).und = r :: rest ∧ r.dup
      = false ∧ 0 < n ∧ (s.queue die queue).pos + n = r.data.length ∧ s.rdN (dk die + BS.BS_RET_CELLS) + cellsOf r.data.length ≤ s.rdN
      (dk die + BS.BS_RET_LIMIT) ∧ s.rdN (dk die + BS.BS_RET_CELLS) + cellsOf r.data.length < 2 ^ 32) ∧
    (∃ (s : State) (die queue n : Nat) (err : PopErr), die < 4 ∧ s.present die = true ∧ queue < 4096 ∧ err = .none ∧ (s.queue die
      queue).und = [] ∧ 0 < n) ∧
    (∃ (s : State) (die queue n : Nat), die < 4 ∧ s.present die = true ∧ queue < 4096 ∧ n % 65536 ≤ (s.queue die queue).ret.length) ∧
    (∃ (s : State) (die queue : Nat), die < 4 ∧ s.present die = true ∧ queue < 4096 ∧ (s.queue die queue).pos = 0) ∧
    (∃ (s : State) (die queue : Nat), die < 4 ∧ s.present die = true ∧ queue < 4096 ∧ (s.queue die queue).pos = 0) ∧
    (∃ (s : State) (die : Nat) (both : Bool), die < 4 ∧ s.present die = true ∧ both = false ∧ s.part ≠ .azl128) ∧
    (∃ (s : State) (die : Nat) (both : Bool), die < 4 ∧ s.present die = true ∧ both = false ∧ s.part ≠ .azl128) := by
  refine ⟨⟨State.reset.setQueue 1 7 { und := [{ data := zeros 64 }] }, 1, 7, 8, .none, { data := zeros 64 }, [], ?_⟩,
    ⟨State.reset.setQueue 1 7 { und := [{ data := zeros 64 }] }, 1, 7, 64, .none, { data := zeros 64 }, [], ?_⟩,
    ⟨State.reset, 1, 7, 8, .none, ?_⟩,
    ⟨State.reset.setQueue 1 7 { ret := [{ data := zeros 64 }] }, 1, 7, 1, ?_⟩,
    ⟨State.reset.setQueue 1 7 { ret := [{ data := zeros 64 }] }, 1, 7, ?_⟩,
    ⟨State.reset.setQueue 1 7 { ret := [{ data := zeros 64 }] }, 1, 7, ?_⟩,
    ⟨State.reset, 1, false, ?_⟩,
    ⟨State.reset, 1, false, ?_⟩⟩ <;>
  decide +kernel

theorem witness_PushAndDirect :
    (∃ (s : State) (die queue path : Nat) (data : List Byte), die < 4 ∧ s.present die = true ∧ queue < 4096 ∧ (s.prod die (1286 + path
      % 4)).dropping = false ∧ ((s.prod die (1286 + path % 4)).isOpen = true → (s.prod die (1286 + path % 4)).queue = queue) ∧
      s.mirrorEn die (1286 + path % 4) = false ∧ cellsOf ((s.prod die (1286 + path % 4)).bytes ++ data).length - (s.prod die (1286 +
      path % 4)).cells.length ≤ s.grantable die (s.reserveOk die (1286 + path % 4))) ∧
    (∃ (s : State) (die queue path : Nat), die < 4 ∧ s.present die = true ∧ queue < 4096 ∧ (s.prod die (1286 + path % 4)).isOpen =
      false) ∧
    (∃ (s : State) (die queue path m : Nat), die < 4 ∧ s.present die = true ∧ queue < 4096 ∧ (s.prod die (1286 + path % 4)).isOpen =
      true ∧ (s.prod die (1286 + path % 4)).dropping = false ∧ (s.prod die (1286 + path % 4)).queue = queue ∧ (s.prod die (1286 + path
      % 4)).bytes.length = m + 48 ∧ m ≤ 262144 ∧ leAt (s.prod die (1286 + path % 4)).bytes 1 1 = 1 ∧ leAt (s.prod die (1286 + path %
      4)).bytes 4 2 / 128 = die ∧ cellsOf (48 + roundUp m 64) - (s.prod die (1286 + path % 4)).cells.length ≤ s.grantable die
      (s.reserveOk die (1286 + path % 4))) ∧
    (∃ (s : State) (die : Nat), die < 4 ∧ s.present die = true ∧ s.bit (dk die + BS.BS_CTL) 0 = true) ∧
    (∃ (s : State) (die : Nat), die < 4 ∧ s.present die = true ∧ s.bit (dk die + BS.BS_CTL) 0 = false) ∧
    (∃ (s : State) (die queue : Nat) (f : Fence), die < 4 ∧ s.present die = true ∧ queue < 4096 ∧ (s.fences.find? (fun f => f.die ==
      die && f.queue == queue) = some f) ∧ f.due ≤ s.cycle ∧ s.grantable die true ≠ 0) := by
  refine ⟨⟨State.reset, 1, 7, 0, zeros 8, ?_⟩,
    ⟨State.reset, 1, 7, 0, ?_⟩,
    ⟨State.reset.setProd 1 1286 { isOpen := true, queue := 7, bytes := [2#8, 1#8, 0#8, 0#8, 0x82#8] ++ zeros 43 }, 1, 7, 0, 0, ?_⟩,
    ⟨State.reset.setBit (dk 1 + BS.BS_CTL) 0, 1, ?_⟩,
    ⟨State.reset, 1, ?_⟩,
    ⟨{ State.reset with fences := [({ die := 1, queue := 7, cause := 1, steward := 0, writer := 4, prevEpoch := 0, detect := 0, replayed := 0 })] }, 1, 7, ({ die := 1, queue := 7, cause := 1, steward := 0, writer := 4, prevEpoch := 0, detect := 0, replayed := 0 }), ?_⟩⟩ <;>
  decide +kernel

theorem witness_ChannelCommands :
    (∃ (s : State) (die e c v : Nat), bargeOk s die e c = true ∧ s.firstCmd die e c v = some 2 ∧ chRunning (s.chState die e c) = false
      ∧ s.ringAligned die e c = true) ∧
    (∃ (s : State) (die e c v : Nat), bargeOk s die e c = true ∧ s.firstCmd die e c v = some 2 ∧ chRunning (s.chState die e c) = true) ∧
    (∃ (s : State) (die e c v : Nat), bargeOk s die e c = true ∧ s.firstCmd die e c v = some 0 ∧ (s.chan die e c).abort = none) ∧
    (∃ (s : State) (die e c v : Nat), bargeOk s die e c = true ∧ s.firstCmd die e c v = some 0 ∧ (s.chan die e c).abort = none) ∧
    (∃ (s : State) (die e c v : Nat), bargeOk s die e c = true ∧ s.firstCmd die e c v = some 1 ∧ s.ringAligned die e c = true) ∧
    (∃ (s : State) (die e c v : Nat), bargeOk s die e c = true ∧ s.firstCmd die e c v = some 3) ∧
    (∃ (s : State) (die e v : Nat), bargeOk s die e 0 = true ∧ v.testBit 0 = true) ∧
    (∃ (s : State) (die e v : Nat), bargeOk s die e 0 = true ∧ v.testBit 0 = true) := by
  refine ⟨⟨State.reset, 1, 2, 3, 1, ?_⟩,
    ⟨State.reset.setChState 1 2 3 1, 1, 2, 3, 1, ?_⟩,
    ⟨State.reset.setChState 1 2 3 1, 1, 2, 3, 2, ?_⟩,
    ⟨State.reset.setChState 1 2 3 1, 1, 2, 3, 0x12, ?_⟩,
    ⟨State.reset.setChState 1 2 3 5, 1, 2, 3, 4, ?_⟩,
    ⟨State.reset.setChState 1 2 3 5, 1, 2, 3, 8, ?_⟩,
    ⟨State.reset, 1, 2, 1, ?_⟩,
    ⟨State.reset, 1, 2, 3, ?_⟩⟩ <;>
  decide +kernel

theorem witness_ChannelProgram :
    (∃ (s : State) (die e c : Nat), bargeOk s die e 0 = true ∧ (s.eng die e).active = none ∧ (((List.range 32).map (fun i => ((s.eng
      die e).last + 1 + i) % 32)).find? (fun c => s.chState die e c == 1 && (s.chan die e c).abort.isNone) = some c)) ∧
    (∃ (s : State) (die e c w : Nat), (s.eng die e).active = some c ∧ bargeOk s die e c = true ∧ (s.chan die e c).abort = none ∧
      (s.chan die e c).mv = none ∧ (s.chan die e c).ending = false ∧ s.progWord die e (s.chan die e c).pc = some w ∧ nbits w 63 60 = 2
      ∧ nbits w 33 11 = 0 ∧ nbits w 59 58 ≠ 3 ∧ s.rdN (bgc die e c + BG.CH_IDX0 + 4 * nbits w 59 58) + 1 < nbits w 57 34) ∧
    (∃ (s : State) (die e c w : Nat), (s.eng die e).active = some c ∧ bargeOk s die e c = true ∧ (s.chan die e c).abort = none ∧
      (s.chan die e c).mv = none ∧ (s.chan die e c).ending = false ∧ s.progWord die e (s.chan die e c).pc = some w ∧ nbits w 63 60 = 2
      ∧ nbits w 33 11 = 0 ∧ nbits w 59 58 ≠ 3 ∧ nbits w 57 34 ≠ 0 ∧ nbits w 57 34 ≤ s.rdN (bgc die e c + BG.CH_IDX0 + 4 * nbits w 59
      58) + 1) ∧
    (∃ (s : State) (die e c w : Nat), (s.eng die e).active = some c ∧ bargeOk s die e c = true ∧ (s.chan die e c).abort = none ∧
      (s.chan die e c).mv = none ∧ (s.chan die e c).ending = false ∧ s.progWord die e (s.chan die e c).pc = some w ∧ nbits w 63 60 = 3
      ∧ nbits w 59 6 = 0 ∧ s.bit (latchReg die e c (w % 64)) (w % 32) = true) ∧
    (∃ (s : State) (die e c w : Nat), (s.eng die e).active = some c ∧ bargeOk s die e c = true ∧ (s.chan die e c).abort = none ∧
      (s.chan die e c).mv = none ∧ (s.chan die e c).ending = false ∧ s.progWord die e (s.chan die e c).pc = some w ∧ nbits w 63 60 = 3
      ∧ nbits w 59 6 = 0 ∧ s.bit (latchReg die e c (w % 64)) (w % 32) = false) ∧
    (∃ (s : State) (die e c w : Nat), (s.eng die e).active = some c ∧ bargeOk s die e c = true ∧ (s.chan die e c).abort = none ∧
      (s.chan die e c).mv = none ∧ (s.chan die e c).ending = false ∧ s.progWord die e (s.chan die e c).pc = some w ∧ nbits w 63 60 = 4
      ∧ nbits w 59 3 = 0) ∧
    (∃ (s : State) (die e c w : Nat), (s.eng die e).active = some c ∧ bargeOk s die e c = true ∧ (s.chan die e c).abort = none ∧
      (s.chan die e c).mv = none ∧ (s.chan die e c).ending = false ∧ s.progWord die e (s.chan die e c).pc = some w ∧ nbits w 63 60 = 5
      ∧ nbits w 59 11 = 0) ∧
    (∃ (s : State) (die e c w : Nat) (ws : List Nat), (s.eng die e).active = some c ∧ bargeOk s die e c = true ∧ (s.chan die e c).abort
      = none ∧ (s.chan die e c).mv = none ∧ (s.chan die e c).ending = false ∧ s.progWord die e (s.chan die e c).pc = some w ∧ nbits w
      63 60 = 1 ∧ (s.mvFetch die e c (s.chan die e c).pc w).toOption = some ws ∧ nbits (ws.getD 0 0) 59 53 = 0 ∧ (ws.getD 0 0).testBit
      48 = false ∧ inSpace 32 [(((nbits (ws.getD 1 0) 31 0 : Int) + s.mvSteps die e c (ws.getD 3 0)), nbits (ws.getD 0 0) 24 0)] = true
      ∧ inSpace 32 [(((nbits (ws.getD 2 0) 39 0 : Int) + s.mvSteps die e c (ws.getD 4 0)), nbits (ws.getD 0 0) 24 0)] = true ∧
      meetsWindows [(((nbits (ws.getD 2 0) 39 0 : Int) + s.mvSteps die e c (ws.getD 4 0)), nbits (ws.getD 0 0) 24 0)] = false ∧ nbits
      (ws.getD 0 0) 24 0 ≠ 0) ∧
    (∃ (s : State) (die e c w : Nat), (s.eng die e).active = some c ∧ bargeOk s die e c = true ∧ (s.chan die e c).abort = none ∧
      (s.chan die e c).mv = none ∧ (s.chan die e c).ending = false ∧ s.progWord die e (s.chan die e c).pc = some w ∧ nbits w 63 60 = 0) := by
  refine ⟨⟨State.reset.setChState 1 2 3 1, 1, 2, 3, ?_⟩,
    ⟨(State.reset.setEng 1 2 { active := some 3 }).wrN (bg 1 2 + BG.PROG_HI) 0x20000010, 1, 2, 3, 0x2000001000000000, ?_⟩,
    ⟨(State.reset.setEng 1 2 { active := some 3 }).wrN (bg 1 2 + BG.PROG_HI) 0x20000004, 1, 2, 3, 0x2000000400000000, ?_⟩,
    ⟨((State.reset.setEng 1 2 { active := some 3 }).wrN (bg 1 2 + BG.PROG_HI) 0x30000000).setBit (bgc 1 2 3 + BG.CH_LATCH_LO) 0, 1, 2, 3, 0x3000000000000000, ?_⟩,
    ⟨(State.reset.setEng 1 2 { active := some 3 }).wrN (bg 1 2 + BG.PROG_HI) 0x30000000, 1, 2, 3, 0x3000000000000000, ?_⟩,
    ⟨(State.reset.setEng 1 2 { active := some 3 }).wrN (bg 1 2 + BG.PROG_HI) 0x40000000, 1, 2, 3, 0x4000000000000000, ?_⟩,
    ⟨(State.reset.setEng 1 2 { active := some 3 }).wrN (bg 1 2 + BG.PROG_HI) 0x50000000, 1, 2, 3, 0x5000000000000000, ?_⟩,
    ⟨((State.reset.setEng 1 2 { active := some 3 }).wrN (bg 1 2 + BG.PROG_HI) 0x10000000).wrN (bg 1 2 + BG.PROG_LO) 64, 1, 2, 3, 0x1000000000000040, [0x1000000000000040, 0, 0, 0, 0], ?_⟩,
    ⟨State.reset.setEng 1 2 { active := some 3 }, 1, 2, 3, 0, ?_⟩⟩ <;>
  decide +kernel

theorem witness_ChannelEvents :
    (∃ (s : State) (die e c d : Nat), (s.chan die e c).relAt = some d ∧ bargeOk s die e c = true ∧ d ≤ s.cycle ∧ (s.chan die e c).abort
      = none ∧ s.chState die e c = 3) ∧
    (∃ (s : State) (die e c x : Nat), (s.chan die e c).absT = some x ∧ bargeOk s die e c = true ∧ timeReached (s.stamp die) x = true ∧
      (s.chan die e c).abort = none ∧ s.chState die e c = 3) ∧
    (∃ (s : State) (die e c n : Nat) (rest : List Nat), bargeOk s die e c = true ∧ (s.chan die e c).sigs = n :: rest) ∧
    (∃ (s : State) (die e c : Nat), bargeOk s die e c = true ∧ (s.chan die e c).ending = true ∧ (s.chan die e c).abort = none) ∧
    (∃ (s : State) (die e c : Nat), bargeOk s die e c = true) ∧
    (∃ (s : State) (die e c : Nat), bargeOk s die e c = true) ∧
    (∃ (s : State) (die e c v : Nat), bargeOk s die e c = true ∧ chRunning (s.chState die e c) = false ∧ 12 ≤ v % 64 ∧ v % 64 ≤ 32) ∧
    (∃ (s : State) (die e c : Nat), bargeOk s die e c = true) ∧
    (∃ (s : State) (die e c off : Nat), bargeOk s die e c = true ∧ off = BG.CH_CFG ∧ chRunning (s.chState die e c) = false) ∧
    (∃ (s : State) (die e c off : Nat), bargeOk s die e c = true ∧ off = BG.CH_CFG ∧ chRunning (s.chState die e c) = true) := by
  refine ⟨⟨(State.reset.setChState 1 2 3 3).setChan 1 2 3 { relAt := some 0 }, 1, 2, 3, 0, ?_⟩,
    ⟨(State.reset.setChState 1 2 3 3).setChan 1 2 3 { absT := some 0 }, 1, 2, 3, 0, ?_⟩,
    ⟨State.reset.setChan 1 2 3 { sigs := [4] }, 1, 2, 3, 4, [], ?_⟩,
    ⟨State.reset.setChan 1 2 3 { ending := true }, 1, 2, 3, ?_⟩,
    ⟨State.reset, 1, 2, 3, ?_⟩,
    ⟨State.reset, 1, 2, 3, ?_⟩,
    ⟨State.reset, 1, 2, 3, 16, ?_⟩,
    ⟨State.reset, 1, 2, 3, ?_⟩,
    ⟨State.reset, 1, 2, 3, BG.CH_CFG, ?_⟩,
    ⟨State.reset.setChState 1 2 3 1, 1, 2, 3, BG.CH_CFG, ?_⟩⟩ <;>
  decide +kernel

theorem witness_EndpointAcceptance :
    (∃ (s : State) (st : Nat), s.stOk st = true) ∧
    (∃ (s : State) (st : Nat), s.stOk st = true ∧ (s.ep st).creditAt + msec (s.rdN (epb st + EP.ACCEPT_STALL)) ≤ s.cycle) ∧
    (∃ (s : State) (st : Nat), s.stOk st = true) ∧
    (∃ (s : State) (st : Nat), s.stOk st = true) ∧
    (∃ (s : State) (st : Nat), s.stOk st = true) := by
  refine ⟨⟨State.reset, 5, ?_⟩,
    ⟨{ State.reset.setBit (epb 4 + EP.EP_STAT) 17 with cycle := msec 1000000 }, 4, ?_⟩,
    ⟨(State.reset.setEp 4 { bme := true, stalled := true }).setBit (epb 4 + EP.EP_STAT) 16, 4, ?_⟩,
    ⟨State.reset.wrN (upb 4 + UP.MB_STATUS) 2, 4, ?_⟩,
    ⟨State.reset.setEp 4 { flr := true }, 4, ?_⟩⟩ <;>
  decide +kernel

theorem witness_RingsAndDoorbells :
    (∃ (s : State) (st k head : Nat), s.stOk st = true ∧ k < 1024 ∧ s.ringOn st k = true ∧ ((head % 2 ^ 64 + 2 ^ 64 - s.headBase st k)
      % 2 ^ 64) ≠ 0 ∧ (2 ^ s.fld (bgc (s.ringDie st k) (s.ringEng st k) (s.ringCh st k) + BG.RING_LOG) 5 0) < ((head % 2 ^ 64 + 2 ^ 64
      - s.headBase st k) % 2 ^ 64)) ∧
    (∃ (s : State) (st k head : Nat), s.stOk st = true ∧ k < 1024 ∧ s.ringOn st k = true ∧ s.peerLost st = false ∧ ((head % 2 ^ 64 + 2
      ^ 64 - s.headBase st k) % 2 ^ 64) ≠ 0 ∧ ((head % 2 ^ 64 + 2 ^ 64 - s.headBase st k) % 2 ^ 64) ≤ (2 ^ s.fld (bgc (s.ringDie st k)
      (s.ringEng st k) (s.ringCh st k) + BG.RING_LOG) 5 0) ∧ ((head % 2 ^ 64 + 2 ^ 64 - s.headBase st k) % 2 ^ 64) < 2 ^ 63) ∧
    (∃ (s : State) (st k h : Nat), s.stOk st = true ∧ k < 1024 ∧ h < 2 ^ 64 ∧ ((s.ep st).dbPend.find? (fun p => p.1 == k) = some (k,
      h)) ∧ (h + 2 ^ 64 - s.shadow st k) % 2 ^ 64 < 2 ^ 63) ∧
    (∃ (s : State) (st k lo : Nat), s.stOk st = true ∧ k < 1024 ∧ (s.ep st).dbLo.lookup k = some lo) ∧
    (∃ (s : State) (st k : Nat) (w : TailWr), s.stOk st = true ∧ ((s.ep st).tails.find? (fun t => t.ring == k) = some w) ∧ (s.ledger st
      k).stopped = false) ∧
    (∃ (s : State) (st k : Nat) (w : TailWr), s.stOk st = true ∧ ((s.ep st).tails.find? (fun t => t.ring == k) = some w) ∧ (s.ledger st
      k).stopped = true) ∧
    (∃ (s : State) (st k : Nat), s.stOk st = true ∧ s.hostSilent st = false ∧ 2 ≤ s.ringCfg st k 29 24 ∧ (s.ep st).vecPend.contains k =
      true ∧ (s.ep st).vecLast.lookup (s.ringCfg st k 29 24) = none) := by
  refine ⟨⟨State.reset.wrN (epb 4 + EP.RING_CFG) 0x80000000, 4, 0, 0x2000, ?_⟩,
    ⟨(State.reset.wrN (epb 4 + EP.RING_CFG) 0x80000000).wrN (fo 4 + BRS.FO_STAT) 1, 4, 0, 1, ?_⟩,
    ⟨State.reset.setEp 4 { dbPend := [(3, 77)] }, 4, 3, 77, ?_⟩,
    ⟨State.reset.setEp 5 { dbLo := [(3, 77)] }, 5, 3, 77, ?_⟩,
    ⟨State.reset.setEp 4 { tails := [{ ring := 3, value := 64, die := 1 }] }, 4, 3, { ring := 3, value := 64, die := 1 }, ?_⟩,
    ⟨(State.reset.setEp 4 { tails := [{ ring := 3, value := 64, die := 1 }] }).setLedger 4 3 { stopped := true }, 4, 3, { ring := 3, value := 64, die := 1 }, ?_⟩,
    ⟨(State.reset.setEp 4 { vecPend := [3] }).wrN (epb 4 + EP.RING_CFG + 0x60) 0x05000000, 4, 3, ?_⟩⟩ <;>
  decide +kernel

theorem witness_CarriersAndShedding :
    (∃ (s : State) (stream st : Nat), s.stOk st = true ∧ s.streamOk stream = true ∧ s.carrierOf (stream / 128) (s.rdN (dk (stream /
      128) + BS.BS_SQ + 4 * (stream % 128)) % 4096) ≠ st ∧ s.ringEntry (s.carrierOf (stream / 128) (s.rdN (dk (stream / 128) + BS.BS_SQ
      + 4 * (stream % 128)) % 4096)) (stream / 128) (s.rdN (dk (stream / 128) + BS.BS_SQ + 4 * (stream % 128)) % 4096) = none) ∧
    (∃ (s : State) (stream st k : Nat), s.stOk st = true ∧ s.streamOk stream = true ∧ s.carrierOf (stream / 128) (s.rdN (dk (stream /
      128) + BS.BS_SQ + 4 * (stream % 128)) % 4096) ≠ st ∧ s.ringEntry (s.carrierOf (stream / 128) (s.rdN (dk (stream / 128) + BS.BS_SQ
      + 4 * (stream % 128)) % 4096)) (stream / 128) (s.rdN (dk (stream / 128) + BS.BS_SQ + 4 * (stream % 128)) % 4096) = some k ∧
      s.drained (s.carrierOf (stream / 128) (s.rdN (dk (stream / 128) + BS.BS_SQ + 4 * (stream % 128)) % 4096)) (stream / 128) (s.ep
      (s.carrierOf (stream / 128) (s.rdN (dk (stream / 128) + BS.BS_SQ + 4 * (stream % 128)) % 4096))).nextNo = true ∧ chRunning
      (s.chState (stream / 128) (s.ringEng (s.carrierOf (stream / 128) (s.rdN (dk (stream / 128) + BS.BS_SQ + 4 * (stream % 128)) %
      4096)) k) (s.ringCh (s.carrierOf (stream / 128) (s.rdN (dk (stream / 128) + BS.BS_SQ + 4 * (stream % 128)) % 4096)) k)) = false) ∧
    (∃ (s : State) (st : Nat), s.stOk st = true) ∧
    (∃ (s : State) (st m : Nat), s.stOk st = true ∧ m < 5 ∧ s.bit (epb st + EP.EP_DRAIN_STAT) m = true ∧ s.drained st m (((s.ep
      st).drains.lookup m).getD (s.ep st).nextNo) = true) ∧
    (∃ (s : State) (st : Nat), s.stOk st = true ∧ s.finalC = false ∧ s.bit (epb st + EP.EP_CTL) 0 = true) ∧
    (∃ (s : State) (st stream a : Nat), s.stOk st = true ∧ s.finalC = false ∧ (s.ep st).holds.lookup stream = some a ∧ a + msec (s.fld
      (epb st + EP.SHED_PARAM) 31 16) ≤ s.cycle) := by
  refine ⟨⟨State.reset, 130, 5, ?_⟩,
    ⟨State.reset.wrN (epb 4 + EP.RING_CFG) 0x80400000, 128, 5, 0, ?_⟩,
    ⟨State.reset, 5, ?_⟩,
    ⟨State.reset.setBit (epb 4 + EP.EP_DRAIN_STAT) 2, 4, 2, ?_⟩,
    ⟨({ State.reset with part := .azl128 }).setBit (epb 4 + EP.EP_CTL) 0, 4, ?_⟩,
    ⟨({ (State.reset.setEp 4 { shed := [3], holds := [(3, 0)] }) with cycle := 60000000000 }), 4, 3, 0, ?_⟩⟩ <;>
  decide +kernel

theorem witness_ModuleStates :
    (∃ (s : State) (die m : Nat) (crcOk phyErr : Bool), s.endState die m = 3 ∧ crcOk = false ∧ phyErr = false ∧ (s.modS (farEnd die
      m).1 (farEnd die m).2).replays < 15) ∧
    (∃ (s : State) (die m : Nat) (phyErr : Bool), s.endState die m = 3 ∧ s.endState (farEnd die m).1 (farEnd die m).2 = 3 ∧ phyErr =
      true) ∧
    (∃ (s : State) (die m v : Nat), s.endState die m = 3 ∧ modFirst 3 v = some 2) ∧
    (∃ (s : State) (die m v : Nat), s.modOk die m = true ∧ modFirst (s.endState die m) v = some 1) ∧
    (∃ (s : State) (die m v : Nat), s.modOk die m = true ∧ modFirst (s.endState die m) v = some 0) ∧
    (∃ (s : State) (die m v : Nat), die < 4 ∧ s.modOk die m = true ∧ modFirst (s.endState die m) v = some 0 ∧ s.isPlanned die m = true) ∧
    (∃ (s : State) (die m : Nat), s.endState die m = 2 ∧ s.endState (farEnd die m).1 (farEnd die m).2 = 2) ∧
    (∃ (s : State) (die m : Nat), s.endState die m = 4 ∧ s.endState (farEnd die m).1 (farEnd die m).2 = 4 ∧ (s.modS die m).wrs = [] ∧
      (s.modS (farEnd die m).1 (farEnd die m).2).wrs = []) ∧
    (∃ (s : State) (die m : Nat) (w : PendWr), s.stOk die = true ∧ m < 4 ∧ s.endState die m = 4 ∧ s.endState m (die - 4) = 4 ∧ (s.modS
      die m).wrs = [] ∧ (s.modS m (die - 4)).wrs = [w] ∧ rxLenOk w.addr w.data.length = true ∧ w.addr + w.data.length ≤ 0x300000000) ∧
    (∃ (s : State) (die m : Nat), s.endState die m = 4 ∧ (s.modS die m).retrainAt + usec (s.rdN (modKey die m BR.RETRAIN_LIMIT)) <
      s.cycle) ∧
    (∃ (s : State) (die m : Nat), s.modOk die m = true ∧ s.sbUp die m = false) := by
  refine ⟨⟨State.reset.wrFld (modKey 1 0 BR.MOD_STAT) 2 0 3, 1, 0, false, false, ?_⟩,
    ⟨(State.reset.wrFld (modKey 1 0 BR.MOD_STAT) 2 0 3).wrFld (modKey 4 1 BR.MOD_STAT) 2 0 3, 1, 0, true, ?_⟩,
    ⟨State.reset.wrFld (modKey 1 0 BR.MOD_STAT) 2 0 3, 1, 0, 1, ?_⟩,
    ⟨State.reset.wrFld (modKey 4 2 BR.MOD_STAT) 2 0 1, 4, 2, 4, ?_⟩,
    ⟨State.reset.wrFld (modKey 1 1 BR.MOD_STAT) 2 0 2, 1, 1, 2, ?_⟩,
    ⟨(State.reset.wrFld (modKey 1 1 BR.MOD_STAT) 2 0 2).setBit (foStat 1) 4, 1, 1, 2, ?_⟩,
    ⟨(State.reset.wrFld (modKey 1 0 BR.MOD_STAT) 2 0 2).wrFld (modKey 4 1 BR.MOD_STAT) 2 0 2, 1, 0, ?_⟩,
    ⟨(State.reset.wrFld (modKey 1 0 BR.MOD_STAT) 2 0 4).wrFld (modKey 4 1 BR.MOD_STAT) 2 0 4, 1, 0, ?_⟩,
    ⟨((State.reset.wrFld (modKey 1 0 BR.MOD_STAT) 2 0 4).wrFld (modKey 4 1 BR.MOD_STAT) 2 0 4).setMod 1 0 { wrs := [{ req := 9, addr := 0x1000, data := [1#8, 2#8, 3#8, 4#8] }] }, 4, 1, { req := 9, addr := 0x1000, data := [1#8, 2#8, 3#8, 4#8] }, ?_⟩,
    ⟨{ (State.reset.wrFld (modKey 1 1 BR.MOD_STAT) 2 0 4) with cycle := 1000000000 }, 1, 1, ?_⟩,
    ⟨({ State.reset with part := .azl128 }).clrBit (modKey 0 0 BR.MOD_STAT) 8, 0, 0, ?_⟩⟩ <;>
  decide +kernel

theorem witness_FabricTransactions :
    (∃ (s : State) (die m addr : Nat) (data : List Byte), s.stOk die = true ∧ m < 4 ∧ rxLenOk addr data.length = true ∧ addr +
      data.length ≤ 0x300000000 ∧ s.sendStop die m = 0 ∧ s.endState m (die - 4) = 3 ∧ pUnits data.length ≤ s.pFree m (die - 4)) ∧
    (∃ (s : State) (die m tag addr len : Nat), s.stOk die = true ∧ m = 4 ∧ rxLenOk addr len = true ∧ addr + len ≤ 0x300000000 ∧
      s.sendStop die m = 0 ∧ s.endState (partner die) 4 = 3 ∧ s.inMark (partner die) 4 (0x4000000000 + addr) = false ∧ ((s.modS
      (partner die) 4).rds).length < 32 ∧ (((s.modS (partner die) 4).rds).any (fun r => r.tag == tag) = false)) ∧
    (∃ (s : State) (die m tag : Nat) (r : PendRd) (rest : List PendRd), s.modOk die m = true ∧ s.endState die m = 3 ∧ (s.modS die
      m).rds = r :: rest ∧ r.tag = tag ∧ r.status = 0 ∧ r.data.length = r.len) ∧
    (∃ (s : State) (die m tag : Nat) (r : PendRd), s.modOk die m = true ∧ ((s.modS die m).rds.find? (fun r => r.tag == tag) = some r) ∧
      r.at_ + usec (s.rdN (modKey die m BR.NP_TIMEOUT)) ≤ s.cycle) ∧
    (∃ (s : State) (st m i : Nat) (limit : Bool), s.stOk st = true ∧ s.modOk st m = true ∧ i < 8 ∧ limit = false) ∧
    (∃ (s : State) (st m : Nat), s.stOk st = true ∧ s.modOk st m = true) ∧
    (∃ (s : State) (st m : Nat), s.stOk st = true ∧ s.modOk st m = true) := by
  refine ⟨⟨State.reset.wrFld (modKey 1 0 BR.MOD_STAT) 2 0 3, 4, 1, 0x1000, [1#8, 2#8, 3#8, 4#8], ?_⟩,
    ⟨((State.reset.wrFld (modKey 5 4 BR.MOD_STAT) 2 0 3).setBit (fo 5 + BRS.FO_STAT) 0).setByte 4 0x1002 7#8, 4, 4, 2, 0x1000, 8, ?_⟩,
    ⟨(State.reset.wrFld (modKey 5 4 BR.MOD_STAT) 2 0 3).setMod 5 4 { rds := [{ tag := 2, req := 5, addr := 0, at_ := 0, len := 1, data := [9#8] }] }, 5, 4, 2, { tag := 2, req := 5, addr := 0, at_ := 0, len := 1, data := [9#8] }, [], ?_⟩,
    ⟨{ (State.reset.setMod 5 4 { rds := [{ tag := 2, req := 5, addr := 0, at_ := 0, len := 1, data := [9#8] }] }) with cycle := 1000000000 }, 5, 4, 2, { tag := 2, req := 5, addr := 0, at_ := 0, len := 1, data := [9#8] }, ?_⟩,
    ⟨State.reset, 4, 1, 2, false, ?_⟩,
    ⟨State.reset.setMod 4 1 { lines := [{ addr := 0, at_ := 0, data := [] }] }, 4, 1, ?_⟩,
    ⟨State.reset.setMod 4 1 { lines := [{ addr := 0, at_ := 0, data := [] }] }, 4, 1, ?_⟩⟩ <;>
  decide +kernel

theorem witness_Semaphores :
    (∃ (s : State) (die n req rival : Nat), s.present die = true ∧ n < 64 ∧ s.fld (semKey die n) 7 0 = 0 ∧ 1 ≤ req ∧ req < 256 ∧ 1 ≤
      rival ∧ rival < 256 ∧ semPath rival ≠ semPath req) ∧
    (∃ (s : State) (die v : Nat), s.present die = true ∧ v.testBit 8 = false ∧ v % 256 ≠ 0) ∧
    (∃ (s : State) (die v : Nat), s.present die = true ∧ v.testBit 8 = true) := by
  refine ⟨⟨State.reset.wrFld (semKey 1 63) 17 16 1, 1, 63, 1, 5, ?_⟩,
    ⟨State.reset.wrN (semKey 4 63) 1, 4, 1, ?_⟩,
    ⟨State.reset.wrN (semKey 4 63) 1, 4, 0x100, ?_⟩⟩ <;>
  decide +kernel

theorem witness_InterruptClaims :
    (∃ (s : State) (die n : Nat), die < 4 ∧ s.present die = true ∧ n < 250 ∧ (s.concLevel die n ≠ Tbl.get (fun _ => false) s.irqSent
      (die * 256 + n)) ∧ s.bit (iq die + IQ.SRC_CFG + 4 * n) 0 = true ∧ s.irqPath die 4 = true ∧ s.endState 4 die = 3) ∧
    (∃ (s : State) (die v : Nat), die < 4 ∧ s.present die = true ∧ v.testBit 0 = true ∧ s.irqPath die 4 = true ∧ s.endState 4 die = 3) ∧
    (∃ (s : State) (die v : Nat), die < 4 ∧ s.present die = true ∧ v.testBit 1 = true ∧ s.irqPath die 5 = true ∧ s.endState 5 die = 3) ∧
    (∃ (s : State) (die : Nat), s.present die = true) ∧
    (∃ (s : State) (die : Nat), s.present die = true) ∧
    (∃ (s : State) (st k g : Nat), s.stOk st = true ∧ k < 8 ∧ s.irqBest st k = some g) ∧
    (∃ (s : State) (st k v : Nat), s.stOk st = true ∧ k < 8 ∧ (Tbl.get (fun _ => false) s.irqClaims (st * 2048 + v % 2048) = true)) ∧
    (∃ (s : State) (die core n : Nat), die < 4 ∧ s.present die = true ∧ core < 2 ∧ ((List.range 250).find? (fun n => s.kpFor die core
      n) = some n)) ∧
    (∃ (s : State) (die core v : Nat), die < 4 ∧ s.present die = true ∧ core < 2 ∧ (Tbl.get (fun _ => false) s.kpClaims (die * 256 + v
      % 256) = true)) := by
  refine ⟨⟨((({ State.reset with swLv := [(1 * 16, true)] }).wrN (iq 1 + IQ.SRC_CFG + 4 * 218) 1).wrN (modKey 1 0 BR.MOD_STAT) 0x103).wrN (modKey 4 1 BR.MOD_STAT) 0x103, 1, 218, ?_⟩,
    ⟨((State.reset.wrN (modKey 1 0 BR.MOD_STAT) 0x103).wrN (modKey 4 1 BR.MOD_STAT) 0x103).setBit (dk 1 + BS.BS_EVENTS) 0, 1, 1, ?_⟩,
    ⟨((State.reset.wrN (modKey 1 1 BR.MOD_STAT) 0x103).wrN (modKey 5 1 BR.MOD_STAT) 0x103).setBit (dk 1 + BS.BS_EVENTS) 0, 1, 2, ?_⟩,
    ⟨State.reset, 1, ?_⟩,
    ⟨State.reset, 5, ?_⟩,
    ⟨({ State.reset with swLv := [(4 * 16, true)] }).wrN (iqs 4 + IQS.ROUTE + 4 * 48) 0x101, 4, 0, 48, ?_⟩,
    ⟨{ State.reset with irqClaims := [(4 * 2048 + 48, true)] }, 4, 0, 48, ?_⟩,
    ⟨({ State.reset with swLv := [(1 * 16, true)] }).wrN (iq 1 + IQ.SRC_CFG + 4 * 218) 4, 1, 0, 218, ?_⟩,
    ⟨{ State.reset with kpClaims := [(1 * 256 + 218, true)] }, 1, 0, 218, ?_⟩⟩ <;>
  decide +kernel

theorem witness_EventCarriage :
    (∃ (s : State) (die c : Nat), s.efOk die = true ∧ s.efDue die = some c ∧ ((s.efS die).pulses.any (fun p => p.2.2 == c) = true)) ∧
    (∃ (s : State) (die c : Nat), s.efOk die = true ∧ s.efDue die = some c ∧ ((s.efS die).held.any (fun h => h.1 == c) = true)) ∧
    (∃ (s : State) (die : Nat) (c : EvCap) (rest : List EvCap), s.efOk die = true ∧ (s.efS die).cap = c :: rest ∧ (s.efS die).lastRec =
      none) ∧
    (∃ (s : State) (st : Nat) (m : RelayMsg) (rest : List RelayMsg), (Tbl.get (fun _ => []) s.relaySt st = m :: rest)) ∧
    (∃ (s : State) (die : Nat) (m : RelayMsg) (rest : List RelayMsg), s.efOk die = true ∧ (s.efS die).inbox = m :: rest ∧ (s.efS
      die).seen.contains (m.src, m.line, m.seq) = false ∧ s.stamp die < m.cyc + s.fld (ef die + EF.EF_CTL) 16 0 * 65536 + 65536) ∧
    (∃ (s : State) (die : Nat) (m : RelayMsg) (rest : List RelayMsg), s.efOk die = true ∧ (s.efS die).inbox = m :: rest ∧ (s.efS
      die).seen.contains (m.src, m.line, m.seq) = true) ∧
    (∃ (s : State) (die : Nat) (x : Nat × Nat × Nat), s.efOk die = true ∧ ((s.efS die).due.find? (fun x => decide (x.2.1 ≤ s.stamp
      die)) = some x)) ∧
    (∃ (s : State) (die : Nat), s.efOk die = true) := by
  refine ⟨⟨(State.reset.setAct (ef 0 + EF.EN_LO + 8 * 700) 2#32).pulse 0 700, 0, 0, ?_⟩,
    ⟨State.reset.setEf 0 { held := [(0, { ch := 1, ep := 700, stamp := 0 })] }, 0, 0, ?_⟩,
    ⟨State.reset.setEf 0 { cap := [{ ev := { ch := 1, ep := 700, stamp := 0 }, cyc := 0, q := 0, pins := 0, wins := 0 }] }, 0, { ev := { ch := 1, ep := 700, stamp := 0 }, cyc := 0, q := 0, pins := 0, wins := 0 }, [], ?_⟩,
    ⟨{ State.reset with relaySt := [(4, [{ src := 0, line := 1, seq := 0, stamp := 0, cyc := 0 }])] }, 4, { src := 0, line := 1, seq := 0, stamp := 0, cyc := 0 }, [], ?_⟩,
    ⟨State.reset.setEf 1 { inbox := [{ src := 0, line := 1, seq := 0, stamp := 0, cyc := 0 }] }, 1, { src := 0, line := 1, seq := 0, stamp := 0, cyc := 0 }, [], ?_⟩,
    ⟨State.reset.setEf 1 { inbox := [{ src := 0, line := 1, seq := 0, stamp := 0, cyc := 0 }], seen := [(0, 1, 0)] }, 1, { src := 0, line := 1, seq := 0, stamp := 0, cyc := 0 }, [], ?_⟩,
    ⟨State.reset.setEf 1 { due := [(3, 0, 0)] }, 1, (3, 0, 0), ?_⟩,
    ⟨State.reset, 1, ?_⟩⟩ <;>
  decide +kernel

theorem witness_CellsWindowsPins :
    (∃ (s : State) (die cell : Nat) (x : Nat × Nat), ((s.efS die).edges.find? (fun x => x.1 == cell && decide (x.2 ≤ s.cycle)) = some
      x) ∧ s.afld (lcK die cell + EF.LC_CTL) 9 8 ≠ 3) ∧
    (∃ (s : State) (die cell a : Nat), s.efOk die = true ∧ cell < 16 ∧ (s.cellS die cell).since = some a ∧ a + s.cellTicks die cell ≤
      s.cycle + 1) ∧
    (∃ (s : State) (die cell a : Nat), (s.cellS die cell).hold = some a ∧ a ≤ s.cycle) ∧
    (∃ (s : State) (die w : Nat), s.efOk die = true ∧ w < 8 ∧ (s.winS die w).en = true ∧ (s.winS die w).opened = false ∧ (s.winS die
      w).opn ≤ s.stamp die) ∧
    (∃ (s : State) (die w : Nat), s.efOk die = true ∧ w < 8 ∧ (s.winS die w).en = true ∧ (s.winS die w).opened = true ∧ (s.winS die
      w).closed = false ∧ (s.winS die w).cls ≤ s.stamp die) ∧
    (∃ (s : State) (die pin held : Nat) (level : Bool), s.efOk die = true ∧ pin < 4 ∧ s.abit (pinK die pin + EF.PIN_CFG) 0 = false ∧
      s.bit (pinK die pin + EF.PIN_STAT) 0 ≠ level ∧ s.pinHold die pin ≤ held) ∧
    (∃ (s : State) (die pin held : Nat), s.efOk die = true ∧ pin < 4 ∧ s.abit (pinK die pin + EF.PIN_CFG) 0 = false ∧ held < s.pinHold
      die pin) ∧
    (∃ (s : State) (die pin a : Nat), s.efOk die = true ∧ pin < 4 ∧ s.finalC = false ∧ ((Tbl.get (fun _ => (false, none)) (s.efS
      die).pins pin).2 = some a) ∧ a ≤ s.cycle) := by
  refine ⟨⟨State.reset.setEf 1 { edges := [(3, 0)] }, 1, 3, (3, 0), ?_⟩,
    ⟨State.reset.setEf 1 { cells := [(3, { since := some 0 })] }, 1, 3, 0, ?_⟩,
    ⟨State.reset.setEf 1 { cells := [(3, { hold := some 0 })] }, 1, 3, 0, ?_⟩,
    ⟨State.reset.setEf 1 { wins := [(3, { en := true })] }, 1, 3, ?_⟩,
    ⟨State.reset.setEf 1 { wins := [(3, { en := true, opened := true })] }, 1, 3, ?_⟩,
    ⟨State.reset.setAct (pinK 1 2 + EF.PIN_CFG) 0x40000#32, 1, 2, 4, true, ?_⟩,
    ⟨State.reset.setAct (pinK 1 2 + EF.PIN_CFG) 0x40000#32, 1, 2, 3, ?_⟩,
    ⟨State.reset.setEf 1 { pins := [(3, true, some 0)] }, 1, 3, 0, ?_⟩⟩ <;>
  decide +kernel

theorem witness_FabricCommit :
    (∃ (s : State) (die off w l : Nat), s.efOk die = true ∧ 0x30000 ≤ off ∧ efShadowed off = true ∧ ((lookupReg (ef die + off)).map
      (fun e => (e.1.wr, e.1.lock)) = some (w, l))) ∧
    (∃ (s : State) (die off req n : Nat), s.efOk die = true ∧ n < 64 ∧ off = 0x10000 + 16 * n ∧ ownRight (s.actN (chK die n +
      EF.CH_CFG)) req = 0 ∧ (lookupReg (ef die + off)).isSome = true) ∧
    (∃ (s : State) (die cell req v : Nat), s.efOk die = true ∧ cell < 16 ∧ v.testBit 0 = true ∧ ownRight (s.actN (lcK die cell +
      EF.LC_CTL)) req = 3) ∧
    (∃ (s : State) (die cell req v : Nat), s.efOk die = true ∧ cell < 16 ∧ v.testBit 0 = true ∧ ownRight (s.actN (lcK die cell +
      EF.LC_CTL)) req = 4) ∧
    (∃ (s : State) (die v : Nat), s.efOk die = true ∧ v.testBit 0 = true ∧ (s.efS die).snap = none) ∧
    (∃ (s : State) (die v : Nat) (q : Tbl Word), s.efOk die = true ∧ v.testBit 0 = true ∧ (s.efS die).snap = some q) ∧
    (∃ (s : State) (die : Nat) (q : Tbl Word), (s.efS die).snap = some q ∧ (loopAt (fun k => (Tbl.get resetWord q k).toNat) die = none)
      ∧ ((List.range 64).any (fun n => nbits ((fun k => (Tbl.get resetWord q k).toNat) (chK die n + EF.CH_CFG)) 30 29 == 3) = false) ∧
      ((List.range 16).find? (fun c => cellBad (fun k => (Tbl.get resetWord q k).toNat) die c) = none) ∧ ((List.range 8).find? (fun w
      => winBad (fun k => (Tbl.get resetWord q k).toNat) die w) = none)) ∧
    (∃ (s : State) (die : Nat) (q : Tbl Word) (n : Nat), (s.efS die).snap = some q ∧ (loopAt (fun k => (Tbl.get resetWord q k).toNat)
      die = some n)) := by
  refine ⟨⟨State.reset, 1, 0x40400, 0xBF, 0, ?_⟩,
    ⟨State.reset.setAct (chK 1 5 + EF.CH_CFG) 0x80000000#32, 1, 0x10050, 1, 5, ?_⟩,
    ⟨State.reset, 1, 3, 1, 1, ?_⟩,
    ⟨State.reset.setAct (lcK 1 3 + EF.LC_CTL) 0x20000000#32, 1, 3, 9, 1, ?_⟩,
    ⟨State.reset, 1, 1, ?_⟩,
    ⟨State.reset.setEf 1 { snap := some [] }, 1, 1, [], ?_⟩,
    ⟨State.reset.setEf 1 { snap := some [] }, 1, [], ?_⟩,
    ⟨State.reset.setEf 1 { snap := some ([(ef 1 + EF.EN_LO + 8 * 624, 8#32), (ef 1 + EF.LC_INAB, 0x103#32)]) }, 1, ([(ef 1 + EF.EN_LO + 8 * 624, 8#32), (ef 1 + EF.LC_INAB, 0x103#32)]), 3, ?_⟩⟩ <;>
  decide +kernel

theorem witness_AxisDecoding :
    (∃ (s : State) (axis levels held : Nat) (d : Int), s.axOk axis = true ∧ s.axSteady axis held = true ∧ s.axMode axis = 1 ∧ phaseStep
      4 (quadPhase (s.fld (ax axis + AX.AX_STAT) 10 8)) (quadPhase levels) = some d) ∧
    (∃ (s : State) (axis levels held : Nat), s.axOk axis = true ∧ s.axSteady axis held = true ∧ s.axMode axis = 1 ∧ phaseStep 4
      (quadPhase (s.fld (ax axis + AX.AX_STAT) 10 8)) (quadPhase levels) = none) ∧
    (∃ (s : State) (axis levels held n w : Nat) (d : Int), s.axOk axis = true ∧ s.axSteady axis held = true ∧ s.axMode axis = 2 ∧
      hallPhase levels = some n ∧ (s.axS axis).valid = some w ∧ phaseStep 6 w n = some d) ∧
    (∃ (s : State) (axis held : Nat), s.axSteady axis held = false) ∧
    (∃ (s : State) (axis stamp held : Nat), s.axOk axis = true ∧ s.axSteady axis held = true ∧ s.axMode axis = 1 ∧ s.bit (ax axis +
      AX.AX_STAT) 0 = false ∧ (s.axS axis).faultAt ≠ some stamp) ∧
    (∃ (s : State) (axis held : Nat), s.axOk axis = true ∧ s.axSteady axis held = true ∧ s.axMode axis = 1 ∧ s.bit (ax axis +
      AX.AX_STAT) 0 = true ∧ s.bit (ax axis + AX.AX_STAT) 2 = false ∧ (s.afld (ax axis + AX.IDX_GATE) 15 0 : Int) < (s.axIdxDiff
      axis).natAbs) ∧
    (∃ (s : State) (axis : Nat), s.axOk axis = true ∧ s.finalC = false ∧ s.axMode axis = 3 ∧ (s.axS axis).ssiAt = none ∧ (s.axS
      axis).ssiPrev = none) ∧
    (∃ (s : State) (axis : Nat) (highOk : Bool) (a : Nat), s.axOk axis = true ∧ s.axMode axis = 3 ∧ (s.axS axis).ssiAt = some a ∧
      (s.axS axis).ssiFirst = true ∧ highOk = true) ∧
    (∃ (s : State) (axis : Nat) (highOk : Bool) (a : Nat), s.axOk axis = true ∧ s.axMode axis = 3 ∧ (s.axS axis).ssiAt = some a ∧
      highOk = false) := by
  refine ⟨⟨State.reset.setAct (ax 1 + AX.AX_CTL) 1#32, 1, 1, 255, 1, ?_⟩,
    ⟨State.reset.setAct (ax 1 + AX.AX_CTL) 1#32, 1, 3, 255, ?_⟩,
    ⟨(State.reset.setAct (ax 1 + AX.AX_CTL) 2#32).setAx 1 { valid := some 0 }, 1, 3, 255, 1, 0, 1, ?_⟩,
    ⟨State.reset, 1, 0, ?_⟩,
    ⟨State.reset.setAct (ax 1 + AX.AX_CTL) 1#32, 1, 77, 255, ?_⟩,
    ⟨((State.reset.setAct (ax 1 + AX.AX_CTL) 1#32).setBit (ax 1 + AX.AX_STAT) 0).wrN (ax 1 + AX.COUNT) 0x100000, 1, 255, ?_⟩,
    ⟨State.reset.setAct (ax 1 + AX.AX_CTL) 3#32, 1, ?_⟩,
    ⟨(State.reset.setAct (ax 1 + AX.AX_CTL) 3#32).setAx 1 { ssiAt := some 5 }, 1, true, 5, ?_⟩,
    ⟨(State.reset.setAct (ax 1 + AX.AX_CTL) 3#32).setAx 1 { ssiAt := some 5 }, 1, false, 5, ?_⟩⟩ <;>
  decide +kernel

theorem witness_AxisCommands :
    (∃ (s : State) (axis : Nat), s.axOk axis = true ∧ (s.axS axis).obsAt + usec 1 ≤ s.cycle) ∧
    (∃ (s : State) (axis a : Nat), s.axOk axis = true ∧ (s.axS axis).illOpen = some a ∧ a + usec (s.afld (ax axis + AX.FAULT_CFG) 31
      16) ≤ s.cycle) ∧
    (∃ (s : State) (axis v : Nat), s.axOk axis = true ∧ v.testBit 0 = true ∧ s.axRefuse axis = false) ∧
    (∃ (s : State) (axis v : Nat), s.axOk axis = true ∧ v.testBit 0 = true ∧ s.axRefuse axis = true) ∧
    (∃ (s : State) (axis v : Nat), s.axOk axis = true ∧ v.testBit 0 = true ∧ (s.axMode axis = 1 ∨ s.axMode axis = 2)) ∧
    (∃ (s : State) (axis v : Nat), s.axOk axis = true ∧ v.testBit 1 = true) ∧
    (∃ (s : State) (axis v : Nat), s.axOk axis = true ∧ v.testBit 2 = true) ∧
    (∃ (s : State) (axis : Nat), s.axOk axis = true ∧ s.afld (ax axis + AX.REC_CFG) 15 0 ≠ 0 ∧ (s.axS axis).lastPer + usec (s.afld (ax
      axis + AX.REC_CFG) 15 0) ≤ s.cycle ∧ (s.axS axis).trigs = []) ∧
    (∃ (s : State) (axis a c : Nat) (rest : List (Nat × Nat)), s.axOk axis = true ∧ (s.axS axis).trigs = (a, c) :: rest ∧ (s.axS
      axis).lastRec = none) ∧
    (∃ (s : State) (axis : Nat), s.axOk axis = true) := by
  refine ⟨⟨{ State.reset with cycle := usec 1 }, 5, ?_⟩,
    ⟨{ (State.reset.setAx 5 { illOpen := some 0 }) with cycle := 1000 * usec 1 }, 5, 0, ?_⟩,
    ⟨State.reset, 5, 1, ?_⟩,
    ⟨State.reset.wrN (ax 5 + AX.FILT) 0, 5, 1, ?_⟩,
    ⟨State.reset.setAct (ax 5 + AX.AX_CTL) 1#32, 5, 1, ?_⟩,
    ⟨State.reset, 5, 2, ?_⟩,
    ⟨State.reset, 5, 4, ?_⟩,
    ⟨{ (State.reset.setAct (ax 5 + AX.REC_CFG) 1#32) with cycle := 5000 }, 5, ?_⟩,
    ⟨State.reset.setAx 5 { trigs := [(0, 1)] }, 5, 0, 1, [], ?_⟩,
    ⟨State.reset, 5, ?_⟩⟩ <;>
  decide +kernel

theorem witness_JournalRecords :
    (∃ (s : State) (st k : Nat), s.jnTakes st = true ∧ k < 64 ∧ s.jrFld st k 31 31 = 1 ∧ (s.jnS st).stopped.contains k = false ∧
      bargeOk s (s.jrFld st k 23 22) (s.jrFld st k 21 18) (s.jrFld st k 17 13) = true ∧ s.carrierOf (s.jrFld st k 23 22) (s.jrFld st k
      11 0) = st ∧ leAt (s.ringBytes st (s.rdN (bgc (s.jrFld st k 23 22) (s.jrFld st k 21 18) (s.jrFld st k 17 13) + BG.RING_BASE_LO) +
      s.fld (bgc (s.jrFld st k 23 22) (s.jrFld st k 21 18) (s.jrFld st k 17 13) + BG.RING_BASE_HI) 7 0 * 2 ^ 32) (2 ^ s.fld (bgc
      (s.jrFld st k 23 22) (s.jrFld st k 21 18) (s.jrFld st k 17 13) + BG.RING_LOG) 5 0) (s.jrPos st k) 48) 1 1 % 16 = 1 ∧ leAt
      (s.ringBytes st (s.rdN (bgc (s.jrFld st k 23 22) (s.jrFld st k 21 18) (s.jrFld st k 17 13) + BG.RING_BASE_LO) + s.fld (bgc
      (s.jrFld st k 23 22) (s.jrFld st k 21 18) (s.jrFld st k 17 13) + BG.RING_BASE_HI) 7 0 * 2 ^ 32) (2 ^ s.fld (bgc (s.jrFld st k 23
      22) (s.jrFld st k 21 18) (s.jrFld st k 17 13) + BG.RING_LOG) 5 0) (s.jrPos st k) 48) 8 4 % 64 = 0 ∧ leAt (s.ringBytes st (s.rdN
      (bgc (s.jrFld st k 23 22) (s.jrFld st k 21 18) (s.jrFld st k 17 13) + BG.RING_BASE_LO) + s.fld (bgc (s.jrFld st k 23 22) (s.jrFld
      st k 21 18) (s.jrFld st k 17 13) + BG.RING_BASE_HI) 7 0 * 2 ^ 32) (2 ^ s.fld (bgc (s.jrFld st k 23 22) (s.jrFld st k 21 18)
      (s.jrFld st k 17 13) + BG.RING_LOG) 5 0) (s.jrPos st k) 48) 8 4 ≤ 262144 ∧ s.jrPos st k + 48 + leAt (s.ringBytes st (s.rdN (bgc
      (s.jrFld st k 23 22) (s.jrFld st k 21 18) (s.jrFld st k 17 13) + BG.RING_BASE_LO) + s.fld (bgc (s.jrFld st k 23 22) (s.jrFld st k
      21 18) (s.jrFld st k 17 13) + BG.RING_BASE_HI) 7 0 * 2 ^ 32) (2 ^ s.fld (bgc (s.jrFld st k 23 22) (s.jrFld st k 21 18) (s.jrFld
      st k 17 13) + BG.RING_LOG) 5 0) (s.jrPos st k) 48) 8 4 ≤ leNat (s.bytesAt st (s.rdN (jn st + JN.JR_TAIL_LO + 0x20 * k) + s.fld
      (jn st + JN.JR_TAIL_HI + 0x20 * k) 7 0 * 2 ^ 32) 8) ∧ (s.jnS st).inflight + 48 + leAt (s.ringBytes st (s.rdN (bgc (s.jrFld st k
      23 22) (s.jrFld st k 21 18) (s.jrFld st k 17 13) + BG.RING_BASE_LO) + s.fld (bgc (s.jrFld st k 23 22) (s.jrFld st k 21 18)
      (s.jrFld st k 17 13) + BG.RING_BASE_HI) 7 0 * 2 ^ 32) (2 ^ s.fld (bgc (s.jrFld st k 23 22) (s.jrFld st k 21 18) (s.jrFld st k 17
      13) + BG.RING_LOG) 5 0) (s.jrPos st k) 48) 8 4 ≤ s.jnWindow st) ∧
    (∃ (s : State) (st k : Nat), s.jnTakes st = true ∧ k < 64 ∧ s.jrFld st k 31 31 = 1 ∧ (s.jnS st).stopped.contains k = false ∧
      bargeOk s (s.jrFld st k 23 22) (s.jrFld st k 21 18) (s.jrFld st k 17 13) = true ∧ s.carrierOf (s.jrFld st k 23 22) (s.jrFld st k
      11 0) = st ∧ leAt (s.ringBytes st (s.rdN (bgc (s.jrFld st k 23 22) (s.jrFld st k 21 18) (s.jrFld st k 17 13) + BG.RING_BASE_LO) +
      s.fld (bgc (s.jrFld st k 23 22) (s.jrFld st k 21 18) (s.jrFld st k 17 13) + BG.RING_BASE_HI) 7 0 * 2 ^ 32) (2 ^ s.fld (bgc
      (s.jrFld st k 23 22) (s.jrFld st k 21 18) (s.jrFld st k 17 13) + BG.RING_LOG) 5 0) (s.jrPos st k) 48) 1 1 % 16 ≠ 1 ∧ s.jrPos st k
      + 48 ≤ leNat (s.bytesAt st (s.rdN (jn st + JN.JR_TAIL_LO + 0x20 * k) + s.fld (jn st + JN.JR_TAIL_HI + 0x20 * k) 7 0 * 2 ^ 32) 8)) ∧
    (∃ (s : State) (st : Nat) (r : List Byte) (rest : List (List Byte)), s.stOk st = true ∧ (s.jnS st).fwd = r :: rest ∧ s.jnState st =
      3 ∧ (s.jnS st).final = false ∧ s.forwarding st = false ∧ (s.jnS st).inflight + r.length ≤ s.jnWindow st) ∧
    (∃ (s : State) (st v : Nat), s.jnLive st = true ∧ v.testBit 0 = true) ∧
    (∃ (s : State) (st a : Nat), s.jnLive st = true ∧ (s.jnS st).firstAcc = some a ∧ a + msec (s.fld (jn st + JN.COMMIT_LAT) 31 16) ≤
      s.cycle) ∧
    (∃ (s : State) (st a : Nat), s.jnLive st = true ∧ (s.jnS st).firstAcc = some a ∧ a + msec (s.fld (jn st + JN.COMMIT_LAT) 15 0) ≤
      s.cycle ∧ s.padNeed st * 1000000 ≤ s.rdN (jn st + JN.PAD_LIMIT) * (s.jnS st).accBytes) ∧
    (∃ (s : State) (st lane lba : Nat) (ok : Bool) (e : Extent), s.stOk st = true ∧ ((s.jnS st).exts.find? (fun e => e.lane == lane &&
      e.sent && !e.done && e.failAt.isNone) = some e) ∧ ok = true ∧ lba = e.lba + e.wrote ∧ e.nlb ≤ e.wrote + s.pieceLen st e) ∧
    (∃ (s : State) (st lane : Nat) (ok : Bool) (e : Extent), s.stOk st = true ∧ ((s.jnS st).exts.find? (fun e => e.lane == lane &&
      e.sent && !e.done && e.failAt.isNone) = some e) ∧ ok = false ∧ e.tries < 3) ∧
    (∃ (s : State) (st lane lba : Nat) (ok : Bool) (e : Extent), s.stOk st = true ∧ ((s.jnS st).exts.find? (fun e => e.lane == lane &&
      e.sent && !e.done && e.failAt.isNone) = some e) ∧ ok = true ∧ lba ≠ e.lba + e.wrote) ∧
    (∃ (s : State) (st lane lba : Nat) (ok : Bool) (e : Extent), s.stOk st = true ∧ ((s.jnS st).exts.find? (fun e => e.lane == lane &&
      e.sent && !e.done && e.failAt.isNone) = some e) ∧ ok = true ∧ lba = e.lba + e.wrote ∧ e.wrote + s.pieceLen st e < e.nlb) ∧
    (∃ (s : State) (st lane : Nat) (e : Extent) (a : Nat), s.stOk st = true ∧ ((s.jnS st).exts.find? (fun e => e.lane == lane &&
      e.failAt.isSome) = some e) ∧ e.failAt = some a ∧ a + msec 1 ≤ s.cycle) ∧
    (∃ (s : State) (st : Nat) (ok : Bool) (c : CommitS) (rest : List CommitS), s.stOk st = true ∧ (s.jnS st).commits = c :: rest ∧
      c.phase = 3 ∧ ok = true) ∧
    (∃ (s : State) (st : Nat) (c : CommitS) (rest : List CommitS), s.stOk st = true ∧ (s.jnS st).commits = c :: rest ∧ c.phase = 5 ∧
      c.kind = 0) ∧
    (∃ (s : State) (st : Nat), s.stOk st = true ∧ (s.jnS st).lease.length ≤ 1) ∧
    (∃ (s : State) (st line a : Nat) (rest : List (Nat × Nat)), (Tbl.get (fun _ => []) s.relayJ st = (line, a) :: rest) ∧ s.jnTakes st
      = true) ∧
    (∃ (s : State) (st clip a b : Nat), s.stOk st = true ∧ (Tbl.get (fun _ => none) (s.jnS st).clips clip = some (a, b)) ∧ b ≤ s.stamp
      st) ∧
    (∃ (s : State) (st : Nat), s.stOk st = true) := by
  refine ⟨⟨(((((State.reset.setBytes 4 0x100001 [1#8]).setBytes 4 0x200000 [48#8]).wrN (bgc 0 0 0 + BG.RING_BASE_LO) 0x100000).wrN (jn 4 + JN.JR_TAIL_LO) 0x200000).wrN (jn 4 + JN.JR_CFG) 0x80000000 |>.wrN (jn 4 + JN.JN_CTL) 3 |>.wrN (jn 4 + JN.WINDOW) 100 |>.setJnState 4 3), 4, 0, ?_⟩,
    ⟨((((State.reset.setBytes 4 0x200000 [48#8]).wrN (bgc 0 0 0 + BG.RING_BASE_LO) 0x100000).wrN (jn 4 + JN.JR_TAIL_LO) 0x200000).wrN (jn 4 + JN.JR_CFG) 0x80000000 |>.wrN (jn 4 + JN.JN_CTL) 3 |>.wrN (jn 4 + JN.WINDOW) 100 |>.setJnState 4 3), 4, 0, ?_⟩,
    ⟨(State.reset.setJn 4 { fwd := [zeros 48] }).wrN (jn 4 + JN.WINDOW) 100 |>.setJnState 4 3, 4, zeros 48, [], ?_⟩,
    ⟨State.reset.setJnState 4 3, 4, 1, ?_⟩,
    ⟨{ (State.reset.setJn 4 { firstAcc := some 0 }).setJnState 4 3 with cycle := 10 ^ 12 }, 4, 0, ?_⟩,
    ⟨{ (State.reset.setJn 4 { firstAcc := some 0 }).setJnState 4 3 with cycle := 10 ^ 12 }, 4, 0, ?_⟩,
    ⟨State.reset.setJn 4 { exts := [{ id := 0, lane := 1, recs := [], lba := 7, sent := true }] }, 4, 1, 7, true, { id := 0, lane := 1, recs := [], lba := 7, sent := true }, ?_⟩,
    ⟨State.reset.setJn 4 { exts := [{ id := 0, lane := 1, recs := [], lba := 7, sent := true }] }, 4, 1, false, { id := 0, lane := 1, recs := [], lba := 7, sent := true }, ?_⟩,
    ⟨State.reset.setJn 4 { exts := [{ id := 0, lane := 1, recs := [], lba := 7, sent := true }] }, 4, 1, 8, true, { id := 0, lane := 1, recs := [], lba := 7, sent := true }, ?_⟩,
    ⟨State.reset.setJn 4 { exts := [{ id := 0, lane := 1, recs := [], lba := 7, nlb := 2, sent := true }], drive := some { zasl := 4096 } } |>.setBit (jn 4 + JN.JN_STAT) 3, 4, 1, 7, true, { id := 0, lane := 1, recs := [], lba := 7, nlb := 2, sent := true }, ?_⟩,
    ⟨{ State.reset.setJn 4 { exts := [{ id := 0, lane := 1, recs := [], lba := 7, sent := true, failAt := some 0 }] } with cycle := 10 ^ 9 }, 4, 1, { id := 0, lane := 1, recs := [], lba := 7, sent := true, failAt := some 0 }, 0, ?_⟩,
    ⟨State.reset.setJn 4 { commits := [{ kind := 0, phase := 3, exts := [] }] }, 4, true, { kind := 0, phase := 3, exts := [] }, [], ?_⟩,
    ⟨State.reset.setJn 4 { commits := [{ kind := 0, phase := 5, exts := [] }] }, 4, { kind := 0, phase := 5, exts := [] }, [], ?_⟩,
    ⟨State.reset, 5, ?_⟩,
    ⟨{ (State.reset.wrN (jn 4 + JN.JN_CTL) 3).setJnState 4 3 with relayJ := [(4, [(3, 99)])] }, 4, 3, 99, [], ?_⟩,
    ⟨State.reset.setJn 4 { clips := [(3, some (0, 0))] }, 4, 3, 0, 0, ?_⟩,
    ⟨State.reset.setJn 4 { pre := [zeros 48] }, 4, ?_⟩⟩ <;>
  decide +kernel

theorem witness_JournalDrive :
    (∃ (s : State) (st : Nat) (trains : Bool), s.stOk st = true ∧ trains = true ∧ (s.jnS st).perstLow = false ∧ (s.jnS st).linkUp =
      false ∧ s.passed (s.jnS st).linkTryAt (msec 100) = true ∧ (s.jnState st = 0 ∨ s.jnState st = 4)) ∧
    (∃ (s : State) (st : Nat) (d : DriveInfo), s.stOk st = true ∧ s.jnState st = 1 ∧ (s.driveJudge st d).toOption = none) ∧
    (∃ (s : State) (st : Nat) (d : DriveInfo) (z : Bool) (m f : Nat), s.stOk st = true ∧ s.jnState st = 1 ∧ (s.driveJudge st
      d).toOption = some z ∧ d.identity = some (m, f) ∧ ((s.jnS st).lastMedium = some m ∨ (s.jnS st).lastMedium = none)) ∧
    (∃ (s : State) (st : Nat) (d : DriveInfo) (z : Bool) (m f x : Nat), s.stOk st = true ∧ s.jnState st = 1 ∧ (s.driveJudge st
      d).toOption = some z ∧ d.identity = some (m, f) ∧ (s.jnS st).lastMedium = some x ∧ x ≠ m) ∧
    (∃ (s : State) (st : Nat) (d : DriveInfo) (z : Bool), s.stOk st = true ∧ s.jnState st = 1 ∧ (s.driveJudge st d).toOption = some z ∧
      d.identity = none ∧ d.blank = true) ∧
    (∃ (s : State) (st : Nat) (badSlots : List Nat), s.stOk st = true ∧ s.jnState st = 2 ∧ ((s.jnS st).rescan = true ∨ s.bestAnchor st
      badSlots ≠ none)) ∧
    (∃ (s : State) (st v : Nat), s.stOk st = true ∧ v.testBit 4 = true) ∧
    (∃ (s : State) (st v : Nat) (d : DriveInfo), s.stOk st = true ∧ v.testBit 3 = true ∧ (s.jnS st).drive = some d ∧ (s.jnState st = 6
      ∨ s.jnState st = 7)) ∧
    (∃ (s : State) (st v : Nat), s.stOk st = true ∧ v.testBit 2 = true ∧ (s.jnS st).linkUp = true ∧ (s.jnState st = 0 ∨ s.jnState st =
      4 ∨ s.jnState st = 5 ∨ s.jnState st = 6)) ∧
    (∃ (s : State) (st v : Nat), s.jnLive st = true ∧ v.testBit 1 = true) ∧
    (∃ (s : State) (st : Nat), s.stOk st = true ∧ (s.jnS st).drive.isSome = true ∧ s.jnState st ≠ 4) ∧
    (∃ (s : State) (st : Nat), s.stOk st = true ∧ s.jnState st = 4) ∧
    (∃ (s : State) (st : Nat), s.stOk st = true ∧ s.jnState st ≠ 4 ∧ ((s.jnS st).drive.isSome = true ∨ (s.jnS st).linkUp = true)) ∧
    (∃ (s : State) (st : Nat), s.stOk st = true ∧ (s.jnS st).drive.isSome = true ∧ (s.jnS st).budgetAt + msec 3600000 ≤ s.cycle) ∧
    (∃ (s : State) (st : Nat) (media : Option Nat) (n : Nat), s.stOk st = true ∧ (s.jnS st).drive.isSome = true ∧ s.wearNow st = true ∧
      s.jnConv st = false ∧ media = some n ∧ n * 1000000000 < 2 ^ 64) ∧
    (∃ (s : State) (st : Nat), s.stOk st = true ∧ (s.jnS st).drive.isSome = true) ∧
    (∃ (s : State), s.weirOn = false ∧ s.finalC = false ∧ (s.liveStewards.all (fun st => !s.bit (epb st + EP.EP_STAT) 17 && decide
      ((s.ep st).acceptClr + msec (s.fld (jn s.lead + JN.WEIR_TIME) 15 0) ≤ s.cycle)) = true)) ∧
    (∃ (s : State), s.weirOn = true ∧ s.finalC = false ∧ (s.liveStewards.any (fun st => s.bit (epb st + EP.EP_STAT) 17 && decide ((s.ep
      st).acceptSet + msec (s.fld (jn s.lead + JN.WEIR_TIME) 31 16) ≤ s.cycle)) = true)) := by
  refine ⟨⟨State.reset.setJn 4 { perstLow := false }, 4, true, ?_⟩,
    ⟨State.reset.setJnState 4 1, 4, { version := false }, ?_⟩,
    ⟨State.reset.setJnState 4 1, 4, { identity := some (5, 6) }, true, 5, 6, ?_⟩,
    ⟨(State.reset.setJn 4 { lastMedium := some 9 }).setJnState 4 1, 4, { identity := some (5, 6) }, true, 5, 6, 9, ?_⟩,
    ⟨State.reset.setJnState 4 1, 4, {}, true, ?_⟩,
    ⟨(State.reset.setJn 4 { rescan := true }).setJnState 4 2, 4, [], ?_⟩,
    ⟨State.reset, 4, 16, ?_⟩,
    ⟨(State.reset.setJn 4 { drive := some {} }).setJnState 4 6, 4, 8, {}, ?_⟩,
    ⟨State.reset.setJn 4 { linkUp := true }, 4, 4, ?_⟩,
    ⟨State.reset.setJnState 4 3, 4, 2, ?_⟩,
    ⟨((State.reset.setJn 4 { drive := some {} }).setJnState 4 3).setBit (fo 4 + BRS.FO_STAT) 0, 4, ?_⟩,
    ⟨State.reset.setJnState 4 4, 4, ?_⟩,
    ⟨State.reset.setJn 4 { linkUp := true }, 4, ?_⟩,
    ⟨{ (State.reset.setJn 4 { drive := some {} }) with cycle := msec 3600000 }, 4, ?_⟩,
    ⟨(State.reset.setJn 4 { drive := some {} }).setBit (jn 4 + JN.JN_STAT) 3, 4, some 3, 3, ?_⟩,
    ⟨State.reset.setJn 4 { drive := some {} }, 4, ?_⟩,
    ⟨{ State.reset with part := .azl128, cycle := 10 ^ 12 }, ?_⟩,
    ⟨{ State.reset.setBit (epb 4 + EP.EP_STAT) 17 with part := .azl128, weirOn := true, cycle := 10 ^ 12 }, ?_⟩⟩ <;>
  decide +kernel

theorem witness_HoldUpTest :
    (∃ (s : State) (st : Nat), s.huReady st = true ∧ s.abit (hu st + HU.HU_CTL) 0 = true ∧ (s.huS st).dueAt ≤ s.cycle ∧ s.huA st HU.V_A
      ≤ s.vNow st) ∧
    (∃ (s : State) (st v : Nat), s.huReady st = true ∧ v.testBit 0 = true ∧ s.vNow st < s.huA st HU.V_A) ∧
    (∃ (s : State) (st v : Nat), s.huReady st = true ∧ v.testBit 0 = true ∧ s.huA st HU.V_A ≤ s.vNow st) ∧
    (∃ (s : State) (st a : Nat), s.huReady st = true ∧ (s.huS st).retryAt = some a ∧ a ≤ s.cycle ∧ s.huA st HU.V_A ≤ s.vNow st) ∧
    (∃ (s : State) (st : Nat), s.stOk st = true ∧ s.passed (s.huS st).sampleAt (usec 10) = true) ∧
    (∃ (s : State) (st a : Nat), s.stOk st = true ∧ st = s.lead ∧ (s.huS st).testAt = some a ∧ a + msec (s.huA st HU.TEST_MAX) ≤
      s.cycle) ∧
    (∃ (s : State) (st a c : Nat), s.stOk st = true ∧ (s.huS st).rx = some (a, c)) ∧
    (∃ (s : State) (st : Nat), s.stOk st = true ∧ (s.huS st).valid = true ∧ (s.huS st).validAt + 2 * s.huA st HU.PERIOD * 1000000000 ≤
      s.cycle) ∧
    (∃ (s : State) (st : Nat), s.stOk st = true ∧ s.passed (s.huS st).windowAt (msec 10) = true) ∧
    (∃ (s : State) (st v : Nat), s.stOk st = true ∧ st = s.lead ∧ v.testBit 0 = true ∧ s.huRefused st = false) ∧
    (∃ (s : State) (st v : Nat), s.stOk st = true ∧ st = s.lead ∧ v.testBit 0 = true ∧ s.huRefused st = true) := by
  refine ⟨⟨State.reset.setAct (hu 4 + HU.HU_CTL) 1#32, 4, ?_⟩,
    ⟨State.reset.setAct (hu 4 + HU.V_A) 5#32, 4, 1, ?_⟩,
    ⟨State.reset, 4, 1, ?_⟩,
    ⟨State.reset.setHu 4 { retryAt := some 0 }, 4, 0, ?_⟩,
    ⟨State.reset, 5, ?_⟩,
    ⟨{ State.reset.setHu 4 { testAt := some 0 } with cycle := 10 ^ 12 }, 4, 0, ?_⟩,
    ⟨State.reset.setHu 5 { rx := some (2000, 3000) }, 5, 2000, 3000, ?_⟩,
    ⟨{ State.reset.setHu 5 { valid := true } with cycle := 10 ^ 15 }, 5, ?_⟩,
    ⟨State.reset, 5, ?_⟩,
    ⟨((((State.reset.wrN (hu 4 + HU.V_A) 1000).wrN (hu 4 + HU.V_B) 950).wrN (hu 4 + HU.V_MIN) 500).wrN (hu 4 + HU.I_TEST) 1).wrN (hu 4 + HU.P_FC) 1, 4, 1, ?_⟩,
    ⟨State.reset.wrN (hu 4 + HU.V_A) 0, 4, 1, ?_⟩⟩ <;>
  decide +kernel

theorem witness_FinalCommit :
    (∃ (s : State) (low : Nat), s.finalC = false ∧ s.huA s.lead HU.PF_FILT % 128 * 1000 ≤ low) ∧
    (∃ (s : State) (low : Nat), low < s.huA s.lead HU.PF_FILT % 128 * 1000) ∧
    (∃ (s : State) (die rail mv ns : Nat), s.present die = true ∧ 1 ≤ rail ∧ rail ≤ 8 ∧ mv < (railLevels rail).1 ∧ 1000 ≤ ns ∧ s.finalC
      = false) ∧
    (∃ (s : State) (die rail mv ns : Nat), s.stOk die = true ∧ 1 ≤ rail ∧ rail ≤ 8 ∧ mv < (railLevels rail).1 ∧ 1000 ≤ ns ∧ s.finalC =
      true) ∧
    (∃ (s : State) (st : Nat) (shst : Bool), s.stOk st = true ∧ s.finalC = true ∧ (s.jnS st).finalDone = true ∧ s.hostSilent st = false
      ∧ (shst = true ∨ s.passed (s.jnS st).shnAt (msec (s.stopWait st)) = true)) ∧
    (∃ (s : State) (high : Nat), s.finalC = true ∧ s.jtag.bscan = none ∧ msec (s.huA s.lead HU.RESUME) ≤ high ∧ s.shutNormal = false ∧
      s.fcReset = [] ∧ (s.stewards.all (fun st => s.hostSilent st && decide ((s.huS st).doneAt + msec (s.huA s.lead HU.RESUME) ≤
      s.cycle)) = true)) := by
  refine ⟨⟨{ State.reset with part := .azl128 }, 127000, ?_⟩,
    ⟨State.reset.setAct (hu 4 + HU.PF_FILT) 2#32, 1999, ?_⟩,
    ⟨{ State.reset with part := .azl128 }, 4, 3, 759, 1000, ?_⟩,
    ⟨{ State.reset with finalC := true }, 4, 3, 759, 1000, ?_⟩,
    ⟨{ State.reset.setJn 4 { finalDone := true } with finalC := true }, 4, true, ?_⟩,
    ⟨{ State.reset.wrFld (hu 4 + HU.HU_STAT) 2 0 5 with part := .azl128, finalC := true, cycle := 10 ^ 12 }, 10 ^ 12, ?_⟩⟩ <;>
  decide +kernel

theorem witness_Heartbeats :
    (∃ (s : State) (die m : Nat), s.sbUp die m = true ∧ (die < 4 ∨ s.hbOn.contains die = true) ∧ (s.hb die m).tx = none) ∧
    (∃ (s : State) (die m x : Nat) (rest : List Nat), s.modOk die m = true ∧ (s.hb die m).inbox = x :: rest ∧ (die < 4 ∨ m = 4 ∨
      s.lostDies.contains m = false)) ∧
    (∃ (s : State) (die m a : Nat), s.modOk die m = true ∧ (s.hb die m).rx = some a ∧ a + usec (105 + 100 * (s.hb die m).miss) ≤
      s.cycle) ∧
    (∃ (s : State) (st : Nat), s.stOk st = true) ∧
    (∃ (s : State) (st v : Nat), s.stOk st = true ∧ v.testBit 1 = true ∧ s.sbUp st 4 = true) ∧
    (∃ (s : State) (st v : Nat), s.stOk st = true ∧ v.testBit 0 = true ∧ (st = s.lead ∨ s.carriedStreams st ≠ [] ∨ s.holdsSem st =
      true)) ∧
    (∃ (s : State) (st v : Nat), s.stOk st = true ∧ v.testBit 0 = true ∧ st ≠ s.lead ∧ s.carriedStreams st = [] ∧ s.holdsSem st =
      false) ∧
    (∃ (s : State) (st v : Nat), s.stOk st = true ∧ v.testBit 2 = true ∧ ((Tbl.get (fun _ => none) s.plannedAt st).isSome = true)) ∧
    (∃ (s : State) (st a : Nat), s.stOk st = true ∧ (Tbl.get (fun _ => none) s.plannedAt st = some a) ∧ a + msec 10000 ≤ s.cycle) ∧
    (∃ (s : State) (st x : Nat), s.stOk st = true ∧ st = s.lead ∧ s.bit (fo st + BRS.FO_CTL) 8 = true ∧ s.bit (fo st + BRS.FO_STAT) 0 =
      true ∧ (Tbl.get (fun _ => 0) s.peerUpAt st + msec (s.fld (fo st + BRS.FO_CTL) 31 16) ≤ s.cycle) ∧ s.streamOk x = true ∧
      s.ringEntry (s.carrierOf (x / 128) (s.streamQueue x)) (x / 128) (s.streamQueue x) = none ∧ ((List.range 512).all (fun y => y == x
      || !s.streamOk y || ((y / 128 != x / 128 || s.streamQueue y != s.streamQueue x) && s.carrierOf (y / 128) (s.streamQueue y) ==
      s.wantCarrier y)) = true)) ∧
    (∃ (s : State) (st : Nat), s.stOk st = true ∧ st = s.lead ∧ s.bit (fo st + BRS.FO_CTL) 8 = true ∧ s.bit (fo st + BRS.FO_STAT) 0 =
      true ∧ (Tbl.get (fun _ => 0) s.peerUpAt st + msec (s.fld (fo st + BRS.FO_CTL) 31 16) ≤ s.cycle) ∧ s.bit (fo st + BRS.FO_STAT) 2 =
      false ∧ ((List.range 512).all (fun x => !s.streamOk x || s.carrierOf (x / 128) (s.streamQueue x) == s.wantCarrier x) = true)) ∧
    (∃ (s : State) (st : Nat) (training : Bool) (words : Nat), s.stOk st = true ∧ (training = true ∨ s.fld (lpd st + LPD.SCRUB_CTL) 23
      16 < words)) ∧
    (∃ (s : State) (die core : Nat), die < 4 ∧ s.present die = true ∧ core < 2 ∧ s.bit (kp die + KP.KP_CTL) core = false ∧
      s.halted.contains (die * 8 + core) = false) ∧
    (∃ (s : State) (die data check : Nat) (meets last : Bool) (w : Nat), s.present die = true ∧ s.bit (scrubK die) 0 = true ∧ checkRead
      data check = CheckRes.corrected w ∧ meets = false ∧ last = true) ∧
    (∃ (s : State) (die : Nat) (meets : Bool), s.present die = true ∧ s.bit (scrubK die) 0 = true ∧ meets = true) ∧
    (∃ (s : State) (die : Nat), s.present die = true ∧ s.bit (scrubK die) 0 = true ∧ (s.scrub die).began + s.rdN (scrubK die + 4) *
      1000000000 < s.cycle) ∧
    (∃ (s : State) (die u v : Nat), s.ckOk die u = true ∧ v.testBit 0 = true ∧ s.bit (ck die u + CK.CK_STAT) 0 = false ∧ s.fld (ck die
      u + CK.CK_CTL) 1 0 ≠ 3 ∧ s.bit (ck die u + CK.CK_CTL) 2 = false) ∧
    (∃ (s : State) (die u v : Nat), s.ckOk die u = true ∧ v.testBit 1 = true ∧ v.testBit 0 = false) ∧
    (∃ (s : State) (die u : Nat), s.ckOk die u = true ∧ (s.ckS die u).phase = 3 ∧ (s.ckS die u).began + ceilDiv (s.rdN (ck die u +
      CK.CK_LEN)) 64 * 16 ≤ s.cycle) := by
  refine ⟨⟨State.reset.wrN (modKey 1 0 BR.MOD_STAT) 0x103, 1, 0, ?_⟩,
    ⟨State.reset.setHb 1 0 { inbox := [3], miss := 2 }, 1, 0, 3, [], ?_⟩,
    ⟨{ State.reset.setHb 1 0 { rx := some 0 } with cycle := 10 ^ 9 }, 1, 0, 0, ?_⟩,
    ⟨{ State.reset with restarts := [{ st := 4, die := 1, eng := 2, ch := 3, queue := none, due := 0 }] }, 4, ?_⟩,
    ⟨State.reset.wrN (modKey 4 4 BR.MOD_STAT) 0x103, 4, 2, ?_⟩,
    ⟨State.reset, 4, 1, ?_⟩,
    ⟨{ State.reset with lostDies := [0, 1, 2, 3] }, 5, 1, ?_⟩,
    ⟨{ State.reset with plannedAt := [(5, some 0)] }, 5, 4, ?_⟩,
    ⟨{ State.reset with plannedAt := [(5, some 0)], cycle := 10 ^ 12 }, 5, 0, ?_⟩,
    ⟨{ ((State.reset.setBit (fo 4 + BRS.FO_CTL) 8).setBit (fo 4 + BRS.FO_STAT) 0).wrFld (qk 0 5 + BS.Q_CFG) 25 25 0 with lostDies := [1, 2, 3], cycle := 10 ^ 12 }, 4, 5, ?_⟩,
    ⟨{ (State.reset.setBit (fo 4 + BRS.FO_CTL) 8).wrN (fo 4 + BRS.FO_STAT) 9 with lostDies := [1, 2, 3], cycle := 10 ^ 12 }, 4, ?_⟩,
    ⟨State.reset, 4, true, 0, ?_⟩,
    ⟨State.reset.wrN (kp 1 + KP.KP_CTL) 0, 1, 0, ?_⟩,
    ⟨State.reset.setBit (scrubK 4) 0, 4, 1, 0, false, true, 0, ?_⟩,
    ⟨State.reset.setBit (scrubK 4) 0, 4, true, ?_⟩,
    ⟨{ State.reset.setBit (scrubK 4) 0 with cycle := 10 ^ 15 }, 4, ?_⟩,
    ⟨State.reset, 4, 2, 1, ?_⟩,
    ⟨State.reset, 4, 2, 2, ?_⟩,
    ⟨{ ((State.reset.setCk 4 2 { phase := 3 }).wrN (ck 4 2 + CK.CK_LEN) 3) with cycle := 16 }, 4, 2, ?_⟩⟩ <;>
  decide +kernel

theorem witness_DictionaryRequests :
    (∃ (s : State) (st v : Nat), s.stOk st = true ∧ v.testBit 15 = false ∧ s.mbState st = 0 ∧ 1 ≤ v % 8192 ∧ v % 8192 ≤ 4096) ∧
    (∃ (s : State) (st v : Nat), s.stOk st = true ∧ v.testBit 15 = false ∧ (s.mbState st ≠ 0 ∨ v % 8192 = 0 ∨ 4096 < v % 8192)) ∧
    (∃ (s : State) (st : Nat) (b : List Byte), s.stOk st = true ∧ s.mbState st = 1 ∧ (s.ep st).mbRsp = some b) ∧
    (∃ (s : State) (st v : Nat), s.stOk st = true ∧ v.testBit 15 = true) ∧
    (∃ (s : State) (call : Option (Nat × List Byte)) (st : Nat) (b : List Byte), call = some (st, b) ∧ s.stOk st = true ∧ s.dictQ = []
      ∧ s.dict.serving = true ∧ s.finalC = false ∧ leAt b 4 1 = 0xFF ∧ s.reqBlocked b = false) ∧
    (∃ (s : State) (call : Option (Nat × List Byte)) (st : Nat) (b : List Byte), call = some (st, b) ∧ s.stOk st = true ∧
      s.dict.serving = false) ∧
    (∃ (s : State) (port : Nat) (groups : List Nat) (m : List Byte), s.portOk port = true ∧ s.lpRole port = 2 ∧ s.lpRun port = true ∧
      s.fld (s.ltb + TB.HIER_CTL) 14 8 = port ∧ msgOf groups = some (0x40, m) ∧ 3 ≤ m.length ∧ m.length ≤ 60 ∧ leAt m 2 1 = 128 ∧
      (((s.port port).gwRx.find? (fun g => g.trans == leAt m 0 2)) = none)) ∧
    (∃ (s : State) (port : Nat) (groups : List Nat) (m : List Byte), s.portOk port = true ∧ s.lpRole port = 2 ∧ s.lpRun port = true ∧
      s.fld (s.ltb + TB.HIER_CTL) 14 8 = port ∧ msgOf groups = some (0x40, m) ∧ 3 ≤ m.length ∧ m.length ≤ 60 ∧ (((s.port
      port).gwRx.find? (fun g => g.trans == leAt m 0 2)).map (fun g => g.dead) ≠ some true) ∧ (leAt m 2 1 % 128 ≠ (((s.port
      port).gwRx.find? (fun g => g.trans == leAt m 0 2)).map (fun g => g.next)).getD 0)) ∧
    (∃ (s : State) (port : Nat) (groups : List Nat) (m : List Byte) (g : GwRx), s.portOk port = true ∧ s.lpRole port = 2 ∧ s.lpRun port
      = true ∧ s.fld (s.ltb + TB.HIER_CTL) 14 8 = port ∧ msgOf groups = some (0x40, m) ∧ 3 ≤ m.length ∧ m.length ≤ 60 ∧ ((s.port
      port).gwRx.find? (fun g => g.trans == leAt m 0 2) = some g) ∧ g.dead = true ∧ leAt m 2 1 % 128 ≠ 0) ∧
    (∃ (s : State) (port : Nat) (m : List Byte) (g : GwTx), s.portOk port = true ∧ ((s.takeMsg port (· == 0xC0)).map (fun r => r.1) =
      some (0xC0, m)) ∧ leAt m 2 1 = 128 ∧ (((s.port port).gwRx.find? (fun g => g.trans == leAt m 0 2)) = none) ∧ ((s.gwOpen
      port).find? (fun g => g.trans == leAt m 0 2) = some g) ∧ g.req.src = 0 ∧ g ∈ s.gws) ∧
    (∃ (s : State) (port trans : Nat) (g : GwTx), ((s.gwOpen port).find? (fun g => g.trans == trans) = some g) ∧ g.opened.getD 0 + msec
      (leNat (s.objOf 0 0x2200 0x1B (leBytes 100 2))) ≤ s.cycle ∧ g.req.src = 0 ∧ g ∈ s.gws) ∧
    (∃ (s : State) (n : Nat), s.dict.store = some n ∧ (s.qspiS s.dict.storeSt).op = none ∧ (s.qspiS (partner s.dict.storeSt)).op =
      none) ∧
    (∃ (s : State), (s.qspiS s.dict.storeSt).op.isSome = true) ∧
    (∃ (s : State) (n a : Nat), s.dict.atSel = some (n, a) ∧ a ≤ s.stamp s.lead) := by
  refine ⟨⟨State.reset, 4, 0x70010, ?_⟩,
    ⟨State.reset, 4, 0x1001, ?_⟩,
    ⟨(State.reset.setEp 4 { mbRsp := some [7#8] }).wrN (upb 4 + UP.MB_STATUS) 1, 4, [7#8], ?_⟩,
    ⟨State.reset.wrN (upb 4 + UP.MB_STATUS) 6, 4, 0x8000, ?_⟩,
    ⟨{ State.reset with dict := { serving := true } }, some (4, [1#8, 0#8, 0#8, 0#8, 0xFF#8]), 4, [1#8, 0#8, 0#8, 0#8, 0xFF#8], ?_⟩,
    ⟨State.reset, some (4, []), 4, [], ?_⟩,
    ⟨{ (State.reset.wrFld (tb 4 + TB.HIER_CTL) 14 8 3).wrN (lp 3 + LP.STATE) 8 with acts := [(lp 3 + LP.CTL, 8#32)] }, 3, msgGroups 0x40 [5#8, 0#8, 128#8, 1#8], [5#8, 0#8, 128#8, 1#8], ?_⟩,
    ⟨{ (State.reset.wrFld (tb 4 + TB.HIER_CTL) 14 8 3).wrN (lp 3 + LP.STATE) 8 with acts := [(lp 3 + LP.CTL, 8#32)] }, 3, msgGroups 0x40 [5#8, 0#8, 129#8, 1#8], [5#8, 0#8, 129#8, 1#8], ?_⟩,
    ⟨{ ((State.reset.setPort 3 { gwRx := [{ trans := 5, next := 0, bytes := [], dead := true }] }).wrFld (tb 4 + TB.HIER_CTL) 14 8 3).wrN (lp 3 + LP.STATE) 8 with acts := [(lp 3 + LP.CTL, 8#32)] }, 3, msgGroups 0x40 [5#8, 0#8, 2#8, 1#8], [5#8, 0#8, 2#8, 1#8], { trans := 5, next := 0, bytes := [], dead := true }, ?_⟩,
    ⟨{ State.reset.setPort 3 { ctrlq := [(0xC0, [5#8, 0#8, 128#8, 1#8])] } with gws := [{ req := { src := 0, st := 4, bytes := [] }, port := 3, trans := 5, opened := some 0 }] }, 3, [5#8, 0#8, 128#8, 1#8], { req := { src := 0, st := 4, bytes := [] }, port := 3, trans := 5, opened := some 0 }, ?_⟩,
    ⟨{ State.reset with cycle := msec 100, gws := [{ req := { src := 0, st := 4, bytes := [] }, port := 3, trans := 5, opened := some 0 }] }, 3, 5, { req := { src := 0, st := 4, bytes := [] }, port := 3, trans := 5, opened := some 0 }, ?_⟩,
    ⟨{ State.reset.setBytes 4 (flashBase + profAddr 2 + 4) (zeros 4) with dict := { store := some 2, storeSt := 4 } }, 2, ?_⟩,
    ⟨State.reset.setQspi 4 { op := some (0, 0, []) }, ?_⟩,
    ⟨{ State.reset with dict := { atSel := some (2, 0) } }, 2, 0, ?_⟩⟩ <;>
  decide +kernel

theorem witness_CanTraffic :
    (∃ (s : State) (st node : Nat), s.canLive st = true ∧ (node = 0 ∨ node = (s.canS st).node)) ∧
    (∃ (s : State) (st node : Nat), node ≠ 0 ∧ node ≠ (s.canS st).node) ∧
    (∃ (s : State) (st : Nat), s.canLive st = true ∧ leNat (s.objOf (drv st) 0x1017 0 (leBytes 1000 2)) ≠ 0 ∧ (s.canS st).hbAt + msec
      (leNat (s.objOf (drv st) 0x1017 0 (leBytes 1000 2))) ≤ s.cycle) ∧
    (∃ (s : State) (st : Nat), s.stOk st = true ∧ s.canOff st = false) ∧
    (∃ (s : State) (st : Nat), s.stOk st = true ∧ s.canOff st = true ∧ s.bit (can st + CAN.CAN_CTL) 1 = true) ∧
    (∃ (s : State) (st : Nat), s.bit (can st + CAN.CAN_CTL) 1 = false) ∧
    (∃ (s : State) (st v : Nat), s.stOk st = true ∧ s.canOff st = true ∧ v.testBit 0 = true) ∧
    (∃ (s : State) (st : Nat) (write : Bool) (idx sub off len : Nat) (data : List Byte), s.canLive st = true ∧ (s.canS st).nmt ≠ 2 ∧
      s.dictQ = [] ∧ s.dict.serving = true ∧ ((s.canRecv st)).reqBlocked (reqBytes [opBytes write idx sub off len data]) = false) ∧
    (∃ (s : State) (st : Nat), s.canLive st = true ∧ s.dict.serving = false) ∧
    (∃ (s : State) (st n : Nat) (data : List Byte) (ops : List (List Byte)), s.canLive st = true ∧ (s.canS st).nmt = 1 ∧ n < 4 ∧
      (s.pdoVal st (0x1400 + n) 1).testBit 31 = false ∧ rpdoOps (s.pdoMap st (0x1600 + n)) data = some ops ∧ ops ≠ [] ∧ s.dict.serving
      = false) ∧
    (∃ (s : State) (st n : Nat) (data : List Byte) (ops : List (List Byte)), s.canLive st = true ∧ (s.canS st).nmt = 1 ∧ n < 4 ∧
      (s.pdoVal st (0x1400 + n) 1).testBit 31 = false ∧ rpdoOps (s.pdoMap st (0x1600 + n)) data = some ops ∧ ops ≠ [] ∧ s.dictQ = [] ∧
      s.dict.serving = true ∧ (s.canRecv st).reqBlocked (reqBytes ops) = false) ∧
    (∃ (s : State) (st n : Nat) (data : List Byte), s.canLive st = true ∧ (s.canS st).nmt = 1 ∧ n < 4 ∧ (s.pdoVal st (0x1400 + n)
      1).testBit 31 = false ∧ rpdoOps (s.pdoMap st (0x1600 + n)) data = none) ∧
    (∃ (s : State) (st : Nat), s.tpdoOn st 0 = true ∧ s.pdoVal st 0x1800 2 = 1) ∧
    (∃ (s : State) (st : Nat), (s.canLive st = false ∨ (s.canS st).nmt ≠ 1)) ∧
    (∃ (s : State) (st n : Nat), s.tpdoOn st n = true ∧ 0xFE ≤ s.pdoVal st (0x1800 + n) 2 ∧ s.pdoVal st (0x1800 + n) 5 ≠ 0 ∧
      (s.tpdoLast st n).2 + msec (s.pdoVal st (0x1800 + n) 5) ≤ s.cycle ∧ s.inhibitOver st n = true) ∧
    (∃ (s : State) (st n : Nat), s.tpdoDue st n = true ∧ s.canOff st = true ∧ 0xFE ≤ s.pdoVal st (0x1800 + n) 2 ∧ s.pdoVal st (0x1800 +
      n) 5 ≠ 0 ∧ (s.tpdoLast st n).2 + msec (s.pdoVal st (0x1800 + n) 5) ≤ s.cycle ∧ s.inhibitOver st n = true) := by
  refine ⟨⟨(State.reset.updCan 4 (fun v => { v with on := true })).wrN (can 4 + CAN.CAN_CTL) 1, 4, 0, ?_⟩,
    ⟨State.reset, 4, 5, ?_⟩,
    ⟨{ (State.reset.updCan 4 (fun v => { v with on := true })).wrN (can 4 + CAN.CAN_CTL) 1 with cycle := msec 1000 }, 4, ?_⟩,
    ⟨State.reset, 4, ?_⟩,
    ⟨(State.reset.wrFld (can 4 + CAN.CAN_STAT) 17 16 2).wrN (can 4 + CAN.CAN_CTL) 2, 4, ?_⟩,
    ⟨(State.reset.wrFld (can 4 + CAN.CAN_STAT) 17 16 2).wrN (can 4 + CAN.CAN_CTL) 0, 4, ?_⟩,
    ⟨State.reset.wrFld (can 4 + CAN.CAN_STAT) 17 16 2, 4, 1, ?_⟩,
    ⟨{ (State.reset.updCan 4 (fun v => { v with on := true })).wrN (can 4 + CAN.CAN_CTL) 1 with dict := { serving := true } }, 4, false, 0x1018, 1, 0, 4, [], ?_⟩,
    ⟨(State.reset.updCan 4 (fun v => { v with on := true })).wrN (can 4 + CAN.CAN_CTL) 1, 4, ?_⟩,
    ⟨((State.reset.updCan 4 (fun v => { v with on := true, nmt := 1 })).wrN (can 4 + CAN.CAN_CTL) 1).setObj 0 0x1400 1 (leBytes 0x201 4) |>.setObj 0 0x1600 0 [1#8] |>.setObj 0 0x1600 1 (leBytes 0x10170010 4), 4, 0, [5#8, 0#8], [opBytes true 0x1017 0 0 2 [5#8, 0#8]], ?_⟩,
    ⟨{ ((State.reset.updCan 4 (fun v => { v with on := true, nmt := 1 })).wrN (can 4 + CAN.CAN_CTL) 1).setObj 0 0x1400 1 (leBytes 0x201 4) |>.setObj 0 0x1600 0 [1#8] |>.setObj 0 0x1600 1 (leBytes 0x10170010 4) with dict := { serving := true } }, 4, 0, [5#8, 0#8], [opBytes true 0x1017 0 0 2 [5#8, 0#8]], ?_⟩,
    ⟨((State.reset.updCan 4 (fun v => { v with on := true, nmt := 1 })).wrN (can 4 + CAN.CAN_CTL) 1).setObj 0 0x1400 1 (leBytes 0x201 4) |>.setObj 0 0x1600 0 [1#8] |>.setObj 0 0x1600 1 (leBytes 0x10170010 4), 4, 0, [], ?_⟩,
    ⟨{ (((State.reset.updCan 4 (fun v => { v with on := true, nmt := 1 })).wrN (can 4 + CAN.CAN_CTL) 1).setObj 0 0x1800 1 (leBytes 0x181 4)).setObj 0 0x1800 2 [1#8] with dict := { serving := true }, cycle := 9 }, 4, ?_⟩,
    ⟨State.reset, 4, ?_⟩,
    ⟨{ (((State.reset.updCan 4 (fun v => { v with on := true, nmt := 1 })).wrN (can 4 + CAN.CAN_CTL) 1).setObj 0 0x1800 1 (leBytes 0x181 4)).setObj 0 0x1800 2 [0xFE#8] |>.setObj 0 0x1800 5 (leBytes 5 2) with dict := { serving := true }, cycle := msec 5 }, 4, 0, ?_⟩,
    ⟨{ ((((State.reset.updCan 4 (fun v => { v with on := true, nmt := 1 })).wrN (can 4 + CAN.CAN_CTL) 1).wrFld (can 4 + CAN.CAN_STAT) 17 16 2).setObj 0 0x1800 1 (leBytes 0x181 4)).setObj 0 0x1800 2 [0xFE#8] |>.setObj 0 0x1800 5 (leBytes 5 2) with dict := { serving := true }, cycle := msec 5 }, 4, 0, ?_⟩⟩ <;>
  decide +kernel

theorem witness_I2cAndFlash :
    (∃ (s : State) (st addr : Nat), s.i2cAck st addr = true) ∧
    (∃ (s : State) (st addr : Nat), s.i2cAck st addr = false) ∧
    (∃ (s : State) (st : Nat) (data : List Byte), s.stOk st = true ∧ s.finalC = false ∧ (s.i2cS st).inTransfer = true ∧ (s.i2cS st).ptr
      = 0x20 ∧ s.i2cState st ≠ 1 ∧ 8 ≤ leAt data 1 1 ∧ leAt data 1 1 ≤ 64 ∧ data.length = leAt data 1 1 + 3 ∧ crc8 (data.take (leAt
      data 1 1 + 2)) = leAt data (leAt data 1 1 + 2) 1) ∧
    (∃ (s : State) (st : Nat) (data : List Byte), s.stOk st = true ∧ s.finalC = false ∧ (s.i2cS st).inTransfer = true ∧ (s.i2cS st).ptr
      = 0x20 ∧ (s.i2cState st = 1 ∨ data.length ≠ leAt data 1 1 + 3 ∨ crc8 (data.take (leAt data 1 1 + 2)) ≠ leAt data (leAt data 1 1 +
      2) 1)) ∧
    (∃ (s : State) (st addr : Nat) (cut : Bool), s.i2cAck st addr = true ∧ cut = false) ∧
    (∃ (s : State) (st addr : Nat) (cut : Bool), s.i2cAck st addr = true ∧ cut = true) ∧
    (∃ (s : State) (st held : Nat), s.stOk st = true ∧ (s.i2cS st).inTransfer = true ∧ msec 10 ≤ held) ∧
    (∃ (s : State) (st low : Nat), s.stOk st = true ∧ (s.i2cS st).inTransfer = true ∧ msec 25 ≤ low) ∧
    (∃ (s : State) (st : Nat), s.stOk st = true ∧ (s.i2cS st).inTransfer = true) ∧
    (∃ (s : State) (st v : Nat), s.stOk st = true ∧ v.testBit 0 = true) ∧
    (∃ (s : State) (st v : Nat), s.stOk st = true ∧ v % 4 = 1 ∧ (s.qspiS st).op = none ∧ s.slotActive st (s.rdN (qspi st +
      QSPI.QSPI_ADDR)) (s.fld (qspi st + QSPI.QSPI_LEN) 8 0) = false ∧ 1 ≤ (s.fld (qspi st + QSPI.QSPI_LEN) 8 0) ∧ (s.fld (qspi st +
      QSPI.QSPI_LEN) 8 0) ≤ 256 ∧ (s.rdN (qspi st + QSPI.QSPI_ADDR)) % 256 + (s.fld (qspi st + QSPI.QSPI_LEN) 8 0) ≤ 256 ∧ (s.rdN (qspi
      st + QSPI.QSPI_ADDR)) + (s.fld (qspi st + QSPI.QSPI_LEN) 8 0) ≤ s.fld (qspi st + QSPI.QSPI_STAT) 31 16 * 0x100000) ∧
    (∃ (s : State) (st v : Nat), s.stOk st = true ∧ v % 4 = 1 ∧ ((s.qspiS st).op.isSome = true ∨ s.slotActive st (s.rdN (qspi st +
      QSPI.QSPI_ADDR)) (s.fld (qspi st + QSPI.QSPI_LEN) 8 0) = true ∨ (s.fld (qspi st + QSPI.QSPI_LEN) 8 0) = 0)) ∧
    (∃ (s : State) (st v : Nat), s.stOk st = true ∧ v % 4 = 2 ∧ (s.qspiS st).op = none ∧ s.slotActive st (s.rdN (qspi st +
      QSPI.QSPI_ADDR)) 0x1000 = false ∧ (s.rdN (qspi st + QSPI.QSPI_ADDR)) % 0x1000 = 0 ∧ (s.rdN (qspi st + QSPI.QSPI_ADDR)) + 0x1000 ≤
      s.fld (qspi st + QSPI.QSPI_STAT) 31 16 * 0x100000) ∧
    (∃ (s : State) (st v : Nat), s.stOk st = true ∧ v % 4 = 3 ∧ (s.qspiS st).op = none ∧ s.slotActive st (s.rdN (qspi st +
      QSPI.QSPI_ADDR)) 0x10000 = false ∧ (s.rdN (qspi st + QSPI.QSPI_ADDR)) % 0x10000 = 0 ∧ (s.rdN (qspi st + QSPI.QSPI_ADDR)) +
      0x10000 ≤ s.fld (qspi st + QSPI.QSPI_STAT) 31 16 * 0x100000) ∧
    (∃ (s : State) (st v : Nat), s.stOk st = true ∧ v % 4 = 3 ∧ (s.qspiS st).op = none ∧ s.slotActive st (s.rdN (qspi st +
      QSPI.QSPI_ADDR)) 0x10000 = false ∧ (s.rdN (qspi st + QSPI.QSPI_ADDR)) % 0x10000 ≠ 0) ∧
    (∃ (s : State) (st a : Nat) (d : List Byte), (s.qspiS st).op = some (2, a, d)) ∧
    (∃ (s : State) (st : Nat) (ok : Bool) (a : Nat) (x : Byte), (s.qspiS st).op = some (1, a, [x]) ∧ ok = true) := by
  refine ⟨⟨State.reset.setBit (i2c 4 + I2C.I2C_CFG) 16, 4, State.reset.fld (i2c 4 + I2C.I2C_CFG) 6 0, ?_⟩,
    ⟨State.reset, 6, 0, ?_⟩,
    ⟨State.reset.updI2c 4 (fun v => { v with ptr := 0x20, inTransfer := true }), 4, [1#8, 8#8] ++ zeros 8 ++ leBytes (crc8 ([1#8, 8#8] ++ zeros 8)) 1, ?_⟩,
    ⟨State.reset.updI2c 4 (fun v => { v with ptr := 0x20, inTransfer := true }), 4, [1#8, 8#8], ?_⟩,
    ⟨State.reset.setBit (i2c 4 + I2C.I2C_CFG) 16, 4, State.reset.fld (i2c 4 + I2C.I2C_CFG) 6 0, false, ?_⟩,
    ⟨State.reset.setBit (i2c 4 + I2C.I2C_CFG) 16, 4, State.reset.fld (i2c 4 + I2C.I2C_CFG) 6 0, true, ?_⟩,
    ⟨State.reset.updI2c 4 (fun v => { v with ptr := 0x20, inTransfer := true }), 4, msec 10, ?_⟩,
    ⟨State.reset.updI2c 4 (fun v => { v with inTransfer := true }), 4, msec 25, ?_⟩,
    ⟨State.reset.updI2c 4 (fun v => { v with ptr := 0x20, inTransfer := true }), 4, ?_⟩,
    ⟨State.reset.wrFld (i2c 4 + I2C.I2C_STAT) 5 0 0x33, 4, 1, ?_⟩,
    ⟨((State.reset.wrN (qspi 4 + QSPI.QSPI_ADDR) 0x2000000).wrN (qspi 4 + QSPI.QSPI_LEN) 4).wrFld (qspi 4 + QSPI.QSPI_STAT) 31 16 128, 4, 1, ?_⟩,
    ⟨State.reset.wrN (qspi 4 + QSPI.QSPI_LEN) 4, 4, 1, ?_⟩,
    ⟨(State.reset.wrN (qspi 4 + QSPI.QSPI_ADDR) 0x2000000).wrFld (qspi 4 + QSPI.QSPI_STAT) 31 16 128, 4, 2, ?_⟩,
    ⟨(State.reset.wrN (qspi 4 + QSPI.QSPI_ADDR) 0x2000000).wrFld (qspi 4 + QSPI.QSPI_STAT) 31 16 128, 4, 3, ?_⟩,
    ⟨(State.reset.wrN (qspi 4 + QSPI.QSPI_ADDR) 0x2000100).wrFld (qspi 4 + QSPI.QSPI_STAT) 31 16 128, 4, 3, ?_⟩,
    ⟨State.reset.setQspi 4 { op := some (2, 0x2000000, [0xFF#8]) }, 4, 0x2000000, [0xFF#8], ?_⟩,
    ⟨State.reset.setQspi 4 { op := some (1, 0x2000000, [0x5A#8]) }, 4, true, 0x2000000, 0x5A#8, ?_⟩⟩ <;>
  decide +kernel

theorem witness_TapInstructions :
    (∃ (s : State), s.selLevel = 2) ∧
    (∃ (s : State), s.selLevel ≠ 2) ∧
    (∃ (s : State), s.selLevel = 2) ∧
    (∃ (s : State), s.selLevel ≠ 2) ∧
    (∃ (s : State), s.selLevel = 2) ∧
    (∃ (s : State), s.selLevel ≠ 2) ∧
    (∃ (s : State) (die : Nat), s.present die = true ∧ (s.dbg die).lockAt = none ∧ 64 ≤ (s.dbg die).sig.length) ∧
    (∃ (s : State) (die : Nat), ((s.dbg die).lockAt.isSome = true ∨ (s.dbg die).sig.length < 64)) ∧
    (∃ (s : State) (die a : Nat), s.present die = true ∧ (s.dbg die).lockAt = some a ∧ a + msec 60000 ≤ s.cycle) := by
  refine ⟨⟨State.reset.updDbg 4 (fun v => { v with level := 2 }), ?_⟩,
    ⟨State.reset, ?_⟩,
    ⟨State.reset.updDbg 4 (fun v => { v with level := 2 }), ?_⟩,
    ⟨State.reset, ?_⟩,
    ⟨State.reset.updDbg 4 (fun v => { v with level := 2 }), ?_⟩,
    ⟨State.reset, ?_⟩,
    ⟨State.reset.updDbg 4 (fun v => { v with sig := zeros 64, fails := 2 }), 4, ?_⟩,
    ⟨State.reset, 4, ?_⟩,
    ⟨{ State.reset.updDbg 4 (fun v => { v with lockAt := some 0 }) with cycle := msec 60000 }, 4, 0, ?_⟩⟩ <;>
  decide +kernel

theorem witness_DebuggedHarts :
    (∃ (s : State) (die hart : Nat), s.hartOk die hart = true) ∧
    (∃ (s : State) (die hart : Nat), s.hartOk die hart = true) ∧
    (∃ (s : State) (die hart : Nat), s.hartOk die hart = true ∧ s.halted.contains (die * 8 + hart) = true) ∧
    (∃ (s : State) (st a : Nat), s.stOk st = true ∧ (s.dbg st).haltAt = some a ∧ s.fld (sc st + SC.DBG_CTL) 15 0 ≠ 0 ∧ a + msec (s.fld
      (sc st + SC.DBG_CTL) 15 0) ≤ s.cycle) ∧
    (∃ (s : State) (die addr size : Nat) (write : Bool), s.stOk die = true ∧ size = 4 ∧ addr % 4 = 0 ∧ addr + 4 ≤ 0x100000000 ∧ (s.dbg
      die).level = 2 ∧ write = true) ∧
    (∃ (s : State) (die addr size : Nat) (write : Bool), s.stOk die = true ∧ size = 4 ∧ addr % 4 = 0 ∧ addr + 4 ≤ 0x100000000 ∧ 1 ≤
      (s.dbg die).level ∧ write = false) ∧
    (∃ (s : State) (die : Nat) (write : Bool), ((s.dbg die).level = 0 ∨ (write = true ∧ (s.dbg die).level < 2))) ∧
    (∃ (s : State) (die addr size : Nat) (write : Bool), s.present die = true ∧ (s.dbg die).level = 2 ∧ ((size ≠ 4 ∧ size ≠ 8) ∨ ((size
      = 4 ∨ size = 8) ∧ addr % size ≠ 0) ∨ (size = 4 ∧ addr % 4 = 0 ∧ write = false ∧ volatileAt die addr = true))) ∧
    (∃ (s : State) (die : Nat), s.present die = true ∧ (s.dbg die).level = 2) := by
  refine ⟨⟨State.reset.updDbg 4 (fun v => { v with level := 2 }), 4, 3, ?_⟩,
    ⟨{ State.reset.updDbg 4 (fun v => { v with level := 2 }) with halted := [35] }, 4, 3, ?_⟩,
    ⟨{ State.reset.updDbg 4 (fun v => { v with level := 2 }) with halted := [35] }, 4, 3, ?_⟩,
    ⟨{ (State.reset.updDbg 4 (fun v => { v with haltAt := some 0 })).wrN (sc 4 + SC.DBG_CTL) 1 with cycle := msec 1, hbOn := [4, 5] }, 4, 0, ?_⟩,
    ⟨State.reset.updDbg 4 (fun v => { v with level := 2 }), 4, 0x1000, 4, true, ?_⟩,
    ⟨State.reset.updDbg 4 (fun v => { v with level := 1 }), 4, 0x1000, 4, false, ?_⟩,
    ⟨State.reset.updDbg 4 (fun v => { v with level := 1 }), 4, true, ?_⟩,
    ⟨State.reset.updDbg 4 (fun v => { v with level := 2 }), 4, 0, 5, false, ?_⟩,
    ⟨State.reset.updDbg 4 (fun v => { v with level := 2 }), 4, ?_⟩⟩ <;>
  decide +kernel

theorem witness_ResetsOfDies :
    (∃ (s : State), s.regsOk ∧ s.memOk) ∧
    (∃ (s : State), s.rstLow = true) ∧
    (∃ (s : State) (die rail mv ns : Nat), s.present die = true ∧ 1 ≤ rail ∧ rail ≤ 8 ∧ mv < (railLevels rail).2 ∧ 1000 ≤ ns ∧ s.memOk) ∧
    (∃ (s : State) (st v : Nat), s.stOk st = true ∧ s.regsOk ∧ s.memOk ∧ v.testBit 1 = true) ∧
    (∃ (s : State) (st v : Nat), s.stOk st = true ∧ st = s.lead ∧ v.testBit 2 = true ∧ s.finalC = false) ∧
    (∃ (s : State) (st : Nat), s.stOk st = true) ∧
    (∃ (s : State) (st : Nat), s.stOk st = true ∧ (s.jnS st).perstLow = true ∧ 0 < (s.jnS st).perstAt ∧ (s.jnS st).perstAt ≤ s.cycle) ∧
    (∃ (s : State) (die : Nat) (temp : Int) (ns : Nat), s.present die = true ∧ 125 * 16 ≤ temp ∧ msec 1 ≤ ns) ∧
    (∃ (s : State) (die : Nat) (temp : Int), s.present die = true ∧ temp < 1680) ∧
    (∃ (s : State) (die : Nat) (temp : Int), s.present die = true ∧ 1760 ≤ temp) := by
  refine ⟨⟨State.reset.wrN (tb 4 + TB.HIER_CTL) 3, ?_⟩,
    ⟨{ State.reset with rstLow := true }, ?_⟩,
    ⟨State.reset.updDbg 4 (fun v => { v with level := 2 }), 4, 3, 719, 1000, ?_⟩,
    ⟨State.reset.wrN (sc 4 + SC.STAGE_LO) 0x1001, 4, 2, ?_⟩,
    ⟨State.reset, 4, 4, ?_⟩,
    ⟨State.reset.setEp 4 { bme := true }, 4, ?_⟩,
    ⟨{ State.reset.setJn 4 { perstLow := true, perstAt := 5 } with cycle := 5 }, 4, ?_⟩,
    ⟨State.reset, 4, 2000, msec 1, ?_⟩,
    ⟨State.reset, 4, 1600, ?_⟩,
    ⟨State.reset, 4, 1760, ?_⟩⟩ <;>
  decide +kernel

theorem witness_BootAndLead :
    (∃ (s : State) (st : Nat), s.stOk st = true ∧ s.rstLow = false ∧ s.fld (sc st + SC.BOOT_STAT) 3 0 = 1 ∧ s.bit (sc st +
      SC.BOOT_STAT) 10 = false) ∧
    (∃ (s : State) (st : Nat), s.stOk st = true ∧ s.rstLow = false ∧ s.fld (sc st + SC.BOOT_STAT) 3 0 = 1 ∧ s.bit (sc st +
      SC.BOOT_STAT) 10 = true ∧ s.bit (sc st + SC.STAGE_LO) 0 = true) ∧
    (∃ (s : State) (st v : Nat), s.stOk st = true ∧ v.testBit 3 = true ∧ s.fld (sc st + SC.BOOT_STAT) 3 0 = 8) ∧
    (∃ (s : State) (st v : Nat), s.stOk st = true ∧ v.testBit 0 = true ∧ s.fld (sc st + SC.BOOT_STAT) 3 0 = 4 ∧ s.bit (hu st +
      HU.HU_STAT) 4 = true) ∧
    (∃ (s : State) (st v : Nat), st = 5 ∧ s.stOk st = true ∧ v.testBit 0 = true ∧ s.fld (sc st + SC.BOOT_STAT) 3 0 = 4 ∧ s.bit (hu st +
      HU.HU_STAT) 4 = false ∧ s.hearsLead 5 = false) ∧
    (∃ (s : State) (st v : Nat), s.stOk st = true ∧ v.testBit 0 = true ∧ s.fld (sc st + SC.BOOT_STAT) 3 0 = 4 ∧ s.bit (hu st +
      HU.HU_STAT) 4 = false ∧ s.hearsLead st = true ∧ s.lead = partner st ∧ s.dict.serving = true) ∧
    (∃ (s : State) (st high : Nat), st = 5 ∧ msec 1000 ≤ high ∧ s.finalC = false ∧ s.stOk st = true ∧ s.fld (sc st + SC.BOOT_STAT) 3 0
      = 5 ∧ s.hearsLead 5 = false) ∧
    (∃ (s : State) (st a d : Nat), st = 5 ∧ s.present 5 = true ∧ (s.readyAt.get (fun _ => none) st = some a) ∧ a + msec 2000 ≤ s.cycle
      ∧ s.fld (sc 5 + SC.BOOT_STAT) 3 0 = 6 ∧ (s.hb 5 4).rx = none ∧ s.concs.head? = some d ∧ s.endState 5 d = 3 ∧ ((s.run (execSemAcq
      d 62 5 0))).fld (semKey d 62) 7 0 = 5) ∧
    (∃ (s : State) (st a d : Nat), st = 5 ∧ s.present 5 = true ∧ (s.readyAt.get (fun _ => none) st = some a) ∧ a + msec 2000 ≤ s.cycle
      ∧ s.fld (sc 5 + SC.BOOT_STAT) 3 0 = 6 ∧ (s.hb 5 4).rx = none ∧ s.concs.head? = some d ∧ s.endState 5 d = 3 ∧ ((s.run (execSemAcq
      d 62 5 0))).fld (semKey d 62) 7 0 ≠ 5) ∧
    (∃ (s : State) (st v : Nat), s.stOk st = true ∧ v.testBit 0 = true ∧ ((List.range 8).all (fun i => s.rd (sc st + SC.ROOT_HASH + 4 *
      i) == 0#32) = true)) ∧
    (∃ (s : State) (st v : Nat), s.stOk st = true ∧ v.testBit 0 = true ∧ ((List.range 8).all (fun i => s.rd (sc st + SC.ROOT_HASH + 4 *
      i) == 0#32) = false)) := by
  refine ⟨⟨State.reset, 4, ?_⟩,
    ⟨(State.reset.wrN (sc 4 + SC.BOOT_STAT) 0x401).wrN (sc 4 + SC.STAGE_LO) 1, 4, ?_⟩,
    ⟨{ State.reset.wrN (sc 4 + SC.BOOT_STAT) 0x1008 with faultWhy := [2] }, 4, 8, ?_⟩,
    ⟨(State.reset.wrN (sc 4 + SC.BOOT_STAT) 4).setBit (hu 4 + HU.HU_STAT) 4, 4, 1, ?_⟩,
    ⟨State.reset.wrN (sc 5 + SC.BOOT_STAT) 4, 5, 1, ?_⟩,
    ⟨{ ((State.reset.wrN (sc 5 + SC.BOOT_STAT) 4).setHb 5 4 { rx := some 0, seen := 1 }) with dict := { serving := true } }, 5, 1, ?_⟩,
    ⟨State.reset.wrN (sc 5 + SC.BOOT_STAT) 5, 5, msec 1000, ?_⟩,
    ⟨{ ((State.reset.wrN (sc 5 + SC.BOOT_STAT) 6).wrFld (modKey 5 0 BR.MOD_STAT) 3 0 3) with readyAt := [(5, some 0)], cycle := msec 2000 }, 5, 0, 0, ?_⟩,
    ⟨{ ((State.reset.wrN (sc 5 + SC.BOOT_STAT) 6).wrFld (modKey 5 0 BR.MOD_STAT) 3 0 3).wrN (semKey 0 62) 1 with readyAt := [(5, some 0)], cycle := msec 2000 }, 5, 0, 0, ?_⟩,
    ⟨State.reset.wrN (sc 4 + SC.ROOT_PROG) 7, 4, 1, ?_⟩,
    ⟨State.reset.wrN (sc 4 + SC.ROOT_HASH + 28) 7, 4, 1, ?_⟩⟩ <;>
  decide +kernel

theorem witness_KeeperLoader :
    (∃ (s : State) (die req : Nat), die < 4 ∧ s.present die = true ∧ kpPath req = true ∧ s.kpHeld die (s.fld (kp die + KP.KP_LOAD_ADDR)
      17 17) = true) ∧
    (∃ (s : State) (die : Nat), die < 4 ∧ s.present die = true ∧ s.kpHeld die (s.fld (kp die + KP.KP_LOAD_ADDR) 17 17) = false) ∧
    (∃ (s : State) (die req v : Nat), die < 4 ∧ s.present die = true ∧ kpPath req = true ∧ v.testBit 0 = true) ∧
    (∃ (s : State) (die c : Nat), die < 4 ∧ s.present die = true ∧ c < 2 ∧ (s.kpVer.get (fun _ => none) die = some c)) ∧
    (∃ (s : State) (die req : Nat), die < 4 ∧ s.present die = true ∧ kpPath req = true) ∧
    (∃ (s : State) (die req v : Nat), die < 4 ∧ s.present die = true ∧ (req = 9 ∨ req = 10) ∧ v.testBit 0 = true) ∧
    (∃ (s : State) (die req : Nat), die < 4 ∧ s.present die = true ∧ kpPath req = true) := by
  refine ⟨⟨State.reset.wrN (kp 0 + KP.KP_CTL) 3, 0, 1, ?_⟩,
    ⟨State.reset.wrN (kp 0 + KP.KP_CTL) 0, 0, ?_⟩,
    ⟨State.reset, 0, 1, 1, ?_⟩,
    ⟨{ State.reset with kpVer := [(0, some 1)] }, 0, 1, ?_⟩,
    ⟨State.reset, 0, 1, ?_⟩,
    ⟨State.reset.wrN (kp 0 + KP.KP_CTL) 0, 0, 10, 1, ?_⟩,
    ⟨(State.reset.wrN (kp 0 + KP.KP_CTL) 3).wrN (kp 0 + KP.KP_STAT) 0x100, 0, 1, ?_⟩⟩ <;>
  decide +kernel

theorem witness_PowerOverCable :
    (∃ (s : State) (die : Nat), s.pccOn die = true ∧ s.passed (s.pcc die).frameAt (usec 100) = true) ∧
    (∃ (s : State) (die : Nat), s.pccOn die = true) ∧
    (∃ (s : State) (port a : Nat), s.pccOn (port / 32) = true ∧ ((s.pcc (port / 32)).onAt.get (fun _ => none) (port % 32) = some a) ∧
      s.bit (sm (port / 32) + SM.PCC_ON) (port % 32) = true ∧ s.bit (lp port + LP.STATUS) 5 = false ∧ (s.port port).offUntil = none ∧ ¬
      (s.lpState port = 10 ∧ s.fld (lp port + LP.FAULT_CAUSE) 3 0 = 9) ∧ a + msec (s.fld (sm (port / 32) + SM.PCC_CTL) 23 16) ≤
      s.cycle) := by
  refine ⟨⟨((State.reset.wrN (sm 1 + SM.PCC_CTL) 0x64_0201).wrN (sm 1 + SM.PCC_ON) 3).setPort 33 { pwrWant := true }, 1, ?_⟩,
    ⟨((State.reset.wrN (sm 1 + SM.PCC_CTL) 0x64_0201).wrN (sm 1 + SM.PCC_ON) 3).setPort 33 { pwrWant := true }, 1, ?_⟩,
    ⟨{ (((State.reset.wrN (sm 1 + SM.PCC_CTL) 0x01_0201).wrN (sm 1 + SM.PCC_ON) 3).setPort 33 { pwrWant := true }).updPcc 1 (fun v => { v with onAt := [(1, some 0)] }) with cycle := msec 1 }, 33, 0, ?_⟩⟩ <;>
  decide +kernel

theorem witness_BusAccess :
    (∃ (s : State) (die off req : Nat) (size : AccSize) (rival : Option Rival) (u : Nat), s.present die = true ∧ die < 4 ∧ u < 8 ∧ size
      = .b4 ∧ rival = none ∧ off = ck die u + CK.CK_EXPECT - dk die ∧ s.direct req die off = true) ∧
    (∃ (s : State) (die off req : Nat) (size : AccSize) (rival : Option Rival) (u req2 v2 : Nat), s.present die = true ∧ die < 4 ∧ u <
      8 ∧ size = .b4 ∧ off = ck die u + CK.CK_EXPECT - dk die ∧ rival = some { off := off, size := .b4, req := req2, value := some v2 }
      ∧ s.pathOf req = 0 ∧ s.pathOf req2 = 1 ∧ s.direct req die off = true ∧ s.direct req2 die off = true ∧ s.bit (ck die u +
      CK.CK_STAT) 0 = false) ∧
    (∃ (s : State) (die off req : Nat) (size : AccSize) (rival : Option Rival), size ≠ .b8 ∧ 9 ≤ req ∧ rival = none ∧ (if size = .amo
      then 8 else if off % sizeBytes size ≠ 0 then 6 else if s.placeFrom req die off = .bad 1 then 1 else if size ≠ .b4 ∧ s.placeFrom
      req die off = .reg (dk die + off / 4 * 4) then 7 else 0) ≠ 0) ∧
    (∃ (s : State) (die off req : Nat) (size : AccSize) (rival : Option Rival), s.present die = true ∧ die < 4 ∧ size = .b4 ∧ rival =
      none ∧ off = BS.BS_POP_EMPTY ∧ s.direct req die off = true) ∧
    (∃ (s : State) (die off req : Nat) (size : AccSize) (rival : Option Rival) (u : Nat), s.present die = true ∧ die < 4 ∧ u < 8 ∧ size
      = .b1 ∧ rival = none ∧ off = ck die u + CK.CK_EXPECT - dk die + 1 ∧ s.direct req die off = true) ∧
    (∃ (s : State) (die off req : Nat) (size : AccSize) (rival : Option Rival) (u req2 v2 : Nat), s.present die = true ∧ die < 4 ∧ u <
      8 ∧ size = .b4 ∧ off = ck die u + CK.CK_EXPECT - dk die ∧ rival = some { off := off, size := .b4, req := req2, value := some v2 }
      ∧ s.pathOf req = 0 ∧ s.pathOf req2 = 1 ∧ s.direct req die off = true ∧ s.direct req2 die off = true ∧ s.bit (ck die u +
      CK.CK_STAT) 0 = false) ∧
    (∃ (s : State) (die off req e c : Nat), bargeOk s die e c = true ∧ off = bgc die e c + BG.RING_CREDIT - dk die ∧ s.pathStop req die
      = 0) ∧
    (∃ (s : State), s.stOk (partner s.lead) = true ∧ s.hbOn.contains (partner s.lead) = true ∧ s.declared.contains (partner s.lead) =
      false ∧ s.dict.serving = true) ∧
    (∃ (s : State) (die e : Nat) (err : PopErr) (c : Nat) (m : MoveRun), bargeOk s die e c = true ∧ (s.eng die e).active = some c ∧
      (s.chan die e c).mv = some m ∧ (s.chan die e c).abort = none ∧ (s.chan die e c).failAt = none ∧ s.stepWaits die e c m = false ∧
      ((s.tryStep die e c m err).2) = 0 ∧ s.stepLen die e c m < m.left) ∧
    (∃ (s : State) (die e : Nat) (err : PopErr) (c : Nat) (m : MoveRun), bargeOk s die e c = true ∧ (s.eng die e).active = some c ∧
      (s.chan die e c).mv = some m ∧ (s.chan die e c).abort = none ∧ (s.chan die e c).failAt = none ∧ s.stepWaits die e c m = false ∧
      (((s.tryStep die e c m err).2) = 2 ∨ (((s.tryStep die e c m err).2) ≠ 0 ∧ s.fld (bg die e + BG.ENG_CFG) 2 0 ≤ (s.chan die e
      c).retries))) ∧
    (∃ (s : State) (die e : Nat) (err : PopErr) (c : Nat) (m : MoveRun), bargeOk s die e c = true ∧ (s.eng die e).active = some c ∧
      (s.chan die e c).mv = some m ∧ (s.chan die e c).abort = none ∧ (s.chan die e c).failAt = none ∧ s.stepWaits die e c m = false ∧
      ((s.tryStep die e c m err).2) ≠ 0 ∧ ((s.tryStep die e c m err).2) ≠ 2 ∧ (s.chan die e c).retries < s.fld (bg die e + BG.ENG_CFG)
      2 0 ∧ nbits (m.words.getD 0 0) 54 53 = 0) ∧
    (∃ (s : State) (die e c a : Nat) (m : MoveRun), bargeOk s die e c = true ∧ (s.eng die e).active = some c ∧ (s.chan die e c).mv =
      some m ∧ (s.chan die e c).abort = none ∧ (s.chan die e c).failAt = some a ∧ a + usec 1 ≤ s.cycle ∧ s.stepWaits die e c m = false) ∧
    (∃ (s : State) (die e c : Nat), bargeOk s die e c = true ∧ (s.chan die e c).abort = some true ∧ chRunning (s.chState die e c) =
      true) := by
  refine ⟨⟨State.reset, 1, ck 1 2 + CK.CK_EXPECT - dk 1, 1, .b4, none, 2, ?_⟩,
    ⟨State.reset, 1, ck 1 2 + CK.CK_EXPECT - dk 1, 1, .b4, some { off := ck 1 2 + CK.CK_EXPECT - dk 1, size := .b4, req := 5, value := some 0x9 }, 2, 5, 0x9, ?_⟩,
    ⟨State.reset, 1, 0x11300011, 9, .b4, none, ?_⟩,
    ⟨State.reset.wrN (dk 1 + BS.BS_POP_EMPTY) 7, 1, BS.BS_POP_EMPTY, 1, .b4, none, ?_⟩,
    ⟨State.reset, 1, ck 1 2 + CK.CK_EXPECT - dk 1 + 1, 1, .b1, none, 2, ?_⟩,
    ⟨State.reset, 1, ck 1 2 + CK.CK_EXPECT - dk 1, 1, .b4, some { off := ck 1 2 + CK.CK_EXPECT - dk 1, size := .b4, req := 5, value := some 0x9 }, 2, 5, 0x9, ?_⟩,
    ⟨State.reset.wrN (bgc 1 2 3 + BG.RING_CREDIT_HI) 7, 1, bgc 1 2 3 + BG.RING_CREDIT - dk 1, 1, 2, 3, ?_⟩,
    ⟨{ State.reset with hbOn := [4, 5], dict := { serving := true } }, ?_⟩,
    ⟨(State.reset.setEng 1 2 { active := some 3 }).setChan 1 2 3 { mv := some { words := [2 ^ 55, 0x11], dst := 0x100, total := 512, left := 512 }, acc := 2 ^ 40 }, 1, 2, .none, 3, { words := [2 ^ 55, 0x11], dst := 0x100, total := 512, left := 512 }, ?_⟩,
    ⟨((State.reset.setEng 1 2 { active := some 3 }).setChan 1 2 3 { mv := some { words := [2 ^ 55, 0x11], dst := 0xFFFFFFFF00, total := 512, left := 512 }, acc := 2 ^ 40 }).wrFld (bg 1 2 + BG.ENG_CFG) 2 0 0, 1, 2, .none, 3, { words := [2 ^ 55, 0x11], dst := 0xFFFFFFFF00, total := 512, left := 512 }, ?_⟩,
    ⟨((State.reset.setEng 1 2 { active := some 3 }).setChan 1 2 3 { mv := some { words := [2 ^ 55, 0x11], dst := 0xFFFFFFFF00, total := 512, left := 512 }, acc := 2 ^ 40 }).wrFld (bg 1 2 + BG.ENG_CFG) 2 0 3, 1, 2, .none, 3, { words := [2 ^ 55, 0x11], dst := 0xFFFFFFFF00, total := 512, left := 512 }, ?_⟩,
    ⟨{ (State.reset.setEng 1 2 { active := some 3 }).setChan 1 2 3 { mv := some { words := [2 ^ 55, 0x11], dst := 0x100, total := 512, left := 512 }, acc := 2 ^ 40, failAt := some 0 } with cycle := usec 1 }, 1, 2, 3, 0, { words := [2 ^ 55, 0x11], dst := 0x100, total := 512, left := 512 }, ?_⟩,
    ⟨(State.reset.setChState 1 2 3 2).setChan 1 2 3 { abort := some true }, 1, 2, 3, ?_⟩⟩ <;>
  decide +kernel

end Sys2Proof.Tests
end

/-! SUPPORT. The read of device time (R55, R84): the three words of a DT96 value, the words latched for an access path, a 32-bit
register read that ends at its register, and the volatile page of the time block. -/
namespace Sys2Proof.Machine

/-! ## The three words of a DT96 value -/

/-- A packed stamp has 96 bits: 16 of fraction, 32 of nanoseconds, 48 of seconds (R19). -/
theorem dtPack_lt (t : Nat) : dtPack t < 2 ^ 96 := by
  unfold dtPack
  omega

/-- A 96-bit value is put together again from its three words. -/
theorem dtOfWords_dtWord {x : Nat} (h : x < 2 ^ 96) : dtOfWords (dtWord x 0) (dtWord x 1) (dtWord x 2) = x := by
  simp only [dtOfWords, dtWord, BitVec.toNat_ofNat]
  omega

/-! ## Latched words -/

/-- A word latched for a path, read over that path at any key. -/
@[simp] theorem State.latched_latch (s : State) (req k j : Nat) (v : Word) :
    (s.latch req k v).latched req j = if j = k then v else s.latched req j := by
  have key : (s.latchKey req j = s.latchKey req k) = (j = k) := propext (by simp only [State.latchKey]; omega)
  show Tbl.get _ (Tbl.set _ s.latches (s.latchKey req k) v) (s.latchKey req j) = _
  simp only [Tbl.get_set, key, State.latched]

@[simp] theorem State.latched_respond (s : State) (r : Resp) (req k : Nat) : (s.respond r).latched req k = s.latched req k := rfl

/-! ## A read of one word that ends at its register -/

/-- A requester's direct access to a register of a die leads there. -/
theorem State.placeFrom_of_direct {s : State} {req die o k : Nat} (hd : s.direct req die o = true) (hk : s.placeKey die o = .reg k) :
    s.placeFrom req die o = .reg k := by
  obtain ⟨hstop, -⟩ := Bool.and_eq_true_iff.mp hd
  simp only [State.placeFrom, hk, beq_iff_eq.mp hstop, if_true]

/-- A direct read is not answered from a prefetch line. -/
theorem State.regReadOne_of_direct {s : State} {req die o : Nat} (hd : s.direct req die o = true) (size : AccSize) :
    s.regReadOne die o req size = s.regReadPlain die o req size := by
  obtain ⟨-, hmark⟩ := Bool.and_eq_true_iff.mp hd
  unfold State.regReadOne
  split
  · rfl
  · rename_i st m a hb
    rw [hb] at hmark
    obtain ⟨hout, -⟩ := Bool.and_eq_true_iff.mp hmark
    rw [if_pos (Or.inl (by simpa using hout))]

/-- An aligned 32-bit read of an address where a register stands is one read of that register. -/
theorem State.readSized_b4_of_reg {f : State → Nat → Place} {s : State} {a k : Nat} (req : Nat) (ha : a % 4 = 0) (hk : f s a = .reg k) :
    s.readSized f req a .b4 = ((s.readReg k req).1, 0, leBytes (s.readReg k req).2.toNat 4) := by
  have hword : a / 4 * 4 = a := by omega
  simp [State.readSized, State.readAt, sizeStop, sizeBytes, hword, ha, hk, leBytes, slice]

/-- RC_READ without a rival is one access. -/
theorem exec_rcRead (die o req : Nat) (size : AccSize) (s : State) :
    exec (.rcRead die o req size none) s = .next (s.regReadOne die o req size) := rfl

/-- A direct, aligned 32-bit read of a register answers the word that a read of the register returns, in the state that read leaves. -/
theorem completes_rcRead_of_direct {s : State} {req die o k : Nat} {P : State → Prop} (hd : s.direct req die o = true) (ho : o % 4 = 0)
    (hk : s.placeKey die o = .reg k)
    (hP : P ((s.readReg k req).1.respond (.bytes (leBytes (s.readReg k req).2.toNat 4)))) :
    Completes (.rcRead die o req .b4 none) s P := by
  refine ⟨_, ?_, hP⟩
  rw [exec_rcRead, State.regReadOne_of_direct hd, State.regReadPlain,
    State.readSized_b4_of_reg (f := fun s a => s.placeFrom req die a) req ho (State.placeFrom_of_direct hd hk)]
  rfl

/-! ## The latched time registers NOW1 and NOW2 (R55, R84) -/

/-- The time block's offset in a die's map (R84). -/
theorem tb_add_sub_dk (die o : Nat) : tb die + o - dk die = (if die < 4 then 0x11400000 else 0x40000) + o := by
  simp only [tb, dk]
  omega

/-- A key of the time block names its die. -/
theorem tb_add_div {die o : Nat} (ho : o < 0x10000) : (tb die + o) / 0x100000000 = die := by
  simp only [tb, dk]
  split <;> omega

/-- A key of the time block names its offset in the die's map. -/
theorem tb_add_mod {die o : Nat} (ho : o < 0x10000) : (tb die + o) % 0x100000000 = (if die < 4 then 0x11400000 else 0x40000) + o := by
  simp only [tb, dk]
  split <;> omega

section
variable {die o : Nat} (ho : o = TB.NOW1 ∨ o = TB.NOW2)
include ho

theorem now_lt : o < 0x10000 := by
  rcases ho with rfl | rfl <;> decide

/-- The registers NOW1 and NOW2 stand in the map of every present die. -/
theorem State.placeKey_now {s : State} (hp : s.present die = true) : s.placeKey die (tb die + o - dk die) = .reg (tb die + o) := by
  rw [tb_add_sub_dk]
  by_cases hc : die < 4
  · rcases ho with rfl | rfl <;> simp [State.placeKey, State.placeConc, concBlock, hp, hc, TB.NOW1, TB.NOW2]
  · rcases ho with rfl | rfl <;> simp [State.placeKey, State.placeLocal, stewardBlocks, hp, hc, TB.NOW1, TB.NOW2]

/-- NOW1 and NOW2 are registers that can be read and that a read does not clear. -/
theorem lookupReg_now : ∃ r i x, lookupReg (tb die + o) = some (r, i, x) ∧ r.wo = false ∧ r.rc = 0 := by
  have row : (lookupReg (tb die + o)).map (fun e => (e.1.wo, e.1.rc)) = some (false, 0) := by
    rw [lookupReg, tb_add_div (now_lt ho), tb_add_mod (now_lt ho)]
    by_cases hc : die < 4
    · rcases ho with rfl | rfl <;> simp only [if_pos hc] <;> decide +kernel
    · rcases ho with rfl | rfl <;> simp only [if_neg hc] <;> decide +kernel
  obtain ⟨⟨r, i, x⟩, he, hrow⟩ := Option.map_eq_some_iff.mp row
  exact ⟨r, i, x, he, (Prod.mk.inj hrow).1, (Prod.mk.inj hrow).2⟩

/-- A read of NOW1 or NOW2 is no command that latches. -/
theorem readCmd_now (req : Nat) : readCmd (tb die + o) req = none := by
  simp only [readCmd, tb_add_div (now_lt ho), tb_add_mod (now_lt ho)]
  by_cases hc : die < 4
  · rcases ho with rfl | rfl <;> simp [hc, TB.NOW1, TB.NOW2]
  · rcases ho with rfl | rfl <;> simp [hc, TB.NOW1, TB.NOW2, TB.PPSCAP0]

/-- NOW1 and NOW2 are no low half of a pair of R452. -/
theorem pairHigh_now : pairHigh (tb die + o) = none := by
  simp only [pairHigh, tb_add_div (now_lt ho), tb_add_mod (now_lt ho)]
  by_cases hc : die < 4
  · rcases ho with rfl | rfl <;> simp [hc, TB.NOW1, TB.NOW2]
  · rcases ho with rfl | rfl <;> simp [hc, stHigh, TB.NOW1, TB.NOW2]

/-- A concentrator shows its time block from 0x1140_0000 (R42). -/
theorem State.viewConc_now (s : State) (req : Nat) : s.viewConc die (0x11400000 + o) req = s.viewTb die o req := by
  rcases ho with rfl | rfl <;> simp [State.viewConc, EF.LEVELS, TB.NOW1, TB.NOW2]

/-- A steward shows its time block from 0x4_0000 (R41). -/
theorem State.viewSt_now (s : State) (req : Nat) : s.viewSt die (0x40000 + o) req = s.viewTb die o req := by
  rcases ho with rfl | rfl <;> simp [State.viewSt, stHigh, TB.NOW1, TB.NOW2]

/-- What NOW1 and NOW2 show is what the requester's path last latched. -/
theorem State.view_now (s : State) (req : Nat) : s.view (tb die + o) req = s.latched req (tb die + o) := by
  have htb : s.viewTb die o req = s.latched req (tb die + o) := by
    rw [State.viewTb, if_pos (ho.imp_right Or.inl)]
  obtain ⟨r, i, x, he, hwo, -⟩ := lookupReg_now (die := die) ho
  rw [State.view, he]
  simp only [tb_add_div (now_lt ho), tb_add_mod (now_lt ho), hwo, Bool.false_eq_true, if_false]
  by_cases hc : die < 4
  · rw [if_pos hc, if_pos hc, State.viewConc_now ho, htb]
  · rw [if_neg hc, if_neg hc, State.viewSt_now ho, htb]

/-- A read of NOW1 or NOW2 has no effect on its registers. -/
theorem State.readClear_now (s : State) : s.readClear (tb die + o) 0 = s := by
  simp only [State.readClear, tbOff, tb_add_div (now_lt ho), tb_add_mod (now_lt ho)]
  by_cases hc : die < 4
  · rcases ho with rfl | rfl <;> simp [hc, TB.NOW1, TB.NOW2, TB.SYNT_OFS, BS.BS_FREE_MIN, LP.FIFO_OVF]
  · rcases ho with rfl | rfl <;> simp [hc, TB.NOW1, TB.NOW2, TB.SYNT_OFS, BS.BS_FREE_MIN, LP.FIFO_OVF]

/-- A read of NOW1 or NOW2 returns what the requester's path last latched, and changes nothing (R55). -/
theorem State.readReg_now (s : State) (req : Nat) : s.readReg (tb die + o) req = (s, s.latched req (tb die + o)) := by
  obtain ⟨r, i, x, he, -, hrc⟩ := lookupReg_now (die := die) ho
  rw [State.readReg, readCmd_now ho, pairHigh_now ho, he, State.view_now ho]
  show (s.readClear (tb die + o) r.rc, s.latched req (tb die + o)) = _
  rw [hrc, State.readClear_now ho]

end

/-! ## The command NOW_READ -/

/-- NOW_READ on a present die answers the low word of device time and latches the other two for the path (R55). -/
theorem execNowRead_of_present {s : State} {die : Nat} (req : Nat) (hp : s.present die = true) :
    execNowRead die req s =
      .next (((s.latch req (tb die + TB.NOW1) (dtWord (dtPack (s.stamp die)) 1)).latch req (tb die + TB.NOW2)
        (dtWord (dtPack (s.stamp die)) 2)).respond (.data [dtWord (dtPack (s.stamp die)) 0])) := by
  rw [execNowRead, State.onKey, tb_add_div (by decide), if_pos hp]

/-- The words that NOW_READ answers and latches are one 96-bit value, each word at its own register. -/
theorem dtOfWords_latch_now (s : State) (die req : Nat) (r : Resp) {x : Nat} (hx : x < 2 ^ 96) :
    let t := ((s.latch req (tb die + TB.NOW1) (dtWord x 1)).latch req (tb die + TB.NOW2) (dtWord x 2)).respond r
    dtOfWords (dtWord x 0) (t.latched req (tb die + TB.NOW1)) (t.latched req (tb die + TB.NOW2)) = x := by
  intro t
  have hne : tb die + TB.NOW1 ≠ tb die + TB.NOW2 := fun h => absurd (Nat.add_left_cancel h) (by decide)
  have h1 : t.latched req (tb die + TB.NOW1) = dtWord x 1 := by
    rw [State.latched_respond, State.latched_latch, if_neg hne, State.latched_latch, if_pos rfl]
  have h2 : t.latched req (tb die + TB.NOW2) = dtWord x 2 := by
    rw [State.latched_respond, State.latched_latch, if_pos rfl]
  rw [h1, h2, dtOfWords_dtWord hx]

/-! ## The volatile page of the time block (R55, R454) -/

/-- The first page of the time block is volatile on every die. -/
theorem volatileAt_tb (die : Nat) {o : Nat} (ho : o < 0x1000) :
    volatileAt die (if die < 4 then 0x11400000 + o else 0x1000040000 + o) = true := by
  by_cases hc : die < 4
  · simp only [volatileAt, hc, if_true, concVolatile, List.any_eq_true]
    refine ⟨(0x11400000, 0, 1, 0, 0x1000), by decide, 0, by decide, ?_⟩
    simp only [Bool.and_eq_true, decide_eq_true_eq]
    omega
  · rw [volatileAt, if_neg hc, if_neg hc, if_neg (by omega), if_pos (by omega), List.any_eq_true]
    refine ⟨(0x40000, 0x41000), by decide, ?_⟩
    simp only [Bool.and_eq_true, decide_eq_true_eq]
    omega

end Sys2Proof.Machine

namespace Sys2Proof
open Machine

/-- Settles O5: NOW_READ splits one 96-bit value over its answer and the two latches; a read of NOW1 or NOW2 is a read of a latched word,
which changes nothing; the registers lie in the first page of the time block. -/
theorem deviceTimeLatch : Obligations.DeviceTimeLatch := by
  intro die req s hp
  refine ⟨⟨_, execNowRead_of_present req hp, dtWord (dtPack (s.stamp die)) 0, rfl,
    dtOfWords_latch_now s die req _ (dtPack_lt _), rfl, rfl⟩, ?_, ?_⟩
  · intro o ho hd
    have ho : o = TB.NOW1 ∨ o = TB.NOW2 := by simpa using ho
    refine completes_rcRead_of_direct hd ?_ (State.placeKey_now ho hp) ?_
    · rw [tb_add_sub_dk]
      rcases ho with rfl | rfl <;> split <;> rfl
    · rw [State.readReg_now ho]
      exact ⟨rfl, rfl, rfl⟩
  · intro o ho
    have ho : o < 0x1000 := by revert o; decide
    exact volatileAt_tb die ho

end Sys2Proof

/-! SUPPORT. Semaphores (R458): keys of the SM block, what an ACQ and a REL do to the semaphore's register, and a read of SEMn_STAT. -/
namespace Sys2Proof.Machine

/-! ## Keys of the SM block -/

/-- The SM block's offset in a die's map (R41, R42). -/
theorem sm_add_sub_dk (die o : Nat) : sm die + o - dk die = (if die < 4 then 0x11800000 else 0x20000) + o := by
  simp only [sm, dk]
  omega

/-- A key of the SM block names its die. -/
theorem sm_add_div {die o : Nat} (ho : o < 0x8000) : (sm die + o) / 0x100000000 = die := by
  simp only [sm, dk]
  split <;> omega

/-- A key of the SM block names its offset in the die's map. -/
theorem sm_add_mod {die o : Nat} (ho : o < 0x8000) : (sm die + o) % 0x100000000 = (if die < 4 then 0x11800000 else 0x20000) + o := by
  simp only [sm, dk]
  split <;> omega

/-- SEMn_CMD names its die. -/
theorem semCmd_div {die n : Nat} (hn : n < 64) : (sm die + SM.SEM_CMD + 8 * n) / 0x100000000 = die := by
  rw [Nat.add_assoc]
  exact sm_add_div (show 0 + 8 * n < 0x8000 by omega)

/-- SEMn_STAT lies apart from every register of the SM block behind the semaphores. -/
theorem semKey_ne_sm_add {die n o : Nat} (hn : n < 64) (ho : 0x200 ≤ o) : semKey die n ≠ sm die + o := by
  show sm die + 4 + 8 * n ≠ sm die + o
  omega

/-! ## Words and registers apart from the ones an operation writes -/

/-- A field write leaves the bits above the field. -/
theorem bit_wrFld_above (s : State) (k j hi lo n i : Nat) (hlo : lo ≤ hi) (h : hi < i) (hi32 : i < 32) :
    (s.wrFld k hi lo n).bit j i = s.bit j i := by
  unfold State.wrFld State.bit
  rw [State.rd_wr]
  split
  · rename_i e
    rw [testBit_wput, decide_eq_true hi32, if_neg (by omega), Bool.true_and, e]
  · rfl

theorem rd_wrFld_ne (s : State) {k j : Nat} (hi lo n : Nat) (h : j ≠ k) : (s.wrFld k hi lo n).rd j = s.rd j := by
  rw [State.wrFld, State.rd_wr, if_neg h]

theorem rd_setBit_ne (s : State) {k j : Nat} (i : Nat) (h : j ≠ k) : (s.setBit k i).rd j = s.rd j := by
  rw [State.setBit, State.setBits, State.rd_wr, if_neg h]

theorem rd_clrBit_ne (s : State) {k j : Nat} (i : Nat) (h : j ≠ k) : (s.clrBit k i).rd j = s.rd j := by
  rw [State.clrBit, State.clrBits, State.rd_wr, if_neg h]

theorem rd_incW_same (s : State) (k : Nat) : (s.incW k).rd k = wordOf (s.rdN k + 1) := by
  rw [State.incW, State.wrN, State.rd_wr, if_pos rfl]

theorem rd_incW_ne (s : State) {k j : Nat} (h : j ≠ k) : (s.incW k).rd j = s.rd j := by
  rw [State.incW, State.wrN, State.rd_wr, if_neg h]

/-- SEM_HELD of a semaphore changes only the two SEM_HELD registers. -/
theorem rd_semHeld_ne (s : State) {die j : Nat} (n : Nat) (b : Bool) (hlo : j ≠ sm die + SM.SEM_HELD_LO)
    (hhi : j ≠ sm die + SM.SEM_HELD_HI) :
    (s.semHeld die n b).rd j = s.rd j := by
  have hne : j ≠ sm die + (if n < 32 then SM.SEM_HELD_LO else SM.SEM_HELD_HI) := by
    split
    · exact hlo
    · exact hhi
  cases b
  · exact rd_clrBit_ne s _ hne
  · exact rd_setBit_ne s _ hne

/-- SEM_HELD of one semaphore leaves SEMn_STAT of every semaphore. -/
theorem rd_semHeld_semKey (s : State) {n : Nat} (die m : Nat) (b : Bool) (hn : n < 64) :
    (s.semHeld die m b).rd (semKey die n) = s.rd (semKey die n) :=
  rd_semHeld_ne s m b (semKey_ne_sm_add hn (by decide)) (semKey_ne_sm_add hn (by decide))

/-! ## ACQ and REL (R458) -/

/-- The state after a grant of semaphore `n`. -/
theorem State.semTake_of_free {s : State} {die n : Nat} (req : Nat) (h : s.fld (semKey die n) 7 0 = 0) :
    s.semTake die n req = ((s.wrFld (semKey die n) 7 0 req).clrBit (semKey die n) 8).semHeld die n true :=
  if_pos h

/-- An ACQ of a held semaphore sets CONTENDED and nothing else. -/
theorem State.semTake_of_held {s : State} {die n : Nat} (req : Nat) (h : s.fld (semKey die n) 7 0 ≠ 0) :
    s.semTake die n req = s.setBit (semKey die n) 8 :=
  if_neg h

/-- A granted requester owns the semaphore, CONTENDED is clear, and only SEMn_STAT and SEM_HELD have changed. -/
theorem State.semTake_grants {s : State} {die n req : Nat} (hn : n < 64) (hreq : req < 256) (h : s.fld (semKey die n) 7 0 = 0) :
    (s.semTake die n req).fld (semKey die n) 7 0 = req ∧ (s.semTake die n req).bit (semKey die n) 8 = false ∧
      RegsBut s (s.semTake die n req) [semKey die n, sm die + SM.SEM_HELD_LO, sm die + SM.SEM_HELD_HI] := by
  rw [State.semTake_of_free req h]
  refine ⟨?_, ?_, ?_⟩
  · rw [State.fld, rd_semHeld_semKey _ _ _ _ hn]
    have hclr := fld_clrBits_apart (s.wrFld (semKey die n) 7 0 req) (semKey die n) (2 ^ 8) (semKey die n) 7 0 (by decide)
      (Or.inr fun i _ hi => Nat.testBit_two_pow_of_ne (by omega))
    refine hclr.trans ((fld_wrFld_same _ _ _ _ _ (by decide)).trans ?_)
    exact Nat.mod_eq_of_lt hreq
  · rw [State.bit, rd_semHeld_semKey _ _ _ _ hn]
    refine (bit_clrBit _ _ _ _ _ (by decide)).trans ?_
    simp
  · intro k hk
    simp only [List.mem_cons, List.not_mem_nil, or_false, not_or] at hk
    obtain ⟨hstat, hlo, hhi⟩ := hk
    rw [rd_semHeld_ne _ n true hlo hhi, rd_clrBit_ne _ 8 hstat, rd_wrFld_ne _ 7 0 req hstat]

/-- An ACQ of a held semaphore sets CONTENDED in SEMn_STAT and changes no other register. -/
theorem State.semTake_contends {s : State} {die n : Nat} (req : Nat) (h : s.fld (semKey die n) 7 0 ≠ 0) :
    (s.semTake die n req).rd (semKey die n) = s.rd (semKey die n) ||| 0x100#32 ∧ RegsBut s (s.semTake die n req) [semKey die n] := by
  rw [State.semTake_of_held req h]
  constructor
  · rw [State.setBit, State.setBits, State.rd_wr, if_pos rfl]
    rfl
  · intro k hk
    exact rd_setBit_ne s 8 (fun e => hk (List.mem_singleton.mpr e))

/-- SEM_ACQ without a rival is one ACQ at the semaphore. -/
theorem execSemAcq_of_present {s : State} {die n : Nat} (req : Nat) (hp : s.present die = true) (hn : n < 64) :
    execSemAcq die n req 0 s = .next (s.semTake die n req) := by
  rw [execSemAcq, State.onKey, semCmd_div hn, if_pos hp, if_neg (by omega), if_pos (Or.inl rfl)]

/-- SEM_REL by the owner clears OWNER and the semaphore's bit of SEM_HELD. -/
theorem execSemRel_of_owner {s : State} {die n req : Nat} (hp : s.present die = true) (hn : n < 64) (hreq : req ≠ 0)
    (h : s.fld (semKey die n) 7 0 = req) :
    execSemRel die n req s = .next ((s.wrFld (semKey die n) 7 0 0).semHeld die n false) := by
  rw [execSemRel, State.onKey, semCmd_div hn, if_pos hp, if_neg (by omega), if_pos ⟨h, hreq⟩]

/-- SEM_REL by anyone else is counted in SEM_BAD_REL and sets BAD_REL. -/
theorem execSemRel_of_not_owner {s : State} {die n req : Nat} (hp : s.present die = true) (hn : n < 64)
    (h : s.fld (semKey die n) 7 0 ≠ req) :
    execSemRel die n req s = .next ((s.incW (sm die + SM.SEM_BAD_REL)).setBit (sm die + SM.SEM_EVENTS) 1) := by
  rw [execSemRel, State.onKey, semCmd_div hn, if_pos hp, if_neg (by omega), if_neg (fun hc => h hc.1)]

/-- A semaphore that its owner has released is free, and CONTENDED is as before. -/
theorem State.released_semKey (s : State) {die n : Nat} (hn : n < 64) :
    ((s.wrFld (semKey die n) 7 0 0).semHeld die n false).fld (semKey die n) 7 0 = 0 ∧
      ((s.wrFld (semKey die n) 7 0 0).semHeld die n false).bit (semKey die n) 8 = s.bit (semKey die n) 8 := by
  rw [State.fld, State.bit, rd_semHeld_semKey _ _ _ _ hn]
  exact ⟨fld_wrFld_same s _ 7 0 0 (by decide), bit_wrFld_above s _ _ 7 0 0 8 (by decide) (by decide) (by decide)⟩

/-- An ignored REL leaves SEMn_STAT and raises SEM_BAD_REL by 1. -/
theorem State.badRel_counted (s : State) {die n : Nat} (hn : n < 64) :
    ((s.incW (sm die + SM.SEM_BAD_REL)).setBit (sm die + SM.SEM_EVENTS) 1).rd (semKey die n) = s.rd (semKey die n) ∧
      ((s.incW (sm die + SM.SEM_BAD_REL)).setBit (sm die + SM.SEM_EVENTS) 1).rd (sm die + SM.SEM_BAD_REL) =
        wordOf (s.rdN (sm die + SM.SEM_BAD_REL) + 1) := by
  constructor
  · rw [rd_setBit_ne _ 1 (semKey_ne_sm_add hn (by decide)), rd_incW_ne _ (semKey_ne_sm_add hn (by decide))]
  · rw [rd_setBit_ne _ 1 (fun h => absurd (Nat.add_left_cancel h) (by decide)), rd_incW_same]

/-! ## A read of SEMn_STAT -/

/-- SEMn_STAT at its offset in the SM block. -/
theorem semKey_eq (die n : Nat) : semKey die n = sm die + (4 + 8 * n) := Nat.add_assoc _ _ _

/-- A steward's pairs of R452 lie behind its SM block. -/
theorem stHigh_of_lt {o : Nat} (h : o < 0x200000) : stHigh o = false := by
  simp only [stHigh, Bool.or_eq_false_iff, Bool.and_eq_false_iff, beq_eq_false_iff_ne, decide_eq_false_iff_not]
  omega

/-- A block that begins behind an offset is passed over. -/
theorem lookupIn_of_lt {base stride count off : Nat} {rows : List RegRow} (bs : List BlockRow) (h : off < base) :
    lookupIn (⟨base, stride, count, rows⟩ :: bs) off = lookupIn bs off := by
  rw [lookupIn, BlockRow.locate, if_pos h]

/-- A row found in the table of a block that stands once answers the lookup. -/
theorem lookupIn_of_findRow {base count x : Nat} {rows : List RegRow} {r : RegRow} (bs : List BlockRow) (h : findRow rows x = some r) :
    lookupIn (⟨base, 0, count, rows⟩ :: bs) (base + x) = some (r, 0, x - r.off) := by
  have hloc : BlockRow.locate ⟨base, 0, count, rows⟩ (base + x) = some (0, x) := by
    rw [BlockRow.locate, if_neg (Nat.not_lt.mpr (Nat.le_add_right base x)), if_pos rfl, Nat.add_sub_cancel_left]
  rw [lookupIn, hloc]
  simp only [h]

section
variable {n : Nat} (hn : n < 64)
include hn

/-- Every semaphore's SEMn_STAT is the second row of the SM block's table. -/
theorem findRow_semStat (rows : List RegRow) :
    findRow ({ off := 0x0, dims := [(0x8, 64)], wr := 0x3, own := true, wo := true } :: { off := 0x4, dims := [(0x8, 64)] } :: rows)
      (4 + 8 * n) = some { off := 0x4, dims := [(0x8, 64)] } := by
  have hcmd : (4 + 8 * n) % 8 = 4 := by omega
  have hdiv : 8 * n / 8 = n := by omega
  simp [findRow, RegRow.hits, hcmd, hdiv, hn]

/-- The second row of the SM block's table, which all SEMn_STAT share. -/
theorem lookupReg_semKey (die : Nat) :
    lookupReg (semKey die n) = some ({ off := 0x4, dims := [(0x8, 64)] }, 0, 8 * n) := by
  have ho : 4 + 8 * n < 0x8000 := by omega
  rw [semKey_eq, lookupReg, sm_add_div ho, sm_add_mod ho]
  have hconc : findRow rowsSM (4 + 8 * n) = some { off := 0x4, dims := [(0x8, 64)] } := findRow_semStat hn _
  have hstew : findRow rowsSMS (4 + 8 * n) = some { off := 0x4, dims := [(0x8, 64)] } := findRow_semStat hn _
  by_cases hc : die < 4
  · rw [if_pos hc, if_pos hc, concBlocks, lookupIn_of_findRow _ hconc, Nat.add_sub_cancel_left]
  · rw [if_neg hc, if_neg hc]
    simp (disch := omega) only [stewBlocks, lookupIn_of_lt]
    rw [lookupIn_of_findRow _ hstew, Nat.add_sub_cancel_left]

/-- SEMn_STAT stands in the map of every present die. -/
theorem State.placeKey_semKey {s : State} {die : Nat} (hp : s.present die = true) :
    s.placeKey die (semKey die n - dk die) = .reg (semKey die n) := by
  have hword : ∀ b : Nat, b % 4 = 0 → (b + (4 + 8 * n)) / 4 * 4 = b + (4 + 8 * n) := fun b hb => by omega
  rw [semKey_eq, sm_add_sub_dk]
  by_cases hc : die < 4
  · have hblock : concBlock (0x11800000 + (4 + 8 * n)) = true := by
      rw [concBlock, decide_eq_true (show 0x11800000 ≤ 0x11800000 + (4 + 8 * n) by omega),
        decide_eq_true (show 0x11800000 + (4 + 8 * n) < 0x11808000 by omega), Bool.and_true, Bool.or_true]
    simp (disch := omega) only [State.placeKey, State.placeConc, hp, hc, hblock, if_true, if_neg, Bool.true_eq_false, if_false, hword,
      sm, Nat.add_assoc]
  · have hblock : stewardBlocks.any (fun b => decide (b.1 ≤ 0x20000 + (4 + 8 * n)) && decide (0x20000 + (4 + 8 * n) < b.2)) = true := by
      refine List.any_eq_true.mpr ⟨(0x20000, 0x26000), by decide, ?_⟩
      simp only [Bool.and_eq_true, decide_eq_true_eq]
      omega
    simp (disch := omega) only [State.placeKey, State.placeLocal, hp, hc, hblock, if_true, if_neg, Bool.true_eq_false, if_false, hword,
      sm, Nat.add_assoc]

/-- A read of SEMn_STAT is no command. -/
theorem readCmd_semKey (die req : Nat) : readCmd (semKey die n) req = none := by
  have ho : 4 + 8 * n < 0x8000 := by omega
  simp only [readCmd, semKey_eq, sm_add_div ho, sm_add_mod ho]
  by_cases hc : die < 4
  · simp (disch := omega) only [hc, if_true, if_neg, TB.NOW0]
  · simp (disch := omega) only [hc, if_false, if_neg, TB.NOW0, TB.PPSCAP0]

/-- SEMn_STAT is no low half of a pair of R452. -/
theorem pairHigh_semKey (die : Nat) : pairHigh (semKey die n) = none := by
  have ho : 4 + 8 * n < 0x8000 := by omega
  simp only [pairHigh, semKey_eq, sm_add_div ho, sm_add_mod ho]
  by_cases hc : die < 4
  · simp (disch := omega) only [hc, if_true, if_neg]
  · simp only [hc, if_false, stHigh_of_lt (show 0x20000 + (4 + 8 * n) + 4 < 0x200000 by omega), Bool.false_eq_true]

/-- On a concentrator SEMn_STAT shows the word it holds. -/
theorem State.viewConc_semStat (s : State) (die req : Nat) :
    s.viewConc die (0x11800000 + (4 + 8 * n)) req = s.rd (dk die + (0x11800000 + (4 + 8 * n))) := by
  simp (disch := omega) only [State.viewConc, EF.LEVELS, if_neg]

/-- On a steward SEMn_STAT shows the word it holds. -/
theorem State.viewSt_semStat (s : State) (die req : Nat) :
    s.viewSt die (0x20000 + (4 + 8 * n)) req = s.rd (dk die + (0x20000 + (4 + 8 * n))) := by
  have hpair : stHigh (0x20000 + (4 + 8 * n)) = false := stHigh_of_lt (by omega)
  simp (disch := omega) only [State.viewSt, hpair, Bool.false_eq_true, if_false, JN.FLUSH_MAX, HU.TEST_AGE, QSPI.QSPI_STAT, if_neg]

/-- SEMn_STAT shows the word it holds. -/
theorem State.view_semKey (s : State) (die req : Nat) : s.view (semKey die n) req = s.rd (semKey die n) := by
  have ho : 4 + 8 * n < 0x8000 := by omega
  rw [State.view, lookupReg_semKey hn]
  simp only [semKey_eq, sm_add_div ho, sm_add_mod ho, Bool.false_eq_true, if_false]
  by_cases hc : die < 4
  · simp only [hc, if_true, State.viewConc_semStat hn, sm, Nat.add_assoc]
  · simp only [hc, if_false, State.viewSt_semStat hn, sm, Nat.add_assoc]

/-- A read of SEMn_STAT clears nothing. -/
theorem State.readClear_semKey (s : State) (die : Nat) : s.readClear (semKey die n) 0 = s := by
  have ho : 4 + 8 * n < 0x8000 := by omega
  rw [semKey_eq]
  have htb : tbOff (sm die + (4 + 8 * n)) = none := by
    simp only [tbOff, sm_add_div ho, sm_add_mod ho]
    by_cases hc : die < 4
    · simp (disch := omega) only [hc, if_true, if_neg]
    · simp (disch := omega) only [hc, if_false, if_neg]
  simp only [State.readClear, htb, sm_add_div ho, sm_add_mod ho, reduceCtorEq, if_true, if_false]
  by_cases hc : die < 4
  · simp (disch := omega) only [hc, if_true, if_neg, BS.BS_FREE_MIN]
  · simp only [hc, false_and, if_false]

/-- A read of SEMn_STAT returns the word it holds and changes nothing. -/
theorem State.readReg_semKey (s : State) (die req : Nat) : s.readReg (semKey die n) req = (s, s.rd (semKey die n)) := by
  rw [State.readReg, readCmd_semKey hn, pairHigh_semKey hn, lookupReg_semKey hn, State.view_semKey hn]
  show (s.readClear (semKey die n) 0, s.rd (semKey die n)) = _
  rw [State.readClear_semKey hn]

end

end Sys2Proof.Machine

namespace Sys2Proof
open Machine

/-- Settles O6: an ACQ of a free semaphore grants it and one of a held semaphore sets CONTENDED; a REL releases for the owner and is
counted for anyone else; a direct read of SEMn_STAT is a plain read of the word it holds. -/
theorem semaphoreRule : Obligations.SemaphoreRule := by
  intro die n req s hp hn hreq hreq256
  refine ⟨fun hfree => ?_, fun hheld => ?_, fun hown => ?_, fun hother => ?_, fun hdirect => ?_⟩
  · exact ⟨_, execSemAcq_of_present req hp hn, State.semTake_grants hn hreq256 hfree⟩
  · exact ⟨_, execSemAcq_of_present req hp hn, State.semTake_contends req hheld⟩
  · exact ⟨_, execSemRel_of_owner hp hn (by omega) hown, State.released_semKey s hn⟩
  · exact ⟨_, execSemRel_of_not_owner hp hn hother, State.badRel_counted s hn⟩
  · refine completes_rcRead_of_direct hdirect ?_ (State.placeKey_semKey hn hp) ?_
    · rw [semKey_eq, sm_add_sub_dk]
      split <;> omega
    · rw [State.readReg_semKey hn]
      exact ⟨rfl, rfl⟩

end Sys2Proof

/-! SUPPORT. FAULT_N held for a supply sequence that broke its rules (R703): the reason stays through every operation that gives or takes
another reason, and so through every command but RESET_ASSERT. What no operation but `State.faultN` does is cited from `Keeps`. -/
namespace Sys2Proof.Machine
set_option Elab.async false

/-! ## The reasons for FAULT_N -/

/-- `State.faultN` gives or takes the reason that it names and leaves the others. -/
theorem State.mem_faultWhy_faultN (s : State) (why x : Nat) (b : Bool) :
    x ∈ (s.faultN why b).faultWhy ↔ (x = why ∧ b = true) ∨ (x ≠ why ∧ x ∈ s.faultWhy) := by
  have hwhy : (s.faultN why b).faultWhy =
      if b then why :: s.faultWhy.filter (fun x => x != why) else s.faultWhy.filter (fun x => x != why) := by
    unfold State.faultN
    extract_lets rest new s1
    split <;> rfl
  rw [hwhy]
  cases b
  · simp [and_comm]
  · by_cases hx : x = why <;> simp [hx]

/-- Giving a reason changes neither registers nor memory; the pin falls where no reason held it low before. -/
theorem State.faultN_true_frame (s : State) (why : Nat) :
    (s.faultN why true).regs = s.regs ∧ (s.faultN why true).mem = s.mem ∧
    (s.faultWhy ≠ [] → (s.faultN why true).out = s.out) ∧
    (s.faultWhy = [] → (s.faultN why true).out.length = s.out.length + 1) := by
  unfold State.faultN
  extract_lets rest new s1
  by_cases hw : s.faultWhy = []
  · rw [if_neg (by simp [new, hw])]
    exact ⟨rfl, rfl, fun h => absurd hw h, fun _ => rfl⟩
  · rw [if_pos (by simp [new, hw])]
    exact ⟨rfl, rfl, fun _ => rfl, fun h => absurd h hw⟩

/-- FAULT_N is held low for a supply sequence that broke its rules (R703). -/
def State.SeqHeld (s : State) : Prop := 5 ∈ s.faultWhy

/-- A meaning that answers a next state answers one with that reason. -/
def ResSeqHeld : Res → Prop
  | .next t => t.SeqHeld
  | _ => True

/-- The reasons for FAULT_N as a set of fields for `Keeps`. -/
def faultWhyBit : Nat := 2 ^ Field.faultWhy.ix

/-- The reasons for FAULT_N are none of the other fields. -/
theorem faultWhyBit_apart : faultWhyBit &&& 0x3FFDFFFFFFFFFFFFFFFC = 0 := rfl

section
variable {s t : State}

theorem State.SeqHeld.keeps (h : s.SeqHeld) (k : Keeps faultWhyBit s t) : t.SeqHeld := by
  have same : t.faultWhy = s.faultWhy := k.same .faultWhy rfl
  rw [State.SeqHeld, same]
  exact h

/-- Giving any reason leaves the reason of R703. -/
theorem State.SeqHeld.faultN_true (h : s.SeqHeld) (why : Nat) : (s.faultN why true).SeqHeld := by
  rw [State.SeqHeld, State.mem_faultWhy_faultN]
  by_cases h5 : 5 = why
  · exact .inl ⟨h5, rfl⟩
  · exact .inr ⟨h5, h⟩

/-- Taking another reason leaves the reason of R703. -/
theorem State.SeqHeld.faultN_false (h : s.SeqHeld) {why : Nat} (h5 : 5 ≠ why) : (s.faultN why false).SeqHeld :=
  (s.mem_faultWhy_faultN why 5 false).mpr (.inr ⟨h5, h⟩)

theorem State.SeqHeld.res (h : s.SeqHeld) {r : Res} (k : ResKeeps faultWhyBit s r) : ResSeqHeld r := by
  cases r with
  | next t => exact h.keeps k
  | _ => trivial

/-! ## Commands performed inside another step -/

theorem State.SeqHeld.run (h : s.SeqHeld) {f : State → Res} (hf : ResSeqHeld (f s)) : (s.run f).SeqHeld := by
  unfold State.run
  split
  · rename_i e
    rwa [e] at hf
  · exact h

theorem State.SeqHeld.runs : ∀ (l : List (State → Res)) {s : State}, s.SeqHeld →
    (∀ f ∈ l, ∀ u : State, u.SeqHeld → ResSeqHeld (f u)) → (s.runs l).SeqHeld
  | [], _, h, _ => h
  | f :: l, s, h, hl =>
    State.SeqHeld.runs l (h.run (hl f List.mem_cons_self s h)) (fun g hg => hl g (List.mem_cons_of_mem f hg))

theorem State.SeqHeld.forEach {α : Type} {f : State → α → State} (hf : ∀ (u : State) a, u.SeqHeld → (f u a).SeqHeld) :
    ∀ (l : List α) {s : State}, s.SeqHeld → (forEach l s f).SeqHeld
  | [], _, h => h
  | a :: l, s, h => State.SeqHeld.forEach hf l (hf s a h)

theorem State.SeqHeld.onKey (h : s.SeqHeld) (k req : Nat) {f : State → State}
    (hf : s.present (k / 0x100000000) = true → (f s).SeqHeld) : (s.onKey k req f).SeqHeld := by
  have hF := faultWhyBit_apart
  unfold State.onKey
  split
  case isTrue hp => exact hf hp
  case isFalse => exact h.keeps (keeps_accessFault (.refl _ _) _ _ _)

/-- Every part has its dies among the six (R2). -/
theorem State.lt_six_of_present {die : Nat} (hp : s.present die = true) : die < 6 := by
  unfold State.present at hp
  split at hp <;> simp at hp <;> omega

/-- A bit of BOOT_CMD is obeyed by a steward that the part has, whose number is 4 or 5. -/
theorem State.SeqHeld.bootCmd (h : s.SeqHeld) (st req v bit : Nat) {f : State → State} (hf : st < 6 → (f s).SeqHeld) :
    (Machine.bootCmd st req v bit f s).SeqHeld := by
  refine h.onKey _ _ fun hp => ?_
  have hst : (sc st + SC.BOOT_CMD) / 0x100000000 = st := by
    simp only [sc, dk, SC.BOOT_CMD]
    omega
  rw [hst] at hp
  split
  · exact hf (State.lt_six_of_present hp)
  · exact h

/-! ## Resets of one die (R557, R673, R691) -/

/-- A steward's reset ends its own boot failure, which is no reason of R703. -/
theorem State.SeqHeld.resetSteward (h : s.SeqHeld) {st : Nat} (hst : st < 6) : (s.resetSteward st).SeqHeld := by
  unfold State.resetSteward
  extract_lets busy
  refine State.SeqHeld.faultN_false ?_ (by omega)
  exact h

theorem State.SeqHeld.dieReset (h : s.SeqHeld) {die : Nat} (hd : die < 6) (warm : Bool) : (s.dieReset die warm).SeqHeld := by
  have hF := faultWhyBit_apart
  unfold State.dieReset
  extract_lets s0 tm s1 s2 l
  have h1 : s1.SeqHeld :=
    h.keeps (keeps_refreshRate (keeps_setTm (keeps_resetRegs (keeps_farReset (.refl _ _) die) die warm) _))
  have h2 : s2.SeqHeld := by
    simp only [s2]
    split
    · exact h1.keeps (keeps_resetConc (.refl _ _) die)
    · exact h1.resetSteward hd
  split
  · split
    · exact h2
    · exact h2
  · exact h2

theorem State.SeqHeld.resetWith (h : s.SeqHeld) {die : Nat} (hd : die < 6) (cause : Nat) (warm : Bool) :
    (s.resetWith die cause warm).SeqHeld := by
  have hF := faultWhyBit_apart
  have hr := h.dieReset hd warm
  unfold State.resetWith
  extract_lets copy s1
  split
  · exact hr.keeps (keeps_upAll (.refl _ _))
  · exact hr.keeps (keeps_upAll (keeps_wrFld (keeps_putBit (keeps_wrN (.refl _ _) _ _) _ _ _) _ _ _ _))

theorem State.SeqHeld.execRailReset (h : s.SeqHeld) (die rail mv ns : Nat) : ResSeqHeld (execRailReset die rail mv ns s) := by
  show State.SeqHeld (if _ then _ else s)
  split
  case isTrue hc =>
    simp only [Bool.and_eq_true] at hc
    obtain ⟨⟨⟨⟨hp, -⟩, -⟩, -⟩, -⟩ := hc
    exact h.resetWith (State.lt_six_of_present hp) 5 false
  case isFalse => exact h

theorem State.SeqHeld.execNdmreset (h : s.SeqHeld) (die : Nat) : ResSeqHeld (execNdmreset die s) := by
  show State.SeqHeld (if _ then _ else s)
  split
  case isTrue hc =>
    obtain ⟨hp, -⟩ := Bool.and_eq_true_iff.mp hc
    exact h.resetWith (State.lt_six_of_present hp) 4 false
  case isFalse => exact h

theorem State.SeqHeld.execPeerReset (h : s.SeqHeld) (st req v : Nat) : ResSeqHeld (execPeerReset st req v s) := by
  refine h.onKey _ _ fun _ => ?_
  have hpartner : partner st < 6 := by
    unfold partner
    split <;> omega
  split
  · exact h.resetWith hpartner 3 true
  · exact h

theorem State.SeqHeld.execBootWarm (h : s.SeqHeld) (st req v : Nat) : ResSeqHeld (execBootWarm st req v s) :=
  h.bootCmd st req v 1 fun hst => h.resetWith hst 2 true

/-! ## The boot ROM (R681, R684) -/

theorem State.SeqHeld.bootFail (h : s.SeqHeld) (st code : Nat) : (s.bootFail st code).SeqHeld := by
  have hF := faultWhyBit_apart
  have hstage := h.keeps (keeps_wrFld (keeps_wrFld (.refl _ s) (sc st + SC.BOOT_STAT) 3 0 8) (sc st + SC.BOOT_STAT) 15 12 code)
  exact hstage.faultN_true (st - 2)

theorem State.SeqHeld.bootCold (h : s.SeqHeld) (st : Nat) (r : BootResult) : (s.bootCold st r).SeqHeld := by
  have hF := faultWhyBit_apart
  unfold State.bootCold
  cases s.hdrPick st with
  | none => exact h.bootFail st 1
  | some c =>
    dsimp -zeta only
    extract_lets s1 slot s2
    have k1 : Keeps faultWhyBit s s1 := keeps_bootHeader (.refl _ _) st c r
    have k2 : Keeps faultWhyBit s s2 := keeps_setBit k1 _ _
    split
    · exact (h.keeps k1).bootFail st 3
    · split
      · exact h.keeps (keeps_wrFld (keeps_loadImage k1 st slot) _ _ _ _)
      · split
        · exact h.keeps (keeps_wrFld (keeps_loadImage k2 st (1 - slot)) _ _ _ _)
        · exact (h.keeps k2).bootFail st 2

theorem State.SeqHeld.execBootRom (h : s.SeqHeld) (st : Nat) (r : BootResult) : ResSeqHeld (execBootRom st r s) := by
  have hF := faultWhyBit_apart
  unfold Machine.execBootRom
  extract_lets k
  show State.SeqHeld (if _ then s else _)
  split
  · exact h
  · split
    · split
      · exact h.keeps (keeps_wrFld (keeps_bootHeader (.refl _ _) st _ r) _ _ _ _)
      · exact (h.keeps (keeps_clrBit (.refl _ _) _ _)).bootCold st r
    · exact h.bootCold st r

/-- RETRY ends the steward's own boot failure, which is no reason of R703. -/
theorem State.SeqHeld.execBootRetry (h : s.SeqHeld) (st req v : Nat) : ResSeqHeld (execBootRetry st req v s) := by
  have hF := faultWhyBit_apart
  refine h.bootCmd st req v 3 fun hst => ?_
  extract_lets k
  split
  · exact h
  · exact (h.keeps (keeps_wrN (keeps_wrFld (keeps_wrFld (.refl _ _) k 3 0 1) k 15 12 0) _ 6)).faultN_false (by omega)

/-! ## READY (R685-R688) -/

theorem State.SeqHeld.readyGo (h : s.SeqHeld) (st : Nat) : (s.readyGo st).SeqHeld := by
  have hF := faultWhyBit_apart
  unfold State.readyGo
  extract_lets s1 s2 s4 s3
  have h1 : s1.SeqHeld := by
    refine State.SeqHeld.faultN_false ?_ (by decide)
    exact h
  have k2 : Keeps faultWhyBit s1 s2 := keeps_wrFld (keeps_updJn (.refl _ _) st _) _ 3 0 6
  have k4 : Keeps faultWhyBit s1 s4 := by
    simp only [s4]
    split
    · exact keeps_setLead k2 _
    · exact k2
  have k3 : Keeps faultWhyBit s1 s3 := by
    simp only [s3]
    split
    · split
      · exact keeps_wrFld (keeps_canGo (keeps_copyToPartner k4)) _ 3 0 7
      · exact k4
    · split
      · exact keeps_leadClaim k2 st
      · exact k2
  exact h1.keeps (keeps_upAll (keeps_forEach _ _ (fun u m ku => keeps_run ku _ fun w kw => keeps_execHeartbeatTx kw st m) k3))

theorem State.SeqHeld.execBootReady (h : s.SeqHeld) (st req v : Nat) : ResSeqHeld (execBootReady st req v s) := by
  have hF := faultWhyBit_apart
  refine h.bootCmd st req v 0 fun _ => ?_
  split
  · exact h
  · split
    · exact h.keeps (keeps_wrFld (.refl _ _) _ 3 0 5)
    · exact h.readyGo st

theorem State.SeqHeld.execPfWaitEnd (h : s.SeqHeld) (st high : Nat) : ResSeqHeld (execPfWaitEnd st high s) := by
  have hF := faultWhyBit_apart
  show State.SeqHeld (if _ then _ else s)
  split
  · exact (h.keeps (keeps_clrBit (.refl _ _) _ _)).readyGo st
  · exact h

/-! ## Clock loss, overtemperature, the end of final commit and SEQUENCE_FAULT (R47, R724, R569, R703) -/

theorem State.SeqHeld.execClockLoss (h : s.SeqHeld) (absent : Nat) : ResSeqHeld (execClockLoss absent s) := by
  have hF := faultWhyBit_apart
  unfold Machine.execClockLoss
  extract_lets tm s1
  have k1 : Keeps faultWhyBit s s1 := keeps_setTm (.refl _ _) _
  show State.SeqHeld (if _ then s else _)
  split
  · exact h
  · split
    · exact h.keeps k1
    · have hstatus := h.keeps (keeps_forEach s.dies (fun s d => s.setBit (tb d + TB.STATUS) 2) (fun u d ku => keeps_setBit ku _ _) k1)
      exact (hstatus.faultN_true 1).keeps (keeps_health (.refl _ _) _ _ _ _ _ _ _)

theorem State.SeqHeld.execClockRestore (h : s.SeqHeld) (present : Nat) : ResSeqHeld (execClockRestore present s) := by
  have hF := faultWhyBit_apart
  show State.SeqHeld (if _ then _ else s)
  split
  · exact (h.keeps (keeps_setTm (.refl _ _) _)).faultN_false (by decide)
  · exact h

theorem State.SeqHeld.execOvertempCritical (h : s.SeqHeld) (die : Nat) (temp : Int) (ns : Nat) :
    ResSeqHeld (execOvertempCritical die temp ns s) := by
  have hF := faultWhyBit_apart
  show State.SeqHeld (if _ then _ else s)
  split
  · exact ((h.keeps (keeps_wrFld (.refl _ _) (tempKey die) 15 0 _)).faultN_true 6).keeps (keeps_finalEnter (.refl _ _))
  · exact h

theorem State.SeqHeld.execFinalDone (h : s.SeqHeld) (st : Nat) (shst : Bool) : ResSeqHeld (execFinalDone st shst s) := by
  have hF := faultWhyBit_apart
  unfold Machine.execFinalDone
  extract_lets hus s1 hs s2
  have k1 : Keeps faultWhyBit s s1 := keeps_huEvent (keeps_wrN (keeps_wrN (.refl _ _) _ _) _ _) st 5
  have k2 : Keeps faultWhyBit s s2 := keeps_wrFld (keeps_mk_parked (keeps_updHu k1 st _) _) _ 2 0 5
  show State.SeqHeld (if _ then s else _)
  split
  · exact h
  · split
    · exact (h.keeps (keeps_forEach s2.stewards (fun s x => s.wrFld (sc x + SC.BOOT_STAT) 3 0 9)
        (fun u x ku => keeps_wrFld ku _ 3 0 9) k2)).faultN_true 4
    · exact h.keeps k2

/-- SEQUENCE_FAULT gives the reason in every state. -/
theorem State.seqHeld_faultN (s : State) : (s.faultN 5 true).SeqHeld :=
  (s.mem_faultWhy_faultN 5 5 true).mpr (.inl ⟨rfl, rfl⟩)

/-! ## Writes of any place: registers with the commands behind them, memory, windows, cells, the host (R14, R450) -/

/-- A written register runs its commands: those of BOOT_CMD and PEER_RESET of FO_CMD give and take other reasons. -/
theorem State.SeqHeld.writeWord (h : s.SeqHeld) (key req v : Nat) : (s.writeWord key req v).SeqHeld := by
  have hF := faultWhyBit_apart
  unfold State.writeWord
  extract_lets die o
  split
  · split
    · exact h.keeps (keeps_writeKp (.refl _ _) _ _ _ _)
    · exact h.keeps (keeps_writeReg (.refl _ _) _ _ _)
  split
  · refine State.SeqHeld.runs _ h ?_
    simp only [List.forall_mem_cons]
    exact ⟨fun u hu => hu.execBootReady die req v, fun u hu => hu.execBootWarm die req v,
      fun u hu => hu.res (keeps_execBootShutdown (.refl _ _) die req v), fun u hu => hu.execBootRetry die req v, nofun⟩
  split
  · exact h.run (h.res (keeps_execRootCommit (.refl _ _) die req v))
  split
  · refine State.SeqHeld.runs _ h ?_
    simp only [List.forall_mem_cons]
    exact ⟨fun u hu => hu.res (keeps_execPlannedStop (.refl _ _) die req v), fun u hu => hu.execPeerReset die req v,
      fun u hu => hu.res (keeps_execCancelStop (.refl _ _) die req v), nofun⟩
  split
  · refine h.run ?_
    split
    · exact h.res (keeps_execMbRelease (.refl _ _) die req v)
    · exact h.res (keeps_execMbRequest (.refl _ _) die req v)
  split
  · exact h.keeps (keeps_wrN (.refl _ _) _ _)
  split
  · exact h.run (h.res (keeps_execDoorbell (.refl _ _) die _ _))
  · exact h.keeps (keeps_writeReg (.refl _ _) _ _ _)

theorem State.SeqHeld.writeAt (f : State → Nat → Place) (w : Writer) : ∀ (fuel a : Nat) (bs : List Byte) {s : State}, s.SeqHeld →
    (State.writeAt f w fuel a bs s).1.SeqHeld
  | 0, _, _, _, h => h
  | fuel + 1, a, bs, s, h => by
    have hF := faultWhyBit_apart
    unfold State.writeAt
    split
    · exact h
    extract_lets k4 step
    have hs : step.1.SeqHeld := by
      simp only [step]
      split
      · exact h
      · split
        · exact h.writeWord _ _ _
        · exact h
      · exact h
      · split
        · exact h
        · exact h.keeps (keeps_setBytes rfl _ _ _ (.refl _ _))
      · exact h
      · exact h
      · split
        · exact h
        · split
          · exact h.run (h.res (keeps_execPushWrite (.refl _ _) _ _ _ _))
          · split
            · exact h.run (h.res (keeps_execPushEnd (.refl _ _) _ _ _ _))
            · exact h.run (h.res (keeps_execBasinBadAccess (.refl _ _) _ _))
      · exact h.run (h.res (keeps_execDirectWrite (.refl _ _) _ _ _))
      · exact h.keeps (keeps_emit (.refl _ _) _ _ _)
      · exact h.keeps (keeps_hostWrite (.refl _ _) _ _)
    split
    · exact hs
    · exact State.SeqHeld.writeAt f w fuel _ _ hs

theorem State.SeqHeld.writeSized (h : s.SeqHeld) (f : State → Nat → Place) (w : Writer) (a : Nat) (size : AccSize) (v : Nat) :
    (s.writeSized f w a size v).1.SeqHeld := by
  unfold State.writeSized
  split
  · exact h
  split
  · extract_lets lo
    have hlo : lo.1.SeqHeld := h.writeAt f w 4 a _
    split
    · exact hlo
    · exact hlo.writeAt f w 4 (a + 4) _
  · exact h.writeAt f w _ a _

/-! ## Accesses of requesters, with a rival's beside them (R35) -/

theorem State.SeqHeld.regWriteOne (h : s.SeqHeld) (die off req : Nat) (size : AccSize) (v : Nat) :
    (s.regWriteOne die off req size v).SeqHeld := by
  have hF := faultWhyBit_apart
  unfold State.regWriteOne
  extract_lets s0 r
  have h0 : s0.SeqHeld := by
    simp only [s0]
    split
    · exact h.keeps (keeps_cutLines (.refl _ _) _ _ _ _)
    · exact h
  exact (h0.writeSized _ _ off size v).keeps (keeps_endAccess (.refl _ _) _ _ _ _)

theorem State.SeqHeld.regReadOne (h : s.SeqHeld) (die off req : Nat) (size : AccSize) : (s.regReadOne die off req size).SeqHeld := by
  have hF := faultWhyBit_apart
  exact h.keeps (keeps_regReadOne (.refl _ _) die off req size)

theorem State.SeqHeld.rivalAccess (h : s.SeqHeld) (die : Nat) (r : Rival) : (s.rivalAccess die r).SeqHeld := by
  unfold State.rivalAccess
  split
  · exact h.regWriteOne die _ _ _ _
  · exact h.regReadOne die _ _ _

theorem State.SeqHeld.withRival (h : s.SeqHeld) (die off req : Nat) (rival : Option Rival) {own : State → State}
    (hown : ∀ u : State, u.SeqHeld → (own u).SeqHeld) : (s.withRival die off req rival own).SeqHeld := by
  unfold State.withRival
  split
  · exact hown s h
  next r =>
    split
    · exact hown s h
    extract_lets bFirst s1 t
    have h1 : s1.SeqHeld := h
    split
    · exact (hown s1 h1).rivalAccess die r
    · exact hown _ (h1.rivalAccess die r)

theorem State.SeqHeld.execRegWrite (h : s.SeqHeld) (die off req : Nat) (size : AccSize) (v : Nat) (rival : Option Rival) :
    ResSeqHeld (execRegWrite die off req size v rival s) := by
  have hF := faultWhyBit_apart
  unfold Machine.execRegWrite
  split
  · exact h.keeps (keeps_respond (keeps_semBoth (.refl _ _) _ _ _ _ _ _) _)
  · exact h.withRival die off req rival fun u hu => hu.regWriteOne die off req size v

theorem State.SeqHeld.execRcRead (h : s.SeqHeld) (die off req : Nat) (size : AccSize) (rival : Option Rival) :
    ResSeqHeld (execRcRead die off req size rival s) :=
  h.withRival die off req rival fun _ hu => hu.regReadOne die off req size

theorem State.SeqHeld.execSysbusAccess (h : s.SeqHeld) (die addr size : Nat) (write : Bool) (data : Nat) :
    ResSeqHeld (execSysbusAccess die addr size write data s) := by
  have hF := faultWhyBit_apart
  unfold Machine.execSysbusAccess
  extract_lets lvl sz f w rd
  show State.SeqHeld (if _ then s else _)
  split
  · exact h
  split
  · exact h
  split
  · exact h
  split
  · exact h.writeSized f _ addr sz data
  split
  · exact h
  · exact h.keeps (keeps_respond (keeps_readSized (.refl _ _) f 0x20 addr sz) _)

/-! ## Writes over a bridge (R439, R446) -/

theorem State.SeqHeld.takeWr (h : s.SeqHeld) (die m : Nat) (w : PendWr) : (s.takeWr die m w).SeqHeld := by
  have hF := faultWhyBit_apart
  unfold State.takeWr
  extract_lets f a s1 r
  have hcut := h.keeps (keeps_cutLines (keeps_updMod (keeps_sendTxn (.refl _ _) _ _ _ _) _ _ _ : Keeps _ s s1) f.1 f.2 a w.data.length)
  exact (hcut.writeAt _ _ _ w.addr w.data).keeps (keeps_endAccess (.refl _ _) _ _ _ _)

theorem State.SeqHeld.resend (h : s.SeqHeld) (die m : Nat) : (s.resend die m).SeqHeld := by
  have hF := faultWhyBit_apart
  exact State.SeqHeld.forEach (fun u w hu => hu.takeWr _ _ w) _ (h.keeps (keeps_updMod (.refl _ _) die m _))

theorem State.SeqHeld.execOdvelWrRx (h : s.SeqHeld) (die m req addr : Nat) (data : List Byte) :
    ResSeqHeld (execOdvelWrRx die m req addr data s) := by
  have hF := faultWhyBit_apart
  unfold Machine.execOdvelWrRx
  extract_lets f a w
  show State.SeqHeld (if _ then s else _)
  split
  · exact h
  split
  · exact h.keeps (keeps_accessFault (.refl _ _) _ _ _)
  split
  · exact h
  split
  · exact h.keeps (keeps_updMod (.refl _ _) _ _ _)
  split
  · exact h
  · exact h.takeWr die m w

theorem State.SeqHeld.execModuleRetrainDone (h : s.SeqHeld) (die m width : Nat) : ResSeqHeld (execModuleRetrainDone die m width s) := by
  have hF := faultWhyBit_apart
  unfold Machine.execModuleRetrainDone
  extract_lets f
  show State.SeqHeld (if _ then _ else s)
  split
  · have hup := h.keeps (keeps_wrFld (keeps_wrFld (keeps_modEnter (keeps_modEnter (.refl _ s) die m 3) f.1 f.2 3)
      (modKey die m BR.MOD_STAT) 22 16 width) (modKey f.1 f.2 BR.MOD_STAT) 22 16 width)
    exact ((hup.resend die m).resend f.1 f.2).keeps (keeps_endReads (keeps_endReads (.refl _ _) die m 3) f.1 f.2 3)
  · exact h

/-! ## Writes of a barge channel (R374, R388, R391) -/

theorem State.SeqHeld.writeRuns (f : State → Nat → Place) (w : Writer) : ∀ (l : List (Nat × List Byte)) {s : State}, s.SeqHeld →
    (State.writeRuns f w l s).1.SeqHeld
  | [], _, h => h
  | (a, bs) :: l, s, h => by
    have hr := h.writeAt f w bs.length a bs
    unfold State.writeRuns
    extract_lets r
    split
    · exact hr
    · exact State.SeqHeld.writeRuns f w l hr

theorem State.SeqHeld.tryStep (h : s.SeqHeld) (die e c : Nat) (m : MoveRun) (err : PopErr) : (s.tryStep die e c m err).1.SeqHeld := by
  have hF := faultWhyBit_apart
  unfold State.tryStep
  extract_lets w0 ds st n k base dst f w dry r out
  have hr : r.1.SeqHeld := h.keeps (keeps_stepData (.refl _ _) die m n err)
  split
  · exact h
  split
  · exact h
  · exact (State.SeqHeld.writeRuns f w _ hr).keeps (keeps_stepDone (.refl _ _) die e c m n _ out)

theorem State.SeqHeld.stepFailed (h : s.SeqHeld) (die e c : Nat) (m : MoveRun) (status : Nat) : (s.stepFailed die e c m status).SeqHeld := by
  have hF := faultWhyBit_apart
  exact h.keeps (keeps_stepFailed (.refl _ _) die e c m status)

theorem State.SeqHeld.execMoveStep (h : s.SeqHeld) (die e : Nat) (err : PopErr) : ResSeqHeld (execMoveStep die e err s) := by
  unfold Machine.execMoveStep
  cases (s.eng die e).active with
  | none => exact h
  | some c =>
    dsimp -zeta only
    extract_lets v
    cases v.mv with
    | none => exact h
    | some m =>
      dsimp -zeta only
      extract_lets r
      show State.SeqHeld (if _ then s else _)
      split
      · exact h
      split
      · exact h.tryStep die e c m err
      · exact h.stepFailed die e c m _

theorem State.SeqHeld.execWriteRetry (h : s.SeqHeld) (die e c : Nat) (err : PopErr) : ResSeqHeld (execWriteRetry die e c err s) := by
  have hF := faultWhyBit_apart
  unfold Machine.execWriteRetry
  extract_lets v s1
  split
  next t m _ _ =>
    extract_lets r
    have h1 : s1.SeqHeld := h.keeps (keeps_updChan (keeps_inc (.refl _ _) _) die e c _)
    show State.SeqHeld (if _ then s else _)
    split
    · exact h
    split
    · exact h1.tryStep die e c m err
    · exact h1.stepFailed die e c m _
  · exact h

theorem State.SeqHeld.execAbortComplete (h : s.SeqHeld) (die e c : Nat) : ResSeqHeld (execAbortComplete die e c s) := by
  have hF := faultWhyBit_apart
  unfold Machine.execAbortComplete
  cases (s.chan die e c).abort with
  | none => exact h
  | some quiet =>
    dsimp -zeta only
    extract_lets k resid sw loc f w s1
    have h1 : s1.SeqHeld := by
      simp only [s1]
      split
      · exact h
      split
      · exact h.writeAt f _ 32 sw _
      · exact h.keeps (keeps_inc (.refl _ _) _)
    show State.SeqHeld (if _ then s else _)
    split
    · exact h
    · exact h1.keeps (keeps_abortQuiet (.refl _ _) die e c)

/-! ## Every command -/

/-- No command but RESET_ASSERT takes the reason of R703: one that does not touch the reasons leaves them all, and each of the others
gives or takes other ones only. -/
theorem State.SeqHeld.exec (h : s.SeqHeld) (c : Instr) (hc : c ≠ .resetAssert) : ResSeqHeld (exec c s) := by
  by_cases htouch : Field.faultWhy ∈ c.touches
  · cases c with
    | resetAssert => exact absurd rfl hc
    | regWrite die off req size v rival => exact h.execRegWrite die off req size v rival
    | rcRead die off req size rival => exact h.execRcRead die off req size rival
    | sysbusAccess die addr size write data => exact h.execSysbusAccess die addr size write data
    | odvelWrRx die m req addr data => exact h.execOdvelWrRx die m req addr data
    | moduleRetrainDone die m width => exact h.execModuleRetrainDone die m width
    | moveStep die e err => exact h.execMoveStep die e err
    | writeRetry die e c err => exact h.execWriteRetry die e c err
    | abortComplete die e c => exact h.execAbortComplete die e c
    | railReset die rail mv ns => exact h.execRailReset die rail mv ns
    | ndmreset die => exact h.execNdmreset die
    | peerReset st req v => exact h.execPeerReset st req v
    | bootWarm st req v => exact h.execBootWarm st req v
    | bootRom st r => exact h.execBootRom st r
    | bootRetry st req v => exact h.execBootRetry st req v
    | bootReady st req v => exact h.execBootReady st req v
    | pfWaitEnd st high => exact h.execPfWaitEnd st high
    | clockLoss absent => exact h.execClockLoss absent
    | clockRestore present => exact h.execClockRestore present
    | overtempCritical die temp ns => exact h.execOvertempCritical die temp ns
    | finalDone st shst => exact h.execFinalDone st shst
    | sequenceFault => exact s.seqHeld_faultN
    | _ => exact absurd (decide_eq_true htouch) Bool.false_ne_true
  · have hF : faultWhyBit &&& fieldMask c.touches = 0 := fieldMask_apart .faultWhy c.touches htouch
    exact h.res (keeps_exec (.refl _ _) c hF)

end

end Sys2Proof.Machine

namespace Sys2Proof
open Machine
set_option Elab.async false

/-- Settles O7: SEQUENCE_FAULT adds its reason and emits the pin only where no reason held it; every other command keeps the reason
(`State.SeqHeld.exec`); RESET_ASSERT leaves the one reason of a part in reset. -/
theorem supplySequenceFault : Obligations.SupplySequenceFault := by
  have hcontains (s : State) : s.faultWhy.contains 5 = true ↔ s.SeqHeld := List.contains_iff_mem
  refine ⟨fun s => ⟨_, rfl, (hcontains _).mpr s.seqHeld_faultN, State.faultN_true_frame s 5⟩, fun c s t he hc hs => ?_,
    fun s => ⟨_, rfl, ?_⟩⟩
  · have ht := ((hcontains s).mp hs).exec c hc
    rw [he] at ht
    exact (hcontains t).mpr ht
  · split <;> rfl

end Sys2Proof
